-- ==== Sys2Proof/Word.lean ====
section
/-!
DEFINITION. The word of the machine (24 bits, rule R15), the two timing dies, the memory cell list and the exact
fractions in which the angle clock works.
-/

namespace Sys2Proof

/-- A 24-bit register or SRAM word (rules R13, R15). -/
abbrev Word := BitVec 24

/-- The two timing dies (rule R26). -/
inductive HalfId where
  | a | b
  deriving DecidableEq, Repr

/-- The other timing die. -/
def HalfId.peer : HalfId → HalfId
  | .a => .b
  | .b => .a

/-- The number the spec gives a half in its layouts: 0 half A, 1 half B. -/
def HalfId.num : HalfId → Nat
  | .a => 0
  | .b => 1

/-- Words kept by address: addresses strictly rising, and no entry equal to what an unlisted address reads as. -/
abbrev Mem := List (Nat × Word)

/-- An exact quotient of whole numbers, as the predictor forms them (rule R90); `den` is 0 only where nothing is held. -/
structure Frac where
  num : Int
  den : Nat
  deriving DecidableEq, Repr

end Sys2Proof
end

