-- ==== Sys2Proof/Syntax.lean ====
section
/-!
DEFINITION. The syntax of commands: one constructor per row of the operation table, with the row's operands. What the
engine, the sensors, the supplies and the links do to the module (an edge, a measured current, a frame) comes as the
operands of the row that carries it.
-/

namespace Sys2Proof.Machine

/-- The bus masters of a half (rule R26). -/
inductive Master where
  | hip | scp | anp | sup | spc
  /-- the link block, for host register accesses and as the host endpoint of mailboxes (rules R338, R357) -/
  | link
  deriving DecidableEq, Repr

/-- An output with a trip latch, in module numbering (chapter 7). -/
inductive Output where
  | inj (n : Fin 24)
  | bhs (k : Fin 12)
  | bst (j : Fin 2)
  | hb (b : Fin 8)
  | evo (e : Fin 48)
  deriving DecidableEq, Repr

/-- A stage whose segments are measured in a shot: the channel's low side, that of the odd channel of a paralleled pair, or the BHS
(rules R204, R221). -/
inductive SegStage where
  | low | partner | bhs
  deriving DecidableEq, Repr

/-- The segment measured in a shot's hold phases (rule R221). -/
structure SegMeas where
  stage : SegStage
  seg   : Fin 9
  /-- its on-resistance, 0.01 mΩ per step -/
  ohms  : BitVec 16
  deriving DecidableEq, Repr

/-- What the drive die and the current converter measured of a shot by its end (rules R208, R211, R221). -/
structure ShotMeas where
  /-- first local minimum of the slope of the current after the shot's start, 0.1 µs per step -/
  tOpen  : Option (BitVec 12)
  /-- largest change of slope of the low-side voltage after quench start, 0.1 µs per step -/
  tClose : Option (BitVec 12)
  /-- energy drawn from VBST during the boost, in µJ -/
  energy : Word
  /-- energy drawn from VBAT through the channel's high side, in µJ (rule R459) -/
  batt   : Word
  /-- the segment measured in this shot; a shot without a quiet hold phase measures none -/
  seg    : Option SegMeas
  deriving DecidableEq, Repr

/-- A training set as received: FLAGS and REV (rules R344, R380). -/
structure TrainSet where
  flags : BitVec 8
  rev   : BitVec 8
  deriving DecidableEq, Repr

/-- How a frame ended on the line: every symbol valid with EOF in its place, and the four CRC bytes, [31:24] first (rules R349, R351). -/
structure FrameEnd where
  clean : Bool
  crc   : BitVec 32
  deriving DecidableEq, Repr

/-- Where an injector's current lies against the band of the hold phase it enters (rule R191). -/
inductive BandPlace where
  | above | within | below
  deriving DecidableEq, Repr

/-- A boost that times out: the current against 1 A, and its place in the band of the hold phase that follows (rule R194). -/
structure BoostEnd where
  below1A : Bool
  place   : BandPlace
  deriving DecidableEq, Repr

/-- A channel that enters a hold phase, and its current's place in that phase's band (rules R191, R194). -/
structure HoldEntry where
  chan  : Fin 24
  place : BandPlace
  deriving DecidableEq, Repr

/-- A channel that requests its boost switch, and whether its partner requests it in the same ANGCLK (rule R201). -/
structure BoostAsk where
  chan  : Fin 24
  simul : Bool
  deriving DecidableEq, Repr

/-- An output, and the current its switch carried for 1 µs, in steps of OCTH (rule R215). -/
structure Overcurrent where
  out  : Output
  amps : BitVec 10
  deriving DecidableEq, Repr

/-- Where a conversion's input lay against the code range (rules R230, R242). -/
inductive Range where
  | inside | below | above
  deriving DecidableEq, Repr

/-- What the Manchester coding of a PSI5 frame looked like: its bit time in nanoseconds, and whether a bit was invalid (rules R326,
R327). -/
structure PsiLine where
  bitNs   : BitVec 16
  invalid : Bool
  deriving DecidableEq, Repr

/-- What comes with the code of a current converter's conversion: where its input lay against the code range, and the code of
the half-bridge current monitor that may replace the input (rules R225, R230). -/
structure Reading where
  range   : Range
  monitor : BitVec 16
  deriving DecidableEq, Repr

/-- What the self-tests of BOOT found: a cask slot not yet recorded as faulty (its channel), comparators and the comparators'
spares, converters, and cores by role, SPC last (rules R125, R243, R275, R332). -/
structure SelfTest where
  slots : List (Fin 64)
  comps : List (Fin 32)
  spares : List (Fin 4)
  convs : List (Fin 4)
  cores : List (Fin 4)
  deriving DecidableEq, Repr


end Sys2Proof.Machine

namespace Sys2Proof

open Sys2Proof.Machine


/-- The commands and events of the block: one constructor per row of the operation table, in its order. -/
inductive Instr where
  /-- REGISTER_WRITE (rule R16). -/
  | registerWrite (h : HalfId) (m : Master) (a v : Word)
  /-- CROSS_HALF_ACCESS (rule R48). -/
  | crossHalfAccess (h : HalfId) (m : Master) (write : Bool) (off : BitVec 22) (v : Word)
  /-- BRIDGE_WORD_DELIVER (rule R28). -/
  | bridgeWordDeliver (h : HalfId)
  /-- BRIDGE_CREDIT_WAIT_FAULT (rule R28). -/
  | bridgeCreditWaitFault (h : HalfId)
  /-- HEARTBEAT_SEND (rule R29). -/
  | heartbeatSend (h : HalfId)
  /-- HEARTBEAT_RECEIVE (rule R418). -/
  | heartbeatReceive (h : HalfId)
  /-- BRIDGE_LOST (rule R29). -/
  | bridgeLost (h : HalfId)
  /-- BRIDGE_RETURN (rule R427). -/
  | bridgeReturn
  /-- TSC_XDIFF_MEASURE (rule R43). -/
  | tscXdiffMeasure (h : HalfId) (e : Fin 5)
  /-- FE_TIMING_EDGE (rule R51). -/
  | feTimingEdge (n : Fin 6) (rising : Bool)
  /-- VR_ARM (rule R52). -/
  | vrArm (n : Fin 6) (level : BitVec 16)
  /-- VR_PEAK_TIMEOUT (rule R52). -/
  | vrPeakTimeout (n : Fin 6)
  /-- FE_FAULT_DETECT (rule R472). -/
  | feFaultDetect (n : Fin 6) (short : Bool)
  /-- GLITCH_FILTER_PASS (rule R53). -/
  | glitchFilterPass (h : HalfId) (t : Fin 2) (cam : Bool) (held : Bool)
  /-- DIRECTION_PULSE_DECODE (rule R54). -/
  | directionPulseDecode (h : HalfId) (t : Fin 2) (trailing : Bool)
  /-- EDGE_ACCEPTANCE (rule R89). -/
  | edgeAcceptance (h : HalfId) (t : Fin 2)
  /-- CAM_EDGE (rule R68). -/
  | camEdge (h : HalfId) (t : Fin 2)
  /-- STALL_TIMEOUT (rule R78). -/
  | stallTimeout (h : HalfId) (t : Fin 2)
  /-- WTK_ENABLE (rule R59). -/
  | wtkEnable (h : HalfId) (t : Fin 2)
  /-- WTK_DISABLE (rule R67). -/
  | wtkDisable (h : HalfId) (t : Fin 2)
  /-- WTK_CLEAR_COUNTERS (rule R85). -/
  | wtkClearCounters (h : HalfId) (t : Fin 2)
  /-- ANGLE_SOURCE_SELECT (rule R56). -/
  | angleSourceSelect (h : HalfId) (t : Fin 2)
  /-- ANGLE_MESSAGE_RECEIVE (rule R83). -/
  | angleMessageReceive (h : HalfId)
  /-- HALT_REACHED (rule R92). -/
  | haltReached (h : HalfId)
  /-- HOLD_END (rule R93). -/
  | holdEnd (h : HalfId)
  /-- CATCHUP_END (rule R95). -/
  | catchupEnd (h : HalfId)
  /-- ANGLE_CLOCK_ENABLE (rule R99). -/
  | angleClockEnable (h : HalfId)
  /-- ANGLE_CLOCK_DISABLE (rule R113). -/
  | angleClockDisable (h : HalfId)
  /-- ANGLE_CLEAR_COUNTERS (rule R113). -/
  | angleClearCounters (h : HalfId)
  /-- ANG_NOW_READ (rule R113). -/
  | angNowRead (h : HalfId)
  /-- BROADCAST_MESSAGE_USE (rule R110). -/
  | broadcastMessageUse (h : HalfId)
  /-- FOLLOWER_STALL_TIMEOUT (rule R111). -/
  | followerStallTimeout (h : HalfId)
  /-- CYCLE_START (rule R100). -/
  | cycleStart (h : HalfId)
  /-- MODE_LATCH (rule R162). -/
  | modeLatch (h : HalfId)
  /-- SERVICE_DECISION_RECEIVE (rule R488). -/
  | serviceDecisionReceive (h : HalfId)
  /-- MODE_SHADOW_WRITE_DONE (rule R411). -/
  | modeShadowWriteDone (h : HalfId)
  /-- TRIM_LATCH (rule R157). -/
  | trimLatch (h : HalfId) (c : Fin 24)
  /-- STATIC_INSERT (rule R179). -/
  | staticInsert (h : HalfId)
  /-- EVI_GO (rule R124). -/
  | eviGo (h : HalfId) (p : Fin 2) (chan : Fin 64) (tag : BitVec 10)
  /-- INSERTION_CLASSIFY (rule R121). -/
  | insertionClassify (h : HalfId) (p : Fin 2) (parity : Bool)
  /-- ENTRY_ARM (rule R129). -/
  | entryArm (h : HalfId) (chan : Fin 64) (tag : BitVec 10)
  /-- ENTRY_EXECUTE (rule R134). -/
  | entryExecute (h : HalfId) (chan : Fin 64) (tag : BitVec 10)
  /-- EVO_PULSE_RETURN (rule R131). -/
  | evoPulseReturn (h : HalfId) (line : Fin 24)
  /-- DEFERRED_EXECUTE (rule R161). -/
  | deferredExecute (h : HalfId) (chan : Fin 64) (tag : BitVec 10)
  /-- CANCEL_TAG (rule R136). -/
  | cancelTag (h : HalfId) (chan : Fin 64) (tag : BitVec 10)
  /-- CANCEL_ALL (rule R136). -/
  | cancelAll (h : HalfId) (chan : Fin 64)
  /-- EVC_CLEAR_COUNTERS (rule R136). -/
  | evcClearCounters (h : HalfId) (chan : Fin 64)
  /-- CHANNEL_DISABLE (rule R136). -/
  | channelDisable (h : HalfId) (chan : Fin 64)
  /-- NOTICE_POP (rule R138). -/
  | noticePop (h : HalfId)
  /-- TSC_LO_READ (rule R141). -/
  | tscLoRead (h : HalfId)
  /-- TSC_XDIFF_READ (rule R141). -/
  | tscXdiffRead (h : HalfId)
  /-- EVC_HEADT_LO_READ (rule R141). -/
  | evcHeadtLoRead (h : HalfId) (chan : Fin 64)
  /-- ADM_GO (rule R151). -/
  | admGo (h : HalfId) (chan : Fin 64) (tag : BitVec 10)
  /-- ADMISSION_SAMPLE (rule R152). -/
  | admissionSample (h : HalfId)
  /-- ADMISSION_INSERT_WRITE (rule R486). -/
  | admissionInsertWrite (h : HalfId) (parity : Bool)
  /-- ADM_CLEAR_COUNTERS (rule R167). -/
  | admClearCounters (h : HalfId)
  /-- STOP_TIME_EXPIRY (rule R144). -/
  | stopTimeExpiry (h : HalfId)
  /-- CERTIFICATE_RECHECK (rule R150). -/
  | certificateRecheck (h : HalfId)
  /-- ACTIVATION_RESULT (rule R187). -/
  | activationResult (h : HalfId)
  /-- PEER_DEACTIVATE_RECEIVE (rule R184). -/
  | peerDeactivateReceive (h : HalfId)
  /-- PEAK_REACHED (rule R191). -/
  | peakReached (n : Fin 24)
  /-- BOOST_TIMEOUT (rule R194). -/
  | boostTimeout (n : Fin 24) (x : BoostEnd)
  /-- PEAK_HOLD_END (rule R194). -/
  | peakHoldEnd (x : HoldEntry)
  /-- HOLD1_END (rule R194). -/
  | hold1End (x : HoldEntry)
  /-- QUENCH_START (rule R195). -/
  | quenchStart (n : Fin 24)
  /-- SHOT_END (rule R196). -/
  | shotEnd (n : Fin 24) (x : ShotMeas)
  /-- QUENCH_TIMEOUT (rule R196). -/
  | quenchTimeout (n : Fin 24) (x : ShotMeas)
  /-- SHOT_TRIP_END (rule R217). -/
  | shotTripEnd (n : Fin 24) (x : ShotMeas)
  /-- BHS_REQUEST (rule R201). -/
  | bhsRequest (x : BoostAsk)
  /-- BHS_RELEASE (rule R201). -/
  | bhsRelease (n : Fin 24)
  /-- BHS_CHANGEOVER_END (rule R201). -/
  | bhsChangeoverEnd (k : Fin 12)
  /-- GRANT_SEEN (rule R203). -/
  | grantSeen (n : Fin 24)
  /-- CHOP_THRESHOLD_CROSS (rule R191). -/
  | chopThresholdCross (n : Fin 24) (upper : Bool)
  /-- CHOP_TIMING_EXPIRY (rule R191). -/
  | chopTimingExpiry (n : Fin 24) (blanking : Bool)
  /-- DRIFT_LEARN_UPDATE (rule R213). -/
  | driftLearnUpdate (h : HalfId) (k : Fin 12)
  /-- SEQ_RESULT_POP (rule R212). -/
  | seqResultPop (h : HalfId) (k : Fin 12)
  /-- SEQ_CLEAR_OVERFLOW (rule R227). -/
  | seqClearOverflow (h : HalfId) (k : Fin 12)
  /-- SEQ_FORCE_WRITE (rule R227). -/
  | seqForceWrite (h : HalfId) (k : Fin 12) (v : Word)
  /-- TRIP_OVERCURRENT (rule R215). -/
  | tripOvercurrent (x : Overcurrent)
  /-- TRIP_OVERTEMP (rule R215). -/
  | tripOvertemp (o : Output)
  /-- TRIP_MAXON (rule R220). -/
  | tripMaxon (n : Fin 24)
  /-- TRIP_EXTERNAL (rule R215). -/
  | tripExternal (o : Output) (tl : Fin 8)
  /-- TRIP_SOFTWARE (rule R215). -/
  | tripSoftware (h : HalfId) (o : Output)
  /-- DRV_SWTRIP_ALL (rule R215). -/
  | drvSwtripAll (h : HalfId)
  /-- TRIP_OVERVOLTAGE (rule R207). -/
  | tripOvervoltage (j : Fin 2)
  /-- TRIP_STUCK (rule R224). -/
  | tripStuck (b : Fin 8)
  /-- VBAT_UNDERVOLTAGE (rule R216). -/
  | vbatUndervoltage
  /-- VBAT_UV_RELEASE (rule R216). -/
  | vbatUvRelease
  /-- TRIP_LATCH_CLEAR (rule R218). -/
  | tripLatchClear (h : HalfId) (o : Output) (holds : Bool)
  /-- CONVERSION_RESULT (rule R229). -/
  | conversionResult (h : HalfId) (k : Fin 2) (pos : Fin 16) (code : BitVec 16) (r : Reading)
  /-- WINDOW_POINT_PASS (rule R236). -/
  | windowPointPass (h : HalfId) (k : Fin 2) (slot : Fin 4)
  /-- WINDOW_POINT_SAMPLE (rule R237). -/
  | windowPointSample (h : HalfId) (k : Fin 2) (code : BitVec 16) (r : Range)
  /-- WINDOW_STOP (rule R240). -/
  | windowStop (h : HalfId) (k : Fin 2) (slot : Fin 4)
  /-- PCV_CLEAR_COUNTERS (rule R246). -/
  | pcvClearCounters (h : HalfId) (k : Fin 4)
  /-- WINDOW_RECORD_POP (rule R240). -/
  | windowRecordPop (h : HalfId) (k : Fin 2)
  /-- SPARE_CONVERTER_CHECK (rule R243). -/
  | spareConverterCheck (h : HalfId) (diff : BitVec 16)
  /-- CONVERTER_FORCE_REPLACE (rule R246). -/
  | converterForceReplace (h : HalfId) (k : Fin 8)
  /-- ATU_RECORD_WRITE (rule R256). -/
  | atuRecordWrite (h : HalfId) (ctx : Fin 8)
  /-- ATU_RECORD_READ (rule R254). -/
  | atuRecordRead (h : HalfId) (c : Fin 24)
  /-- COMBUSTION_FEEDBACK (rule R258). -/
  | combustionFeedback (h : HalfId) (c : Fin 24)
  /-- CRANK_MISFIRE_JUDGE (rule R260). -/
  | crankMisfireJudge (h : HalfId) (c : Fin 24)
  /-- COMBUSTION_REPORT_SEND (rule R263). -/
  | combustionReportSend (h : HalfId) (c : Fin 24)
  /-- ATU_CLEAR_BASELINE (rule R264). -/
  | atuClearBaseline (h : HalfId)
  /-- ATU_CLEAR_COUNTS (rule R264). -/
  | atuClearCounts (h : HalfId)
  /-- COMPARATOR_DECISION_CHANGE (rule R266). -/
  | comparatorDecisionChange (h : HalfId) (k : Fin 32) (v : BitVec 12)
  /-- BLANKING_END (rule R268). -/
  | blankingEnd (h : HalfId) (k : Fin 32)
  /-- BLANKING_GUARD_TIMEOUT (rule R269). -/
  | blankingGuardTimeout (h : HalfId) (k : Fin 32)
  /-- COMPARATOR_ENABLE (rule R273). -/
  | comparatorEnable (h : HalfId) (k : Fin 32) (v : BitVec 12)
  /-- COMPARATOR_DISABLE (rule R274). -/
  | comparatorDisable (h : HalfId) (k : Fin 32)
  /-- COMPARATOR_THRESHOLD_WRITE (rule R274). -/
  | comparatorThresholdWrite (h : HalfId) (k : Fin 32) (hys : Bool) (v : Word)
  /-- CMP_CAPLO_READ (rule R271). -/
  | cmpCaploRead (h : HalfId) (k : Fin 32)
  /-- COMPARATOR_FORCE_REPLACE (rule R275). -/
  | comparatorForceReplace (h : HalfId) (k : Fin 32)
  /-- PWM_ENABLE (rule R279). -/
  | pwmEnable (h : HalfId) (u : Fin 16)
  /-- PWM_DISABLE (rule R280). -/
  | pwmDisable (h : HalfId) (u : Fin 16)
  /-- PWM_GSTART (rule R279). -/
  | pwmGstart (h : HalfId) (mask : BitVec 16)
  /-- PWM_LOAD (rule R283). -/
  | pwmLoad (h : HalfId) (u : Fin 16)
  /-- PWM_UPDATE_WRITE (rule R284). -/
  | pwmUpdateWrite (h : HalfId) (u : Fin 16) (which : Fin 7) (v : Word)
  /-- PWM_WRAP (rule R279). -/
  | pwmWrap (h : HalfId) (u : Fin 16)
  /-- PWM_COMPARE_MATCH (rule R281). -/
  | pwmCompareMatch (h : HalfId) (u : Fin 16)
  /-- PWM_FILTER_EDGE_OUT (rule R287). -/
  | pwmFilterEdgeOut (h : HalfId) (u : Fin 16) (b : Bool)
  /-- PWM_DEAD_TIME_END (rule R289). -/
  | pwmDeadTimeEnd (h : HalfId) (u : Fin 16) (b : Bool)
  /-- PWM_REFRESH_START (rule R288). -/
  | pwmRefreshStart (h : HalfId) (u : Fin 16)
  /-- PWM_REFRESH_END (rule R288). -/
  | pwmRefreshEnd (h : HalfId) (u : Fin 16)
  /-- PWM_TRIP_SET (rule R290). -/
  | pwmTripSet (h : HalfId) (u : Fin 16)
  /-- PWM_TRIP_SWSET (rule R290). -/
  | pwmTripSwset (h : HalfId) (u : Fin 16)
  /-- PWM_TRIP_CLEAR (rule R291). -/
  | pwmTripClear (h : HalfId) (u : Fin 16)
  /-- PWM_FREEZE (rule R292). -/
  | pwmFreeze (h : HalfId)
  /-- PWM_UNFREEZE (rule R292). -/
  | pwmUnfreeze (h : HalfId)
  /-- TIMER_MATCH (rule R297). -/
  | timerMatch (k : Fin 16)
  /-- TIMER_OVERFLOW (rule R297). -/
  | timerOverflow (k : Fin 16)
  /-- TIMER_LINK_ACTION (rule R299). -/
  | timerLinkAction (k : Fin 16)
  /-- TIMER_START (rule R295). -/
  | timerStart (h : HalfId) (k : Fin 16)
  /-- TIMER_STOP (rule R294). -/
  | timerStop (h : HalfId) (k : Fin 16)
  /-- TIMER_RESET (rule R295). -/
  | timerReset (h : HalfId) (k : Fin 16)
  /-- TIMER_ARM (rule R298). -/
  | timerArm (h : HalfId) (k : Fin 16)
  /-- TIMER_COMPARE_WRITE (rule R300). -/
  | timerCompareWrite (h : HalfId) (k : Fin 16) (v : Word)
  /-- TIMER_CAPTURE (rule R304). -/
  | timerCapture (k : Fin 16)
  /-- TMR_CNT_READ (rule R302). -/
  | tmrCntRead (k : Fin 16)
  /-- TIMER_OWNERSHIP_WRITE (rule R296). -/
  | timerOwnershipWrite (h : HalfId) (high : Bool) (v : Word)
  /-- PE_ENABLE (rule R312). -/
  | peEnable (h : HalfId) (e : Fin 8)
  /-- PE_DISABLE (rule R313). -/
  | peDisable (h : HalfId) (e : Fin 8)
  /-- PE_GSTART (rule R312). -/
  | peGstart (h : HalfId) (mask : BitVec 8)
  /-- PE_PROGRAM_CHANGE (rule R314). -/
  | peProgramChange (h : HalfId) (e : Fin 8) (off : BitVec 7) (v : Word)
  /-- PE_IDLE (rule R317). -/
  | peIdle (h : HalfId) (e : Fin 8)
  /-- PE_BR (rule R317). -/
  | peBr (h : HalfId) (e : Fin 8) (pins : BitVec 4)
  /-- PE_LOOP (rule R317). -/
  | peLoop (h : HalfId) (e : Fin 8)
  /-- PE_LDI (rule R317). -/
  | peLdi (h : HalfId) (e : Fin 8)
  /-- PE_LDX (rule R317). -/
  | peLdx (h : HalfId) (e : Fin 8)
  /-- PE_MOVR (rule R317). -/
  | peMovr (h : HalfId) (e : Fin 8) (pins : BitVec 4)
  /-- PE_TIME (rule R317). -/
  | peTime (h : HalfId) (e : Fin 8)
  /-- PE_TWAIT (rule R320). -/
  | peTwait (h : HalfId) (e : Fin 8)
  /-- PE_PWAIT (rule R321). -/
  | pePwait (h : HalfId) (e : Fin 8) (pins : BitVec 4)
  /-- PE_FWAIT (rule R323). -/
  | peFwait (h : HalfId) (e : Fin 8)
  /-- PE_FLAG (rule R323). -/
  | peFlag (h : HalfId) (e : Fin 8)
  /-- PE_TRGW (rule R322). -/
  | peTrgw (h : HalfId) (e : Fin 8)
  /-- PE_SOUT (rule R318). -/
  | peSout (h : HalfId) (e : Fin 8)
  /-- PE_SIN (rule R318). -/
  | peSin (h : HalfId) (e : Fin 8) (pins : BitVec 4)
  /-- PE_QGET (rule R317). -/
  | peQget (h : HalfId) (e : Fin 8)
  /-- PE_QPUT (rule R317). -/
  | peQput (h : HalfId) (e : Fin 8)
  /-- PE_ILLEGAL_INSTRUCTION (rule R317). -/
  | peIllegalInstruction (h : HalfId) (e : Fin 8)
  /-- PE_STALL_COMPLETE (rule R316). -/
  | peStallComplete (h : HalfId) (e : Fin 8) (pins : BitVec 4)
  /-- PE_SEND_QUEUE_WRITE (rule R319). -/
  | peSendQueueWrite (h : HalfId) (e : Fin 8) (v : Word)
  /-- PE_RECEIVE_QUEUE_POP (rule R319). -/
  | peReceiveQueuePop (h : HalfId) (e : Fin 8)
  /-- PE_FLAG_SET (rule R323). -/
  | peFlagSet (h : HalfId) (mask : BitVec 16)
  /-- PE_FLAG_CLEAR (rule R323). -/
  | peFlagClear (h : HalfId) (mask : BitVec 16)
  /-- PE_TLO_READ (rule R328). -/
  | peTloRead (h : HalfId) (e : Fin 8)
  /-- SENT_FRAME_RECEIVE (rule R325). -/
  | sentFrameReceive (h : HalfId) (e : Fin 8) (opens cal : Word) (periods : List Word)
  /-- PSI5_FRAME_RECEIVE (rule R327). -/
  | psi5FrameReceive (h : HalfId) (e : Fin 8) (opens : Word) (data : List Bool) (chk : BitVec 3) (line : PsiLine)
  /-- PSI5_SYNC_PULSE (rule R326). -/
  | psi5SyncPulse (h : HalfId) (e : Fin 8) (begins : Bool)
  /-- CORE_WATCHDOG_TIMEOUT (rule R332). -/
  | coreWatchdogTimeout (h : HalfId) (r : Fin 3)
  /-- ROLE_TAKEOVER (rule R332). -/
  | roleTakeover (h : HalfId) (r : Fin 3)
  /-- SUP_LOCKSTEP_FAULT (rule R330). -/
  | supLockstepFault (h : HalfId)
  /-- SRAM_SINGLE_BIT_ERROR (rule R334). -/
  | sramSingleBitError (h : HalfId) (b : Fin 8) (row : BitVec 16)
  /-- SRAM_DOUBLE_BIT_ERROR (rule R334). -/
  | sramDoubleBitError (h : HalfId) (b : Fin 8) (row : BitVec 16) (who : Master) (code : Bool)
  /-- MBX_POST (rule R337). -/
  | mbxPost (h : HalfId) (m : Fin 16) (who : Master) (v : Word)
  /-- MBX_TAKE (rule R337). -/
  | mbxTake (h : HalfId) (m : Fin 16) (who : Master)
  /-- MBX_CROSSED (rule R340). -/
  | mbxCrossed (h : HalfId) (m : Fin 16)
  /-- CAN_FRAME_RECEIVE (rule R341). -/
  | canFrameReceive (h : HalfId) (n : Fin 2) (w1 w2 : Word) (data : List Word)
  /-- LINK_TRAINING_SET_RECEIVE (rule R346). -/
  | linkTrainingSetReceive (h : HalfId) (port : Option (Fin 2)) (ts : TrainSet) (sent : Bool)
  /-- LINK_TRAIN_TIMEOUT (rule R346). -/
  | linkTrainTimeout (h : HalfId) (port : Option (Fin 2))
  /-- LINK_CODE_VIOLATION (rule R347). -/
  | linkCodeViolation (h : HalfId) (port : Option (Fin 2)) (since : BitVec 32)
  /-- LINK_DOWN (rule R348). -/
  | linkDown (h : HalfId)
  /-- LINK_RESET_COMMAND (rule R347). -/
  | linkResetCommand (h : HalfId) (who : Master)
  /-- QHL_CLEAR_COUNTERS (rule R359). -/
  | qhlClearCounters (h : HalfId) (who : Master)
  /-- QHL_FRAME_RECEIVE (rule R351). -/
  | qhlFrameReceive (h : HalfId) (e : FrameEnd) (h0 : Word) (pay : List Word)
  /-- QHL_MBX_FRAME (rule R354). -/
  | qhlMbxFrame (h : HalfId)
  /-- QHL_BULK_FRAME (rule R358). -/
  | qhlBulkFrame (h : HalfId)
  /-- QHL_REG_RD (rule R357). -/
  | qhlRegRd (h : HalfId)
  /-- QHL_REG_WR (rule R357). -/
  | qhlRegWr (h : HalfId)
  /-- QHL_ACK (rule R351). -/
  | qhlAck (h : HalfId) (lseq : BitVec 8)
  /-- QHL_NAK (rule R351). -/
  | qhlNak (h : HalfId) (lseq : BitVec 8)
  /-- QHL_CREDIT (rule R354). -/
  | qhlCredit (h half : HalfId) (cls : BitVec 3) (limit : BitVec 16)
  /-- QHL_INIT (rule R353). -/
  | qhlInit (h : HalfId) (rev : BitVec 8) (served : BitVec 2)
  /-- QHL_BIND (rule R355). -/
  | qhlBind (h half : HalfId)
  /-- QHL_REJECT (rule R353). -/
  | qhlReject (h : HalfId) (reason : BitVec 4) (lseq : BitVec 8)
  /-- QHL_RESET (rule R347). -/
  | qhlReset (h : HalfId)
  /-- QHL_RETRANSMIT_TIMEOUT (rule R351). -/
  | qhlRetransmitTimeout (h : HalfId)
  /-- QHL_CREDIT_SEND (rule R354). -/
  | qhlCreditSend (h half : HalfId) (cls : Fin 4)
  /-- QHL_OUTBOUND_FRAME (rule R355). -/
  | qhlOutboundFrame (h half : HalfId) (c : Fin 4) (n : Fin 129)
  /-- NOP (rule R371). -/
  | nop (h : HalfId) (secure : Bool) (seq : BitVec 10) (pay : List Word)
  /-- IDENT (rule R371). -/
  | ident (h : HalfId) (secure : Bool) (seq : BitVec 10) (pay : List Word)
  /-- STATUS (rule R371). -/
  | status (h : HalfId) (secure : Bool) (seq : BitVec 10) (pay : List Word)
  /-- NOTICE_MASK (rule R371). -/
  | noticeMask (h : HalfId) (secure : Bool) (seq : BitVec 10) (pay : List Word)
  /-- TIME (rule R371). -/
  | time (h : HalfId) (secure : Bool) (seq : BitVec 10) (pay : List Word)
  /-- ECHO (rule R371). -/
  | echo (h : HalfId) (secure : Bool) (seq : BitVec 10) (pay : List Word)
  /-- STREAM_ABORT (rule R370). -/
  | streamAbort (h : HalfId) (secure : Bool) (seq : BitVec 10) (pay : List Word)
  /-- NOTICE_REPLAY (rule R376). -/
  | noticeReplay (h : HalfId) (secure : Bool) (seq : BitVec 10) (pay : List Word)
  /-- RESET (rule R371). -/
  | reset (h : HalfId) (secure : Bool) (seq : BitVec 10) (pay : List Word)
  /-- SEC_CHALLENGE (rule R368). -/
  | secChallenge (h : HalfId) (secure : Bool) (seq : BitVec 10) (pay : List Word)
  /-- SEC_UNLOCK (rule R368). -/
  | secUnlock (h : HalfId) (secure : Bool) (seq : BitVec 10) (pay : List Word)
  /-- SEC_CLOSE (rule R369). -/
  | secClose (h : HalfId) (secure : Bool) (seq : BitVec 10) (pay : List Word)
  /-- SEC_LOCKOUT_END (rule R369). -/
  | secLockoutEnd (h : HalfId)
  /-- CAN_TX (rule R371). -/
  | canTx (h : HalfId) (secure : Bool) (seq : BitVec 10) (pay : List Word)
  /-- CAN_FILTER (rule R371). -/
  | canFilter (h : HalfId) (secure : Bool) (seq : BitVec 10) (pay : List Word)
  /-- CFG_OPEN (rule R404). -/
  | cfgOpen (h : HalfId) (secure : Bool) (seq : BitVec 10) (pay : List Word)
  /-- CFG_COMMIT (rule R406). -/
  | cfgCommit (h : HalfId) (secure : Bool) (seq : BitVec 10) (pay : List Word)
  /-- CFG_ABORT (rule R408). -/
  | cfgAbort (h : HalfId) (secure : Bool) (seq : BitVec 10) (pay : List Word)
  /-- CFG_STATUS (rule R371). -/
  | cfgStatus (h : HalfId) (secure : Bool) (seq : BitVec 10) (pay : List Word)
  /-- SCHED_LOAD_BEGIN (rule R371). -/
  | schedLoadBegin (h : HalfId) (secure : Bool) (seq : BitVec 10) (pay : List Word)
  /-- SCHED_LOAD_END (rule R185). -/
  | schedLoadEnd (h : HalfId) (secure : Bool) (seq : BitVec 10) (pay : List Word)
  /-- SCHED_ACTIVATE (rule R186). -/
  | schedActivate (h : HalfId) (secure : Bool) (seq : BitVec 10) (pay : List Word)
  /-- SCHED_DEACTIVATE (rule R188). -/
  | schedDeactivate (h : HalfId) (secure : Bool) (seq : BitVec 10) (pay : List Word)
  /-- SCHED_STATUS (rule R371). -/
  | schedStatus (h : HalfId) (secure : Bool) (seq : BitVec 10) (pay : List Word)
  /-- SCHED_LIST (rule R371). -/
  | schedList (h : HalfId) (secure : Bool) (seq : BitVec 10) (pay : List Word)
  /-- SCHED_DELETE (rule R371). -/
  | schedDelete (h : HalfId) (secure : Bool) (seq : BitVec 10) (pay : List Word)
  /-- EVT_SUBMIT (rule R371). -/
  | evtSubmit (h : HalfId) (secure : Bool) (seq : BitVec 10) (pay : List Word) (parity : BitVec 15)
  /-- EVT_CANCEL (rule R371). -/
  | evtCancel (h : HalfId) (secure : Bool) (seq : BitVec 10) (pay : List Word)
  /-- TRIM_SET (rule R155). -/
  | trimSet (h : HalfId) (secure : Bool) (seq : BitVec 10) (pay : List Word)
  /-- TRIM_READ (rule R371). -/
  | trimRead (h : HalfId) (secure : Bool) (seq : BitVec 10) (pay : List Word)
  /-- CREDIT_READ (rule R371). -/
  | creditRead (h : HalfId) (secure : Bool) (seq : BitVec 10) (pay : List Word)
  /-- PHASE_SET (rule R144). -/
  | phaseSet (h : HalfId) (secure : Bool) (seq : BitVec 10) (pay : List Word)
  /-- MODE_SET (rule R373). -/
  | modeSet (h : HalfId) (secure : Bool) (seq : BitVec 10) (pay : List Word)
  /-- REG_READ (rule R371). -/
  | regRead (h : HalfId) (secure : Bool) (seq : BitVec 10) (pay : List Word)
  /-- REG_WRITE (rule R371). -/
  | regWrite (h : HalfId) (secure : Bool) (seq : BitVec 10) (pay : List Word)
  /-- LOG_READ (rule R371). -/
  | logRead (h : HalfId) (secure : Bool) (seq : BitVec 10) (pay : List Word)
  /-- LOG_CLEAR (rule R371). -/
  | logClear (h : HalfId) (secure : Bool) (seq : BitVec 10) (pay : List Word)
  /-- TALLY_READ (rule R465). -/
  | tallyRead (h : HalfId) (secure : Bool) (seq : BitVec 10) (pay : List Word)
  /-- FW_BEGIN (rule R371). -/
  | fwBegin (h : HalfId) (secure : Bool) (seq : BitVec 10) (pay : List Word)
  /-- FW_END (rule R371). -/
  | fwEnd (h : HalfId) (secure : Bool) (seq : BitVec 10) (pay : List Word)
  /-- FW_SELECT (rule R371). -/
  | fwSelect (h : HalfId) (secure : Bool) (seq : BitVec 10) (pay : List Word)
  /-- SECVER_SET (rule R372). -/
  | secverSet (h : HalfId) (secure : Bool) (seq : BitVec 10) (pay : List Word)
  /-- KEY_ADVANCE (rule R372). -/
  | keyAdvance (h : HalfId) (secure : Bool) (seq : BitVec 10) (pay : List Word)
  /-- COMMAND_UNKNOWN (rule R371). -/
  | commandUnknown (h : HalfId) (secure : Bool) (code : BitVec 7) (seq : BitVec 10) (pay : List Word)
  /-- COMMAND_TRUNCATED (rule R362). -/
  | commandTruncated (h : HalfId) (secure : Bool) (hdr : Word) (pay : List Word)
  /-- LONG_COMMAND_COMPLETE (rule R367). -/
  | longCommandComplete (h : HalfId)
  /-- EVENT_NOTICE_SEND (rule R375). -/
  | eventNoticeSend (h : HalfId)
  /-- FAULT_NOTICE_SEND (rule R434). -/
  | faultNoticeSend (h : HalfId)
  /-- LOG_REPORT (rule R433). -/
  | logReport (h : HalfId)
  /-- LOG_CMD_CLEAR (rule R436). -/
  | logCmdClear (h : HalfId) (who : Master)
  /-- LOG_ENTRY_READ (rule R436). -/
  | logEntryRead (h : HalfId) (i : BitVec 8)
  /-- HLM_CLEAR_COUNTERS (rule R436). -/
  | hlmClearCounters (h : HalfId) (who : Master)
  /-- HELM_CLAIM_TIMEOUT (rule R420). -/
  | helmClaimTimeout (h : HalfId)
  /-- PEER_DOWN (rule R419). -/
  | peerDown (h : HalfId) (down : Bool)
  /-- DISPUTE_EVALUATION (rule R423). -/
  | disputeEvaluation (h : HalfId)
  /-- HELM_MESSAGE_RECEIVE (rule R423). -/
  | helmMessageReceive (h : HalfId)
  /-- CLASS4_REQUEST_RECEIVE (rule R428). -/
  | class4RequestReceive (h : HalfId)
  /-- SUPERVISOR_WATCHDOG_TIMEOUT (rule R429). -/
  | supervisorWatchdogTimeout (h : HalfId)
  /-- SUPERVISOR_WATCHDOG_KICK (rule R429). -/
  | supervisorWatchdogKick (h : HalfId) (who : Master)
  /-- AON_POWER_ON (rule R448). -/
  | aonPowerOn (timers : List (Fin 16)) (spares : List (Fin 2))
  /-- SUPPLY_BELOW_THRESHOLD (rule R450). -/
  | supplyBelowThreshold (die : Fin 3)
  /-- RESET_N_LOW (rule R448). -/
  | resetNLow
  /-- JTAG_RESET (rule R448). -/
  | jtagReset (h : HalfId)
  /-- REFCLK_LOSS (rule R445). -/
  | refclkLoss
  /-- HALF_RESET (rule R449). -/
  | halfReset (h : HalfId)
  /-- RESET_RELEASE (rule R450). -/
  | resetRelease (h : HalfId) (helmpre sastart : Bool)
  /-- PLL_LOCK (rule R446). -/
  | pllLock (h : HalfId) (pll : Fin 4)
  /-- PLL_LOCK_LOSS (rule R446). -/
  | pllLockLoss (h : HalfId) (pll : Fin 4)
  /-- FIRMWARE_VERIFY (rule R331). -/
  | firmwareVerify (h : HalfId)
  /-- BOOT_PEER_WAIT_TIMEOUT (rule R452). -/
  | bootPeerWaitTimeout (h : HalfId) (test : SelfTest)
  /-- BOOT_SELF_TEST_COMPLETE (rule R452). -/
  | bootSelfTestComplete (h : HalfId) (test : SelfTest)
  /-- STANDALONE_START (rule R413). -/
  | standaloneStart (flash : List (BitVec 8))
  /-- AONCLK_MEASURE (rule R447). -/
  | aonclkMeasure (err : BitVec 16)
  /-- LADDER_DESCENT (rule R440). -/
  | ladderDescent (h : HalfId)
  /-- KEY_IN_CHANGE (rule R443). -/
  | keyInChange (level : Bool)
  /-- WAKE_EDGE_COUNT (rule R443). -/
  | wakeEdgeCount (n : Fin 6) (edges : BitVec 8)
  /-- LADDER_WAKE_COMPLETE (rule R439). -/
  | ladderWakeComplete (h : HalfId)
  /-- DRV_POWER_UP (rule R442). -/
  | drvPowerUp
  /-- THERMAL_SAMPLE (rule R460). -/
  | thermalSample (h : HalfId) (r : Fin 22) (t : BitVec 8) (uj : Word)
  /-- TALLY_COMMIT (rule R462). -/
  | tallyCommit (h : HalfId) (steps : BitVec 8)
  /-- TALLY_WORD_READ (rule R465). -/
  | tallyWordRead (h : HalfId) (r : Fin 22) (energy : Bool)
  /-- EUL_LANE_FAIL (rule R381). -/
  | eulLaneFail (h : HalfId) (p : Fin 2)
  /-- EUL_LINK_DOWN (rule R387). -/
  | eulLinkDown (h : HalfId) (p : Fin 2)
  /-- EUL_WRAP_HEAL (rule R387). -/
  | eulWrapHeal (h : HalfId) (p : Fin 2)
  /-- EUL_FRAME_RECEIVE (rule R384). -/
  | eulFrameReceive (h : HalfId) (p : Fin 2) (e : FrameEnd) (w0 w1 w2 : Word) (pay : List Word) (tap : BitVec 6) (res : List (BitVec 24))
  /-- EUL_SYNC_RECEIVE (rule R386). -/
  | eulSyncReceive (h : HalfId)
  /-- EUL_PDREQ_RECEIVE (rule R383). -/
  | eulPdreqReceive (h : HalfId) (gap : BitVec 23)
  /-- EUL_PDRESP_RECEIVE (rule R385). -/
  | eulPdrespReceive (h : HalfId)
  /-- EUL_ANNOUNCE_RECEIVE (rule R389). -/
  | eulAnnounceReceive (h : HalfId)
  /-- EUL_ANGLE_RECEIVE (rule R390). -/
  | eulAngleReceive (h : HalfId)
  /-- EUL_SYNC_SEND (rule R385). -/
  | eulSyncSend (h : HalfId) (tap : BitVec 6)
  /-- EUL_PDELAY_MEASURE (rule R385). -/
  | eulPdelayMeasure (h : HalfId) (p : Fin 2) (tap : BitVec 6)
  /-- EUL_ANNOUNCE_SEND (rule R389). -/
  | eulAnnounceSend (h : HalfId) (angle : Bool)
  /-- EUL_MASTER_ELECT (rule R389). -/
  | eulMasterElect (h : HalfId) (angle : Bool)
  /-- EUL_HOLDOVER (rule R386). -/
  | eulHoldover (h : HalfId)
  /-- EUL_CLEAR_COUNTERS (rule R394). -/
  | eulClearCounters (h : HalfId)
  /-- EUL_FTLO_READ (rule R394). -/
  | eulFtloRead (h : HalfId)
  /-- CAN_TRANSMIT_COMPLETE (rule R341). -/
  | canTransmitComplete (h : HalfId) (n : Fin 2)
  /-- CAN_BUS_ERROR (rule R341). -/
  | canBusError (h : HalfId) (n : Fin 2) (tx heavy : Bool)
  /-- CAN_BUS_OFF_RECOVERY (rule R341). -/
  | canBusOffRecovery (h : HalfId) (n : Fin 2)
  /-- DRIVE_DIE_PARITY_ERROR (rule R428). -/
  | driveDieParityError (h : HalfId)
  deriving DecidableEq, Repr

end Sys2Proof
end

