-- ==== Sys2Proof/Decode.lean ====
section
/-!
DEFINITION. Words that spell commands: the operation table gives no row any bits, so no word spells one.
-/

namespace Sys2Proof

/-- The command a word spells by the bits of the table. No row has bits. -/
def decodeTableWord (_nbits _w : Nat) : Option Instr := none

end Sys2Proof
end

