-- ==== Sys2Proof/Config.lean ====
section
/-!
DEFINITION. What an implementation fixes and the spec does not state: free values, as constants without a body.
-/

namespace Sys2Proof

/-- A value the spec does not state. Nothing constrains it; a step that uses one advances `Block.fresh` (log entry 5). -/
opaque Config.freeWord : Nat → Word

/-- An AONCLK edge falls into this ANGCLK, by the number of ticks and free values drawn before: the ratio and the phase of
the two clocks are not stated to the tick (rules R38, R447, log entry 5). -/
opaque Config.aonEdge : Nat → Bool

/-- The 32 nonce bytes of a SEC_CHALLENGE, by the number of free values drawn before (rule R368, log entry 6). -/
opaque Config.nonceByte : Nat → Nat → BitVec 8

/-- The SHA-256 of a public key equals the host-authority key hash in one-time-programmable memory (rule R368, log entry 6). -/
opaque Config.keyHashOk : List Word → Bool

/-- A signature verifies over the SHA-256 of the bytes it covers, with a key: covered words, key, signature (rules R368,
R415, log entry 6). -/
opaque Config.signatureOk : List Word → List Word → List Word → Bool

/-- The firmware image in a slot verifies: the hash of the key it carries is that of the key position, and its signature is
good (rule R331, log entry 6). -/
opaque Config.fwVerifies : Nat → List Word → Bool

/-- Security version and version that a firmware image carries; the spec gives the image no layout (log entry 6). -/
opaque Config.fwSecver : List Word → BitVec 8
opaque Config.fwVersion : List Word → Word

/-- Half B owns a cylinder under the bases in force in half A and half B: the spec says that ownership is set by configuration,
and gives no register or header word for it (rule R31, log entry 10). -/
opaque Config.ownedByB : Nat → List Word → List Word → Bool

/-- The bases in force in half A and half B assign a cylinder of a half (true: half B) an injector channel of the other half, which
rule R31 refuses; the spec gives no register or header word for the assignment (log entry 10). -/
opaque Config.foreignInjector : Bool → List Word → List Word → Bool

/-- Where in the microsecond after the stall time the stall timer of a tracker fires, in ticks modulo 200, by half, tracker and
timestamp of the last accepted edge: the spec gives the interval alone (rule R78, log entry 91). -/
opaque Config.stallPhase : Bool → Nat → Nat → Nat

/-- The synchroniser of a trip latch takes its third clock: by output (INJ 0 to 23, then EVO) and the timestamp at which the latch
was set (rule R217, log entry 113). -/
opaque Config.latchSync : Nat → Nat → Bool

/-- The serial number of the module (IDENT, rule R371). -/
opaque Config.serial : BitVec 48

/-- The 4-bit CRC of a SENT fast frame over nibbles (rule R324); the spec names the standard and not its polynomial (log entry 7). -/
opaque Config.sentCrc4 : List Nat → Nat

/-- The 6-bit CRC of an enhanced serial message over its other bits, in the order received (rule R324, log entry 7). -/
opaque Config.sentCrc6 : List Nat → Nat

end Sys2Proof
end

