-- ==== Sys2Proof/Machine/RegMap.lean ====
section
/-!
DEFINITION. The register map of the QTU-6424: every register the chapters of the spec list, with its base address,
its strides, the bits each access code of rule R16 covers and the reset word of its Reset column (rules R15, R44-R46),
and every named field of it. The two dies' copies of a half register lie 0x40_0000 apart (rule R15).
-/

namespace Sys2Proof.Machine

/-- A register, or a uniform array of registers, under the name the spec gives it. -/
inductive Reg where
  | FE_CFG | FE_STAT | WTK_CTRL | WTK_WIN | WTK_STALL | WTK_AUX | WTK_DIRW | WTK_TABN
  | WTK_XCFG | WTK_STAT | WTK_POS | WTK_TANG | WTK_LASTP | WTK_CNT | WTK_ERR | WTK_CLR
  | WTK_RING | WTK_XCHK | WTK_GWIN | WTK_CRK0 | WTK_CRK1 | WTK_CAM | WTK_RNG0 | WTK_RNG1
  | WTK_ASEL | ANG_CTRL | ANG_PRED | ANG_RFMAX | ANG_LRN | ANG_FCFG | ANG_FSTALL | ANG_CYL
  | ANG_NOW | ANG_FRAC | ANG_TSL | ANG_STEPI | ANG_STEPF | ANG_HALT | ANG_STAT | ANG_ERR
  | ANG_LASTJ | ANG_CNT | ANG_CLR | ANG_PREDT | ANG_TDC | ANG_PROF | ANG_GEO | TSC_LO
  | TSC_HI | TSC_XDIFF | TSC_XDIFFH | TSC_XSTAT | EVC_CFG | EVC_LEAD | EVC_STAT | EVC_CMD
  | EVC_CMDRES | EVC_CNT | EVC_HEADT_LO | EVC_HEADT_HI | EVC_SLOT0 | EVC_SLOT1 | EVC_SLOT2 | EVC_SLOT3
  | EVI_W | EVI_GO | EVI_RES | EVN_W | EVN_POP | EVN_STAT | EVC_TOL | ADM_STAT
  | ADM_DWELL | ADM_MINAHEAD | ADM_CRH | ADM_MODEH | ADM_STOP | ADM_ENVN | ADM_ENVR | ADM_CENVN
  | ADM_CENVR | ADM_W | ADM_GO | ADM_RES | ADM_CNT | ADM_LASTR | ADM_ERR | ADM_CLR
  | ADM_CRED | DRV_ID | DRV_CTRL | DRV_STAT | DRV_TEMP | DRV_SWTRIP | INJ_CFG | INJ_MAX
  | INJ_STAT | INJ_TRIP | INJ_SEG | BHS_CFG | BHS_STAT | BHS_TRIP | BHS_SEG | BST_CFG
  | BST_STAT | BST_TRIP | HB_CFG | HB_GUARD | HB_STAT | HB_TRIP | EVO_CFG | EVO_STAT
  | SEQ_PW0 | SEQ_PW1 | SEQ_PW2 | SEQ_PW3 | SEQ_PW4 | SEQ_PW5 | SEQ_PW6 | SEQ_PW7
  | SEQ_CFG | SEQ_DLIM | SEQ_STAT | SEQ_DUSE | SEQ_R | SEQ_POP | SEQ_LRN | SEQ_FORCE
  | SEQ_BINT | SEQ_BUD | SEQ_BUSE | SEQ_LCFG | SEQ_VREF | PCV_CFG | PCV_STAT | PCV_ERR
  | PCV_CNT | PCV_CMD | PCV_WBUF | PCV_WLEN | PCV_WR | PCV_WPOP | PCV_SCAN | PCV_SCANN
  | PCV_CYL | PCV_CYLG | PCV_CPCFG | PCV_AINCFG | PCV_AINV | PCV_AINSTAT | PCV_SPARE | PCV_CHK
  | ATU_CFG | ATU_GAMMA | ATU_VD | ATU_MFIMEP | ATU_MFQ | ATU_RSTART | ATU_REND | ATU_PEG
  | ATU_PREF | ATU_REFG | ATU_REFO | ATU_FBG | ATU_MFSEG | ATU_MFTH | ATU_STAT | ATU_ERR
  | ATU_CLR | ATU_CPG | ATU_CPO | ATU_CYL | ATU_CA50T | ATU_FB | ATU_MFS | ATU_VOL
  | ATU_REC | CMP_CFG | CMP_TH | CMP_HYS | CMP_BLK | CMP_STAT | CMP_EVT | CMP_CAPLO
  | CMP_CAPHI | CMP_TLSTAT | CMP_SPARE | PWM_CTRL | PWM_PER | PWM_INIT | PWM_AON | PWM_AOFF
  | PWM_BON | PWM_BOFF | PWM_TAP | PWM_OVR | PWM_LOAD | PWM_DT | PWM_MINP | PWM_BS
  | PWM_TRIP | PWM_NOW | PWM_STAT | PWM_ERR | PWM_GSTART | PWM_GRUN | PWM_GFRZ | TMR_CFG
  | TMR_CMP | TMR_CTRL | TMR_CNT | TMR_HOLD | TMR_CAP | TMR_STAT | TMR_EVT | TMR_OWNL
  | TMR_OWNH | TMR_SPARE | PE_PROG | PE_CFG | PE_IRQ | PE_PROTO0 | PE_PROTO1 | PE_PIN
  | PE_STAT | PE_FSTAT | PE_ERR | PE_CNT | PE_SQ | PE_RQ | PE_RQPOP | PE_A
  | PE_B | PE_TLO | PE_THI | PE_TRG | PE_PINS | PE_SR | PE_FLAGS | PE_FSET
  | PE_FCLR | PE_GSTART | MBX_DATA | MBX_STAT | MBX_CFG | MBX_IEN | MBX_XTO | CAN_CTRL
  | CAN_NBT | CAN_DBT | CAN_STAT | QHL_BIND | QHL_STAT | QHL_ERR | QHL_CNT0 | QHL_CNT1
  | QHL_CNT2 | QHL_CMD | QHL_BULK | EUL_PCFG | EUL_PSTAT | EUL_PCNT0 | EUL_PCNT1 | EUL_NODE
  | EUL_PRI | EUL_TSTAT | EUL_ASTAT | EUL_FTLO | EUL_FTHI | EUL_OFFERR | EUL_ERR | EUL_CLR
  | EUL_PHCFG | EUL_PHOFF | EUL_PHWIN | EUL_PHN | EUL_PHSTAT | EUL_PHSLIP | HLM_CFG | HLM_STAT
  | HLM_DISP | HLM_CNT | HLM_ERR | HLM_CLR | LOG_STAT | LOG_WRAPS | LOG_CMD | LOG_LOSS
  | LOG_ENT | PWR_POL | PWR_STAT | PWR_STRAP | AON_FREQ | WAKE_CFG | WAKE_TH | WAKE_STAT
  | CRP_STAT | CRP_WDOG | CRP_LADDER | TAL_HDR | TAL_INFO | TAL_AGE | TAL_COMMITS | TAL_POL
  | TAL_CMD | TAL_RSW | TAL_RTC | TAL_REN | TAL_POOL | TAL_W0 | TAL_W1 | TAL_W2
  | TAL_W3 | TAL_W4 | TAL_W5 | TAL_W6 | TAL_W7
  deriving DecidableEq, Repr

/-- One row of the map. `perHalf`: the address is an offset inside a half (rule R15). `dims`: count and stride of each
index, outer first. `rw`, `w1c`, `wo`: the bits with those access codes (rule R16); every other bit is RO or reserved. -/
structure RegInfo where
  perHalf : Bool
  base    : Nat
  dims    : List (Nat × Nat)
  rw      : Nat
  w1c     : Nat
  wo      : Nat
  reset   : Nat
  deriving DecidableEq, Repr

/-- The map itself. -/
def Reg.info : Reg → RegInfo
  | .FE_CFG => ⟨false, 0x860000, [(6, 0x10)], 0x00fff3, 0x000000, 0x000000, 0x000a40⟩
  | .FE_STAT => ⟨false, 0x860001, [(6, 0x10)], 0x000000, 0x000000, 0x000000, 0x000000⟩
  | .WTK_CTRL => ⟨true, 0x200000, [(2, 0x1000)], 0xffffff, 0x000000, 0x000000, 0x401028⟩
  | .WTK_WIN => ⟨true, 0x200001, [(2, 0x1000)], 0xffffff, 0x000000, 0x000000, 0x60e1c2⟩
  | .WTK_STALL => ⟨true, 0x200002, [(2, 0x1000)], 0xffffff, 0x000000, 0x000000, 0x0f4240⟩
  | .WTK_AUX => ⟨true, 0x200003, [(2, 0x1000)], 0xffffff, 0x000000, 0x000000, 0x0240a0⟩
  | .WTK_DIRW => ⟨true, 0x200004, [(2, 0x1000)], 0x00ffff, 0x000000, 0x000000, 0x0034bc⟩
  | .WTK_TABN => ⟨true, 0x200005, [(2, 0x1000)], 0xff01ff, 0x000000, 0x000000, 0x000000⟩
  | .WTK_XCFG => ⟨true, 0x200006, [(2, 0x1000)], 0x00ffff, 0x000000, 0x000000, 0x000200⟩
  | .WTK_STAT => ⟨true, 0x200010, [(2, 0x1000)], 0x000000, 0x000000, 0x000000, 0x000000⟩
  | .WTK_POS => ⟨true, 0x200011, [(2, 0x1000)], 0x000000, 0x000000, 0x000000, 0x0001ff⟩
  | .WTK_TANG => ⟨true, 0x200012, [(2, 0x1000)], 0x000000, 0x000000, 0x000000, 0x000000⟩
  | .WTK_LASTP => ⟨true, 0x200013, [(2, 0x1000)], 0x000000, 0x000000, 0x000000, 0x000000⟩
  | .WTK_CNT => ⟨true, 0x200014, [(2, 0x1000)], 0x000000, 0x000000, 0x000000, 0x000000⟩
  | .WTK_ERR => ⟨true, 0x200015, [(2, 0x1000)], 0x000000, 0x0003fd, 0x000000, 0x000000⟩
  | .WTK_CLR => ⟨true, 0x200016, [(2, 0x1000)], 0x000000, 0x000000, 0xffffff, 0x000000⟩
  | .WTK_RING => ⟨true, 0x200017, [(2, 0x1000)], 0x000000, 0x000000, 0x000000, 0x000000⟩
  | .WTK_XCHK => ⟨true, 0x200018, [(2, 0x1000)], 0x000000, 0x000000, 0x000000, 0x000000⟩
  | .WTK_GWIN => ⟨true, 0x200020, [(2, 0x1000), (8, 0x1)], 0xffffff, 0x000000, 0x000000, 0x5dc1f4⟩
  | .WTK_CRK0 => ⟨true, 0x200100, [(2, 0x1000), (368, 0x2)], 0x7fffff, 0x000000, 0x000000, 0x000000⟩
  | .WTK_CRK1 => ⟨true, 0x200101, [(2, 0x1000), (368, 0x2)], 0xf80000, 0x000000, 0x000000, 0x000000⟩
  | .WTK_CAM => ⟨true, 0x200400, [(2, 0x1000), (64, 0x1)], 0xffffff, 0x000000, 0x000000, 0x000000⟩
  | .WTK_RNG0 => ⟨true, 0x200800, [(2, 0x1000), (1024, 0x2)], 0x000000, 0x000000, 0x000000, 0x000000⟩
  | .WTK_RNG1 => ⟨true, 0x200801, [(2, 0x1000), (1024, 0x2)], 0x000000, 0x000000, 0x000000, 0x000000⟩
  | .WTK_ASEL => ⟨true, 0x202000, [], 0x000005, 0x000000, 0x000000, 0x000000⟩
  | .ANG_CTRL => ⟨true, 0x210000, [], 0xfe0000, 0x000000, 0x000000, 0x060000⟩
  | .ANG_PRED => ⟨true, 0x210001, [], 0x0003ff, 0x000000, 0x000000, 0x000104⟩
  | .ANG_RFMAX => ⟨true, 0x210002, [], 0x00ffff, 0x000000, 0x000000, 0x000600⟩
  | .ANG_LRN => ⟨true, 0x210003, [], 0xffc000, 0x000000, 0x000000, 0x118000⟩
  | .ANG_FCFG => ⟨true, 0x210004, [], 0x00ffff, 0x000000, 0x000000, 0x0001f4⟩
  | .ANG_FSTALL => ⟨true, 0x210005, [], 0xffffff, 0x000000, 0x000000, 0x0f4240⟩
  | .ANG_CYL => ⟨true, 0x210006, [], 0x00001f, 0x000000, 0x000000, 0x000000⟩
  | .ANG_NOW => ⟨true, 0x210010, [], 0x000000, 0x000000, 0x000000, 0x000000⟩
  | .ANG_FRAC => ⟨true, 0x210011, [], 0x000000, 0x000000, 0x000000, 0x000000⟩
  | .ANG_TSL => ⟨true, 0x210012, [], 0x000000, 0x000000, 0x000000, 0x000000⟩
  | .ANG_STEPI => ⟨true, 0x210013, [], 0x000000, 0x000000, 0x000000, 0x000000⟩
  | .ANG_STEPF => ⟨true, 0x210014, [], 0x000000, 0x000000, 0x000000, 0x000000⟩
  | .ANG_HALT => ⟨true, 0x210015, [], 0x000000, 0x000000, 0x000000, 0x000000⟩
  | .ANG_STAT => ⟨true, 0x210016, [], 0x000000, 0x000000, 0x000000, 0x000000⟩
  | .ANG_ERR => ⟨true, 0x210017, [], 0x000000, 0x00007f, 0x000000, 0x000000⟩
  | .ANG_LASTJ => ⟨true, 0x210018, [], 0x000000, 0x000000, 0x000000, 0x000000⟩
  | .ANG_CNT => ⟨true, 0x210019, [], 0x000000, 0x000000, 0x000000, 0x000000⟩
  | .ANG_CLR => ⟨true, 0x21001a, [], 0x000000, 0x000000, 0xffffff, 0x000000⟩
  | .ANG_PREDT => ⟨true, 0x21001b, [], 0x000000, 0x000000, 0x000000, 0x000000⟩
  | .ANG_TDC => ⟨true, 0x210040, [(24, 0x1)], 0xffffff, 0x000000, 0x000000, 0x000000⟩
  | .ANG_PROF => ⟨true, 0x210200, [(192, 0x1)], 0x00ffff, 0x000000, 0x000000, 0x000000⟩
  | .ANG_GEO => ⟨true, 0x210400, [(368, 0x1)], 0x00ffff, 0x000000, 0x000000, 0x000000⟩
  | .TSC_LO => ⟨true, 0x300000, [], 0x000000, 0x000000, 0x000000, 0x000000⟩
  | .TSC_HI => ⟨true, 0x300001, [], 0x000000, 0x000000, 0x000000, 0x000000⟩
  | .TSC_XDIFF => ⟨true, 0x300002, [], 0x000000, 0x000000, 0x000000, 0x000000⟩
  | .TSC_XDIFFH => ⟨true, 0x300003, [], 0x000000, 0x000000, 0x000000, 0x000000⟩
  | .TSC_XSTAT => ⟨true, 0x300004, [], 0x000000, 0x000000, 0x000000, 0x000000⟩
  | .EVC_CFG => ⟨true, 0x220000, [(64, 0x80)], 0xfc1f00, 0x000000, 0x000000, 0x000000⟩
  | .EVC_LEAD => ⟨true, 0x220001, [(64, 0x80)], 0x00ffff, 0x000000, 0x000000, 0x000000⟩
  | .EVC_STAT => ⟨true, 0x220002, [(64, 0x80)], 0x000000, 0x000000, 0x000000, 0x000000⟩
  | .EVC_CMD => ⟨true, 0x220003, [(64, 0x80)], 0x000000, 0x000000, 0xffffff, 0x000000⟩
  | .EVC_CMDRES => ⟨true, 0x220004, [(64, 0x80)], 0x000000, 0x000000, 0x000000, 0x000000⟩
  | .EVC_CNT => ⟨true, 0x220005, [(64, 0x80)], 0x000000, 0x000000, 0x000000, 0x000000⟩
  | .EVC_HEADT_LO => ⟨true, 0x220006, [(64, 0x80)], 0x000000, 0x000000, 0x000000, 0x000000⟩
  | .EVC_HEADT_HI => ⟨true, 0x220007, [(64, 0x80)], 0x000000, 0x000000, 0x000000, 0x000000⟩
  | .EVC_SLOT0 => ⟨true, 0x220020, [(64, 0x80), (16, 0x4)], 0x000000, 0x000000, 0x000000, 0x000000⟩
  | .EVC_SLOT1 => ⟨true, 0x220021, [(64, 0x80), (16, 0x4)], 0x000000, 0x000000, 0x000000, 0x000000⟩
  | .EVC_SLOT2 => ⟨true, 0x220022, [(64, 0x80), (16, 0x4)], 0x000000, 0x000000, 0x000000, 0x000000⟩
  | .EVC_SLOT3 => ⟨true, 0x220023, [(64, 0x80), (16, 0x4)], 0x000000, 0x000000, 0x000000, 0x000000⟩
  | .EVI_W => ⟨true, 0x224000, [(2, 0x10), (3, 0x1)], 0xffffff, 0x000000, 0x000000, 0x000000⟩
  | .EVI_GO => ⟨true, 0x224003, [(2, 0x10)], 0x000000, 0x000000, 0xffffff, 0x000000⟩
  | .EVI_RES => ⟨true, 0x224004, [(2, 0x10)], 0x000000, 0x000000, 0x000000, 0x000000⟩
  | .EVN_W => ⟨true, 0x224100, [(4, 0x1)], 0x000000, 0x000000, 0x000000, 0x000000⟩
  | .EVN_POP => ⟨true, 0x224104, [], 0x000000, 0x000000, 0xffffff, 0x000000⟩
  | .EVN_STAT => ⟨true, 0x224105, [], 0x000000, 0x000000, 0x000000, 0x000000⟩
  | .EVC_TOL => ⟨true, 0x224200, [(16, 0x1)], 0xffffff, 0x000000, 0x000000, 0x000000⟩
  | .ADM_STAT => ⟨true, 0x230000, [], 0x000000, 0x000000, 0x000000, 0x100000⟩
  | .ADM_DWELL => ⟨true, 0x230001, [], 0x00ffff, 0x000000, 0x000000, 0x007530⟩
  | .ADM_MINAHEAD => ⟨true, 0x230002, [], 0x00ffff, 0x000000, 0x000000, 0x000320⟩
  | .ADM_CRH => ⟨true, 0x230003, [], 0xffffff, 0x000000, 0x000000, 0x0186a0⟩
  | .ADM_MODEH => ⟨true, 0x230004, [], 0x00ffff, 0x000000, 0x000000, 0x003c00⟩
  | .ADM_STOP => ⟨true, 0x230005, [], 0xffffff, 0x000000, 0x000000, 0x1e8480⟩
  | .ADM_ENVN => ⟨true, 0x230006, [], 0x000000, 0x000000, 0x000000, 0x000000⟩
  | .ADM_ENVR => ⟨true, 0x230007, [], 0x000000, 0x000000, 0x000000, 0x000000⟩
  | .ADM_CENVN => ⟨true, 0x230008, [], 0x003fff, 0x000000, 0x000000, 0x000000⟩
  | .ADM_CENVR => ⟨true, 0x230009, [], 0x00ffff, 0x000000, 0x000000, 0x000000⟩
  | .ADM_W => ⟨true, 0x230010, [(3, 0x1)], 0xffffff, 0x000000, 0x000000, 0x000000⟩
  | .ADM_GO => ⟨true, 0x230013, [], 0x000000, 0x000000, 0xffffff, 0x000000⟩
  | .ADM_RES => ⟨true, 0x230014, [], 0x000000, 0x000000, 0x000000, 0x000000⟩
  | .ADM_CNT => ⟨true, 0x230015, [], 0x000000, 0x000000, 0x000000, 0x000000⟩
  | .ADM_LASTR => ⟨true, 0x230016, [], 0x000000, 0x000000, 0x000000, 0x000000⟩
  | .ADM_ERR => ⟨true, 0x230017, [], 0x000000, 0x00000f, 0x000000, 0x000000⟩
  | .ADM_CLR => ⟨true, 0x230018, [], 0x000000, 0x000000, 0xffffff, 0x000000⟩
  | .ADM_CRED => ⟨true, 0x230100, [(64, 0x1)], 0x000000, 0x000000, 0x000000, 0x100000⟩
  | .DRV_ID => ⟨false, 0x800000, [], 0x000000, 0x000000, 0x000000, 0xd4c200⟩
  | .DRV_CTRL => ⟨false, 0x800001, [], 0x000001, 0x000000, 0x000000, 0x000000⟩
  | .DRV_STAT => ⟨false, 0x800002, [], 0x000000, 0x000000, 0x000000, 0x000000⟩
  | .DRV_TEMP => ⟨false, 0x800003, [], 0x000000, 0x000000, 0x000000, 0x000000⟩
  | .DRV_SWTRIP => ⟨false, 0x800004, [], 0x000000, 0x000000, 0xffffff, 0x000000⟩
  | .INJ_CFG => ⟨false, 0x810000, [(24, 0x10)], 0xffff00, 0x000000, 0x000000, 0x460000⟩
  | .INJ_MAX => ⟨false, 0x810001, [(24, 0x10)], 0x00ffff, 0x000000, 0x000000, 0x002710⟩
  | .INJ_STAT => ⟨false, 0x810002, [(24, 0x10)], 0x000000, 0x000000, 0x000000, 0x000000⟩
  | .INJ_TRIP => ⟨false, 0x810003, [(24, 0x10)], 0x000000, 0xc00000, 0x200000, 0x000000⟩
  | .INJ_SEG => ⟨false, 0x810004, [(24, 0x10)], 0x000000, 0x000000, 0x000000, 0x7f8000⟩
  | .BHS_CFG => ⟨false, 0x820000, [(12, 0x10)], 0xffff00, 0x000000, 0x000000, 0x840000⟩
  | .BHS_STAT => ⟨false, 0x820002, [(12, 0x10)], 0x000000, 0x000000, 0x000000, 0x000000⟩
  | .BHS_TRIP => ⟨false, 0x820003, [(12, 0x10)], 0x000000, 0xc00000, 0x200000, 0x000000⟩
  | .BHS_SEG => ⟨false, 0x820004, [(12, 0x10)], 0x000000, 0x000000, 0x000000, 0x7f8000⟩
  | .BST_CFG => ⟨false, 0x830000, [(2, 0x10)], 0xffff00, 0x000000, 0x000000, 0x006400⟩
  | .BST_STAT => ⟨false, 0x830002, [(2, 0x10)], 0x000000, 0x000000, 0x000000, 0x000000⟩
  | .BST_TRIP => ⟨false, 0x830003, [(2, 0x10)], 0x000000, 0xc00000, 0x200000, 0x000000⟩
  | .HB_CFG => ⟨false, 0x840000, [(8, 0x10)], 0xfffffc, 0x000000, 0x000000, 0x00c000⟩
  | .HB_GUARD => ⟨false, 0x840001, [(8, 0x10)], 0x0000ff, 0x000000, 0x000000, 0x000000⟩
  | .HB_STAT => ⟨false, 0x840002, [(8, 0x10)], 0x000000, 0x000000, 0x000000, 0x000000⟩
  | .HB_TRIP => ⟨false, 0x840003, [(8, 0x10)], 0x000000, 0xc00000, 0x200000, 0x000000⟩
  | .EVO_CFG => ⟨false, 0x850000, [(48, 0x2)], 0xff8000, 0x000000, 0x000000, 0x000000⟩
  | .EVO_STAT => ⟨false, 0x850001, [(48, 0x2)], 0x000000, 0x600000, 0x100000, 0x000000⟩
  | .SEQ_PW0 => ⟨true, 0x240000, [(32, 0x8)], 0xfffff8, 0x000000, 0x000000, 0x000000⟩
  | .SEQ_PW1 => ⟨true, 0x240001, [(32, 0x8)], 0xffffff, 0x000000, 0x000000, 0x000000⟩
  | .SEQ_PW2 => ⟨true, 0x240002, [(32, 0x8)], 0xffffff, 0x000000, 0x000000, 0x000000⟩
  | .SEQ_PW3 => ⟨true, 0x240003, [(32, 0x8)], 0xffff00, 0x000000, 0x000000, 0x000000⟩
  | .SEQ_PW4 => ⟨true, 0x240004, [(32, 0x8)], 0xffffff, 0x000000, 0x000000, 0x000000⟩
  | .SEQ_PW5 => ⟨true, 0x240005, [(32, 0x8)], 0xffff00, 0x000000, 0x000000, 0x000000⟩
  | .SEQ_PW6 => ⟨true, 0x240006, [(32, 0x8)], 0xffffff, 0x000000, 0x000000, 0x000000⟩
  | .SEQ_PW7 => ⟨true, 0x240007, [(32, 0x8)], 0xffffff, 0x000000, 0x000000, 0x000000⟩
  | .SEQ_CFG => ⟨true, 0x241000, [(12, 0x10)], 0xf00000, 0x000000, 0x000000, 0x000000⟩
  | .SEQ_DLIM => ⟨true, 0x241001, [(12, 0x10)], 0xffffff, 0x000000, 0x000000, 0x005000⟩
  | .SEQ_STAT => ⟨true, 0x241002, [(12, 0x10)], 0x000000, 0x000000, 0x000000, 0x000000⟩
  | .SEQ_DUSE => ⟨true, 0x241003, [(12, 0x10)], 0x000000, 0x000000, 0x000000, 0x000000⟩
  | .SEQ_R => ⟨true, 0x241004, [(12, 0x10), (4, 0x1)], 0x000000, 0x000000, 0x000000, 0x000000⟩
  | .SEQ_POP => ⟨true, 0x241008, [(12, 0x10)], 0x000000, 0x000000, 0xffffff, 0x000000⟩
  | .SEQ_LRN => ⟨true, 0x241009, [(12, 0x10)], 0xffffff, 0x000000, 0x000000, 0x000000⟩
  | .SEQ_FORCE => ⟨true, 0x24100a, [(12, 0x10)], 0xf00000, 0x000000, 0x000000, 0x000000⟩
  | .SEQ_BINT => ⟨true, 0x242000, [], 0x001fff, 0x000000, 0x000000, 0x000640⟩
  | .SEQ_BUD => ⟨true, 0x242001, [], 0xffffff, 0x000000, 0x000000, 0x000000⟩
  | .SEQ_BUSE => ⟨true, 0x242002, [], 0x000000, 0x000000, 0x000000, 0x000000⟩
  | .SEQ_LCFG => ⟨true, 0x242003, [], 0xffff00, 0x000000, 0x000000, 0x610000⟩
  | .SEQ_VREF => ⟨true, 0x242010, [(4, 0x1)], 0xffffff, 0x000000, 0x000000, 0x000000⟩
  | .PCV_CFG => ⟨true, 0x250000, [(4, 0x100)], 0x900000, 0x000000, 0x000000, 0x000000⟩
  | .PCV_STAT => ⟨true, 0x250001, [(4, 0x100)], 0x000000, 0x000000, 0x000000, 0x000000⟩
  | .PCV_ERR => ⟨true, 0x250002, [(4, 0x100)], 0x000000, 0x00003e, 0x000000, 0x000000⟩
  | .PCV_CNT => ⟨true, 0x250003, [(4, 0x100)], 0x000000, 0x000000, 0x000000, 0x000000⟩
  | .PCV_CMD => ⟨true, 0x250004, [(4, 0x100)], 0x000000, 0x000000, 0xffffff, 0x000000⟩
  | .PCV_WBUF => ⟨true, 0x250008, [(2, 0x100)], 0x07ffff, 0x000000, 0x000000, 0x000000⟩
  | .PCV_WLEN => ⟨true, 0x250009, [(2, 0x100)], 0x003fff, 0x000000, 0x000000, 0x000000⟩
  | .PCV_WR => ⟨true, 0x250010, [(2, 0x100), (4, 0x1)], 0x000000, 0x000000, 0x000000, 0x000000⟩
  | .PCV_WPOP => ⟨true, 0x250014, [(2, 0x100)], 0x000000, 0x000000, 0xffffff, 0x000000⟩
  | .PCV_SCAN => ⟨true, 0x250220, [(2, 0x100), (16, 0x1)], 0x00001f, 0x000000, 0x000000, 0x00001f⟩
  | .PCV_SCANN => ⟨true, 0x250230, [(2, 0x100)], 0x00001f, 0x000000, 0x000000, 0x000010⟩
  | .PCV_CYL => ⟨true, 0x251000, [(24, 0x1)], 0xf000ff, 0x000000, 0x000000, 0x000001⟩
  | .PCV_CYLG => ⟨true, 0x251018, [], 0xf000ff, 0x000000, 0x000000, 0x000001⟩
  | .PCV_CPCFG => ⟨true, 0x251020, [(12, 0x1)], 0xc00000, 0x000000, 0x000000, 0x400000⟩
  | .PCV_AINCFG => ⟨true, 0x251030, [(16, 0x1)], 0xe00000, 0x000000, 0x000000, 0x000000⟩
  | .PCV_AINV => ⟨true, 0x251040, [(16, 0x1)], 0x000000, 0x000000, 0x000000, 0x000000⟩
  | .PCV_AINSTAT => ⟨true, 0x251050, [], 0x000000, 0x00ffff, 0x000000, 0x000000⟩
  | .PCV_SPARE => ⟨true, 0x251060, [], 0x800000, 0x000000, 0x038000, 0x9f8000⟩
  | .PCV_CHK => ⟨true, 0x251061, [], 0x000000, 0x000000, 0x000000, 0x000000⟩
  | .ATU_CFG => ⟨true, 0x260000, [], 0xff0000, 0x000000, 0x000000, 0x110000⟩
  | .ATU_GAMMA => ⟨true, 0x260001, [], 0x03ffff, 0x000000, 0x000000, 0x01599a⟩
  | .ATU_VD => ⟨true, 0x260002, [], 0x000000, 0x000000, 0x000000, 0x000000⟩
  | .ATU_MFIMEP => ⟨true, 0x260003, [], 0xffffff, 0x000000, 0x000000, 0x000000⟩
  | .ATU_MFQ => ⟨true, 0x260004, [], 0xffffff, 0x000000, 0x000000, 0x000000⟩
  | .ATU_RSTART => ⟨true, 0x260005, [], 0xffffff, 0x000000, 0x000000, 0x000000⟩
  | .ATU_REND => ⟨true, 0x260006, [], 0xffffff, 0x000000, 0x000000, 0x000000⟩
  | .ATU_PEG => ⟨true, 0x260008, [], 0xffc000, 0x000000, 0x000000, 0x01c000⟩
  | .ATU_PREF => ⟨true, 0x260009, [], 0xffffff, 0x000000, 0x000000, 0x001900⟩
  | .ATU_REFG => ⟨true, 0x26000a, [], 0xffffff, 0x000000, 0x000000, 0x000000⟩
  | .ATU_REFO => ⟨true, 0x26000b, [], 0xffffff, 0x000000, 0x000000, 0x000000⟩
  | .ATU_FBG => ⟨true, 0x26000c, [], 0xffff00, 0x000000, 0x000000, 0x404000⟩
  | .ATU_MFSEG => ⟨true, 0x26000d, [], 0xffffff, 0x000000, 0x000000, 0x0000a8⟩
  | .ATU_MFTH => ⟨true, 0x26000e, [], 0xf0ffff, 0x000000, 0x000000, 0x500148⟩
  | .ATU_STAT => ⟨true, 0x260010, [], 0x000000, 0x000000, 0x000000, 0x000000⟩
  | .ATU_ERR => ⟨true, 0x260011, [], 0x000000, 0x00001f, 0x000000, 0x000000⟩
  | .ATU_CLR => ⟨true, 0x260012, [], 0x000000, 0x000000, 0xffffff, 0x000000⟩
  | .ATU_CPG => ⟨true, 0x260020, [(12, 0x1)], 0xffffff, 0x000000, 0x000000, 0x000000⟩
  | .ATU_CPO => ⟨true, 0x260030, [(12, 0x1)], 0xffffff, 0x000000, 0x000000, 0x000000⟩
  | .ATU_CYL => ⟨true, 0x260040, [(24, 0x1)], 0xe003ff, 0x000000, 0x000000, 0x000000⟩
  | .ATU_CA50T => ⟨true, 0x260060, [(24, 0x1)], 0xffffff, 0x000000, 0x000000, 0x028000⟩
  | .ATU_FB => ⟨true, 0x260080, [(24, 0x1)], 0xffffff, 0x000000, 0x000000, 0x000000⟩
  | .ATU_MFS => ⟨true, 0x2600a0, [(24, 0x1)], 0x000000, 0x000000, 0x000000, 0x000000⟩
  | .ATU_VOL => ⟨true, 0x260100, [(721, 0x1)], 0xffffff, 0x000000, 0x000000, 0x000000⟩
  | .ATU_REC => ⟨true, 0x260400, [(384, 0x1)], 0x000000, 0x000000, 0x000000, 0x000000⟩
  | .CMP_CFG => ⟨true, 0x270000, [(32, 0x10)], 0xfffffc, 0x000000, 0x000000, 0x000460⟩
  | .CMP_TH => ⟨true, 0x270001, [(32, 0x10)], 0x3ff3ff, 0x000000, 0x000000, 0x3ff000⟩
  | .CMP_HYS => ⟨true, 0x270002, [(32, 0x10)], 0x00003f, 0x000000, 0x000000, 0x000004⟩
  | .CMP_BLK => ⟨true, 0x270003, [(32, 0x10)], 0xff03ff, 0x000000, 0x000000, 0x000034⟩
  | .CMP_STAT => ⟨true, 0x270004, [(32, 0x10)], 0x000000, 0x000000, 0x000000, 0x000000⟩
  | .CMP_EVT => ⟨true, 0x270005, [(32, 0x10)], 0x000000, 0x00000f, 0x000000, 0x000000⟩
  | .CMP_CAPLO => ⟨true, 0x270006, [(32, 0x10)], 0x000000, 0x000000, 0x000000, 0x000000⟩
  | .CMP_CAPHI => ⟨true, 0x270007, [(32, 0x10)], 0x000000, 0x000000, 0x000000, 0x000000⟩
  | .CMP_TLSTAT => ⟨true, 0x271000, [], 0x000000, 0x000000, 0x000000, 0x000000⟩
  | .CMP_SPARE => ⟨true, 0x271001, [], 0x000000, 0x000000, 0x00fc00, 0x000000⟩
  | .PWM_CTRL => ⟨true, 0x280000, [(16, 0x20)], 0xf80000, 0x000000, 0x000000, 0x000000⟩
  | .PWM_PER => ⟨true, 0x280001, [(16, 0x20)], 0xffffff, 0x000000, 0x000000, 0x000000⟩
  | .PWM_INIT => ⟨true, 0x280002, [(16, 0x20)], 0xffffff, 0x000000, 0x000000, 0x000000⟩
  | .PWM_AON => ⟨true, 0x280003, [(16, 0x20)], 0xffffff, 0x000000, 0x000000, 0x3fffff⟩
  | .PWM_AOFF => ⟨true, 0x280004, [(16, 0x20)], 0xffffff, 0x000000, 0x000000, 0x3fffff⟩
  | .PWM_BON => ⟨true, 0x280005, [(16, 0x20)], 0xffffff, 0x000000, 0x000000, 0x3fffff⟩
  | .PWM_BOFF => ⟨true, 0x280006, [(16, 0x20)], 0xffffff, 0x000000, 0x000000, 0x3fffff⟩
  | .PWM_TAP => ⟨true, 0x280007, [(16, 0x20)], 0xffffff, 0x000000, 0x000000, 0x000000⟩
  | .PWM_OVR => ⟨true, 0x280008, [(16, 0x20)], 0x000007, 0x000000, 0x000000, 0x000000⟩
  | .PWM_LOAD => ⟨true, 0x280009, [(16, 0x20)], 0x000000, 0x000000, 0xffffff, 0x000000⟩
  | .PWM_DT => ⟨true, 0x28000a, [(16, 0x20)], 0x00ffff, 0x000000, 0x000000, 0x000000⟩
  | .PWM_MINP => ⟨true, 0x28000b, [(16, 0x20)], 0x00ffff, 0x000000, 0x000000, 0x000000⟩
  | .PWM_BS => ⟨true, 0x28000c, [(16, 0x20)], 0xffffff, 0x000000, 0x000000, 0x3e80c8⟩
  | .PWM_TRIP => ⟨true, 0x28000d, [(16, 0x20)], 0x00ff00, 0xc00000, 0x200000, 0x000000⟩
  | .PWM_NOW => ⟨true, 0x28000e, [(16, 0x20)], 0x000000, 0x000000, 0x000000, 0x000000⟩
  | .PWM_STAT => ⟨true, 0x28000f, [(16, 0x20)], 0x000000, 0x000000, 0x000000, 0x000000⟩
  | .PWM_ERR => ⟨true, 0x280010, [(16, 0x20)], 0x000000, 0x00003e, 0x000000, 0x000000⟩
  | .PWM_GSTART => ⟨true, 0x281000, [], 0x000000, 0x000000, 0xffffff, 0x000000⟩
  | .PWM_GRUN => ⟨true, 0x281001, [], 0x000000, 0x000000, 0x000000, 0x000000⟩
  | .PWM_GFRZ => ⟨true, 0x281002, [], 0x000000, 0x000000, 0x000000, 0x000000⟩
  | .TMR_CFG => ⟨false, 0x901000, [(16, 0x10)], 0xffffff, 0x000000, 0x000000, 0x000006⟩
  | .TMR_CMP => ⟨false, 0x901001, [(16, 0x10)], 0xffffff, 0x000000, 0x000000, 0xffffff⟩
  | .TMR_CTRL => ⟨false, 0x901002, [(16, 0x10)], 0x000000, 0x000000, 0xffffff, 0x000000⟩
  | .TMR_CNT => ⟨false, 0x901003, [(16, 0x10)], 0x000000, 0x000000, 0x000000, 0x000000⟩
  | .TMR_HOLD => ⟨false, 0x901004, [(16, 0x10)], 0x000000, 0x000000, 0x000000, 0x000000⟩
  | .TMR_CAP => ⟨false, 0x901005, [(16, 0x10)], 0x000000, 0x000000, 0x000000, 0x000000⟩
  | .TMR_STAT => ⟨false, 0x901006, [(16, 0x10)], 0x000000, 0x000000, 0x000000, 0x000000⟩
  | .TMR_EVT => ⟨false, 0x901007, [(16, 0x10)], 0x000000, 0x00001f, 0x000000, 0x000000⟩
  | .TMR_OWNL => ⟨false, 0x901100, [], 0xffffff, 0x000000, 0x000000, 0x000000⟩
  | .TMR_OWNH => ⟨false, 0x901101, [], 0x0000ff, 0x000000, 0x000000, 0x000000⟩
  | .TMR_SPARE => ⟨false, 0x901102, [], 0x000000, 0x000000, 0x000000, 0x000000⟩
  | .PE_PROG => ⟨true, 0x290000, [(8, 0x100), (64, 0x1)], 0xffffff, 0x000000, 0x000000, 0x000000⟩
  | .PE_CFG => ⟨true, 0x290040, [(8, 0x100)], 0xffe000, 0x000000, 0x000000, 0x000000⟩
  | .PE_IRQ => ⟨true, 0x290041, [(8, 0x100)], 0x000007, 0x000000, 0x000000, 0x000000⟩
  | .PE_PROTO0 => ⟨true, 0x290042, [(8, 0x100)], 0xffffff, 0x000000, 0x000000, 0x000000⟩
  | .PE_PROTO1 => ⟨true, 0x290043, [(8, 0x100)], 0xffffff, 0x000000, 0x000000, 0x000000⟩
  | .PE_PIN => ⟨true, 0x290044, [(8, 0x100), (4, 0x1)], 0xffe000, 0x000000, 0x000000, 0x000000⟩
  | .PE_STAT => ⟨true, 0x290048, [(8, 0x100)], 0x000000, 0x000000, 0x000000, 0x000000⟩
  | .PE_FSTAT => ⟨true, 0x290049, [(8, 0x100)], 0x000000, 0x000000, 0x000000, 0x000000⟩
  | .PE_ERR => ⟨true, 0x29004a, [(8, 0x100)], 0x000000, 0x00003f, 0x000000, 0x000000⟩
  | .PE_CNT => ⟨true, 0x29004b, [(8, 0x100)], 0x000000, 0x000000, 0x000000, 0x000000⟩
  | .PE_SQ => ⟨true, 0x29004c, [(8, 0x100)], 0x000000, 0x000000, 0xffffff, 0x000000⟩
  | .PE_RQ => ⟨true, 0x29004d, [(8, 0x100)], 0x000000, 0x000000, 0x000000, 0x000000⟩
  | .PE_RQPOP => ⟨true, 0x29004e, [(8, 0x100)], 0x000000, 0x000000, 0xffffff, 0x000000⟩
  | .PE_A => ⟨true, 0x29004f, [(8, 0x100)], 0x000000, 0x000000, 0x000000, 0x000000⟩
  | .PE_B => ⟨true, 0x290050, [(8, 0x100)], 0x000000, 0x000000, 0x000000, 0x000000⟩
  | .PE_TLO => ⟨true, 0x290051, [(8, 0x100)], 0x000000, 0x000000, 0x000000, 0x000000⟩
  | .PE_THI => ⟨true, 0x290052, [(8, 0x100)], 0x000000, 0x000000, 0x000000, 0x000000⟩
  | .PE_TRG => ⟨true, 0x290053, [(8, 0x100)], 0x000000, 0x000000, 0x000000, 0x000000⟩
  | .PE_PINS => ⟨true, 0x290054, [(8, 0x100)], 0x000000, 0x000000, 0x000000, 0x000000⟩
  | .PE_SR => ⟨true, 0x290055, [(8, 0x100)], 0x000000, 0x000000, 0x000000, 0x000000⟩
  | .PE_FLAGS => ⟨true, 0x291000, [], 0x000000, 0x000000, 0x000000, 0x000000⟩
  | .PE_FSET => ⟨true, 0x291001, [], 0x000000, 0x000000, 0xffffff, 0x000000⟩
  | .PE_FCLR => ⟨true, 0x291002, [], 0x000000, 0x000000, 0xffffff, 0x000000⟩
  | .PE_GSTART => ⟨true, 0x291003, [], 0x000000, 0x000000, 0xffffff, 0x000000⟩
  | .MBX_DATA => ⟨true, 0x2a0000, [(16, 0x4)], 0xffffff, 0x000000, 0x000000, 0x000000⟩
  | .MBX_STAT => ⟨true, 0x2a0001, [(16, 0x4)], 0x000000, 0x660000, 0x000000, 0x000000⟩
  | .MBX_CFG => ⟨true, 0x2a0002, [(16, 0x4)], 0x000000, 0x000000, 0x000000, 0x000000⟩
  | .MBX_IEN => ⟨true, 0x2a0003, [(16, 0x4)], 0xf00000, 0x000000, 0x000000, 0x000000⟩
  | .MBX_XTO => ⟨true, 0x2a0100, [], 0x00ffff, 0x000000, 0x000000, 0x000064⟩
  | .CAN_CTRL => ⟨true, 0x2d0000, [(2, 0x1000)], 0xf80000, 0x000000, 0x000000, 0x000000⟩
  | .CAN_NBT => ⟨true, 0x2d0001, [(2, 0x1000)], 0xffffff, 0x000000, 0x000000, 0x000000⟩
  | .CAN_DBT => ⟨true, 0x2d0002, [(2, 0x1000)], 0xffffff, 0x000000, 0x000000, 0x000000⟩
  | .CAN_STAT => ⟨true, 0x2d0003, [(2, 0x1000)], 0x000000, 0x000000, 0x000000, 0xc00000⟩
  | .QHL_BIND => ⟨true, 0x2b0000, [], 0x400000, 0x000000, 0x000000, 0x400000⟩
  | .QHL_STAT => ⟨true, 0x2b0001, [], 0x000000, 0x000000, 0x000000, 0x000000⟩
  | .QHL_ERR => ⟨true, 0x2b0002, [], 0x000000, 0x0000ff, 0x000000, 0x000000⟩
  | .QHL_CNT0 => ⟨true, 0x2b0003, [], 0x000000, 0x000000, 0x000000, 0x000000⟩
  | .QHL_CNT1 => ⟨true, 0x2b0004, [], 0x000000, 0x000000, 0x000000, 0x000000⟩
  | .QHL_CNT2 => ⟨true, 0x2b0005, [], 0x000000, 0x000000, 0x000000, 0x000000⟩
  | .QHL_CMD => ⟨true, 0x2b0006, [], 0x000000, 0x000000, 0xffffff, 0x000000⟩
  | .QHL_BULK => ⟨true, 0x2b0010, [(32, 0x1)], 0x000000, 0x000000, 0x000000, 0x000000⟩
  | .EUL_PCFG => ⟨true, 0x2c0000, [(2, 0x10)], 0xf0ffff, 0x000000, 0x000000, 0x100000⟩
  | .EUL_PSTAT => ⟨true, 0x2c0001, [(2, 0x10)], 0x000000, 0x000000, 0x000000, 0x000000⟩
  | .EUL_PCNT0 => ⟨true, 0x2c0002, [(2, 0x10)], 0x000000, 0x000000, 0x000000, 0x000000⟩
  | .EUL_PCNT1 => ⟨true, 0x2c0003, [(2, 0x10)], 0x000000, 0x000000, 0x000000, 0x000000⟩
  | .EUL_NODE => ⟨true, 0x2c0100, [], 0xff3fff, 0x000000, 0x000000, 0x000000⟩
  | .EUL_PRI => ⟨true, 0x2c0101, [], 0xff8000, 0x000000, 0x000000, 0x000000⟩
  | .EUL_TSTAT => ⟨true, 0x2c0102, [], 0x000000, 0x000000, 0x000000, 0x000000⟩
  | .EUL_ASTAT => ⟨true, 0x2c0103, [], 0x000000, 0x000000, 0x000000, 0x000000⟩
  | .EUL_FTLO => ⟨true, 0x2c0104, [], 0x000000, 0x000000, 0x000000, 0x000000⟩
  | .EUL_FTHI => ⟨true, 0x2c0105, [], 0x000000, 0x000000, 0x000000, 0x000000⟩
  | .EUL_OFFERR => ⟨true, 0x2c0106, [], 0x000000, 0x000000, 0x000000, 0x000000⟩
  | .EUL_ERR => ⟨true, 0x2c0107, [], 0x000000, 0x0001fe, 0x000000, 0x000000⟩
  | .EUL_CLR => ⟨true, 0x2c0108, [], 0x000000, 0x000000, 0xffffff, 0x000000⟩
  | .EUL_PHCFG => ⟨true, 0x2c0110, [], 0xbfffff, 0x000000, 0x000000, 0x000000⟩
  | .EUL_PHOFF => ⟨true, 0x2c0111, [], 0xffffff, 0x000000, 0x000000, 0x000000⟩
  | .EUL_PHWIN => ⟨true, 0x2c0112, [], 0xffffff, 0x000000, 0x000000, 0x000000⟩
  | .EUL_PHN => ⟨true, 0x2c0113, [], 0xffffff, 0x000000, 0x000000, 0x000040⟩
  | .EUL_PHSTAT => ⟨true, 0x2c0114, [], 0x000000, 0x000000, 0x000000, 0x000000⟩
  | .EUL_PHSLIP => ⟨true, 0x2c0115, [], 0x000000, 0x000000, 0x000000, 0x000000⟩
  | .HLM_CFG => ⟨true, 0x2e0000, [], 0xfffc00, 0x000000, 0x000000, 0x600400⟩
  | .HLM_STAT => ⟨true, 0x2e0001, [], 0x000000, 0x000000, 0x000000, 0x800000⟩
  | .HLM_DISP => ⟨true, 0x2e0002, [], 0x000000, 0x000000, 0x000000, 0x000000⟩
  | .HLM_CNT => ⟨true, 0x2e0003, [], 0x000000, 0x000000, 0x000000, 0x000000⟩
  | .HLM_ERR => ⟨true, 0x2e0004, [], 0x000000, 0x00001f, 0x000000, 0x000000⟩
  | .HLM_CLR => ⟨true, 0x2e0005, [], 0x000000, 0x000000, 0xffffff, 0x000000⟩
  | .LOG_STAT => ⟨true, 0x2e0010, [], 0x000000, 0x000000, 0x000000, 0x000000⟩
  | .LOG_WRAPS => ⟨true, 0x2e0011, [], 0x000000, 0x000000, 0x000000, 0x000000⟩
  | .LOG_CMD => ⟨true, 0x2e0012, [], 0x000000, 0x000000, 0xffffff, 0x000000⟩
  | .LOG_LOSS => ⟨true, 0x2e0100, [(32, 0x1)], 0x000000, 0x000000, 0x000000, 0x000000⟩
  | .LOG_ENT => ⟨true, 0x2e1000, [(1024, 0x1)], 0x000000, 0x000000, 0x000000, 0x000000⟩
  | .PWR_POL => ⟨false, 0x900000, [], 0xffff00, 0x000000, 0x000000, 0x006400⟩
  | .PWR_STAT => ⟨false, 0x900001, [], 0x000000, 0x000000, 0x000000, 0x000000⟩
  | .PWR_STRAP => ⟨false, 0x900002, [], 0x000000, 0x000000, 0x000000, 0x000000⟩
  | .AON_FREQ => ⟨false, 0x900003, [], 0x000000, 0x000000, 0x000000, 0x000000⟩
  | .WAKE_CFG => ⟨false, 0x902000, [], 0xffc000, 0x000000, 0x000000, 0x808000⟩
  | .WAKE_TH => ⟨false, 0x902001, [], 0x00ffff, 0x000000, 0x000000, 0x000a03⟩
  | .WAKE_STAT => ⟨false, 0x902002, [], 0x000000, 0x007fff, 0x000000, 0x000000⟩
  | .CRP_STAT => ⟨true, 0x2f0000, [], 0x000000, 0x000000, 0x000000, 0x000100⟩
  | .CRP_WDOG => ⟨true, 0x2f0001, [], 0x000000, 0x000000, 0xffffff, 0x000000⟩
  | .CRP_LADDER => ⟨true, 0x2f0002, [], 0x000000, 0x000000, 0x000000, 0x000000⟩
  | .TAL_HDR => ⟨true, 0x310000, [], 0x000000, 0x000000, 0x000000, 0x51544c⟩
  | .TAL_INFO => ⟨true, 0x310001, [], 0x000000, 0x000000, 0x000000, 0x010016⟩
  | .TAL_AGE => ⟨true, 0x310002, [], 0x000000, 0x000000, 0x000000, 0x000000⟩
  | .TAL_COMMITS => ⟨true, 0x310003, [], 0x000000, 0x000000, 0x000000, 0x000000⟩
  | .TAL_POL => ⟨true, 0x310004, [], 0xffffff, 0x000000, 0x000000, 0x04501e⟩
  | .TAL_CMD => ⟨true, 0x310005, [], 0x000000, 0x000000, 0xffffff, 0x000000⟩
  | .TAL_RSW => ⟨true, 0x310008, [(3, 0x1)], 0xffffff, 0x000000, 0x000000, 0x000000⟩
  | .TAL_RTC => ⟨true, 0x31000b, [(3, 0x1)], 0xffffff, 0x000000, 0x000000, 0x000000⟩
  | .TAL_REN => ⟨true, 0x31000e, [(3, 0x1)], 0xffffff, 0x000000, 0x000000, 0x000000⟩
  | .TAL_POOL => ⟨true, 0x310020, [(16, 0x1)], 0x000000, 0x000000, 0x000000, 0x000000⟩
  | .TAL_W0 => ⟨true, 0x310100, [(22, 0x8)], 0x000000, 0x000000, 0x000000, 0x000000⟩
  | .TAL_W1 => ⟨true, 0x310101, [(22, 0x8)], 0x000000, 0x000000, 0x000000, 0x000000⟩
  | .TAL_W2 => ⟨true, 0x310102, [(22, 0x8)], 0x000000, 0x000000, 0x000000, 0x000000⟩
  | .TAL_W3 => ⟨true, 0x310103, [(22, 0x8)], 0x000000, 0x000000, 0x000000, 0x000000⟩
  | .TAL_W4 => ⟨true, 0x310104, [(22, 0x8)], 0x000000, 0x000000, 0x000000, 0x000000⟩
  | .TAL_W5 => ⟨true, 0x310105, [(22, 0x8)], 0x000000, 0x000000, 0x000000, 0x000000⟩
  | .TAL_W6 => ⟨true, 0x310106, [(22, 0x8)], 0x000000, 0x000000, 0x000000, 0x000000⟩
  | .TAL_W7 => ⟨true, 0x310107, [(22, 0x8)], 0x000000, 0x000000, 0x000000, 0x000000⟩

/-- The registers whose block region (64 Ki words, rules R45 and R46) has the given number. -/
def blockRegs : Nat → List Reg
  | 0x20 => [.WTK_CTRL, .WTK_WIN, .WTK_STALL, .WTK_AUX, .WTK_DIRW, .WTK_TABN, .WTK_XCFG, .WTK_STAT, .WTK_POS, .WTK_TANG, .WTK_LASTP, .WTK_CNT, .WTK_ERR, .WTK_CLR, .WTK_RING, .WTK_XCHK, .WTK_GWIN, .WTK_CRK0, .WTK_CRK1, .WTK_CAM, .WTK_RNG0, .WTK_RNG1, .WTK_ASEL]
  | 0x21 => [.ANG_CTRL, .ANG_PRED, .ANG_RFMAX, .ANG_LRN, .ANG_FCFG, .ANG_FSTALL, .ANG_CYL, .ANG_NOW, .ANG_FRAC, .ANG_TSL, .ANG_STEPI, .ANG_STEPF, .ANG_HALT, .ANG_STAT, .ANG_ERR, .ANG_LASTJ, .ANG_CNT, .ANG_CLR, .ANG_PREDT, .ANG_TDC, .ANG_PROF, .ANG_GEO]
  | 0x22 => [.EVC_CFG, .EVC_LEAD, .EVC_STAT, .EVC_CMD, .EVC_CMDRES, .EVC_CNT, .EVC_HEADT_LO, .EVC_HEADT_HI, .EVC_SLOT0, .EVC_SLOT1, .EVC_SLOT2, .EVC_SLOT3, .EVI_W, .EVI_GO, .EVI_RES, .EVN_W, .EVN_POP, .EVN_STAT, .EVC_TOL]
  | 0x23 => [.ADM_STAT, .ADM_DWELL, .ADM_MINAHEAD, .ADM_CRH, .ADM_MODEH, .ADM_STOP, .ADM_ENVN, .ADM_ENVR, .ADM_CENVN, .ADM_CENVR, .ADM_W, .ADM_GO, .ADM_RES, .ADM_CNT, .ADM_LASTR, .ADM_ERR, .ADM_CLR, .ADM_CRED]
  | 0x24 => [.SEQ_PW0, .SEQ_PW1, .SEQ_PW2, .SEQ_PW3, .SEQ_PW4, .SEQ_PW5, .SEQ_PW6, .SEQ_PW7, .SEQ_CFG, .SEQ_DLIM, .SEQ_STAT, .SEQ_DUSE, .SEQ_R, .SEQ_POP, .SEQ_LRN, .SEQ_FORCE, .SEQ_BINT, .SEQ_BUD, .SEQ_BUSE, .SEQ_LCFG, .SEQ_VREF]
  | 0x25 => [.PCV_CFG, .PCV_STAT, .PCV_ERR, .PCV_CNT, .PCV_CMD, .PCV_WBUF, .PCV_WLEN, .PCV_WR, .PCV_WPOP, .PCV_SCAN, .PCV_SCANN, .PCV_CYL, .PCV_CYLG, .PCV_CPCFG, .PCV_AINCFG, .PCV_AINV, .PCV_AINSTAT, .PCV_SPARE, .PCV_CHK]
  | 0x26 => [.ATU_CFG, .ATU_GAMMA, .ATU_VD, .ATU_MFIMEP, .ATU_MFQ, .ATU_RSTART, .ATU_REND, .ATU_PEG, .ATU_PREF, .ATU_REFG, .ATU_REFO, .ATU_FBG, .ATU_MFSEG, .ATU_MFTH, .ATU_STAT, .ATU_ERR, .ATU_CLR, .ATU_CPG, .ATU_CPO, .ATU_CYL, .ATU_CA50T, .ATU_FB, .ATU_MFS, .ATU_VOL, .ATU_REC]
  | 0x27 => [.CMP_CFG, .CMP_TH, .CMP_HYS, .CMP_BLK, .CMP_STAT, .CMP_EVT, .CMP_CAPLO, .CMP_CAPHI, .CMP_TLSTAT, .CMP_SPARE]
  | 0x28 => [.PWM_CTRL, .PWM_PER, .PWM_INIT, .PWM_AON, .PWM_AOFF, .PWM_BON, .PWM_BOFF, .PWM_TAP, .PWM_OVR, .PWM_LOAD, .PWM_DT, .PWM_MINP, .PWM_BS, .PWM_TRIP, .PWM_NOW, .PWM_STAT, .PWM_ERR, .PWM_GSTART, .PWM_GRUN, .PWM_GFRZ]
  | 0x29 => [.PE_PROG, .PE_CFG, .PE_IRQ, .PE_PROTO0, .PE_PROTO1, .PE_PIN, .PE_STAT, .PE_FSTAT, .PE_ERR, .PE_CNT, .PE_SQ, .PE_RQ, .PE_RQPOP, .PE_A, .PE_B, .PE_TLO, .PE_THI, .PE_TRG, .PE_PINS, .PE_SR, .PE_FLAGS, .PE_FSET, .PE_FCLR, .PE_GSTART]
  | 0x2a => [.MBX_DATA, .MBX_STAT, .MBX_CFG, .MBX_IEN, .MBX_XTO]
  | 0x2b => [.QHL_BIND, .QHL_STAT, .QHL_ERR, .QHL_CNT0, .QHL_CNT1, .QHL_CNT2, .QHL_CMD, .QHL_BULK]
  | 0x2c => [.EUL_PCFG, .EUL_PSTAT, .EUL_PCNT0, .EUL_PCNT1, .EUL_NODE, .EUL_PRI, .EUL_TSTAT, .EUL_ASTAT, .EUL_FTLO, .EUL_FTHI, .EUL_OFFERR, .EUL_ERR, .EUL_CLR, .EUL_PHCFG, .EUL_PHOFF, .EUL_PHWIN, .EUL_PHN, .EUL_PHSTAT, .EUL_PHSLIP]
  | 0x2d => [.CAN_CTRL, .CAN_NBT, .CAN_DBT, .CAN_STAT]
  | 0x2e => [.HLM_CFG, .HLM_STAT, .HLM_DISP, .HLM_CNT, .HLM_ERR, .HLM_CLR, .LOG_STAT, .LOG_WRAPS, .LOG_CMD, .LOG_LOSS, .LOG_ENT]
  | 0x2f => [.CRP_STAT, .CRP_WDOG, .CRP_LADDER]
  | 0x30 => [.TSC_LO, .TSC_HI, .TSC_XDIFF, .TSC_XDIFFH, .TSC_XSTAT]
  | 0x31 => [.TAL_HDR, .TAL_INFO, .TAL_AGE, .TAL_COMMITS, .TAL_POL, .TAL_CMD, .TAL_RSW, .TAL_RTC, .TAL_REN, .TAL_POOL, .TAL_W0, .TAL_W1, .TAL_W2, .TAL_W3, .TAL_W4, .TAL_W5, .TAL_W6, .TAL_W7]
  | 0x80 => [.DRV_ID, .DRV_CTRL, .DRV_STAT, .DRV_TEMP, .DRV_SWTRIP]
  | 0x81 => [.INJ_CFG, .INJ_MAX, .INJ_STAT, .INJ_TRIP, .INJ_SEG]
  | 0x82 => [.BHS_CFG, .BHS_STAT, .BHS_TRIP, .BHS_SEG]
  | 0x83 => [.BST_CFG, .BST_STAT, .BST_TRIP]
  | 0x84 => [.HB_CFG, .HB_GUARD, .HB_STAT, .HB_TRIP]
  | 0x85 => [.EVO_CFG, .EVO_STAT]
  | 0x86 => [.FE_CFG, .FE_STAT]
  | 0x90 => [.TMR_CFG, .TMR_CMP, .TMR_CTRL, .TMR_CNT, .TMR_HOLD, .TMR_CAP, .TMR_STAT, .TMR_EVT, .TMR_OWNL, .TMR_OWNH, .TMR_SPARE, .PWR_POL, .PWR_STAT, .PWR_STRAP, .AON_FREQ, .WAKE_CFG, .WAKE_TH, .WAKE_STAT]
  | _ => []

/-- A named bit field of a register. -/
structure Fld where
  reg : Reg
  hi  : Nat
  lo  : Nat
  deriving DecidableEq, Repr

def F.FE_CFG_VR_MIN : Fld := ⟨.FE_CFG, 15, 8⟩
def F.FE_CFG_VR_FRAC : Fld := ⟨.FE_CFG, 7, 6⟩
def F.FE_CFG_INV : Fld := ⟨.FE_CFG, 5, 5⟩
def F.FE_CFG_PULLUP : Fld := ⟨.FE_CFG, 4, 4⟩
def F.FE_CFG_MODE : Fld := ⟨.FE_CFG, 1, 0⟩
def F.FE_STAT_PEAK : Fld := ⟨.FE_STAT, 15, 8⟩
def F.FE_STAT_OPEN : Fld := ⟨.FE_STAT, 3, 3⟩
def F.FE_STAT_SHORT : Fld := ⟨.FE_STAT, 2, 2⟩
def F.FE_STAT_ACTIVE : Fld := ⟨.FE_STAT, 1, 1⟩
def F.FE_STAT_LEVEL : Fld := ⟨.FE_STAT, 0, 0⟩
def F.WTK_CTRL_EN : Fld := ⟨.WTK_CTRL, 23, 23⟩
def F.WTK_CTRL_AUTO_RESYNC : Fld := ⟨.WTK_CTRL, 22, 22⟩
def F.WTK_CTRL_SKIP_EN : Fld := ⟨.WTK_CTRL, 21, 21⟩
def F.WTK_CTRL_CRK_SEL : Fld := ⟨.WTK_CTRL, 20, 20⟩
def F.WTK_CTRL_CAM_SEL : Fld := ⟨.WTK_CTRL, 19, 17⟩
def F.WTK_CTRL_REV_MODE : Fld := ⟨.WTK_CTRL, 16, 15⟩
def F.WTK_CTRL_MATCH_M : Fld := ⟨.WTK_CTRL, 14, 10⟩
def F.WTK_CTRL_GLITCH : Fld := ⟨.WTK_CTRL, 9, 0⟩
def F.WTK_WIN_WIN_HI : Fld := ⟨.WTK_WIN, 23, 12⟩
def F.WTK_WIN_WIN_LO : Fld := ⟨.WTK_WIN, 11, 0⟩
def F.WTK_STALL_STALL_TIME : Fld := ⟨.WTK_STALL, 23, 0⟩
def F.WTK_AUX_STALL_MULT : Fld := ⟨.WTK_AUX, 23, 20⟩
def F.WTK_AUX_CAM_CONFIRM : Fld := ⟨.WTK_AUX, 19, 17⟩
def F.WTK_AUX_DIR_CONFIRM : Fld := ⟨.WTK_AUX, 16, 14⟩
def F.WTK_AUX_CAM_TOL : Fld := ⟨.WTK_AUX, 13, 0⟩
def F.WTK_DIRW_DIR_WIDTH : Fld := ⟨.WTK_DIRW, 15, 0⟩
def F.WTK_TABN_CAM_N : Fld := ⟨.WTK_TABN, 23, 16⟩
def F.WTK_TABN_CRK_N : Fld := ⟨.WTK_TABN, 8, 0⟩
def F.WTK_XCFG_XCHK_TOL : Fld := ⟨.WTK_XCFG, 15, 0⟩
def F.WTK_STAT_SYNC : Fld := ⟨.WTK_STAT, 23, 21⟩
def F.WTK_STAT_REV : Fld := ⟨.WTK_STAT, 20, 20⟩
def F.WTK_STAT_BLOCKED : Fld := ⟨.WTK_STAT, 19, 19⟩
def F.WTK_STAT_ANGSRC : Fld := ⟨.WTK_STAT, 18, 18⟩
def F.WTK_STAT_CAM_SEEN : Fld := ⟨.WTK_STAT, 17, 17⟩
def F.WTK_STAT_QUALITY : Fld := ⟨.WTK_STAT, 15, 8⟩
def F.WTK_STAT_FULL_CYCLES : Fld := ⟨.WTK_STAT, 7, 0⟩
def F.WTK_POS_REVOL : Fld := ⟨.WTK_POS, 9, 9⟩
def F.WTK_POS_TOOTH : Fld := ⟨.WTK_POS, 8, 0⟩
def F.WTK_TANG_ANGLE : Fld := ⟨.WTK_TANG, 23, 0⟩
def F.WTK_LASTP_PERIOD : Fld := ⟨.WTK_LASTP, 23, 0⟩
def F.WTK_CNT_REJECTS : Fld := ⟨.WTK_CNT, 23, 16⟩
def F.WTK_CNT_SKIPS : Fld := ⟨.WTK_CNT, 15, 8⟩
def F.WTK_CNT_CAMERRS : Fld := ⟨.WTK_CNT, 7, 0⟩
def F.WTK_ERR_CFG : Fld := ⟨.WTK_ERR, 9, 9⟩
def F.WTK_ERR_XCHK : Fld := ⟨.WTK_ERR, 8, 8⟩
def F.WTK_ERR_REVSEEN : Fld := ⟨.WTK_ERR, 7, 7⟩
def F.WTK_ERR_LOSTSEEN : Fld := ⟨.WTK_ERR, 6, 6⟩
def F.WTK_ERR_GAPERR : Fld := ⟨.WTK_ERR, 5, 5⟩
def F.WTK_ERR_CAMERR : Fld := ⟨.WTK_ERR, 4, 4⟩
def F.WTK_ERR_SKIP : Fld := ⟨.WTK_ERR, 3, 3⟩
def F.WTK_ERR_DIRERR : Fld := ⟨.WTK_ERR, 2, 2⟩
def F.WTK_ERR_GLITCH : Fld := ⟨.WTK_ERR, 0, 0⟩
def F.WTK_CLR_CLRCNT : Fld := ⟨.WTK_CLR, 0, 0⟩
def F.WTK_RING_WPTR : Fld := ⟨.WTK_RING, 9, 0⟩
def F.WTK_XCHK_PEER_QUALITY : Fld := ⟨.WTK_XCHK, 23, 16⟩
def F.WTK_XCHK_PEER_VALID : Fld := ⟨.WTK_XCHK, 15, 15⟩
def F.WTK_XCHK_DIFF : Fld := ⟨.WTK_XCHK, 14, 0⟩
def F.WTK_GWIN_WIN_HI : Fld := ⟨.WTK_GWIN, 23, 12⟩
def F.WTK_GWIN_WIN_LO : Fld := ⟨.WTK_GWIN, 11, 0⟩
def F.WTK_CRK0_ANG : Fld := ⟨.WTK_CRK0, 22, 0⟩
def F.WTK_CRK1_CLASS : Fld := ⟨.WTK_CRK1, 23, 22⟩
def F.WTK_CRK1_GWIN : Fld := ⟨.WTK_CRK1, 21, 19⟩
def F.WTK_CAM_ANG : Fld := ⟨.WTK_CAM, 23, 0⟩
def F.WTK_RNG0_EXP : Fld := ⟨.WTK_RNG0, 23, 20⟩
def F.WTK_RNG0_MANT : Fld := ⟨.WTK_RNG0, 19, 0⟩
def F.WTK_RNG1_SYNC : Fld := ⟨.WTK_RNG1, 23, 21⟩
def F.WTK_RNG1_REV : Fld := ⟨.WTK_RNG1, 20, 20⟩
def F.WTK_RNG1_SKIP : Fld := ⟨.WTK_RNG1, 19, 19⟩
def F.WTK_RNG1_GAP : Fld := ⟨.WTK_RNG1, 18, 18⟩
def F.WTK_RNG1_REVOL : Fld := ⟨.WTK_RNG1, 9, 9⟩
def F.WTK_RNG1_TOOTH : Fld := ⟨.WTK_RNG1, 8, 0⟩
def F.WTK_ASEL_CURSRC : Fld := ⟨.WTK_ASEL, 8, 8⟩
def F.WTK_ASEL_FAILOVER_EN : Fld := ⟨.WTK_ASEL, 2, 2⟩
def F.WTK_ASEL_PRIMARY : Fld := ⟨.WTK_ASEL, 0, 0⟩
def F.ANG_CTRL_EN : Fld := ⟨.ANG_CTRL, 23, 23⟩
def F.ANG_CTRL_SRC : Fld := ⟨.ANG_CTRL, 22, 22⟩
def F.ANG_CTRL_EARLY_MODE : Fld := ⟨.ANG_CTRL, 21, 20⟩
def F.ANG_CTRL_CYCLE : Fld := ⟨.ANG_CTRL, 19, 19⟩
def F.ANG_CTRL_GEO_APPLY : Fld := ⟨.ANG_CTRL, 18, 18⟩
def F.ANG_CTRL_PROF_APPLY : Fld := ⟨.ANG_CTRL, 17, 17⟩
def F.ANG_PRED_K1 : Fld := ⟨.ANG_PRED, 9, 5⟩
def F.ANG_PRED_K2 : Fld := ⟨.ANG_PRED, 4, 0⟩
def F.ANG_RFMAX_RF_MAX : Fld := ⟨.ANG_RFMAX, 15, 0⟩
def F.ANG_LRN_GEO_EN : Fld := ⟨.ANG_LRN, 23, 23⟩
def F.ANG_LRN_PROF_EN : Fld := ⟨.ANG_LRN, 22, 22⟩
def F.ANG_LRN_GEO_RATE : Fld := ⟨.ANG_LRN, 21, 18⟩
def F.ANG_LRN_PROF_RATE : Fld := ⟨.ANG_LRN, 17, 14⟩
def F.ANG_FCFG_LAT_MAX : Fld := ⟨.ANG_FCFG, 15, 0⟩
def F.ANG_FSTALL_FSTALL : Fld := ⟨.ANG_FSTALL, 23, 0⟩
def F.ANG_CYL_N_CYL : Fld := ⟨.ANG_CYL, 4, 0⟩
def F.ANG_NOW_ANGLE : Fld := ⟨.ANG_NOW, 23, 0⟩
def F.ANG_FRAC_FRAC : Fld := ⟨.ANG_FRAC, 15, 0⟩
def F.ANG_TSL_TS : Fld := ⟨.ANG_TSL, 23, 0⟩
def F.ANG_STEPI_STEP_I : Fld := ⟨.ANG_STEPI, 23, 0⟩
def F.ANG_STEPF_STEP_F : Fld := ⟨.ANG_STEPF, 15, 0⟩
def F.ANG_HALT_HALT : Fld := ⟨.ANG_HALT, 23, 0⟩
def F.ANG_STAT_VALID : Fld := ⟨.ANG_STAT, 23, 23⟩
def F.ANG_STAT_FULLRANGE : Fld := ⟨.ANG_STAT, 22, 22⟩
def F.ANG_STAT_REV : Fld := ⟨.ANG_STAT, 21, 21⟩
def F.ANG_STAT_HALTED : Fld := ⟨.ANG_STAT, 20, 20⟩
def F.ANG_STAT_CATCHUP : Fld := ⟨.ANG_STAT, 19, 19⟩
def F.ANG_STAT_SRCFAB : Fld := ⟨.ANG_STAT, 18, 18⟩
def F.ANG_STAT_ORDER : Fld := ⟨.ANG_STAT, 17, 16⟩
def F.ANG_ERR_FLATE : Fld := ⟨.ANG_ERR, 6, 6⟩
def F.ANG_ERR_FLOSS : Fld := ⟨.ANG_ERR, 5, 5⟩
def F.ANG_ERR_RFJUMP : Fld := ⟨.ANG_ERR, 4, 4⟩
def F.ANG_ERR_CLAMP : Fld := ⟨.ANG_ERR, 3, 3⟩
def F.ANG_ERR_JUMP : Fld := ⟨.ANG_ERR, 2, 2⟩
def F.ANG_ERR_REPOS : Fld := ⟨.ANG_ERR, 1, 1⟩
def F.ANG_ERR_GEOSAT : Fld := ⟨.ANG_ERR, 0, 0⟩
def F.ANG_LASTJ_SPAN : Fld := ⟨.ANG_LASTJ, 23, 0⟩
def F.ANG_CNT_JUMPS : Fld := ⟨.ANG_CNT, 23, 16⟩
def F.ANG_CNT_HALTS : Fld := ⟨.ANG_CNT, 15, 8⟩
def F.ANG_CNT_CLAMPS : Fld := ⟨.ANG_CNT, 7, 0⟩
def F.ANG_CLR_CLRCNT : Fld := ⟨.ANG_CLR, 0, 0⟩
def F.ANG_PREDT_PERIOD : Fld := ⟨.ANG_PREDT, 23, 0⟩
def F.ANG_TDC_OFFSET : Fld := ⟨.ANG_TDC, 23, 0⟩
def F.ANG_PROF_DEV : Fld := ⟨.ANG_PROF, 15, 0⟩
def F.ANG_GEO_CORR : Fld := ⟨.ANG_GEO, 15, 0⟩
def F.TSC_LO_LO : Fld := ⟨.TSC_LO, 23, 0⟩
def F.TSC_HI_HI : Fld := ⟨.TSC_HI, 23, 0⟩
def F.TSC_XDIFF_LO : Fld := ⟨.TSC_XDIFF, 23, 0⟩
def F.TSC_XDIFFH_HI : Fld := ⟨.TSC_XDIFFH, 23, 0⟩
def F.TSC_XSTAT_VALID : Fld := ⟨.TSC_XSTAT, 23, 23⟩
def F.EVC_CFG_EN : Fld := ⟨.EVC_CFG, 23, 23⟩
def F.EVC_CFG_KIND : Fld := ⟨.EVC_CFG, 22, 20⟩
def F.EVC_CFG_INJCLASS : Fld := ⟨.EVC_CFG, 19, 19⟩
def F.EVC_CFG_CRANKMOD : Fld := ⟨.EVC_CFG, 18, 18⟩
def F.EVC_CFG_OUT : Fld := ⟨.EVC_CFG, 12, 8⟩
def F.EVC_LEAD_LEAD : Fld := ⟨.EVC_LEAD, 15, 0⟩
def F.EVC_STAT_PEND : Fld := ⟨.EVC_STAT, 20, 16⟩
def F.EVC_STAT_ARMED : Fld := ⟨.EVC_STAT, 12, 8⟩
def F.EVC_STAT_SLOTFAULT : Fld := ⟨.EVC_STAT, 3, 3⟩
def F.EVC_STAT_SPAREUSE : Fld := ⟨.EVC_STAT, 2, 2⟩
def F.EVC_STAT_TRIPPED : Fld := ⟨.EVC_STAT, 1, 1⟩
def F.EVC_STAT_INHIBIT : Fld := ⟨.EVC_STAT, 0, 0⟩
def F.EVC_CMD_OP : Fld := ⟨.EVC_CMD, 23, 22⟩
def F.EVC_CMD_TAG : Fld := ⟨.EVC_CMD, 9, 0⟩
def F.EVC_CMDRES_BUSY : Fld := ⟨.EVC_CMDRES, 23, 23⟩
def F.EVC_CMDRES_COUNT : Fld := ⟨.EVC_CMDRES, 12, 8⟩
def F.EVC_CMDRES_CODE : Fld := ⟨.EVC_CMDRES, 7, 0⟩
def F.EVC_CNT_LATES : Fld := ⟨.EVC_CNT, 23, 16⟩
def F.EVC_CNT_JUMPS : Fld := ⟨.EVC_CNT, 15, 8⟩
def F.EVC_CNT_CANCELS : Fld := ⟨.EVC_CNT, 7, 0⟩
def F.EVC_HEADT_LO_LO : Fld := ⟨.EVC_HEADT_LO, 23, 0⟩
def F.EVC_HEADT_HI_HI : Fld := ⟨.EVC_HEADT_HI, 23, 0⟩
def F.EVC_SLOT0_ENTRY : Fld := ⟨.EVC_SLOT0, 23, 0⟩
def F.EVC_SLOT1_ENTRY : Fld := ⟨.EVC_SLOT1, 23, 0⟩
def F.EVC_SLOT2_ENTRY : Fld := ⟨.EVC_SLOT2, 23, 0⟩
def F.EVC_SLOT3_ARMED : Fld := ⟨.EVC_SLOT3, 23, 23⟩
def F.EVC_SLOT3_VALID : Fld := ⟨.EVC_SLOT3, 22, 22⟩
def F.EVC_SLOT3_TAP : Fld := ⟨.EVC_SLOT3, 21, 16⟩
def F.EVC_SLOT3_TAG : Fld := ⟨.EVC_SLOT3, 9, 0⟩
def F.EVI_W_WORD : Fld := ⟨.EVI_W, 23, 0⟩
def F.EVI_GO_CHAN : Fld := ⟨.EVI_GO, 21, 16⟩
def F.EVI_GO_TAG : Fld := ⟨.EVI_GO, 9, 0⟩
def F.EVI_RES_BUSY : Fld := ⟨.EVI_RES, 23, 23⟩
def F.EVI_RES_SLOT : Fld := ⟨.EVI_RES, 11, 8⟩
def F.EVI_RES_CODE : Fld := ⟨.EVI_RES, 7, 0⟩
def F.EVN_W_WORD : Fld := ⟨.EVN_W, 23, 0⟩
def F.EVN_POP_POP : Fld := ⟨.EVN_POP, 0, 0⟩
def F.EVN_STAT_COUNT : Fld := ⟨.EVN_STAT, 10, 0⟩
def F.EVC_TOL_TOL : Fld := ⟨.EVC_TOL, 23, 0⟩
def F.ADM_STAT_PHASE : Fld := ⟨.ADM_STAT, 23, 21⟩
def F.ADM_STAT_HELM : Fld := ⟨.ADM_STAT, 20, 19⟩
def F.ADM_STAT_SCHED : Fld := ⟨.ADM_STAT, 18, 18⟩
def F.ADM_STAT_CERT_OK : Fld := ⟨.ADM_STAT, 17, 17⟩
def F.ADM_STAT_MODE : Fld := ⟨.ADM_STAT, 16, 13⟩
def F.ADM_STAT_NEXTMODE : Fld := ⟨.ADM_STAT, 12, 9⟩
def F.ADM_STAT_MODEPEND : Fld := ⟨.ADM_STAT, 8, 8⟩
def F.ADM_STAT_SVCPEND : Fld := ⟨.ADM_STAT, 7, 7⟩
def F.ADM_DWELL_DWELL : Fld := ⟨.ADM_DWELL, 15, 0⟩
def F.ADM_MINAHEAD_MINAHEAD : Fld := ⟨.ADM_MINAHEAD, 15, 0⟩
def F.ADM_CRH_HORIZON : Fld := ⟨.ADM_CRH, 23, 0⟩
def F.ADM_MODEH_HORIZON : Fld := ⟨.ADM_MODEH, 15, 0⟩
def F.ADM_STOP_STOP_TIME : Fld := ⟨.ADM_STOP, 23, 0⟩
def F.ADM_ENVN_N_MAX : Fld := ⟨.ADM_ENVN, 13, 0⟩
def F.ADM_ENVR_RATE_MAX : Fld := ⟨.ADM_ENVR, 15, 0⟩
def F.ADM_CENVN_N_MAX : Fld := ⟨.ADM_CENVN, 13, 0⟩
def F.ADM_CENVR_RATE_MAX : Fld := ⟨.ADM_CENVR, 15, 0⟩
def F.ADM_W_WORD : Fld := ⟨.ADM_W, 23, 0⟩
def F.ADM_GO_CHAN : Fld := ⟨.ADM_GO, 21, 16⟩
def F.ADM_GO_TAG : Fld := ⟨.ADM_GO, 9, 0⟩
def F.ADM_RES_BUSY : Fld := ⟨.ADM_RES, 23, 23⟩
def F.ADM_RES_SLOT : Fld := ⟨.ADM_RES, 11, 8⟩
def F.ADM_RES_CODE : Fld := ⟨.ADM_RES, 7, 0⟩
def F.ADM_CNT_ADMITS : Fld := ⟨.ADM_CNT, 23, 12⟩
def F.ADM_CNT_REFUSALS : Fld := ⟨.ADM_CNT, 11, 0⟩
def F.ADM_LASTR_CODE : Fld := ⟨.ADM_LASTR, 23, 16⟩
def F.ADM_LASTR_CHAN : Fld := ⟨.ADM_LASTR, 15, 10⟩
def F.ADM_LASTR_TAG : Fld := ⟨.ADM_LASTR, 9, 0⟩
def F.ADM_ERR_DEFER : Fld := ⟨.ADM_ERR, 3, 3⟩
def F.ADM_ERR_BREACH : Fld := ⟨.ADM_ERR, 2, 2⟩
def F.ADM_ERR_RECHECK : Fld := ⟨.ADM_ERR, 1, 1⟩
def F.ADM_ERR_XLATCH : Fld := ⟨.ADM_ERR, 0, 0⟩
def F.ADM_CLR_CLRCNT : Fld := ⟨.ADM_CLR, 0, 0⟩
def F.ADM_CRED_SLOTS : Fld := ⟨.ADM_CRED, 20, 16⟩
def F.ADM_CRED_RSV : Fld := ⟨.ADM_CRED, 4, 0⟩
def F.DRV_ID_DIE : Fld := ⟨.DRV_ID, 23, 16⟩
def F.DRV_ID_REV : Fld := ⟨.DRV_ID, 15, 8⟩
def F.DRV_CTRL_DRVEN : Fld := ⟨.DRV_CTRL, 0, 0⟩
def F.DRV_STAT_OEA : Fld := ⟨.DRV_STAT, 23, 23⟩
def F.DRV_STAT_OEB : Fld := ⟨.DRV_STAT, 22, 22⟩
def F.DRV_STAT_VBATUV : Fld := ⟨.DRV_STAT, 21, 21⟩
def F.DRV_STAT_OTW : Fld := ⟨.DRV_STAT, 20, 20⟩
def F.DRV_STAT_VBAT : Fld := ⟨.DRV_STAT, 9, 0⟩
def F.DRV_TEMP_TJMAX : Fld := ⟨.DRV_TEMP, 15, 8⟩
def F.DRV_SWTRIP_ALL : Fld := ⟨.DRV_SWTRIP, 0, 0⟩
def F.INJ_CFG_PAIR : Fld := ⟨.INJ_CFG, 23, 23⟩
def F.INJ_CFG_OCTH : Fld := ⟨.INJ_CFG, 22, 16⟩
def F.INJ_CFG_TMASK : Fld := ⟨.INJ_CFG, 15, 8⟩
def F.INJ_MAX_TMAX : Fld := ⟨.INJ_MAX, 15, 0⟩
def F.INJ_STAT_LS : Fld := ⟨.INJ_STAT, 23, 23⟩
def F.INJ_STAT_HSB : Fld := ⟨.INJ_STAT, 22, 22⟩
def F.INJ_STAT_BOOST : Fld := ⟨.INJ_STAT, 21, 21⟩
def F.INJ_STAT_QF : Fld := ⟨.INJ_STAT, 20, 20⟩
def F.INJ_STAT_PH : Fld := ⟨.INJ_STAT, 19, 18⟩
def F.INJ_STAT_PRF : Fld := ⟨.INJ_STAT, 17, 15⟩
def F.INJ_STAT_ACTV : Fld := ⟨.INJ_STAT, 14, 14⟩
def F.INJ_STAT_ILIVE : Fld := ⟨.INJ_STAT, 7, 0⟩
def F.INJ_TRIP_LATCH : Fld := ⟨.INJ_TRIP, 23, 23⟩
def F.INJ_TRIP_CLRREF : Fld := ⟨.INJ_TRIP, 22, 22⟩
def F.INJ_TRIP_SWSET : Fld := ⟨.INJ_TRIP, 21, 21⟩
def F.INJ_TRIP_STUCK : Fld := ⟨.INJ_TRIP, 8, 8⟩
def F.INJ_TRIP_SW : Fld := ⟨.INJ_TRIP, 7, 7⟩
def F.INJ_TRIP_EXT : Fld := ⟨.INJ_TRIP, 6, 6⟩
def F.INJ_TRIP_MAXON : Fld := ⟨.INJ_TRIP, 5, 5⟩
def F.INJ_TRIP_OT : Fld := ⟨.INJ_TRIP, 4, 4⟩
def F.INJ_TRIP_OC : Fld := ⟨.INJ_TRIP, 3, 3⟩
def F.INJ_TRIP_BHS : Fld := ⟨.INJ_TRIP, 2, 2⟩
def F.INJ_TRIP_UV : Fld := ⟨.INJ_TRIP, 1, 1⟩
def F.INJ_TRIP_OV : Fld := ⟨.INJ_TRIP, 0, 0⟩
def F.INJ_SEG_INSVC : Fld := ⟨.INJ_SEG, 23, 15⟩
def F.INJ_SEG_RETIRED : Fld := ⟨.INJ_SEG, 14, 6⟩
def F.INJ_SEG_DRIFT : Fld := ⟨.INJ_SEG, 5, 0⟩
def F.BHS_CFG_OCTH : Fld := ⟨.BHS_CFG, 23, 16⟩
def F.BHS_CFG_TMASK : Fld := ⟨.BHS_CFG, 15, 8⟩
def F.BHS_STAT_ON : Fld := ⟨.BHS_STAT, 23, 23⟩
def F.BHS_STAT_OWNER : Fld := ⟨.BHS_STAT, 22, 22⟩
def F.BHS_STAT_CONTEND : Fld := ⟨.BHS_STAT, 21, 21⟩
def F.BHS_TRIP_LATCH : Fld := ⟨.BHS_TRIP, 23, 23⟩
def F.BHS_TRIP_CLRREF : Fld := ⟨.BHS_TRIP, 22, 22⟩
def F.BHS_TRIP_SWSET : Fld := ⟨.BHS_TRIP, 21, 21⟩
def F.BHS_TRIP_STUCK : Fld := ⟨.BHS_TRIP, 8, 8⟩
def F.BHS_TRIP_SW : Fld := ⟨.BHS_TRIP, 7, 7⟩
def F.BHS_TRIP_EXT : Fld := ⟨.BHS_TRIP, 6, 6⟩
def F.BHS_TRIP_MAXON : Fld := ⟨.BHS_TRIP, 5, 5⟩
def F.BHS_TRIP_OT : Fld := ⟨.BHS_TRIP, 4, 4⟩
def F.BHS_TRIP_OC : Fld := ⟨.BHS_TRIP, 3, 3⟩
def F.BHS_TRIP_BHS : Fld := ⟨.BHS_TRIP, 2, 2⟩
def F.BHS_TRIP_UV : Fld := ⟨.BHS_TRIP, 1, 1⟩
def F.BHS_TRIP_OV : Fld := ⟨.BHS_TRIP, 0, 0⟩
def F.BHS_SEG_INSVC : Fld := ⟨.BHS_SEG, 23, 15⟩
def F.BHS_SEG_RETIRED : Fld := ⟨.BHS_SEG, 14, 6⟩
def F.BHS_SEG_DRIFT : Fld := ⟨.BHS_SEG, 5, 0⟩
def F.BST_CFG_EN : Fld := ⟨.BST_CFG, 23, 23⟩
def F.BST_CFG_VSET : Fld := ⟨.BST_CFG, 22, 16⟩
def F.BST_CFG_ILIM : Fld := ⟨.BST_CFG, 15, 8⟩
def F.BST_STAT_READY : Fld := ⟨.BST_STAT, 23, 23⟩
def F.BST_STAT_UV : Fld := ⟨.BST_STAT, 22, 22⟩
def F.BST_STAT_OV : Fld := ⟨.BST_STAT, 21, 21⟩
def F.BST_STAT_VBST : Fld := ⟨.BST_STAT, 9, 0⟩
def F.BST_TRIP_LATCH : Fld := ⟨.BST_TRIP, 23, 23⟩
def F.BST_TRIP_CLRREF : Fld := ⟨.BST_TRIP, 22, 22⟩
def F.BST_TRIP_SWSET : Fld := ⟨.BST_TRIP, 21, 21⟩
def F.BST_TRIP_STUCK : Fld := ⟨.BST_TRIP, 8, 8⟩
def F.BST_TRIP_SW : Fld := ⟨.BST_TRIP, 7, 7⟩
def F.BST_TRIP_EXT : Fld := ⟨.BST_TRIP, 6, 6⟩
def F.BST_TRIP_MAXON : Fld := ⟨.BST_TRIP, 5, 5⟩
def F.BST_TRIP_OT : Fld := ⟨.BST_TRIP, 4, 4⟩
def F.BST_TRIP_OC : Fld := ⟨.BST_TRIP, 3, 3⟩
def F.BST_TRIP_BHS : Fld := ⟨.BST_TRIP, 2, 2⟩
def F.BST_TRIP_UV : Fld := ⟨.BST_TRIP, 1, 1⟩
def F.BST_TRIP_OV : Fld := ⟨.BST_TRIP, 0, 0⟩
def F.HB_CFG_EN : Fld := ⟨.HB_CFG, 23, 23⟩
def F.HB_CFG_SRC : Fld := ⟨.HB_CFG, 22, 19⟩
def F.HB_CFG_ISENSE : Fld := ⟨.HB_CFG, 18, 18⟩
def F.HB_CFG_OCTH : Fld := ⟨.HB_CFG, 17, 10⟩
def F.HB_CFG_TMASK : Fld := ⟨.HB_CFG, 9, 2⟩
def F.HB_GUARD_HOLDTO : Fld := ⟨.HB_GUARD, 7, 0⟩
def F.HB_STAT_HS : Fld := ⟨.HB_STAT, 23, 23⟩
def F.HB_STAT_LS : Fld := ⟨.HB_STAT, 22, 22⟩
def F.HB_STAT_SHOOT : Fld := ⟨.HB_STAT, 21, 21⟩
def F.HB_STAT_ILIVE : Fld := ⟨.HB_STAT, 7, 0⟩
def F.HB_TRIP_LATCH : Fld := ⟨.HB_TRIP, 23, 23⟩
def F.HB_TRIP_CLRREF : Fld := ⟨.HB_TRIP, 22, 22⟩
def F.HB_TRIP_SWSET : Fld := ⟨.HB_TRIP, 21, 21⟩
def F.HB_TRIP_STUCK : Fld := ⟨.HB_TRIP, 8, 8⟩
def F.HB_TRIP_SW : Fld := ⟨.HB_TRIP, 7, 7⟩
def F.HB_TRIP_EXT : Fld := ⟨.HB_TRIP, 6, 6⟩
def F.HB_TRIP_MAXON : Fld := ⟨.HB_TRIP, 5, 5⟩
def F.HB_TRIP_OT : Fld := ⟨.HB_TRIP, 4, 4⟩
def F.HB_TRIP_OC : Fld := ⟨.HB_TRIP, 3, 3⟩
def F.HB_TRIP_BHS : Fld := ⟨.HB_TRIP, 2, 2⟩
def F.HB_TRIP_UV : Fld := ⟨.HB_TRIP, 1, 1⟩
def F.HB_TRIP_OV : Fld := ⟨.HB_TRIP, 0, 0⟩
def F.EVO_CFG_OD : Fld := ⟨.EVO_CFG, 23, 23⟩
def F.EVO_CFG_TMASK : Fld := ⟨.EVO_CFG, 22, 15⟩
def F.EVO_STAT_LEVEL : Fld := ⟨.EVO_STAT, 23, 23⟩
def F.EVO_STAT_LATCH : Fld := ⟨.EVO_STAT, 22, 22⟩
def F.EVO_STAT_CLRREF : Fld := ⟨.EVO_STAT, 21, 21⟩
def F.EVO_STAT_SWSET : Fld := ⟨.EVO_STAT, 20, 20⟩
def F.EVO_STAT_SW : Fld := ⟨.EVO_STAT, 7, 7⟩
def F.EVO_STAT_EXT : Fld := ⟨.EVO_STAT, 6, 6⟩
def F.SEQ_PW0_IPK : Fld := ⟨.SEQ_PW0, 23, 16⟩
def F.SEQ_PW0_PKHYS : Fld := ⟨.SEQ_PW0, 15, 8⟩
def F.SEQ_PW0_QMODE : Fld := ⟨.SEQ_PW0, 7, 6⟩
def F.SEQ_PW0_TMODE : Fld := ⟨.SEQ_PW0, 5, 4⟩
def F.SEQ_PW0_VED : Fld := ⟨.SEQ_PW0, 3, 3⟩
def F.SEQ_PW1_TB_MAX : Fld := ⟨.SEQ_PW1, 23, 0⟩
def F.SEQ_PW2_T_PK : Fld := ⟨.SEQ_PW2, 23, 0⟩
def F.SEQ_PW3_IH1 : Fld := ⟨.SEQ_PW3, 23, 16⟩
def F.SEQ_PW3_H1HYS : Fld := ⟨.SEQ_PW3, 15, 8⟩
def F.SEQ_PW4_T_H1 : Fld := ⟨.SEQ_PW4, 23, 0⟩
def F.SEQ_PW5_IH2 : Fld := ⟨.SEQ_PW5, 23, 16⟩
def F.SEQ_PW5_H2HYS : Fld := ⟨.SEQ_PW5, 15, 8⟩
def F.SEQ_PW6_TQ : Fld := ⟨.SEQ_PW6, 23, 0⟩
def F.SEQ_PW7_EB : Fld := ⟨.SEQ_PW7, 23, 0⟩
def F.SEQ_CFG_TYPE : Fld := ⟨.SEQ_CFG, 23, 22⟩
def F.SEQ_CFG_SPLIT : Fld := ⟨.SEQ_CFG, 21, 21⟩
def F.SEQ_CFG_LRN : Fld := ⟨.SEQ_CFG, 20, 20⟩
def F.SEQ_DLIM_DLIM : Fld := ⟨.SEQ_DLIM, 23, 0⟩
def F.SEQ_STAT_STATE : Fld := ⟨.SEQ_STAT, 23, 21⟩
def F.SEQ_STAT_PAIRED : Fld := ⟨.SEQ_STAT, 20, 20⟩
def F.SEQ_STAT_SUBORD : Fld := ⟨.SEQ_STAT, 19, 19⟩
def F.SEQ_STAT_RCOUNT : Fld := ⟨.SEQ_STAT, 18, 14⟩
def F.SEQ_STAT_OVF : Fld := ⟨.SEQ_STAT, 13, 6⟩
def F.SEQ_STAT_LRNSAT : Fld := ⟨.SEQ_STAT, 5, 5⟩
def F.SEQ_DUSE_DUSE : Fld := ⟨.SEQ_DUSE, 23, 0⟩
def F.SEQ_R_WORD : Fld := ⟨.SEQ_R, 23, 0⟩
def F.SEQ_POP_CLROVF : Fld := ⟨.SEQ_POP, 1, 1⟩
def F.SEQ_POP_POP : Fld := ⟨.SEQ_POP, 0, 0⟩
def F.SEQ_LRN_DO : Fld := ⟨.SEQ_LRN, 23, 12⟩
def F.SEQ_LRN_DC : Fld := ⟨.SEQ_LRN, 11, 0⟩
def F.SEQ_FORCE_FEN : Fld := ⟨.SEQ_FORCE, 23, 23⟩
def F.SEQ_FORCE_LS : Fld := ⟨.SEQ_FORCE, 22, 22⟩
def F.SEQ_FORCE_HSB : Fld := ⟨.SEQ_FORCE, 21, 21⟩
def F.SEQ_FORCE_BOOST : Fld := ⟨.SEQ_FORCE, 20, 20⟩
def F.SEQ_BINT_BINT : Fld := ⟨.SEQ_BINT, 12, 0⟩
def F.SEQ_BUD_BUDGET : Fld := ⟨.SEQ_BUD, 23, 0⟩
def F.SEQ_BUSE_BUSE : Fld := ⟨.SEQ_BUSE, 23, 0⟩
def F.SEQ_LCFG_RATE : Fld := ⟨.SEQ_LCFG, 23, 20⟩
def F.SEQ_LCFG_MINSHOTS : Fld := ⟨.SEQ_LCFG, 19, 8⟩
def F.SEQ_VREF_OPEN_REF : Fld := ⟨.SEQ_VREF, 23, 12⟩
def F.SEQ_VREF_CLOSE_REF : Fld := ⟨.SEQ_VREF, 11, 0⟩
def F.PCV_CFG_EN : Fld := ⟨.PCV_CFG, 23, 23⟩
def F.PCV_CFG_ROLE : Fld := ⟨.PCV_CFG, 22, 21⟩
def F.PCV_CFG_STORE : Fld := ⟨.PCV_CFG, 20, 20⟩
def F.PCV_STAT_BUSY : Fld := ⟨.PCV_STAT, 23, 20⟩
def F.PCV_STAT_SUB : Fld := ⟨.PCV_STAT, 19, 19⟩
def F.PCV_STAT_FAILED : Fld := ⟨.PCV_STAT, 18, 18⟩
def F.PCV_STAT_QPEND : Fld := ⟨.PCV_STAT, 17, 10⟩
def F.PCV_STAT_RCOUNT : Fld := ⟨.PCV_STAT, 9, 5⟩
def F.PCV_ERR_OVR : Fld := ⟨.PCV_ERR, 5, 5⟩
def F.PCV_ERR_DROP : Fld := ⟨.PCV_ERR, 4, 4⟩
def F.PCV_ERR_NOSLOT : Fld := ⟨.PCV_ERR, 3, 3⟩
def F.PCV_ERR_BUFOVF : Fld := ⟨.PCV_ERR, 2, 2⟩
def F.PCV_ERR_RQOVF : Fld := ⟨.PCV_ERR, 1, 1⟩
def F.PCV_CNT_OVRS : Fld := ⟨.PCV_CNT, 23, 12⟩
def F.PCV_CNT_NOSLOTS : Fld := ⟨.PCV_CNT, 11, 0⟩
def F.PCV_CMD_OP : Fld := ⟨.PCV_CMD, 23, 22⟩
def F.PCV_CMD_SLOT : Fld := ⟨.PCV_CMD, 1, 0⟩
def F.PCV_WBUF_BASE : Fld := ⟨.PCV_WBUF, 18, 0⟩
def F.PCV_WLEN_LEN : Fld := ⟨.PCV_WLEN, 13, 0⟩
def F.PCV_WR_WORD : Fld := ⟨.PCV_WR, 23, 0⟩
def F.PCV_WPOP_POP : Fld := ⟨.PCV_WPOP, 0, 0⟩
def F.PCV_SCAN_INPUT : Fld := ⟨.PCV_SCAN, 4, 0⟩
def F.PCV_SCANN_N : Fld := ⟨.PCV_SCANN, 4, 0⟩
def F.PCV_CYL_CP : Fld := ⟨.PCV_CYL, 23, 20⟩
def F.PCV_CYL_SPACE : Fld := ⟨.PCV_CYL, 7, 0⟩
def F.PCV_CYLG_CP : Fld := ⟨.PCV_CYLG, 23, 20⟩
def F.PCV_CYLG_SPACE : Fld := ⟨.PCV_CYLG, 7, 0⟩
def F.PCV_CPCFG_ALIGN : Fld := ⟨.PCV_CPCFG, 23, 22⟩
def F.PCV_AINCFG_ALIGN : Fld := ⟨.PCV_AINCFG, 23, 22⟩
def F.PCV_AINCFG_DIFF : Fld := ⟨.PCV_AINCFG, 21, 21⟩
def F.PCV_AINV_VALUE : Fld := ⟨.PCV_AINV, 23, 0⟩
def F.PCV_AINSTAT_OVR : Fld := ⟨.PCV_AINSTAT, 15, 0⟩
def F.PCV_SPARE_AUTO : Fld := ⟨.PCV_SPARE, 23, 23⟩
def F.PCV_SPARE_USED : Fld := ⟨.PCV_SPARE, 22, 22⟩
def F.PCV_SPARE_SPFAIL : Fld := ⟨.PCV_SPARE, 21, 21⟩
def F.PCV_SPARE_REPL : Fld := ⟨.PCV_SPARE, 20, 18⟩
def F.PCV_SPARE_FORCE : Fld := ⟨.PCV_SPARE, 17, 15⟩
def F.PCV_CHK_MISS : Fld := ⟨.PCV_CHK, 23, 16⟩
def F.PCV_CHK_UNDER : Fld := ⟨.PCV_CHK, 15, 13⟩
def F.PCV_CHK_MAXDIFF : Fld := ⟨.PCV_CHK, 12, 0⟩
def F.ATU_CFG_EN : Fld := ⟨.ATU_CFG, 23, 23⟩
def F.ATU_CFG_VUNIT : Fld := ⟨.ATU_CFG, 22, 22⟩
def F.ATU_CFG_MFEN : Fld := ⟨.ATU_CFG, 21, 21⟩
def F.ATU_CFG_MFNOTE : Fld := ⟨.ATU_CFG, 20, 20⟩
def F.ATU_CFG_RDIV : Fld := ⟨.ATU_CFG, 19, 16⟩
def F.ATU_GAMMA_GAMMA : Fld := ⟨.ATU_GAMMA, 17, 0⟩
def F.ATU_VD_VD : Fld := ⟨.ATU_VD, 23, 0⟩
def F.ATU_MFIMEP_TH : Fld := ⟨.ATU_MFIMEP, 23, 0⟩
def F.ATU_MFQ_TH : Fld := ⟨.ATU_MFQ, 23, 0⟩
def F.ATU_RSTART_ANGLE : Fld := ⟨.ATU_RSTART, 23, 0⟩
def F.ATU_REND_ANGLE : Fld := ⟨.ATU_REND, 23, 0⟩
def F.ATU_PEG_SRC : Fld := ⟨.ATU_PEG, 23, 22⟩
def F.ATU_PEG_AIN : Fld := ⟨.ATU_PEG, 21, 18⟩
def F.ATU_PEG_N : Fld := ⟨.ATU_PEG, 17, 14⟩
def F.ATU_PREF_PREF : Fld := ⟨.ATU_PREF, 23, 0⟩
def F.ATU_REFG_GAIN : Fld := ⟨.ATU_REFG, 23, 0⟩
def F.ATU_REFO_OFFSET : Fld := ⟨.ATU_REFO, 23, 0⟩
def F.ATU_FBG_KCA : Fld := ⟨.ATU_FBG, 23, 16⟩
def F.ATU_FBG_KIM : Fld := ⟨.ATU_FBG, 15, 8⟩
def F.ATU_MFSEG_START : Fld := ⟨.ATU_MFSEG, 23, 12⟩
def F.ATU_MFSEG_LEN : Fld := ⟨.ATU_MFSEG, 11, 0⟩
def F.ATU_MFTH_RATE : Fld := ⟨.ATU_MFTH, 23, 20⟩
def F.ATU_MFTH_TH : Fld := ⟨.ATU_MFTH, 15, 0⟩
def F.ATU_STAT_BUSY : Fld := ⟨.ATU_STAT, 23, 16⟩
def F.ATU_ERR_DUP : Fld := ⟨.ATU_ERR, 4, 4⟩
def F.ATU_ERR_NOTFULL : Fld := ⟨.ATU_ERR, 3, 3⟩
def F.ATU_ERR_PEGFAIL : Fld := ⟨.ATU_ERR, 2, 2⟩
def F.ATU_ERR_LATEFB : Fld := ⟨.ATU_ERR, 1, 1⟩
def F.ATU_ERR_INVALID : Fld := ⟨.ATU_ERR, 0, 0⟩
def F.ATU_CLR_CLRBASE : Fld := ⟨.ATU_CLR, 1, 1⟩
def F.ATU_CLR_CLRCNT : Fld := ⟨.ATU_CLR, 0, 0⟩
def F.ATU_CPG_GAIN : Fld := ⟨.ATU_CPG, 23, 0⟩
def F.ATU_CPO_OFFSET : Fld := ⟨.ATU_CPO, 23, 0⟩
def F.ATU_CYL_EN : Fld := ⟨.ATU_CYL, 23, 23⟩
def F.ATU_CYL_CAFB : Fld := ⟨.ATU_CYL, 22, 22⟩
def F.ATU_CYL_IMFB : Fld := ⟨.ATU_CYL, 21, 21⟩
def F.ATU_CYL_MAINTAG : Fld := ⟨.ATU_CYL, 9, 0⟩
def F.ATU_CA50T_TARGET : Fld := ⟨.ATU_CA50T, 23, 0⟩
def F.ATU_FB_ACORR : Fld := ⟨.ATU_FB, 23, 12⟩
def F.ATU_FB_ECORR : Fld := ⟨.ATU_FB, 11, 0⟩
def F.ATU_MFS_MFCNT : Fld := ⟨.ATU_MFS, 23, 16⟩
def F.ATU_MFS_BASE : Fld := ⟨.ATU_MFS, 15, 0⟩
def F.ATU_VOL_V : Fld := ⟨.ATU_VOL, 23, 0⟩
def F.CMP_CFG_EN : Fld := ⟨.CMP_CFG, 23, 23⟩
def F.CMP_CFG_MODE : Fld := ⟨.CMP_CFG, 22, 21⟩
def F.CMP_CFG_INV : Fld := ⟨.CMP_CFG, 20, 20⟩
def F.CMP_CFG_INSEL : Fld := ⟨.CMP_CFG, 19, 15⟩
def F.CMP_CFG_TRIPEN : Fld := ⟨.CMP_CFG, 14, 14⟩
def F.CMP_CFG_TL : Fld := ⟨.CMP_CFG, 13, 11⟩
def F.CMP_CFG_FAILSAFE : Fld := ⟨.CMP_CFG, 10, 10⟩
def F.CMP_CFG_EDGE : Fld := ⟨.CMP_CFG, 9, 8⟩
def F.CMP_CFG_IRQEN : Fld := ⟨.CMP_CFG, 7, 7⟩
def F.CMP_CFG_IRQDST : Fld := ⟨.CMP_CFG, 6, 5⟩
def F.CMP_CFG_CAPEN : Fld := ⟨.CMP_CFG, 4, 4⟩
def F.CMP_CFG_TCAPEN : Fld := ⟨.CMP_CFG, 3, 3⟩
def F.CMP_CFG_WAKEEN : Fld := ⟨.CMP_CFG, 2, 2⟩
def F.CMP_TH_TH_HI : Fld := ⟨.CMP_TH, 21, 12⟩
def F.CMP_TH_TH_LO : Fld := ⟨.CMP_TH, 9, 0⟩
def F.CMP_HYS_HYS : Fld := ⟨.CMP_HYS, 5, 0⟩
def F.CMP_BLK_BLEN : Fld := ⟨.CMP_BLK, 23, 23⟩
def F.CMP_BLK_BLPOL : Fld := ⟨.CMP_BLK, 22, 22⟩
def F.CMP_BLK_SRC : Fld := ⟨.CMP_BLK, 21, 17⟩
def F.CMP_BLK_SRCOUT : Fld := ⟨.CMP_BLK, 16, 16⟩
def F.CMP_BLK_BLMAX : Fld := ⟨.CMP_BLK, 9, 0⟩
def F.CMP_STAT_OUT : Fld := ⟨.CMP_STAT, 23, 23⟩
def F.CMP_STAT_RAW : Fld := ⟨.CMP_STAT, 22, 22⟩
def F.CMP_STAT_UNSETTLED : Fld := ⟨.CMP_STAT, 21, 21⟩
def F.CMP_STAT_BLANKED : Fld := ⟨.CMP_STAT, 20, 20⟩
def F.CMP_STAT_ABOVE : Fld := ⟨.CMP_STAT, 19, 19⟩
def F.CMP_STAT_BELOW : Fld := ⟨.CMP_STAT, 18, 18⟩
def F.CMP_STAT_FAILED : Fld := ⟨.CMP_STAT, 17, 17⟩
def F.CMP_STAT_SPARE : Fld := ⟨.CMP_STAT, 16, 16⟩
def F.CMP_EVT_BLERR : Fld := ⟨.CMP_EVT, 3, 3⟩
def F.CMP_EVT_CAPOVF : Fld := ⟨.CMP_EVT, 2, 2⟩
def F.CMP_EVT_FALL : Fld := ⟨.CMP_EVT, 1, 1⟩
def F.CMP_EVT_RISE : Fld := ⟨.CMP_EVT, 0, 0⟩
def F.CMP_CAPLO_LO : Fld := ⟨.CMP_CAPLO, 23, 0⟩
def F.CMP_CAPHI_HI : Fld := ⟨.CMP_CAPHI, 23, 0⟩
def F.CMP_TLSTAT_TL : Fld := ⟨.CMP_TLSTAT, 7, 0⟩
def F.CMP_SPARE_USED : Fld := ⟨.CMP_SPARE, 23, 20⟩
def F.CMP_SPARE_SFAIL : Fld := ⟨.CMP_SPARE, 19, 16⟩
def F.CMP_SPARE_FGO : Fld := ⟨.CMP_SPARE, 15, 15⟩
def F.CMP_SPARE_FIDX : Fld := ⟨.CMP_SPARE, 14, 10⟩
def F.PWM_CTRL_EN : Fld := ⟨.PWM_CTRL, 23, 23⟩
def F.PWM_CTRL_CMPL : Fld := ⟨.PWM_CTRL, 22, 22⟩
def F.PWM_CTRL_UPD : Fld := ⟨.PWM_CTRL, 21, 21⟩
def F.PWM_CTRL_POLICY : Fld := ⟨.PWM_CTRL, 20, 20⟩
def F.PWM_CTRL_GSYNC : Fld := ⟨.PWM_CTRL, 19, 19⟩
def F.PWM_PER_PER : Fld := ⟨.PWM_PER, 23, 0⟩
def F.PWM_INIT_INIT : Fld := ⟨.PWM_INIT, 23, 0⟩
def F.PWM_AON_VALUE : Fld := ⟨.PWM_AON, 23, 0⟩
def F.PWM_AOFF_VALUE : Fld := ⟨.PWM_AOFF, 23, 0⟩
def F.PWM_BON_VALUE : Fld := ⟨.PWM_BON, 23, 0⟩
def F.PWM_BOFF_VALUE : Fld := ⟨.PWM_BOFF, 23, 0⟩
def F.PWM_TAP_A_ON : Fld := ⟨.PWM_TAP, 23, 18⟩
def F.PWM_TAP_A_OFF : Fld := ⟨.PWM_TAP, 17, 12⟩
def F.PWM_TAP_B_ON : Fld := ⟨.PWM_TAP, 11, 6⟩
def F.PWM_TAP_B_OFF : Fld := ⟨.PWM_TAP, 5, 0⟩
def F.PWM_OVR_SWAP : Fld := ⟨.PWM_OVR, 2, 2⟩
def F.PWM_OVR_INVA : Fld := ⟨.PWM_OVR, 1, 1⟩
def F.PWM_OVR_INVB : Fld := ⟨.PWM_OVR, 0, 0⟩
def F.PWM_LOAD_LOAD : Fld := ⟨.PWM_LOAD, 0, 0⟩
def F.PWM_DT_DT : Fld := ⟨.PWM_DT, 15, 0⟩
def F.PWM_MINP_MINP : Fld := ⟨.PWM_MINP, 15, 0⟩
def F.PWM_BS_EN : Fld := ⟨.PWM_BS, 23, 23⟩
def F.PWM_BS_BSMAX : Fld := ⟨.PWM_BS, 22, 12⟩
def F.PWM_BS_BSW : Fld := ⟨.PWM_BS, 11, 0⟩
def F.PWM_TRIP_LATCH : Fld := ⟨.PWM_TRIP, 23, 23⟩
def F.PWM_TRIP_CLRREF : Fld := ⟨.PWM_TRIP, 22, 22⟩
def F.PWM_TRIP_SWSET : Fld := ⟨.PWM_TRIP, 21, 21⟩
def F.PWM_TRIP_SW : Fld := ⟨.PWM_TRIP, 20, 20⟩
def F.PWM_TRIP_TMASK : Fld := ⟨.PWM_TRIP, 15, 8⟩
def F.PWM_TRIP_LINES : Fld := ⟨.PWM_TRIP, 7, 0⟩
def F.PWM_NOW_COUNT : Fld := ⟨.PWM_NOW, 23, 0⟩
def F.PWM_STAT_RUN : Fld := ⟨.PWM_STAT, 23, 23⟩
def F.PWM_STAT_LDPEND : Fld := ⟨.PWM_STAT, 22, 22⟩
def F.PWM_STAT_FROZEN : Fld := ⟨.PWM_STAT, 21, 21⟩
def F.PWM_STAT_HIZ : Fld := ⟨.PWM_STAT, 20, 20⟩
def F.PWM_STAT_REFRESH : Fld := ⟨.PWM_STAT, 19, 19⟩
def F.PWM_STAT_POSTP : Fld := ⟨.PWM_STAT, 18, 18⟩
def F.PWM_STAT_OUTA : Fld := ⟨.PWM_STAT, 17, 17⟩
def F.PWM_STAT_OUTB : Fld := ⟨.PWM_STAT, 16, 16⟩
def F.PWM_ERR_LATE : Fld := ⟨.PWM_ERR, 5, 5⟩
def F.PWM_ERR_DROP : Fld := ⟨.PWM_ERR, 4, 4⟩
def F.PWM_ERR_STRETCH : Fld := ⟨.PWM_ERR, 3, 3⟩
def F.PWM_ERR_JOIN : Fld := ⟨.PWM_ERR, 2, 2⟩
def F.PWM_ERR_REFRESHED : Fld := ⟨.PWM_ERR, 1, 1⟩
def F.PWM_GSTART_START : Fld := ⟨.PWM_GSTART, 15, 0⟩
def F.PWM_GRUN_RUN : Fld := ⟨.PWM_GRUN, 15, 0⟩
def F.PWM_GFRZ_FRZ : Fld := ⟨.PWM_GFRZ, 0, 0⟩
def F.TMR_CFG_ONESHOT : Fld := ⟨.TMR_CFG, 23, 23⟩
def F.TMR_CFG_MRST : Fld := ⟨.TMR_CFG, 22, 22⟩
def F.TMR_CFG_MLNK : Fld := ⟨.TMR_CFG, 21, 20⟩
def F.TMR_CFG_OLNK : Fld := ⟨.TMR_CFG, 19, 18⟩
def F.TMR_CFG_LTGT : Fld := ⟨.TMR_CFG, 17, 14⟩
def F.TMR_CFG_OUTM : Fld := ⟨.TMR_CFG, 13, 12⟩
def F.TMR_CFG_LINK : Fld := ⟨.TMR_CFG, 11, 11⟩
def F.TMR_CFG_CAPEN : Fld := ⟨.TMR_CFG, 10, 10⟩
def F.TMR_CFG_CAPH : Fld := ⟨.TMR_CFG, 9, 9⟩
def F.TMR_CFG_CAPCMP : Fld := ⟨.TMR_CFG, 8, 4⟩
def F.TMR_CFG_WAKEEN : Fld := ⟨.TMR_CFG, 3, 3⟩
def F.TMR_CFG_IRQDST : Fld := ⟨.TMR_CFG, 2, 1⟩
def F.TMR_CFG_IRQEN : Fld := ⟨.TMR_CFG, 0, 0⟩
def F.TMR_CMP_VALUE : Fld := ⟨.TMR_CMP, 23, 0⟩
def F.TMR_CTRL_START : Fld := ⟨.TMR_CTRL, 23, 23⟩
def F.TMR_CTRL_STOP : Fld := ⟨.TMR_CTRL, 22, 22⟩
def F.TMR_CTRL_RESET : Fld := ⟨.TMR_CTRL, 21, 21⟩
def F.TMR_CTRL_ARM : Fld := ⟨.TMR_CTRL, 20, 20⟩
def F.TMR_CNT_COUNT : Fld := ⟨.TMR_CNT, 23, 0⟩
def F.TMR_HOLD_COUNT : Fld := ⟨.TMR_HOLD, 23, 0⟩
def F.TMR_CAP_COUNT : Fld := ⟨.TMR_CAP, 23, 0⟩
def F.TMR_STAT_RUN : Fld := ⟨.TMR_STAT, 23, 23⟩
def F.TMR_STAT_DONE : Fld := ⟨.TMR_STAT, 22, 22⟩
def F.TMR_STAT_OUT : Fld := ⟨.TMR_STAT, 21, 21⟩
def F.TMR_STAT_SPARE : Fld := ⟨.TMR_STAT, 20, 20⟩
def F.TMR_STAT_FAILED : Fld := ⟨.TMR_STAT, 19, 19⟩
def F.TMR_EVT_NOSTART : Fld := ⟨.TMR_EVT, 4, 4⟩
def F.TMR_EVT_LATE : Fld := ⟨.TMR_EVT, 3, 3⟩
def F.TMR_EVT_CAPOVF : Fld := ⟨.TMR_EVT, 2, 2⟩
def F.TMR_EVT_OVF : Fld := ⟨.TMR_EVT, 1, 1⟩
def F.TMR_EVT_MATCH : Fld := ⟨.TMR_EVT, 0, 0⟩
def F.TMR_OWNL_OWN : Fld := ⟨.TMR_OWNL, 23, 0⟩
def F.TMR_OWNH_OWN : Fld := ⟨.TMR_OWNH, 7, 0⟩
def F.TMR_SPARE_SFAIL : Fld := ⟨.TMR_SPARE, 3, 2⟩
def F.TMR_SPARE_USED : Fld := ⟨.TMR_SPARE, 1, 0⟩
def F.PE_CFG_EN : Fld := ⟨.PE_CFG, 23, 23⟩
def F.PE_CFG_PROTO : Fld := ⟨.PE_CFG, 22, 21⟩
def F.PE_CFG_START : Fld := ⟨.PE_CFG, 20, 15⟩
def F.PE_CFG_SHDIR : Fld := ⟨.PE_CFG, 14, 14⟩
def F.PE_CFG_CHAIN : Fld := ⟨.PE_CFG, 13, 13⟩
def F.PE_IRQ_IRQEN : Fld := ⟨.PE_IRQ, 2, 2⟩
def F.PE_IRQ_IRQDST : Fld := ⟨.PE_IRQ, 1, 0⟩
def F.PE_PROTO0_TICK : Fld := ⟨.PE_PROTO0, 23, 14⟩
def F.PE_PROTO0_NIB : Fld := ⟨.PE_PROTO0, 13, 11⟩
def F.PE_PROTO0_CRCV : Fld := ⟨.PE_PROTO0, 10, 10⟩
def F.PE_PROTO0_PAUSE : Fld := ⟨.PE_PROTO0, 9, 9⟩
def F.PE_PROTO0_SERIAL : Fld := ⟨.PE_PROTO0, 8, 8⟩
def F.PE_PROTO0_RXPIN : Fld := ⟨.PE_PROTO0, 7, 6⟩
def F.PE_PROTO0_RATE : Fld := ⟨.PE_PROTO0, 23, 23⟩
def F.PE_PROTO0_DLEN : Fld := ⟨.PE_PROTO0, 22, 18⟩
def F.PE_PROTO0_CHK : Fld := ⟨.PE_PROTO0, 17, 17⟩
def F.PE_PROTO0_MODE : Fld := ⟨.PE_PROTO0, 16, 15⟩
def F.PE_PROTO0_SLOTS : Fld := ⟨.PE_PROTO0, 14, 13⟩
def F.PE_PROTO0_SYNCSRC : Fld := ⟨.PE_PROTO0, 12, 12⟩
def F.PE_PROTO0_RXPIN_PSI5 : Fld := ⟨.PE_PROTO0, 11, 10⟩
def F.PE_PROTO0_SYNCPIN : Fld := ⟨.PE_PROTO0, 9, 8⟩
def F.PE_PROTO1_SYNCPER : Fld := ⟨.PE_PROTO1, 23, 12⟩
def F.PE_PROTO1_SYNCW : Fld := ⟨.PE_PROTO1, 11, 4⟩
def F.PE_PIN_SRC : Fld := ⟨.PE_PIN, 23, 22⟩
def F.PE_PIN_UNIT : Fld := ⟨.PE_PIN, 21, 18⟩
def F.PE_PIN_OUTSEL : Fld := ⟨.PE_PIN, 17, 17⟩
def F.PE_PIN_OD : Fld := ⟨.PE_PIN, 16, 16⟩
def F.PE_PIN_PULL : Fld := ⟨.PE_PIN, 15, 14⟩
def F.PE_PIN_INIT : Fld := ⟨.PE_PIN, 13, 13⟩
def F.PE_STAT_RUN : Fld := ⟨.PE_STAT, 23, 23⟩
def F.PE_STAT_STALL : Fld := ⟨.PE_STAT, 22, 22⟩
def F.PE_STAT_SKIND : Fld := ⟨.PE_STAT, 21, 19⟩
def F.PE_STAT_TRGPEND : Fld := ⟨.PE_STAT, 18, 18⟩
def F.PE_STAT_PC : Fld := ⟨.PE_STAT, 17, 12⟩
def F.PE_STAT_SC : Fld := ⟨.PE_STAT, 11, 7⟩
def F.PE_FSTAT_RQCNT : Fld := ⟨.PE_FSTAT, 7, 4⟩
def F.PE_FSTAT_SQCNT : Fld := ⟨.PE_FSTAT, 2, 0⟩
def F.PE_ERR_ILLEGAL : Fld := ⟨.PE_ERR, 5, 5⟩
def F.PE_ERR_ABANDON : Fld := ⟨.PE_ERR, 4, 4⟩
def F.PE_ERR_LATE : Fld := ⟨.PE_ERR, 3, 3⟩
def F.PE_ERR_TRGOVF : Fld := ⟨.PE_ERR, 2, 2⟩
def F.PE_ERR_FRMERR : Fld := ⟨.PE_ERR, 1, 1⟩
def F.PE_ERR_RXOVF : Fld := ⟨.PE_ERR, 0, 0⟩
def F.PE_CNT_FRAMES : Fld := ⟨.PE_CNT, 23, 12⟩
def F.PE_CNT_REJECTS : Fld := ⟨.PE_CNT, 11, 0⟩
def F.PE_SQ_WORD : Fld := ⟨.PE_SQ, 23, 0⟩
def F.PE_RQ_WORD : Fld := ⟨.PE_RQ, 23, 0⟩
def F.PE_RQPOP_POP : Fld := ⟨.PE_RQPOP, 0, 0⟩
def F.PE_A_VALUE : Fld := ⟨.PE_A, 23, 0⟩
def F.PE_B_VALUE : Fld := ⟨.PE_B, 23, 0⟩
def F.PE_TLO_LO : Fld := ⟨.PE_TLO, 23, 0⟩
def F.PE_THI_HI : Fld := ⟨.PE_THI, 23, 0⟩
def F.PE_TRG_VALUE : Fld := ⟨.PE_TRG, 23, 0⟩
def F.PE_PINS_DRIVE : Fld := ⟨.PE_PINS, 7, 4⟩
def F.PE_PINS_IN : Fld := ⟨.PE_PINS, 3, 0⟩
def F.PE_SR_VALUE : Fld := ⟨.PE_SR, 23, 0⟩
def F.PE_FLAGS_FLAGS : Fld := ⟨.PE_FLAGS, 15, 0⟩
def F.PE_FSET_SET : Fld := ⟨.PE_FSET, 15, 0⟩
def F.PE_FCLR_CLR : Fld := ⟨.PE_FCLR, 15, 0⟩
def F.PE_GSTART_START : Fld := ⟨.PE_GSTART, 7, 0⟩
def F.MBX_DATA_WORD : Fld := ⟨.MBX_DATA, 23, 0⟩
def F.MBX_STAT_FULL : Fld := ⟨.MBX_STAT, 23, 23⟩
def F.MBX_STAT_CROSSED : Fld := ⟨.MBX_STAT, 22, 22⟩
def F.MBX_STAT_EMPTYEV : Fld := ⟨.MBX_STAT, 21, 21⟩
def F.MBX_STAT_ECAUSE : Fld := ⟨.MBX_STAT, 20, 19⟩
def F.MBX_STAT_SNDRST : Fld := ⟨.MBX_STAT, 18, 18⟩
def F.MBX_STAT_EMPTYRD : Fld := ⟨.MBX_STAT, 17, 17⟩
def F.MBX_CFG_SECURE : Fld := ⟨.MBX_CFG, 23, 23⟩
def F.MBX_CFG_SENDER : Fld := ⟨.MBX_CFG, 22, 19⟩
def F.MBX_CFG_RECEIVER : Fld := ⟨.MBX_CFG, 18, 15⟩
def F.MBX_CFG_PAIRED : Fld := ⟨.MBX_CFG, 14, 14⟩
def F.MBX_CFG_PAIR : Fld := ⟨.MBX_CFG, 13, 10⟩
def F.MBX_IEN_EMPTYIE : Fld := ⟨.MBX_IEN, 23, 23⟩
def F.MBX_IEN_FULLIE : Fld := ⟨.MBX_IEN, 22, 22⟩
def F.MBX_IEN_CROSSIE : Fld := ⟨.MBX_IEN, 21, 21⟩
def F.MBX_IEN_SNDRSTIE : Fld := ⟨.MBX_IEN, 20, 20⟩
def F.MBX_XTO_TIMEOUT : Fld := ⟨.MBX_XTO, 15, 0⟩
def F.CAN_CTRL_EN : Fld := ⟨.CAN_CTRL, 23, 23⟩
def F.CAN_CTRL_FDEN : Fld := ⟨.CAN_CTRL, 22, 22⟩
def F.CAN_CTRL_BRSEN : Fld := ⟨.CAN_CTRL, 21, 21⟩
def F.CAN_CTRL_TDCEN : Fld := ⟨.CAN_CTRL, 20, 20⟩
def F.CAN_CTRL_LISTEN : Fld := ⟨.CAN_CTRL, 19, 19⟩
def F.CAN_NBT_BRP : Fld := ⟨.CAN_NBT, 23, 16⟩
def F.CAN_NBT_TSEG1 : Fld := ⟨.CAN_NBT, 15, 8⟩
def F.CAN_NBT_TSEG2 : Fld := ⟨.CAN_NBT, 7, 4⟩
def F.CAN_NBT_SJW : Fld := ⟨.CAN_NBT, 3, 0⟩
def F.CAN_DBT_BRP : Fld := ⟨.CAN_DBT, 23, 16⟩
def F.CAN_DBT_TSEG1 : Fld := ⟨.CAN_DBT, 15, 8⟩
def F.CAN_DBT_TSEG2 : Fld := ⟨.CAN_DBT, 7, 4⟩
def F.CAN_DBT_SJW : Fld := ⟨.CAN_DBT, 3, 0⟩
def F.CAN_STAT_STATE : Fld := ⟨.CAN_STAT, 23, 22⟩
def F.CAN_STAT_TEC : Fld := ⟨.CAN_STAT, 15, 8⟩
def F.CAN_STAT_REC : Fld := ⟨.CAN_STAT, 7, 0⟩
def F.QHL_BIND_LINK : Fld := ⟨.QHL_BIND, 23, 23⟩
def F.QHL_BIND_AUTO : Fld := ⟨.QHL_BIND, 22, 22⟩
def F.QHL_STAT_STATE : Fld := ⟨.QHL_STAT, 23, 22⟩
def F.QHL_STAT_SRVB : Fld := ⟨.QHL_STAT, 21, 21⟩
def F.QHL_STAT_SRVA : Fld := ⟨.QHL_STAT, 20, 20⟩
def F.QHL_STAT_OUTST : Fld := ⟨.QHL_STAT, 5, 0⟩
def F.QHL_ERR_DOWN : Fld := ⟨.QHL_ERR, 7, 7⟩
def F.QHL_ERR_TRNFAIL : Fld := ⟨.QHL_ERR, 6, 6⟩
def F.QHL_ERR_RETXLIM : Fld := ⟨.QHL_ERR, 5, 5⟩
def F.QHL_ERR_ALIGN : Fld := ⟨.QHL_ERR, 4, 4⟩
def F.QHL_ERR_CRC : Fld := ⟨.QHL_ERR, 3, 3⟩
def F.QHL_ERR_SEQ : Fld := ⟨.QHL_ERR, 2, 2⟩
def F.QHL_ERR_REJECT : Fld := ⟨.QHL_ERR, 1, 1⟩
def F.QHL_ERR_CREDIT : Fld := ⟨.QHL_ERR, 0, 0⟩
def F.QHL_CNT0_CRCERRS : Fld := ⟨.QHL_CNT0, 23, 12⟩
def F.QHL_CNT0_RETX : Fld := ⟨.QHL_CNT0, 11, 0⟩
def F.QHL_CNT1_CODEERRS : Fld := ⟨.QHL_CNT1, 23, 12⟩
def F.QHL_CNT1_DOWNS : Fld := ⟨.QHL_CNT1, 11, 4⟩
def F.QHL_CNT2_REJECTS : Fld := ⟨.QHL_CNT2, 23, 12⟩
def F.QHL_CNT2_SEQDROPS : Fld := ⟨.QHL_CNT2, 11, 0⟩
def F.QHL_CMD_CLRCNT : Fld := ⟨.QHL_CMD, 1, 1⟩
def F.QHL_CMD_LRST : Fld := ⟨.QHL_CMD, 0, 0⟩
def F.QHL_BULK_OPEN : Fld := ⟨.QHL_BULK, 23, 23⟩
def F.QHL_BULK_FILL : Fld := ⟨.QHL_BULK, 19, 0⟩
def F.EUL_PCFG_ROLE : Fld := ⟨.EUL_PCFG, 23, 21⟩
def F.EUL_PCFG_LANE_AUTO : Fld := ⟨.EUL_PCFG, 20, 20⟩
def F.EUL_PCFG_ASYM : Fld := ⟨.EUL_PCFG, 15, 0⟩
def F.EUL_PSTAT_STATE : Fld := ⟨.EUL_PSTAT, 23, 22⟩
def F.EUL_PSTAT_LANE : Fld := ⟨.EUL_PSTAT, 21, 21⟩
def F.EUL_PSTAT_SPAREUSE : Fld := ⟨.EUL_PSTAT, 20, 20⟩
def F.EUL_PSTAT_LANEFAIL : Fld := ⟨.EUL_PSTAT, 19, 19⟩
def F.EUL_PSTAT_WRAP : Fld := ⟨.EUL_PSTAT, 18, 18⟩
def F.EUL_PSTAT_PDELAY : Fld := ⟨.EUL_PSTAT, 15, 0⟩
def F.EUL_PCNT0_CODEERRS : Fld := ⟨.EUL_PCNT0, 23, 12⟩
def F.EUL_PCNT0_DOWNS : Fld := ⟨.EUL_PCNT0, 11, 4⟩
def F.EUL_PCNT1_CRCERRS : Fld := ⟨.EUL_PCNT1, 23, 12⟩
def F.EUL_PCNT1_HOPDROPS : Fld := ⟨.EUL_PCNT1, 11, 0⟩
def F.EUL_NODE_EN : Fld := ⟨.EUL_NODE, 23, 23⟩
def F.EUL_NODE_TOPO : Fld := ⟨.EUL_NODE, 22, 20⟩
def F.EUL_NODE_GROUP : Fld := ⟨.EUL_NODE, 19, 16⟩
def F.EUL_NODE_NODE : Fld := ⟨.EUL_NODE, 13, 0⟩
def F.EUL_PRI_TPRI : Fld := ⟨.EUL_PRI, 23, 20⟩
def F.EUL_PRI_APRI : Fld := ⟨.EUL_PRI, 19, 16⟩
def F.EUL_PRI_ABCAST : Fld := ⟨.EUL_PRI, 15, 15⟩
def F.EUL_TSTAT_LOCK : Fld := ⟨.EUL_TSTAT, 23, 23⟩
def F.EUL_TSTAT_TMASTER : Fld := ⟨.EUL_TSTAT, 22, 22⟩
def F.EUL_TSTAT_HOLDOVER : Fld := ⟨.EUL_TSTAT, 21, 21⟩
def F.EUL_TSTAT_HOPSM : Fld := ⟨.EUL_TSTAT, 20, 14⟩
def F.EUL_TSTAT_TM_ID : Fld := ⟨.EUL_TSTAT, 13, 0⟩
def F.EUL_ASTAT_AMASTER : Fld := ⟨.EUL_ASTAT, 23, 23⟩
def F.EUL_ASTAT_AVALID : Fld := ⟨.EUL_ASTAT, 22, 22⟩
def F.EUL_ASTAT_AM_ID : Fld := ⟨.EUL_ASTAT, 13, 0⟩
def F.EUL_FTLO_LO : Fld := ⟨.EUL_FTLO, 23, 0⟩
def F.EUL_FTHI_HI : Fld := ⟨.EUL_FTHI, 23, 0⟩
def F.EUL_OFFERR_ERR : Fld := ⟨.EUL_OFFERR, 15, 0⟩
def F.EUL_ERR_CYCERR : Fld := ⟨.EUL_ERR, 8, 8⟩
def F.EUL_ERR_DUPID : Fld := ⟨.EUL_ERR, 7, 7⟩
def F.EUL_ERR_LANESW : Fld := ⟨.EUL_ERR, 6, 6⟩
def F.EUL_ERR_LOCKLOSS : Fld := ⟨.EUL_ERR, 5, 5⟩
def F.EUL_ERR_AMCHG : Fld := ⟨.EUL_ERR, 4, 4⟩
def F.EUL_ERR_TMCHG : Fld := ⟨.EUL_ERR, 3, 3⟩
def F.EUL_ERR_HEALED : Fld := ⟨.EUL_ERR, 2, 2⟩
def F.EUL_ERR_WRAPPED : Fld := ⟨.EUL_ERR, 1, 1⟩
def F.EUL_CLR_CLRCNT : Fld := ⟨.EUL_CLR, 0, 0⟩
def F.EUL_PHCFG_EN : Fld := ⟨.EUL_PHCFG, 23, 23⟩
def F.EUL_PHCFG_REFGRP : Fld := ⟨.EUL_PHCFG, 21, 18⟩
def F.EUL_PHCFG_PER : Fld := ⟨.EUL_PHCFG, 17, 0⟩
def F.EUL_PHOFF_PHOFF : Fld := ⟨.EUL_PHOFF, 23, 0⟩
def F.EUL_PHWIN_TOL : Fld := ⟨.EUL_PHWIN, 23, 12⟩
def F.EUL_PHWIN_SLIP : Fld := ⟨.EUL_PHWIN, 11, 0⟩
def F.EUL_PHN_PHDST : Fld := ⟨.EUL_PHN, 23, 10⟩
def F.EUL_PHN_PH_N : Fld := ⟨.EUL_PHN, 9, 0⟩
def F.EUL_PHSTAT_INWIN : Fld := ⟨.EUL_PHSTAT, 23, 23⟩
def F.EUL_PHSTAT_REFOK : Fld := ⟨.EUL_PHSTAT, 22, 22⟩
def F.EUL_PHSTAT_D : Fld := ⟨.EUL_PHSTAT, 17, 0⟩
def F.EUL_PHSLIP_SLIP : Fld := ⟨.EUL_PHSLIP, 15, 0⟩
def F.HLM_CFG_CHALLENGE : Fld := ⟨.HLM_CFG, 23, 16⟩
def F.HLM_CFG_ISLCAN : Fld := ⟨.HLM_CFG, 15, 14⟩
def F.HLM_CFG_NOTEMIN : Fld := ⟨.HLM_CFG, 13, 10⟩
def F.HLM_STAT_HELM : Fld := ⟨.HLM_STAT, 23, 22⟩
def F.HLM_STAT_PREF : Fld := ⟨.HLM_STAT, 21, 21⟩
def F.HLM_STAT_CLAIM : Fld := ⟨.HLM_STAT, 20, 20⟩
def F.HLM_STAT_PEERCLAIM : Fld := ⟨.HLM_STAT, 19, 19⟩
def F.HLM_STAT_PEERDOWN : Fld := ⟨.HLM_STAT, 18, 18⟩
def F.HLM_STAT_BRIDGE : Fld := ⟨.HLM_STAT, 17, 17⟩
def F.HLM_STAT_PEERFW : Fld := ⟨.HLM_STAT, 16, 16⟩
def F.HLM_STAT_OWNQ : Fld := ⟨.HLM_STAT, 15, 8⟩
def F.HLM_STAT_PEERQ : Fld := ⟨.HLM_STAT, 7, 0⟩
def F.HLM_DISP_QMIN : Fld := ⟨.HLM_DISP, 23, 16⟩
def F.HLM_DISP_PQMIN : Fld := ⟨.HLM_DISP, 15, 8⟩
def F.HLM_DISP_EVALS : Fld := ⟨.HLM_DISP, 1, 0⟩
def F.HLM_CNT_DISPUTES : Fld := ⟨.HLM_CNT, 23, 16⟩
def F.HLM_CNT_ISLANDS : Fld := ⟨.HLM_CNT, 15, 8⟩
def F.HLM_CNT_HANDOVERS : Fld := ⟨.HLM_CNT, 7, 0⟩
def F.HLM_ERR_ISLAND : Fld := ⟨.HLM_ERR, 4, 4⟩
def F.HLM_ERR_DISPUTE : Fld := ⟨.HLM_ERR, 3, 3⟩
def F.HLM_ERR_YIELDED : Fld := ⟨.HLM_ERR, 2, 2⟩
def F.HLM_ERR_LOGLOSS : Fld := ⟨.HLM_ERR, 1, 1⟩
def F.HLM_ERR_LOCKSTEP : Fld := ⟨.HLM_ERR, 0, 0⟩
def F.HLM_CLR_CLRCNT : Fld := ⟨.HLM_CLR, 0, 0⟩
def F.LOG_STAT_WPTR : Fld := ⟨.LOG_STAT, 23, 16⟩
def F.LOG_STAT_FULL : Fld := ⟨.LOG_STAT, 15, 15⟩
def F.LOG_STAT_QFILL : Fld := ⟨.LOG_STAT, 5, 0⟩
def F.LOG_WRAPS_WRAPS : Fld := ⟨.LOG_WRAPS, 15, 0⟩
def F.LOG_CMD_CLEAR : Fld := ⟨.LOG_CMD, 0, 0⟩
def F.LOG_LOSS_LOST : Fld := ⟨.LOG_LOSS, 7, 0⟩
def F.PWR_POL_TGTA : Fld := ⟨.PWR_POL, 23, 21⟩
def F.PWR_POL_TGTB : Fld := ⟨.PWR_POL, 20, 18⟩
def F.PWR_POL_IDLE : Fld := ⟨.PWR_POL, 17, 8⟩
def F.PWR_STAT_STA : Fld := ⟨.PWR_STAT, 23, 21⟩
def F.PWR_STAT_STB : Fld := ⟨.PWR_STAT, 20, 18⟩
def F.PWR_STAT_DRV : Fld := ⟨.PWR_STAT, 17, 16⟩
def F.PWR_STAT_KEY : Fld := ⟨.PWR_STAT, 15, 15⟩
def F.PWR_STRAP_HELMPRE : Fld := ⟨.PWR_STRAP, 23, 23⟩
def F.PWR_STRAP_SASTART : Fld := ⟨.PWR_STRAP, 22, 22⟩
def F.AON_FREQ_ERR : Fld := ⟨.AON_FREQ, 15, 0⟩
def F.WAKE_CFG_KEYEN : Fld := ⟨.WAKE_CFG, 23, 23⟩
def F.WAKE_CFG_KEYPOL : Fld := ⟨.WAKE_CFG, 22, 22⟩
def F.WAKE_CFG_CRKCAM : Fld := ⟨.WAKE_CFG, 21, 16⟩
def F.WAKE_CFG_QHLEN : Fld := ⟨.WAKE_CFG, 15, 15⟩
def F.WAKE_CFG_FLEN : Fld := ⟨.WAKE_CFG, 14, 14⟩
def F.WAKE_TH_TH : Fld := ⟨.WAKE_TH, 15, 8⟩
def F.WAKE_TH_CNT : Fld := ⟨.WAKE_TH, 7, 0⟩
def F.WAKE_STAT_SRC : Fld := ⟨.WAKE_STAT, 14, 0⟩
def F.CRP_STAT_REFOK : Fld := ⟨.CRP_STAT, 23, 23⟩
def F.CRP_STAT_SYSLOCK : Fld := ⟨.CRP_STAT, 22, 22⟩
def F.CRP_STAT_ANGLOCK : Fld := ⟨.CRP_STAT, 21, 21⟩
def F.CRP_STAT_ADCLOCK : Fld := ⟨.CRP_STAT, 20, 20⟩
def F.CRP_STAT_HLLOCK : Fld := ⟨.CRP_STAT, 19, 19⟩
def F.CRP_STAT_RCAUSE : Fld := ⟨.CRP_STAT, 15, 8⟩
def F.CRP_WDOG_KICK : Fld := ⟨.CRP_WDOG, 0, 0⟩
def F.CRP_LADDER_DEEPEST : Fld := ⟨.CRP_LADDER, 23, 21⟩
def F.CRP_LADDER_WSRC : Fld := ⟨.CRP_LADDER, 20, 16⟩
def F.TAL_HDR_MAGIC : Fld := ⟨.TAL_HDR, 23, 0⟩
def F.TAL_INFO_FORMAT : Fld := ⟨.TAL_INFO, 23, 16⟩
def F.TAL_INFO_HALF : Fld := ⟨.TAL_INFO, 15, 15⟩
def F.TAL_INFO_NREC : Fld := ⟨.TAL_INFO, 7, 0⟩
def F.TAL_AGE_HOURS : Fld := ⟨.TAL_AGE, 23, 0⟩
def F.TAL_COMMITS_COUNT : Fld := ⟨.TAL_COMMITS, 23, 0⟩
def F.TAL_POL_SRAMTH : Fld := ⟨.TAL_POL, 23, 16⟩
def F.TAL_POL_WARN : Fld := ⟨.TAL_POL, 15, 8⟩
def F.TAL_POL_DT : Fld := ⟨.TAL_POL, 7, 0⟩
def F.TAL_CMD_SYNC : Fld := ⟨.TAL_CMD, 0, 0⟩
def F.TAL_RSW_RATED : Fld := ⟨.TAL_RSW, 23, 0⟩
def F.TAL_RTC_RATED : Fld := ⟨.TAL_RTC, 23, 0⟩
def F.TAL_REN_RATED : Fld := ⟨.TAL_REN, 23, 0⟩
def F.TAL_POOL_TOTAL : Fld := ⟨.TAL_POOL, 23, 16⟩
def F.TAL_POOL_USED : Fld := ⟨.TAL_POOL, 15, 8⟩
def F.TAL_POOL_FAILED : Fld := ⟨.TAL_POOL, 7, 0⟩
def F.TAL_W0_KIND : Fld := ⟨.TAL_W0, 23, 21⟩
def F.TAL_W0_INDEX : Fld := ⟨.TAL_W0, 20, 16⟩
def F.TAL_W0_INSVC : Fld := ⟨.TAL_W0, 15, 7⟩
def F.TAL_W0_WEARPCT : Fld := ⟨.TAL_W0, 6, 0⟩
def F.TAL_W1_SWLO : Fld := ⟨.TAL_W1, 23, 0⟩
def F.TAL_W2_SWHI : Fld := ⟨.TAL_W2, 23, 0⟩
def F.TAL_W3_TCYC : Fld := ⟨.TAL_W3, 23, 0⟩
def F.TAL_W4_ENLO : Fld := ⟨.TAL_W4, 23, 0⟩
def F.TAL_W5_ENHI : Fld := ⟨.TAL_W5, 23, 0⟩
def F.TAL_W6_TJPEAK : Fld := ⟨.TAL_W6, 23, 16⟩

end Sys2Proof.Machine
end

