-- ==== Sys2Proof/Machine/State.lean ====
section
/-!
DEFINITION. The state of the QTU-6424, as plain data. Every register of the spec has its home in `Block.regs`, under its
address, and its typed readings are fields `F.…` of Machine/RegMap.lean; the structures below hold what the spec gives
the blocks beside their registers. The outcome reasons stand at the end.
-/

namespace Sys2Proof.Machine

/-! ## Wheel trackers and the angle clock (chapters 2 and 3) -/

/-- One of the six wheel inputs, as the drive die sees it: CRK0, CRK1, CAM0-CAM3 in this order (rule R51). -/
structure FrontEnd where
  armed    : Bool   -- the zero-crossing detector is armed (rule R52)
  prevPeak : Nat    -- peak of the previous tooth, 20 mV per step; 0 after power-on and after 100 ms (rule R52)
  peak     : Nat    -- peak reached since the last timing edge
  deriving DecidableEq, Repr

/-- What a wheel tracker holds beyond its registers. Sync state, position, counters and errors stand in WTK_STAT,
WTK_POS, WTK_CNT and WTK_ERR. -/
structure Tracker where
  raw        : List (Bool × Nat) -- edges received and not yet filtered: true cam, and the timestamp (rules R41, R53)
  passed     : List (Bool × Nat) -- edges filtered and not yet judged
  lastEdge   : Option Nat        -- timestamp of the last accepted edge, none where none was accepted since idle
  lastP      : Nat               -- last accepted period in ticks, exact (0: none)
  lastS      : Nat               -- spacing that period covered, uncorrected AU (0: unknown, rule R60)
  lastCS     : Nat               -- the same spacing, corrected (rule R104)
  lastSkip   : Bool              -- that period spans a skipped entry (rules R62, R90)
  ratios     : List Frac         -- ratios r, newest first (rule R64)
  prevT      : Frac              -- T_prev of the following ratio (rule R64)
  periods    : List (Nat × Nat)  -- newest accepted periods with the entry each ended at (511 unknown), newest first
  rejHist    : List Bool         -- the last 64 edges, newest first, true where rejected (rule R72)
  camHist    : List Bool         -- the last 8 cam edges, newest first, true where a cam error (rule R72)
  camNamed   : Option (Nat × Nat) -- revolution named by the latest consecutive cam edges, and how many (rule R68)
  sinceCam   : Nat               -- AU travelled since the last correct cam edge (CAM_SEEN)
  fullTravel : Nat               -- AU travelled in FULL sync (rule R56)
  xMismatch  : Bool              -- a cross-check mismatch occurred in the present cycle (rule R72)
  agreed     : Bool              -- the last accepted edge agreed with the angle clock within XCHK_TOL (rule R56)
  dirLast    : Bool              -- direction last decoded: true reverse (rule R54)
  dirRun     : Nat               -- consecutive pulses decoded against the declared direction (rule R74)
  dirOpen    : Option Nat        -- timing edge whose trailing edge has not arrived (rule R54)
  dirSteps   : Nat               -- entries by which the pulses of that run stepped the position (rule R74)
  xTol       : Nat               -- XCHK_TOL in force, from the last accepted edge on (rule R85)
  stallTime  : Nat               -- STALL_TIME in force, likewise
  deriving DecidableEq, Repr

/-- How the angle clock stands to its reference trajectory (rules R92, R93, R95). -/
inductive ClkMode where
  | follow | halted | hold | catchup
  deriving DecidableEq, Repr

/-- The last movement of the angle clock: it passed every angle at a distance 1 to `len` AU from `start`, forward or,
with `rev`, backward (rules R94, R97). -/
structure Move where
  start   : Nat
  len     : Nat
  modulus : Nat
  jump    : Bool
  catchup : Bool
  rev     : Bool
  deriving DecidableEq, Repr

/-- What the angle clock of a half holds beyond its registers; ANG_STAT holds VALID, FULLRANGE, REV, HALTED, CATCHUP. -/
structure Clock where
  a        : Nat          -- A in 24.16 fixed point (rule R86)
  acc      : Frac         -- what A lacks of the reference trajectory, below one unit of 2^-16 AU (rule R87)
  mode     : ClkMode
  entAng   : Nat          -- ANG'[n], global or modulo 360 °CA (rule R91)
  te       : Nat          -- its timestamp t_e
  period   : Frac         -- the predicted period (T̂) in ticks (rule R90)
  s1       : Nat          -- corrected spacing to the next expected entry
  step     : Frac         -- STEP = s1 / T̂ (rule R91); 0 while invalid
  halt     : Nat          -- HALT in 24.16
  d        : Nat          -- D (rule R89) or DF (rule R110) of the last acceptance
  cuMul    : Nat          -- m of a catch-up (rule R95)
  hist     : List Frac    -- normalised periods, newest first (rule R90)
  haltLen  : Nat          -- ANGCLK spent in the present halt (rule R92)
  moved    : Option Move  -- the last movement, while the clock has been valid
  invalidSince : Option Nat  -- timestamp at which the clock became invalid (rules R144, R423)
  cycAt    : Option Nat   -- timestamp of the last cycle start
  cycLen   : Nat          -- duration of the last complete cycle in ticks, 0 none (rule R107)
  cycClean : Bool         -- no edge rejected since the last cycle start (rule R107)
  cycPrevClean : Bool     -- no edge rejected in the cycle before it
  norm     : List (Nat × Frac) -- timestamps and normalised periods accepted within the last cycle (rule R148)
  revT0    : Option Nat   -- pass of entry 0 that opened the present revolution (rule R105)
  revPrev  : Nat          -- duration of the revolution before, 0 none
  revOk    : Bool         -- the present revolution may be learned from (rule R105)
  revMarks : List (Nat × Nat) -- entries accepted in it with their timestamps
  deriving DecidableEq, Repr

/-! ## Event channels and admission (chapters 4 and 5) -/

/-- A pending entry of a cask (rules R117, R129, R486). -/
structure Entry where
  chan    : Nat
  tag     : Nat
  w0      : Word
  w1      : Word
  w2      : Word
  g       : Nat            -- global target G (rule R120)
  order   : Nat            -- insertion number, which orders equal targets and rechecks (rules R123, R164)
  written : Bool           -- false between the sampling clock and the write clock (rule R486)
  fwdArm  : Bool           -- to be armed in its write clock (rule R129)
  armed   : Bool
  armAt   : Nat            -- ANGCLK in which it was armed (rule R127)
  frozen  : Nat            -- whole part of the frozen time
  cmp     : Nat            -- compare value as written (rule R135)
  tap     : Nat            -- tap as written
  late    : Bool           -- the compare value had passed at arming (rule R127)
  deferral : Option (Nat × Word) -- deferred since this time under this code (rule R161)
  deriving DecidableEq, Repr

/-- A notice record (rule R139). -/
structure NRec where
  code   : Nat
  chan   : Nat
  tag    : Nat
  armErr : Word
  late   : Nat
  time   : Nat
  stamp  : Nat             -- the full count of that ANGCLK (rule R140)
  g      : Nat             -- global target of the entry, which places the record within its ANGCLK (rule R140)
  ord    : Nat             -- insertion number of the entry
  deriving DecidableEq, Repr

/-- A level command of an EVO line: the global target and insertion number of its entry, no target for the return of a pulse; its tap
and level (rule R131). -/
structure EvoLevel where
  g     : Option Nat
  ord   : Nat
  tap   : Nat
  level : Bool
  deriving DecidableEq, Repr

/-- The level commands of an EVO line in the last ANGCLK that gave it one: that ANGCLK, the level before it, the commands as they came
(rule R131). -/
structure EvoCmd where
  stamp : Nat
  was   : Bool
  cmds  : List EvoLevel
  deriving DecidableEq, Repr

/-- An insertion on its way to its channel (rule R121). -/
structure Insertion where
  port   : Nat
  chan   : Nat
  tag    : Nat
  w0     : Word
  w1     : Word
  w2     : Word
  static : Option (Nat × Nat)  -- MODE and record index of a static insertion (rule R149)
  deriving DecidableEq, Repr

/-! ## Schedules (chapter 6) -/

/-- A stored schedule image (rule R169). -/
structure Image where
  setId : Nat
  mode  : Nat
  words : List Word
  deriving DecidableEq, Repr

/-- The trims of one trimmable record: angle and energising trims in the units of rule R176, pending and active copies. -/
structure Trim where
  setId : Nat
  mode  : Nat
  chan  : Nat
  tag   : Nat
  cyl   : Nat
  hostP : Int × Int
  hostA : Int × Int
  anpP  : Int × Int
  anpA  : Int × Int
  deriving DecidableEq, Repr

/-- The schedule state of a half (rules R162 to R165, R180, R187 to R189). -/
structure Sched where
  store    : List Image
  active   : Nat                    -- SET_ID in force, 0 none
  pendSet  : Option Nat             -- an exchange waiting for the mode latch: the new SET_ID, 0 a deactivation (rule R188)
  leaving  : Bool                   -- the set was deactivated at the last latch in SERVICE (rule R188)
  prevSrc  : Option (Nat × Nat)     -- SET_ID and MODE whose records filled the cycle before
  curSrc   : Option (Nat × Nat)     -- and the present one
  nextSrc  : Option (Nat × Nat)     -- and the coming cycle, from the last mode latch on (rule R164)
  due      : List ((Nat × Nat) × Nat) -- records (SET_ID and MODE, index) whose INSERT was passed and that SCP has not yet inserted
  suspended : Bool                  -- static insertion suspended (rule R180)
  revSusp  : Bool                   -- reverse was declared: injection-class records are not inserted (rule R180)
  revRest  : Bool                   -- until the cycle start, the present cycle's injection-class records stay out (rule R180)
  suspCount : Nat                   -- cycle-start indications raised meanwhile
  suspInvalid : Bool                -- the clock was invalid meanwhile
  trims    : List Trim
  latched  : List (Nat × Nat × Nat × Nat) -- trim latches of the present ANGCLK: its count, SET_ID, MODE, cylinder (rule R157)
  staged   : Option Nat             -- a mode change taken at the last latch and not yet in effect (rule R165)
  shadowDone : Bool                 -- the transfer engine has written the mode shadows (rule R411)
  shadowLate : Bool                 -- the cycle start passed before it had (rule R411)
  svcLate  : Bool                   -- a SERVICE decision of the helm half has come before the own mode latch
  recheck  : Bool                   -- the certificate recheck failed since the last activation (rule R150)
  lossDue  : Bool                   -- a certified resource was lost and the recheck is still to run (rule R150)
  rsvOld   : Option (Nat × List Nat) -- the reserves that count in the ANGCLK named, in which others were loaded (rule R187)
  envOld   : Option (Nat × Word × Word) -- ADM_ENVN and ADM_ENVR in the ANGCLK named, in which they were told to follow (rule R167)
  deriving DecidableEq, Repr

/-! ## Injector sequencers and drive stages (chapter 7) -/

/-- A shot that a sequencer runs (rules R194 to R196, R203, R212). -/
structure Shot where
  chan    : Nat
  tag     : Nat
  prof    : Nat
  dyn     : Bool           -- a dynamic shot: its end replaces its bookings (rule R154)
  start   : Nat
  e       : Nat            -- energising time in ticks
  gntAt   : Option Nat     -- when GNT was first seen
  busy0   : Bool           -- BHS was not free at the start (rule R203)
  pkrAt   : Option Nat
  holdAt  : Option Nat     -- entry to hold 1 or hold 2
  quenchAt : Option Nat
  pkmiss  : Bool
  openld  : Bool
  trip    : Bool
  okNotice : Bool          -- the entry's notice carries OK (rule R213)
  sampled : Bool           -- a current-converter shot slot serves it (rule R234)
  deriving DecidableEq, Repr

/-- The timers and the pending threshold decision of one hold switch (rule R191). -/
structure Chop where
  blank   : Bool           -- comparator blanking after a switch edge
  minRun  : Bool           -- minimum on-time or off-time still running
  want    : Option Bool    -- decision taken meanwhile: the hold switch shall be on
  decay   : Bool           -- the current decays into the band of a hold phase from above it
  deriving DecidableEq, Repr

/-- One boost high-side switch's arbiter (rule R201). -/
structure Bhs where
  holder : Option Nat      -- 0 even, 1 odd channel of the pair
  waiter : Option Nat
  change : Bool            -- changeover running
  deriving DecidableEq, Repr

/-- Result record of a shot (rule R212) with what ANP needs to learn from it. -/
structure ShotRec where
  w0 : Word
  w1 : Word
  w2 : Word
  w3 : Word
  okNotice : Bool
  read : Bool              -- ANP has read it (rule R213)
  deriving DecidableEq, Repr

/-- Measured use of a finished dynamic shot (rules R208, R210): sequencer, grid slot, amount. -/
structure Use where
  seqr   : Nat
  slot   : Nat
  amount : Nat
  deriving DecidableEq, Repr

/-- The sequencer block of a half beyond its registers. -/
structure SeqBlock where
  shots   : List (Option Shot)       -- 12
  results : List (List ShotRec)      -- 12 queues of at most 16, oldest first
  lastEnd : List (Option Nat)        -- 12: end of the last shot, for the dwell (rule R161)
  count   : List Nat                 -- 12: shots since the last reset of the drifts (rule R213)
  restored : List Bool               -- 12: drifts restored by a write (rule R214)
  lrnDue  : List Bool                -- 12: SEQ_LRN was written and waits for the next learning update (rule R227)
  minShots : List Nat                -- 12: MINSHOTS as the last learning update took it (rule R227)
  drift   : List (Int × Int)         -- 12: opening and closing drift in ticks (rule R213)
  duty    : List Use                 -- actual on-time of finished dynamic shots, ticks (rule R210)
  energy  : List Use                 -- actual boost energy of finished dynamic shots, µJ (rule R208)
  deriving DecidableEq, Repr

/-- One running EVO pulse (rule R131): line, due return, tap. -/
structure Pulse where
  line : Nat
  due  : Nat
  tap  : Nat
  deriving DecidableEq, Repr
/-! ## Command protocol (chapter 16) -/

/-- A notice (rules R364, R374). -/
structure Notice where
  code  : Nat
  seq   : Nat
  words : List Word
  deriving DecidableEq, Repr

/-- A bulk stream (rules R358, R370). -/
structure Stream where
  id       : Nat
  incoming : Bool
  code     : Nat               -- command that opened it
  len      : Nat               -- declared length in words
  arg      : Nat               -- overlay number of a configuration stream
  pieces   : List (Nat × List Word) -- words received at their offsets, or the words still to be sent
  sent     : Nat               -- words sent of an outgoing stream
  deriving DecidableEq, Repr

/-- A long command that runs (rule R367) and the result its COMPLETION will carry. -/
structure LongCmd where
  code   : Nat
  secure : Bool                -- pair MBX0
  seq    : Nat
  helm   : Bool                -- module-wide
  arg    : Nat
  posted : Bool                -- an activation whose result is already posted (rule R187)
  helmLost : Bool              -- the half lost the helm meanwhile (rule R367)
  status : Word                -- status word of the result
  result : List Word
  deriving DecidableEq, Repr

/-- One command pair of a half: MBX0 and MBX1 (secure), or MBX4 and MBX5. -/
structure PairState where
  done : List (Word × List Word) -- headers and replies of the last 16 commands executed, newest first (rule R363)
  out  : List Word               -- reply words waiting for MBX1 or MBX5
  part : List Word               -- words that HIP has taken of a command not yet complete, its header first (rules R360, R362)
  wait : List (Word × List Word) -- commands that came while HIP did not act, oldest first: header and payload (rule R361)
  deriving DecidableEq, Repr

/-- A FAULT notice that waits (rules R416, R434): the ring index and the words of the entry, whether it is the other half's, and
whether it goes on every link that is up. -/
structure FaultDue where
  slot  : Nat
  entry : List Word
  peer  : Bool
  wide  : Bool
  deriving DecidableEq, Repr

/-- HIP's protocol state (rules R360 to R376). -/
structure Hip where
  running  : Bool              -- HIP has started
  sec      : PairState
  nonsec   : PairState
  mask     : Nat               -- NOTICE_MASK word
  seq      : Nat               -- SEQ of the next notice (rule R364)
  replay   : List Notice       -- the last 512 notices, oldest first (rule R376)
  out6     : List Notice       -- notices waiting for MBX6
  six      : List Word         -- words still to be posted of the notice begun
  soft     : List Notice       -- COMBUSTION, MISFIRE and CAN_RX notices waiting, at most 64 (rule R375)
  lost     : Nat × Nat × Nat   -- of them lost since the last DROPPED notice
  faults   : List FaultDue     -- FAULT notices waiting, at most 16 (rule R434)
  skipped  : Nat
  session  : Bool              -- a secure session is open (rule R368)
  nonce    : Option (List Word) -- unused nonce
  streams  : List Stream
  long     : Option LongCmd
  filters  : List (Nat × List Word) -- receive filters set, controller and filter number with the four words
  resetIn  : Option Bool       -- a reset ordered by RESET: true module (rule R371)
  roles    : List Nat          -- state of HIP, SCP, ANP, SUP: 0 own core, 1 taken by SPC, 2 vacant (rules R332, R333)
  cfg      : Nat               -- 0 none, 1 open, 2 committed (CFG_STATUS)
  overlays : List (Nat × Nat × List Word) -- committed overlays: mode, OVL_CRC and image words
  base     : List Word         -- image of the base in force
  cfgSeq   : Nat
  cfgCrc   : Nat
  standalone : Bool            -- a standalone start is still to be made (rule R413)
  bootReport : List Word       -- notices still to leave on the link that does not serve the half (rules R331, R416)
  keptFb   : List Word         -- 24: ATU_FBc as the last base commit found and kept them (rules R401, R411)
  deriving DecidableEq, Repr

/-! ## Helm, faults and log (chapter 19) -/

/-- A report on its way to the log engine (rule R433). -/
structure Report where
  code   : Nat
  cls    : Nat
  block  : Nat
  index  : Nat
  detail : Nat
  stamp  : Nat
  wide   : Bool   -- its FAULT notice goes on every link that is up (rule R416)
  deriving DecidableEq, Repr

/-- Helm, dispute and log state beyond HLM_STAT, HLM_DISP, LOG_STAT and LOG_LOSS. -/
structure HelmLog where
  lost      : Bool             -- the half treats the bridge as lost (rule R29)
  yielding  : Bool             -- the peer has yielded; its claims count again after a heartbeat without one (rule R423)
  lastBeat  : Option Word      -- last heartbeat received
  holder    : Option Nat       -- the last agreed holder: 0 this half, 1 the peer (HLM_CNT.HANDOVERS)
  fwBeats   : Bool             -- a heartbeat with FW 1 was sent
  straps    : Bool × Bool      -- HELMPRE and SASTART as the die sampled them (rule R451)
  claimAt   : Option Nat       -- when that was, until a claim is received or the 1 ms of rule R420 is over
  evalAt    : Option Nat       -- the last evaluation point of the present dispute (rule R423)
  peerQOk   : Bool             -- every heartbeat of the present cycle lay CHALLENGE below the own score (rule R422)
  qmin      : Option Nat       -- own QMIN while it is recorded
  pqmin     : Option Nat       -- QMIN received from the peer
  sentQ     : Bool             -- own QMIN sent
  queue     : List Report      -- at most 32
  lostCode  : List Nat         -- CODE of the last report lost of each block, 32
  lastSup   : Option Nat       -- timestamp of the last SUP lockstep fault (rule R428)
  wdogRun   : Bool             -- supervisor watchdog running (rule R429)
  latchE    : Nat × List Word  -- entry whose word 0 was read last, and its words 1 to 3 (rule R436)
  deriving DecidableEq, Repr

/-! ## The racking bridge (chapter 1) -/

/-- A frame of the fabric: three header words and payload (rule R382). -/
structure EFrame where
  w0  : Word
  w1  : Word
  w2  : Word
  pay : List Word
  deriving DecidableEq, Repr

/-- A word, or a message of words, on the racking bridge, in the priority order of its traffic (rule R29). -/
inductive BMsg where
  | beat (w : Word)                         -- heartbeat (rule R418)
  | qmin (q : Nat)                          -- helm message (rule R423)
  | service (sent : Nat)                    -- SERVICE decision, and the receiver's count when it was sent (rules R146, R488)
  | class4                                  -- class 4 request (rule R428)
  | deactivate (set : Nat)                  -- the set is to be deactivated (rule R184)
  | nextMode (m : Nat) (pend : Bool)        -- mode request for the peer (rule R373)
  | angle (stamp : Nat) (ang : Nat) (full : Bool) -- angle message (rule R83)
  | mbx (w : Word)                          -- a word for the peer's MBX14 (rule R335)
  | taken                                   -- the peer's MBX14 was taken
  | hipReset                                -- the peer's HIP was restarted (rule R339)
  | role (w : Word)                         -- health message: the ROLE word of a vacancy (rule R333)
  | write (who : Master) (a : Nat) (v : Word) -- a posted write (rule R48)
  | host (second : Bool) (w : Word)         -- a host word for MBX0 or MBX4 of the half the link serves over the bridge (rule R354)
  | freed (second : Bool)                   -- that mailbox is empty again
  | fab (out : Bool) (port arrival : Nat) (f : EFrame) -- a fabric frame, to leave on a port or to be acted on (rule R379)
  | part (prio : Nat)                       -- a word of a message of its class, before the word that carries it (rule R27)
  deriving DecidableEq, Repr

/-- One direction of the bridge: words written and not yet delivered, words whose sender waits for a credit, and words
the receiver has and has not yet acted on (rules R27, R28). -/
structure Lane where
  fifo : List BMsg    -- at most 32
  wait : List BMsg
  rx   : List BMsg
  deriving DecidableEq, Repr

/-! ## Pipeline converters and the attenuation unit (chapters 8 and 9) -/

/-- A point of a window that the angle clock has passed: its number, and whether a jump or a catch-up passed it. -/
structure WPoint where
  k       : Nat
  jump    : Bool
  catchup : Bool
  deriving DecidableEq, Repr

/-- One sample of a window that is being analysed: point, signed code, and whether a flag came with it. -/
structure Sample where
  k    : Nat
  code : Int
  flag : Bool
  deriving DecidableEq, Repr

/-- An open window of a combustion converter (rules R236 to R241). -/
structure Win where
  tag     : Nat
  frame   : Nat
  static  : Bool            -- opened by a static entry, whose use the static bookings hold (rule R154)
  g       : Nat             -- global angle of point 0
  count   : Nat             -- PARAM
  cp      : Nat
  space   : Nat
  next    : Nat             -- the first point not passed
  queue   : List WPoint     -- passed and not yet sampled, at most 255
  jump    : Bool
  catchup : Bool
  drop    : Bool
  flags   : Nat
  taken   : Nat
  time    : Nat
  store   : Option (Nat × Nat) -- at its opening: offset in SRAM of its slot's buffer and LEN, where samples are stored (rule R241)
  align   : Nat             -- ALIGN of its input at its opening
  buf     : Nat             -- SRAM word address of point 0, once that is stored
  atu     : Bool            -- analysed (rule R247)
  snap    : Mem             -- registers in force at the opening (rule R248)
  samples : List Sample     -- newest first, those of points below 4,096
  late    : Option Nat      -- count at which the cylinder's trim latch was passed after the last point (rule R257)
  held    : Bool            -- a mode change disabled its converter meanwhile, which alters no running window (rule R412)
  deriving DecidableEq, Repr

/-- A window whose samples are complete and whose result record is still to be written (rule R256). -/
structure AtuJob where
  ctx     : Nat             -- analysis context: 0-3 PCV0, 4-7 PCV1
  win     : Win
  endCode : Nat
  deriving DecidableEq, Repr

/-- One of PCV0 to PCV3 beyond its registers. -/
structure Conv where
  wins  : List (Option Win) -- 4 window slots of PCV0 and PCV1
  recs  : List (List Word)  -- window records, oldest first, at most 16
  shots : List (Option Nat) -- 4 shot slots of PCV2 and PCV3: the channel served
  recov : List (Nat × Nat)  -- inputs after an over-range, with the in-range conversions still to carry RCV (rule R242)
  ovrd  : Option (Nat × Nat) -- input and instant (frame position, or timestamp) of an over-range just made
  scan  : Nat               -- next entry of the scan list
  miss  : Nat               -- consecutive turns mismatched (rule R243)
  judged : Bool             -- judged failed and left in use with AUTO 0 (rule R244)
  other : Bool              -- another converter passed a check during them
  deriving DecidableEq, Repr

/-- A VALID record that ANP has not yet used, with what the record found in force (rules R257, R258, R264). -/
structure FbDue where
  cyl    : Nat
  ca50   : Nat
  imep   : Int
  target : Nat
  kca    : Nat
  kim    : Nat
  late   : Option Nat       -- count at which the cylinder's trim latch was passed meanwhile
  deriving DecidableEq, Repr

/-- The attenuation unit and ANP's combustion work beyond their registers. -/
structure Atu where
  jobs    : List AtuJob
  latch   : Nat × List Word      -- record whose word 0 was read last, and its words 1 to 10
  fbDue   : List FbDue           -- VALID records not yet used, oldest first (rule R258)
  fbHeld  : List (Option Word)   -- 24: the corrections in effect while a written ATU_FBc waits for the next record (rule R264)
  imep    : List (Option Int)    -- 24: latest VALID IMEP
  tau     : List (Option Frac)   -- 24: newest tau, none where the last segment gave none (rule R262)
  fuel    : List Bool            -- 24: an injection-class event of the frame executed (rule R261)
  crk     : List (Option (Bool × Bool × Int)) -- 24: crank-speed verdict not yet reported: CRKJUDGE, CRKMF, METRIC
  fresh   : List Bool            -- 24: a record not yet considered for a report
  since   : List Nat             -- 24: records since the last report (rule R263)
  deriving DecidableEq, Repr

/-! ## Pin engines (chapter 13) -/

/-- One pin engine beyond its registers; A, B, SR, SC, PC, flags of stalling and the pin levels stand in PE_A to PE_PINS. -/
structure Pe where
  sq      : List (Nat × Word) -- send queue, at most 6: each word with the count from which it may be taken (rule R319)
  rq      : List Word      -- receive queue, at most 12
  t       : Nat            -- time register T, 48 bits
  trgAt   : Nat            -- count at which the pending trigger was delivered
  begun   : Nat            -- count at which a stalled TWAIT began
  wake    : Nat            -- count at which it completes
  lateEnd : Bool           -- and with LATE (rule R320)
  prevCal : Nat            -- previous accepted calibration pulse in ticks, 0 none (rule R325)
  serial  : List (Nat × Nat) -- status bits 3 and 2 of the frames of a serial message so far, oldest first
  slot    : Nat            -- frames since the last sync pulse (rule R326)
  syncAt  : Option Nat     -- count at which that pulse began
  busy    : Bool           -- an instruction has begun or ended in the present ANGCLK (rule R316)
  deriving DecidableEq, Repr

/-- The shared flags within one ANGCLK (rule R323): that ANGCLK, the flags at its start, who wrote which flag in it, and
the flags consumed in it. -/
structure FlagClk where
  stamp    : Nat
  start    : Nat
  writers  : List (Nat × Nat)
  consumed : List Nat
  deriving DecidableEq, Repr

/-! ## Tally (chapter 21) -/

/-- Increments of one stage's wear record since the last commit (rules R459, R460, R462). -/
structure Wear where
  sw      : Nat
  tc      : Nat
  en      : Nat
  low     : Nat     -- last minimum of the junction, °C + 64; 255 before the first sample
  high    : Nat     -- maximum since then
  risen   : Bool    -- it has risen by DT
  peak    : Nat     -- highest junction recorded
  warned  : Nat     -- notified: 1 for WARN, 2 for 100 %, 3 both
  deriving DecidableEq, Repr

/-- What a half's non-volatile store records of its spares beside the TAL_* registers, as last committed (rules R456, R462). -/
structure TallyStore where
  replaced : List (Nat × Nat) -- as `Tally.replaced`
  lost     : List Nat         -- as `Half.lost`
  slotDue  : List Bool        -- as `Half.slotDue`
  spare    : List Nat         -- as `SramRows.spare`
  warned   : List Nat         -- as `Wear.warned`, 22
  deriving DecidableEq, Repr

/-- Live tally values of a half that the store does not hold yet. -/
structure Tally where
  used   : List Nat     -- 16 pools: exchanges
  failed : List Nat     -- 16 pools: failures met with the pool empty
  wear   : List Wear    -- 22 records
  latch  : List (Option Word × Option Word) -- 22: words 2 and 5 as a read of word 1 and of word 4 latched them (rule R465)
  replaced : List (Nat × Nat) -- entities recorded as replaced: kind and index, of an SRAM row bank * 65536 + row (rule R463)
  store  : TallyStore
  deriving DecidableEq, Repr
/-! ## Comparators, PWM units, timers and the ladder (chapters 10 to 12 and 20) -/

/-- One comparator beyond its registers; its decision, output and marks stand in CMP_STAT. -/
structure Cmp where
  cap    : Nat    -- captured timestamp, 48 bits
  unread : Bool   -- captured and not yet read through CMP_CAPLO (rule R271)
  ovrd   : Bool   -- the blanking guard overrides blanking (rule R269)
  heldAt : Option Nat -- V at a write of CMP_TH or CMP_HYS that left it past an edge: no decision until V crosses one (rule R274)
  deriving DecidableEq, Repr

/-- The update set of a PWM unit (rule R283). Compares in the order A_ON, A_OFF, B_ON, B_OFF. -/
structure PwmSet where
  per  : Nat
  cmp  : List Nat
  tap  : Nat
  ovr  : Nat
  deriving DecidableEq, Repr

/-- An edge inside the minimum-pulse filter: when it entered and leaves, in delay-line steps since the start; the level
it sets; the level of a start rather than an edge; postponed (rule R287). -/
structure PwmEdge where
  t     : Nat
  leave : Nat
  level : Bool
  init  : Bool
  post  : Bool
  deriving DecidableEq, Repr

/-- One filter of a PWM unit: S or A (channel 0), or B (channel 1). -/
structure PwmChan where
  inp   : Bool
  edges : List PwmEdge   -- oldest first
  out   : Option Bool    -- level that has left the filter; none until one has since the start
  deriving DecidableEq, Repr

/-- A compare match: its time in delay-line steps, and the compare, 0 A_ON, 1 A_OFF, 2 B_ON, 3 B_OFF. -/
structure PwmHit where
  t   : Nat
  cmp : Nat
  deriving DecidableEq, Repr

/-- A value in the 2-clock write pipeline of immediate mode (rules R284, R285): compare 0 to 3, or 4 the period. -/
structure PwmPipe where
  due  : Nat
  idx  : Nat
  v    : Nat
  late : Bool
  deriving DecidableEq, Repr

/-- One PWM unit beyond its registers. -/
structure Pwm where
  wait   : Bool           -- waits for PWM_GSTART (rule R279)
  run    : Option Nat     -- ANGCLK since the start, frozen ones left out; none while stopped
  count  : Nat            -- PWM_NOW
  act    : PwmSet         -- the set in force
  pend   : Option PwmSet  -- the pending set (rule R283)
  pend2  : Option PwmSet  -- a LOAD that left its queue in a wrap ANGCLK
  ovr    : Option Nat     -- overrides of immediate mode that wait for the wrap (rule R286)
  pipe   : List PwmPipe
  wrap   : Option Nat     -- the wrap passed last, not yet acted on: ANGCLK since the start
  hits   : List PwmHit    -- compare matches not yet acted on, in time order
  reqA   : Bool
  reqB   : Bool
  chA    : PwmChan
  chB    : PwmChan
  riseAt : Option Nat     -- last rising edge of S after the refresh stage, in steps (rule R288)
  refAt  : Option Nat     -- start of the refresh that runs, in ANGCLK
  lvlA   : Bool           -- level behind dead time, before trip gating
  lvlB   : Bool
  dtA    : Option Nat     -- a rise that dead time delays, in steps (rule R289)
  dtB    : Option Nat
  ovl    : List (Reg × Word) -- registers that an overlay changes at the next wrap (rule R293)
  clear  : Bool           -- trip latch cleared, outputs HIGH-Z until the wrap (rule R291)
  deriving DecidableEq, Repr

/-- A TMR_CMP value in its write pipeline (rule R300). -/
structure TmrWrite where
  v     : Nat    -- 48 bits for a pair
  left  : Nat    -- AONCLK left
  held  : Bool   -- written to a stopped timer
  seen  : Bool   -- the count has arrived at it meanwhile
  deriving DecidableEq, Repr

/-- One timer beyond its registers. -/
structure Tmr where
  hit    : Bool        -- its count has arrived at its compare value; the match is not yet acted on
  ovf    : Bool        -- its count has overflowed, not yet acted on
  mrst   : Bool        -- reset in the next AONCLK (rule R297)
  acts   : Nat × Nat   -- link actions due now and in the next AONCLK: bit 0 start, bit 1 reset (rule R299)
  stopped : Bool       -- stopped in this AONCLK, which a link start does not undo (rule R299)
  cmp    : Nat         -- the compare value in force; TMR_CMP holds the value last written (rules R300, R301)
  pipe   : List TmrWrite -- values in the write pipeline, oldest first
  cap    : Bool        -- a comparator edge was offered and not yet captured (rule R304)
  unread : Bool        -- a capture not yet read
  deriving DecidableEq, Repr

/-- The ladder state of a half beyond PWR_STAT and CRP_LADDER (rules R439 to R444). -/
structure Pwr where
  waking : Option Nat  -- WAKE_STAT bit of the wake that is being served, 31 where a condition of the descent failed
  going  : Bool        -- a descent runs and has not reached its target (rule R440)
  now    : Option (Nat × Nat) -- a wake event of the present AONCLK: its WAKE_STAT bit, and the lowest rung it wakes from (rule R444)
  deriving DecidableEq, Repr

/-! ## Processors, SRAM, mailboxes, CAN and the host link (chapters 14 and 15) -/

/-- A role whose core is judged failed and not yet dealt with: the cause of R432 block 15, and when. -/
structure CoreFail where
  role   : Nat
  reason : Nat
  stamp  : Nat
  deriving DecidableEq, Repr

/-- The processors of a half beyond the roles in `Hip.roles` (rules R332, R333). -/
structure Cores where
  failing  : List CoreFail       -- in the order of the failures, the lower-numbered first of one instant (rule R458)
  failedAt : List (Option Nat)   -- HIP, SCP, ANP: timestamp of the last failure that led to a restart
  spcBad   : Bool                -- SPC has failed
  deriving DecidableEq, Repr

/-- SRAM repair: corrections counted against a row (bank and row), rows replaced, spare rows used of each bank (R334). -/
structure SramRows where
  corr  : List ((Nat × Nat) × Nat)
  spare : List Nat
  met   : List (Nat × Nat)         -- rows that met the empty pool of their bank (rule R456)
  deriving DecidableEq, Repr

/-- One CAN FD controller: frames waiting to be sent, each with the words of its CAN_TX payload (rule R371). -/
structure Can where
  tx : List (List Word)   -- at most 8
  deriving DecidableEq, Repr

/-- A frame of the host link: header and payload (rule R349). -/
structure QFrame where
  h0  : Word
  pay : List Word
  deriving DecidableEq, Repr

/-- One host link beyond its registers (rules R346 to R358). Lists of 8 run over half A then B, credit class 0 to 3 toward
the unit, 4 to 7 toward the host. -/
structure Link where
  ts     : Nat              -- consecutive valid training sets received
  tsAck  : Nat              -- consecutive ones with ACK 1
  viol   : List Nat         -- received symbols since each of the last violations, newest first
  txSeq  : Nat
  unack  : List (QFrame × Nat) -- frames sent and not acknowledged, oldest first, with their transmissions
  rxSeq  : Nat              -- next LSEQ expected
  nakOk  : Bool             -- the next out-of-order frame causes a NAK
  limit  : List Nat         -- LIMIT told to the host
  got    : List Nat         -- payload words received since INIT
  freed  : List Nat         -- of them freed
  told   : List Nat         -- words freed at the last CREDIT
  hostLim : List Nat        -- LIMIT told by the host
  hostCnt : List Nat        -- payload words sent since INIT
  inq    : List QFrame      -- frames accepted and not yet acted on
  hold   : List (List Word) -- 4: words for A.MBX0, A.MBX4, B.MBX0, B.MBX4 not yet posted
  regOut : List QFrame      -- register replies waiting for credit
  ctl    : List QFrame      -- control frames the last event on the link made it send, oldest first
  peer   : Option (Nat × Nat) -- REV and served halves of the INIT received
  deriving DecidableEq, Repr

/-! ## EutenLink (chapter 17) -/

/-- One EutenLink port beyond its registers. -/
structure EPort where
  out    : List EFrame     -- frames waiting to leave, SYNC and ANGLE ahead of the others (rule R384)
  sending : Option (EFrame × Nat) -- the frame on the line, and the ANGCLK until its EOF
  sendLane : Nat           -- the lane the far end named in its training sets (rule R380)
  ts     : Nat             -- consecutive valid training sets received
  tsAck  : Nat             -- consecutive ones with ACK 1
  viol   : List Nat        -- received symbols since each of the last 16 violations of the lane in use, newest first
  laneBad : List Bool      -- 2: lane judged failed (rule R381)
  trainF : Nat             -- trainings failed in succession on the lane in use
  wrap   : Bool            -- wrapped at this port, until its link has been UP for 100 ms (rule R387)
  delays : List Int        -- link delays measured, newest first, at most 16 (rule R385)
  pdAt   : Option Int      -- egress of the PDREQ not yet answered, in delay-line steps
  deriving DecidableEq, Repr

/-- The fabric state of a half (rules R385 to R393). -/
structure Fabric where
  ports  : List EPort
  base   : Int             -- fabric time, in delay-line steps, at own time `at0`
  at0    : Int             -- own timestamp in delay-line steps
  rate   : Frac            -- fabric steps per own step
  synced : Bool            -- a SYNC was received
  good   : Nat             -- consecutive SYNCs within 4 ns
  seqs   : List Nat        -- next SEQ of each type 0 to 6
  seen   : List ((Nat × Nat × Nat) × Nat) -- SRC, TYPE, SEQ acted on and when
  pend   : List (Nat × Nat × EFrame)      -- frames to be acted on by their own command, with port and arrival in delay-line steps
  heardT : List (Nat × Nat × Nat)         -- time candidates heard within 3 ms: rank, node, when (rule R389)
  heardA : List (Nat × Nat × Nat)         -- angle candidates of the own group
  queue  : List (List Word × Nat × Nat)   -- ANGLE payloads of the own group's master not yet used, with source and arrival
  ref    : Option (List Word × Nat)       -- last ANGLE payload of group REFGRP and its arrival
  phRun  : Nat             -- consecutive evaluations inside the window
  phHist : List (Int × Nat) -- D in AU and timestamp of the last evaluations, newest first, at most 16
  phSent : Nat             -- evaluations since the last PHASE frame
  usedAt : Nat             -- timestamp at which the last ANGLE payload was used (rule R111)
  deriving DecidableEq, Repr

/-- The firmware store of a half: two slots, the active one, and the one started from (rule R331). -/
structure Firm where
  slots   : List (List Word)
  active  : Nat
  started : Nat
  checked : Bool           -- the inactive slot holds an image that FW_END verified
  deriving DecidableEq, Repr

/-! ## The whole -/

/-- One timing die (rule R26). -/
structure Half where
  tsc     : Nat                -- timestamp counter, 48 bits (rule R141)
  live    : Bool               -- out of reset
  xdiff   : Int                -- measured difference, own count minus the peer's (rule R43)
  trk     : List Tracker       -- WTK0, WTK1
  srcAsked : Bool              -- PRIMARY was written and its switch of the source is still to come (rule R56)
  clk     : Clock
  cask    : List Entry         -- pending entries of all 64 channels
  nextOrd : Nat                -- insertion number of the next entry
  lost    : List Nat           -- 64: slots of each cask marked faulty and never replaced (rule R125)
  slotDue : List Bool          -- 64: a slot failed its parity check, and the spare takes its place at the next BOOT (rule R125)
  evn     : List NRec          -- notice queue, at most 1,024 records (rule R138)
  ports   : List Insertion     -- insertions in their crossing queues
  sub     : Option Insertion   -- submission in its crossing queue (rule R151)
  sched   : Sched
  sq      : SeqBlock
  conv    : List Conv          -- PCV0-PCV3
  turn    : Nat                -- converter the spare checks next (rule R243)
  atu     : Atu
  pe      : List Pe            -- PE0-PE7
  flags   : FlagClk
  halted  : Bool               -- a processor is halted by the debug port (rule R292)
  cmpIn   : List Nat           -- 32: voltage of each comparator input, by INSEL, in threshold steps (rules R265, R266)
  cmp     : List Cmp           -- CMP0-CMP31
  pwm     : List Pwm           -- PWU0-PWU15
  pwr     : Pwr
  cores   : Cores
  sram    : SramRows
  can     : List Can           -- 2
  link    : Link
  fab     : Fabric
  tal     : Tally
  pulses  : List Pulse
  gone    : List (Nat × Entry)       -- entries cancelled in the present ANGCLK, with its count (rule R137)
  freed   : List (Nat × Nat × Bool)  -- slots freed in it: its count, the channel, whether static (rule R159)
  evoCmd  : List (Option EvoCmd)     -- 24: last level commands of each EVO line (rule R131)
  cmdDone : List (Option Nat)        -- 64: when the last EVC_CMD of each channel is over (rules R136, R142)
  evoEnd  : List (Option Nat)  -- 24: end of the last pulse of each EVO line (rule R161)
  hip     : Hip
  hl      : HelmLog
  deriving DecidableEq, Repr

/-- Everything in the module but its RAM, its one-time-programmable memory and the queue of waiting commands. -/
structure Block where
  regs    : Mem                -- every register of Machine/RegMap.lean, by address
  ha      : Half
  hb      : Half
  ab      : Lane               -- racking bridge, half A to half B
  ba      : Lane               -- and back
  fe      : List FrontEnd      -- CRK0, CRK1, CAM0-CAM3
  bhs     : List Bhs           -- BHS0-BHS11
  chop    : List Chop          -- hold switches of INJ0-INJ23
  latchAt : List (Option Nat)  -- 72: when the trip latch of INJ0-23 and EVO0-47 was last set, in the half's count (rule R217)
  segNew  : List (List Nat)    -- 36 by 9: on-resistance of each segment at manufacture, 0.01 mΩ per step (rule R470; log entry 129)
  segDrift : List (List Nat)   -- 36 by 9: last drift measured of each segment of INJ0-23 and BHS0-11, in percent (rule R221)
  tmr     : List Tmr           -- TMR0-TMR15
  fails   : List Nat           -- 2: failed SEC_UNLOCK commands of each half, kept in AON (rule R369)
  lockout : List Bool          -- 2
  own     : List HalfId        -- owner of each cylinder (rule R31); no register names it (log entry 10)
  junction : List Nat          -- 44: last junction read of each stage, °C + 64: INJ, BHS, HB of half A, then of half B (OTW, DRV_TEMP)
  keyIn   : Bool               -- level of the KEY_IN land
  segDue  : List Bool          -- 2: the drive die holds the output-enable line of this half off until it has restored its
                               -- stages from the tally (rule R457)
  busErr  : Bool               -- the last bus access completed with a bus error (rule R47)
  busData : Word               -- the word the last bus read returned
  fresh   : Nat                -- the model's own: counts the free values drawn (log entry 5)
  deriving DecidableEq, Repr

/-- One-time-programmable memory of a half (rules R331, R368, R372). -/
structure Fuses where
  secver : Nat                 -- minimum security version
  keyPos : Nat                 -- key position in force, 0 to 3
  deriving DecidableEq, Repr

/-- The state of the block: the module, its RAM words by address (SRAM of both halves and keep-alive RAM), the fuses and
the queue of commands that wait, first in, first out. -/
structure State where
  blk     : Block
  ram     : Mem
  fuseA   : Fuses
  fuseB   : Fuses
  firmA   : Firm
  firmB   : Firm
  pending : List Instr
  deriving DecidableEq, Repr
/-! ## The state after reset -/

/-- An idle tracker (rule R67: NONE). -/
def Tracker.idle : Tracker :=
  { raw := [], passed := [], lastEdge := none, lastP := 0, lastS := 0, lastCS := 0, lastSkip := false, ratios := [], prevT := ⟨0, 1⟩,
    periods := [], rejHist := [], camHist := [], camNamed := none, sinceCam := 0, fullTravel := 0, xMismatch := false,
    agreed := false, dirLast := false, dirRun := 0, dirOpen := none, dirSteps := 0,
    xTol := 512, stallTime := 1000000 }

/-- An invalid clock at angle 0 (rule R99). -/
def Clock.idle : Clock :=
  { a := 0, acc := ⟨0, 1⟩, mode := .follow, entAng := 0, te := 0, period := ⟨0, 1⟩, s1 := 0, step := ⟨0, 1⟩,
    halt := 0, d := 0, cuMul := 0, hist := [], haltLen := 0, moved := none, invalidSince := some 0, cycAt := none,
    cycLen := 0, cycClean := false, cycPrevClean := false, norm := [], revT0 := none, revPrev := 0, revOk := false,
    revMarks := [] }

def Sched.empty : Sched :=
  { store := [], active := 0, pendSet := none, leaving := false, prevSrc := none, curSrc := none, nextSrc := none, due := [],
    suspended := false, revSusp := false, revRest := false, suspCount := 0, suspInvalid := false, trims := [], latched := [],
    staged := none, shadowDone := false,
    shadowLate := false, svcLate := false, recheck := false, lossDue := false, rsvOld := none, envOld := none }

def Chop.idle : Chop := ⟨false, false, none, false⟩

def SeqBlock.idle : SeqBlock :=
  { shots := List.replicate 12 none, results := List.replicate 12 [], lastEnd := List.replicate 12 none,
    count := List.replicate 12 0, restored := List.replicate 12 false, lrnDue := List.replicate 12 false,
    minShots := List.replicate 12 256, drift := List.replicate 12 (0, 0), duty := [], energy := [] }

def Hip.start : Hip :=
  { running := false, sec := ⟨[], [], [], []⟩, nonsec := ⟨[], [], [], []⟩, mask := 0, seq := 0, replay := [], out6 := [],
    six := [], soft := [],
    lost := (0, 0, 0), faults := [], skipped := 0, session := false, nonce := none, streams := [],
    long := none, filters := [], resetIn := none, roles := [0, 0, 0, 0], cfg := 0, overlays := [], base := [],
    cfgSeq := 0, cfgCrc := 0, standalone := false, bootReport := [], keptFb := List.replicate 24 0 }

def HelmLog.start : HelmLog :=
  { lost := false, yielding := false, lastBeat := none, holder := none, fwBeats := false, straps := (false, false),
    claimAt := none, evalAt := none, peerQOk := false, qmin := none, pqmin := none, sentQ := false, queue := [],
    lostCode := List.replicate 32 0, lastSup := none, wdogRun := false, latchE := (256, []) }

def Conv.idle : Conv :=
  { wins := List.replicate 4 none, recs := [], shots := List.replicate 4 none, recov := [], ovrd := none, scan := 0, miss := 0, judged := false,
    other := false }

def Atu.idle : Atu :=
  { jobs := [], latch := (0, []), fbDue := [], fbHeld := List.replicate 24 none, imep := List.replicate 24 none, tau := List.replicate 24 none,
    fuel := List.replicate 24 false, crk := List.replicate 24 none, fresh := List.replicate 24 false,
    since := List.replicate 24 0 }

def Pe.idle : Pe :=
  { sq := [], rq := [], t := 0, trgAt := 0, begun := 0, wake := 0, lateEnd := false, prevCal := 0, serial := [], slot := 0,
    syncAt := none, busy := false }

def Cmp.idle : Cmp := ⟨0, false, false, none⟩

def PwmChan.idle : PwmChan := ⟨false, [], none⟩

/-- The compares of a PWM unit that has not started never match. -/
def PwmSet.empty : PwmSet := ⟨0, [0x3FFFFF, 0x3FFFFF, 0x3FFFFF, 0x3FFFFF], 0, 0⟩

def Pwm.idle : Pwm :=
  { wait := false, run := none, count := 0, act := PwmSet.empty, pend := none, pend2 := none, ovr := none, pipe := [],
    wrap := none, hits := [], reqA := false, reqB := false, chA := PwmChan.idle, chB := PwmChan.idle, riseAt := none,
    refAt := none, lvlA := false, lvlB := false, dtA := none, dtB := none, ovl := [], clear := false }

def Tmr.idle : Tmr :=
  { hit := false, ovf := false, mrst := false, acts := (0, 0), stopped := false, cmp := 0xFFFFFF, pipe := [],
    cap := false, unread := false }

def Pwr.run : Pwr := ⟨none, false, none⟩

def Cores.start : Cores := ⟨[], [none, none, none], false⟩

/-- A link that is down: nothing held, the rooms of rule R354 not yet told. -/
def Link.down : Link :=
  { ts := 0, tsAck := 0, viol := [], txSeq := 0, unack := [], rxSeq := 0, nakOk := true, limit := [64, 256, 1024, 132, 64, 256, 1024, 132],
    got := [0, 0, 0, 0, 0, 0, 0, 0], freed := [0, 0, 0, 0, 0, 0, 0, 0], told := [0, 0, 0, 0, 0, 0, 0, 0],
    hostLim := [0, 0, 0, 0, 0, 0, 0, 0], hostCnt := [0, 0, 0, 0, 0, 0, 0, 0], inq := [], hold := [[], [], [], []], regOut := [],
    ctl := [], peer := none }

def EPort.idle : EPort := 
  { out := [], sending := none, sendLane := 0, ts := 0, tsAck := 0, viol := [], laneBad := [false, false], trainF := 0,
    wrap := false, delays := [], pdAt := none }

def Fabric.idle : Fabric :=
  { ports := [EPort.idle, EPort.idle], base := 0, at0 := 0, rate := ⟨1, 1⟩, synced := false, good := 0,
    seqs := [0, 0, 0, 0, 0, 0, 0], seen := [], pend := [], heardT := [], heardA := [], queue := [], ref := none, phRun := 0,
    phHist := [], phSent := 0, usedAt := 0 }

/-- Firmware slots whose images the spec does not give (log entry 12). -/
def Firm.shipped : Firm := { slots := [[], []], active := 0, started := 0, checked := false }

/-- Nothing replaced, nothing lost. -/
def TallyStore.empty : TallyStore :=
  { replaced := [], lost := List.replicate 64 0, slotDue := List.replicate 64 false, spare := List.replicate 8 0,
    warned := List.replicate 22 0 }

def Tally.fresh : Tally :=
  { used := List.replicate 16 0, failed := List.replicate 16 0, wear := List.replicate 22 ⟨0, 0, 0, 255, 0, false, 0, 0⟩,
    latch := List.replicate 22 (none, none), replaced := [], store := TallyStore.empty }

def Half.reset : Half :=
  { tsc := 0, live := false, xdiff := 0, trk := [Tracker.idle, Tracker.idle], srcAsked := false, clk := Clock.idle, cask := [],
    nextOrd := 0, lost := List.replicate 64 0, slotDue := List.replicate 64 false, evn := [], ports := [],
    sub := none, sched := Sched.empty, sq := SeqBlock.idle, pulses := [], gone := [], freed := [],
    evoCmd := List.replicate 24 none, cmdDone := List.replicate 64 none,
    conv := List.replicate 4 Conv.idle, turn := 0, atu := Atu.idle, pe := List.replicate 8 Pe.idle, flags := ⟨0, 0, [], []⟩,
    halted := false, cmpIn := List.replicate 32 0, cmp := List.replicate 32 Cmp.idle, pwm := List.replicate 16 Pwm.idle, pwr := Pwr.run,
    cores := Cores.start, sram := ⟨[], List.replicate 8 0, []⟩, can := [⟨[]⟩, ⟨[]⟩], link := Link.down, fab := Fabric.idle,
    tal := Tally.fresh,
    evoEnd := List.replicate 24 none,
    hip := Hip.start, hl := HelmLog.start }

def Block.reset : Block :=
  { regs := [], ha := Half.reset, hb := Half.reset, ab := ⟨[], [], []⟩, ba := ⟨[], [], []⟩,
    fe := List.replicate 6 ⟨false, 0, 0⟩, bhs := List.replicate 12 ⟨none, none, false⟩,
    chop := List.replicate 24 Chop.idle, latchAt := List.replicate 72 none,
    segNew := List.replicate 24 (List.replicate 9 20000) ++ List.replicate 12 (List.replicate 9 16000),
    segDrift := List.replicate 36 (List.replicate 9 0),
    tmr := List.replicate 16 Tmr.idle, fails := [0, 0], lockout := [false, false], own := List.replicate 12 .a ++ List.replicate 12 .b,
    junction := List.replicate 44 0, keyIn := false, segDue := [true, true], busErr := false, busData := 0, fresh := 0 }

/-- The module right after power-on reset: both halves in BOOT, every register at its reset word, RAM with nothing
listed, no command waiting. -/
def State.reset : State :=
  { blk := Block.reset, ram := [], fuseA := ⟨0, 0⟩, fuseB := ⟨0, 0⟩, firmA := Firm.shipped, firmB := Firm.shipped, pending := [] }

/-! ## Outcome reasons -/

/-- No command of this block stops the machine with a fault: a bus error, a trip or a reset is an effect on the state. -/
inductive Fault where
  deriving DecidableEq, Repr

/-- Why a command has no meaning yet. -/
inductive Refusal where
  /-- Raised by an arm of `exec` whose command is not modelled; safe, since nothing can be proved of its effect. -/
  | notModelled (mnemonic : String)
  deriving DecidableEq, Repr

end Sys2Proof.Machine
end

