-- ==== Sys2Proof/Machine/Ops.lean ====
section
/-!
DEFINITION. The named operations every command is built from: bit fields, the word memory, registers, the two halves,
exact fractions, angles, notices, the error log, the bridge, cancellation of entries, the service phase and the helm.
-/

namespace Sys2Proof.Machine

/-! ## Bits and words -/

/-- Bits [hi:lo] of a number (rule R13). -/
def bits (v hi lo : Nat) : Nat := (v / 2 ^ lo) % 2 ^ (hi + 1 - lo)

/-- `v` with bits [hi:lo] replaced by `x`. -/
def putBits (v hi lo x : Nat) : Nat :=
  v - bits v hi lo * 2 ^ lo + (x % 2 ^ (hi + 1 - lo)) * 2 ^ lo

/-- `old` with the bits of `mask` replaced by those of `v`. -/
def mix (old mask v : Nat) : Nat := (old &&& (0xFFFFFF ^^^ (mask &&& 0xFFFFFF))) ||| (v &&& mask)

/-- A number as a word, modulo 2^24. -/
def wd (n : Nat) : Word := BitVec.ofNat 24 n

/-- A truth value as a bit. -/
def bitOf (b : Bool) : Nat := if b then 1 else 0

/-- An `n`-bit field read as two's complement. -/
def sext (n v : Nat) : Int := if v % 2 ^ n < 2 ^ (n - 1) then ((v % 2 ^ n : Nat) : Int) else ((v % 2 ^ n : Nat) : Int) - 2 ^ n

/-- A whole number as an `n`-bit two's complement field. -/
def field (n : Nat) (x : Int) : Nat := (x % (2 ^ n : Int)).toNat

/-- A whole number held inside the bounds `-m` to `m`. -/
def clampInt (m : Nat) (x : Int) : Int := if x > m then m else if x < -(m : Int) then -(m : Int) else x

/-- A count held at its greatest value. -/
def capNat (m n : Nat) : Nat := if n < m then n else m

/-- The element of a list at a place, or the given value beyond its end. -/
def nth {α : Type} (d : α) (l : List α) (i : Nat) : α := (l[i]?).getD d

/-- Insertion into a list kept in order of a key; equal keys keep their order. -/
def insertBy {α : Type} (key : α → Nat) (x : α) : List α → List α
  | [] => [x]
  | y :: ys => if key x < key y then x :: y :: ys else y :: insertBy key x ys

/-- A list in order of a key; equal keys keep their order. -/
def sortBy {α : Type} (key : α → Nat) (l : List α) : List α := l.foldl (fun acc x => insertBy key x acc) []

/-- The sum of a measure over a list. -/
def total {α : Type} (f : α → Nat) (l : List α) : Nat := l.foldl (fun n x => n + f x) 0

/-- The forward distance from `a` to `b` (rule R6). -/
def fwd (m a b : Nat) : Nat := (b + m - a % m) % m

/-! ## Exact fractions (rule R90) -/

/-- A fraction with a positive or zero denominator, in lowest terms. -/
def frac (n : Int) (d : Nat) : Frac :=
  let g := Nat.gcd n.natAbs d
  if g = 0 then ⟨n, d⟩ else ⟨n / g, d / g⟩

def fracAdd (x y : Frac) : Frac := frac (x.num * y.den + y.num * x.den) (x.den * y.den)
def fracSub (x y : Frac) : Frac := frac (x.num * y.den - y.num * x.den) (x.den * y.den)
def fracMul (x y : Frac) : Frac := frac (x.num * y.num) (x.den * y.den)
/-- A quotient; the sign goes to the numerator. -/
def fracDiv (x y : Frac) : Frac :=
  if y.num < 0 then frac (-(x.num * y.den)) (x.den * y.num.natAbs) else frac (x.num * y.den) (x.den * y.num.natAbs)
def fracLe (x y : Frac) : Bool := x.num * y.den ≤ y.num * x.den
def fracLt (x y : Frac) : Bool := x.num * y.den < y.num * x.den
/-- The greatest whole number not above a fraction, 0 where nothing is held. -/
def fracFloor (x : Frac) : Int := if x.den = 0 then 0 else x.num / x.den
def fracOf (n : Nat) : Frac := ⟨n, 1⟩
def fracMin (x y : Frac) : Frac := if fracLe x y then x else y
def fracMax (x y : Frac) : Frac := if fracLe x y then y else x
/-- The least whole number not below a fraction that is not negative. -/
def fracCeil (x : Frac) : Nat := (-(fracFloor ⟨-x.num, x.den⟩)).toNat

/-! ## Word memory -/

/-- The word at an address; an unlisted address reads as `d`. -/
def memGet (d : Word) : Mem → Nat → Word
  | [], _ => d
  | (b, v) :: rest, a => if b = a then v else memGet d rest a

/-- The memory with a word entered at an address, in the order of addresses. -/
def memPut : Mem → Nat → Word → Mem
  | [], a, v => [(a, v)]
  | (b, w) :: rest, a, v =>
    if a < b then (a, v) :: (b, w) :: rest else if a = b then (a, v) :: rest else (b, w) :: memPut rest a v

/-- The memory without an entry at an address. -/
def memDrop : Mem → Nat → Mem
  | [], _ => []
  | (b, w) :: rest, a => if b = a then memDrop rest a else (b, w) :: memDrop rest a

/-- The memory with the word at an address replaced, where `d` is what that address reads as unlisted. -/
def memSet (d : Word) (m : Mem) (a : Nat) (v : Word) : Mem := if v = d then memDrop m a else memPut m a v

/-- The canonical form: addresses strictly rising from `lo` on, and no entry equal to what it would read as unlisted. -/
def memWfFrom (dflt : Nat → Word) : Nat → Mem → Bool
  | _, [] => true
  | lo, (a, v) :: rest => decide (lo ≤ a) && decide (v ≠ dflt a) && memWfFrom dflt (a + 1) rest

/-- The canonical form of a whole memory. -/
def Memory.wf (dflt : Nat → Word) (m : Mem) : Bool := memWfFrom dflt 0 m

/-- What RAM that nothing has written reads as: 0 (log entry 2). -/
def ramReset (_ : Nat) : Word := 0

/-! ## Registers -/

/-- The address of a register, with its indices (rules R15, R44 to R46). -/
def Reg.addr (r : Reg) (h : HalfId) (i j : Nat) : Nat :=
  let q := r.info
  q.base + (if q.perHalf && h == .b then 0x400000 else 0) +
    (match q.dims with
     | [] => 0
     | [(_, s)] => i * s
     | (_, s) :: (_, t) :: _ => i * s + j * t)

/-- The place of an address within a register, its indices, where it is one of it. -/
def Reg.at? (r : Reg) (off : Nat) : Option (Nat × Nat) :=
  let q := r.info
  if off < q.base then none else
  let d := off - q.base
  match q.dims with
  | [] => if d = 0 then some (0, 0) else none
  | [(c, s)] => if d % s = 0 ∧ d / s < c then some (d / s, 0) else none
  | (c, s) :: (c2, s2) :: _ =>
    let i := d / s
    let e := d % s
    if i < c ∧ e % s2 = 0 ∧ e / s2 < c2 then some (i, e / s2) else none

/-- The mailboxes of a half (rule R335): secure, sender, receiver, pair; endpoints 0 HIP, 1 SCP, 2 ANP, 3 SUP, 4 host,
5 peer HIP. -/
def mbxTable : Nat → Bool × Nat × Nat × Option Nat
  | 0 => (true, 4, 0, some 1)
  | 1 => (true, 0, 4, some 0)
  | 2 => (true, 0, 3, some 3)
  | 3 => (true, 3, 0, some 2)
  | 4 => (false, 4, 0, some 5)
  | 5 => (false, 0, 4, some 4)
  | 6 => (false, 0, 4, none)
  | 7 => (false, 0, 1, some 8)
  | 8 => (false, 1, 0, some 7)
  | 9 => (false, 0, 2, some 10)
  | 10 => (false, 2, 0, some 9)
  | 11 => (false, 2, 1, none)
  | 12 => (false, 0, 3, some 13)
  | 13 => (false, 3, 0, some 12)
  | 14 => (false, 5, 0, some 15)
  | _ => (false, 0, 5, some 14)

/-- MBX_CFG as the table gives it. -/
def mbxCfg (m : Nat) : Nat :=
  let x := mbxTable m
  bitOf x.1 * 2 ^ 23 + x.2.1 * 2 ^ 19 + x.2.2.1 * 2 ^ 15 + (match x.2.2.2 with | some p => 2 ^ 14 + p * 2 ^ 10 | none => 0)

/-- Spares of each kind in a half's pools (TAL_POOL.TOTAL). -/
def poolTotal : Nat → Nat
  | 0 => 12
  | 1 => 6
  | 2 => 1
  | 3 => 64
  | 4 => 4
  | 5 => 1
  | 6 => 2
  | 7 => 64
  | 8 => 2
  | _ => 0

/-- KIND and module number of wear record `r` of a half (rule R465). -/
def wearId (h : HalfId) (r : Nat) : Nat :=
  if r < 12 then 12 * h.num + r
  else if r < 18 then 2 ^ 5 + 6 * h.num + (r - 12)
  else 2 * 2 ^ 5 + 4 * h.num + (r - 18)

/-- The reset words that differ from copy to copy of a register: the role of a converter (rule R228), the wiring of a
mailbox (rule R335), and the identity of a half and of a tally record (rule R465). -/
def Reg.resetAt (r : Reg) (h : HalfId) (i j : Nat) : Word :=
  match r with
  | .PCV_CFG => wd (if i < 2 then r.info.reset else r.info.reset + 2 ^ 21)
  | .TAL_INFO => wd (putBits r.info.reset 15 15 h.num)
  | .MBX_CFG => wd (mbxCfg i)
  | .TAL_POOL => wd (poolTotal i * 2 ^ 16)
  | .TAL_W0 => wd (wearId h i * 2 ^ 16 + if i < 18 then 0xFF * 2 ^ 7 else 0)
  | _ => let _ := j; wd r.info.reset

/-- The register an address belongs to, with the half and the indices; none at a reserved address (rule R47). -/
def findReg (a : Nat) : Option (Reg × HalfId × Nat × Nat) :=
  let go (h : HalfId) (off : Nat) (perHalf : Bool) : Option (Reg × HalfId × Nat × Nat) :=
    (blockRegs (off / 0x10000)).findSome? (fun r =>
      if r.info.perHalf == perHalf then (r.at? off).map (fun ij => (r, h, ij.1, ij.2)) else none)
  if a < 0x400000 then go .a a true
  else if a < 0x800000 then go .b (a - 0x400000) true
  else if a < 0xA00000 then go .a a false
  else none

/-- What a register word that is not listed in `Block.regs` reads as: its reset word. -/
def regReset (a : Nat) : Word :=
  match findReg a with
  | some (r, h, i, j) => r.resetAt h i j
  | none => 0

/-- A half of the module. -/
def Block.half (s : Block) : HalfId → Half
  | .a => s.ha
  | .b => s.hb

def Block.setHalf (s : Block) (h : HalfId) (x : Half) : Block :=
  match h with
  | .a => { s with ha := x }
  | .b => { s with hb := x }

def Block.modHalf (s : Block) (h : HalfId) (f : Half → Half) : Block := s.setHalf h (f (s.half h))

/-- The stored word of a register. -/
def Block.w (s : Block) (h : HalfId) (r : Reg) (i : Nat := 0) (j : Nat := 0) : Word :=
  memGet (r.resetAt h i j) s.regs (r.addr h i j)

/-- A register word replaced. -/
def Block.setW (s : Block) (h : HalfId) (r : Reg) (v : Word) (i : Nat := 0) (j : Nat := 0) : Block :=
  { s with regs := memSet (r.resetAt h i j) s.regs (r.addr h i j) v }

/-- A stored field. -/
def Block.f (s : Block) (h : HalfId) (x : Fld) (i : Nat := 0) (j : Nat := 0) : Nat :=
  bits (s.w h x.reg i j).toNat x.hi x.lo

/-- A stored one-bit field. -/
def Block.on (s : Block) (h : HalfId) (x : Fld) (i : Nat := 0) (j : Nat := 0) : Bool := s.f h x i j == 1

/-- A field replaced; the value is taken modulo the field's width. -/
def Block.setF (s : Block) (h : HalfId) (x : Fld) (v : Nat) (i : Nat := 0) (j : Nat := 0) : Block :=
  s.setW h x.reg (wd (putBits (s.w h x.reg i j).toNat x.hi x.lo v)) i j

/-- A saturating counter stepped by one. -/
def Block.count (s : Block) (h : HalfId) (x : Fld) (i : Nat := 0) (j : Nat := 0) : Block :=
  let v := s.f h x i j
  if v + 1 < 2 ^ (x.hi + 1 - x.lo) then s.setF h x (v + 1) i j else s

/-- A register set back to its reset word. -/
def Block.clearW (s : Block) (h : HalfId) (r : Reg) (i : Nat := 0) (j : Nat := 0) : Block := s.setW h r (r.resetAt h i j) i j

/-- The low word of a half's timestamp counter. -/
def Block.tsLow (s : Block) (h : HalfId) : Nat := (s.half h).tsc % 2 ^ 24

/-- Ticks from one timestamp to a later one, modulo 2^48 (rule R38). -/
def ticksTo (t now : Nat) : Nat := fwd (2 ^ 48) t now

/-- The instant `due` has come: it lies less than half the counter's range back (log entry 90). -/
def reached (due now : Nat) : Bool := decide (ticksTo due now < 2 ^ 47)

/-- Ticks gone since `t`, 0 where `t` lies ahead: less than 2^46 ticks ahead counts as ahead (log entry 90). -/
def ticksGone (t now : Nat) : Nat := if ticksTo t now < 2 ^ 48 - 2 ^ 46 then ticksTo t now else 0

/-- Ticks from `t` to `now`, negative where `now` comes before `t`. -/
def ticksSigned (t now : Nat) : Int :=
  if ticksTo t now < 2 ^ 47 then (ticksTo t now : Int) else (ticksTo t now : Int) - 2 ^ 48

/-- A free value: nothing constrains it (log entry 5). -/
def Block.draw (s : Block) : Nat × Block := ((Config.freeWord s.fresh).toNat, { s with fresh := s.fresh + 1 })

/-! ## Power domains (rules R437, R439, R47) -/

/-- The ladder state of half `h` in PWR_STAT: 0 Run, 1 Rest, 2 Steep, 3 Couch, 4 Kiln, 5 Store. -/
def rungFld : HalfId → Fld
  | .a => F.PWR_STAT_STA
  | .b => F.PWR_STAT_STB

def Block.rung (s : Block) (h : HalfId) : Nat := s.f .a (rungFld h)

/-- The block at `page` (address / 0x1_0000) of a half is powered. MEM in retention and LNK in wake detect count as off: the
model's choice (DESIGN CHOICE, log entry 88). -/
def Block.pageOn (s : Block) (h : HalfId) (page : Nat) : Bool :=
  (s.half h).live && (match s.rung h with
    | 0 | 1 => true
    | 2 => page != 0x25
    | 3 => page == 0x27 || page == 0x2E || page == 0x2F
    | _ => false)

/-- The DRV domain is on: the stages and front ends of the drive die work (rule R442). -/
def Block.drvOn (s : Block) : Bool := s.f .a F.PWR_STAT_DRV == 0

/-- MEM of a half is on: SRAM and the error log can be accessed (rules R431, R437, R439). -/
def Block.memOn (s : Block) (h : HalfId) : Bool := (s.half h).live && decide (s.rung h ≤ 2)

/-- The block a register belongs to is powered, the error log with MEM; the always-on domain always is. -/
def Block.powered (s : Block) (r : Reg) (h : HalfId) : Bool :=
  if r.info.perHalf then s.pageOn h (r.info.base / 0x10000) && (r != .LOG_ENT || s.memOn h)
  else if r.info.base < 0x900000 then s.drvOn else true

/-- A row that accesses register `r`: its effect where the block of the register is powered, else a bus error (rule R47). -/
def State.access (s : State) (r : Reg) (h : HalfId) (b : Block) : Host.Outcome State Fault Refusal :=
  .next { s with blk := if s.blk.powered r h then b else { s.blk with busErr := true } }

/-- The block after a command; RAM, fuses and queue stay. -/
def State.put (s : State) (b : Block) : Host.Outcome State Fault Refusal := .next { s with blk := b }

/-! ## Angles (rules R5 to R8, R86) -/

/-- One revolution, 360 °CA. -/
def revAU : Nat := 5898240

/-- The cycle length L of a half (rules R5, R86). -/
def Block.cycleL (s : Block) (h : HalfId) : Nat := if s.on h F.ANG_CTRL_CYCLE then revAU else 2 * revAU

/-- ATU_FBc as ANP uses it: the register, or the corrections that stay in effect until the next record after a write (rule R264). -/
def Block.corr (s : Block) (h : HalfId) (c : Nat) : Word := (nth none (s.half h).atu.fbHeld c).getD (s.w h .ATU_FB c)

/-- ANP sets the corrections in effect of a cylinder. A written value that waits for the next record stays in the register. -/
def Block.setCorr (s : Block) (h : HalfId) (c : Nat) (v : Word) : Block :=
  match nth none (s.half h).atu.fbHeld c with
  | some _ => s.modHalf h fun x => { x with atu := { x.atu with fbHeld := x.atu.fbHeld.set c (some v) } }
  | none => s.setW h .ATU_FB v c

/-- ATU_FBc is written from outside ANP: the corrections in effect stay until the cylinder's next record (rule R264). -/
def Block.writeCorr (s : Block) (h : HalfId) (c : Nat) (v : Word) : Block :=
  (s.modHalf h fun x => { x with atu := { x.atu with fbHeld := x.atu.fbHeld.set c (some (s.corr h c)) } }).setW h .ATU_FB v c

/-- The two corrections of a word: a_c in steps of 64 AU and e_c in steps of 16 ticks (rule R258). -/
def corrOf (w : Word) : Int × Int := (sext 12 (bits w.toNat 23 12), sext 12 (bits w.toNat 11 0))

/-- The word of two corrections, each held to its field. -/
def corrWord (p : Int × Int) : Word := wd (field 12 (clampInt 2047 p.1) * 4096 + field 12 (clampInt 2047 p.2))

/-- The modulus M of the angle clock (rule R86). -/
def Block.modM (s : Block) (h : HalfId) : Nat := if s.on h F.ANG_STAT_FULLRANGE then s.cycleL h else revAU

/-- The integer part of A (rule R86). -/
def Block.ang (s : Block) (h : HalfId) : Nat := (s.half h).clk.a / 65536

/-- The angle source of a half (WTK_ASEL.CURSRC). -/
def Block.src (s : Block) (h : HalfId) : Nat := s.f h F.WTK_ASEL_CURSRC

def Block.clockValid (s : Block) (h : HalfId) : Bool := s.on h F.ANG_STAT_VALID
def Block.clockRev (s : Block) (h : HalfId) : Bool := s.on h F.ANG_STAT_REV

/-- Sync states in the encoding of WTK_STAT.SYNC. -/
def syNone : Nat := 0
def syTooth : Nat := 1
def syCrank : Nat := 2
def syFull : Nat := 3
def syLost : Nat := 4

/-- The angle clock follows a source in FULL sync. -/
def Block.fullSync (s : Block) (h : HalfId) : Bool := s.clockValid h && s.on h F.ANG_STAT_FULLRANGE

/-- The compared target g of a global target (rule R122). -/
def Block.cmpAngle (s : Block) (h : HalfId) (g : Nat) : Nat := g % s.modM h

/-! ## Status and phase codes (rules R20, R23) -/

def cOK : Nat := 0x00
def cPAST : Nat := 0x01
def cQUEUE_FULL : Nat := 0x02
def cSHARED_HS_OVERLAP : Nat := 0x03
def cBOOST_BUDGET : Nat := 0x04
def cDUTY_LIMIT : Nat := 0x05
def cMIN_DWELL : Nat := 0x06
def cCONVERTER_SLOT : Nat := 0x07
def cPHASE : Nat := 0x08
def cNO_CREDIT : Nat := 0x09
def cPROFILE_UNKNOWN : Nat := 0x0A
def cTRIM_RANGE : Nat := 0x0B
def cNOT_HELM : Nat := 0x0C
def cCONFIG_INVALID : Nat := 0x0D
def cSECURE_REQUIRED : Nat := 0x0E
def cCLAIM_CONFLICT : Nat := 0x0F
def cSYNC_LOST : Nat := 0x20
def cREVERSE : Nat := 0x21
def cTRIP : Nat := 0x22
def cSTALL : Nat := 0x23
def cHELM_LOSS : Nat := 0x24
def cMODE_CHANGE : Nat := 0x25
def cHOST_CANCEL : Nat := 0x26
def cLATE : Nat := 0x30
def cJUMPED : Nat := 0x31

/-- Service phases in the encoding of ADM_STAT.PHASE. -/
def phBOOT : Nat := 0
def phHOLD : Nat := 1
def phCRANK : Nat := 2
def phSERVICE : Nat := 3
def phRECOVERY : Nat := 4
def phTEST : Nat := 5

def Block.phase (s : Block) (h : HalfId) : Nat := s.f h F.ADM_STAT_PHASE
def Block.helm (s : Block) (h : HalfId) : Nat := s.f h F.ADM_STAT_HELM

/-- The half that holds an agreed helm (rule R417). -/
def Block.holdsHelm (s : Block) (h : HalfId) : Bool := s.helm h == 0

/-- CRANK, SERVICE, RECOVERY and TEST, in which outputs may be enabled and submissions are admitted (rule R143). -/
def activePhase (p : Nat) : Bool := p == phCRANK || p == phSERVICE || p == phRECOVERY || p == phTEST

/-! ## Notices (rules R364, R374 to R376) -/

def noticeWords (l : List Notice) : Nat := total (fun n => n.words.length + 1) l

/-- The replay buffer holds the last 512 notices, at most 4,096 words (rule R376). -/
def trimReplay : List Notice → List Notice
  | [] => []
  | n :: rest => if 512 < (n :: rest).length || 4096 < noticeWords (n :: rest) then trimReplay rest else n :: rest

/-- A notice is numbered, kept for replay and queued for MBX6. -/
def Half.addNotice (x : Half) (code : Nat) (words : List Word) : Half :=
  let n : Notice := ⟨code, x.hip.seq, words⟩
  { x with hip := { x.hip with seq := (x.hip.seq + 1) % 1024, replay := trimReplay (x.hip.replay ++ [n]),
                               out6 := x.hip.out6 ++ [n] } }

/-- A notice of HIP; a half whose HIP does not run sends none. -/
def Block.notice (s : Block) (h : HalfId) (code : Nat) (words : List Word) : Block :=
  s.modHalf h fun x => if x.hip.running then x.addNotice code words else x

/-- A notice of a kind that NOTICE_MASK can suppress: bit 4 SYNC, 3 CREDIT, 2 COMBUSTION, 1 MISFIRE, 0 CAN_RX. -/
def Block.maskedOff (s : Block) (h : HalfId) (bit : Nat) : Bool := bits (s.half h).hip.mask bit bit == 1

/-- COMBUSTION, MISFIRE and CAN_RX notices wait in a queue of 64; the oldest gives way (rule R375). `k`: 0, 1, 2. -/
def Block.softNotice (s : Block) (h : HalfId) (code : Nat) (words : List Word) (bit : Nat) : Block :=
  if s.maskedOff h bit then s else
  s.modHalf h fun x =>
    if x.hip.running then
      let n : Notice := ⟨code, 0, words⟩
      if x.hip.soft.length < 64 then { x with hip := { x.hip with soft := x.hip.soft ++ [n] } }
      else
        let old := ((x.hip.soft.head?).map Notice.code).getD 0
        let l := x.hip.lost
        let l' := if old = 0xC7 then (capNat 255 (l.1 + 1), l.2.1, l.2.2)
                  else if old = 0xC8 then (l.1, capNat 255 (l.2.1 + 1), l.2.2)
                  else (l.1, l.2.1, capNat 255 (l.2.2 + 1))
        { x with hip := { x.hip with soft := x.hip.soft.drop 1 ++ [n], lost := l' } }
    else x

/-! ## The error log (rules R428 to R433) -/

/-- A report among those waiting: behind the earlier ones, and in order of BLOCK, then INDEX among those of the same count (rule
R433; log entry 132). -/
def queueReport (r : Report) (l : List Report) : List Report :=
  l.filter (fun x => x.stamp != r.stamp) ++ insertBy (fun x => x.block * 128 + x.index) r (l.filter fun x => x.stamp == r.stamp)

/-- A report enters the queue of the log engine, or is counted as lost (rule R433). `wide`: its FAULT notice goes on every link. -/
def Block.reportAs (wide : Bool) (s : Block) (h : HalfId) (code cls block index detail : Nat) : Block :=
  let x := s.half h
  if x.hl.queue.length < 32 then
    s.setHalf h { x with hl := { x.hl with
      queue := queueReport ⟨code, cls, block, index, detail % 65536, x.tsc, wide⟩ x.hl.queue } }
  else
    let s1 := (s.count h F.LOG_LOSS_LOST block).setF h F.HLM_ERR_LOGLOSS 1
    s1.modHalf h fun y => { y with hl := { y.hl with lostCode := y.hl.lostCode.set block code } }

def Block.report (s : Block) (h : HalfId) (code cls block index detail : Nat) : Block :=
  s.reportAs false h code cls block index detail

/-! ## The racking bridge (rules R27 to R29) -/

/-- Priority of a word on the bridge: helm, angle, health, bus transactions. -/
def BMsg.prio : BMsg → Nat
  | .beat _ | .qmin _ | .service _ | .class4 | .deactivate _ | .nextMode _ _ => 0
  | .angle _ _ _ => 1
  | .role _ => 2
  | .mbx _ | .taken | .hipReset | .write _ _ _ | .host _ _ | .freed _ | .fab _ _ _ _ => 3
  | .part n => n

/-- The words a message takes on the bridge: the words before the last one, which carries the message, only hold their
places. An angle message takes three, a posted write two, a fabric frame its own words (rule R27, log entry 89). -/
def BMsg.wordsOf (m : BMsg) : List BMsg :=
  match m with
  | .angle _ _ _ => [.part 1, .part 1, m]
  | .write _ _ _ => [.part 3, m]
  | .fab _ _ _ f => List.replicate (2 + f.pay.length) (.part 3) ++ [m]
  | _ => [m]

/-- The direction of the bridge in which a half sends. -/
def Block.lane (s : Block) : HalfId → Lane
  | .a => s.ab
  | .b => s.ba

def Block.setLane (s : Block) (h : HalfId) (l : Lane) : Block :=
  match h with
  | .a => { s with ab := l }
  | .b => { s with ba := l }

/-- The bridge holds for this half (HLM_STAT.BRIDGE). -/
def Block.bridgeUp (s : Block) (h : HalfId) : Bool := s.on h F.HLM_STAT_BRIDGE

/-- A word is written when its sender holds a credit, and waits in the order of its class otherwise. -/
def Lane.push (l : Lane) (m : BMsg) : Lane :=
  if l.wait.isEmpty && l.fifo.length < 32 then { l with fifo := l.fifo ++ [m] }
  else { l with wait := insertBy BMsg.prio m l.wait }

/-- A half writes a message to the bridge, word by word. -/
def Block.send (s : Block) (h : HalfId) (m : BMsg) : Block := s.setLane h (m.wordsOf.foldl Lane.push (s.lane h))

/-- No check can be made any longer: PEER_VALID reads 0 in both halves (rule R84). -/
def Block.peerInvalid (s : Block) : Block :=
  [HalfId.a, HalfId.b].foldl (fun b k => [0, 1].foldl (fun b t => b.setF k F.WTK_XCHK_PEER_VALID 0 t) b) s

/-! ## Casks: order, credit, records and cancellation (rules R115, R123, R136 to R140, R159) -/

def Entry.action (e : Entry) : Nat := bits e.w1.toNat 23 16
def Entry.profile (e : Entry) : Nat := bits e.w1.toNat 15 12
def Entry.tolClass (e : Entry) : Nat := bits e.w1.toNat 11 8
def Entry.frame (e : Entry) : Nat := bits e.w1.toNat 7 3
def Entry.notify (e : Entry) : Bool := bits e.w1.toNat 2 2 == 1
def Entry.static (e : Entry) : Bool := bits e.w1.toNat 1 1 == 1
def Entry.param (e : Entry) : Nat := e.w2.toNat

def aINJ_SHOT : Nat := 0x01
def aEVO_SET : Nat := 0x10
def aEVO_CLEAR : Nat := 0x11
def aEVO_PULSE : Nat := 0x12
def aCONV_WINDOW : Nat := 0x20
def aPE_TRIGGER : Nat := 0x30
def aMARK : Nat := 0x40

/-- A channel is injection-class (rule R115). -/
def Block.injClass (s : Block) (h : HalfId) (k : Nat) : Bool :=
  let kind := s.f h F.EVC_CFG_KIND k
  kind == 1 || (kind == 2 && s.on h F.EVC_CFG_INJCLASS k)

/-- Forward distance of a global target from the lookbehind boundary (rule R123). -/
def Block.keyOf (s : Block) (h : HalfId) (g : Nat) : Nat :=
  let m := s.modM h
  fwd m ((s.ang h + m - m / 4) % m) (s.cmpAngle h g)

/-- The place of an entry in the order of its cask (rule R123). -/
def Block.caskKey (s : Block) (h : HalfId) (e : Entry) : Nat := s.keyOf h e.g

/-- The entries of one channel in cask order (rule R123); the list keeps insertion order among equals. -/
def Block.chanEntries (s : Block) (h : HalfId) (k : Nat) : List Entry :=
  sortBy (s.caskKey h) ((s.half h).cask.filter (fun e => e.chan == k))

/-- Entries in channel order, and within a channel in cask order (rule R140). -/
def Block.inOrder (s : Block) (h : HalfId) (l : List Entry) : List Entry :=
  sortBy Entry.chan (sortBy (s.caskKey h) l)

/-- Slots the cask of a channel offers (rule R125). -/
def Block.usableSlots (s : Block) (h : HalfId) (k : Nat) : Nat :=
  16 - (nth 0 (s.half h).lost k + bitOf (nth false (s.half h).slotDue k))

def Block.dynPending (s : Block) (h : HalfId) (k : Nat) : Nat :=
  ((s.half h).cask.filter (fun e => e.chan == k && !e.static)).length

/-- Slots of a channel that were freed in the present ANGCLK, of static entries only where `all` is set (rule R159). -/
def Block.freedNow (s : Block) (h : HalfId) (k : Nat) (all : Bool) : Nat :=
  ((s.half h).freed.filter fun y => y.1 == (s.half h).tsc && y.2.1 == k && (all || !y.2.2)).length

/-- Slot credit of a channel (rule R159). -/
def Block.slotCredit (s : Block) (h : HalfId) (k : Nat) : Nat :=
  s.usableSlots h k - s.dynPending h k - s.f h F.ADM_CRED_RSV k

/-- The static reserve of a channel as it counts for a submission: one loaded in this ANGCLK counts from the next on (rules R159,
R187). -/
def Block.reserve (s : Block) (h : HalfId) (k : Nat) : Nat :=
  match (s.half h).sched.rsvOld with
  | some (t, l) => if t == (s.half h).tsc then nth 0 l k else s.f h F.ADM_CRED_RSV k
  | none => s.f h F.ADM_CRED_RSV k

/-- The slot credit that a submission sampled now finds. -/
def Block.creditNow (s : Block) (h : HalfId) (k : Nat) : Nat := s.usableSlots h k - s.dynPending h k - s.reserve h k

/-- The envelope in use, ADM_ENVN and ADM_ENVR: where they follow ADM_CENVN and ADM_CENVR, from the ANGCLK after (rule R167). -/
def Block.envelope (s : Block) (h : HalfId) : Word × Word :=
  let held := (s.w h .ADM_ENVN, s.w h .ADM_ENVR)
  match (s.half h).sched.envOld with
  | some (t, w) => if t == (s.half h).tsc then w else held
  | none => held

def Block.envN (s : Block) (h : HalfId) : Nat := bits (s.envelope h).1.toNat F.ADM_ENVN_N_MAX.hi F.ADM_ENVN_N_MAX.lo
def Block.envR (s : Block) (h : HalfId) : Nat := bits (s.envelope h).2.toNat F.ADM_ENVR_RATE_MAX.hi F.ADM_ENVR_RATE_MAX.lo

/-- The CREDIT notice of rule R160: every channel whose slot credit was 0 in `old` and is so no longer. A notice holds at most 63 words
(rule R374), so the last of 64 channels has one of its own. -/
def Block.creditNotice (s : Block) (h : HalfId) (old : Block) (chans : List Nat) : Block :=
  let up := chans.eraseDups.filter (fun k => old.slotCredit h k == 0 && 0 < s.slotCredit h k)
  let words := up.map (fun k => wd (k * 65536 + s.slotCredit h k))
  if up.isEmpty || s.maskedOff h 3 then s
  else
    let t := s.notice h 0xC6 (words.take 63)
    if 63 < words.length then t.notice h 0xC6 (words.drop 63) else t

/-- The records of the present ANGCLK behind those of earlier ones: in channel order, and within a channel in cask order as the angle
that the clock has reached in that ANGCLK makes it (rules R123, R140). -/
def Block.sortRecs (s : Block) (h : HalfId) (l : List NRec) : List NRec :=
  let mine (r : NRec) : Bool := r.stamp == (s.half h).tsc
  l.filter (fun r => !mine r) ++ sortBy NRec.chan (sortBy (fun r => s.keyOf h r.g) (sortBy NRec.ord (l.filter mine)))

/-- A record entered into the notice queue (rule R140). -/
def Block.enterRec (s : Block) (h : HalfId) (r : NRec) (l : List NRec) : List NRec := s.sortRecs h (l ++ [r])

/-- The record of an entry's outcome in the present ANGCLK (rules R138, R139). -/
def Block.outcome (s : Block) (h : HalfId) (e : Entry) (code : Nat) (armErr : Word) (late : Nat) : NRec :=
  ⟨code, e.chan, e.tag, armErr, late, s.tsLow h, (s.half h).tsc, e.g, e.order⟩

/-- A record enters the notice queue (rules R138, R140). -/
def Block.pushRec (s : Block) (h : HalfId) (r : NRec) : Block := s.modHalf h fun x => { x with evn := s.enterRec h r x.evn }

/-- An entry leaves the cask; its slot counts toward credit from the next ANGCLK on (rule R159). -/
def Block.dropEntry (s : Block) (h : HalfId) (e : Entry) : Block :=
  s.modHalf h fun x => { x with cask := x.cask.filter (fun y => !(y.chan == e.chan && y.tag == e.tag)),
                                freed := (x.tsc, e.chan, e.static) :: x.freed.filter fun y => y.1 == x.tsc }

/-- The place of a cancellation cause in the order of rule R137; 7 for every other code. -/
def causeRank (code : Nat) : Nat :=
  match [cTRIP, cREVERSE, cSTALL, cSYNC_LOST, cHELM_LOSS, cMODE_CHANGE, cHOST_CANCEL].idxOf? code with
  | some i => i
  | none => 7

/-- One entry is cancelled with a cause: its record, its slot and the channel's counter (rules R134, R138). -/
def Block.cancelOne (h : HalfId) (code : Nat) (s : Block) (e : Entry) : Block :=
  (((s.dropEntry h e).pushRec h (s.outcome h e code 0 0)).modHalf h fun x =>
    { x with gone := (x.tsc, e) :: x.gone.filter fun g => g.1 == x.tsc }).count h F.EVC_CNT_CANCELS e.chan

/-- The entries that `p` names and that were cancelled earlier in the present ANGCLK. -/
def Block.goneNow (s : Block) (h : HalfId) (p : Entry → Bool) : List Entry :=
  ((s.half h).gone.filter fun g => g.1 == (s.half h).tsc && p g.2).map Prod.snd

/-- A further cause reaches entries that were cancelled earlier in this ANGCLK: the cause reported is the first in the order of
rule R137. -/
def Block.recause (s : Block) (h : HalfId) (code : Nat) (p : Entry → Bool) : Block :=
  let now := (s.half h).tsc
  let hit := s.goneNow h p
  if hit.isEmpty then s else
  let raise (r : NRec) : NRec :=
    if r.stamp == now && decide (causeRank code < causeRank r.code) && decide (causeRank r.code < 7) &&
        hit.any (fun e => e.chan == r.chan && e.tag == r.tag) then { r with code := code } else r
  s.modHalf h fun x => { x with evn := x.evn.map raise }

/-- Every pending entry that `p` names is cancelled with the cause, in channel and cask order (rules R137, R140). -/
def Block.cancelWhere (s : Block) (h : HalfId) (code : Nat) (p : Entry → Bool) : Block :=
  let es := s.inOrder h ((s.half h).cask.filter p)
  (es.foldl (Block.cancelOne h code) (s.recause h code p)).creditNotice h s (es.map Entry.chan)

/-! ## Output enable and service phase (rules R144, R145, R192) -/

/-- The number of the first INJ channel, BHS, EVO line and half-bridge of a half, in module numbering (rule R32). -/
def injBase (h : HalfId) : Nat := 12 * h.num
def bhsBase (h : HalfId) : Nat := 6 * h.num
def evoBase (h : HalfId) : Nat := 24 * h.num
def hbBase (h : HalfId) : Nat := 4 * h.num

/-- ANGCLK runs in a half: it is out of reset and at Run or Rest (rules R311, R439). -/
def Block.angRuns (s : Block) (h : HalfId) : Bool :=
  (s.half h).live && decide ((match h with | .a => s.f .a F.PWR_STAT_STA | .b => s.f .a F.PWR_STAT_STB) ≤ 1)

/-- Half `h`'s output-enable line as DRV_STAT shows it. -/
def oeFld : HalfId → Fld
  | .a => F.DRV_STAT_OEA
  | .b => F.DRV_STAT_OEB

/-- One injector channel's switches off (rule R190: ACT deasserted). -/
def Block.injOff (s : Block) (n : Nat) : Block :=
  (((s.setF .a F.INJ_STAT_LS 0 n).setF .a F.INJ_STAT_HSB 0 n).setF .a F.INJ_STAT_BOOST 0 n)

/-- The drive die switches off every INJ, BHS and HB output and every EVO line of a half (rule R192); with the gate-command lines
ignored no channel requests a BHS or holds one. -/
def Block.outputsOff (s : Block) (h : HalfId) : Block :=
  let s1 := (List.range 12).foldl (fun t k => t.injOff (injBase h + k)) s
  let s2 := (List.range 6).foldl (fun t k => t.setF .a F.BHS_STAT_ON 0 (bhsBase h + k)) s1
  let s3 := (List.range 4).foldl (fun t k => (t.setF .a F.HB_STAT_HS 0 (hbBase h + k)).setF .a F.HB_STAT_LS 0 (hbBase h + k)) s2
  let s4 := { s3 with bhs := s3.bhs.zipIdx.map fun p =>
    if p.2 / 6 = h.num then ⟨none, none, p.1.holder.isSome || p.1.change⟩ else p.1 }
  let s4 := (List.range 6).foldl (fun t k => t.setF .a F.BHS_STAT_CONTEND 0 (bhsBase h + k)) s4
  (List.range 24).foldl (fun t k => t.setF .a F.EVO_STAT_LEVEL 0 (evoBase h + k)) s4

def Block.modTal (s : Block) (h : HalfId) (f : Tally → Tally) : Block := s.modHalf h fun x => { x with tal := f x.tal }

/-- The wear record of a stage within its half: INJ 0-11, BHS 12-17, HB 18-21. -/
def Block.modWear (s : Block) (h : HalfId) (r : Nat) (f : Wear → Wear) : Block :=
  s.modTal h fun x => { x with wear := x.wear.set r (f (nth ⟨0, 0, 0, 0, 0, false, 0, 0⟩ x.wear r)) }

/-- What outputs A and B of the PWM unit that HB_CFG.SRC names command of half-bridge `b`: high side, low side (rule R222). -/
def Block.hbCommands (s : Block) (b : Nat) : Bool × Bool :=
  let h := if b < 4 then HalfId.a else HalfId.b
  let u := s.f .a F.HB_CFG_SRC b
  let en := s.on .a F.HB_CFG_EN b
  (en && s.on h F.PWM_STAT_OUTA u, en && s.on h F.PWM_STAT_OUTB u)

/-- The switches of half-bridge `b` follow outputs A and B of the PWM unit that HB_CFG.SRC names (rules R222, R223): off
where the half's output-enable line or the trip latch holds them off, and both off with SHOOT where both are commanded. A turn-on of
the high side counts as wear (rule R459). -/
def Block.hbDrive (s : Block) (b : Nat) : Block :=
  let h := if b < 4 then HalfId.a else HalfId.b
  let x := (s.hbCommands b).1
  let y := (s.hbCommands b).2
  let off := !s.on .a (oeFld h) || s.on .a F.HB_TRIP_LATCH b || (x && y)
  let t := if x && !off && !s.on .a F.HB_STAT_HS b then s.modWear h (18 + b % 4) fun w => { w with sw := w.sw + 1 } else s
  ((t.setF .a F.HB_STAT_HS (bitOf (x && !off)) b).setF .a F.HB_STAT_LS (bitOf (y && !off)) b).setF .a F.HB_STAT_SHOOT
    (bitOf (x && y)) b

def Block.hbDriveHalf (s : Block) (h : HalfId) : Block := (List.range 4).foldl (fun t k => t.hbDrive (hbBase h + k)) s

/-! ## The helm (rules R417 to R424, R435) -/

/-- The owner of a cylinder (rule R31). -/
def Block.ownsCyl (s : Block) (h : HalfId) (c : Nat) : Bool := (s.own[c]?) == some h

/-- Ownership follows the bases in force; without any it is the default of rule R31 (log entry 10). -/
def Block.setOwners (s : Block) : Block :=
  let x := s.ha.hip.base
  let y := s.hb.hip.base
  { s with own := if x.isEmpty && y.isEmpty then List.replicate 12 .a ++ List.replicate 12 .b
                  else (List.range 24).map fun c => if Config.ownedByB c x y then .b else .a }

/-- The firmware of a half runs; a vacant HIP role does not end it (rules R331, R333). -/
def Block.fwRuns (s : Block) (h : HalfId) : Bool :=
  (s.half h).hip.running || nth 0 (s.half h).hip.roles 0 == 2

/-- A module-level condition of the drive die is logged by the half that holds the helm (rules R417, R432). -/
def Block.driveReport (s : Block) (cls : Nat) : Block :=
  let d := bits (s.w .a .DRV_STAT).toNat 23 20
  let s1 := if s.holdsHelm .a then s.report .a cOK cls 27 127 d else s
  if s1.holdsHelm .b then s1.report .b cOK cls 27 127 d else s1

/-- A half owns a cylinder. -/
def Block.ownsAny (s : Block) (h : HalfId) : Bool := s.own.contains h

/-- The sync-quality score of a half: that of its angle-source tracker (rule R72). -/
def Block.score (s : Block) (h : HalfId) : Nat := s.f h F.WTK_STAT_QUALITY (s.src h)

/-- HELM as rule R419 derives it. -/
def helmOf (bridge peerDown claim peerClaim : Bool) : Nat :=
  if !bridge && !peerDown then 3
  else if claim && (!peerClaim || peerDown) then 0
  else if !claim && peerClaim then 1
  else 2

/-- SERVICE may be entered: a schedule is activated, its certificate holds, the half is not in island mode, and the SCP role is not
vacant (rules R146, R150, R163, R333). -/
def Block.mayServe (s : Block) (h : HalfId) : Bool :=
  s.on h F.ADM_STAT_SCHED && s.on h F.ADM_STAT_CERT_OK && !(s.half h).sched.recheck && s.helm h != 3 &&
    nth 0 (s.half h).hip.roles 1 != 2

/-- A decided entry to SERVICE is withdrawn before its cycle start; in CRANK the static schedule goes back to waiting. -/
def Block.withdrawService (s : Block) (h : HalfId) : Block :=
  if !s.on h F.ADM_STAT_SVCPEND then s else
  let s1 := s.setF h F.ADM_STAT_SVCPEND 0
  if s1.phase h = phCRANK then s1.modHalf h fun x => { x with sched := { x.sched with nextSrc := none, due := [] } } else s1

/-- PWR_STRAP shows the straps as a half sampled them (rule R451). -/
def Block.showStraps (s : Block) (h : HalfId) : Block :=
  let x := (s.half h).hl.straps
  (s.setF .a F.PWR_STRAP_HELMPRE (bitOf x.1)).setF .a F.PWR_STRAP_SASTART (bitOf x.2)

/-- The half derives its helm state again; a change is counted, logged and notified (rules R419, R423, R435). In island mode no
half enters SERVICE, a decided entry included (rule R146); a module-wide long command of a half without the helm will end with NOT_HELM
(rule R367). -/
def Block.deriveHelm (s : Block) (h : HalfId) (cause : Nat) : Block :=
  let old := s.helm h
  let new := helmOf (!(s.half h).hl.lost) (s.on h F.HLM_STAT_PEERDOWN) (s.on h F.HLM_STAT_CLAIM) (s.on h F.HLM_STAT_PEERCLAIM)
  if new = old then s else
  let decided := cause = 4 || cause = 5
  let ownq := if decided then s.f h F.HLM_DISP_QMIN else s.score h
  let peerq := if decided then s.f h F.HLM_DISP_PQMIN else s.f h F.HLM_STAT_PEERQ
  let w1 := new * 2 ^ 22 + old * 2 ^ 20 + cause * 2 ^ 16 + ownq * 256 + peerq
  let s1 := s.setF h F.ADM_STAT_HELM new
  let s2 := if new = 2 then
      (((s1.count h F.HLM_CNT_DISPUTES).setF h F.HLM_ERR_DISPUTE 1).setW h .HLM_DISP 0).modHalf h
        (fun x => { x with hl := { x.hl with qmin := none, pqmin := none, sentQ := false, evalAt := none } })
    else s1
  let s2 := if new = 2 then s2 else s2.modHalf h fun x =>
    { x with hl := { x.hl with qmin := none, pqmin := none, sentQ := false, evalAt := none } }
  let s3 := if new = 3 then ((s2.count h F.HLM_CNT_ISLANDS).setF h F.HLM_ERR_ISLAND 1).withdrawService h else s2
  let s3 := if new = 0 then s3 else s3.modHalf h fun x =>
    { x with hip := { x.hip with long := x.hip.long.map fun c => { c with helmLost := c.helmLost || c.helm } } }
  let held := (s.half h).hl.holder
  let s4 := if new < 2 then
      let t := if held.isSome && held ≠ some new then s3.count h F.HLM_CNT_HANDOVERS else s3
      let u := t.modHalf h (fun x => { x with hl := { x.hl with holder := some new } })
      if new = 0 then u.showStraps h else u
    else s3
  (s4.report h cOK 0 16 127 w1).notice h 0xCA [wd w1, wd (s.tsLow h)]

/-! ## Tally and spare notices (rules R456 to R464) -/

/-- An exchange or an empty-pool failure of a kind enters the live tally; an entity is recorded as replaced once (R463). -/
def Block.poolUse (s : Block) (h : HalfId) (kind index : Nat) (brought : Bool) : Block :=
  s.modTal h fun x =>
    if brought then
      if x.replaced.contains (kind, index) then x
      else { x with used := x.used.set kind (nth 0 x.used kind + 1),
                    replaced := x.replaced ++ [(kind, index)] }
    else { x with failed := x.failed.set kind (nth 0 x.failed kind + 1) }

/-- A SPARE notice with its log entry (rule R464). -/
def Block.spareNote (s : Block) (h : HalfId) (kind event index remain detail : Nat) : Block :=
  s.notice h 0xCE [wd (kind * 2 ^ 20 + event * 2 ^ 18 + index * 2 ^ 11 + remain), wd detail, wd (s.tsLow h)]

/-- A spare is brought in, or a failure meets an empty pool: the tally, the notice, a class 1 entry in the block of the
source, and the start of the certificate recheck (rules R37, R458, R464). -/
def Block.spareEvent (s : Block) (h : HalfId) (kind : Nat) (brought : Bool) (index remain detail block logIndex logDetail : Nat) :
    Block :=
  let s0 := s.poolUse h kind (if kind = 3 then index * 65536 + detail else index) brought
  let s1 := s0.spareNote h kind (if brought then 0 else 1) index remain detail
  (s1.report h cOK 1 block logIndex logDetail).modHalf h fun x => { x with sched := { x.sched with lossDue := true } }

end Sys2Proof.Machine
end

