-- ==== Sys2Proof/Machine/Converters.lean ====
section
/-!
DEFINITION. Pipeline converters (chapter 8): samples and their flags, shot slots, sampling windows and their records, and
the spare converter.
-/

namespace Sys2Proof.Machine

def Block.conv (s : Block) (h : HalfId) (k : Nat) : Conv := nth Conv.idle (s.half h).conv k
def Block.setConv (s : Block) (h : HalfId) (k : Nat) (c : Conv) : Block :=
  s.modHalf h fun x => { x with conv := x.conv.set k c }
def Block.modConv (s : Block) (h : HalfId) (k : Nat) (f : Conv → Conv) : Block := s.setConv h k (f (s.conv h k))

/-- The slots of a converter count 0: it is marked failed, or its half's ADCCLK is not locked (rules R245, R446). -/
def Block.slotless (s : Block) (h : HalfId) (k : Nat) : Bool := s.on h F.PCV_STAT_FAILED k || !s.on h F.CRP_STAT_ADCLOCK

/-- A converter can work: not marked failed, with the half in Run and ADCCLK locked (rules R245, R439, R446). -/
def Block.convReady (s : Block) (h : HalfId) (k : Nat) : Bool :=
  !s.slotless h k && (s.half h).live && s.rung h == 0

/-- A converter makes conversions: it can work, and is enabled (rule R246). -/
def Block.converts (s : Block) (h : HalfId) (k : Nat) : Bool := s.on h F.PCV_CFG_EN k && s.convReady h k

/-! ## Codes (rules R230, R231) -/

/-- The code a conversion returns: the clamp code outside the range. -/
def clampCode (signed : Bool) (code : Nat) : Range → Nat
  | .inside => code % 65536
  | .below => if signed then 0x8000 else 0
  | .above => if signed then 0x7FFF else 0xFFFF

/-- A code placed in a word by ALIGN. -/
def aligned (align code : Nat) : Word :=
  if align = 2 then wd (code * 256)
  else if align = 1 then wd (field 24 (sext 16 code))
  else wd code

/-- The code that an aligned word carries. -/
def codeOf (align : Nat) (w : Word) : Nat := if align = 2 then bits w.toNat 23 8 else bits w.toNat 15 0

/-! ## Flags of a conversion (rule R242) -/

/-- Whether a conversion carries RCV, with the recoveries that remain; an over-range starts one of two conversions. -/
def recovery (inp : Nat) (ovrd : Bool) (l : List (Nat × Nat)) : Bool × List (Nat × Nat) :=
  let rest := l.filter (fun p => p.1 != inp)
  if ovrd then (false, (inp, 2) :: rest)
  else match l.find? (fun p => p.1 == inp) with
    | some (_, n) => (true, if n ≤ 1 then rest else (inp, n - 1) :: rest)
    | none => (false, rest)

/-- A conversion of input `inp` made at `at'`, where `next` tells whether that is the ADCCLK after an over-range one;
answers whether any flag comes with it. -/
def Block.convert (s : Block) (h : HalfId) (k inp at' : Nat) (r : Range) (next : Nat → Bool) : Bool × Block :=
  let c := s.conv h k
  let ovrd := r != .inside
  let rec' := recovery inp ovrd c.recov
  let nbr := match c.ovrd with
    | some (i, a) => i != inp && next a
    | none => false
  let s1 := s.setConv h k { c with recov := rec'.2, ovrd := if ovrd then some (inp, at') else none }
  let s2 := if ovrd then (s1.setF h F.PCV_ERR_OVR 1 k).count h F.PCV_CNT_OVRS k else s1
  (ovrd || rec'.1 || nbr, s2)

/-! ## Windows (rules R236 to R241) -/

/-- Forward distance of point `k` from G: floor(k × SPACE × 8,192 / 5). -/
def pointAt (space k : Nat) : Nat := k * space * 8192 / 5

/-- Registers that a window's analysis takes at its opening: the ATU's settings and volume table, the AIN values, and of the
angle clock's page the offsets and CYCLE (rule R248). -/
def Block.snapshot (s : Block) (h : HalfId) : Mem :=
  let b := if h == .b then 0x400000 else 0
  s.regs.filter fun p =>
    (0x260000 + b ≤ p.1 && p.1 < 0x2603D1 + b) || (0x251030 + b ≤ p.1 && p.1 < 0x251050 + b) ||
    (0x210000 + b ≤ p.1 && p.1 < 0x220000 + b)

/-- The record of a window (rule R240). -/
def winRecord (w : Win) (slot endCode : Nat) : List Word :=
  [wd (w.tag * 2 ^ 14 + w.frame * 512 + endCode * 64 + slot * 16 + bitOf w.jump * 8 + bitOf w.catchup * 4 + bitOf w.drop * 2 +
      bitOf (w.flags != 0)),
    wd (capNat 255 w.flags * 65536 + w.taken % 65536), wd w.time, wd w.buf]

/-- A window record enters the converter's queue of 16; when it is full the oldest is overwritten. -/
def Block.pushWindow (s : Block) (h : HalfId) (k : Nat) (r : List Word) : Block :=
  let q := (s.conv h k).recs
  let s1 := if q.length < 16 then s else s.setF h F.PCV_ERR_RQOVF 1 k
  s1.modConv h k fun c => { c with recs := (if q.length < 16 then q else q.drop 1) ++ [r] }

/-- A window ends: its record, its slot, and its analysis when the ATU took it. -/
def Block.endWindow (s : Block) (h : HalfId) (k slot endCode : Nat) : Block :=
  match nth none (s.conv h k).wins slot with
  | none => s
  | some w =>
    let s1 := s.modConv h k fun c => { c with wins := c.wins.set slot none }
    let s2 := s1.pushWindow h k (winRecord w slot endCode)
    if w.atu then s2.modHalf h fun x =>
      { x with atu := { x.atu with jobs := x.atu.jobs.filter (fun j => j.ctx != 4 * k + slot) ++ [⟨4 * k + slot, w, endCode⟩] } }
    else s2

/-- Every open window of a converter ends. -/
def Block.endConvWindows (s : Block) (h : HalfId) (k endCode : Nat) : Block :=
  (List.range 4).foldl (fun t slot => t.endWindow h k slot endCode) s

/-- Every open window of a half ends (rule R238). -/
def Block.endWindows (s : Block) (h : HalfId) (endCode : Nat) : Block :=
  (s.endConvWindows h 0 endCode).endConvWindows h 1 endCode

/-- The window ends when its last point has been sampled, or when the next lies a cycle or more from G (rule R240). -/
def Block.settleWindow (s : Block) (h : HalfId) (k slot : Nat) : Block :=
  match nth none (s.conv h k).wins slot with
  | some w =>
    if !w.queue.isEmpty then s
    else if w.count ≤ w.next then s.endWindow h k slot 0
    else if s.cycleL h ≤ pointAt w.space w.next then s.endWindow h k slot 5
    else s
  | none => s

/-- Points from the window's next one on that `reached` names join its queue; beyond 255 they are dropped. -/
def queuePoints (jump catchup : Bool) (reached : Nat → Bool) : Nat → Win → Win
  | 0, w => w
  | fuel + 1, w =>
    if w.next < w.count && reached w.next then
      let w1 := if w.queue.length < 255 then { w with queue := w.queue ++ [⟨w.next, jump, catchup⟩], next := w.next + 1 }
        else { w with drop := true, next := w.next + 1 }
      queuePoints jump catchup reached fuel w1
    else w

/-- A point of a window was passed or landed on in a movement of the angle clock, forward (rules R97, R236). -/
def reachedBy (mv : Move) (l g space k : Nat) : Bool :=
  let d := fwd mv.modulus mv.start ((g + pointAt space k) % mv.modulus)
  !mv.rev && decide (pointAt space k < l) && decide (0 < d) && decide (d ≤ mv.len)

/-- The points of one window that the last movement passed join its queue (rules R237, R238). -/
def Block.passPoints (s : Block) (h : HalfId) (k slot : Nat) : Block :=
  match (s.half h).clk.moved, nth none (s.conv h k).wins slot with
  | some mv, some w =>
    let w1 := queuePoints mv.jump mv.catchup (reachedBy mv (s.cycleL h) w.g w.space) w.count w
    let s1 := s.modConv h k fun c => { c with wins := c.wins.set slot (some w1) }
    let lost := decide (w1.queue.length - w.queue.length < w1.next - w.next)
    let s2 := if lost then s1.setF h F.PCV_ERR_DROP 1 k else s1
    s2.settleWindow h k slot
  | _, _ => s

/-- Another window of the cylinder is being analysed (rule R247). -/
def Block.analysed (s : Block) (h : HalfId) (c : Nat) : Bool :=
  ([0, 1].any fun k => (s.conv h k).wins.any fun w => match w with | some w => w.atu && w.frame == c | none => false) ||
  (s.half h).atu.jobs.any fun j => j.win.frame == c

/-- A CONV_WINDOW opens its window in the lowest free slot of its converter; without one the record carries END 7, and a converter marked
FAILED or without ADCCLK counts no slots (rules R236, R239, R245 to R248, R446). With `jumped`, the points up to the present angle are
queued at once (rule R238). -/
def Block.openWindow (s : Block) (h : HalfId) (k tag frame : Nat) (static : Bool) (g count : Nat) (jumped : Bool) : Block :=
  let w := (if frame = 31 then s.w h .PCV_CYLG else s.w h .PCV_CYL frame).toNat
  let mk (slot : Nat) (atu : Bool) : Win :=
    { tag := tag, frame := frame, static := static, g := g, count := count, cp := bits w 23 20, space := bits w 7 0, next := 1,
      queue := [⟨0, jumped, (s.half h).clk.mode == .catchup && !jumped⟩], jump := false, catchup := false, drop := false, flags := 0, taken := 0,
      time := s.tsLow h,
      store := if s.on h F.PCV_CFG_STORE k then
          some (s.f h F.PCV_WBUF_BASE k + slot * s.f h F.PCV_WLEN_LEN k, s.f h F.PCV_WLEN_LEN k) else none,
      align := s.f h F.PCV_CPCFG_ALIGN (bits w 23 20), buf := 0,
      atu := atu, snap := if atu then s.snapshot h else [], samples := [], late := none, held := false }
  match (List.range 4).find? (fun i => !s.slotless h k && (nth none (s.conv h k).wins i).isNone) with
  | none =>
    let d := s.draw
    d.2.pushWindow h k (winRecord { mk 0 false with queue := [] } (d.1 % 4) 7)
  | some slot =>
    let base := s.on h F.ATU_CFG_EN && decide (frame < 24) && s.on h F.ATU_CYL_EN frame
    let full := s.on h F.ANG_STAT_FULLRANGE
    let busy := s.analysed h frame
    let s1 := s.modConv h k fun c => { c with wins := c.wins.set slot (some (mk slot (base && full && !busy))) }
    let s2 := if base && full && busy then s1.setF h F.ATU_ERR_DUP 1 else s1
    let s3 := if base && !full && !busy then s2.setF h F.ATU_ERR_NOTFULL 1 else s2
    if jumped then s3.passPoints h k slot else s3

/-- WINDOW_POINT_PASS: the angle clock has passed points of a window. -/
def windowPointPass (h : HalfId) (k slot : Nat) (s : Block) : Block := s.passPoints h k slot

def execWindowPointPass (h : HalfId) (k : Fin 2) (slot : Fin 4) (s : State) : Host.Outcome State Fault Refusal :=
  .next { s with blk := windowPointPass h k.val slot.val s.blk }

/-- The lowest slot that holds a queued point, with its window and that point; of a disabled converter, of the windows that a mode
change found open (rule R412). -/
def firstQueued (en : Bool) (wins : List (Option Win)) : Option (Nat × Win × WPoint) :=
  wins.zipIdx.findSome? fun p => match p.1 with
    | some w => if en || w.held then w.queue.head?.map fun q => (p.2, w, q) else none
    | none => none

/-- The window point that a converter samples next. -/
def Block.nextPoint (s : Block) (h : HalfId) (k : Nat) : Option (Nat × Win × WPoint) :=
  if s.convReady h k then firstQueued (s.on h F.PCV_CFG_EN k) (s.conv h k).wins else none

/-- The SRAM word to which the sample of a point of a window is stored, by the settings of its opening: a mode change alters no
running window (rules R241, R412). -/
def Win.storePlace (w : Win) (h : HalfId) (point : Nat) : Option Nat :=
  w.store.bind fun p =>
    if point < p.2 && p.1 + point < 0x80000 then some (p.1 + point + if h == .b then 0x400000 else 0) else none

/-- WINDOW_POINT_SAMPLE in the block: the point is converted, flagged, counted and kept for the analysis. -/
def windowPointSample (h : HalfId) (k : Nat) (code : Nat) (r : Range) (s : Block) : Block :=
  match s.nextPoint h k with
  | none => s
  | some (slot, w, q) =>
    let now := (s.half h).tsc
    let cv := s.convert h k w.cp now r (fun a => decide (ticksTo a now ≤ 3))
    let c16 := clampCode true code r
    let w1 : Win :=
      { w with queue := w.queue.drop 1, jump := w.jump || q.jump, catchup := w.catchup || q.catchup,
               flags := w.flags + bitOf cv.1, taken := w.taken + 1,
               buf := if q.k = 0 then (w.storePlace h 0).getD 0 else w.buf,
               samples := if w.atu && q.k < 4096 then ⟨q.k, sext 16 c16, cv.1⟩ :: w.samples else w.samples }
    let s1 := cv.2.modConv h k fun c => { c with wins := c.wins.set slot (some w1) }
    let s2 := if (match w.store with | some p => decide (p.2 ≤ q.k) | none => false) then s1.setF h F.PCV_ERR_BUFOVF 1 k else s1
    s2.settleWindow h k slot

/-- The store of a window sample, where rule R241 makes one: address and word. -/
def sampleStore (h : HalfId) (k : Nat) (code : Nat) (r : Range) (s : Block) : Option (Nat × Word) :=
  match s.nextPoint h k with
  | none => none
  | some (_, w, q) => (w.storePlace h q.k).map fun a => (a, aligned w.align (clampCode true code r))

def execWindowPointSample (h : HalfId) (k : Fin 2) (code : BitVec 16) (r : Range) (s : State) : Host.Outcome State Fault Refusal :=
  .next { s with
    blk := windowPointSample h k.val code.toNat r s.blk
    ram := match sampleStore h k.val code.toNat r s.blk with
      | some p => memSet (ramReset p.1) s.ram p.1 p.2
      | none => s.ram }

/-- WINDOW_STOP: PCV_CMD operation 0b01 (rule R240). -/
def execWindowStop (h : HalfId) (k : Fin 2) (slot : Fin 4) (s : State) : Host.Outcome State Fault Refusal :=
  s.access .PCV_CMD h { s.blk.endWindow h k.val slot.val 6 with busErr := false }

/-- PCV_CMD operation 0b10 clears PCV_CNT. -/
def execPcvClearCounters (h : HalfId) (k : Fin 4) (s : State) : Host.Outcome State Fault Refusal :=
  s.access .PCV_CMD h { s.blk.clearW h .PCV_CNT k.val with busErr := false }

/-- The oldest window record is removed. -/
def Block.popWindow (s : Block) (h : HalfId) (k : Nat) : Block := s.modConv h k fun c => { c with recs := c.recs.drop 1 }

def execWindowRecordPop (h : HalfId) (k : Fin 2) (s : State) : Host.Outcome State Fault Refusal :=
  s.access .PCV_WPOP h { s.blk.popWindow h k.val with busErr := false }

/-! ## The current converters (rules R232 to R235, R242) -/

/-- The converter that serves a sequencer (rule R228). -/
def servedBy (seqr : Nat) : Nat := if seqr < 6 then 2 else 3

/-- A starting shot takes the lowest free slot of its converter; without one it runs without samples (rules R233, R234).
Answers whether it is sampled. -/
def Block.takeShotSlot (s : Block) (h : HalfId) (seqr n : Nat) : Bool × Block :=
  let k := servedBy seqr
  if !s.converts h k then (false, s) else
  match (List.range 4).find? (fun i => (nth none (s.conv h k).shots i).isNone) with
  | some i => (true, s.modConv h k fun c => { c with shots := c.shots.set i (some n) })
  | none => (false, (s.setF h F.PCV_ERR_NOSLOT 1 k).count h F.PCV_CNT_NOSLOTS k)

/-- The slot of a channel's shot is released at its end (rule R233). -/
def Block.releaseShotSlot (s : Block) (h : HalfId) (seqr n : Nat) : Block :=
  s.modConv h (servedBy seqr) fun c => { c with shots := c.shots.map fun x => if x = some n then none else x }

/-- A shunt sample updates what the drive die shows of the channel's current: 0.25 A per step, and ACTV above 0.5 A. -/
def Block.shuntSample (s : Block) (n code : Nat) : Block :=
  let ma := code * 9766 / 10000
  (s.setF .a F.INJ_STAT_ILIVE (capNat 255 (ma / 250)) n).setF .a F.INJ_STAT_ACTV (bitOf (decide (500 < ma))) n

/-- The signed current monitor of a half-bridge stands at general input `m` (rule R225). -/
def Block.monitored (s : Block) (h : HalfId) (m : Nat) : Bool :=
  decide (12 ≤ m) && s.on .a F.HB_CFG_ISENSE (hbBase h + (m - 12))

/-- One scan-list conversion: the next entry of the list; an idle entry makes none (rule R235). -/
def Block.scanSample (s : Block) (h : HalfId) (k pos pin mon : Nat) (r : Range) : Block :=
  let c := s.conv h k
  let n := s.f h F.PCV_SCANN_N (k - 2)
  let i := if n = 0 then 0 else c.scan % n
  let m := s.f h F.PCV_SCAN_INPUT (k - 2) i
  let s1 := s.modConv h k fun c => { c with scan := if n = 0 then 0 else (i + 1) % n }
  if 15 < m then s1 else
  let code := if s.monitored h m then mon else pin
  let diff := s.on h F.PCV_AINCFG_DIFF (m / 2 * 2)
  let cv := s1.convert h k (8 + m) pos r (fun a => (a + 1) % 16 == pos)
  let s2 := cv.2.setW h .PCV_AINV (aligned (s.f h F.PCV_AINCFG_ALIGN m) (clampCode diff code r)) m
  if r == .inside then s2 else s2.setF h F.PCV_AINSTAT_OVR (putBits (s2.f h F.PCV_AINSTAT_OVR) m m 1)

/-- The shot in a slot lost its samples when its converter was replaced, and runs on without them (rule R244). -/
def Block.runsUnsampled (s : Block) (h : HalfId) (n : Nat) : Bool :=
  match nth none (s.half h).sq.shots (n % 12) with
  | some sh => !sh.sampled
  | none => false

/-- CONVERSION_RESULT: the conversion at frame position `pos` of PCV2 or PCV3 (rules R229, R232). Positions 0 to 3 and 8
to 11 read the shunt current, 4 to 7 the low-side voltage of the shot slot; 12 to 15 the scan list. A position whose slot
is empty makes no conversion. `mon` is the code of the half-bridge current monitor that can replace the input (rule R225). -/
def conversionResult (h : HalfId) (k pos code mon : Nat) (r : Range) (s : Block) : Block :=
  if !s.converts h k then s
  else if 12 ≤ pos then s.scanSample h k pos code mon r
  else
    match nth none (s.conv h k).shots (pos % 4) with
    | none => s
    | some n =>
      if s.runsUnsampled h n then s else
      let volt := decide (4 ≤ pos ∧ pos < 8)
      let cv := s.convert h k (if volt then 4 + pos % 4 else pos % 4) pos r (fun a => (a + 1) % 16 == pos)
      if volt then cv.2 else cv.2.shuntSample n (clampCode false code r)

def execConversionResult (h : HalfId) (k : Fin 2) (pos : Fin 16) (code : BitVec 16) (r : Reading) (s : State) :
    Host.Outcome State Fault Refusal :=
  .next { s with blk := conversionResult h (k.val + 2) pos.val code.toNat r.monitor.toNat r.range s.blk }

/-! ## The spare converter (rules R243 to R246) -/

/-- The shots of the named channels run on without samples. -/
def Block.unsample (s : Block) (h : HalfId) (held : List Nat) : Block :=
  let off (p : Option Shot × Nat) : Option Shot :=
    match p.1 with
    | some sh => some (if held.contains (12 * h.num + p.2) then { sh with sampled := false } else sh)
    | none => none
  s.modHalf h fun x => { x with sq := { x.sq with shots := x.sq.shots.zipIdx.map off } }

/-- PCV4 takes a converter's place (rule R244): its windows end with END 4, the shots in its slots run on without samples,
its scan list restarts. -/
def Block.replaceConv (s : Block) (h : HalfId) (k : Nat) : Block :=
  let s1 := (s.endConvWindows h k 4).modConv h k fun c => { c with scan := 0, recov := [], ovrd := none, miss := 0, other := false }
  let held := (s.conv h k).shots.filterMap id
  let s2 := s1.unsample h held
  let s3 := ((s2.setF h F.PCV_STAT_SUB 1 k).setF h F.PCV_SPARE_USED 1).setF h F.PCV_SPARE_REPL k
  s3.spareEvent h 2 true k 0 0 5 k (s3.w h .PCV_ERR k).toNat

/-- A converter judged failed (rules R244, R245): replaced, only reported with AUTO 0, once until a check of it passes, or marked
FAILED. -/
def Block.convFailed (s : Block) (h : HalfId) (k : Nat) : Block :=
  if !s.on h F.PCV_SPARE_AUTO then
    if (s.conv h k).judged then s
    else (s.report h cOK 1 5 k (s.w h .PCV_ERR k).toNat).modConv h k fun c => { c with judged := true }
  else if !s.on h F.PCV_SPARE_USED && !s.on h F.PCV_SPARE_SPFAIL then s.replaceConv h k
  else
    let held := (s.conv h k).shots.filterMap id
    let s1 := (s.setF h F.PCV_STAT_FAILED 1 k).unsample h held
    s1.spareEvent h 2 false k 0 0 5 k (s1.w h .PCV_ERR k).toNat

/-- The converters that can be checked. -/
def Block.checkable (s : Block) (h : HalfId) : List Nat := (List.range 4).filter (s.converts h)

/-- The converter of the next turn: the first checkable one from `turn` on. -/
def Block.nextTurn (s : Block) (h : HalfId) : Option Nat :=
  ((List.range 4).map (fun i => ((s.half h).turn + i) % 4)).find? (fun k => (s.checkable h).contains k)

/-- SPARE_CONVERTER_CHECK: PCV4 compares one conversion of the next converter; a difference above 64 LSB is a mismatch. -/
def spareConverterCheck (h : HalfId) (diff : Nat) (s : Block) : Block :=
  if s.on h F.PCV_SPARE_USED || s.on h F.PCV_SPARE_SPFAIL then s else
  match s.nextTurn h with
  | none => s
  | some k =>
    let s1 := s.modHalf h fun x => { x with turn := (k + 1) % 4 }
    let c := s1.conv h k
    let miss := if diff ≤ 64 then 0 else capNat 255 (c.miss + 1)
    let s2 := s1.setConv h k
      { c with miss := miss, judged := c.judged && decide (64 < diff), other := if diff ≤ 64 || c.miss = 0 then false else c.other }
    let s3 := if diff ≤ 64 then
        (s2.checkable h).foldl (fun t j => if j = k then t else t.modConv h j fun c => { c with other := c.miss != 0 }) s2
      else s2
    let s4 := s3.setW h .PCV_CHK (wd (miss * 65536 + k * 8192 + capNat 8191 diff))
    if miss < 8 then s4
    else if (s4.conv h k).other then s4.convFailed h k
    else if (s4.checkable h).all (fun j => decide (8 ≤ (s4.conv h j).miss)) then
      let s5 := s4.setF h F.PCV_SPARE_SPFAIL 1
      s5.report h cOK 1 5 127 (s5.w h .PCV_ERR k).toNat
    else s4

def execSpareConverterCheck (h : HalfId) (diff : BitVec 16) (s : State) : Host.Outcome State Fault Refusal :=
  .next { s with blk := spareConverterCheck h diff.toNat s.blk }

/-- The write of PCV_SPARE.FORCE: in TEST the named converter is replaced; other values, and a spare in use or failed,
leave everything as it is (rules R244, R246). Outside TEST the write completes with a bus error. -/
def Block.forceConverter (s : Block) (h : HalfId) (k : Nat) : Block :=
  if s.phase h != phTEST then { s with busErr := true }
  else if k < 4 && !s.on h F.PCV_SPARE_USED && !s.on h F.PCV_SPARE_SPFAIL then { s.replaceConv h k with busErr := false }
  else { s with busErr := false }

def execConverterForceReplace (h : HalfId) (k : Fin 8) (s : State) : Host.Outcome State Fault Refusal :=
  s.access .PCV_SPARE h (s.blk.forceConverter h k.val)

end Sys2Proof.Machine
end

