-- ==== Sys2Proof/Machine/Drive.lean ====
section
/-!
DEFINITION. The injector sequencers and the drive die (chapter 7): trip latches, gate commands, shots, the shared boost
switches, chopping, result records, drift learning, and the commands and events of that chapter.
-/

namespace Sys2Proof.Machine

/-! ## Outputs and their trip latches (rules R215 to R219, R226) -/

/-- The register that holds an output's trip latch and its index. -/
def Output.reg : Output → Reg × Nat
  | .inj n => (.INJ_TRIP, n.val)
  | .bhs k => (.BHS_TRIP, k.val)
  | .bst j => (.BST_TRIP, j.val)
  | .hb b => (.HB_TRIP, b.val)
  | .evo e => (.EVO_STAT, e.val)

def Output.latchFld : Output → Fld
  | .evo _ => F.EVO_STAT_LATCH
  | o => ⟨o.reg.1, 23, 23⟩

def Output.clrrefFld : Output → Fld
  | .evo _ => F.EVO_STAT_CLRREF
  | o => ⟨o.reg.1, 22, 22⟩

/-- Cause bits in the layout of the trip registers. -/
def caOV : Nat := 0
def caUV : Nat := 1
def caBHS : Nat := 2
def caOC : Nat := 3
def caOT : Nat := 4
def caMAXON : Nat := 5
def caEXT : Nat := 6
def caSW : Nat := 7
def caSTUCK : Nat := 8

def Output.causeFld (o : Output) (c : Nat) : Fld := ⟨o.reg.1, c, c⟩

/-- The half an output is wired to (rules R30, R32). -/
def Output.owner : Output → HalfId
  | .inj n => if n.val < 12 then .a else .b
  | .bhs k => if k.val < 6 then .a else .b
  | .bst j => if j.val = 0 then .a else .b
  | .hb b => if b.val < 4 then .a else .b
  | .evo e => if e.val < 24 then .a else .b

/-- BLOCK of rule R432 under which an output is reported. -/
def Output.logBlock : Output → Nat
  | .inj _ => 17
  | .bhs _ => 18
  | .bst _ => 19
  | .hb _ => 20
  | .evo _ => 21

/-- The trip latch of an output reads 1. -/
def Block.tripped (s : Block) (o : Output) : Bool := s.on .a o.latchFld o.reg.2

/-- A cause of an output's latch is set. -/
def Block.cause (s : Block) (o : Output) (c : Nat) : Bool := s.on .a (o.causeFld c) o.reg.2

/-- Any cause but UV of an output is set. -/
def Block.otherCause (s : Block) (o : Output) : Bool :=
  [caBHS, caOC, caOT, caMAXON, caEXT, caSW, caSTUCK, caOV].any fun c => s.cause o c

/-- The trip lines an output obeys (its TMASK). -/
def Block.tmask (s : Block) (o : Output) : Nat :=
  match o with
  | .inj n => s.f .a F.INJ_CFG_TMASK n.val
  | .bhs k => s.f .a F.BHS_CFG_TMASK k.val
  | .bst _ => 0
  | .hb b => s.f .a F.HB_CFG_TMASK b.val
  | .evo e => s.f .a F.EVO_CFG_TMASK e.val

/-- The half a sequencer's injector channel belongs to, and the sequencer's number in it (rule R30). -/
def injHalf (n : Nat) : HalfId := if n < 12 then .a else .b
def injSeq (n : Nat) : Nat := n % 12

/-- Channels 2k and 2k+1 form a paralleled pair (rule R204). -/
def Block.paired (s : Block) (n : Nat) : Bool := s.on .a F.INJ_CFG_PAIR (n / 2 * 2)

/-- A pair is split-boost: SPLIT of its even sequencer, ignored in a paralleled pair (rule R200). -/
def Block.splitBoost (s : Block) (n : Nat) : Bool :=
  s.on (injHalf n) F.SEQ_CFG_SPLIT (injSeq (n / 2 * 2)) && !s.paired n

/-- The shot a channel's sequencer runs. -/
def Block.shot (s : Block) (n : Nat) : Option Shot := nth none (s.half (injHalf n)).sq.shots (injSeq n)

def Block.setShot (s : Block) (n : Nat) (x : Option Shot) : Block :=
  s.modHalf (injHalf n) fun y => { y with sq := { y.sq with shots := y.sq.shots.set (injSeq n) x } }

def Block.seqState (s : Block) (n st : Nat) : Block := s.setF (injHalf n) F.SEQ_STAT_STATE st (injSeq n)

/-- The phase code, profile and QF lines of a channel (rule R190); the drive die copies those of a paralleled pair to its odd
channel (rule R204). -/
def Block.lines (s : Block) (n ph prf : Nat) (qf : Bool) : Block :=
  let one (t : Block) (c : Nat) : Block :=
    ((t.setF .a F.INJ_STAT_PH ph c).setF .a F.INJ_STAT_PRF prf c).setF .a F.INJ_STAT_QF (bitOf qf) c
  if s.paired n && n % 2 == 0 then one (one s n) (n + 1) else one s n

def Block.bhsOf (s : Block) (k : Nat) : Bhs := nth ⟨none, none, false⟩ s.bhs k
def Block.setBhs (s : Block) (k : Nat) (x : Bhs) : Block := { s with bhs := s.bhs.set k x }
def Block.chopOf (s : Block) (n : Nat) : Chop := nth Chop.idle s.chop n
def Block.setChop (s : Block) (n : Nat) (x : Chop) : Block := { s with chop := s.chop.set n x }

/-- What follows from switch edges of a channel: the comparators are ignored for 200 ns, an edge of the hold switch starts its
minimum time (rule R191), and a turn-on of the low side is wear (rule R459). -/
def Block.gateEdges (s old : Block) (c : Nat) : Block :=
  let moved (x : Fld) : Bool := s.on .a x c != old.on .a x c
  let ch := s.chopOf c
  let s1 := if moved F.INJ_STAT_HSB then s.setChop c { ch with blank := true, minRun := true, want := none }
    else if moved F.INJ_STAT_LS || moved F.INJ_STAT_BOOST then s.setChop c { ch with blank := true } else s
  if moved F.INJ_STAT_LS && s.on .a F.INJ_STAT_LS c then s1.modWear (injHalf c) (injSeq c) fun w => { w with sw := w.sw + 1 } else s1

/-- The switches of one channel as commanded, unless its half's output-enable line is low or its latch is set (rules
R190, R192); the partner of a paralleled pair copies them (rule R204). BHS is on while one of its channels boosts; its turn-on is
wear (rule R459). -/
def Block.gate (s : Block) (n : Nat) (ls hsb boost : Bool) : Block :=
  let one (t : Block) (c : Nat) : Block :=
    let t1 := if t.on .a (oeFld (injHalf c)) && !t.on .a F.INJ_TRIP_LATCH c then
        ((t.setF .a F.INJ_STAT_LS (bitOf ls) c).setF .a F.INJ_STAT_HSB (bitOf hsb) c).setF .a F.INJ_STAT_BOOST (bitOf boost) c
      else t.injOff c
    t1.gateEdges t c
  let s1 := if s.paired n && n % 2 == 0 then one (one s n) (n + 1) else one s n
  let on := s1.on .a F.INJ_STAT_BOOST (n / 2 * 2) || s1.on .a F.INJ_STAT_BOOST (n / 2 * 2 + 1)
  let s2 := if on && !s.on .a F.BHS_STAT_ON (n / 2) then
      s1.modWear (injHalf n) (12 + injSeq n / 2) fun w => { w with sw := w.sw + 1 }
    else s1
  s2.setF .a F.BHS_STAT_ON (bitOf on) (n / 2)

/-- SEQ_FORCE drives the switches of a channel instead of its sequencer (rule R227). -/
def Block.forced (s : Block) (n : Nat) : Bool := s.on (injHalf n) F.SEQ_FORCE_FEN (injSeq n)

/-- The switches as the sequencer commands them. -/
def Block.drive (s : Block) (n : Nat) (ls hsb boost : Bool) : Block := if s.forced n then s else s.gate n ls hsb boost

/-- A channel requests its BHS: in BOOST before PKR, or by SEQ_FORCE.BOOST (rules R190, R191, R227). While the output-enable line is low
its lines are ignored (rule R192). -/
def Block.wantsBhs (s : Block) (n : Nat) : Bool :=
  if !s.on .a (oeFld (injHalf n)) then false
  else if s.forced n then s.on (injHalf n) F.SEQ_FORCE_BOOST (injSeq n)
  else match s.shot n with
    | some sh => sh.quenchAt.isNone && sh.pkrAt.isNone && s.f .a F.INJ_STAT_PH n == 0
    | none => false

/-- The other channel of a pair. -/
def partner (n : Nat) : Nat := n / 2 * 2 + (1 - n % 2)

/-- A channel of a pair that is not split-boost waits with every switch off: its partner holds the BHS (rule R201). -/
def Block.bhsIdle (s : Block) (n : Nat) : Bool :=
  let b := s.bhsOf (n / 2)
  b.waiter == some (n % 2) && b.holder == some (partner n % 2) && !s.splitBoost n

/-- A channel gives up its BHS; a waiting partner is granted after the changeover, and until then its low side and hold switch are on
(rules R191, R201). -/
def Block.bhsRelease (s : Block) (n : Nat) : Block :=
  let b := s.bhsOf (n / 2)
  if b.holder = some (n % 2) then
    let s1 := (s.setBhs (n / 2) { b with holder := none, change := true }).setF .a F.BHS_STAT_ON 0 (n / 2)
    if s.bhsIdle (partner n) && s.wantsBhs (partner n) then s1.drive (partner n) true true false else s1
  else s

/-- A channel that waits for its BHS requests it no longer. -/
def Block.bhsWithdraw (s : Block) (n : Nat) : Block :=
  let b := s.bhsOf (n / 2)
  if b.waiter = some (n % 2) then (s.setBhs (n / 2) { b with waiter := none }).setF .a F.BHS_STAT_CONTEND 0 (n / 2) else s

/-- An output off at once (rule R217); an injector channel gives up its grant or its request (rule R219). A boost converter stops
switching, which no status shows. -/
def Block.outputOff (s : Block) (o : Output) : Block :=
  match o with
  | .inj n => (((s.gate n.val false false false).injOff n.val).bhsWithdraw n.val).bhsRelease n.val
  | .bhs k => s.setF .a F.BHS_STAT_ON 0 k.val
  | .bst _ => s
  | .hb b => (s.setF .a F.HB_STAT_HS 0 b.val).setF .a F.HB_STAT_LS 0 b.val
  | .evo e => s.setF .a F.EVO_STAT_LEVEL 0 e.val

/-- The place of an output whose trip latch an event channel watches: INJ 0 to 23, then EVO. -/
def Output.watched : Output → Option Nat
  | .inj n => some n.val
  | .evo e => some (24 + e.val)
  | _ => none

/-- The owning half sees the latch through its two-flop synchroniser, 2 to 3 ANGCLK after it was set (rule R217). -/
def Block.latchSeen (s : Block) (o : Output) : Bool :=
  s.tripped o && (match o.watched with
    | some i => match nth none s.latchAt i with
      | some t => decide (2 + bitOf (Config.latchSync i t) ≤ ticksTo t (s.half o.owner).tsc)
      | none => true
    | none => true)

/-- The result of a running shot carries TRIP: the latch was set during it (rule R212). -/
def Block.shotTripped (s : Block) (n : Nat) : Block :=
  let m := if s.paired n then n / 2 * 2 else n
  match s.shot m with
  | some sh => s.setShot m (some { sh with trip := true })
  | none => s

/-- A trip latch reads 1 with a cause: the output goes off, and a shot on it carries TRIP. -/
def Block.setLatch (s : Block) (o : Output) (c : Nat) : Block :=
  let s1 := (s.setF .a (o.causeFld c) 1 o.reg.2).setF .a o.latchFld 1 o.reg.2
  let s2 := match o.watched with
    | some i => if s.tripped o then s1 else { s1 with latchAt := s1.latchAt.set i (some (s.half o.owner).tsc) }
    | none => s1
  (match o with | .inj n => s2.shotTripped n.val | _ => s2).outputOff o

/-- One output's latch is set with a cause; the setting of the latch is reported as a class 2 fault of the owning half (rules
R215, R217, R428). -/
def Block.latchOne (s : Block) (o : Output) (c : Nat) : Block :=
  let s2 := s.setLatch o c
  if s.otherCause o then s2 else s2.report o.owner cTRIP 2 o.logBlock o.reg.2 (bits (s2.w .a o.reg.1 o.reg.2).toNat 8 0)

/-- An injector channel trips: both latches of a paralleled pair are set (rules R216, R219). -/
def Block.tripInj (s : Block) (n : Nat) (c : Nat) : Block :=
  let one (t : Block) (m : Nat) : Block := if hm : m < 24 then t.latchOne (.inj ⟨m, hm⟩) c else t
  let s1 := one s n
  if s.paired n then one s1 (if n % 2 = 0 then n + 1 else n - 1) else s1

/-- A trip of any output; a BHS takes both its injector channels with it (rule R219). -/
def Block.trip (s : Block) (o : Output) (c : Nat) : Block :=
  match o with
  | .inj n => s.tripInj n.val c
  | .bhs k => ((s.latchOne (.bhs k) c).tripInj (2 * k.val) caBHS).tripInj (2 * k.val + 1) caBHS
  | o => s.latchOne o c

/-- The level of a trip line of a half (CMP_TLSTAT, rule R270). -/
def Block.tripLine (s : Block) (h : HalfId) (l : Nat) : Bool := bits (s.w h .CMP_TLSTAT).toNat l l == 1

/-- Some trip line that the output obeys is asserted. -/
def Block.extHolds (s : Block) (o : Output) : Bool :=
  (List.range 8).any fun l => bits (s.tmask o) l l == 1 && s.tripLine o.owner l

/-! ## Shots (rules R194 to R196, R203, R208, R210, R212) -/

/-- Profile word `w` of profile `p` of the type of sequencer `k` (rule R193). -/
def profReg : Nat → Reg
  | 0 => .SEQ_PW0 | 1 => .SEQ_PW1 | 2 => .SEQ_PW2 | 3 => .SEQ_PW3
  | 4 => .SEQ_PW4 | 5 => .SEQ_PW5 | 6 => .SEQ_PW6 | _ => .SEQ_PW7

def Block.profW (s : Block) (h : HalfId) (k p w : Nat) : Nat :=
  (s.w h (profReg w) (8 * s.f h F.SEQ_CFG_TYPE k + p)).toNat

/-- A profile is configured when its IPK is not 0 (rule R193). -/
def Block.profConfigured (s : Block) (h : HalfId) (k p : Nat) : Bool := bits (s.profW h k p 0) 23 16 != 0

/-- Ticks of a span that fall into each slot of a grid of `width` ticks: slot and amount. The grid starts afresh where the
counter wraps. -/
def spread (width start : Nat) : Nat → Nat → List (Nat × Nat)
  | 0, _ => []
  | fuel + 1, len =>
    if len = 0 then [] else
    let n := capNat (capNat (2 ^ 48) ((start / width + 1) * width) - start) len
    (start / width, n) :: spread width ((start + n) % 2 ^ 48) fuel (len - n)

/-- The number of the grid slot that holds the instant `d` ticks from `now`, counted on over the counter's wrap. -/
def slotNo (width now : Nat) (d : Int) : Int :=
  if width = 0 then 0 else
  let t : Int := now + d
  t / 2 ^ 48 * ((2 ^ 48 + width - 1) / width : Nat) + t % 2 ^ 48 / width

/-- A slot number of the grid as the one nearest to the present slot, in the count of `slotNo`. -/
def slotNear (width now j : Nat) : Int :=
  if width = 0 then 0 else
  let per : Int := ((2 ^ 48 + width - 1) / width : Nat)
  let d : Int := (j : Int) - (now / width : Nat)
  if 2 * d < -per then j + per else if per < 2 * d then j - per else j

/-- The sequencer starts a shot in the compare ANGCLK (rule R194): the BOOST code, low side and hold switch on. -/
def Block.startShot (s : Block) (n : Nat) (e : Entry) (ok : Bool) : Block :=
  let h := injHalf n
  let b := s.bhsOf (n / 2)
  let now := (s.half h).tsc
  let slot := s.takeShotSlot h (injSeq n) n
  let sh : Shot :=
    { chan := e.chan, tag := e.tag, prof := e.profile, dyn := !e.static, start := now, e := e.param,
      gntAt := none, busy0 := b.holder.isSome || b.change, pkrAt := none, holdAt := none, quenchAt := none, pkmiss := false,
      openld := false, trip := s.on .a F.INJ_TRIP_LATCH n, okNotice := ok, sampled := slot.1 }
  (((slot.2.setShot n (some sh)).lines n 0 e.profile false).drive n true true false).seqState n 6

/-- The serialised delay of a shot that ends (rule R203): from its start to GNT, or to quench where that began before GNT was
seen. A serialised shot that a trip ended before either has a delay the spec does not give: `open'`, a free value. None where the
boost was not serialised. -/
def Shot.serial (sh : Shot) (open' : Nat) : Option Nat :=
  match sh.gntAt, sh.quenchAt with
  | none, some q => some (ticksTo sh.start q)
  | some g, _ => if sh.busy0 then some (ticksTo sh.start g) else none
  | none, none => if sh.busy0 then some open' else none

/-- Result record of a shot (rules R211, R212); times in steps of 0.1 µs, 20 ticks. T_OPEN must lie 2 µs inside the span from GNT
to the end of peak hold, which quench or the end of the shot can cut short, and T_CLOSE, counted from quench start, within TQ. -/
def Block.shotRecord (s : Block) (n : Nat) (sh : Shot) (x : ShotMeas) (qslow : Bool) (open' : Nat) : ShotRec :=
  let pw (w : Nat) : Nat := s.profW (injHalf n) (injSeq n) sh.prof w
  let ved := bits (pw 0) 3 3 == 1 && sh.sampled
  let ser := sh.serial open'
  let steps (t : Nat) : Nat := capNat 4095 (t / 20)
  let from' (t : Option Nat) : Nat := match t with | some t => ticksTo sh.start t | none => 0
  let tb := match sh.gntAt, sh.pkrAt with
    | some g, some p => steps (ticksTo g p)
    | _, _ => 0
  let ended := capNat (ticksTo sh.start (s.half (injHalf n)).tsc) (from' sh.pkrAt + pw 2)
  let peakEnd := match sh.quenchAt with | some q => capNat (ticksTo sh.start q) ended | none => ended
  let vopen : Bool := match x.tOpen with
    | some t => ved && sh.pkrAt.isSome && sh.gntAt.isSome && ser.isNone && decide (from' sh.gntAt + 400 ≤ t.toNat * 20) &&
        decide (t.toNat * 20 + 400 ≤ peakEnd)
    | none => false
  let vclose : Bool := match x.tClose with
    | some t => ved && sh.quenchAt.isSome && bits (pw 0) 7 6 == 0 && !qslow && decide (20000 ≤ sh.e) && decide (t.toNat * 20 ≤ pw 6)
    | none => false
  let eovr := decide (pw 7 * 9 < x.energy.toNat * 8)
  { w0 := wd (sh.tag * 2 ^ 14 + bitOf sh.pkmiss * 128 + bitOf sh.openld * 64 + bitOf sh.trip * 32 + bitOf ser.isSome * 16 +
      bitOf vopen * 8 + bitOf vclose * 4 + bitOf qslow * 2 + bitOf eovr),
    w1 := wd (tb * 4096 + (match ser with | some t => steps t | none => 0)),
    w2 := wd ((if vopen then ((x.tOpen.map BitVec.toNat).getD 0) else 0) * 4096 +
      (if vclose then ((x.tClose.map BitVec.toNat).getD 0) else 0)),
    w3 := x.energy, okNotice := sh.okNotice, read := false }

/-- A record enters the result queue of 16; when it is full the oldest is overwritten and OVF counts (rule R212). -/
def Block.pushResult (s : Block) (n : Nat) (r : ShotRec) : Block :=
  let h := injHalf n
  let k := injSeq n
  let q := nth [] (s.half h).sq.results k
  let s1 := if q.length < 16 then s else s.count h F.SEQ_STAT_OVF k
  s1.modHalf h fun y => { y with sq := { y.sq with results := y.sq.results.set k ((if q.length < 16 then q else q.drop 1) ++ [r]) } }

/-- The largest drift among the segments in service, 1 % per step, saturating (INJ_SEG.DRIFT, BHS_SEG.DRIFT). -/
def driftShown (insvc : Nat) (l : List Nat) : Nat :=
  capNat 63 (l.zipIdx.foldl (fun m p => if bits insvc p.2 p.2 == 1 && decide (m < p.1) then p.1 else m) 0)

/-- Segment measurement of a shot: a drift above 40 % from the value at manufacture retires the segment and brings the spare in; fewer
than 5 segments in service set the stage's latch permanently (rules R221, R456, R457, R470). -/
def Block.segment (s : Block) (o : Output) (kind : Nat) (r : Reg) (seg ohms : Nat) : Block :=
  let i := o.reg.2
  let place := if kind = 0 then i else 24 + i
  let new := nth 0 (nth [] s.segNew place) seg
  let off := if ohms < new then new - ohms else ohms - new
  let drift := 100 * off / new
  let w := (s.w .a r i).toNat
  let insvc := bits w 23 15
  let ret := bits w 14 6
  if bits insvc seg seg == 0 then s
  else
    let l := (nth [] s.segDrift place).set seg drift
    let s0 := { s with segDrift := s.segDrift.set place l }
    if 100 * off ≤ 40 * new then s0.setW .a r (wd (putBits w 5 0 (driftShown insvc l))) i
    else
      let insvc1 := putBits insvc seg seg 0
      let ret1 := putBits ret seg seg 1
      let spare := (List.range 9).find? (fun b => bits insvc1 b b == 0 && bits ret1 b b == 0)
      let insvc2 := match spare with | some b => putBits insvc1 b b 1 | none => insvc1
      let n := total (fun b => bits insvc2 b b) (List.range 9)
      let s1 := s0.setW .a r (wd (insvc2 * 2 ^ 15 + ret1 * 64 + driftShown insvc2 l)) i
      let s2 := s1.spareEvent o.owner kind spare.isSome i 0 insvc2 o.logBlock i (bits (s1.w .a o.reg.1 i).toNat 8 0)
      if n < 5 then s2.trip o caSW else s2

/-- A shot ends (rules R196, R208, R210, R221): ACT is dropped, the result record is written, and a dynamic shot's
bookings give way to what it used. Both channels of a paralleled pair count its energy (rules R204, R459). -/
def Block.endShot (s : Block) (n : Nat) (sh : Shot) (x : ShotMeas) (qslow : Bool) : Block :=
  let h := injHalf n
  let k := injSeq n
  let now := (s.half h).tsc
  let d := s.draw
  let r := s.shotRecord n sh x qslow d.1
  let t := if sh.busy0 && sh.gntAt.isNone && sh.quenchAt.isNone then d.2 else s
  let duty := (spread 320000 sh.start 64 (capNat sh.e (ticksTo sh.start now))).map (fun p => (⟨k, p.1, p.2⟩ : Use))
  let bint := s.f h F.SEQ_BINT_BINT * 200
  let energy : List Use := match sh.gntAt with
    | some g => [⟨k, if bint = 0 then 0 else g / bint, x.energy.toNat⟩]
    | none => []
  let s1 := ((((t.lines n 0 sh.prof false).drive n false false false).bhsWithdraw n).setShot n none).seqState n 0
  let s2 := (s1.pushResult n r).modHalf h fun y =>
    { y with sq := { y.sq with
        lastEnd := y.sq.lastEnd.set k (some now)
        count := y.sq.count.set k (nth 0 y.sq.count k + 1)
        duty := if sh.dyn then (y.sq.duty ++ duty).filter (fun u => slotNo 320000 now 0 ≤ slotNear 320000 now u.slot + 128) else y.sq.duty
        energy := if sh.dyn then (y.sq.energy ++ energy).filter (fun u => slotNo bint now 0 ≤ slotNear bint now u.slot + 4) else y.sq.energy } }
  let wear (b : Block) (m : Nat) : Block := b.modWear h m fun w => { w with en := w.en + x.energy.toNat + x.batt.toNat }
  let s3 := if s.paired n && k % 2 == 0 then wear (wear s2 k) (k + 1) else wear s2 k
  let s4 := s3.modWear h (12 + k / 2) fun w => { w with en := w.en + x.energy.toNat }
  (s4.releaseShotSlot h k n).setChop n Chop.idle

/-! ## The events of a running shot -/

/-- Level words of a profile: hold level of the present code (rule R194). -/
def Block.holdLevel (s : Block) (n p code : Nat) : Nat :=
  bits (s.profW (injHalf n) (injSeq n) p (if code = 1 then 3 else 5)) 23 16

/-- The low side on and the hold switch as given. -/
def Block.hold (s : Block) (n : Nat) (hsb : Bool) : Block := s.drive n true hsb false

/-- A time of a running shot has come: `d` ticks after the instant `t`, where that is known. -/
def Block.shotDue (s : Block) (n : Nat) (t : Option Nat) (d : Nat) : Bool :=
  match t with
  | some t => reached ((t + d) % 2 ^ 48) (s.half (injHalf n)).tsc
  | none => false

/-- The sequencer sends HOLD1 or HOLD2 with QF from TMODE (rules R191, R194). Above the band's upper threshold, and with a level of
0, the hold switch is off and the current decays by QF; within the band the hold switch stays as it is, and at its lower threshold
it is on. `code`: 1 HOLD1, 2 HOLD2. -/
def Block.enterHold (s : Block) (n : Nat) (sh : Shot) (code : Nat) (p : BandPlace) : Block :=
  let free := bits (s.profW (injHalf n) (injSeq n) sh.prof 0) 5 4 == 1
  let decay := p == .above || s.holdLevel n sh.prof code == 0
  let hsb := !decay && (p == .below || s.on .a F.INJ_STAT_HSB n)
  let s1 := (s.lines n code sh.prof free).drive n (!decay || free) hsb false
  ((s1.setChop n { s1.chopOf n with decay := decay }).setShot n (some { sh with holdAt := some (s.half (injHalf n)).tsc })).seqState n
    (code + 2)

/-- The next phase after the peak: HOLD1, or HOLD2 when T_H1 is 0 (rule R194). -/
def Block.afterPeak (s : Block) (n : Nat) (sh : Shot) (p : BandPlace) : Block :=
  s.enterHold n sh (if s.profW (injHalf n) (injSeq n) sh.prof 4 = 0 then 2 else 1) p

/-- PEAK_REACHED: the current first reaches IPK (rules R191, R194): BHS and the steering switch off, PKR, peak hold. The comparator
is ignored while it is blanked. A channel that has reached its peak requests BHS no longer. -/
def peakReached (n : Nat) (s : Block) : Block :=
  match s.shot n with
  | some sh =>
    if sh.quenchAt.isNone && sh.pkrAt.isNone && s.f .a F.INJ_STAT_PH n == 0 && !(s.chopOf n).blank then
      let now := (s.half (injHalf n)).tsc
      (((s.hold n false).bhsWithdraw n).setShot n (some { sh with pkrAt := some now })).seqState n 2
    else s
  | none => s

def execPeakReached (n : Fin 24) (s : State) : Host.Outcome State Fault Refusal :=
  .next { s with blk := peakReached n.val s.blk }

/-- BOOST_TIMEOUT: TB_MAX ticks after GNT without PKR (rule R194). -/
def boostTimeout (n : Nat) (below1A : Bool) (p : BandPlace) (s : Block) : Block :=
  match s.shot n with
  | some sh =>
    if sh.quenchAt.isNone && sh.pkrAt.isNone && s.f .a F.INJ_STAT_PH n == 0 &&
        s.shotDue n sh.gntAt (s.profW (injHalf n) (injSeq n) sh.prof 1) then
      s.afterPeak n { sh with pkmiss := true, openld := below1A } p
    else s
  | none => s

def execBoostTimeout (n : Fin 24) (x : BoostEnd) (s : State) : Host.Outcome State Fault Refusal :=
  .next { s with blk := boostTimeout n.val x.below1A x.place s.blk }

/-- PEAK_HOLD_END: T_PK ticks after PKR (rule R194). -/
def peakHoldEnd (n : Nat) (p : BandPlace) (s : Block) : Block :=
  match s.shot n with
  | some sh =>
    if sh.quenchAt.isNone && s.f .a F.INJ_STAT_PH n == 0 && s.shotDue n sh.pkrAt (s.profW (injHalf n) (injSeq n) sh.prof 2) then
      s.afterPeak n sh p
    else s
  | none => s

def execPeakHoldEnd (x : HoldEntry) (s : State) : Host.Outcome State Fault Refusal :=
  .next { s with blk := peakHoldEnd x.chan.val x.place s.blk }

/-- HOLD1_END: T_H1 ticks after entry to hold 1 (rule R194). -/
def hold1End (n : Nat) (p : BandPlace) (s : Block) : Block :=
  match s.shot n with
  | some sh =>
    if sh.quenchAt.isNone && s.f .a F.INJ_STAT_PH n == 1 && s.shotDue n sh.holdAt (s.profW (injHalf n) (injSeq n) sh.prof 4) then
      s.enterHold n sh 2 p
    else s
  | none => s

def execHold1End (x : HoldEntry) (s : State) : Host.Outcome State Fault Refusal :=
  .next { s with blk := hold1End x.chan.val x.place s.blk }

/-- QUENCH_START: quench begins at start + E whatever phase runs; a shot not yet granted misses its peak, and requests BHS no
longer (rule R195). -/
def quenchStart (n : Nat) (s : Block) : Block :=
  match s.shot n with
  | some sh =>
    if sh.quenchAt.isNone && s.shotDue n (some sh.start) sh.e then
      let now := (s.half (injHalf n)).tsc
      let fast := bits (s.profW (injHalf n) (injSeq n) sh.prof 0) 7 6 == 0
      let sh1 := { sh with quenchAt := some now, pkmiss := sh.pkmiss || sh.gntAt.isNone }
      ((((s.lines n 3 sh.prof (!fast)).drive n (!fast) false false).bhsWithdraw n).setShot n (some sh1)).seqState n 5
    else s
  | none => s

def execQuenchStart (n : Fin 24) (s : State) : Host.Outcome State Fault Refusal :=
  .next { s with blk := quenchStart n.val s.blk }

/-- The segment measured in the hold phases of a shot is judged at its end; a shot that had none has measured none (rule R221). In a
paralleled pair the segment can be one of the odd channel's low side (rule R204). -/
def Block.shotSegments (s : Block) (n : Nat) (sh : Shot) (x : ShotMeas) : Block :=
  match sh.holdAt, x.seg with
  | some _, some y =>
    let low (m : Nat) : Block := if hm : m < 24 then s.segment (.inj ⟨m, hm⟩) 0 .INJ_SEG y.seg.val y.ohms.toNat else s
    match y.stage with
    | .low => low n
    | .partner => if s.paired n then low (partner n) else s
    | .bhs => if hk : n / 2 < 12 then s.segment (.bhs ⟨n / 2, hk⟩) 1 .BHS_SEG y.seg.val y.ohms.toNat else s
  | _, _ => s

/-- SHOT_END: ACTV seen deasserted during quench (rule R196). -/
def shotEnd (n : Nat) (x : ShotMeas) (s : Block) : Block :=
  match s.shot n with
  | some sh => if sh.quenchAt.isSome then (s.endShot n sh x false).shotSegments n sh x else s
  | none => s

def execShotEnd (n : Fin 24) (x : ShotMeas) (s : State) : Host.Outcome State Fault Refusal :=
  .next { s with blk := shotEnd n.val x s.blk }

/-- QUENCH_TIMEOUT: TQ ticks after quench began; QSLOW (rule R196). -/
def quenchTimeout (n : Nat) (x : ShotMeas) (s : Block) : Block :=
  match s.shot n with
  | some sh =>
    if s.shotDue n sh.quenchAt (s.profW (injHalf n) (injSeq n) sh.prof 6) then (s.endShot n sh x true).shotSegments n sh x else s
  | none => s

def execQuenchTimeout (n : Fin 24) (x : ShotMeas) (s : State) : Host.Outcome State Fault Refusal :=
  .next { s with blk := quenchTimeout n.val x s.blk }

/-- SHOT_TRIP_END: the sequencer sees the latch and ends the shot with TRIP (rule R217). -/
def shotTripEnd (n : Nat) (x : ShotMeas) (s : Block) : Block :=
  match s.shot n with
  | some sh =>
    if hn : n < 24 then
      if s.latchSeen (.inj ⟨n, hn⟩) then (s.endShot n { sh with trip := true } x false).shotSegments n sh x else s
    else s
  | none => s

def execShotTripEnd (n : Fin 24) (x : ShotMeas) (s : State) : Host.Outcome State Fault Refusal :=
  .next { s with blk := shotTripEnd n.val x s.blk }

/-! ## The shared boost switch (rules R201, R203) -/

/-- The switches as the sequencer's lines command them, where SEQ_FORCE gives a channel back to a running shot. -/
def Block.resumeSeq (s : Block) (n : Nat) (sh : Shot) : Block :=
  let b := s.bhsOf (n / 2)
  let w0 := s.profW (injHalf n) (injSeq n) sh.prof 0
  match s.f .a F.INJ_STAT_PH n with
  | 0 =>
    if s.bhsIdle n then s.gate n false false false
    else if b.holder = some (n % 2) && sh.pkrAt.isNone then s.gate n true false true
    else s.gate n true sh.pkrAt.isNone false
  | 3 => s.gate n (bits w0 7 6 != 0) false false
  | _ => s.gate n (!(s.chopOf n).decay || bits w0 5 4 == 1) false false

/-- The switches as SEQ_FORCE commands them while FEN is 1 and no protection holds the channel off; with BOOST 0 it requests BHS no
longer. With FEN 0 and no shot running every switch is off (rule R227). -/
def Block.applyForce (s : Block) (h : HalfId) (k : Nat) : Block :=
  let n := injBase h + k
  if s.on h F.SEQ_FORCE_FEN k then
    let s1 := s.gate n (s.on h F.SEQ_FORCE_LS k) (s.on h F.SEQ_FORCE_HSB k)
      (s.on h F.SEQ_FORCE_BOOST k && (s.bhsOf (n / 2)).holder = some (n % 2))
    if s.on h F.SEQ_FORCE_BOOST k then s1 else s1.bhsWithdraw n
  else match s.shot n with
    | some sh => s.resumeSeq n sh
    | none => ((s.gate n false false false).bhsWithdraw n).bhsRelease n

/-- A channel's BHS is granted: while it still requests it, steering switch and BHS on, hold switch off (rule R191). -/
def Block.bhsGrant (s : Block) (n : Nat) : Block :=
  let b := s.bhsOf (n / 2)
  let s1 := (s.setBhs (n / 2) ⟨some (n % 2), if b.waiter = some (n % 2) then none else b.waiter, false⟩).setF .a
    F.BHS_STAT_OWNER (n % 2) (n / 2)
  let s2 := if b.waiter = some (n % 2) then s1.setF .a F.BHS_STAT_CONTEND 0 (n / 2) else s1
  if s2.on .a F.BHS_TRIP_LATCH (n / 2) || !s2.wantsBhs n then s2
  else if s2.forced n then s2.applyForce (injHalf n) (injSeq n)
  else s2.drive n true false true

/-- A channel waits for its BHS: in a pair that is not split-boost, while its partner holds it, with every switch off and CONTEND
(rule R201). -/
def Block.bhsWait (s : Block) (n : Nat) : Block :=
  let s1 := s.setBhs (n / 2) { s.bhsOf (n / 2) with waiter := some (n % 2) }
  if !s1.bhsIdle n then s1 else (s1.drive n false false false).setF .a F.BHS_STAT_CONTEND 1 (n / 2)

/-- BHS_REQUEST: a request made while BHSk is free is granted at once; otherwise the channel waits. `simul`: the partner's request
reaches the arbiter within 1.0 ns of this one, and the even channel is granted (rule R201). -/
def bhsRequest (n : Nat) (simul : Bool) (s : Block) : Block :=
  let b := s.bhsOf (n / 2)
  if !s.wantsBhs n then s
  else if b.holder = some (n % 2) then s.bhsGrant n
  else if b.holder.isNone && !b.change then
    if simul && n % 2 == 1 && s.wantsBhs (n - 1) then (s.bhsGrant (n - 1)).bhsWait n else s.bhsGrant n
  else s.bhsWait n

def execBhsRequest (x : BoostAsk) (s : State) : Host.Outcome State Fault Refusal :=
  .next { s with blk := bhsRequest x.chan.val x.simul s.blk }

/-- BHS_RELEASE: a split-boost holder releases when it leaves its boost, any other at the end of its shot (rule R201). -/
def bhsReleaseEvent (n : Nat) (s : Block) : Block :=
  let keeps := if s.splitBoost n || s.forced n then s.wantsBhs n else (s.shot n).isSome
  if keeps then s else s.bhsRelease n

def execBhsRelease (n : Fin 24) (s : State) : Host.Outcome State Fault Refusal :=
  .next { s with blk := bhsReleaseEvent n.val s.blk }

/-- BHS_CHANGEOVER_END: 200 ns after the release the waiting partner is granted, while it still requests (rule R201). -/
def bhsChangeoverEnd (k : Nat) (s : Block) : Block :=
  let b := s.bhsOf k
  if b.change then
    let s1 := s.setBhs k { b with change := false }
    match b.waiter with
    | some p => if s1.wantsBhs (2 * k + p) then s1.bhsGrant (2 * k + p) else s1.bhsWithdraw (2 * k + p)
    | none => s1
  else s

def execBhsChangeoverEnd (k : Fin 12) (s : State) : Host.Outcome State Fault Refusal :=
  .next { s with blk := bhsChangeoverEnd k.val s.blk }

/-- GRANT_SEEN: the sequencer sees GNT and starts boosting; the serialised delay is recorded (rule R203). -/
def grantSeen (n : Nat) (s : Block) : Block :=
  match s.shot n with
  | some sh =>
    if sh.gntAt.isNone && sh.quenchAt.isNone && (s.bhsOf (n / 2)).holder = some (n % 2) then
      (s.setShot n (some { sh with gntAt := some (s.half (injHalf n)).tsc })).seqState n 1
    else s
  | none => s

def execGrantSeen (n : Fin 24) (s : State) : Host.Outcome State Fault Refusal :=
  .next { s with blk := grantSeen n.val s.blk }

/-! ## Chopping (rule R191) -/

/-- The channel chops: in the peak band after PKR or before its grant, unless it waits with every switch off, and in the hold band
under HOLD1 and HOLD2 unless the level is 0 (rules R191, R197, R201). -/
def Block.chopping (s : Block) (n : Nat) : Bool :=
  match s.shot n with
  | some sh =>
    let code := s.f .a F.INJ_STAT_PH n
    !s.forced n && (if code == 0 then !s.on .a F.INJ_STAT_BOOST n && !s.bhsIdle n
      else (code == 1 || code == 2) && s.holdLevel n sh.prof code != 0)
  | none => false

/-- CHOP_THRESHOLD_CROSS: the current reaches the upper threshold, or falls to the lower one; the hold switch follows,
unless blanking or a minimum time is running, which keep or drop the decision. A decay into a hold band ends at the first threshold
it meets, and the low side is on from there (rule R191). -/
def chopThresholdCross (n : Nat) (upper : Bool) (s : Block) : Block :=
  let c := s.chopOf n
  if !s.chopping n || c.blank then s
  else
    let s1 := if c.decay then let t := s.hold n false; t.setChop n { t.chopOf n with decay := false } else s
    if c.minRun then s1.setChop n { s1.chopOf n with want := some (!upper) }
    else if s1.on .a F.INJ_STAT_HSB n == !upper then s1
    else s1.hold n (!upper)

def execChopThresholdCross (n : Fin 24) (upper : Bool) (s : State) : Host.Outcome State Fault Refusal :=
  .next { s with blk := chopThresholdCross n.val upper s.blk }

/-- CHOP_TIMING_EXPIRY: the blanking, or the minimum on-time or off-time, runs out; a decision taken meanwhile acts. -/
def chopTimingExpiry (n : Nat) (blanking : Bool) (s : Block) : Block :=
  let c := s.chopOf n
  if blanking then s.setChop n { c with blank := false }
  else
    let s1 := s.setChop n { c with minRun := false, want := none }
    match c.want with
    | some b => if s.chopping n && s.on .a F.INJ_STAT_HSB n != b then s1.hold n b else s1
    | none => s1

def execChopTimingExpiry (n : Fin 24) (blanking : Bool) (s : State) : Host.Outcome State Fault Refusal :=
  .next { s with blk := chopTimingExpiry n.val blanking s.blk }

/-! ## Trips (rules R215 to R220, R224) -/

/-- OCTH of an output, times 8, and with fewer than 8 segments in service times their number (rule R221). -/
def Block.octh8 (s : Block) (o : Output) : Nat :=
  let n (w : Nat) : Nat := capNat 8 (total (fun b => bits w (15 + b) (15 + b)) (List.range 9))
  match o with
  | .inj k => s.f .a F.INJ_CFG_OCTH k.val * n (s.w .a .INJ_SEG k.val).toNat
  | .bhs k => s.f .a F.BHS_CFG_OCTH k.val * n (s.w .a .BHS_SEG k.val).toNat
  | .hb b => s.f .a F.HB_CFG_OCTH b.val * 8
  | _ => 0

/-- TRIP_OVERCURRENT: the switch current carried `amps`, in steps of OCTH, for 1 µs. Cause OC applies to INJ, BHS and HB
(rule R215). -/
def execTripOvercurrent (x : Overcurrent) (s : State) : Host.Outcome State Fault Refusal :=
  match x.out with
  | .inj _ | .bhs _ | .hb _ =>
    if s.blk.octh8 x.out ≤ x.amps.toNat * 8 then .next { s with blk := s.blk.trip x.out caOC } else .next s
  | _ => .next s

/-- TRIP_OVERTEMP: cause OT applies to INJ, BHS and HB (rule R215). -/
def execTripOvertemp (o : Output) (s : State) : Host.Outcome State Fault Refusal :=
  match o with
  | .inj _ | .bhs _ | .hb _ => .next { s with blk := s.blk.trip o caOT }
  | _ => .next s

/-- TRIP_MAXON: the guard counts only while the low side is commanded on (rule R220). -/
def execTripMaxon (n : Fin 24) (s : State) : Host.Outcome State Fault Refusal :=
  if s.blk.on .a F.INJ_STAT_LS n.val then .next { s with blk := s.blk.trip (.inj n) caMAXON } else .next s

/-- TRIP_EXTERNAL: a trip line of the owning half that TMASK selects is asserted (rule R215). -/
def execTripExternal (o : Output) (tl : Fin 8) (s : State) : Host.Outcome State Fault Refusal :=
  if bits (s.blk.tmask o) tl.val tl.val == 1 && s.blk.tripLine o.owner tl.val then
    .next { s with blk := s.blk.trip o caEXT }
  else .next s

/-- TRIP_SOFTWARE: a 1 written to SWSET by the entitled half; from the other half it ends with a bus error (rules R47, R49,
R215). -/
def execTripSoftware (h : HalfId) (o : Output) (s : State) : Host.Outcome State Fault Refusal :=
  s.access o.reg.1 h (if o.owner = h then { s.blk.trip o caSW with busErr := false } else { s.blk with busErr := true })

/-- Every output with a trip latch. -/
def allOutputs : List Output :=
  (List.finRange 24).map Output.inj ++ (List.finRange 12).map Output.bhs ++ (List.finRange 2).map Output.bst ++
    (List.finRange 8).map Output.hb ++ (List.finRange 48).map Output.evo

/-- The write of DRV_SWTRIP.ALL (rule R215); a BHS takes its channels with it (rule R219). -/
def Block.swtripAll (s : Block) : Block := allOutputs.foldl (fun t o => t.trip o caSW) s

/-- DRV_SWTRIP_ALL: cause SW on every output; the register is writable by the half holding the helm only (rule R49). -/
def execDrvSwtripAll (h : HalfId) (s : State) : Host.Outcome State Fault Refusal :=
  s.access .DRV_SWTRIP h
    (if s.blk.holdsHelm h then { s.blk.swtripAll with busErr := false } else { s.blk with busErr := true })

/-- TRIP_OVERVOLTAGE: the converter stops switching and its latch is set with cause OV; BST_STAT.OV shows the condition as it is
at each read (rule R207). -/
def execTripOvervoltage (j : Fin 2) (s : State) : Host.Outcome State Fault Refusal :=
  .next { s with blk := s.blk.trip (.bst j) caOV }

/-- TRIP_STUCK: the guard counts only with HOLDTO not 0 and at least one switch commanded on (rule R224). -/
def execTripStuck (b : Fin 8) (s : State) : Host.Outcome State Fault Refusal :=
  if s.blk.f .a F.HB_GUARD_HOLDTO b.val != 0 && ((s.blk.hbCommands b.val).1 || (s.blk.hbCommands b.val).2) then
    .next { s with blk := s.blk.trip (.hb b) caSTUCK }
  else .next s

/-- The outputs to which UV applies (rule R215). -/
def uvOutputs : List Output :=
  (List.finRange 24).map Output.inj ++ (List.finRange 12).map Output.bhs ++ (List.finRange 8).map Output.hb

/-- VBAT falls below 6.0 V: LATCH reads 1 with UV set, and the stages are held off; the half holding the helm logs the
module-level condition (rules R216, R417, R428). -/
def Block.vbatLow (s : Block) : Block :=
  if s.on .a F.DRV_STAT_VBATUV then s else
  (uvOutputs.foldl (fun t o => t.setLatch o caUV) (s.setF .a F.DRV_STAT_VBATUV 1)).driveReport 1

def execVbatUndervoltage (s : State) : Host.Outcome State Fault Refusal := .next { s with blk := s.blk.vbatLow }

/-- A half-bridge whose latch has cleared follows its PWM unit again (rule R222), a forced channel SEQ_FORCE (rule R227). An EVO line
stays low until its next level command, as it does when its output-enable line returns (DESIGN CHOICE, log entry 126). -/
def Block.follow (s : Block) (o : Output) : Block :=
  match o with
  | .hb b => s.hbDrive b.val
  | .inj n => if s.forced n.val then s.applyForce (injHalf n.val) (injSeq n.val) else s
  | _ => s

/-- VBAT_UV_RELEASE: LATCH clears unless another cause is set (rule R216). -/
def Block.vbatBack (s : Block) : Block :=
  if !s.on .a F.DRV_STAT_VBATUV then s else
  uvOutputs.foldl (fun t o =>
    let t1 := t.setF .a (o.causeFld caUV) 0 o.reg.2
    if t1.otherCause o then t1 else (t1.setF .a o.latchFld 0 o.reg.2).follow o) (s.setF .a F.DRV_STAT_VBATUV 0)

def execVbatUvRelease (s : State) : Host.Outcome State Fault Refusal := .next { s with blk := s.blk.vbatBack }

/-- The permanent latch of a stage with fewer than 5 segments in service (rule R457). -/
def Block.permanent (s : Block) (o : Output) : Bool :=
  let few (w : Nat) : Bool := decide (total (fun b => bits w (15 + b) (15 + b)) (List.range 9) < 5)
  match o with
  | .inj n => few (s.w .a .INJ_SEG n.val).toNat
  | .bhs k => few (s.w .a .BHS_SEG k.val).toNat
  | _ => false

/-- A latching cause's condition still holds: the measured ones as the operand says, a trip line as it stands, an INJ
channel's BHS latch, or a permanent latch (rules R218, R457). -/
def Block.clearRefused (s : Block) (o : Output) (holds : Bool) : Bool :=
  holds || s.extHolds o || s.permanent o ||
    (match o with | .inj n => s.on .a F.BHS_TRIP_LATCH (n.val / 2) | _ => false)

/-- UV holds the stage of an output off. It applies to INJ, BHS and HB and does not latch (rules R215, R216). -/
def Block.uvHeld (s : Block) (o : Output) : Bool :=
  match o with
  | .inj _ | .bhs _ | .hb _ => s.cause o caUV
  | _ => false

/-- A 1 written to LATCH (rule R218): the latch and its cause bits clear, or CLRREF is set. While UV holds, the latching
causes clear and LATCH goes on reading 1 with UV set (rule R216). A refused clear is a class 0 report (rule R428). -/
def Block.clearLatch (s : Block) (o : Output) (holds : Bool) : Block :=
  if s.clearRefused o holds then
    let s1 := s.setF .a o.clrrefFld 1 o.reg.2
    s1.report o.owner cOK 0 o.logBlock o.reg.2 (bits (s1.w .a o.reg.1 o.reg.2).toNat 8 0)
  else
    ([caOV, caBHS, caOC, caOT, caMAXON, caEXT, caSW, caSTUCK].foldl (fun t c =>
      if c == caSW || c == caEXT || (match o with | .evo _ => false | _ => true) then t.setF .a (o.causeFld c) 0 o.reg.2 else t)
      (if s.uvHeld o then s else s.setF .a o.latchFld 0 o.reg.2)).follow o

/-- TRIP_LATCH_CLEAR: written by the entitled half, or a bus error (rules R49, R218). -/
def execTripLatchClear (h : HalfId) (o : Output) (holds : Bool) (s : State) : Host.Outcome State Fault Refusal :=
  s.access o.reg.1 h
    (if o.owner = h then { s.blk.clearLatch o holds with busErr := false } else { s.blk with busErr := true })

/-! ## Results, learning and forced drive (rules R212 to R214, R227) -/

/-- The oldest result record is removed (rule R212). -/
def Block.popResult (s : Block) (h : HalfId) (k : Nat) : Block :=
  s.modHalf h fun y => { y with sq := { y.sq with results := y.sq.results.set k ((nth [] y.sq.results k).drop 1) } }

def execSeqResultPop (h : HalfId) (k : Fin 12) (s : State) : Host.Outcome State Fault Refusal :=
  s.access .SEQ_POP h { s.blk.popResult h k.val with busErr := false }

/-- SEQ_POP.CLROVF clears OVF and LRNSAT. -/
def Block.clearOvf (s : Block) (h : HalfId) (k : Nat) : Block :=
  (s.setF h F.SEQ_STAT_OVF 0 k).setF h F.SEQ_STAT_LRNSAT 0 k

def execSeqClearOverflow (h : HalfId) (k : Fin 12) (s : State) : Host.Outcome State Fault Refusal :=
  s.access .SEQ_POP h { s.blk.clearOvf h k.val with busErr := false }

/-- A write of SEQ_FORCE: in TEST only (rule R227). -/
def Block.forceWrite (s : Block) (h : HalfId) (k : Nat) (v : Word) : Block :=
  if s.phase h = phTEST then
    let t := s.setW h .SEQ_FORCE (wd (v.toNat / 2 ^ 20 * 2 ^ 20)) k
    { (if s.on h F.SEQ_FORCE_FEN k || t.on h F.SEQ_FORCE_FEN k then t.applyForce h k else t) with busErr := false }
  else { s with busErr := true }

def execSeqForceWrite (h : HalfId) (k : Fin 12) (v : Word) (s : State) : Host.Outcome State Fault Refusal :=
  s.access .SEQ_FORCE h (s.blk.forceWrite h k.val v)

/-- A sum held inside a margin (rule R213). -/
def holdIn (lo hi : Nat) (other x : Int) : Int :=
  let sum := other + x
  if sum < -(lo : Int) then -(lo : Int) - other else if sum > hi then hi - other else x

/-- ANP's learning step: a drift in whole ticks moved towards the new measurement, given with its reference in steps of 20 ticks;
the step is rounded down (rule R213; DESIGN CHOICE, log entry 112). -/
def learnStep (rate : Nat) (measured ref old : Int) : Int := old + (measured * 20 - ref * 20 - old) / 2 ^ rate

/-! ## Output enable and service phase (rules R144, R145, R192) -/

/-- The gate-command lines of a half are obeyed again: its channels and half-bridges stand as their lines command them. -/
def Block.obeyLines (s : Block) (h : HalfId) : Block :=
  (List.range 12).foldl (fun t k =>
    let n := injBase h + k
    if t.forced n then t.applyForce h k
    else match t.shot n with
      | some sh => t.resumeSeq n sh
      | none => t) (s.hbDriveHalf h)

/-- The output-enable line follows DRV_CTRL.DRVEN, the half's phase and its life, and stays off until the half has restored
its stages after DRV power-up (rules R192, R457). -/
def Block.updateOE (s : Block) (h : HalfId) : Block :=
  let want := s.on .a F.DRV_CTRL_DRVEN && (s.half h).live && activePhase (s.phase h) && !nth false s.segDue h.num
  if want then
    let s1 := s.setF .a (oeFld h) 1
    if s.on .a (oeFld h) then s1.hbDriveHalf h else s1.obeyLines h
  else if s.on .a (oeFld h) then (s.setF .a (oeFld h) 0).outputsOff h else s

/-- A phase change: ADM_STAT.PHASE, the PHASE notice with its cause (rule R374), the output-enable line, and on entry to
HOLD the cancellation of every pending entry (rule R145); leaving TEST ends every forced drive (rule R227). -/
def Block.setPhase (s : Block) (h : HalfId) (p cause : Nat) : Block :=
  let old := s.phase h
  if old = p then s else
  let s1 := s.setF h F.ADM_STAT_PHASE p
  let s2 := s1.notice h 0xC1 [wd (p * 2 ^ 21 + old * 2 ^ 18 + cause * 2 ^ 14), wd (s.tsLow h)]
  let s3 := if p = phHOLD then ((s2.setF h F.ADM_STAT_SVCPEND 0).cancelWhere h cHOST_CANCEL (fun _ => true)).outputsOff h else s2
  let s3 := if p = phHOLD || p = phCRANK then
      s3.modHalf h fun x => { x with sched := { x.sched with prevSrc := none, curSrc := none, nextSrc := none, due := [] } }
    else s3
  let s4 := if old = phTEST then (List.range 12).foldl (fun t k => t.setF h F.SEQ_FORCE_FEN 0 k) s3 else s3
  s4.updateOE h

end Sys2Proof.Machine
end

