-- ==== Sys2Proof/Machine/Images.lean ====
section
/-!
DEFINITION. Schedule images as words (chapter 6): the readers of their fields, the CRC-32, and the checks of a load that
need only the image itself.
-/

namespace Sys2Proof.Machine

/-! ## CRC-32 (rule R171) -/

/-- One byte into a reflected CRC of 32 bits with a polynomial. -/
def crcByte (poly crc b : Nat) : Nat :=
  (List.range 8).foldl (fun c _ => if c % 2 = 1 then (c / 2) ^^^ poly else c / 2) (crc ^^^ b)

/-- The three bytes of a word, most significant first. -/
def wordBytes (w : Word) : List Nat := [bits w.toNat 23 16, bits w.toNat 15 8, bits w.toNat 7 0]

/-- The reflected CRC of words, with an initial value and a final exclusive-OR of all ones. -/
def crcWith (poly : Nat) (ws : List Word) : Nat := ((ws.flatMap wordBytes).foldl (crcByte poly) 0xFFFFFFFF) ^^^ 0xFFFFFFFF

/-- The CRC-32 of IEEE 802.3. -/
def crc32 (ws : List Word) : Nat := crcWith 0xEDB88320 ws

/-! ## Words of an image -/

/-- Word `i` of an image as a number, 0 beyond its end. -/
def iw (ws : List Word) (i : Nat) : Nat := (nth 0 ws i).toNat

def imgHalf (ws : List Word) : Nat := bits (iw ws 1) 15 12
def imgMode (ws : List Word) : Nat := bits (iw ws 1) 11 8
def imgCycle (ws : List Word) : Nat := if bits (iw ws 1) 7 7 = 1 then 5898240 else 11796480
def imgSet (ws : List Word) : Nat := iw ws 3
def imgNRec (ws : List Word) : Nat := bits (iw ws 11) 23 12
def imgNChan (ws : List Word) : Nat := bits (iw ws 11) 11 5
def imgNCyl (ws : List Word) : Nat := bits (iw ws 11) 4 0
def imgMaxLead (ws : List Word) : Nat := iw ws 12
def imgNMax (ws : List Word) : Nat := bits (iw ws 13) 13 0
def imgRate (ws : List Word) : Nat := bits (iw ws 14) 15 0
def imgCrc (ws : List Word) : Nat := bits (iw ws 9) 7 0 * 2 ^ 24 + iw ws 10

/-- Cylinder-table entry (rule R173): cylinder, offset, latch, number of records. -/
structure CylEnt where
  cyl    : Nat
  offset : Nat
  latch  : Nat
  nrec   : Nat
  deriving DecidableEq, Repr

def imgCyl (ws : List Word) (i : Nat) : CylEnt :=
  let o := iw ws 15 + 4 * i
  ⟨bits (iw ws o) 23 19, iw ws (o + 1), iw ws (o + 2), bits (iw ws (o + 3)) 11 0⟩

def imgCyls (ws : List Word) : List CylEnt := (List.range (imgNCyl ws)).map (imgCyl ws)

/-- Channel-table entry (rule R174). -/
structure ChanEnt where
  chan : Nat
  kind : Nat
  injc : Nat
  out  : Nat
  rsv  : Nat
  lead : Nat
  deriving DecidableEq, Repr

def imgChan (ws : List Word) (i : Nat) : ChanEnt :=
  let w := iw ws (iw ws 16 + 2 * i)
  ⟨bits w 23 18, bits w 17 15, bits w 14 14, bits w 12 8, bits w 7 3, bits (iw ws (iw ws 16 + 2 * i + 1)) 15 0⟩

def imgChans (ws : List Word) : List ChanEnt := (List.range (imgNChan ws)).map (imgChan ws)

/-- Event record (rule R175). -/
structure ERec where
  w0     : Word
  w1     : Word
  w2     : Word
  chan   : Nat
  tag    : Nat
  wrap   : Bool
  trim   : Bool
  insert : Nat
  alo    : Nat
  ahi    : Nat
  elo    : Nat
  ehi    : Nat
  deriving DecidableEq, Repr

def ERec.action (r : ERec) : Nat := bits r.w1.toNat 23 16
def ERec.profile (r : ERec) : Nat := bits r.w1.toNat 15 12
def ERec.tol (r : ERec) : Nat := bits r.w1.toNat 11 8
def ERec.frame (r : ERec) : Nat := bits r.w1.toNat 7 3

def imgRec (ws : List Word) (i : Nat) : ERec :=
  let o := iw ws 17 + 8 * i
  let c := iw ws (o + 3)
  { w0 := nth 0 ws o, w1 := nth 0 ws (o + 1), w2 := nth 0 ws (o + 2), chan := bits c 23 18, tag := bits c 17 8,
    wrap := bits c 1 1 == 1, trim := bits c 0 0 == 1, insert := iw ws (o + 4), alo := bits (iw ws (o + 5)) 23 12,
    ahi := bits (iw ws (o + 5)) 11 0, elo := bits (iw ws (o + 6)) 23 12, ehi := bits (iw ws (o + 6)) 11 0 }

def imgRecs (ws : List Word) : List ERec := (List.range (imgNRec ws)).map (imgRec ws)

/-- Certificate item (rule R181). -/
structure CertItem where
  kind   : Nat
  index  : Nat
  value  : Nat
  value2 : Nat
  deriving DecidableEq, Repr

def imgNItems (ws : List Word) : Nat := bits (iw ws (iw ws 18)) 15 0

def imgItem (ws : List Word) (i : Nat) : CertItem :=
  let o := iw ws 18 + 1 + 4 * i
  ⟨bits (iw ws o) 23 16, bits (iw ws o) 15 8, iw ws (o + 1), iw ws (o + 2)⟩

def imgItems (ws : List Word) : List CertItem := (List.range (imgNItems ws)).map (imgItem ws)

/-- Global nominal target of a record by the image's own cylinder table (rule R120). -/
def recTarget (ws : List Word) (r : ERec) : Nat :=
  if r.frame = 31 then r.w0.toNat
  else match (imgCyls ws).find? (fun c => c.cyl == r.frame) with
    | some c => fwd (imgCycle ws) c.offset r.w0.toNat
    | none => r.w0.toNat

/-! ## The checks of a load (rules R169 to R178, R185) -/

/-- Two neighbours of a list stand in the order given. -/
def ordered {α : Type} (le : α → α → Bool) : List α → Bool
  | a :: b :: rest => le a b && ordered le (b :: rest)
  | _ => true

def distinct : List Nat → Bool
  | [] => true
  | a :: rest => !rest.contains a && distinct rest

/-- A record's action occupies its output for a time. -/
def ERec.timed (r : ERec) : Bool := r.action == 0x01 || r.action == 0x12

/-- Rules R175 to R177 on one record, with the fields of its cask word 1 (rule R117). -/
def recOk (ws : List Word) (i : Nat) : Bool :=
  let r := imgRec ws i
  let l := imgCycle ws
  let o := iw ws 17 + 8 * i
  let g := recTarget ws r
  let c := iw ws (o + 3)
  let p := r.w2.toNat
  let early := g - r.alo * 64
  let param := if r.timed then decide (r.elo * 16 + 1 ≤ p ∧ p + r.ehi * 16 ≤ 16777215)
    else if r.action = 0x20 then decide (1 ≤ p ∧ p ≤ 65535)
    else if r.action = 0x30 then true
    else p == 0 && (r.action == 0x10 || r.action == 0x11 || r.action == 0x40)
  let lead := fwd l r.insert early
  bits r.w1.toNat 1 0 == 2 && decide (r.w0.toNat < l) && decide (r.insert < l) && bits r.tag 9 9 == 1 && bits c 7 2 == 0 &&
  iw ws (o + 7) == 0 && (decide (r.frame < 24) || r.frame == 31) && (imgChans ws).any (fun k => k.chan == r.chan) &&
  (decide (r.frame = 31) || (imgCyls ws).any (fun k => k.cyl == r.frame)) &&
  (if r.trim then r.timed && decide (r.frame < 24) else r.alo == 0 && r.ahi == 0 && r.elo == 0 && r.ehi == 0) &&
  decide (r.alo * 64 ≤ g) && decide (g + r.ahi * 64 < l) && param && decide (1 ≤ lead) && decide (lead ≤ imgMaxLead ws) &&
  (r.wrap == decide (early < r.insert)) && (if r.action = 0x01 then decide (r.profile < 8) else r.profile == 0)

/-- Rule R178 and the tables' own fields. -/
def cylOk (ws : List Word) (i : Nat) : Bool :=
  let c := imgCyl ws i
  let o := iw ws 15 + 4 * i
  let l := imgCycle ws
  let mine := (imgRecs ws).filter fun r => r.frame == c.cyl
  bits (iw ws o) 18 0 == 0 && bits (iw ws (o + 3)) 23 12 == 0 && decide (c.cyl < 24) && decide (c.offset < l) && decide (c.latch < l) &&
  c.nrec == mine.length && mine.all (fun r => r.insert != c.latch)

def chanOk (ws : List Word) (i : Nat) : Bool :=
  let w := iw ws (iw ws 16 + 2 * i)
  let c := imgChan ws i
  bits w 13 13 == 0 && bits w 2 0 == 0 && bits (iw ws (iw ws 16 + 2 * i + 1)) 23 16 == 0 && decide (c.rsv ≤ 16) &&
  decide (((imgRecs ws).filter fun r => r.chan == c.chan).length ≤ 512) &&
  distinct (((imgRecs ws).filter fun r => r.chan == c.chan).map ERec.tag)

/-- The load checks on a whole image in a half (rule R185), the form of the certificate of rule R181 among them (DEDUCED, log
entry 111). -/
def imageOk (h : HalfId) (ws : List Word) : Bool :=
  let n := ws.length
  let zeroed := (ws.set 9 0).set 10 0
  iw ws 0 == 0x515349 && bits (iw ws 1) 23 16 == 1 && imgHalf ws == h.num && bits (iw ws 1) 6 0 == 0 &&
  iw ws 2 == n && decide (32 ≤ n) && decide (n ≤ 49152) && imgSet ws != 0 &&
  bits (iw ws 5) 23 8 == 0 && bits (iw ws 7) 23 8 == 0 && bits (iw ws 9) 23 8 == 0 && bits (iw ws 13) 23 14 == 0 &&
  bits (iw ws 14) 23 16 == 0 && bits (iw ws 20) 23 16 == 0 &&
  (imgMode ws != 0 || (iw ws 7 == 0 && iw ws 8 == 0)) &&
  decide (imgNChan ws ≤ 64) && decide (imgNCyl ws ≤ 24) && decide (10 ≤ imgNMax ws) && decide (imgNMax ws ≤ 12000) && imgRate ws != 0 &&
  iw ws 15 == 32 && iw ws 16 == 32 + 4 * imgNCyl ws && iw ws 17 == iw ws 16 + 2 * imgNChan ws &&
  iw ws 18 == iw ws 17 + 8 * imgNRec ws && decide (iw ws 18 < n) && iw ws 19 == n - iw ws 18 &&
  bits (iw ws (iw ws 18)) 23 16 == 1 && iw ws 19 == 1 + 4 * imgNItems ws &&
  (List.range (imgNItems ws)).all (fun i => bits (iw ws (iw ws 18 + 1 + 4 * i)) 7 0 == 0) &&
  (imgItems ws).all (fun i => i.kind == 3 || i.kind == 7 || i.value2 == 0) &&
  ordered (fun a b => decide (a.kind * 256 + a.index ≤ b.kind * 256 + b.index)) (imgItems ws) &&
  ordered (fun a b => decide (a.cyl < b.cyl)) (imgCyls ws) && (List.range (imgNCyl ws)).all (cylOk ws) &&
  distinct ((imgChans ws).map ChanEnt.chan) && (List.range (imgNChan ws)).all (chanOk ws) &&
  ordered (fun a b => decide (a.insert ≤ b.insert)) (imgRecs ws) && (List.range (imgNRec ws)).all (recOk ws) &&
  crc32 zeroed == imgCrc ws

/-! ## The store (rules R168, R169) -/

def Sched.image (x : Sched) (setId mode : Nat) : Option (List Word) :=
  (x.store.find? fun i => i.setId == setId && i.mode == mode).map Image.words

/-- The records of a source, none where it has no image. -/
def Sched.recs (x : Sched) (src : Option (Nat × Nat)) : List ERec :=
  match src with
  | some (i, m) => match x.image i m with
    | some ws => imgRecs ws
    | none => []
  | none => []

/-- A record that waits for SCP, by its source and index. -/
def Sched.dueRec (x : Sched) (d : (Nat × Nat) × Nat) : Option ERec := (x.recs (some d.1))[d.2]?

end Sys2Proof.Machine
end

