-- ==== Sys2Proof/Machine/AngleClock.lean ====
section
/-!
DEFINITION. The angle clock between teeth (chapter 3): corrected angles, the predictor, the reference trajectory, its
moves, freezing a target into a time, learning, and what the loss of validity does. The commands of the chapter that
need the event channels stand in Machine/Wheel.lean.
-/

namespace Sys2Proof.Machine

/-! ## Tables and corrected angles (rules R57, R104) -/

def Block.crkN (s : Block) (h : HalfId) (t : Nat) : Nat := s.f h F.WTK_TABN_CRK_N t
def Block.crkAng (s : Block) (h : HalfId) (t e : Nat) : Nat := s.f h F.WTK_CRK0_ANG t e

/-- The entry `k` places ahead of entry `e`, wrapping in both directions. -/
def entryAt (n e : Nat) (k : Int) : Nat := if n = 0 then 0 else ((e + k) % n).toNat

/-- A spacing; a distance of 0 on a table of one entry is a whole revolution (log entry 9). -/
def spanOf (a b : Nat) : Nat := if fwd revAU a b = 0 then revAU else fwd revAU a b

/-- Spacing S[e] (rule R57). -/
def Block.spacing (s : Block) (h : HalfId) (t e : Nat) : Nat :=
  spanOf (s.crkAng h t (entryAt (s.crkN h t) e (-1))) (s.crkAng h t e)

/-- The geometry map entry G[e], signed; G[0] is 0 (rule R104). -/
def Block.geo (s : Block) (h : HalfId) (e : Nat) : Int := if e = 0 then 0 else sext 16 (s.f h F.ANG_GEO_CORR e)

/-- Corrected angle ANG'[e] within the revolution (rule R104). -/
def Block.corrAng (s : Block) (h : HalfId) (t e : Nat) : Nat :=
  if s.on h F.ANG_CTRL_GEO_APPLY then (((s.crkAng h t e : Int) + s.geo h e) % (revAU : Int)).toNat else s.crkAng h t e

/-- Corrected spacing s[e] (rule R104). -/
def Block.corrSpacing (s : Block) (h : HalfId) (t e : Nat) : Nat :=
  spanOf (s.corrAng h t (entryAt (s.crkN h t) e (-1))) (s.corrAng h t e)

/-- The corrected spacing next to be traversed from entry `e`, forward or backward (rules R91, R102). -/
def Block.nextSpacing (s : Block) (h : HalfId) (t e : Nat) (rev : Bool) : Nat :=
  if rev then s.corrSpacing h t e else s.corrSpacing h t (entryAt (s.crkN h t) e 1)

/-! ## The firing-pulse profile (rule R106) -/

/-- Global angle of the firing top dead centre of cylinder `c` (rule R7). -/
def Block.tdc (s : Block) (h : HalfId) (c : Nat) : Nat :=
  let l := s.cycleL h
  (l - s.f h F.ANG_TDC_OFFSET c % l) % l

/-- The profile bin, 8c + b, that holds a global angle. Of cylinders with one firing angle the lowest-numbered has the bins, and its
interval runs to the next different one (DESIGN CHOICE, log entry 120). -/
def Block.profBin (s : Block) (h : HalfId) (x : Nat) : Option Nat :=
  let l := s.cycleL h
  let n := s.f h F.ANG_CYL_N_CYL
  let cs := List.range n
  let back (c : Nat) : Nat := fwd l (s.tdc h c) x
  match (sortBy back cs).head? with
  | none => none
  | some c =>
    let len := ((cs.filter (fun d => d != c)).map (fun d => fwd l (s.tdc h c) (s.tdc h d))).foldl (fun m d => if 0 < d && d < m then d else m) l
    some (8 * c + capNat 7 (8 * back c / len))

/-- The profile value of the spacing that ends at global angle `x` and is `w` wide; 0 when the profile is not applied. -/
def Block.profVal (s : Block) (h : HalfId) (x w : Nat) : Frac :=
  if s.on h F.ANG_CTRL_PROF_APPLY && s.on h F.ANG_STAT_FULLRANGE then
    match s.profBin h ((x + s.cycleL h - w / 2) % s.cycleL h) with
    | some b => ⟨sext 16 (s.f h F.ANG_PROF_DEV b), 65536⟩
    | none => ⟨0, 1⟩
  else ⟨0, 1⟩

/-! ## The predictor (rule R90) -/

/-- The extrapolated normalised period, held between half and twice the newest one; whether it was held. -/
def extrapolate (k1 k2 : Nat) (hist : List Frac) : Frac × Bool :=
  match hist with
  | [] => (⟨0, 1⟩, false)
  | u0 :: rest =>
    let d1 := match rest with
      | u1 :: _ => fracMul ⟨k1, 16⟩ (fracSub u0 u1)
      | [] => ⟨0, 1⟩
    let d2 := match rest with
      | u1 :: u2 :: _ => fracMul ⟨k2, 16⟩ (fracAdd (fracSub u0 (fracMul ⟨2, 1⟩ u1)) u2)
      | _ => ⟨0, 1⟩
    let uh := fracAdd u0 (fracAdd d1 d2)
    let lo := fracMul u0 ⟨1, 2⟩
    let hi := fracMul u0 ⟨2, 1⟩
    if fracLt uh lo then (lo, true) else if fracLt hi uh then (hi, true) else (uh, false)

/-- The predicted period T̂ of the next spacing `s1` with profile value `f1`; the clamp is recorded. -/
def Block.predict (s : Block) (h : HalfId) (hist : List Frac) (s1 : Nat) (f1 : Frac) : Frac × Block :=
  let r := extrapolate (s.f h F.ANG_PRED_K1) (s.f h F.ANG_PRED_K2) hist
  let that := fracMul r.1 (fracMul (fracOf s1) (fracAdd ⟨1, 1⟩ f1))
  (that, if r.2 then (s.setF h F.ANG_ERR_CLAMP 1).count h F.ANG_CNT_CLAMPS else s)

/-! ## The reference trajectory (rules R91, R98, R102) -/

/-- Forward distance covered on the reference trajectory by instant `t`, in AU. -/
def Clock.run (c : Clock) (t : Nat) : Frac := fracMul c.step (fracOf (ticksGone c.te t))

/-- A fraction of AU in 24.16, rounded down. -/
def fix16 (x : Frac) : Nat := (fracFloor (fracMul x ⟨65536, 1⟩)).toNat

/-- Q(t) in 24.16, modulo M. -/
def Clock.q (c : Clock) (m : Nat) (rev : Bool) (t : Nat) : Nat :=
  let d := fix16 (c.run t)
  if rev then (c.entAng * 65536 + m * 65536 - d % (m * 65536)) % (m * 65536) else (c.entAng * 65536 + d) % (m * 65536)

/-- The halt point, as a distance from the entry on the trajectory: s1 + D × STEP. -/
def Clock.haltRun (c : Clock) : Frac := fracAdd (fracOf c.s1) (fracMul c.step (fracOf c.d))

/-- HALT in 24.16 (rules R91, R102). -/
def Clock.haltAt (c : Clock) (m : Nat) (rev : Bool) : Nat :=
  let d := fix16 c.haltRun
  if rev then (c.entAng * 65536 + m * 65536 - d % (m * 65536)) % (m * 65536) else (c.entAng * 65536 + d) % (m * 65536)

/-- Q(t), but never beyond HALT. -/
def Clock.qHeld (c : Clock) (m : Nat) (rev : Bool) (t : Nat) : Nat :=
  if fracLe c.haltRun (c.run t) then c.halt else c.q m rev t

/-- The reference trajectory has reached a clock that holds (rule R93): a hold starts with A at most 3M/4 ahead, so a greater
distance says that Q has passed A. -/
def Clock.holdOver (c : Clock) (m : Nat) (rev : Bool) (q : Nat) : Bool :=
  let ahead := if rev then fwd (m * 65536) c.a q else fwd (m * 65536) q c.a
  ahead == 0 || decide (3 * (m * 65536) < 4 * ahead)

/-- A target frozen into a time by rule R98: compare value and delay-line tap. -/
def Block.freeze (s : Block) (h : HalfId) (g : Nat) : Nat × Nat :=
  let c := (s.half h).clk
  let m := s.modM h
  let d := if s.clockRev h then fwd m g c.entAng else fwd m c.entAng g
  let t := fracAdd (fracOf c.te) (if c.s1 = 0 then ⟨0, 1⟩ else fracMul (fracOf d) (fracDiv c.period (fracOf c.s1)))
  let whole := (fracFloor t).toNat
  let tap := (fracFloor (fracMul (fracSub t (fracOf whole)) ⟨64, 1⟩)).toNat
  (whole % 2 ^ 48, tap % 64)

/-! ## Moves -/

def Block.modClk (s : Block) (h : HalfId) (f : Clock → Clock) : Block := s.modHalf h fun x => { x with clk := f x.clk }

/-- HALTED and CATCHUP follow the mode (rules R92, R93, R95). -/
def Block.clkFlags (s : Block) (h : HalfId) (m : ClkMode) : Block :=
  (s.setF h F.ANG_STAT_HALTED (bitOf (m == .halted || m == .hold))).setF h F.ANG_STAT_CATCHUP (bitOf (m == .catchup))

/-- The clock takes the trajectory of a newly accepted edge; A is not moved. -/
def Clock.adopt (c : Clock) (ang te s1 d : Nat) (that : Frac) (m : Nat) (rev : Bool) : Clock :=
  let c1 := { c with entAng := ang, te := te, s1 := s1, d := d, period := that, step := fracDiv (fracOf s1) that }
  { c1 with halt := c1.haltAt m rev }

/-- The integer angles between two 24.16 values, forward or backward. -/
def movedBetween (m : Nat) (rev : Bool) (a b : Nat) (jump catchup : Bool) : Move :=
  { start := a / 65536, len := if rev then fwd m (b / 65536) (a / 65536) else fwd m (a / 65536) (b / 65536),
    modulus := m, jump := jump, catchup := catchup, rev := rev }

/-! ## Insertion angles passed (rules R97, R149, R164, R179, R180) -/

/-- The angle `x` was passed or landed on in the last movement, in the direction given. -/
def Block.passed (s : Block) (h : HalfId) (x : Nat) (rev : Bool) : Bool :=
  match (s.half h).clk.moved with
  | some mv =>
    let d := if mv.rev then fwd mv.modulus (x % mv.modulus) mv.start else fwd mv.modulus mv.start (x % mv.modulus)
    mv.rev == rev && 0 < d && d ≤ mv.len
  | none => false

/-- The distance of an angle within the last forward movement, none where that did not pass it. -/
def Block.passedAt (s : Block) (h : HalfId) (x : Nat) : Option Nat :=
  match (s.half h).clk.moved with
  | some mv => if s.passed h x false then some (fwd mv.modulus mv.start (x % mv.modulus)) else none
  | none => none

/-- A static record waits for SCP: not one of an injection-class channel while these are suspended. -/
def Block.collects (s : Block) (h : HalfId) (next : Bool) (r : ERec) : Bool :=
  let x := (s.half h).sched
  !((x.revSusp || (x.revRest && !next)) && s.injClass h r.chan)

/-- The records of a source whose INSERT the last movement passed and that `p` keeps, with the distance at which it was. -/
def Block.passedRecs (s : Block) (h : HalfId) (src : Option (Nat × Nat)) (next : Bool) (p : ERec → Nat → Bool) :
    List (Nat × (Nat × Nat) × Nat) :=
  match src with
  | some id =>
    ((s.half h).sched.recs src).zipIdx.filterMap fun q =>
      (s.passedAt h q.1.insert).bind fun d => if p q.1 d && s.collects h next q.1 then some (d, id, q.2) else none
  | none => []

/-- Records with WRAP 0 come from the schedule of the cycle in which INSERT lies, records with WRAP 1 from that of the
cycle that comes; they wait for SCP in the order in which they were passed, at one angle in image order (rule R175). -/
def Block.collectDue (s : Block) (h : HalfId) : Block :=
  let x := (s.half h).sched
  if !s.fullSync h || x.suspended then s else
  match (s.half h).clk.moved with
  | none => s
  | some mv =>
    let edge := if mv.start = 0 then mv.modulus else mv.modulus - mv.start
    let now := s.passedRecs h x.curSrc false fun r d => !r.wrap && decide (d < edge)
    let next := s.passedRecs h x.nextSrc true fun r d => r.wrap || decide (edge ≤ d)
    let due := sortBy (fun p => p.1 * 4096 + p.2.2) (now ++ next)
    s.modHalf h fun y => { y with sched := { y.sched with due := y.sched.due ++ due.map Prod.snd } }

/-- The outcome of an acceptance (rules R93 to R96, R102): on time, jump, catch-up or hold. ANG_LASTJ takes the whole AU of δ,
and not the distance between the integer angles before and after, which can differ by one AU (DESIGN CHOICE, log entry 92). -/
def Block.meetTrajectory (s : Block) (h : HalfId) : Block :=
  let c := (s.half h).clk
  let m := s.modM h
  let rev := s.clockRev h
  let now := (s.half h).tsc
  let q := c.qHeld m rev now
  let delta := if rev then fwd (m * 65536) q c.a else fwd (m * 65536) c.a q
  if delta = 0 then (s.modClk h fun c => { c with mode := .follow, haltLen := 0 }).clkFlags h .follow
  else if 4 * delta < m * 65536 then
    let em := s.f h F.ANG_CTRL_EARLY_MODE
    let ovrd := s.f h F.ANG_RFMAX_RF_MAX * 64 * 65536 < delta
    if em = 0 || em = 3 || rev || ovrd then
      let mv := movedBetween m rev c.a q true false
      let s1 := (s.modClk h fun c => { c with a := q, mode := .follow, haltLen := 0, moved := some mv }).clkFlags h .follow
      let s2 := (((s1.collectDue h).setF h F.ANG_ERR_JUMP 1).setW h .ANG_LASTJ (wd (delta / 65536))).count h F.ANG_CNT_JUMPS
      if ovrd then s2.setF h F.ANG_ERR_RFJUMP 1 else s2
    else
      (s.modClk h fun c => { c with mode := .catchup, cuMul := if em = 1 then 2 else 4, haltLen := 0, acc := ⟨0, 1⟩ }).clkFlags h .catchup
  else (s.modClk h fun c => { c with mode := .hold, haltLen := 0 }).clkFlags h .hold

/-- A reposition (rules R99, R103): A is set to Q at this instant; no angle counts as reached; open windows end (rule R238). -/
def Block.reposition (s : Block) (h : HalfId) : Block :=
  let c := (s.half h).clk
  let q := c.qHeld (s.modM h) (s.clockRev h) (s.half h).tsc
  ((((s.endWindows h 3).modClk h fun c => { c with a := q, mode := .follow, haltLen := 0, moved := none, cycAt := none }).clkFlags h .follow).setF h
    F.ANG_ERR_REPOS 1)

/-- The clock becomes valid with modulus and direction of its source (rules R86, R99). -/
def Block.makeValid (s : Block) (h : HalfId) (full rev : Bool) : Block :=
  ((((s.setF h F.ANG_STAT_VALID 1).setF h F.ANG_STAT_FULLRANGE (bitOf full)).setF h F.ANG_STAT_REV (bitOf rev)).setF h
    F.ANG_STAT_SRCFAB (s.f h F.ANG_CTRL_SRC)).modClk h fun c => { c with invalidSince := none }

/-- The relabelling of a clock whose entry lies `add` AU on in the cycle of length `l`: Q and HALT are those of the relabelled
entry, and A keeps its distance to Q, ahead of it while the clock holds and behind it otherwise. An A or HALT that had already
passed 360 °CA is carried into the next revolution with Q. -/
def Clock.relabel (c : Clock) (m l add now : Nat) (rev : Bool) : Clock :=
  let q := c.qHeld m rev now
  let c1 := { c with entAng := c.entAng + add }
  let c2 := { c1 with halt := c1.haltAt l rev, moved := none }
  let q2 := c2.qHeld l rev now
  { c2 with a := if (c.mode == .hold) != rev then (q2 + fwd (m * 65536) q c.a) % (l * 65536)
                 else (q2 + l * 65536 - fwd (m * 65536) c.a q) % (l * 65536) }

/-- The relabelling at the FULL transition (rule R69): A, HALT and Q move together, and no angle counts as reached. -/
def Block.relabelClock (s : Block) (h : HalfId) (add : Nat) : Block :=
  ((s.endWindows h 3).setF h F.ANG_STAT_FULLRANGE 1).modClk h fun c =>
    c.relabel (s.modM h) (s.cycleL h) add (s.half h).tsc (s.clockRev h)

/-- Predictor order in use (ANG_STAT.ORDER): one less than the normalised periods held, at most 2. -/
def Clock.order (c : Clock) : Nat := capNat 2 (c.hist.length - 1)

/-! ## One ANGCLK of movement (rules R87, R92, R93, R95) -/

/-- A and the movement after the micro-tick that ends at instant `t`. -/
def Clock.tick (c : Clock) (m : Nat) (rev : Bool) (t : Nat) : Clock :=
  let q := c.qHeld m rev t
  let dest (a : Nat) (c' : Clock) : Clock := { c' with a := a, moved := some (movedBetween m rev c.a a false (c.mode == .catchup)) }
  match c.mode with
  | .halted => { c with haltLen := c.haltLen + 1, moved := none }
  | .follow => dest q c
  | .hold => if c.holdOver m rev q then dest q c else { c with moved := none }
  | .catchup =>
    let add := fracAdd (fracMul c.step ⟨65536 * (c.cuMul : Int), 1⟩) c.acc
    let n := (fracFloor add).toNat
    let left := fwd (m * 65536) c.a q
    if n < left then dest ((c.a + n) % (m * 65536)) { c with acc := fracSub add (fracOf n) } else dest q { c with acc := ⟨0, 1⟩ }

/-- The micro-tick of a half's clock at the end of the present ANGCLK. -/
def Block.clockTick (s : Block) (h : HalfId) : Block :=
  if s.clockValid h then
    let m := s.modM h
    let rev := s.clockRev h
    let s1 := (s.modClk h fun c => c.tick m rev ((s.half h).tsc + 1)).collectDue h
    if (s.half h).clk.mode == .halted && (s1.half h).clk.haltLen == 2 then s1.count h F.ANG_CNT_HALTS else s1
  else s

/-! ## Loss of validity (rules R99, R133, R144, R165, R180) -/

/-- What the geometry learner has gathered is dropped: a revolution is learned from only where its source was in FULL sync
throughout (rule R105). -/
def Clock.unlearn (c : Clock) : Clock := { c with revT0 := none, revPrev := 0, revOk := false, revMarks := [] }

/-- Static insertion is suspended until a mode latch: the clock is invalid, or its source is below FULL sync (rule R180). -/
def Block.suspendStatic (s : Block) (h : HalfId) (invalid : Bool) : Block :=
  let x := (s.half h).sched
  let susp := x.suspended || x.curSrc.isSome || x.nextSrc.isSome
  s.modHalf h fun y => { y with sched := { y.sched with
    prevSrc := none, curSrc := none, nextSrc := none, due := [], suspended := susp,
    suspInvalid := x.suspInvalid || (invalid && susp) } }

/-- The angle clock becomes invalid: unarmed entries are cancelled with the cause, a half in SERVICE enters RECOVERY, a
decision taken at the last mode latch is abandoned, and static insertion is suspended. -/
def Block.clockInvalid (s : Block) (h : HalfId) (cause : Nat) : Block :=
  if !s.clockValid h then s else
  let now := (s.half h).tsc
  let s1 := (((s.endWindows h 1).setF h F.ANG_STAT_VALID 0).modClk h fun c =>
    { c.unlearn with step := ⟨0, 1⟩, moved := none, mode := .follow, invalidSince := some now, haltLen := 0, cycAt := none }).clkFlags h
      .follow
  let s2 := s1.cancelWhere h cause (fun e => !e.armed)
  let s3 := if s2.on h F.ADM_STAT_SVCPEND then (s2.setF h F.ADM_STAT_SVCPEND 0).setF h F.ADM_ERR_XLATCH 1 else s2
  let s4 := (s3.modHalf h fun x => { x with sched := { x.sched with
    staged := none, shadowDone := false, shadowLate := false, svcLate := false } }).suspendStatic h true
  if s4.phase h = phSERVICE then s4.setPhase h phRECOVERY 3 else s4

/-! ## Learning (rules R105, R107) -/

/-- One geometry entry moved towards the measured deviation and held at its limits (rule R105). -/
def Block.learnGeo (h : HalfId) (t t0 dur rate : Nat) (s : Block) (mark : Nat × Nat) : Block :=
  let e := mark.1
  if e = 0 || dur = 0 then s else
  let n := s.crkN h t
  let eps : Int := ((revAU : Int) * (ticksTo t0 mark.2 : Int)) / dur - s.crkAng h t e
  let old := s.geo h e
  let want := old + (eps - old) / 2 ^ rate
  let lo0 := s.geo h (entryAt n e (-1)) - (s.spacing h t e / 2 : Nat)
  let hi0 := s.geo h (entryAt n e 1) + (s.spacing h t (entryAt n e 1) / 2 : Nat)
  let lo := if lo0 < -32767 then -32767 else lo0
  let hi := if 32767 < hi0 then 32767 else hi0
  let v := if want < lo then lo else if hi < want then hi else want
  let s1 := s.setF h F.ANG_GEO_CORR (field 16 v) e
  if v = want then s1 else s1.setF h F.ANG_ERR_GEOSAT 1

/-- A pass of entry 0 closes a revolution and opens the next (rule R105). -/
def Block.learnRevolution (s : Block) (h : HalfId) (t te : Nat) : Block :=
  let c := (s.half h).clk
  match c.revT0 with
  | none => s.modClk h fun c => { c with revT0 := some te, revOk := true, revMarks := [], revPrev := 0 }
  | some t0 =>
    let dur := ticksTo t0 te
    let near := c.revPrev != 0 && (100 * ((dur : Int) - c.revPrev).natAbs < c.revPrev)
    let s1 := if s.on h F.ANG_LRN_GEO_EN && c.revOk && near then
        (sortBy Prod.fst c.revMarks).foldl (Block.learnGeo h t t0 dur (s.f h F.ANG_LRN_GEO_RATE)) s
      else s
    s1.modClk h fun c => { c with revT0 := some te, revOk := true, revMarks := [], revPrev := dur }

/-- The profile bin of the newest spacing moves towards the measured ratio (rule R107). "No edge was rejected during the last
cycle" is taken as none in the last complete cycle and none so far in the present one (DEDUCED, log entry 93). -/
def Block.learnProfile (s : Block) (h : HalfId) (glob t0 s0 : Nat) : Block :=
  let c := (s.half h).clk
  if s.on h F.ANG_LRN_PROF_EN && c.cycLen != 0 && c.cycPrevClean && c.cycClean && s0 != 0 then
    match s.profBin h ((glob + s.cycleL h - s0 / 2) % s.cycleL h) with
    | some b =>
      let rho : Int := ((65536 : Int) * t0 * s.cycleL h) / (s0 * c.cycLen : Nat) - 65536
      let old := sext 16 (s.f h F.ANG_PROF_DEV b)
      let new := old + (rho - old) / 2 ^ (s.f h F.ANG_LRN_PROF_RATE)
      let held := if new < -32768 then -32768 else if 32767 < new then 32767 else new
      s.setF h F.ANG_PROF_DEV (field 16 held) b
    | none => s
  else s

/-! ## The envelope (rule R148) -/

/-- Speed over a normalised period above `nmax` rpm: 200 MHz × 60 s / (period × 360 °CA). -/
def overSpeed (u : Frac) (nmax : Nat) : Bool :=
  nmax != 0 && decide ((nmax : Int) * u.num * (revAU : Int) < 12000000000 * (u.den : Int))

/-- An envelope breach at the newest accepted edge of a half in SERVICE. -/
def Block.envelopeBroken (s : Block) (h : HalfId) : Bool :=
  match (s.half h).clk.norm with
  | [] => false
  | (_, u) :: rest =>
    let top := rest.foldl (fun m p => fracMax m p.2) u
    overSpeed u (s.envN h) ||
      fracLt (fracMul u ⟨4096 + s.envR h, 4096⟩) top

/-- A period normalised by the corrected spacing it covered and the profile there (rule R90). -/
def Block.normPeriod (s : Block) (h : HalfId) (glob t0 cs : Nat) (rev : Bool) : Frac :=
  let f0 := s.profVal h (if rev then (glob + cs) % s.cycleL h else glob) cs
  fracDiv (fracOf t0) (fracMul (fracOf cs) (fracAdd ⟨1, 1⟩ f0))

/-- A breach: RECOVERY in this ANGCLK, ADM_ERR.BREACH, and a class 1 report of the admission block (rules R148, R428). -/
def Block.breach (s : Block) (h : HalfId) : Block :=
  if s.phase h = phSERVICE then
    let s1 := s.setF h F.ADM_ERR_BREACH 1
    (s1.setPhase h phRECOVERY 4).report h cOK 1 3 127 (s1.w h .ADM_ERR).toNat
  else s

/-- The normalised period of an edge that the source accepted at `te` joins those of the last cycle: the duration of the last complete
cycle back from it, without a bound before one is complete (DESIGN CHOICE, log entry 121). -/
def Block.notePeriod (s : Block) (h : HalfId) (te : Nat) (u : Frac) : Block :=
  s.modClk h fun c => { c with norm := ((te, u) :: c.norm).filter fun q => c.cycLen = 0 || ticksTo q.1 te ≤ c.cycLen }

/-- The test of a half in SERVICE for a breach of its envelope, at an accepted edge. -/
def Block.envelopeTest (s : Block) (h : HalfId) : Block :=
  if s.phase h = phSERVICE && s.envelopeBroken h then s.breach h else s

end Sys2Proof.Machine
end

