-- ==== Sys2Proof/Machine/PinEngines.lean ====
section
/-!
DEFINITION. Pin engines (chapter 13): starting and stopping, the instruction set, triggers, shared flags, and the SENT and
PSI5 receivers. A row of an instruction executes the word at the engine's address when that word is of its opcode; the
levels of the pins come as the row's operand.
-/

namespace Sys2Proof.Machine

def Block.pe (s : Block) (h : HalfId) (e : Nat) : Pe := nth Pe.idle (s.half h).pe e
def Block.modPe (s : Block) (h : HalfId) (e : Nat) (f : Pe → Pe) : Block :=
  s.modHalf h fun x => { x with pe := x.pe.set e (f (s.pe h e)) }

/-! ## Shared flags (rule R323) -/

/-- The record of the present ANGCLK: the flags as they stood at its start. -/
def Block.flagClk (s : Block) (h : HalfId) : FlagClk :=
  let f := (s.half h).flags
  if f.stamp = (s.half h).tsc then f else ⟨(s.half h).tsc, s.f h F.PE_FLAGS_FLAGS, [], []⟩

/-- A flag as it stood at the start of the ANGCLK. -/
def Block.flagAtStart (s : Block) (h : HalfId) (i : Nat) : Bool := bits (s.flagClk h).start i i == 1

/-- A write of one flag by writer `e` (engines 0 to 7, a set by a processor 8, a clear by one 9), which the higher writer of the ANGCLK
decides. -/
def Block.writeFlag (s : Block) (h : HalfId) (e i : Nat) (v : Bool) : Block :=
  let c := s.flagClk h
  let ovrd := c.writers.any (fun p => p.2 == i && decide (e < p.1))
  let s1 := s.modHalf h fun x => { x with flags := { c with writers := (e, i) :: c.writers } }
  if ovrd then s1 else s1.setF h F.PE_FLAGS_FLAGS (putBits (s.f h F.PE_FLAGS_FLAGS) i i (bitOf v))

/-- A processor's write of a set of flags; a clear wins over a set of the same ANGCLK (rule R328). -/
def Block.writeFlags (s : Block) (h : HalfId) (mask : Nat) (v : Bool) : Block :=
  (List.range 16).foldl (fun t i => if bits mask i i == 1 then t.writeFlag h (9 - bitOf v) i v else t) s

/-! ## Starting, stopping, changing (rules R312 to R315) -/

def Block.peRuns (s : Block) (h : HalfId) (e : Nat) : Bool := s.on h F.PE_STAT_RUN e

/-- The engine starts at START; a running engine is not affected (rule R312). -/
def Block.peStart (s : Block) (h : HalfId) (e : Nat) : Block :=
  if s.peRuns h e then s
  else (((((s.modPe h e fun x => { x with busy := false }).setF h F.PE_CFG_EN 1 e).setF h F.PE_STAT_RUN 1 e).setF h
    F.PE_STAT_PC (s.f h F.PE_CFG_START e) e).setF h
    F.PE_STAT_STALL 0 e).setF h F.PE_STAT_SKIND 0 e

/-- The engine stops; the instruction in progress is abandoned, and a decoder drops its partly received frame (R313). -/
def Block.peStop (s : Block) (h : HalfId) (e : Nat) : Block :=
  let s1 := s.setF h F.PE_CFG_EN 0 e
  if !s.peRuns h e then s1 else
  let s2 := if s.on h F.PE_STAT_STALL e then s1.setF h F.PE_ERR_ABANDON 1 e else s1
  ((s2.setF h F.PE_STAT_RUN 0 e).setF h F.PE_STAT_STALL 0 e).setF h F.PE_STAT_SKIND 0 e

/-- Pin `k` of the group is driven by the engine (rule R309). -/
def Block.engineDrives (s : Block) (h : HalfId) (e k : Nat) : Bool := s.f h F.PE_PIN_SRC e k == 1

/-- The engine's level of a pin. -/
def Block.pinLevel (s : Block) (h : HalfId) (e k : Nat) : Bool := bits (s.f h F.PE_PINS_DRIVE e) k k == 1

def Block.drivePin (s : Block) (h : HalfId) (e k : Nat) (v : Bool) : Block :=
  if s.engineDrives h e k then s.setF h F.PE_PINS_DRIVE (putBits (s.f h F.PE_PINS_DRIVE e) k k (bitOf v)) e else s

/-- A program change clears the engine's registers, queues, trigger and decoder, and sets its pins to INIT (rule R314). -/
def Block.peChanged (s : Block) (h : HalfId) (e : Nat) : Block :=
  let s1 := (((s.setW h .PE_A 0 e).setW h .PE_B 0 e).setW h .PE_SR 0 e).setF h F.PE_STAT_SC 0 e
  let s2 := ((s1.setF h F.PE_STAT_TRGPEND 0 e).setW h .PE_CNT 0 e).modPe h e fun _ => Pe.idle
  (List.range 4).foldl (fun t k => t.drivePin h e k (t.on h F.PE_PIN_INIT e k)) s2

/-- PE_CFG.EN written 1. -/
def execPeEnable (h : HalfId) (e : Fin 8) (s : State) : Host.Outcome State Fault Refusal :=
  s.access .PE_CFG h { s.blk.peStart h e.val with busErr := false }

/-- PE_CFG.EN written 0. -/
def execPeDisable (h : HalfId) (e : Fin 8) (s : State) : Host.Outcome State Fault Refusal :=
  s.access .PE_CFG h { s.blk.peStop h e.val with busErr := false }

/-- PE_GSTART starts every named engine in the same ANGCLK (rule R312). -/
def Block.peGstart (s : Block) (h : HalfId) (mask : Nat) : Block :=
  (List.range 8).foldl (fun t e => if bits mask e e == 1 then t.peStart h e else t) s

def execPeGstart (h : HalfId) (mask : BitVec 8) (s : State) : Host.Outcome State Fault Refusal :=
  s.access .PE_GSTART h { s.blk.peGstart h mask.toNat with busErr := false }

/-- The registers a program change may write: program words, PE_CFG, PE_PROTO0, PE_PROTO1, PE_PIN. -/
def progReg : Nat → Option (Reg × Nat)
  | 0x40 => some (.PE_CFG, 0)
  | 0x42 => some (.PE_PROTO0, 0)
  | 0x43 => some (.PE_PROTO1, 0)
  | 0x44 => some (.PE_PIN, 0)
  | 0x45 => some (.PE_PIN, 1)
  | 0x46 => some (.PE_PIN, 2)
  | 0x47 => some (.PE_PIN, 3)
  | n => if n < 0x40 then some (.PE_PROG, n) else none

/-- Bits of PE_PROTO0 (or PE_PROTO1) that the layout of PROTO reserves are 0 (rule R17); PROTO 0b00 gives no layout. -/
def protoMask (proto : Nat) (second : Bool) : Nat :=
  match proto, second with
  | 1, false => 0xFFFFC0
  | 1, true => 0
  | 2, false => 0xFFFF00
  | 2, true => 0xFFFFF0
  | _, _ => 0xFFFFFF

def Block.protoTrim (s : Block) (h : HalfId) (e : Nat) : Block :=
  let p := s.f h F.PE_CFG_PROTO e
  (s.setW h .PE_PROTO0 (wd ((s.w h .PE_PROTO0 e).toNat &&& protoMask p false)) e).setW h .PE_PROTO1
    (wd ((s.w h .PE_PROTO1 e).toNat &&& protoMask p true)) e

/-- A write of one of them, at offset `off` of the engine: accepted only while EN reads 0 (rule R314). A write of PE_CFG
that changes EN alone is a start or a stop. -/
def Block.progWrite (s : Block) (h : HalfId) (e off : Nat) (v : Word) : Block :=
  match progReg off with
  | none => { s with busErr := true }
  | some (r, j) =>
    let new := wd (v.toNat &&& r.info.rw)
    let enNow := s.on h F.PE_CFG_EN e
    if off = 0x40 && bits new.toNat 22 0 = bits (s.w h .PE_CFG e).toNat 22 0 then
      { (if bits new.toNat 23 23 = 1 then s.peStart h e else s.peStop h e) with busErr := false }
    else if enNow then { s with busErr := true }
    else if off = 0x40 then
      let t := ((s.setW h r (wd (bits new.toNat 22 0)) e j).protoTrim h e).peChanged h e
      { (if bits new.toNat 23 23 = 1 then t.peStart h e else t) with busErr := false }
    else if off = 0x42 || off = 0x43 then { ((s.setW h r new e j).protoTrim h e).peChanged h e with busErr := false }
    else { (s.setW h r new e j).peChanged h e with busErr := false }

def execPeProgramChange (h : HalfId) (e : Fin 8) (off : BitVec 7) (v : Word) (s : State) : Host.Outcome State Fault Refusal :=
  s.access .PE_PROG h (s.blk.progWrite h e.val off.toNat v)

/-! ## Instruction words (rules R316, R317) -/

/-- The word at the engine's address. -/
def Block.peWord (s : Block) (h : HalfId) (e : Nat) : Nat := (s.w h .PE_PROG e (s.f h F.PE_STAT_PC e)).toNat

def Block.peReg (s : Block) (h : HalfId) (e : Nat) (b : Bool) : Nat := (s.w h (if b then .PE_B else .PE_A) e).toNat
def Block.setPeReg (s : Block) (h : HalfId) (e : Nat) (b : Bool) (v : Nat) : Block := s.setW h (if b then .PE_B else .PE_A) (wd v) e
def Block.setSr (s : Block) (h : HalfId) (e sr sc : Nat) : Block := (s.setW h .PE_SR (wd (sr % 2 ^ sc)) e).setF h F.PE_STAT_SC sc e

/-- The instruction carries a reserved value (rule R317): operand bits not named, values not listed, shift counts. -/
def peReserved (w : Nat) : Bool :=
  let d := bits w 11 0
  match bits w 23 20 with
  | 0x0 => d != 0
  | 0x1 =>
    let sel := bits d 9 6
    match bits d 11 10 with
    | 0 => decide (7 < sel)
    | 1 => bits sel 2 2 != 0
    | 2 => false
    | _ => decide (4 < sel)
  | 0x2 => bits d 10 6 != 0
  | 0x3 => false
  | 0x4 => false
  | 0x5 => decide (2 < bits d 11 8) || decide (8 < bits d 7 4) || bits d 3 0 != 0
  | 0x6 => false
  | 0x7 => d != 0
  | 0x8 => bits d 11 5 != 0
  | 0x9 => bits d 11 6 != 0
  | 0xA => bits d 11 10 == 3 || bits d 9 4 != 0
  | 0xB => d != 0
  | 0xC => bits d 9 5 != 0 || bits d 4 0 == 0 || decide (24 < bits d 4 0)
  | 0xD => bits d 9 5 != 0 || bits d 4 0 == 0 || decide (24 < bits d 4 0)
  | 0xE => d != 0
  | _ => d != 0

/-- The pin actions of an instruction (rule R316). -/
def Block.pinActions (s : Block) (h : HalfId) (e w : Nat) : Block :=
  (List.range 4).foldl (fun t k =>
    match bits w (13 + 2 * k) (12 + 2 * k) with
    | 1 => t.drivePin h e k false
    | 2 => t.drivePin h e k true
    | 3 => t.drivePin h e k (!t.pinLevel h e k)
    | _ => t) s

/-- An instruction completes: its pin action, and the next address, or `to` on a branch. -/
def Block.peDone (s : Block) (h : HalfId) (e w : Nat) (dest : Option Nat) : Block :=
  let s1 := (s.pinActions h e w).modPe h e fun x => { x with busy := true }
  ((s1.setF h F.PE_STAT_PC (dest.getD ((s.f h F.PE_STAT_PC e + 1) % 64)) e).setF h F.PE_STAT_STALL 0 e).setF h F.PE_STAT_SKIND 0 e

/-- An instruction stalls, of a kind of PE_STAT.SKIND. -/
def Block.peStalls (s : Block) (h : HalfId) (e kind : Nat) : Block :=
  ((s.modPe h e fun x => { x with busy := true }).setF h F.PE_STAT_STALL 1 e).setF h F.PE_STAT_SKIND kind e

/-- The engine executes a program, and its instruction of this ANGCLK is still to come (rules R312, R316). -/
def Block.peProgram (s : Block) (h : HalfId) (e : Nat) : Bool :=
  s.peRuns h e && s.angRuns h && s.f h F.PE_CFG_PROTO e == 0 && !(s.pe h e).busy

/-- It begins an instruction: it does not stall. -/
def Block.peActive (s : Block) (h : HalfId) (e : Nat) : Bool := s.peProgram h e && !s.on h F.PE_STAT_STALL e

/-- The word at the address of an active engine is a valid instruction of the opcode. -/
def Block.peReady (s : Block) (h : HalfId) (e op : Nat) : Bool :=
  s.peActive h e && bits (s.peWord h e) 23 20 == op && !peReserved (s.peWord h e)

/-- The engine executes the word at its address where that is a valid instruction of the opcode; anything else leaves it as
it is. -/
def Block.peRun (s : Block) (h : HalfId) (e op : Nat) (f : Block → Nat → Block) : Block :=
  if s.peReady h e op then f s (s.peWord h e) else s

/-- The synchronised input levels of the group: they stand as a command last gave them, whatever drives the pins and whatever the
engine does; while ANGCLK is stopped they stand still (rules R308, R311; log entry 115). -/
def Block.pinsIn (s : Block) (h : HalfId) (e : Nat) (pins : BitVec 4) : Block :=
  if s.angRuns h then s.setF h F.PE_PINS_IN pins.toNat e else s

/-- The levels that come with an instruction row. While an instruction stalls, PE_STALL_COMPLETE gives them. -/
def Block.pinsSeen (s : Block) (h : HalfId) (e : Nat) (pins : BitVec 4) : Block :=
  if s.on h F.PE_STAT_STALL e then s else s.pinsIn h e pins

def execPeIdle (h : HalfId) (e : Fin 8) (s : State) : Host.Outcome State Fault Refusal :=
  .next { s with blk := s.blk.peRun h e.val 0 fun t w => t.peDone h e.val w none }

/-- The condition of a BR (rule R317). -/
def Block.peCond (s : Block) (h : HalfId) (e d : Nat) : Bool :=
  let sel := bits d 9 6
  let a := s.peReg h e false
  let b := s.peReg h e true
  match bits d 11 10 with
  | 0 =>
    match sel with
    | 0 => true
    | 1 => a == 0
    | 2 => a != 0
    | 3 => b == 0
    | 4 => b != 0
    | 5 => a == b
    | 6 => a != b
    | _ => decide (a < b)
  | 1 => bits (s.f h F.PE_PINS_IN e) (bits sel 1 0) (bits sel 1 0) == bits sel 3 3
  | 2 => s.flagAtStart h sel
  | _ =>
    match sel with
    | 0 => s.f h F.PE_STAT_SC e == 0
    | 1 => s.f h F.PE_STAT_SC e != 0
    | 2 => s.on h F.PE_STAT_TRGPEND e
    | 3 => (s.pe h e).sq.isEmpty
    | _ => decide (12 ≤ (s.pe h e).rq.length)

def execPeBr (h : HalfId) (e : Fin 8) (pins : BitVec 4) (s : State) : Host.Outcome State Fault Refusal :=
  s.put <| (s.blk.pinsSeen h e.val pins).peRun h e.val 1 fun t w =>
    t.peDone h e.val w (if t.peCond h e.val (bits w 11 0) then some (bits w 5 0) else none)

def execPeLoop (h : HalfId) (e : Fin 8) (s : State) : Host.Outcome State Fault Refusal :=
  s.put <| s.blk.peRun h e.val 2 fun t w =>
    let b := bits w 11 11 == 1
    let v := (t.peReg h e.val b + 2 ^ 24 - 1) % 2 ^ 24
    (t.setPeReg h e.val b v).peDone h e.val w (if v = 0 then none else some (bits w 5 0))

def execPeLdi (h : HalfId) (e : Fin 8) (s : State) : Host.Outcome State Fault Refusal :=
  s.put <| s.blk.peRun h e.val 3 fun t w =>
    (t.setPeReg h e.val (bits w 11 11 == 1) (bits w 10 0)).peDone h e.val w none

def execPeLdx (h : HalfId) (e : Fin 8) (s : State) : Host.Outcome State Fault Refusal :=
  s.put <| s.blk.peRun h e.val 4 fun t w =>
    let b := bits w 11 11 == 1
    (t.setPeReg h e.val b ((t.peReg h e.val b * 2048 + bits w 10 0) % 2 ^ 24)).peDone h e.val w none

/-- The source of a MOVR. -/
def Block.movrSrc (s : Block) (h : HalfId) (e src : Nat) : Nat :=
  let a := s.peReg h e false
  let b := s.peReg h e true
  match src with
  | 0 => a
  | 1 => b
  | 2 => (s.w h .PE_SR e).toNat % 2 ^ s.f h F.PE_STAT_SC e
  | 3 => s.f h F.PE_PINS_IN e
  | 4 => (s.w h .PE_TRG e).toNat
  | 5 => (s.pe h e).t % 2 ^ 24
  | 6 => s.f h F.PE_STAT_SC e
  | 7 => (a + b) % 2 ^ 24
  | _ => (a + 2 ^ 24 - b) % 2 ^ 24

def execPeMovr (h : HalfId) (e : Fin 8) (pins : BitVec 4) (s : State) : Host.Outcome State Fault Refusal :=
  s.put <| (s.blk.pinsSeen h e.val pins).peRun h e.val 5 fun t w =>
    let v := t.movrSrc h e.val (bits w 7 4)
    let t2 := match bits w 11 8 with
      | 0 => t.setPeReg h e.val false v
      | 1 => t.setPeReg h e.val true v
      | _ => t.setSr h e.val v 24
    t2.peDone h e.val w none

def execPeTime (h : HalfId) (e : Fin 8) (s : State) : Host.Outcome State Fault Refusal :=
  s.put <| s.blk.peRun h e.val 6 fun t w =>
    let old := (t.pe h e.val).t
    let new := match bits w 11 10 with
      | 0 => (t.half h).tsc
      | 1 => old + t.peReg h e.val false
      | 2 => old + t.peReg h e.val true
      | _ => old + bits w 9 0
    (t.modPe h e.val fun x => { x with t := new % 2 ^ 48 }).peDone h e.val w none

/-- PE_TWAIT: the wait begins; it completes when the count arrives at T, or with LATE in the last pipeline clock (R320). -/
def execPeTwait (h : HalfId) (e : Fin 8) (s : State) : Host.Outcome State Fault Refusal :=
  s.put <| s.blk.peRun h e.val 7 fun t _ =>
    let n := (t.half h).tsc
    let d := fwd (2 ^ 48) n (t.pe h e.val).t
    let late := d < 2 || 2 ^ 48 - 2 ^ 46 < d
    (t.modPe h e.val fun x => { x with begun := n, wake := (n + if late then 1 else d) % 2 ^ 48, lateEnd := late }).peStalls h e.val 3

/-- Completion of a PWAIT at a new T (rule R321). -/
def Block.pwaitDone (s : Block) (h : HalfId) (e w new : Nat) : Block :=
  let old := (s.pe h e).t
  let s1 := s.modPe h e fun x => { x with t := new % 2 ^ 48 }
  let s2 := if bits w 4 4 == 1 then s1.setPeReg h e false (capNat 0xFFFFFF (fwd (2 ^ 48) old new)) else s1
  s2.peDone h e w none

/-- PE_PWAIT: a level already present completes it at once with EDGE 0; otherwise it waits. -/
def execPePwait (h : HalfId) (e : Fin 8) (pins : BitVec 4) (s : State) : Host.Outcome State Fault Refusal :=
  s.put <| (s.blk.pinsSeen h e.val pins).peRun h e.val 8 fun t w =>
    let here := bits (t.f h F.PE_PINS_IN e.val) (bits w 1 0) (bits w 1 0) == bits w 2 2
    if here && bits w 3 3 == 0 then t.pwaitDone h e.val w (t.half h).tsc else t.peStalls h e.val 4

/-- An engine below `e` consumes flag `i` in this ANGCLK: its FWAIT is the one that completes (rule R323). -/
def Block.lowerConsumes (s : Block) (h : HalfId) (e i : Nat) : Bool :=
  (List.range e).any fun j => s.peProgram h j && bits (s.peWord h j) 5 4 == 3 && bits (s.peWord h j) 23 20 == 9 &&
    !peReserved (s.peWord h j) && bits (s.peWord h j) 3 0 == i

/-- The flag wait of an FWAIT is satisfied, and its completion (rule R323). -/
def Block.fwaitTry (s : Block) (h : HalfId) (e w : Nat) : Option Block :=
  let i := bits w 3 0
  let level := bits w 4 4 == 1
  let consume := bits w 5 5 == 1 && level
  if s.flagAtStart h i != level then none
  else if !consume then some (s.peDone h e w none)
  else if (s.flagClk h).consumed.contains i || s.lowerConsumes h e i then none
  else
    let s1 := s.writeFlag h e i false
    let s2 := s1.modHalf h fun x => { x with flags := { x.flags with consumed := i :: x.flags.consumed } }
    some (s2.peDone h e w none)

def execPeFwait (h : HalfId) (e : Fin 8) (s : State) : Host.Outcome State Fault Refusal :=
  s.put <| s.blk.peRun h e.val 9 fun t w =>
    match t.fwaitTry h e.val w with
    | some t1 => t1
    | none => t.peStalls h e.val 5

def execPeFlag (h : HalfId) (e : Fin 8) (s : State) : Host.Outcome State Fault Refusal :=
  s.put <| s.blk.peRun h e.val 10 fun t w =>
    let i := bits w 3 0
    let v := match bits w 11 10 with
      | 0 => false
      | 1 => true
      | _ => !t.flagAtStart h i
    (t.writeFlag h e.val i v).peDone h e.val w none

/-- Completion of a TRGW: A the value, T the delivery count, the pending trigger cleared (rule R322). -/
def Block.trgwDone (s : Block) (h : HalfId) (e w : Nat) : Block :=
  let s1 := s.setPeReg h e false (s.w h .PE_TRG e).toNat
  ((s1.modPe h e fun x => { x with t := x.trgAt }).setF h F.PE_STAT_TRGPEND 0 e).peDone h e w none

def execPeTrgw (h : HalfId) (e : Fin 8) (s : State) : Host.Outcome State Fault Refusal :=
  s.put <| s.blk.peRun h e.val 11 fun t w =>
    if t.on h F.PE_STAT_TRGPEND e.val then t.trgwDone h e.val w else t.peStalls h e.val 6

/-- A trigger delivered by an event channel becomes the pending trigger (rule R322). -/
def Block.peTrigger (s : Block) (h : HalfId) (e : Nat) (v : Word) : Block :=
  let s1 := if s.on h F.PE_STAT_TRGPEND e then s.setF h F.PE_ERR_TRGOVF 1 e else s
  ((s1.setW h .PE_TRG v e).setF h F.PE_STAT_TRGPEND 1 e).modPe h e fun x => { x with trgAt := (s.half h).tsc }

/-! ## Shifts (rule R318) -/

/-- The `n` bits a SOUT takes from the low `sc` bits of `sr`, right-aligned at the destination, and what stays. Most
significant first with `lsb` false. -/
def shiftOut (lsb : Bool) (sr sc n : Nat) : Nat × Nat :=
  if lsb then (sr % 2 ^ n, sr / 2 ^ n) else (sr / 2 ^ (sc - n), sr % 2 ^ (sc - n))

/-- Two parts of a shifted value joined in shift order: `x` of `m` bits first, then `y` of `k` bits. -/
def joinBits (lsb : Bool) (x m y k : Nat) : Nat := if lsb then x + y * 2 ^ m else x * 2 ^ k + y

/-- The destination of a SOUT: pins (the first bit to pin 0), A, B or nowhere. -/
def Block.soutTo (s : Block) (h : HalfId) (e dest n v : Nat) (lsb : Bool) : Block :=
  match dest with
  | 0 => (List.range 4).foldl (fun t k =>
      if k < n then t.drivePin h e k (bits v (if lsb then k else n - 1 - k) (if lsb then k else n - 1 - k) == 1) else t) s
  | 1 => s.setPeReg h e false v
  | 2 => s.setPeReg h e true v
  | _ => s

/-- The word the engine may take from its send queue: from the second ANGCLK after its write (rule R319). -/
def Block.sqHead (s : Block) (h : HalfId) (e : Nat) : Option Word :=
  ((s.pe h e).sq.head?.filter fun x => reached x.1 (s.half h).tsc).map Prod.snd

/-- A SOUT completes, or `none` while it must stall for the send queue. -/
def Block.soutTry (s : Block) (h : HalfId) (e w : Nat) : Option Block :=
  let n := bits w 4 0
  let dest := bits w 11 10
  let lsb := s.on h F.PE_CFG_SHDIR e
  let sc := s.f h F.PE_STAT_SC e
  let sr := (s.w h .PE_SR e).toNat % 2 ^ sc
  if n ≤ sc then
    let r := shiftOut lsb sr sc n
    some (((s.setSr h e r.2 (sc - n)).soutTo h e dest n r.1 lsb).peDone h e w none)
  else if !s.on h F.PE_CFG_CHAIN e then
    some (((s.setSr h e 0 0).soutTo h e dest n (joinBits lsb sr sc 0 (n - sc)) lsb).peDone h e w none)
  else
    match s.sqHead h e with
    | none => none
    | some q =>
      let r := shiftOut lsb q.toNat 24 (n - sc)
      let s1 := (s.modPe h e fun x => { x with sq := x.sq.drop 1 }).setSr h e r.2 (24 - (n - sc))
      some ((s1.soutTo h e dest n (joinBits lsb sr sc r.1 (n - sc)) lsb).peDone h e w none)

def execPeSout (h : HalfId) (e : Fin 8) (s : State) : Host.Outcome State Fault Refusal :=
  s.put <| s.blk.peRun h e.val 12 fun t w =>
    match t.soutTry h e.val w with
    | some t1 => t1
    | none => t.peStalls h e.val 1

/-- A SIN completes, or `none` while it must stall for room in the receive queue. -/
def Block.sinTry (s : Block) (h : HalfId) (e w : Nat) : Option Block :=
  let n := bits w 4 0
  let lsb := s.on h F.PE_CFG_SHDIR e
  let sc := s.f h F.PE_STAT_SC e
  let sr := (s.w h .PE_SR e).toNat % 2 ^ sc
  let src := match bits w 11 10 with
    | 0 => s.f h F.PE_PINS_IN e
    | 1 => s.peReg h e false
    | 2 => s.peReg h e true
    | _ => 0
  let v := src % 2 ^ n
  if sc + n ≤ 24 then some ((s.setSr h e (joinBits lsb sr sc v n) (sc + n)).peDone h e w none)
  else if !s.on h F.PE_CFG_CHAIN e then
    let all := joinBits lsb sr sc v n
    some ((s.setSr h e (if lsb then all / 2 ^ (sc + n - 24) else all % 2 ^ 24) 24).peDone h e w none)
  else if 12 ≤ (s.pe h e).rq.length then none
  else
    let m := 24 - sc
    let first := if lsb then v % 2 ^ m else v / 2 ^ (n - m)
    let other := if lsb then v / 2 ^ m else v % 2 ^ (n - m)
    let s1 := s.modPe h e fun x => { x with rq := x.rq ++ [wd (joinBits lsb sr sc first m)] }
    some ((s1.setSr h e other (n - m)).peDone h e w none)

def execPeSin (h : HalfId) (e : Fin 8) (pins : BitVec 4) (s : State) : Host.Outcome State Fault Refusal :=
  s.put <| (s.blk.pinsSeen h e.val pins).peRun h e.val 13 fun t w =>
    match t.sinTry h e.val w with
    | some t2 => t2
    | none => t.peStalls h e.val 2

def Block.qgetTry (s : Block) (h : HalfId) (e w : Nat) : Option Block :=
  match s.sqHead h e with
  | none => none
  | some q => some (((s.modPe h e fun x => { x with sq := x.sq.drop 1 }).setSr h e q.toNat 24).peDone h e w none)

def execPeQget (h : HalfId) (e : Fin 8) (s : State) : Host.Outcome State Fault Refusal :=
  s.put <| s.blk.peRun h e.val 14 fun t w =>
    match t.qgetTry h e.val w with
    | some t1 => t1
    | none => t.peStalls h e.val 1

def Block.qputTry (s : Block) (h : HalfId) (e w : Nat) : Option Block :=
  if 12 ≤ (s.pe h e).rq.length then none
  else
    let sr := wd ((s.w h .PE_SR e).toNat % 2 ^ s.f h F.PE_STAT_SC e)
    some (((s.modPe h e fun x => { x with rq := x.rq ++ [sr] }).setSr h e 0 0).peDone h e w none)

def execPeQput (h : HalfId) (e : Fin 8) (s : State) : Host.Outcome State Fault Refusal :=
  s.put <| s.blk.peRun h e.val 15 fun t w =>
    match t.qputTry h e.val w with
    | some t1 => t1
    | none => t.peStalls h e.val 2

/-- PE_ILLEGAL_INSTRUCTION: a word with a reserved value stops the engine before it executes (rule R317). -/
def peIllegal (h : HalfId) (e : Nat) (s : Block) : Block :=
  if s.peActive h e && peReserved (s.peWord h e) then
    ((s.setF h F.PE_STAT_RUN 0 e).setF h F.PE_CFG_EN 0 e).setF h F.PE_ERR_ILLEGAL 1 e
  else s

def execPeIllegalInstruction (h : HalfId) (e : Fin 8) (s : State) : Host.Outcome State Fault Refusal :=
  .next { s with blk := peIllegal h e.val s.blk }

/-- PE_STALL_COMPLETE: the stalled instruction completes where its condition holds with these pin levels; in the ANGCLK in which it
began, the levels stand as the engine saw them. A TWAIT whose time passed while the engine stood still completes with LATE (rules
R311, R320, R321). -/
def stallComplete (h : HalfId) (e : Nat) (pins : BitVec 4) (s : Block) : Block :=
  if s.on h F.PE_STAT_STALL e && !s.peProgram h e then s else
  let t := s.pinsIn h e pins
  if !s.on h F.PE_STAT_STALL e then t else
  let w := s.peWord h e
  let was := s.f h F.PE_PINS_IN e
  let now := (s.half h).tsc
  match bits w 23 20 with
  | 0x7 =>
    let x := t.pe h e
    let gone := ticksTo x.begun now
    let span := ticksTo x.begun x.wake
    if gone < span then t
    else (if x.lateEnd || decide (span < gone) then t.setF h F.PE_ERR_LATE 1 e else t).peDone h e w none
  | 0x8 =>
    let p := bits w 1 0
    let change := bits was p p != bits w 2 2
    if bits pins.toNat p p == bits w 2 2 && (change || bits w 3 3 == 0) then
      t.pwaitDone h e w (if change then (now + 2 ^ 48 - 2) % 2 ^ 48 else now)
    else t
  | 0x9 => (t.fwaitTry h e w).getD t
  | 0xB => if t.on h F.PE_STAT_TRGPEND e && (t.pe h e).trgAt != now then t.trgwDone h e w else t
  | 0xC => (t.soutTry h e w).getD t
  | 0xD => (t.sinTry h e w).getD t
  | 0xE => (t.qgetTry h e w).getD t
  | 0xF => (t.qputTry h e w).getD t
  | _ => t

def execPeStallComplete (h : HalfId) (e : Fin 8) (pins : BitVec 4) (s : State) : Host.Outcome State Fault Refusal :=
  .next { s with blk := stallComplete h e.val pins s.blk }

/-! ## Queues, flags and T as processors reach them (rules R319, R323, R328) -/

/-- PE_SQ: a word for the send queue of 6, or a bus error. -/
def Block.sqWrite (s : Block) (h : HalfId) (e : Nat) (v : Word) : Block :=
  if (s.pe h e).sq.length < 6 then { (s.modPe h e fun x => { x with sq := x.sq ++ [(((s.half h).tsc + 2) % 2 ^ 48, v)] }) with busErr := false }
  else { s with busErr := true }

def execPeSendQueueWrite (h : HalfId) (e : Fin 8) (v : Word) (s : State) : Host.Outcome State Fault Refusal :=
  s.access .PE_SQ h (s.blk.sqWrite h e.val v)

def Block.rqPop (s : Block) (h : HalfId) (e : Nat) : Block :=
  { (s.modPe h e fun x => { x with rq := x.rq.drop 1 }) with busErr := false }

def execPeReceiveQueuePop (h : HalfId) (e : Fin 8) (s : State) : Host.Outcome State Fault Refusal :=
  s.access .PE_RQPOP h (s.blk.rqPop h e.val)

def execPeFlagSet (h : HalfId) (mask : BitVec 16) (s : State) : Host.Outcome State Fault Refusal :=
  s.access .PE_FSET h { s.blk.writeFlags h mask.toNat true with busErr := false }

def execPeFlagClear (h : HalfId) (mask : BitVec 16) (s : State) : Host.Outcome State Fault Refusal :=
  s.access .PE_FCLR h { s.blk.writeFlags h mask.toNat false with busErr := false }

/-- A read of PE_TLO latches PE_THI. -/
def Block.readTlo (s : Block) (h : HalfId) (e : Nat) : Block :=
  let t := (s.pe h e).t
  { s.setW h .PE_THI (wd (t / 2 ^ 24)) e with busErr := false, busData := wd t }

def execPeTloRead (h : HalfId) (e : Fin 8) (s : State) : Host.Outcome State Fault Refusal :=
  s.access .PE_TLO h (s.blk.readTlo h e.val)

/-! ## Receivers (rules R324 to R327) -/

/-- A record enters the receive queue whole, or is discarded. -/
def Block.putRecord (s : Block) (h : HalfId) (e : Nat) (r : List Word) : Block :=
  if (s.pe h e).rq.length + r.length ≤ 12 then s.modPe h e fun x => { x with rq := x.rq ++ r }
  else s.setF h F.PE_ERR_RXOVF 1 e

/-- A frame is rejected; serial-message assembly restarts. -/
def Block.rejectFrame (s : Block) (h : HalfId) (e : Nat) : Block :=
  ((s.setF h F.PE_ERR_FRMERR 1 e).count h F.PE_CNT_REJECTS e).modPe h e fun x => { x with serial := [] }

/-- The calibration pulse of a frame, in ticks of the counter, lies within the receiver's limits. -/
def calOk (nominal prev cal : Nat) : Bool :=
  decide (5 * (cal : Int) ≤ 6 * 56 * (nominal : Int)) && decide (4 * 56 * (nominal : Int) ≤ 5 * (cal : Int)) &&
    (prev == 0 || decide (64 * ((cal : Int) - prev).natAbs ≤ prev))

/-- The nibble of a period: round(period / tick) − 12 with the tick a 56th of the calibration pulse; none out of range. -/
def nibbleOf (cal period : Nat) : Option Nat :=
  if cal = 0 then none else
  let n := (2 * 56 * period + cal) / (2 * cal)
  if 12 ≤ n ∧ n ≤ 27 then some (n - 12) else none

/-- The enhanced serial message that 18 frames spell by their status bits (bit 3, bit 2), oldest first: the configuration
bit, the ID, the data, or none where the frames spell no message (PRESUMED layout of SAE J2716, log entry 7). -/
def serialMessage (l : List (Nat × Nat)) : Option (Nat × Nat × Nat) :=
  let b3 (i : Nat) : Nat := (nth (0, 0) l (i - 1)).1
  let b2 (i : Nat) : Nat := (nth (0, 0) l (i - 1)).2
  let num (f : Nat → Nat) (is : List Nat) : Nat := is.foldl (fun n i => 2 * n + f i) 0
  let start := [1, 2, 3, 4, 5, 6].all (fun i => b3 i == 1) && b3 7 == 0 && b3 13 == 0 && b3 18 == 0
  let crc := num b2 [1, 2, 3, 4, 5, 6]
  let body := (List.range 12).flatMap (fun i => [b2 (i + 7), b3 (i + 7)])
  let data := num b2 [7, 8, 9, 10, 11, 12, 13, 14, 15, 16, 17, 18]
  if l.length = 18 && start && crc == Config.sentCrc6 body % 64 then
    if b3 8 = 0 then some (0, num b3 [9, 10, 11, 12, 14, 15, 16, 17], data)
    else some (1, num b3 [9, 10, 11, 12], num b3 [14, 15, 16, 17] * 4096 + data)
  else none

/-- The CRC of a frame's data nibbles: the recommended form appends a zero nibble (rule R324). -/
def sentCrc (recommended : Bool) (data : List Nat) : Nat := Config.sentCrc4 (if recommended then data ++ [0] else data) % 16

/-- Periods of a frame after its calibration pulse: status, data, CRC, and with PAUSE the pause pulse, of any length (rule R324). -/
def Block.sentPeriods (s : Block) (h : HalfId) (e : Nat) : Nat := s.f h F.PE_PROTO0_NIB e + 2 + s.f h F.PE_PROTO0_PAUSE e

/-- SENT_FRAME_RECEIVE: a frame with its calibration pulse and the periods of its nibbles and pause, in ticks of the counter;
`opens` is the timestamp of the falling edge that opens the calibration pulse. A calibration pulse that is not accepted
opens no frame. -/
def sentFrame (h : HalfId) (e : Nat) (opens cal : Nat) (periods : List Nat) (s : Block) : Block :=
  if !(s.peRuns h e && s.angRuns h && s.f h F.PE_CFG_PROTO e == 1) then s else
  let nib := s.f h F.PE_PROTO0_NIB e
  let nominal := s.f h F.PE_PROTO0_TICK e * 20
  let ns := (periods.take (nib + 2)).filterMap (nibbleOf cal)
  let data := (ns.drop 1).take nib
  let ok := periods.length == s.sentPeriods h e && ns.length == nib + 2 &&
    nth 0 ns (nib + 1) == sentCrc (s.on h F.PE_PROTO0_CRCV e) data
  if !calOk nominal (s.pe h e).prevCal cal then s
  else if !ok then (s.rejectFrame h e).modPe h e fun x => { x with prevCal := cal } else
  let status := nth 0 ns 0
  let value := (data ++ List.replicate 6 0).take 6 |>.foldl (fun n d => 16 * n + d) 0
  let s1 := (s.count h F.PE_CNT_FRAMES e).putRecord h e
    [wd (2 ^ 22 + status * 2 ^ 18 + capNat 511 ((cal + 1120) / 2240)), wd value, wd opens]
  let serial := (((s.pe h e).serial ++ [(bits status 3 3, bits status 2 2)]).reverse.take 18).reverse
  let s2 := s1.modPe h e fun x => { x with prevCal := cal, serial := if s.on h F.PE_PROTO0_SERIAL e then serial else [] }
  if !s.on h F.PE_PROTO0_SERIAL e then s2
  else match serialMessage serial with
    | some (c, id, d) =>
      (s2.putRecord h e [wd (2 * 2 ^ 22 + c * 2 ^ 17 + id * 512), wd d, wd opens]).modPe h e fun x => { x with serial := [] }
    | none => s2

def execSentFrameReceive (h : HalfId) (e : Fin 8) (opens cal : Word) (periods : List Word) (s : State) :
    Host.Outcome State Fault Refusal :=
  .next { s with blk := sentFrame h e.val opens.toNat cal.toNat (periods.map BitVec.toNat) s.blk }

/-- The 3-bit CRC with polynomial x³ + x + 1 and start value 0b111 over bits in the order received (rule R326). -/
def psiCrc (l : List Bool) : Nat :=
  (l ++ [false, false, false]).foldl (fun r b =>
    let x := r * 2 + bitOf b
    if 8 ≤ x then (x - 8) ^^^ 3 else x) 7

/-- A bit time within ±10 % of nominal at 125 kbit/s, or at 189 kbit/s with RATE 1 (rule R326). -/
def psiBitOk (rate : Bool) (ns : Nat) : Bool :=
  let k := (if rate then 189 else 125) * ns
  decide (900000 ≤ k) && decide (k ≤ 1100000)

/-- PSI5_FRAME_RECEIVE: a whole frame, its data bits in the order received (least significant first, log entry 8), its check bits,
and what its Manchester coding looked like; `opens` is the timestamp of its first start-bit edge. A frame of another bit time is
rejected as one with an invalid bit (log entry 8). -/
def psiFrame (h : HalfId) (e : Nat) (opens : Nat) (data : List Bool) (chk : Nat) (line : PsiLine) (s : Block) : Block :=
  if !(s.peRuns h e && s.angRuns h && s.f h F.PE_CFG_PROTO e == 2) then s else
  let sync := s.f h F.PE_PROTO0_MODE e == 1
  let k := (s.pe h e).slot
  let s0 := if sync then s.modPe h e fun x => { x with slot := k + 1 } else s
  let ones := total bitOf data
  let good := if s.on h F.PE_PROTO0_CHK e then chk == psiCrc data else (ones + chk) % 2 == 0
  if line.invalid || !psiBitOk (s.on h F.PE_PROTO0_RATE e) line.bitNs.toNat || data.length != s.f h F.PE_PROTO0_DLEN e || !good ||
      (sync && s.f h F.PE_PROTO0_SLOTS e < k) then s0.rejectFrame h e else
  let v := data.reverse.foldl (fun n b => 2 * n + bitOf b) 0
  (s0.count h F.PE_CNT_FRAMES e).putRecord h e [wd (3 * 2 ^ 22 + (if sync then k else 0) * 2 ^ 20), wd v, wd opens]

def execPsi5FrameReceive (h : HalfId) (e : Fin 8) (opens : Word) (data : List Bool) (chk : BitVec 3) (line : PsiLine) (s : State) :
    Host.Outcome State Fault Refusal :=
  .next { s with blk := psiFrame h e.val opens.toNat data chk.toNat line s.blk }

/-- PSI5_SYNC_PULSE: in synchronous mode a sync pulse begins on SYNCPIN, SYNCPER µs after the last or at a trigger, or ends SYNCW later
(rule R326). -/
def psiSync (h : HalfId) (e : Nat) (begins : Bool) (s : Block) : Block :=
  if !(s.peRuns h e && s.angRuns h && s.f h F.PE_CFG_PROTO e == 2 && s.f h F.PE_PROTO0_MODE e == 1) then s else
  let pin := s.f h F.PE_PROTO0_SYNCPIN e
  let now := (s.half h).tsc
  let after (n : Nat) : Bool := match (s.pe h e).syncAt with | some t => decide (n ≤ ticksTo t now) | none => true
  if begins then
    let byTrigger := s.on h F.PE_PROTO0_SYNCSRC e
    let due := if byTrigger then s.on h F.PE_STAT_TRGPEND e else after (s.f h F.PE_PROTO1_SYNCPER e * 200)
    if !due then s else
    let s1 := if byTrigger then s.setF h F.PE_STAT_TRGPEND 0 e else s
    (s1.drivePin h e pin true).modPe h e fun x => { x with slot := 0, syncAt := some now }
  else if after (s.f h F.PE_PROTO1_SYNCW e * 20) then s.drivePin h e pin false
  else s

def execPsi5SyncPulse (h : HalfId) (e : Fin 8) (begins : Bool) (s : State) : Host.Outcome State Fault Refusal :=
  .next { s with blk := psiSync h e.val begins s.blk }

end Sys2Proof.Machine
end

