-- ==== Sys2Proof/Machine/Events.lean ====
section
/-!
DEFINITION. Event channels and casks (chapter 4): insertion checks, arming, execution with its deferral, cancellation by
request, notices, and the timestamp counter's latched reads.
-/

namespace Sys2Proof.Machine

/-! ## The channel's own checks (rules R114, R117, R118, R121, R122) -/

/-- An action that a kind accepts (rule R114). -/
def accepts (kind action : Nat) : Bool :=
  (action == aMARK && decide (1 ≤ kind ∧ kind ≤ 5)) || (kind == 1 && action == aINJ_SHOT) ||
  (kind == 2 && (action == aEVO_SET || action == aEVO_CLEAR || action == aEVO_PULSE)) ||
  (kind == 3 && action == aCONV_WINDOW) || (kind == 4 && action == aPE_TRIGGER)

/-- PARAM lies in the range of its action (rule R118). -/
def paramOk (action param : Nat) : Bool :=
  if action = aINJ_SHOT || action = aEVO_PULSE then param != 0
  else if action = aCONV_WINDOW then decide (1 ≤ param ∧ param ≤ 65535)
  else if action = aPE_TRIGGER then true
  else param == 0

/-- Global target of a TARGET in a FRAME (rule R120). -/
def Block.globalTarget (s : Block) (h : HalfId) (target frame : Nat) : Nat :=
  if frame = 31 then target else fwd (s.cycleL h) (s.f h F.ANG_TDC_OFFSET frame) target

/-- The entry an insertion would make. -/
def Block.mkEntry (s : Block) (h : HalfId) (i : Insertion) : Entry :=
  { chan := i.chan, tag := i.tag, w0 := i.w0, w1 := i.w1, w2 := i.w2, g := s.globalTarget h i.w0.toNat (bits i.w1.toNat 7 3),
    order := (s.half h).nextOrd, written := true, fwdArm := false, armed := false, armAt := 0, frozen := 0, cmp := 0, tap := 0,
    late := false, deferral := none }

/-- Pending entries of a channel. -/
def Block.pend (s : Block) (h : HalfId) (k : Nat) : Nat := ((s.half h).cask.filter (fun e => e.chan == k)).length

/-- The target of an entry is already passed (rule R122). -/
def Block.pastTarget (s : Block) (h : HalfId) (g : Nat) : Bool :=
  decide (4 * fwd (s.modM h) (s.cmpAngle h g) (s.ang h) < s.modM h)

/-- The channel's checks in their order (rule R121): OK or the code of the first that fails. For a submission (`sub`) a slot freed
in this ANGCLK does not count yet (rule R166). -/
def Block.channelChecks (s : Block) (h : HalfId) (port : Nat) (e : Entry) (sub : Bool := false) : Nat :=
  let kind := s.f h F.EVC_CFG_KIND e.chan
  let formed := accepts kind e.action && !(decide (24 ≤ e.frame ∧ e.frame ≤ 30)) && bits e.w1.toNat 0 0 == 0 &&
    paramOk e.action e.param && decide (e.w0.toNat < s.cycleL h) &&
    !((s.half h).cask.any (fun x => x.chan == e.chan && x.tag == e.tag)) && !(e.static && port == 1)
  let seqr := s.f h F.EVC_CFG_OUT e.chan
  if !formed then cCONFIG_INVALID
  else if e.action = aINJ_SHOT && (7 < e.profile || !s.profConfigured h seqr e.profile) then cPROFILE_UNKNOWN
  else if !s.on h F.EVC_CFG_EN e.chan || !s.clockValid h || (s.injClass h e.chan && s.clockRev h) ||
      (!s.on h F.ANG_STAT_FULLRANGE && !s.on h F.EVC_CFG_CRANKMOD e.chan) then cPHASE
  else if s.usableSlots h e.chan ≤ s.pend h e.chan + (if sub then s.freedNow h e.chan true else 0) ||
      1024 ≤ (s.half h).evn.length + (s.half h).cask.length then cQUEUE_FULL
  else if s.pastTarget h e.g then cPAST
  else cOK

/-! ## Arming (rules R127 to R129, R135) -/

/-- The smallest spacing of a normal entry of the angle source's crank table (rule R128). -/
def Block.oneTooth (s : Block) (h : HalfId) : Nat :=
  let t := s.src h
  ((List.range (s.crkN h t)).filter (fun e => s.f h F.WTK_CRK1_CLASS t e == 0)).foldl
    (fun m e => if m = 0 || s.spacing h t e < m then s.spacing h t e else m) 0

/-- The arming lead of a channel (rule R128). -/
def Block.lead (s : Block) (h : HalfId) (k : Nat) : Nat :=
  if s.f h F.EVC_LEAD_LEAD k = 0 then s.oneTooth h else s.f h F.EVC_LEAD_LEAD k * 64

/-- The arm point of an entry (rule R128). -/
def Block.armPoint (s : Block) (h : HalfId) (e : Entry) : Nat :=
  let m := s.modM h
  (s.cmpAngle h e.g + m - s.lead h e.chan % m) % m

/-- A compare value is passed, or reached within the pipeline, at count `n` (rule R126, lookbehind 2^46). -/
def passedValue (n v : Nat) : Bool := decide (fwd (2 ^ 48) n v < 2) || decide (fwd (2 ^ 48) v n < 2 ^ 46)

/-- An entry armed now: the frozen time of rule R98, the compare value and tap of rule R135. -/
def Block.armed (s : Block) (h : HalfId) (e : Entry) : Entry :=
  let f := s.freeze h (s.cmpAngle h e.g)
  let out := e.action == aINJ_SHOT || e.action == aEVO_SET || e.action == aEVO_CLEAR || e.action == aEVO_PULSE
  let cmp := if out && decide (f.2 < 38) then (f.1 + 2 ^ 48 - 1) % 2 ^ 48 else f.1
  let tap := if out then (if f.2 < 38 then f.2 + 26 else f.2 - 38) else f.2
  { e with armed := true, armAt := (s.half h).tsc, frozen := f.1, cmp := cmp, tap := tap, late := passedValue (s.half h).tsc cmp }

/-- An entry of the cask is replaced. -/
def Block.replaceEntry (s : Block) (h : HalfId) (e : Entry) : Block :=
  s.modHalf h fun x => { x with cask := x.cask.map fun y => if y.chan == e.chan && y.tag == e.tag then e else y }

def Block.findEntry (s : Block) (h : HalfId) (k tag : Nat) : Option Entry :=
  (s.half h).cask.find? fun e => e.chan == k && e.tag == tag

/-- The entry is within its lead of the angle (rule R129). -/
def Block.withinLead (s : Block) (h : HalfId) (e : Entry) : Bool :=
  decide (fwd (s.modM h) (s.ang h) (s.cmpAngle h e.g) ≤ s.lead h e.chan)

/-- ENTRY_ARM: the forward movement passed the entry's arm point; an entry of the checker that is not yet written is
marked to arm in its write clock. None arms while reverse is declared, and an entry that a jump executed and an output holds
back is executed already (rule R133). The order in which entries of one ANGCLK arm shows nowhere: each is frozen from the last
accepted edge alone. -/
def entryArm (h : HalfId) (k tag : Nat) (s : Block) : Block :=
  match s.findEntry h k tag with
  | some e =>
    if e.armed || e.deferral.isSome || !s.clockValid h || s.clockRev h || !s.passed h (s.armPoint h e) false then s
    else s.replaceEntry h (if e.written then s.armed h e else { e with fwdArm := true })
  | none => s

def execEntryArm (h : HalfId) (chan : Fin 64) (tag : BitVec 10) (s : State) : Host.Outcome State Fault Refusal :=
  .next { s with blk := entryArm h chan.val tag.toNat s.blk }

/-! ## Slots (rule R125) -/

/-- A slot of the cask fails its parity check: it is marked faulty, and the spare takes its place at the next BOOT, or where it is
spoken for the slot is lost; the pool's event follows (rules R125, R456, R463). -/
def Block.slotFault (s : Block) (h : HalfId) (k : Nat) : Block :=
  let index := 64 * h.num + k
  let had := (s.half h).tal.replaced.contains (7, index)
  let s1 := (s.setF h F.EVC_STAT_SLOTFAULT 1 k).modHalf h fun x =>
    if had then { x with lost := x.lost.set k (nth 0 x.lost k + 1) } else { x with slotDue := x.slotDue.set k true }
  s1.spareEvent h 7 (!had) index 0 0 2 k 0

/-- An entry is written into its channel: a slot that fails its parity check is passed over, and the entry refused where
it was the only free one. Answers the code. -/
def Block.writeSlot (s : Block) (h : HalfId) (e : Entry) (parity : Bool) : Nat × Block :=
  let s1 := if parity then s.slotFault h e.chan else s
  if parity && s1.usableSlots h e.chan ≤ s.pend h e.chan then (cQUEUE_FULL, s1)
  else (cOK, s1.modHalf h fun x => { x with cask := x.cask ++ [e], nextOrd := x.nextOrd + 1 })

/-- The place of an entry in cask order (rule R123). -/
def Block.slotOf (s : Block) (h : HalfId) (e : Entry) : Nat :=
  (s.chanEntries h e.chan).findIdx fun y => y.tag == e.tag

/-- A whole insertion through a port in its classification clock: checks, write, arming within the lead, which waits while
reverse is declared (rules R121, R129, R133).
Answers the code and the slot. -/
def Block.insert (s : Block) (h : HalfId) (i : Insertion) (parity : Bool) : Nat × Nat × Block :=
  let e := s.mkEntry h i
  let code := s.channelChecks h i.port e
  if code = cOK then
    let e1 := if s.withinLead h e && !s.clockRev h then s.armed h e else e
    let r := s.writeSlot h e1 parity
    (r.1, if r.1 = cOK then r.2.slotOf h e1 else 0, r.2)
  else (code, 0, s)

/-- EVI_GO: the insertion of the port's words starts, or the write ends with a bus error while the port is BUSY, or where
the checker alone may write port 1 (rules R124, R151). -/
def eviGo (h : HalfId) (p k tag : Nat) (s : Block) : Block :=
  if s.on h F.EVI_RES_BUSY p || (p = 1 && activePhase (s.phase h)) then { s with busErr := true }
  else
    let i : Insertion := ⟨p, k, tag, s.w h .EVI_W p 0, s.w h .EVI_W p 1, s.w h .EVI_W p 2, none⟩
    let s1 := (s.setF h F.EVI_RES_BUSY 1 p).modHalf h fun x => { x with ports := x.ports ++ [i] }
    { s1 with busErr := false }

def execEviGo (h : HalfId) (p : Fin 2) (chan : Fin 64) (tag : BitVec 10) (s : State) : Host.Outcome State Fault Refusal :=
  s.access .EVI_GO h (eviGo h p.val chan.val tag.toNat s.blk)

/-- INSERTION_CLASSIFY: the port's insertion leaves its crossing queue. `parity`: the slot's parity check fails. SCP reports
a static insertion that the channel refuses as a schedule miss (rule R149). -/
def insertionClassify (h : HalfId) (p : Nat) (parity : Bool) (s : Block) : Block :=
  match (s.half h).ports.find? (fun i => i.port == p) with
  | none => s
  | some i =>
    let s0 := s.modHalf h fun x => { x with ports := x.ports.filter fun y => y.port != p }
    let r := s0.insert h i parity
    let s1 := r.2.2.setW h .EVI_RES (wd (r.2.1 * 256 + r.1)) p
    match i.static with
    | some (mode, idx) =>
      if r.1 = cOK then s1
      else s1.notice h 0xC4 [wd (r.1 * 65536 + i.chan * 1024 + i.tag), wd (mode * 2 ^ 20 + idx % 4096)]
    | none => s1

def execInsertionClassify (h : HalfId) (p : Fin 2) (parity : Bool) (s : State) : Host.Outcome State Fault Refusal :=
  .next { s with blk := insertionClassify h p.val parity s.blk }

/-! ## Execution (rules R131, R132, R134, R139, R161) -/

/-- The output a channel drives, where that has a trip latch. -/
def Block.chanOutput (s : Block) (h : HalfId) (k : Nat) : Option Output :=
  let out := s.f h F.EVC_CFG_OUT k
  match s.f h F.EVC_CFG_KIND k with
  | 1 => if hn : injBase h + out < 24 then some (.inj ⟨injBase h + out, hn⟩) else none
  | 2 => if he : evoBase h + out < 48 then some (.evo ⟨evoBase h + out, he⟩) else none
  | _ => none

/-- The output's trip latch is set (EVC_STAT.TRIPPED). -/
def Block.chanTripped (s : Block) (h : HalfId) (k : Nat) : Bool :=
  match s.chanOutput h k with
  | some o => s.tripped o
  | none => false

/-- The channel sees its output's trip latch through the synchroniser (rule R217). -/
def Block.tripSeen (s : Block) (h : HalfId) (k : Nat) : Bool :=
  match s.chanOutput h k with
  | some o => s.latchSeen o
  | none => false

/-- Arming error (rule R132), saturating at ±8,388,607. -/
def Block.armErr (s : Block) (h : HalfId) (e : Entry) : Word :=
  let m := s.modM h
  let d := fwd m (s.cmpAngle h e.g) (s.ang h)
  wd (field 24 (clampInt 8388607 (if 2 * d < m then (d : Int) else (d : Int) - m)))

/-- A minimum dwell since an end has not run out. -/
def Block.dwelling (s : Block) (h : HalfId) (e : Option Nat) : Bool :=
  match e with
  | some t => decide (ticksTo t (s.half h).tsc < s.f h F.ADM_DWELL_DWELL)
  | none => false

/-- The output of an INJ_SHOT or EVO_PULSE is busy (rule R161). -/
def Block.outputBusy (s : Block) (h : HalfId) (e : Entry) : Bool :=
  let out := s.f h F.EVC_CFG_OUT e.chan
  if e.action = aINJ_SHOT then
    let n := injBase h + out
    let b := s.bhsOf (n / 2)
    (s.shot n).isSome || s.dwelling h (nth none (s.half h).sq.lastEnd out) ||
      (!s.splitBoost n && !s.paired n && b.holder == some (1 - n % 2))
  else if e.action = aEVO_PULSE then
    (s.half h).pulses.any (fun p => p.line == out) || (s.injClass h e.chan && s.dwelling h (nth none (s.half h).evoEnd out))
  else false

/-- The level of an EVO line, while its half's output-enable line holds and its trip latch is clear (rules R192, R226). -/
def Block.evoLevel (s : Block) (h : HalfId) (line : Nat) (v : Bool) : Block :=
  if v && (!s.on .a (oeFld h) || s.on .a F.EVO_STAT_LATCH (evoBase h + line)) then s else s.setF .a F.EVO_STAT_LEVEL (bitOf v) (evoBase h + line)

/-- The level commands of an EVO line in the present ANGCLK, none where it has had none. -/
def Block.evoNow (s : Block) (h : HalfId) (line : Nat) : Option EvoCmd :=
  (nth none (s.half h).evoCmd line).filter fun c => c.stamp == (s.half h).tsc

/-- The last of an ANGCLK's level commands in the order of rule R131: returns of pulses first, then the actions in cask order as the
angle reached in that ANGCLK makes it. -/
def Block.evoLast (s : Block) (h : HalfId) (c : EvoCmd) : Option EvoLevel :=
  (sortBy (fun x => match x.g with | some g => s.keyOf h g + 1 | none => 0) (sortBy EvoLevel.ord c.cmds)).getLast?

/-- The last level command of the present ANGCLK decides the line's level. -/
def Block.evoSettle (s : Block) (h : HalfId) (line : Nat) : Block :=
  match (s.evoNow h line).bind (s.evoLast h) with
  | some x => s.evoLevel h line x.level
  | none => s

/-- A level command of an EVO line joins those of its ANGCLK (rule R131); no target stands for the return of a pulse. -/
def Block.evoCommand (s : Block) (h : HalfId) (line : Nat) (v : Bool) (g : Option Nat) (ord tap : Nat) : Block :=
  let c := (s.evoNow h line).getD ⟨(s.half h).tsc, s.on .a F.EVO_STAT_LEVEL (evoBase h + line), []⟩
  (s.modHalf h fun x => { x with evoCmd := x.evoCmd.set line (some { c with cmds := c.cmds ++ [⟨g, ord, tap, v⟩] }) }).evoSettle h line

/-- The tap at which an EVO line's edge of the present ANGCLK stands, where its level differs from that before. -/
def Block.evoEdge (s : Block) (h : HalfId) (line : Nat) : Option Nat :=
  (s.evoNow h line).bind fun c =>
    if c.was != s.on .a F.EVO_STAT_LEVEL (evoBase h + line) then (s.evoLast h c).map EvoLevel.tap else none

/-- What an action does at its execution (rule R118). -/
def Block.act (s : Block) (h : HalfId) (e : Entry) (code : Nat) : Block :=
  let out := s.f h F.EVC_CFG_OUT e.chan
  let a := e.action
  let tap := if e.deferral.isSome then 0 else e.tap
  if a = aINJ_SHOT then s.startShot (injBase h + out) e (code == cOK)
  else if a = aEVO_SET then s.evoCommand h out true (some e.g) e.order tap
  else if a = aEVO_CLEAR then s.evoCommand h out false (some e.g) e.order tap
  else if a = aEVO_PULSE then
    (s.evoCommand h out true (some e.g) e.order tap).modHalf h fun x =>
      { x with pulses := x.pulses ++ [⟨out, (x.tsc + e.param) % 2 ^ 48, tap⟩] }
  else if a = aCONV_WINDOW then s.openWindow h out e.tag e.frame e.static e.g e.param (code == cJUMPED)
  else if a = aPE_TRIGGER then s.peTrigger h out e.w2
  else s

/-- An injection-class event of a frame executed: it counts as fuel for the misfire judgement (rule R261), and the
revolution is no longer learned from (rule R105). -/
def Block.injected (s : Block) (h : HalfId) (e : Entry) : Block :=
  if s.injClass h e.chan then
    s.modHalf h fun x => { x with clk := { x.clk with revOk := false },
                                  atu := { x.atu with fuel := if e.frame < 24 then x.atu.fuel.set e.frame true else x.atu.fuel } }
  else s

/-- The entry executes: it leaves the cask, its action runs, and its outcome is recorded unless it is an on-time
completion with NOTIFY 0 (rules R134, R138, R139). -/
def Block.complete (s : Block) (h : HalfId) (e : Entry) (code lateness : Nat) : Block :=
  let rec' := s.outcome h e code (s.armErr h e) (capNat 0xFFFFFF lateness)
  let s1 := ((s.dropEntry h e).act h e code).injected h e
  let s2 := if code = cOK && !e.notify && e.action != aMARK then s1 else s1.pushRec h rec'
  let s3 := if code = cLATE then s2.count h F.EVC_CNT_LATES e.chan
    else if code = cJUMPED then s2.count h F.EVC_CNT_JUMPS e.chan else s2
  s3.creditNotice h s [e.chan]

/-- A deferral begins (rule R161): ADM_ERR.DEFER, and in SERVICE an envelope breach (rule R148). -/
def Block.defer (s : Block) (h : HalfId) (e : Entry) (code : Nat) : Block :=
  let s1 := (s.replaceEntry h { e with deferral := some ((s.half h).tsc, wd code) }).setF h F.ADM_ERR_DEFER 1
  s1.breach h

/-- The cause for which an entry is cancelled at its execution (rule R134). -/
def Block.execCancel (s : Block) (h : HalfId) (e : Entry) : Option Nat :=
  if s.tripSeen h e.chan then some cTRIP
  else if s.injClass h e.chan && s.clockRev h then some cREVERSE
  else if e.action = aINJ_SHOT && !s.profConfigured h (s.f h F.EVC_CFG_OUT e.chan) e.profile then some cHOST_CANCEL
  else none

/-- An entry that another cause took in this very ANGCLK reaches its execution: where it would be cancelled there too, the cause that
comes first is reported (rule R137). -/
def Block.recauseAt (s : Block) (h : HalfId) (p : Entry → Bool) : Block :=
  (s.goneNow h p).foldl (fun t e =>
    match s.execCancel h e with
    | some cause => t.recause h cause fun y => y.chan == e.chan && y.tag == e.tag
    | none => t) s

/-- LATENESS: the execution time minus the frozen time in ticks, 0 where the compare value, and so the execution, lies a
tick before the frozen time (rules R135, R139; log entry 86). -/
def lateBy (frozen now : Nat) : Nat := if fwd (2 ^ 48) frozen now < 2 ^ 47 then fwd (2 ^ 48) frozen now else 0

/-- The oldest due pulse of a line returns low (rule R131). -/
def Block.pulseReturn (s : Block) (h : HalfId) (line : Nat) : Block :=
  match (s.half h).pulses.find? (fun p => p.line == line && reached p.due (s.half h).tsc) with
  | some p =>
    (s.modHalf h fun y => { y with pulses := y.pulses.erase p, evoEnd := y.evoEnd.set line (some y.tsc) }).evoCommand h line false
      none 0 p.tap
  | none => s

/-- EVO_PULSE_RETURN: a pulse of the line that is due commands it low. -/
def evoPulseReturn (h : HalfId) (line : Nat) (s : Block) : Block := s.pulseReturn h line

def execEvoPulseReturn (h : HalfId) (line : Fin 24) (s : State) : Host.Outcome State Fault Refusal :=
  .next { s with blk := evoPulseReturn h line.val s.blk }

/-- Before an action of an EVO line, the returns that fall due on that line (rule R131). -/
def Block.returnsFirst (s : Block) (h : HalfId) (k : Nat) : Block :=
  if s.f h F.EVC_CFG_KIND k = 2 then
    (s.half h).pulses.foldl (fun t _ => t.pulseReturn h (s.f h F.EVC_CFG_OUT k)) s
  else s

/-- An entry reaches its execution with a code: it is cancelled, deferred, or completes. -/
def Block.execute (s : Block) (h : HalfId) (e : Entry) (code : Nat) : Block :=
  match s.execCancel h e with
  | some cause => (s.cancelOne h cause e).creditNotice h s [e.chan]
  | none =>
    let s1 := s.returnsFirst h e.chan
    if s1.outputBusy h e then s1.defer h e code
    else s1.complete h e code (if code = cLATE then lateBy e.frozen (s.half h).tsc else 0)

/-- The ANGCLK in which an armed entry matches (rules R126, R127): that of its compare value, or, where that was passed at arming,
the one after the write, and where it came within the write pipeline the last of that (DEDUCED, log entry 107). -/
def Entry.matchAt (e : Entry) : Nat :=
  if e.late then (e.armAt + (if e.cmp == (e.armAt + 1) % 2 ^ 48 then 2 else 1)) % 2 ^ 48 else e.cmp

/-- An armed entry has matched and not yet acted. -/
def Block.due (s : Block) (h : HalfId) (e : Entry) : Bool :=
  e.armed && e.written && e.deferral.isNone && decide (ticksTo e.matchAt (s.half h).tsc < 2 ^ 46)

/-- The due entries of a channel in the order in which they execute: by their ANGCLK, and within it in cask order (rule R131). -/
def Block.dueOrder (s : Block) (h : HalfId) (k : Nat) : List Entry :=
  let from' := ((s.half h).tsc + 2 ^ 48 - 2 ^ 46) % 2 ^ 48
  sortBy (fun e => ticksTo from' e.matchAt) ((s.chanEntries h k).filter (s.due h))

/-- One due entry executes: OK in the ANGCLK of its match, LATE where that lies behind (rule R147). -/
def Block.runDue (h : HalfId) (s : Block) (e : Entry) : Block :=
  match s.findEntry h e.chan e.tag with
  | some y => if s.due h y then s.execute h y (if y.late || y.matchAt != (s.half h).tsc then cLATE else cOK) else s
  | none => s

/-- ENTRY_EXECUTE: the timestamp counter matches the armed entry's compare value (rules R126, R130). Entries of the channel that
come before it in the order of rule R131 execute first. An entry that another cause took in this very ANGCLK reports the cause
that comes first (rule R137). -/
def entryExecute (h : HalfId) (k tag : Nat) (s : Block) : Block :=
  match s.findEntry h k tag with
  | some e =>
    if s.due h e then (((s.dueOrder h k).takeWhile fun y => y.tag != tag) ++ [e]).foldl (Block.runDue h) s else s
  | none => s.recauseAt h fun y => y.chan == k && y.tag == tag && s.due h y

def execEntryExecute (h : HalfId) (chan : Fin 64) (tag : BitVec 10) (s : State) : Host.Outcome State Fault Refusal :=
  .next { s with blk := entryExecute h chan.val tag.toNat s.blk }

/-- DEFERRED_EXECUTE: the output of a deferred entry is free; the notice carries LATE with its lateness from the frozen
time, or JUMPED with the deferral from the jump (rule R161). -/
def deferredExecute (h : HalfId) (k tag : Nat) (s : Block) : Block :=
  match s.findEntry h k tag with
  | some e =>
    match e.deferral with
    | some (since, code) =>
      match s.execCancel h e with
      | some cause => (s.cancelOne h cause e).creditNotice h s [e.chan]
      | none =>
        let s1 := s.returnsFirst h k
        let now := (s.half h).tsc
        if s1.outputBusy h e then s1
        else if code.toNat = cJUMPED then s1.complete h e cJUMPED (ticksTo since now)
        else s1.complete h e cLATE (lateBy e.frozen now)
    | none => s
  | none => s.recauseAt h fun y => y.chan == k && y.tag == tag && y.deferral.isSome

def execDeferredExecute (h : HalfId) (chan : Fin 64) (tag : BitVec 10) (s : State) : Host.Outcome State Fault Refusal :=
  .next { s with blk := deferredExecute h chan.val tag.toNat s.blk }

/-- The angle of the present ANGCLK has moved by a jump: the records and EVO levels that it has given so far take the order which
that angle makes (rules R131, R140). -/
def Block.reorder (s : Block) (h : HalfId) : Block :=
  (List.range 24).foldl (fun t k => t.evoSettle h k) (s.modHalf h fun x => { x with evn := s.sortRecs h x.evn })

/-- A jump executes with JUMPED every unarmed entry whose target lies in its span (rule R133). -/
def Block.jumpExecute (s : Block) (h : HalfId) : Block :=
  match (s.half h).clk.moved with
  | some mv =>
    if mv.jump && !mv.rev then
      let hit (e : Entry) : Bool := !e.armed && e.written && e.deferral.isNone && s.passed h (s.cmpAngle h e.g) false
      (s.inOrder h ((s.half h).cask.filter hit)).foldl (fun t e => t.execute h e cJUMPED) ((s.reorder h).recauseAt h hit)
    else s
  | none => s

/-! ## Cancellation by request (rules R136, R142) -/

/-- A cancel command reaches an entry: it does not execute by this ANGCLK plus 2. -/
def Block.reachable (s : Block) (h : HalfId) (e : Entry) : Bool :=
  e.deferral.isSome || !e.armed || !(e.late || decide (ticksTo (s.half h).tsc e.cmp ≤ 2) ||
    decide (ticksTo e.cmp (s.half h).tsc < 2 ^ 46))

/-- A command of the channel is in progress: the 2 ANGCLK of rule R136 have not gone since its write (rule R142). The command
crosses in no time, and its result stands from its write on (DESIGN CHOICE, log entry 108). -/
def Block.cmdBusy (s : Block) (h : HalfId) (k : Nat) : Bool :=
  match nth none (s.half h).cmdDone k with
  | some t => let d := ticksTo (s.half h).tsc t; decide (0 < d ∧ d ≤ 2)
  | none => false

/-- A command of the channel starts, or, with one in progress, ends with a bus error. -/
def Block.startCmd (s : Block) (h : HalfId) (k : Nat) (t : Block) : Block :=
  if s.cmdBusy h k then { s with busErr := true }
  else { (t.modHalf h fun x => { x with cmdDone := x.cmdDone.set k (some ((x.tsc + 2) % 2 ^ 48)) }) with busErr := false }

/-- The entries of a channel that `p` names and a cancel reaches are cancelled; COUNT and CODE follow. -/
def Block.cancelCmd (s : Block) (h : HalfId) (k : Nat) (p : Entry → Bool) (tagged : Bool) : Block :=
  let hit := (s.half h).cask.filter fun e => e.chan == k && p e && s.reachable h e
  let s1 := s.cancelWhere h cHOST_CANCEL fun e => e.chan == k && p e && s.reachable h e
  s.startCmd h k (s1.setW h .EVC_CMDRES (wd (hit.length * 256 + (if tagged && hit.isEmpty then cPAST else cOK))) k)

def execCancelTag (h : HalfId) (chan : Fin 64) (tag : BitVec 10) (s : State) : Host.Outcome State Fault Refusal :=
  s.access .EVC_CMD h (s.blk.cancelCmd h chan.val (fun e => e.tag == tag.toNat) true)

def execCancelAll (h : HalfId) (chan : Fin 64) (s : State) : Host.Outcome State Fault Refusal :=
  s.access .EVC_CMD h (s.blk.cancelCmd h chan.val (fun _ => true) false)

/-- EVC_CMD operation 0b11. -/
def Block.clearEvc (s : Block) (h : HalfId) (k : Nat) : Block :=
  s.startCmd h k ((s.clearW h .EVC_CNT k).setW h .EVC_CMDRES 0 k)

def execEvcClearCounters (h : HalfId) (chan : Fin 64) (s : State) : Host.Outcome State Fault Refusal :=
  s.access .EVC_CMD h (s.blk.clearEvc h chan.val)

/-- EVC_CFG.EN is cleared: every pending entry of the channel is cancelled. -/
def Block.disableChan (s : Block) (h : HalfId) (k : Nat) : Block :=
  { (s.setF h F.EVC_CFG_EN 0 k).cancelWhere h cHOST_CANCEL (fun e => e.chan == k) with busErr := false }

def execChannelDisable (h : HalfId) (chan : Fin 64) (s : State) : Host.Outcome State Fault Refusal :=
  s.access .EVC_CFG h (s.blk.disableChan h chan.val)

/-! ## The notice queue and latched reads (rules R138, R141) -/

/-- EVN_POP removes the oldest record. -/
def Block.popNotice (s : Block) (h : HalfId) : Block :=
  { (s.modHalf h fun x => { x with evn := x.evn.drop 1 }) with busErr := false }

def execNoticePop (h : HalfId) (s : State) : Host.Outcome State Fault Refusal := s.access .EVN_POP h (s.blk.popNotice h)

/-- A read of TSC_LO latches the high half. -/
def Block.readTscLo (s : Block) (h : HalfId) : Block :=
  { s.setW h .TSC_HI (wd ((s.half h).tsc / 2 ^ 24)) with busErr := false, busData := wd (s.tsLow h) }

def execTscLoRead (h : HalfId) (s : State) : Host.Outcome State Fault Refusal := s.access .TSC_LO h (s.blk.readTscLo h)

/-- A read of TSC_XDIFF latches TSC_XDIFFH. -/
def Block.readXdiff (s : Block) (h : HalfId) : Block :=
  let d := field 48 (s.half h).xdiff
  { s.setW h .TSC_XDIFFH (wd (d / 2 ^ 24)) with busErr := false, busData := wd d }

def execTscXdiffRead (h : HalfId) (s : State) : Host.Outcome State Fault Refusal := s.access .TSC_XDIFF h (s.blk.readXdiff h)

/-- The compare value of the earliest armed entry of a channel, 0 when none is armed. -/
def Block.headTime (s : Block) (h : HalfId) (k : Nat) : Nat :=
  let now := (s.half h).tsc
  let key (e : Entry) : Nat := fwd (2 ^ 48) ((now + 2 ^ 48 - 2 ^ 46) % 2 ^ 48) e.cmp
  match sortBy key ((s.half h).cask.filter fun e => e.chan == k && e.armed) with
  | e :: _ => e.cmp
  | [] => 0

/-- A read of EVC_HEADT_LO latches EVC_HEADT_HI. -/
def Block.readHeadt (s : Block) (h : HalfId) (k : Nat) : Block :=
  let t := s.headTime h k
  { s.setW h .EVC_HEADT_HI (wd (t / 2 ^ 24)) k with busErr := false, busData := wd t }

def execEvcHeadtLoRead (h : HalfId) (chan : Fin 64) (s : State) : Host.Outcome State Fault Refusal :=
  s.access .EVC_HEADT_LO h (s.blk.readHeadt h chan.val)

end Sys2Proof.Machine
end

