-- ==== Sys2Proof/Machine/Admission.lean ====
section
/-!
DEFINITION. The admission checker (chapter 5): the conservative speed, the bookings of the ledgers, checks 1 to 17, and
the submission's two clocks.
-/

namespace Sys2Proof.Machine

/-! ## Speeds (rule R153) -/

/-- Present speed in AU per tick. -/
def Block.presentRate (s : Block) (h : HalfId) : Frac := (s.half h).clk.step

/-- Speed at N_MAX rpm in AU per tick: 200 MHz ANGCLK, 5,898,240 AU per revolution. -/
def rateAt (rpm : Nat) : Frac := frac ((rpm * revAU : Nat) : Int) 12000000000

/-- A speed raised by 1 + RATE_MAX and capped at N_MAX where that is not 0. -/
def raised (present : Frac) (nmax rate : Nat) : Frac :=
  let r := fracMul present ⟨4096 + rate, 4096⟩
  if nmax = 0 then r else fracMin r (rateAt nmax)

/-- The conservative speed. -/
def Block.consRate (s : Block) (h : HalfId) : Frac :=
  raised (s.presentRate h) (s.envN h) (s.envR h)

/-! ## Bookings (rules R154, R202, R208, R210, R233, R239) -/

/-- One event as the ledgers see it; angles are forward distances from A in AU, negative where A has passed. -/
structure Book where
  action : Nat
  out    : Nat
  lo     : Frac      -- earliest start
  hi     : Frac      -- latest start
  e      : Nat       -- E or the width, in ticks
  occ    : Nat       -- ticks for which it occupies its output
  boost  : Nat       -- TB_MAX + 40
  eb     : Nat       -- boost energy in µJ
  tol    : Nat       -- tolerance of its class in ticks
  span   : Nat       -- a window's angle from its first to its last point
  ran    : Option Nat -- the instant at which a running shot started
  deriving DecidableEq, Repr

/-- A shot or pulse of the profile, class and length given. -/
def Block.bookAt (s : Block) (h : HalfId) (action chan frame prof tol param : Nat) (lo hi : Frac) : Book :=
  let out := s.f h F.EVC_CFG_OUT chan
  let pw (w : Nat) : Nat := s.profW h out prof w
  let cyl := (if frame = 31 then s.w h .PCV_CYLG else s.w h .PCV_CYL frame).toNat
  { action := action, out := out, lo := lo, hi := hi, e := param,
    occ := if action = aINJ_SHOT then param + pw 6 else if action = aEVO_PULSE then param else 0,
    boost := pw 1 + 40, eb := pw 7, tol := s.f h F.EVC_TOL_TOL tol,
    span := pointAt (bits cyl 7 0) (param - 1), ran := none }

/-- Signed distance from A to the compared target of an entry: ahead, or behind by less than M / 4. -/
def Block.signedDist (s : Block) (h : HalfId) (g : Nat) : Int :=
  let m := s.modM h
  let d := fwd m (s.ang h) (s.cmpAngle h g)
  if 4 * (m - d) < m then (d : Int) - m else d

def Block.bookEntry (s : Block) (h : HalfId) (e : Entry) : Book :=
  let d : Frac := ⟨if e.deferral.isSome then 0 else s.signedDist h e.g, 1⟩
  s.bookAt h e.action e.chan e.frame e.profile e.tolClass e.param d d

/-- The certified use of one record in the cycle `k` cycles on, at the extremes of its margins. -/
def Block.bookRec (s : Block) (h : HalfId) (k : Int) (r : ERec) : Book :=
  let g : Int := (s.globalTarget h r.w0.toNat r.frame : Int) + k * s.cycleL h - s.ang h
  s.bookAt h r.action r.chan r.frame r.profile r.tol (r.w2.toNat + r.ehi * 16) ⟨g - r.alo * 64, 1⟩ ⟨g + r.ahi * 64, 1⟩

/-- Static bookings: the records that fill the cycle before, the present cycle and the two that come. -/
def Block.staticBooks (s : Block) (h : HalfId) : List Book :=
  let x := (s.half h).sched
  if !s.on h F.ANG_STAT_FULLRANGE then [] else
  (x.recs x.prevSrc).map (s.bookRec h (-1)) ++ (x.recs x.curSrc).map (s.bookRec h 0) ++
    (x.recs x.nextSrc).map (s.bookRec h 1) ++ (x.recs x.nextSrc).map (s.bookRec h 2)

/-- A running dynamic shot of a sequencer, placed where it started at the conservative speed. -/
def Block.bookShot (s : Block) (h : HalfId) (k : Nat) : Option Book :=
  (nth none (s.half h).sq.shots k).bind fun sh =>
    if !sh.dyn then none else
    let back := fracMul (s.consRate h) (fracOf (ticksTo sh.start (s.half h).tsc))
    let d : Frac := ⟨-back.num, back.den⟩
    some { action := aINJ_SHOT, out := k, lo := d, hi := d, e := sh.e, occ := sh.e + s.profW h k sh.prof 6,
           boost := s.profW h k sh.prof 1 + 40, eb := s.profW h k sh.prof 7, tol := s.f h F.EVC_TOL_TOL 0, span := 0,
           ran := some (sh.gntAt.getD sh.start) }

/-- The ended shot of a sequencer and the ended pulse of a line, as a booking of no length that the dwell follows; and the
running pulses. -/
def Block.bookEnds (s : Block) (h : HalfId) : List Book :=
  let x := s.half h
  let at' (t : Nat) : Frac := let b := fracMul (s.consRate h) (fracOf (ticksTo t x.tsc)); ⟨-b.num, b.den⟩
  let mk (action out : Nat) (d : Frac) (occ : Nat) : Book := ⟨action, out, d, d, occ, occ, 0, 0, 0, 0, none⟩
  (x.sq.lastEnd.zipIdx.filterMap fun p => p.1.map fun t => mk aINJ_SHOT p.2 (at' t) 0) ++
  (x.evoEnd.zipIdx.filterMap fun p => p.1.map fun t => mk aEVO_PULSE p.2 (at' t) 0) ++
  x.pulses.map (fun p => mk aEVO_PULSE p.line ⟨0, 1⟩ (if reached p.due x.tsc then 0 else ticksTo x.tsc p.due))

/-- Open windows of dynamic entries on a combustion converter, in angle: point 0 lies behind A, or less than M / 4 ahead of it
where the window opened early. What a static entry opened is held by the static bookings (rule R154). -/
def Block.bookWindows (s : Block) (h : HalfId) (k : Nat) : List Book :=
  let m := s.modM h
  (s.conv h k).wins.filterMap fun w => w.bind fun w =>
    if w.static then none else
    let ahead := fwd m (s.ang h) (s.cmpAngle h w.g)
    let d : Frac := ⟨if 4 * ahead < m then (ahead : Int) else (ahead : Int) - m, 1⟩
    some ⟨aCONV_WINDOW, k, d, d, 0, 0, 0, 0, 0, pointAt w.space (w.count - 1), none⟩

/-- All bookings a check is made against, with the dynamic entries given. -/
def Block.books (s : Block) (h : HalfId) (dyn : List Entry) : List Book :=
  s.staticBooks h ++ dyn.map (s.bookEntry h) ++ (List.range 12).filterMap (s.bookShot h)

/-! ## Checks 7 to 11 (rules R152, R202, R208 to R210, R233, R239) -/

/-- The end of an event's occupation at the conservative speed. -/
def Book.finish (c : Frac) (b : Book) : Frac := fracAdd b.hi (fracMul c (fracOf b.occ))

/-- A gap of at least `dwell` ticks lies between two events, whichever comes first. -/
def gapOk (c : Frac) (dwell : Nat) (x y : Book) : Bool :=
  let w := fracMul c (fracOf dwell)
  fracLe (fracAdd (x.finish c) w) y.lo || fracLe (fracAdd (y.finish c) w) x.lo

/-- Check 7. -/
def Block.check7 (s : Block) (h : HalfId) (chan : Nat) (x : Book) (bs : List Book) : Bool :=
  let c := s.consRate h
  let timed := x.action == aINJ_SHOT || x.action == aEVO_PULSE
  let dwell := if x.action = aINJ_SHOT || s.injClass h chan then s.f h F.ADM_DWELL_DWELL else 0
  !timed || (bs ++ s.bookEnds h).all fun b => !(b.action == x.action && b.out == x.out) || gapOk c dwell x b

/-- The delay that the boost of the earlier shot can impose on the later one, against the later one's class (rule R202). -/
def delayOk (c : Frac) (earlier later : Book) : Bool :=
  let gap := fracSub later.lo earlier.hi
  let gap0 := if fracLt gap ⟨0, 1⟩ then ⟨0, 1⟩ else gap
  fracLe (fracMul c (fracOf earlier.boost)) (fracAdd gap0 (fracMul c (fracOf later.tol)))

/-- Check 8. -/
def Block.check8 (s : Block) (h : HalfId) (x : Book) (bs : List Book) : Bool :=
  let n := injBase h + x.out
  let c := s.consRate h
  x.action != aINJ_SHOT || s.paired n ||
    bs.all fun b =>
      if b.action != aINJ_SHOT || b.out != (if x.out % 2 = 0 then x.out + 1 else x.out - 1) then true
      else if s.splitBoost n then
        (fracLt b.hi x.lo || delayOk c x b) && (fracLt x.hi b.lo || delayOk c b x)
      else fracLe (x.finish c) b.lo || fracLe (b.finish c) x.lo

/-- The grid slots of width `w` ticks from an event's earliest execution at the conservative speed to its predicted
execution at the present speed (rule R154). -/
def Block.slots (s : Block) (h : HalfId) (w : Nat) (b : Book) : Int × Int :=
  let c := s.consRate h
  let p := s.presentRate h
  let t (d r : Frac) : Int := if r.num = 0 then 0 else fracFloor (fracDiv d r)
  let ts := [t b.lo c, t b.lo p, t b.hi c, t b.hi p]
  let lo := ts.foldl (fun m x => if x < m then x else m) (t b.lo c)
  let hi := ts.foldl (fun m x => if m < x then x else m) (t b.lo c)
  (slotNo w (s.half h).tsc lo, slotNo w (s.half h).tsc hi)

/-- What a ledger holds in one grid slot: the amounts whose spans of slots contain it. -/
def heldIn (l : List ((Int × Int) × Nat)) (j : Int) : Nat := total (fun p => if p.1.1 ≤ j ∧ j ≤ p.1.2 then p.2 else 0) l

/-- An amount measured in one slot of the grid. -/
def Use.held (w now : Nat) (u : Use) : (Int × Int) × Nat := ((slotNear w now u.slot, slotNear w now u.slot), u.amount)

/-- The width of a boost-budget interval in ticks (rule R208). -/
def Block.bintTicks (s : Block) (h : HalfId) : Nat := s.f h F.SEQ_BINT_BINT * 200

/-- The boost energy ledger of a half's BST: bookings, what running shots draw, what ended ones drew (rules R154, R208). -/
def Block.energyLedger (s : Block) (h : HalfId) (bs : List Book) : List ((Int × Int) × Nat) :=
  let w := s.bintTicks h
  let now := (s.half h).tsc
  ((bs.filter fun b => b.action == aINJ_SHOT).map fun b =>
    match b.ran with
    | some t => ((slotNear w now (t / w), slotNear w now (t / w)), b.eb)
    | none => (s.slots h w b, b.eb)) ++
  (s.half h).sq.energy.map (Use.held w now)

/-- The duty ledger of a sequencer: bookings, the on-time of its running shot slot by slot, that of ended ones (rules R154,
R210). -/
def Block.dutyLedger (s : Block) (h : HalfId) (k : Nat) (bs : List Book) : List ((Int × Int) × Nat) :=
  let now := (s.half h).tsc
  ((bs.filter fun b => b.action == aINJ_SHOT && b.out == k).flatMap fun b =>
    match (nth none (s.half h).sq.shots k).filter fun _ => b.ran.isSome with
    | some sh => (spread 320000 sh.start 64 b.e).map fun p => Use.held 320000 now ⟨k, p.1, p.2⟩
    | none => [(s.slots h 320000 b, b.e)]) ++
  ((s.half h).sq.duty.filter fun u => u.seqr == k).map (Use.held 320000 now)

/-- Check 9: no budget interval of the half's BST would hold more than BUDGET. -/
def Block.check9 (s : Block) (h : HalfId) (x : Book) (bs : List Book) : Bool :=
  if x.action != aINJ_SHOT then true else
  let mine := s.slots h (s.bintTicks h) x
  let held := s.energyLedger h bs
  (List.range (mine.2 + 1 - mine.1).toNat).all fun (i : Nat) =>
    decide (x.eb + heldIn held (mine.1 + i) ≤ s.f h F.SEQ_BUD_BUDGET)

/-- Check 10: every duty window with a touched slot holds no more than DLIM. -/
def Block.check10 (s : Block) (h : HalfId) (x : Book) (bs : List Book) : Bool :=
  if x.action != aINJ_SHOT then true else
  let mine := s.slots h 320000 x
  let held := (mine, x.e) :: s.dutyLedger h x.out bs
  let limit := s.f h F.SEQ_DLIM_DLIM x.out * 200
  (List.range (mine.2 + 64 - mine.1).toNat).all fun (i : Nat) =>
    decide (total (fun (k : Nat) => heldIn held (mine.1 + i - 63 + k)) (List.range 64) ≤ limit)

/-- Fewer than `n` of the bookings hold at every instant of a span. -/
def fewer (n : Nat) (lo hi : Frac) (spans : List (Frac × Frac)) : Bool :=
  let points := lo :: (spans.map Prod.fst).filter fun p => fracLe lo p && fracLe p hi
  points.all fun p => decide ((spans.filter fun q => fracLe q.1 p && fracLe p q.2).length < n)

/-- Check 11: a slot of the converter is free over the whole span; a converter marked FAILED, or without ADCCLK, has none (rules R245,
R446). -/
def Block.check11 (s : Block) (h : HalfId) (x : Book) (bs : List Book) : Bool :=
  let c := s.consRate h
  if x.action = aINJ_SHOT then
    let k := servedBy x.out
    !s.slotless h k &&
      fewer 4 x.lo (x.finish c) ((bs.filter fun b => b.action == aINJ_SHOT && servedBy b.out == k).map fun b => (b.lo, b.finish c))
  else if x.action = aCONV_WINDOW then
    !s.slotless h x.out &&
      fewer 4 x.lo (fracAdd x.hi (fracOf x.span))
        (((bs.filter fun b => b.action == aCONV_WINDOW && b.out == x.out) ++ s.bookWindows h x.out).map fun b =>
          (b.lo, fracAdd b.hi (fracOf b.span)))
  else true

/-- Checks 7 to 11 of an entry against bookings: OK or the code of the first that fails. -/
def Block.checks7to11 (s : Block) (h : HalfId) (e : Entry) (bs : List Book) : Nat :=
  let x := s.bookEntry h e
  if !s.check7 h e.chan x bs then cMIN_DWELL
  else if !s.check8 h x bs then cSHARED_HS_OVERLAP
  else if !s.check9 h x bs then cBOOST_BUDGET
  else if !s.check10 h x bs then cDUTY_LIMIT
  else if !s.check11 h x bs then cCONVERTER_SLOT
  else cOK

/-! ## The whole order (rules R151, R152, R159, R487) -/

/-- Predicted time to a target at forward distance `d`, in ticks (rule R153). -/
def Block.timeTo (s : Block) (h : HalfId) (d : Nat) : Frac := fracDiv (fracOf d) (s.presentRate h)

/-- A submission is within credit (rule R159). -/
def Block.inCredit (s : Block) (h : HalfId) (e : Entry) : Bool :=
  decide (1 + s.freedNow h e.chan false ≤ s.creditNow h e.chan) &&
    (!s.clockValid h || fracLe (s.timeTo h (fwd (s.modM h) (s.ang h) (s.cmpAngle h e.g))) (fracOf (s.f h F.ADM_CRH_HORIZON * 200)))

/-- Pending dynamic entries of a half. -/
def Block.dynEntries (s : Block) (h : HalfId) : List Entry := (s.half h).cask.filter fun e => !e.static

/-- Checks 1 to 17 of a submission, in their order. -/
def Block.admission (s : Block) (h : HalfId) (e : Entry) : Nat :=
  let ph := s.phase h
  let credit := ph == phCRANK || ph == phRECOVERY || ph == phTEST
  let ahead := let v := s.f h F.ADM_MINAHEAD_MINAHEAD; if v < 400 then 400 else v
  let seqr := s.f h F.EVC_CFG_OUT e.chan
  if !activePhase ph then cPHASE
  else if s.helm h = 2 then cNOT_HELM
  else if credit && !s.inCredit h e then cNO_CREDIT
  else if e.action = aINJ_SHOT && (7 < e.profile || !s.profConfigured h seqr e.profile) then cPROFILE_UNKNOWN
  else if ph = phSERVICE && s.usableSlots h e.chan ≤ s.dynPending h e.chan + s.freedNow h e.chan false + s.reserve h e.chan then cQUEUE_FULL
  else if !s.clockValid h then s.channelChecks h 1 e true
  else if ph = phSERVICE && fracLt (s.timeTo h (fwd (s.modM h) (s.ang h) (s.cmpAngle h e.g))) (fracOf ahead) then cPAST
  else
    let c := s.checks7to11 h e (s.books h (s.dynEntries h))
    if c = cOK then s.channelChecks h 1 e true else c

/-- A refused submission: its code, counted, and remembered. -/
def Block.refuse (s : Block) (h : HalfId) (code k tag : Nat) : Block :=
  ((s.setW h .ADM_RES (wd code)).count h F.ADM_CNT_REFUSALS).setW h .ADM_LASTR (wd (code * 65536 + k * 1024 + tag))

/-- The write clock: the words enter the reserved slot and the entry arms where rule R129 says so. An entry cancelled in
between is not written; its submission stands in ADM_RES with the slot reserved at the sampling clock and counts as admitted
(DESIGN CHOICE, log entry 109). Answers the code. -/
def Block.writeClock (s : Block) (h : HalfId) (parity : Bool) : Nat × Block :=
  match (s.half h).cask.find? (fun e => !e.written) with
  | none => (cOK, (s.setF h F.ADM_RES_BUSY 0).count h F.ADM_CNT_ADMITS)
  | some e =>
    let s1 := if parity then s.slotFault h e.chan else s
    if parity && s1.usableSlots h e.chan < s1.pend h e.chan then
      (cQUEUE_FULL, (s1.dropEntry h e).refuse h cQUEUE_FULL e.chan e.tag)
    else
      let e1 := { e with written := true }
      let s2 := s1.replaceEntry h (if e.fwdArm && !s1.clockRev h && s1.clockValid h then s1.armed h e1 else e1)
      (cOK, (s2.setW h .ADM_RES (wd (s2.slotOf h e1 * 256))).count h F.ADM_CNT_ADMITS)

/-- ADM_GO: a submission starts, or the write ends with a bus error while one is in progress. -/
def admGo (h : HalfId) (k tag : Nat) (s : Block) : Block :=
  if s.on h F.ADM_RES_BUSY then { s with busErr := true }
  else
    let i : Insertion := ⟨1, k, tag, s.w h .ADM_W 0, s.w h .ADM_W 1, s.w h .ADM_W 2, none⟩
    { (s.setF h F.ADM_RES_BUSY 1).modHalf h (fun x => { x with sub := some i }) with busErr := false }

def execAdmGo (h : HalfId) (chan : Fin 64) (tag : BitVec 10) (s : State) : Host.Outcome State Fault Refusal :=
  s.access .ADM_GO h (admGo h chan.val tag.toNat s.blk)

/-- ADMISSION_INSERT_WRITE: the checker's insertion leaves its crossing queue. -/
def admissionInsertWrite (h : HalfId) (parity : Bool) (s : Block) : Block :=
  if s.on h F.ADM_RES_BUSY && (s.half h).sub.isNone then (s.writeClock h parity).2 else s

def execAdmissionInsertWrite (h : HalfId) (parity : Bool) (s : State) : Host.Outcome State Fault Refusal :=
  .next { s with blk := admissionInsertWrite h parity s.blk }

/-- ADM_CLR.CLRCNT clears ADM_CNT. -/
def execAdmClearCounters (h : HalfId) (s : State) : Host.Outcome State Fault Refusal :=
  s.access .ADM_CLR h { s.blk.clearW h .ADM_CNT with busErr := false }

end Sys2Proof.Machine
end

