-- ==== Sys2Proof/Machine/ConfigImages.lean ====
section
/-!
DEFINITION. Configuration images as words (chapter 18): their header and records, the value a register has in a mode's
effective configuration, and the registers an overlay touches.
-/

namespace Sys2Proof.Machine

/-! ## Words of an image (rules R395 to R398) -/

def cfgHalf (ws : List Word) : Nat := bits (iw ws 1) 15 12
def cfgMode (ws : List Word) : Nat := bits (iw ws 1) 11 8
def cfgClass (ws : List Word) : Nat := bits (iw ws 1) 7 4
def cfgSeqOf (ws : List Word) : Nat := iw ws 3
def cfgCrcOf (ws : List Word) : Nat := bits (iw ws 4) 7 0 * 2 ^ 24 + iw ws 5
def cfgNRec (ws : List Word) : Nat := iw ws 6

/-- The CRC of rule R397, recomputed. -/
def cfgCrcCalc (ws : List Word) : Nat := crc32 ((ws.set 4 0).set 5 0)

/-- A record: operation, registers written, address step, first address and data words. -/
structure CRec where
  op     : Nat
  count  : Nat
  stride : Nat
  low    : Nat
  addr   : Nat
  data   : List Word
  deriving DecidableEq, Repr

/-- Data words of a record of an operation and a count. -/
def recLen (op count : Nat) : Nat := if op = 0 then count else if op = 1 then 1 else 2

/-- The records of a list of words, and the ADDR of a record cut short behind them, 0 where its ADDR word is missing; none where they
fill it exactly. -/
def parseRecs : Nat → List Word → List CRec × Option Nat
  | 0, ws => ([], if ws.isEmpty then none else some 0)
  | _, [] => ([], none)
  | _, [_] => ([], some 0)
  | fuel + 1, w0 :: w1 :: rest =>
    let w := w0.toNat
    let op := bits w 23 22
    let n := recLen op (bits w 21 16 + 1)
    if rest.length < n then ([], some w1.toNat)
    else
      let r := parseRecs fuel (rest.drop n)
      (⟨op, bits w 21 16 + 1, bits w 15 8, bits w 7 0, w1.toNat, rest.take n⟩ :: r.1, r.2)

def cfgRecs (ws : List Word) : List CRec := (parseRecs ws.length (ws.drop 8)).1

/-- One register write of a record: address, mask, value. -/
structure CWrite where
  addr : Nat
  mask : Nat
  val  : Nat
  deriving DecidableEq, Repr

/-- Register `i` of a record and what is written to it (rule R398). -/
def CRec.writes (r : CRec) : List CWrite :=
  (List.range r.count).map fun i =>
    let a := r.addr + i * r.stride
    if r.op = 2 then ⟨a, iw r.data 0, iw r.data 1⟩
    else ⟨a, 0xFFFFFF, if r.op = 1 then iw r.data 0 else iw r.data i⟩

def cfgWrites (ws : List Word) : List CWrite := (cfgRecs ws).flatMap CRec.writes

/-- The registers an image touches, each once. -/
def touched (ws : List Word) : List Nat := ((cfgWrites ws).map CWrite.addr).eraseDups

/-! ## Registers by address -/

/-- The stored word of the register at an address. -/
def Block.atAddr (s : Block) (a : Nat) : Nat := (memGet (regReset a) s.regs a).toNat

def Block.putAddr (s : Block) (a v : Nat) : Block := { s with regs := memSet (regReset a) s.regs a (wd v) }

/-- The bits of the register at an address with access RW (rule R16). -/
def rwBits (a : Nat) : Nat :=
  match findReg a with
  | some (r, _) => r.info.rw
  | none => 0

def CWrite.onto (rw : Nat) (old : Nat) (w : CWrite) : Nat := mix old (w.mask &&& rw) w.val

/-! ## Effective configurations ("Modes and overlays", rule R411) -/

/-- The image of the overlay of a mode, empty where there is none. -/
def Hip.ovl (x : Hip) (m : Nat) : List Word :=
  match x.overlays.find? (fun o => o.1 == m) with
  | some o => o.2.2
  | none => []

/-- A mode is configured: it is the base, or its overlay is held. -/
def Hip.hasMode (x : Hip) (m : Nat) : Bool := m == 0 || x.overlays.any (fun o => o.1 == m)

/-- What a register holds in a base that does not write it: its reset value, or where the commit keeps it as it stood, what it stood
at then (rules R401, R411; log entry 130). -/
def Block.baseStart (s : Block) (h : HalfId) (a : Nat) : Word :=
  match findReg a with
  | some (.ATU_FB, _, c, _) => nth 0 (s.half h).hip.keptFb c
  | _ => regReset a

/-- The value the base gives the RW bits of a register. -/
def Block.baseVal (s : Block) (h : HalfId) (a : Nat) : Nat :=
  ((cfgWrites (s.half h).hip.base).filter fun w => w.addr == a).foldl (CWrite.onto (rwBits a)) (s.baseStart h a).toNat

/-- The value of the RW bits of a register in the effective configuration of a mode. -/
def Block.modeVal (s : Block) (h : HalfId) (m a : Nat) : Nat :=
  ((cfgWrites ((s.half h).hip.ovl m)).filter fun w => w.addr == a).foldl (CWrite.onto (rwBits a)) (s.baseVal h a)

/-- The registers that a change from one mode to another writes. -/
def Block.shadowAddrs (s : Block) (h : HalfId) (old new : Nat) : List Nat :=
  (touched ((s.half h).hip.ovl old) ++ touched ((s.half h).hip.ovl new)).eraseDups

/-- The word a register would hold in a mode: its RW bits as that mode has them. -/
def Block.shadowWord (s : Block) (h : HalfId) (m a : Nat) : Nat := mix (s.atAddr a) (rwBits a) (s.modeVal h m a)

def Block.mode (s : Block) (h : HalfId) : Nat := s.f h F.ADM_STAT_MODE

/-- The block with the registers of a half as a mode's effective configuration has them; a view for checks. -/
def Block.effective (s : Block) (h : HalfId) (m : Nat) : Block :=
  (s.shadowAddrs h (s.mode h) m).foldl (fun t a => t.putAddr a (s.shadowWord h m a)) s

end Sys2Proof.Machine
end

