-- ==== Sys2Proof/Machine/Certificate.lean ====
section
/-!
DEFINITION. The certificate of a schedule image (rules R181 to R183): its items recomputed from the records, the
effective configuration of the image's mode and the live resources. Log entry 24 gives the closed forms of the worst
cases over speeds and cycle angles.
-/

namespace Sys2Proof.Machine

/-! ## What the items are taken from -/

/-- Speed at the image's N_MAX in AU per tick, the fastest conservative speed. -/
def certRate (ws : List Word) : Frac := rateAt (imgNMax ws)

/-- The slowest present speed whose raised speed reaches N_MAX, but not below 10 rpm. -/
def certPresent (ws : List Word) : Frac := fracMax (fracMul (certRate ws) ⟨4096, 4096 + imgRate ws⟩) (rateAt 10)

/-- Every record with its use, placed at the extremes of its margins on the cycle. -/
def Block.certBooks (s : Block) (h : HalfId) (ws : List Word) : List (ERec × Book) :=
  (imgRecs ws).map fun r =>
    let g := recTarget ws r
    (r, s.bookAt h r.action r.chan r.frame r.profile r.tol (r.w2.toNat + r.ehi * 16) ⟨(g : Int) - r.alo * 64, 1⟩ ⟨(g + r.ahi * 64 : Nat), 1⟩)

/-- A value as a word of an item: not below 0, at most 24 bits. -/
def itemValue (x : Frac) : Nat := capNat 0xFFFFFF (fracFloor x).toNat
def itemPeak (x : Frac) : Nat := capNat 0xFFFFFF (fracCeil x)

/-- How many of the repetitions of a span, one cycle apart, meet the range from `a` to `b`. -/
def hits (l : Nat) (lo hi a b : Frac) : Nat :=
  (fracFloor (fracDiv (fracSub b lo) (fracOf l)) + fracFloor (fracDiv (fracSub hi a) (fracOf l)) + 1).toNat

def maxOf (l : List Nat) : Nat := l.foldl (fun m x => if m < x then x else m) 0

def leastOf (l : List Frac) : Option Frac :=
  match l with
  | [] => none
  | x :: rest => some (rest.foldl fracMin x)

/-- The most of a list of spans, repeated every cycle, that hold at one angle. -/
def peakSpans (l : Nat) (spans : List (Frac × Frac)) : Nat :=
  maxOf (spans.map fun p => total (fun (q : Frac × Frac) => hits l q.1 q.2 p.1 p.1) spans)

/-- The angle between two uses, the second `k` cycles on: from the end of the earlier to the start of the later. -/
def separation (c : Frac) (l : Nat) (x y : Book) (k : Int) : Frac :=
  let kl : Frac := ⟨k * l, 1⟩
  fracMax (fracSub (fracAdd y.lo kl) (x.finish c)) (fracSub x.lo (fracAdd (y.finish c) kl))

/-- The least angle between the uses of two lists, or of one list with itself. -/
def leastSep (c : Frac) (l : Nat) (self : Bool) (xs ys : List Book) : Option Frac :=
  leastOf (xs.zipIdx.flatMap fun x => ys.zipIdx.flatMap fun y =>
    [-1, 0, 1].filterMap fun k => if self && x.2 == y.2 && k == 0 then none else some (separation c l x.1 y.1 k))

def ticksOf (c : Frac) (x : Option Frac) : Nat :=
  match x with
  | some d => itemValue (fracDiv d c)
  | none => 0xFFFFFF

/-- The delay in ticks that the boost of a shot can impose on one `k` cycles on (rule R202); 0 where it cannot. -/
def serialDelay (c : Frac) (l : Nat) (x y : Book) (k : Int) : Frac :=
  let kl : Frac := ⟨k * l, 1⟩
  if fracLt (fracAdd y.hi kl) x.lo then ⟨0, 1⟩
  else
    let gap := fracMax ⟨0, 1⟩ (fracSub (fracAdd y.lo kl) x.hi)
    fracMax ⟨0, 1⟩ (fracSub (fracOf x.boost) (fracDiv gap c))

/-- Both partners' shots against each other: the delay and the tolerance of the one delayed. -/
def pairDelays (c : Frac) (l : Nat) (xs ys : List Book) : List (Frac × Nat) :=
  (xs.flatMap fun x => ys.flatMap fun y => [-1, 0, 1].flatMap fun k =>
    [(serialDelay c l x y k, y.tol), (serialDelay c l y x (-k), x.tol)]).filter fun d => fracLt ⟨0, 1⟩ d.1

/-- A present speed raised by 1 + RATE_MAX and capped at the image's N_MAX (rule R153). -/
def certRaised (ws : List Word) (p : Frac) : Frac := fracMin (fracMul p ⟨4096 + imgRate ws, 4096⟩) (certRate ws)

/-- The angle over which a booking spreads between the conservative and the present speed, at the greatest distance ahead
at which the checker can make a check (rules R154, R182). -/
def spreadAngle (ws : List Word) (p : Frac) : Frac :=
  fracMul (fracSub (fracDiv (certRaised ws p) p) ⟨1, 1⟩) (frac ((3 * imgCycle ws : Nat) : Int) 4)

/-! ## The items -/

def shotsOf (seqr : Nat) (bs : List (ERec × Book)) : List Book :=
  (bs.filter fun b => b.2.action == aINJ_SHOT && b.2.out == seqr).map Prod.snd

/-- Peak booked energy in one budget interval of `w` ticks, at its worst place against the cycle. -/
def boostPeak (ws : List Word) (w : Nat) (xs : List Book) : Nat :=
  let width := fracAdd (spreadAngle ws (certPresent ws)) (fracMul (certRate ws) (fracOf w))
  maxOf (xs.map fun x => total (fun (y : Book) => y.eb * hits (imgCycle ws) y.lo y.hi x.hi (fracAdd x.hi width)) xs)

/-- On-time booked in the 64 slots of a duty window that begins at angle `a`, at present speed `p`: slot `i` holds every use
between the angle it begins with at `p` and the angle it ends with at the raised speed. -/
def dutyFrom (ws : List Word) (xs : List Book) (p a : Frac) : Nat :=
  let c := certRaised ws p
  total (fun i =>
    let lo := fracAdd a (fracMul p (fracOf (i * 320000)))
    let hi := fracAdd (fracAdd a (spreadAngle ws p)) (fracMul c (fracOf ((i + 1) * 320000)))
    total (fun (y : Book) => y.e * hits (imgCycle ws) y.lo y.hi lo hi) xs) (List.range 64)

/-- The present speeds, of those from 10 rpm on below the cap, at which the on-time of a window can be greatest while slot `i`
begins on the end of use `x`: a bound of some slot meets a use there. Above them the spread shrinks and the slots lie inside
those of `certPresent`. -/
def dutySpeeds (ws : List Word) (xs : List Book) (x : Book) (i : Nat) : List Frac :=
  let at' (y : Frac) (k : Int) : Frac := fracSub (fracAdd y ⟨k * imgCycle ws, 1⟩) x.hi
  let met (n : Frac) (m : Frac) : List Frac :=
    let p := fracDiv n (fracMul m (fracOf 320000))
    if m.num = 0 || fracLt p (rateAt 10) || fracLt (certPresent ws) p then [] else [p]
  certPresent ws :: rateAt 10 :: (xs.flatMap fun y => (List.range 49).flatMap fun (k : Nat) => (List.range 64).flatMap fun (j : Nat) =>
    met (at' y.hi ((k : Int) - 24)) ⟨(j : Int) - i, 1⟩ ++
    met (fracSub (at' y.lo ((k : Int) - 24)) (spreadAngle ws (certPresent ws)))
      (fracSub (fracMul ⟨4096 + imgRate ws, 4096⟩ (fracOf (j + 1))) (fracOf i)))

/-- Peak on-time in any duty window, in ticks, at its worst place against the cycle and the worst present speed. -/
def dutyPeak (ws : List Word) (xs : List Book) : Nat :=
  maxOf (xs.flatMap fun x => (List.range 64).flatMap fun i => (dutySpeeds ws xs x i).map fun p =>
    dutyFrom ws xs p (fracSub x.hi (fracMul p (fracOf (i * 320000)))))

/-- The resources an image uses, as kind and index, in item order (rule R182). -/
def certKeys (h : HalfId) (ws : List Word) (bs : List (ERec × Book)) : List (Nat × Nat) :=
  let shots := bs.filter fun b => b.2.action == aINJ_SHOT
  let has (k : Nat) : Bool := shots.any fun b => b.2.out == k
  let keys := (imgChans ws).map (fun c => (1, c.chan)) ++
    (bs.filter fun b => b.1.timed).map (fun b => (2, b.1.chan)) ++
    ((List.range 6).filter fun k => has (2 * k) && has (2 * k + 1)).map (fun k => (3, bhsBase h + k)) ++
    (if shots.isEmpty then [] else [(4, h.num)]) ++ shots.map (fun b => (5, b.2.out)) ++
    shots.map (fun b => (6, servedBy b.2.out)) ++ (bs.filter fun b => b.2.action == aCONV_WINDOW).map (fun b => (6, b.2.out)) ++
    [(7, 0)]
  sortBy (fun k => k.1 * 256 + k.2) keys.eraseDups

/-- An item recomputed: VALUE and VALUE2. -/
def Block.certValue (s : Block) (h : HalfId) (ws : List Word) (bs : List (ERec × Book)) (kind index : Nat) : Nat × Nat :=
  let c := certRate ws
  let l := imgCycle ws
  match kind with
  | 1 =>
    (peakSpans l ((bs.filter fun b => b.1.chan == index).map fun b =>
      (fracOf b.1.insert, fracAdd (fracOf b.1.insert) (fracOf (fwd l b.1.insert (fracFloor b.2.hi).toNat)))), 0)
  | 2 =>
    let xs := (bs.filter fun b => b.1.timed && b.1.chan == index).map Prod.snd
    (ticksOf c (leastSep c l true xs xs), 0)
  | 3 =>
    let k := index - bhsBase h
    let xs := shotsOf (2 * k) bs
    let ys := shotsOf (2 * k + 1) bs
    (ticksOf c (leastSep c l false xs ys),
      if s.splitBoost (injBase h + 2 * k) then itemPeak ((pairDelays c l xs ys).foldl (fun m d => fracMax m d.1) ⟨0, 1⟩) else 0)
  | 4 =>
    (capNat 0xFFFFFF (boostPeak ws (s.f h F.SEQ_BINT_BINT * 200) ((bs.filter fun b => b.2.action == aINJ_SHOT).map Prod.snd)), 0)
  | 5 => (itemPeak (frac ((dutyPeak ws (shotsOf index bs) : Nat) : Int) 200), 0)
  | 6 =>
    if index < 2 then
      (peakSpans l ((bs.filter fun b => b.2.action == aCONV_WINDOW && b.2.out == index).map fun b =>
        (b.2.lo, fracAdd b.2.hi (fracOf b.2.span))), 0)
    else
      (peakSpans l ((bs.filter fun b => b.2.action == aINJ_SHOT && servedBy b.2.out == index).map fun b => (b.2.lo, b.2.finish c)), 0)
  | _ =>
    let lead := leastOf (bs.map fun b => fracOf (fwd l b.1.insert (fracFloor b.2.lo).toNat))
    let span := fracMul c ⟨5000, 1⟩
    (ticksOf c lead, maxOf (bs.map fun x => total (fun (y : ERec × Book) =>
      hits l (fracOf y.1.insert) (fracOf y.1.insert) (fracOf x.1.insert) (fracAdd (fracOf x.1.insert) span)) bs))

/-- VALUE is a least gap or time; the other items are peaks. -/
def leastKind (kind : Nat) : Bool := kind == 2 || kind == 3 || kind == 7

def itemCode (kind : Nat) : Nat :=
  match kind with
  | 1 => cQUEUE_FULL
  | 2 => cMIN_DWELL
  | 3 => cSHARED_HS_OVERLAP
  | 4 => cBOOST_BUDGET
  | 5 => cDUTY_LIMIT
  | 6 => cCONVERTER_SLOT
  | _ => cCONFIG_INVALID

/-- The condition of rule R182 on a declared item. -/
def Block.itemMeets (s : Block) (h : HalfId) (ws : List Word) (bs : List (ERec × Book)) (it : CertItem) : Bool :=
  match it.kind with
  | 1 =>
    (imgChans ws).any (fun c => c.chan == it.index && c.rsv == it.value) && decide (it.value ≤ s.usableSlots h it.index)
  | 2 =>
    let dwell := s.f h F.EVC_CFG_KIND it.index == 1 || s.injClass h it.index
    decide (1 ≤ it.value) && (!dwell || decide (s.f h F.ADM_DWELL_DWELL ≤ it.value))
  | 3 =>
    let k := it.index - bhsBase h
    let late := pairDelays (certRate ws) (imgCycle ws) (shotsOf (2 * k) bs) (shotsOf (2 * k + 1) bs)
    (decide (1 ≤ it.value) && it.value2 == 0) ||
      (s.splitBoost (injBase h + 2 * k) && late.all (fun d => decide (it.value2 ≤ d.2)))
  | 4 => decide (it.value ≤ s.f h F.SEQ_BUD_BUDGET)
  | 5 => decide (it.value ≤ s.f h F.SEQ_DLIM_DLIM it.index)
  | 6 => decide (it.value ≤ if s.slotless h it.index then 0 else 4)
  | _ => decide (20000 ≤ it.value) && decide (it.value2 ≤ 64)

/-- An item is no better than the recomputed one and meets its condition (rule R183). -/
def Block.itemOk (s : Block) (h : HalfId) (ws : List Word) (bs : List (ERec × Book)) (it : CertItem) : Bool :=
  let v := s.certValue h ws bs it.kind it.index
  (if leastKind it.kind then decide (it.value ≤ v.1) else decide (v.1 ≤ it.value)) && decide (v.2 ≤ it.value2) && s.itemMeets h ws bs it

/-- The items in their order against the resources in theirs: OK, or the code and the item's number (rules R183, R186). -/
def walkItems (ok : CertItem → Bool) : Nat → Option (Nat × Nat) → List (Nat × Nat) → List CertItem → Nat × Nat
  | _, _, [], [] => (cOK, 0)
  | i, _, _ :: _, [] => (cCONFIG_INVALID, i)
  | i, _, [], _ :: _ => (cCONFIG_INVALID, i)
  | i, last, k :: ks, it :: its =>
    if last = some (it.kind, it.index) then (cCONFIG_INVALID, i)
    else if (it.kind, it.index) ≠ k then (cCONFIG_INVALID, i)
    else if ok it then walkItems ok (i + 1) (some k) ks its
    else (itemCode it.kind, i)

/-- Check 7 on one image, in the effective configuration of its mode. -/
def Block.checkItems (s : Block) (h : HalfId) (ws : List Word) : Nat × Nat :=
  let e := s.effective h (imgMode ws)
  let bs := e.certBooks h ws
  walkItems (e.itemOk h ws bs) 0 none (certKeys h ws bs) (imgItems ws)

end Sys2Proof.Machine
end

