-- ==== Sys2Proof/Machine/Schedule.lean ====
section
/-!
DEFINITION. Schedules at run time (chapters 5 and 6): the activation checks, binding and exchange of sets, the recheck of
the certificate, trims, static insertion, and what ANP learns from shots.
-/

namespace Sys2Proof.Machine

def Block.modSched (s : Block) (h : HalfId) (f : Sched → Sched) : Block := s.modHalf h fun x => { x with sched := f x.sched }

/-! ## Activation checks (rule R186) -/

/-- The modes that have the base or an overlay in the committed configuration. -/
def Block.confModes (s : Block) (h : HalfId) : List Nat := (List.range 16).filter (s.half h).hip.hasMode

/-- A failure of the activation checks, or OK: code, check order, MODE, item. -/
structure Verdict where
  code  : Nat
  order : Nat
  mode  : Nat
  item  : Nat
  deriving DecidableEq, Repr

def Verdict.ok : Verdict := ⟨cOK, 0, 0, 0⟩

/-- Binding to base and overlay (rule R184). -/
def Block.bound (s : Block) (h : HalfId) (ws : List Word) : Bool :=
  let x := (s.half h).hip
  let m := imgMode ws
  iw ws 4 == x.cfgSeq && bits (iw ws 5) 7 0 * 2 ^ 24 + iw ws 6 == x.cfgCrc && !x.base.isEmpty &&
    (m == 0 || x.overlays.any (fun o => o.1 == m && o.2.1 == bits (iw ws 7) 7 0 * 2 ^ 24 + iw ws 8))

/-- The channel table against the mode's effective configuration (rule R174). -/
def Block.chanMatches (e : Block) (h : HalfId) (c : ChanEnt) : Bool :=
  let kind := e.f h F.EVC_CFG_KIND c.chan
  kind == c.kind && (if kind = 1 then 1 else e.f h F.EVC_CFG_INJCLASS c.chan) == c.injc &&
    e.f h F.EVC_CFG_OUT c.chan == c.out && e.f h F.EVC_LEAD_LEAD c.chan == c.lead

/-- Checks 2 to 7 on one image. `env`: the N_MAX and RATE_MAX that every image of the set must carry. -/
def Block.checkImage (s : Block) (h : HalfId) (env : Nat × Nat) (ws : List Word) : Verdict :=
  let m := imgMode ws
  let e := s.effective h m
  if !s.bound h ws || imgCycle ws != s.cycleL h || (imgNMax ws, imgRate ws) != env then ⟨cCONFIG_INVALID, 2, m, 0⟩
  else if !(imgCyls ws).all (fun c => s.ownsCyl h c.cyl && c.offset == s.f h F.ANG_TDC_OFFSET c.cyl) then ⟨cCONFIG_INVALID, 3, m, 0⟩
  else if !(imgChans ws).all (e.chanMatches h) then ⟨cCONFIG_INVALID, 4, m, 0⟩
  else if e.f h F.ADM_MODEH_HORIZON * 64 < imgMaxLead ws then ⟨cCONFIG_INVALID, 6, m, 0⟩
  else
    let r := s.checkItems h ws
    if r.1 = cOK then .ok else ⟨r.1, 7, m, r.2⟩

/-- The stored images that a half needs of a set, or the lowest mode whose image is missing. -/
def Block.neededImages (s : Block) (h : HalfId) (setId : Nat) : Nat ⊕ List (List Word) :=
  if !s.ownsAny h then .inr [] else
  let x := (s.half h).sched
  match (s.confModes h).find? (fun m => (x.image setId m).isNone) with
  | some m => .inl m
  | none => .inr ((s.confModes h).filterMap (x.image setId))

/-- The envelope of a set: N_MAX and RATE_MAX of the image of it that was stored first, half A's before half B's. The rule wants the
same in every image and names none that the others are held to (DESIGN CHOICE, log entry 123). -/
def Block.setEnv (s : Block) (setId : Nat) : Nat × Nat :=
  match ([HalfId.a, HalfId.b].flatMap fun h => (s.half h).sched.store.filter (fun i => i.setId == setId)) with
  | i :: _ => (imgNMax i.words, imgRate i.words)
  | [] => (0, 0)

/-- All checks of one half. -/
def Block.activationOf (s : Block) (h : HalfId) (setId : Nat) : Verdict :=
  match s.neededImages h setId with
  | .inl m => ⟨cCONFIG_INVALID, 1, m, 0⟩
  | .inr l => l.foldl (fun v ws => if v.code = cOK then s.checkImage h (s.setEnv setId) ws else v) .ok

/-- The result of the checks in both halves: half A's first failure before half B's. -/
def Block.activationCheck (s : Block) (setId : Nat) : Verdict × HalfId :=
  let a := s.activationOf .a setId
  if a.code = cOK then (s.activationOf .b setId, .b) else (a, .a)

/-! ## Binding a set, and leaving one (rules R167, R174, R184, R187 to R189, R489) -/

/-- No mode latch can come to the half: HOLD (or BOOT), an invalid clock, or a source below FULL sync. -/
def Block.cannotLatch (s : Block) (h : HalfId) : Bool := !activePhase (s.phase h) || !s.fullSync h

/-- The envelope registers follow ADM_CENVN and ADM_CENVR while no set is active, from the next ANGCLK on (rule R167). -/
def Block.syncEnv (s : Block) (h : HalfId) : Block :=
  if (s.half h).sched.active = 0 then
    ((s.setW h .ADM_ENVN (wd (s.f h F.ADM_CENVN_N_MAX))).setW h .ADM_ENVR (wd (s.f h F.ADM_CENVR_RATE_MAX))).modSched h fun x =>
      { x with envOld := some ((s.half h).tsc, s.envelope h) }
  else s

/-- The largest RSV that any image of a set gives a channel (rule R174). -/
def Sched.rsvOf (x : Sched) (setId k : Nat) : Nat :=
  maxOf ((x.store.filter fun i => i.setId == setId).flatMap fun i =>
    ((imgChans i.words).filter fun c => c.chan == k).map ChanEnt.rsv)

/-- Zeroed trims of every trimmable record of a set (rule R187). -/
def Sched.zeroTrims (x : Sched) (setId : Nat) : List Trim :=
  (x.store.filter fun i => i.setId == setId).flatMap fun i =>
    ((imgRecs i.words).filter ERec.trim).map fun r => ⟨setId, i.mode, r.chan, r.tag, r.frame, (0, 0), (0, 0), (0, 0), (0, 0)⟩

/-- The reserves of a set in ADM_CRED, with the CREDIT notice of channels whose slot credit rises from 0 (rule R160). They count for
submissions from the next ANGCLK on; without a set none counts (rules R159, R187). -/
def Block.loadReserves (s : Block) (h : HalfId) (setId : Nat) : Block :=
  let old := if setId = 0 then none else some ((s.half h).tsc, (List.range 64).map (s.reserve h))
  let s1 := s.modSched h fun x => { x with rsvOld := old }
  ((List.range 64).foldl (fun t k => t.setF h F.ADM_CRED_RSV ((s.half h).sched.rsvOf setId k) k) s1).creditNotice h s (List.range 64)

/-- A set becomes active in a half. -/
def Block.bindSet (s : Block) (h : HalfId) (setId : Nat) : Block :=
  let env := s.setEnv setId
  let s1 := s.modSched h fun x =>
    { x with active := setId, pendSet := none, recheck := false, lossDue := false, envOld := none,
             trims := x.trims.filter (fun t => t.setId != setId && some t.setId == x.curSrc.map Prod.fst) ++ x.zeroTrims setId }
  ((((s1.setF h F.ADM_STAT_SCHED 1).setF h F.ADM_STAT_CERT_OK 1).loadReserves h setId).setW h .ADM_ENVN (wd env.1)).setW h .ADM_ENVR (wd env.2)

/-- No set is active in a half any longer; a suspension of static insertion ends with it, without a notice (DESIGN CHOICE, log
entry 110). A half still in SERVICE is held to ADM_CENVN and ADM_CENVR from the next ANGCLK on (DESIGN CHOICE, log entry 122). -/
def Block.unbindSet (s : Block) (h : HalfId) : Block :=
  let s1 := s.modSched h fun x =>
    { x with active := 0, pendSet := none, recheck := false, lossDue := false, suspended := false, revSusp := false, revRest := false,
             suspCount := 0, suspInvalid := false, trims := x.trims.filter (fun t => some t.setId == x.curSrc.map Prod.fst) }
  (((s1.setF h F.ADM_STAT_SCHED 0).setF h F.ADM_STAT_CERT_OK 0).loadReserves h 0).syncEnv h

/-- The records of no set fill any cycle: after an exchange that a half makes without a latch (rule R489). -/
def Block.dropSources (s : Block) (h : HalfId) : Block :=
  s.modSched h fun x => { x with prevSrc := none, curSrc := none, nextSrc := none, due := [] }

/-- A successful activation is posted in a half: at once where no set is active or no latch can come, otherwise it waits
for the mode latch. -/
def Block.postActivation (setId : Nat) (s : Block) (h : HalfId) : Block :=
  if (s.half h).sched.active = 0 then s.bindSet h setId
  else if s.cannotLatch h then (s.dropSources h).bindSet h setId
  else s.modSched h fun x => { x with pendSet := some setId }

/-- A deactivation is posted in a half. -/
def Block.postDeactivation (s : Block) (h : HalfId) : Block :=
  if (s.half h).sched.active = 0 then s.modSched h fun x => { x with pendSet := none }
  else if s.cannotLatch h then
    let s1 := (s.dropSources h).unbindSet h
    (s1.withdrawService h).modSched h fun x => { x with leaving := s1.phase h == phSERVICE }
  else s.modSched h fun x => { x with pendSet := some 0 }

/-- ACTIVATION_RESULT: the checks of the SCHED_ACTIVATE that runs in a half pass, and the set becomes active in both. -/
def activationResult (h : HalfId) (s : Block) : Block :=
  match (s.half h).hip.long with
  | some c =>
    if c.code = 0x22 && !c.posted && s.holdsHelm h && (s.activationCheck c.arg).1.code = cOK then
      ([HalfId.a, HalfId.b].foldl (Block.postActivation c.arg) s).modHalf h fun x =>
        { x with hip := { x.hip with long := some { c with posted := true } } }
    else s
  | none => s

def execActivationResult (h : HalfId) (s : State) : Host.Outcome State Fault Refusal :=
  .next { s with blk := activationResult h s.blk }

/-- The first deactivation word a half has received, taken out, with the set that it names. -/
def takeDeactivate : List BMsg → Option (Nat × List BMsg)
  | [] => none
  | .deactivate set :: rest => some (set, rest)
  | m :: rest => (takeDeactivate rest).map fun p => (p.1, m :: p.2)

/-- The deactivation of a set reaches a half: the set is its active one with no other to follow, or the one to follow. A set that was
activated after the peer's commit stays (DEDUCED, log entry 127). -/
def Block.deactivates (s : Block) (h : HalfId) (set : Nat) : Bool :=
  let x := (s.half h).sched
  match x.pendSet with
  | some n => n == set || (n == 0 && x.active == set)
  | none => x.active == set

/-- PEER_DEACTIVATE_RECEIVE: the peer has committed another binding (rules R184, R489). -/
def peerDeactivateReceive (h : HalfId) (s : Block) : Block :=
  let lane := s.lane h.peer
  match takeDeactivate lane.rx with
  | some (set, rest) =>
    let s1 := s.setLane h.peer { lane with rx := rest }
    if s.deactivates h set then s1.postDeactivation h else s1
  | none => s

def execPeerDeactivateReceive (h : HalfId) (s : State) : Host.Outcome State Fault Refusal :=
  .next { s with blk := peerDeactivateReceive h s.blk }

/-! ## The recheck (rules R150, R183) -/

/-- The first failure of the active set's items in a half. -/
def Block.recheckOf (s : Block) (h : HalfId) : Nat × Nat :=
  let x := (s.half h).sched
  ((s.confModes h).filterMap (x.image x.active)).foldl
    (fun r ws => if r.1 = cOK then s.checkItems h ws else r) (cOK, 0)

/-- CERTIFICATE_RECHECK: after the loss of a certified resource. A failure is a class 1 report and ends SERVICE; the set
stays activated. -/
def certificateRecheck (h : HalfId) (s : Block) : Block :=
  let x := (s.half h).sched
  if !x.lossDue then s else
  let s1 := s.modSched h fun x => { x with lossDue := false }
  if x.active = 0 then s1 else
  let r := s.recheckOf h
  if r.1 = cOK then s1 else
  let s2 := ((s1.setF h F.ADM_ERR_RECHECK 1).setF h F.ADM_STAT_CERT_OK 0).modSched h fun x => { x with recheck := true }
  let s3 := (s2.withdrawService h).report h r.1 1 24 127 (7 * 256 + r.2 % 256)
  if s3.phase h = phSERVICE then s3.setPhase h phRECOVERY 5 else s3

def execCertificateRecheck (h : HalfId) (s : State) : Host.Outcome State Fault Refusal :=
  .next { s with blk := certificateRecheck h s.blk }

/-! ## STOP_TIME (rule R144) -/

/-- STOP_TIME_EXPIRY: a half in RECOVERY whose clock has been invalid for STOP_TIME µs without a break enters CRANK. -/
def stopTimeExpiry (h : HalfId) (s : Block) : Block :=
  match (s.half h).clk.invalidSince with
  | some t =>
    if s.phase h = phRECOVERY && !s.clockValid h && decide (s.f h F.ADM_STOP_STOP_TIME * 200 ≤ ticksTo t (s.half h).tsc) then
      s.setPhase h phCRANK 6
    else s
  | none => s

def execStopTimeExpiry (h : HalfId) (s : State) : Host.Outcome State Fault Refusal :=
  .next { s with blk := stopTimeExpiry h s.blk }

/-! ## Trims (rules R155 to R158, R176, R257) -/

def Trim.isFor (t : Trim) (setId mode chan tag : Nat) : Bool :=
  t.setId == setId && t.mode == mode && t.chan == chan && t.tag == tag

/-- The pending copies of a cylinder in one schedule become its active copies. -/
def latchTrims (setId mode c : Nat) (l : List Trim) : List Trim :=
  l.map fun t => if t.setId == setId && t.mode == mode && t.cyl == c then { t with hostA := t.hostP, anpA := t.anpP } else t

/-- Trims that reach a pending copy in the ANGCLK of its cylinder's latch are latched (rules R157, R166). -/
def Block.relatch (s : Block) (h : HalfId) : Block :=
  let now := (s.half h).tsc
  s.modSched h fun x =>
    { x with trims := (x.latched.filter fun y => y.1 == now).foldl (fun l y => latchTrims y.2.1 y.2.2.1 y.2.2.2 l) x.trims }

/-! ## Static insertion (rules R149, R157, R176, R179, R412) -/

/-- The channel's EVC_CFG or EVC_LEAD differs between two modes (rule R412). -/
def Block.reconfigured (s : Block) (h : HalfId) (old new k : Nat) : Bool :=
  s.modeVal h old (Reg.addr .EVC_CFG h k 0) != s.modeVal h new (Reg.addr .EVC_CFG h k 0) ||
  s.modeVal h old (Reg.addr .EVC_LEAD h k 0) != s.modeVal h new (Reg.addr .EVC_LEAD h k 0)

/-- SCP holds the insertion: its channel is reconfigured at the cycle start that comes (rule R412). -/
def Block.heldDue (s : Block) (h : HalfId) (d : (Nat × Nat) × Nat) : Bool :=
  let x := (s.half h).sched
  match x.staged, x.dueRec d with
  | some m, some r => x.nextSrc == some d.1 && s.reconfigured h (s.mode h) m r.chan
  | _, _ => false

/-- The active trims of a record: angle in AU and time in ticks. -/
def Sched.trimOf (x : Sched) (d : (Nat × Nat) × Nat) (r : ERec) : Int × Int :=
  match x.trims.find? (fun t => t.isFor d.1.1 d.1.2 r.chan r.tag) with
  | some t => ((t.hostA.1 + t.anpA.1) * 64, (t.hostA.2 + t.anpA.2) * 16)
  | none => (0, 0)

/-- STATIC_INSERT: SCP writes the first record that waits, trimmed, to insertion port 0. -/
def staticInsert (h : HalfId) (s : Block) : Block :=
  let x := (s.half h).sched
  if s.on h F.EVI_RES_BUSY 0 || nth 0 (s.half h).hip.roles 1 = 2 then s else
  match x.due.find? (fun d => !s.heldDue h d) with
  | none => s
  | some d =>
    let s0 := s.modSched h fun x => { x with due := x.due.erase d }
    match x.dueRec d with
    | none => s0
    | some r =>
      let tr := if r.trim then x.trimOf d r else (0, 0)
      let w0 := wd ((((r.w0.toNat : Int) + tr.1) % (s.cycleL h : Int)).toNat)
      let w2 := wd ((r.w2.toNat : Int) + tr.2).toNat
      let s1 := (((s0.setW h .EVI_W w0 0 0).setW h .EVI_W r.w1 0 1).setW h .EVI_W w2 0 2).setF h F.EVI_RES_BUSY 1 0
      s1.modHalf h fun y => { y with ports := y.ports ++ [⟨0, r.chan, r.tag, w0, r.w1, w2, some (d.1.2, d.2)⟩] }

def execStaticInsert (h : HalfId) (s : State) : Host.Outcome State Fault Refusal :=
  .next { s with blk := staticInsert h s.blk }

/-! ## What ANP writes (rules R213, R214, R258, R259) -/

/-- The schedule in use: the active set's image for the mode in effect. -/
def Block.inUse (s : Block) (h : HalfId) : Option (List Word) :=
  let x := (s.half h).sched
  if x.active = 0 then none else x.image x.active (s.mode h)

/-- The drift-derived pair of a channel's sequencer, in trim steps, rounded toward zero: 0 while learning does not apply. -/
def Block.driftPair (s : Block) (h : HalfId) (k : Nat) : Int × Int :=
  let y := (s.half h).sq
  if s.on h F.SEQ_CFG_LRN k && (nth false y.restored k || decide (nth 0 y.minShots k ≤ nth 0 y.count k)) then
    let d := nth (0, 0) y.drift k
    let v := s.presentRate h
    (if v.den = 0 then 0 else -((d.1 * v.num).tdiv (v.den * 64)), (d.1 - d.2).tdiv 16)
  else (0, 0)

/-- ANP's pair of one record into its pending copy: drift, a_c and, for the main shot, e_c; clamped to the margins left by
the host's pair, the corrections following a clamp. -/
def Block.writePair (h : HalfId) (setId mode : Nat) (s : Block) (r : ERec) : Block :=
  let k := s.f h F.EVC_CFG_OUT r.chan
  let c := r.frame
  let dr := s.driftPair h k
  let main := s.f h F.ATU_CYL_MAINTAG c == r.tag
  let host := match (s.half h).sched.trims.find? (fun t => t.isFor setId mode r.chan r.tag) with
    | some t => t.hostP
    | none => (0, 0)
  let corr := corrOf (s.corr h c)
  let a := dr.1 + corr.1
  let e := dr.2 + if main then corr.2 else 0
  let a' := holdIn r.alo r.ahi host.1 a
  let e' := holdIn r.elo r.ehi host.2 e
  let s1 := s.modSched h fun x =>
    { x with trims := x.trims.map fun t => if t.isFor setId mode r.chan r.tag then { t with anpP := (a', e') } else t }
  if a' = a && e' = e then s1
  else
    let s3 := s1.setCorr h c (corrWord (if a' = a then corr.1 else a' - dr.1, if e' = e || !main then corr.2 else e' - dr.2))
    let s4 := s3.setF h F.SEQ_STAT_LRNSAT 1 k
    s4.report h cOK 0 4 k (s4.w h .SEQ_STAT k).toNat

/-- ANP writes its pairs for the trimmable INJ_SHOT records of the schedule in use that `p` names. -/
def Block.writePairs (s : Block) (h : HalfId) (p : ERec → Bool) : Block :=
  match s.inUse h with
  | some ws =>
    (((imgRecs ws).filter fun r => r.trim && r.action == aINJ_SHOT && p r).foldl
      (Block.writePair h (s.half h).sched.active (imgMode ws)) s).relatch h
  | none => s

/-- TRIM_LATCH: in every schedule of the active set whose latch of the cylinder was passed. Before the latch of the schedule in
use ANP writes its pairs for the cylinder at the present speed (rule R213). The pass is noted with
every result whose pair is still to come, a VALID record or a window whose last point lies behind, where it is the schedule in use
whose latch was passed: that schedule's table is the one ANP writes (rules R158, R257). -/
def trimLatch (h : HalfId) (c : Nat) (s : Block) : Block :=
  let x := (s.half h).sched
  let hit := x.store.filter fun i => i.setId == x.active &&
    (imgCyls i.words).any fun e => e.cyl == c && s.passed h e.latch false
  if hit.isEmpty || !s.fullSync h then s else
  let now := (s.half h).tsc
  let add := hit.map fun i => (now, i.setId, i.mode, c)
  let inUse := hit.any (fun i => i.mode == s.mode h)
  let s0 := if inUse && nth 0 (s.half h).hip.roles 2 != 2 then s.writePairs h fun r => r.frame == c else s
  let s1 := (s0.modSched h fun y => { y with latched := (y.latched.filter fun z => z.1 == now) ++ add }).relatch h
  let mark (l : Option Nat) : Option Nat := some (l.getD now)
  let pass (w : Win) : Win := if w.frame == c && decide (w.count ≤ w.next) then { w with late := mark w.late } else w
  if !inUse then s1 else
  s1.modHalf h fun y =>
    { y with
      conv := y.conv.map fun k => { k with wins := k.wins.map fun o => o.map pass }
      atu := { y.atu with jobs := y.atu.jobs.map fun j => { j with win := pass j.win },
                          fbDue := y.atu.fbDue.map fun d => if d.cyl == c then { d with late := mark d.late } else d } }

def execTrimLatch (h : HalfId) (c : Fin 24) (s : State) : Host.Outcome State Fault Refusal :=
  .next { s with blk := trimLatch h c.val s.blk }

/-- The drifts of a sequencer are replaced; SEQ_LRN shows them in steps of 20 ticks, rounded down and saturating (rule R214; log
entry 112). -/
def Block.setDrift (s : Block) (h : HalfId) (k : Nat) (d : Int × Int) : Block :=
  ((s.setF h F.SEQ_LRN_DO (field 12 (clampInt 2047 (d.1 / 20))) k).setF h F.SEQ_LRN_DC (field 12 (clampInt 2047 (d.2 / 20))) k).modHalf h
    fun y => { y with sq := { y.sq with drift := y.sq.drift.set k d } }

/-- What has been written to SEQ_LRN and SEQ_LCFG takes effect at the next learning update: restored drifts count as learned (rules
R214, R227; log entry 128). -/
def Block.learnSettings (s : Block) (h : HalfId) (k : Nat) : Block :=
  let due := nth false (s.half h).sq.lrnDue k
  let d : Int × Int := (sext 12 (s.f h F.SEQ_LRN_DO k) * 20, sext 12 (s.f h F.SEQ_LRN_DC k) * 20)
  s.modHalf h fun y => { y with sq := { y.sq with
    minShots := y.sq.minShots.set k (s.f h F.SEQ_LCFG_MINSHOTS)
    lrnDue := y.sq.lrnDue.set k false
    restored := if due then y.sq.restored.set k true else y.sq.restored
    drift := if due then y.sq.drift.set k d else y.sq.drift } }

/-- DRIFT_LEARN_UPDATE: ANP reads the oldest result record of a sequencer that it has not read, and learns from it once. -/
def driftLearnUpdate (h : HalfId) (k : Nat) (s0 : Block) : Block :=
  let s := s0.learnSettings h k
  let y := (s.half h).sq
  let q := nth [] y.results k
  match q.find? fun r => !r.read with
  | some r =>
    let s1 := s.modHalf h fun x => { x with sq := { x.sq with
      results := x.sq.results.set k (q.set (q.findIdx fun r => !r.read) { r with read := true }) } }
    let w0 := r.w0.toNat
    let ripe := nth false y.restored k || decide (s.f h F.SEQ_LCFG_MINSHOTS ≤ nth 0 y.count k)
    if s.on h F.SEQ_CFG_LRN k && s.phase h != phTEST && ripe && r.okNotice && bits w0 3 3 == 1 && bits w0 2 2 == 1 then
      let ty := s.f h F.SEQ_CFG_TYPE k
      let rate := s.f h F.SEQ_LCFG_RATE
      let d := nth (0, 0) y.drift k
      let o := learnStep rate (bits r.w2.toNat 23 12) (s.f h F.SEQ_VREF_OPEN_REF ty) d.1
      let c := learnStep rate (bits r.w2.toNat 11 0) (s.f h F.SEQ_VREF_CLOSE_REF ty) d.2
      (s1.setDrift h k (o, c)).writePairs h fun r => s.f h F.EVC_CFG_OUT r.chan == k
    else s1
  | none => s0

def execDriftLearnUpdate (h : HalfId) (k : Fin 12) (s : State) : Host.Outcome State Fault Refusal :=
  .next { s with blk := driftLearnUpdate h k.val s.blk }

end Sys2Proof.Machine
end

