-- ==== Sys2Proof/Machine/Wake.lean ====
section
/-!
DEFINITION. The ladder rung of a half and the wake of a half (rules R439, R443), which comparators, timers, links and
the always-on wake logic share, and the pairing of timers, whose output levels comparators take.
-/

namespace Sys2Proof.Machine

def Block.modPwr (s : Block) (h : HalfId) (f : Pwr → Pwr) : Block := s.modHalf h fun x => { x with pwr := f x.pwr }

/-- A wake source with its WAKE_STAT bit, which wakes `h` from Rest down to the rung `deepest` (rule R443); it is remembered for the rest
of the AONCLK, in which a step of a descent may still be completed (rule R444). The half is awake once LADDER_WAKE_COMPLETE has come; the
first source that woke it is the one CRP_LADDER and the log name. -/
def Block.wakeHalf (s : Block) (h : HalfId) (bit deepest : Nat) : Block :=
  let s := if (s.half h).pwr.waking.isNone then s.modPwr h fun x => { x with now := x.now.or (some (bit, deepest)) } else s
  if s.rung h = 0 || deepest < s.rung h then s else
  (s.setF .a F.WAKE_STAT_SRC (putBits (s.f .a F.WAKE_STAT_SRC) bit bit 1)).modPwr h
    fun x => { x with waking := x.waking.or (some bit), going := false }

/-- A new AONCLK: a wake event that found no rung to wake from is over. -/
def Block.newAon (s : Block) : Block := [HalfId.a, HalfId.b].foldl (fun t h => t.modPwr h fun x => { x with now := none }) s

/-- KEY_IN is at its active level (WAKE_CFG.KEYPOL). -/
def Block.keyActive (s : Block) : Bool := s.keyIn != s.on .a F.WAKE_CFG_KEYPOL

/-- Comparators, and converters within ANA, are powered (rules R272, R439). -/
def Block.cmpPowered (s : Block) (h : HalfId) : Bool := (s.half h).live && decide (s.rung h ≤ 3)

/-! ## Pairs of timers (rules R301, R303) -/

/-- Timer `k` is the low half of a pair. -/
def Block.tmrPair (s : Block) (k : Nat) : Bool := k % 2 == 0 && s.on .a F.TMR_CFG_LINK k

/-- Timer `k` is the high half of a pair. -/
def Block.tmrHigh (s : Block) (k : Nat) : Bool := k % 2 == 1 && s.on .a F.TMR_CFG_LINK (k - 1)

/-- The output level of a timer; that of the low timer serves both of a pair. -/
def Block.tmrLevel (s : Block) (k : Nat) : Bool := s.on .a F.TMR_STAT_OUT (if s.tmrHigh k then k - 1 else k)

end Sys2Proof.Machine
end

