-- ==== Sys2Proof/Machine/Fabric.lean ====
section
/-!
DEFINITION. What the fabric of chapter 17 needs wherever an edge is accepted: fabric time, frames and the ports they leave
on, the ANGLE frames of an angle master and the phase watch. Frames cross between the halves of a node over the bridge (rule R379,
log entry 16).
-/

namespace Sys2Proof.Machine

/-- A period in the format of ring word 0 (rule R81). -/
def expMant : Nat → Nat → Nat → Nat
  | 0, e, p => e * 2 ^ 20 + p % 2 ^ 20
  | fuel + 1, e, p => if p < 2 ^ 20 then e * 2 ^ 20 + p else expMant fuel (e + 1) (p / 2)

def periodWord (p : Nat) : Word := wd (expMant 15 0 p)

/-- The period a word of that format stands for. -/
def periodOf (w : Word) : Nat := bits w.toNat 19 0 * 2 ^ bits w.toNat 23 20

/-! ## Frames (rules R382, R383) -/

def EFrame.type (f : EFrame) : Nat := bits f.w0.toNat 23 20
def EFrame.group (f : EFrame) : Nat := bits f.w0.toNat 19 16
def EFrame.src (f : EFrame) : Nat := bits f.w0.toNat 13 0
def EFrame.hops (f : EFrame) : Nat := bits f.w1.toNat 23 16
def EFrame.bcast (f : EFrame) : Bool := bits f.w1.toNat 15 15 == 1
def EFrame.dst (f : EFrame) : Nat := bits f.w1.toNat 13 0
def EFrame.wrapped (f : EFrame) : Bool := bits f.w1.toNat 14 14 == 1
def EFrame.seq (f : EFrame) : Nat := bits f.w2.toNat 23 16
def EFrame.nw (f : EFrame) : Nat := bits f.w2.toNat 4 0

/-- A frame with HOPS set and, where it is turned, WRAPPED. -/
def EFrame.onward (f : EFrame) (hops : Nat) (turned : Bool) : EFrame :=
  let w := putBits f.w1.toNat 23 16 hops
  { f with w1 := wd (if turned then putBits w 14 14 1 else w) }

def ftSYNC : Nat := 1
def ftPDREQ : Nat := 2
def ftPDRESP : Nat := 3
def ftANNOUNCE : Nat := 4
def ftANGLE : Nat := 5
def ftPHASE : Nat := 6

/-! ## State access -/

def Block.fab (s : Block) (h : HalfId) : Fabric := (s.half h).fab
def Block.modFab (s : Block) (h : HalfId) (f : Fabric → Fabric) : Block := s.modHalf h fun x => { x with fab := f x.fab }
def Block.eport (s : Block) (h : HalfId) (p : Nat) : EPort := nth EPort.idle (s.fab h).ports p
def Block.modPort (s : Block) (h : HalfId) (p : Nat) (f : EPort → EPort) : Block :=
  s.modFab h fun x => { x with ports := x.ports.set p (f (nth EPort.idle x.ports p)) }

/-- The halves of the node that `h` reaches, itself first. -/
def Block.nodeHalves (s : Block) (h : HalfId) : List HalfId := if s.bridgeUp h then [h, h.peer] else [h]

def Block.modNode (s : Block) (h : HalfId) (f : Fabric → Fabric) : Block := (s.nodeHalves h).foldl (fun t k => t.modFab k f) s

def Block.joined (s : Block) (h : HalfId) : Bool := s.on h F.EUL_NODE_EN

/-- The half takes part in the fabric: it has joined, lives, and stands in Run or Rest (rule R388). -/
def Block.fabRuns (s : Block) (h : HalfId) : Bool := s.joined h && (s.half h).live && decide (s.rung h ≤ 1)

/-- The half that speaks for the node as a master: the last agreed holder of the helm (rules R385, R389, log entry 16). -/
def Block.speaks (s : Block) (h : HalfId) : Bool := (s.half h).hl.holder == some 0

/-- An instant of a half in delay-line steps, 64 to the tick. -/
def Block.stepsAt (s : Block) (h : HalfId) (tap : Nat) : Nat := (s.half h).tsc * 64 + tap

/-- From one instant or fabric time to another, in delay-line steps: both count modulo 2^54, and the nearer way is taken (rule R38,
log entry 90). -/
def stepsTo (t0 t : Int) : Int := sext 54 (field 54 (t - t0))

/-- Fabric time, in delay-line steps, at an own instant in such steps (rule R386). -/
def Block.fabTime (s : Block) (h : HalfId) (t : Int) : Int :=
  let x := s.fab h
  x.base + fracFloor (frac (stepsTo x.at0 t * x.rate.num) x.rate.den)

/-- The own instant of a fabric time. -/
def Block.ownTime (s : Block) (h : HalfId) (f : Int) : Int :=
  let x := s.fab h
  x.at0 + fracFloor (fracDiv (frac (stepsTo x.base f * x.rate.den) 1) (frac x.rate.num 1))

/-- Fabric time as the words high, low and tap of SYNC and ANGLE frames. -/
def fabWords (t : Int) : List Word :=
  let n := (t / 64) % (2 ^ 48 : Int)
  [wd (n.toNat / 2 ^ 24), wd n.toNat, wd ((t % 64).toNat * 2 ^ 18)]

/-! ## Ports (rules R378, R384, R387) -/

/-- The ports a half can send on: its own, and the peer's while the bridge holds. -/
def Block.nodePorts (s : Block) (h : HalfId) : List (HalfId × Nat) :=
  (s.nodeHalves h).flatMap fun k => if s.joined k then [(k, 0), (k, 1)] else []

def Block.portRole (s : Block) (q : HalfId × Nat) : Nat := s.f q.1 F.EUL_PCFG_ROLE q.2
def Block.portUp (s : Block) (q : HalfId × Nat) : Bool := s.f q.1 F.EUL_PSTAT_STATE q.2 == 3

/-- The ring port of a half whose dual ring goes on at a port of the peer (rule R388). -/
def Block.islandPort (s : Block) (h : HalfId) : Option Nat :=
  let ring (k : HalfId) : List Nat := [0, 1].filter fun p => s.f k F.EUL_PCFG_ROLE p == 1 || s.f k F.EUL_PCFG_ROLE p == 2
  match s.joined h && s.f h F.EUL_NODE_TOPO == 1, ring h, ring h.peer with
  | true, [p], [_] => some p
  | _, _, _ => none

/-- The ports that carry what a node sends toward a role's port: 1 WEST, 2 EAST; in a dual ring the other port, turned, where
that one is down or still wrapped. -/
def Block.toward (s : Block) (h : HalfId) (role : Nat) : List ((HalfId × Nat) × Bool) :=
  let ps := s.nodePorts h
  let named (r : Nat) := ps.filter fun q => s.portRole q == r && s.portUp q
  let good := (named role).filter fun q => !(s.eport q.1 q.2).wrap
  if s.f h F.EUL_NODE_TOPO = 1 then
    if good.isEmpty then (named (3 - role)).map fun q => (q, true) else good.map fun q => (q, false)
  else (named role).map fun q => (q, false)

/-- Every port in use of a tree, UP or DOWN, but for the one a frame came from. -/
def Block.treePorts (s : Block) (h : HalfId) (but : Option (HalfId × Nat)) : List ((HalfId × Nat) × Bool) :=
  ((s.nodePorts h).filter fun q => (s.portRole q == 3 || s.portRole q == 4) && s.portUp q && some q != but).map fun q => (q, false)

/-- ANGCLK that a frame takes on the line: SOF, its words, the CRC and EOF, at 20 ns a symbol (rules R380, R382). -/
def EFrame.ticks (f : EFrame) : Nat := 4 * (6 + 3 * (3 + f.pay.length))

/-- SYNC and ANGLE frames leave a port before the others that wait (rule R384). -/
def EFrame.rank (f : EFrame) : Nat := if f.type = ftSYNC || f.type = ftANGLE then 0 else 1

/-- An idle port begins the first waiting frame. -/
def EPort.start (p : EPort) : EPort :=
  match p.sending, p.out with
  | none, f :: rest => { p with out := rest, sending := some (f, f.ticks) }
  | _, _ => p

/-- One ANGCLK of a port's line. -/
def EPort.tick (p : EPort) : EPort :=
  match p.sending with
  | none => p
  | some (f, n) => if n ≤ 1 then { p with sending := none }.start else { p with sending := some (f, n - 1) }

/-- A frame leaves on a port of a half, at once where none is on the line. -/
def Block.egress (s : Block) (h : HalfId) (p : Nat) (f : EFrame) : Block :=
  s.modPort h p fun x => { x with out := insertBy EFrame.rank f x.out }.start

/-- Half `h` lets a frame leave on a port of its node; on a port of the other half it crosses the bridge (rule R379). -/
def Block.emit (s : Block) (h : HalfId) (q : HalfId × Nat) (f : EFrame) : Block :=
  if q.1 = h then s.egress h q.2 f else s.send h (.fab true q.2 0 f)

/-- One ANGCLK of the lines of every port. -/
def Block.portTick (s : Block) : Block :=
  [HalfId.a, HalfId.b].foldl (fun t h => t.modFab h fun x => { x with ports := x.ports.map EPort.tick }) s

/-- What was acted on within the last 1 ms, with one more (rule R384). -/
def Fabric.see (x : Fabric) (key : Nat × Nat × Nat) (now : Nat) : Fabric :=
  { x with seen := (key, now) :: x.seen.filter fun p => fwd (2 ^ 48) p.2 now < 200000 }

def Block.sawIt (s : Block) (h : HalfId) (f : EFrame) : Bool :=
  (s.fab h).seen.any fun p => p.1 == (f.src, f.type, f.seq) && decide (fwd (2 ^ 48) p.2 (s.half h).tsc < 200000)

/-- A frame waits at a half for its own command. -/
def Block.keep (s : Block) (h : HalfId) (port arrival : Nat) (f : EFrame) : Block :=
  s.modFab h fun x => { x with pend := x.pend ++ [(port, arrival, f)] }

/-- Half `h` hands a frame to a half of its node, to the other one over the bridge; `tap`: the delay-line step of its arrival. -/
def Block.hand (s : Block) (h k : HalfId) (port tap : Nat) (f : EFrame) : Block :=
  if k = h then s.keep h port (s.stepsAt h tap) f else s.send h (.fab false port (s.stepsAt k tap) f)

/-- A node's own frame: numbered, kept against its return, and sent on EAST or on every port of a tree. The copy for
the node's other half takes one hop more. -/
def Block.fabSend (s : Block) (h : HalfId) (type group : Nat) (dst : Option Nat) (pay : List Word) : Block × EFrame :=
  let me := s.f h F.EUL_NODE_NODE
  let seq := nth 0 (s.fab h).seqs type
  let f : EFrame :=
    { w0 := wd (type * 2 ^ 20 + group * 2 ^ 16 + me)
      w1 := wd (match dst with | some d => d | none => 2 ^ 15)
      w2 := wd (seq * 2 ^ 16 + pay.length)
      pay := pay }
  let s1 := (s.nodeHalves h).foldl (fun t k => t.modFab k fun x =>
    { x.see (me, type, seq) (s.half k).tsc with seqs := x.seqs.set type ((seq + 1) % 256) }) s
  let outs := if s.f h F.EUL_NODE_TOPO = 2 then s1.treePorts h none else s1.toward h 2
  (outs.foldl (fun t q => t.emit h q.1 (f.onward (if q.1.1 = h then 0 else 1) q.2)) s1, f)

/-! ## ANGLE frames of the angle master (rule R390) -/

/-- An edge as an ANGLE frame carries it: its timestamp, ANG', predicted period and s1. -/
structure EdgeData where
  te     : Nat
  ang    : Nat
  period : Nat
  s1     : Nat
  deriving DecidableEq, Repr

/-- The edge the angle clock accepted last. -/
def Clock.edge (c : Clock) : EdgeData := ⟨c.te, c.entAng, (fracFloor c.period).toNat, c.s1⟩

/-- The payload for an edge, or for the end of sync. -/
def Block.angleWords (s : Block) (h : HalfId) (e : EdgeData) (ended : Nat) : List Word :=
  let w1 := s.f h F.WTK_STAT_SYNC (s.src h) * 2 ^ 21 + s.f h F.ANG_STAT_REV * 2 ^ 20 + s.f h F.ANG_STAT_VALID * 2 ^ 19 +
    s.f h F.ANG_CTRL_CYCLE * 2 ^ 18 + ended * 2 ^ 16
  [wd w1] ++ fabWords (s.fabTime h ((e.te : Int) * 64)) ++ [wd e.ang, periodWord e.period, wd e.s1]

/-- The angle master sends one frame for an edge, or for the end of its sync; its other half hears it over the bridge. -/
def Block.angleSendOf (s : Block) (h : HalfId) (e : EdgeData) (ended : Nat) : Block :=
  if !s.joined h || !s.on h F.EUL_ASTAT_AMASTER || !s.speaks h then s else
  let r := s.fabSend h ftANGLE (s.f h F.EUL_NODE_GROUP) none (s.angleWords h e ended)
  if s.bridgeUp h then r.1.hand h h.peer 0 0 (r.2.onward 1 false) else r.1

def Block.angleSend (s : Block) (h : HalfId) (ended : Nat) : Block := s.angleSendOf h (s.half h).clk.edge ended

/-! ## Phase watch (rules R391 to R393) -/

/-- The reference angle in AU, extrapolated to a fabric time: ANG + (t - TIME) x S1 / PERIOD. -/
def refAngle (pay : List Word) (t : Int) : Int :=
  let v (i : Nat) : Nat := (nth 0 pay i).toNat
  let time : Int := (((v 1 * 2 ^ 24 + v 2) * 64 + bits (v 3) 23 18 : Nat) : Int)
  let p := periodOf (nth 0 pay 5)
  (v 4 : Int) + fracFloor (frac (stepsTo time t * (v 6 : Int)) (64 * p))

/-- The reference master reports FULL sync and its last frame arrived within 10 ms. -/
def Block.refOk (s : Block) (h : HalfId) : Bool :=
  match (s.fab h).ref with
  | some (pay, at') => bits (nth 0 pay 0).toNat 23 21 == 3 && decide (fwd (2 ^ 48) at' (s.half h).tsc ≤ 2000000)
  | none => false

/-- A difference of angles taken signed modulo `p`, in AU. -/
def signedMod (p : Nat) (x : Int) : Int :=
  if p = 0 then 0 else
  let r := x % (p : Int)
  if 2 * r < p then r else r - p

/-- The change of D per second over the evaluations held, 1/64 °CA per second and step (256 AU). -/
def slipOf (p : Nat) (hist : List (Int × Nat)) : Int :=
  match hist, hist.getLast? with
  | (d, t) :: _, some (d0, t0) =>
    let dt := fwd (2 ^ 48) t0 t
    if dt = 0 then 0 else clampInt 32767 (fracFloor (frac (signedMod p (d - d0) * 200000000) (256 * dt)))
  | _, _ => 0

/-- A PHASE frame to PHDST (rule R393). -/
def Block.phaseSend (s : Block) (h : HalfId) (time : Int) : Block :=
  let w1 := s.f h F.EUL_PHSTAT_INWIN * 2 ^ 23 + s.f h F.EUL_PHSTAT_D
  ((s.fabSend h ftPHASE 0 (some (s.f h F.EUL_PHN_PHDST)) ([wd w1, s.w h .EUL_PHSLIP] ++ (fabWords time).take 2)).1).modFab h
    fun x => { x with phSent := 0 }

/-- One evaluation, at an edge accepted by the angle source in FULL sync. With no frame of the reference group heard REFOK is 0
and there is no D. -/
def Block.phaseWatch (s : Block) (h : HalfId) : Block :=
  if !s.on h F.EUL_PHCFG_EN then s else
  match (s.fab h).ref with
  | none =>
    let s1 := (s.setF h F.EUL_PHSTAT_INWIN 0).modFab h fun x => { x with phRun := 0 }
    if s.on h F.EUL_PHSTAT_INWIN then s1.phaseSend h (s.fabTime h (s.stepsAt h 0)) else s1
  | some (pay, _) =>
    let time := s.fabTime h (s.stepsAt h 0)
    let p := s.f h F.EUL_PHCFG_PER * 64
    let d := signedMod p ((s.ang h : Int) - refAngle pay time - (s.w h .EUL_PHOFF).toNat)
    let hist := ((d, (s.half h).tsc) :: (s.fab h).phHist).take 16
    let slip := slipOf p hist
    let inside := s.refOk h && decide (d.natAbs ≤ s.f h F.EUL_PHWIN_TOL * 64) && decide (slip.natAbs ≤ s.f h F.EUL_PHWIN_SLIP)
    let run := if inside then (s.fab h).phRun + 1 else 0
    let n := s.f h F.EUL_PHN_PH_N
    let was := s.on h F.EUL_PHSTAT_INWIN
    let now := inside && (was || decide (n ≤ run))
    let s1 := ((s.setF h F.EUL_PHSTAT_D (field 18 (d / 64))).setF h F.EUL_PHSTAT_INWIN (bitOf now)).setF h F.EUL_PHSLIP_SLIP (field 16 slip)
    let s2 := s1.modFab h fun x => { x with phRun := capNat 1023 run, phHist := hist, phSent := x.phSent + 1 }
    if now != was || (now && decide (n ≤ (s2.fab h).phSent)) then s2.phaseSend h time else s2

end Sys2Proof.Machine
end

