-- ==== Sys2Proof/Machine/Wheel.lean ====
section
/-!
DEFINITION. Wheel inputs and synchronisation (chapter 2), with the acceptance of an edge by the angle clock (chapter 3):
front ends, glitch filter, direction pulses, lauter filter, pattern matcher, sync states, cam resolution, stall, failover
and cross-checking.
-/

namespace Sys2Proof.Machine

/-! ## Trackers -/

def Block.trk (s : Block) (h : HalfId) (t : Nat) : Tracker := nth Tracker.idle (s.half h).trk t
def Block.setTrk (s : Block) (h : HalfId) (t : Nat) (x : Tracker) : Block :=
  s.modHalf h fun y => { y with trk := y.trk.set t x }
def Block.modTrk (s : Block) (h : HalfId) (t : Nat) (f : Tracker → Tracker) : Block := s.setTrk h t (f (s.trk h t))

def Block.sync (s : Block) (h : HalfId) (t : Nat) : Nat := s.f h F.WTK_STAT_SYNC t
def Block.trkRev (s : Block) (h : HalfId) (t : Nat) : Bool := s.on h F.WTK_STAT_REV t
def Block.tooth (s : Block) (h : HalfId) (t : Nat) : Nat := s.f h F.WTK_POS_TOOTH t
def Block.revol (s : Block) (h : HalfId) (t : Nat) : Nat := s.f h F.WTK_POS_REVOL t

/-- The tracker drives the half's angle clock: it is the present source, and the clock follows its own tracker (R88). -/
def Block.drives (s : Block) (h : HalfId) (t : Nat) : Bool := s.src h == t && !s.on h F.ANG_CTRL_SRC

/-- The sync-quality score (rule R72). -/
def Block.quality (s : Block) (h : HalfId) (t : Nat) : Nat :=
  let y := s.trk h t
  let st := s.sync h t
  let base := if st = syTooth then 32 else if st = syCrank then 96 else if st = syFull then 192 else 0
  if (st = syCrank || st = syFull) && !s.on h F.WTK_STAT_BLOCKED t && !s.trkRev h t then
    base + 63 - capNat 63 ((y.rejHist.filter id).length + 8 * (y.camHist.filter id).length + (if y.xMismatch then 16 else 0))
  else base

def Block.setQuality (s : Block) (h : HalfId) (t : Nat) : Block :=
  let q := s.quality h t
  let s1 := s.setF h F.WTK_STAT_QUALITY q t
  if s1.src h = t then s1.modHalf h fun x => { x with hl := { x.hl with
      qmin := if x.hl.sentQ then x.hl.qmin else x.hl.qmin.map (fun m => if q < m then q else m) } }
  else s1

/-- The SYNC notice of a sync-state change or direction declaration (rule R374). -/
def Block.syncNotice (s : Block) (h : HalfId) (t : Nat) : Block :=
  if s.maskedOff h 4 then s
  else s.notice h 0xCB [wd (t * 2 ^ 23 + s.sync h t * 2 ^ 20 + bitOf (s.trkRev h t) * 2 ^ 19 + s.quality h t * 256), wd (s.tsLow h)]

/-- A sync-state change. Where the source leaves CRANK and FULL sync, PEER_VALID falls in both halves at once; the rule gives
no delay for the bridge (DEDUCED, log entry 95). -/
def Block.setSync (s : Block) (h : HalfId) (t st : Nat) : Block :=
  if s.sync h t = st then s else
  let s0 := if s.src h = t && st != syCrank && st != syFull then s.peerInvalid else s
  let s1 := s0.setF h F.WTK_STAT_SYNC st t
  let s2 := if st = syFull then s1 else s1.setF h F.WTK_STAT_FULL_CYCLES 0 t
  (s2.setQuality h t).syncNotice h t

/-- Position of the last accepted edge, and WTK_TANG (full cycle in FULL sync, rule R68 below it). -/
def Block.setPos (s : Block) (h : HalfId) (t e rv : Nat) : Block :=
  let rv' := if s.sync h t = syFull && s.cycleL h != revAU then rv % 2 else 0
  ((s.setF h F.WTK_POS_TOOTH e t).setF h F.WTK_POS_REVOL rv' t).setW h .WTK_TANG (wd (s.crkAng h t e + rv' * revAU)) t

/-- Corrected angle of the position, global in FULL sync. -/
def Block.posAngle (s : Block) (h : HalfId) (t : Nat) : Nat := s.corrAng h t (s.tooth h t) + s.revol h t * revAU

/-! ## Windows and the matcher (rules R59, R61, R64, R75) -/

def Block.abnormal (s : Block) (h : HalfId) (t e : Nat) : Bool := s.f h F.WTK_CRK1_CLASS t e != 0

/-- A ratio lies in the window of the entry that owns the spacing (rule R61). -/
def Block.inWindow (s : Block) (h : HalfId) (t owner : Nat) (r : Frac) : Bool :=
  let g := s.f h F.WTK_CRK1_GWIN t owner
  let lo := if s.abnormal h t owner then s.f h F.WTK_GWIN_WIN_LO t g else s.f h F.WTK_WIN_WIN_LO t
  let hi := if s.abnormal h t owner then s.f h F.WTK_GWIN_WIN_HI t g else s.f h F.WTK_WIN_WIN_HI t
  r.den != 0 && decide ((lo : Int) * r.den ≤ 1000 * r.num) && decide (1000 * r.num ≤ (hi : Int) * r.den)

/-- Entry `j` matches the ratios, the table read in ascending order, or in descending order with `desc`. -/
def Block.matchesAt (s : Block) (h : HalfId) (t : Nat) (desc : Bool) (rs : List Frac) (j : Nat) : Bool :=
  let n := s.crkN h t
  rs.zipIdx.all fun p =>
    let i : Int := p.2
    let owner := if desc then entryAt n j (1 + i) else entryAt n j (-i)
    let before := if desc then entryAt n j (2 + i) else entryAt n j (-i - 1)
    s.inWindow h t owner (fracDiv p.1 ⟨s.spacing h t owner, s.spacing h t before⟩)

/-- The unique matching entry of the last M ratios, or none (rule R64). -/
def Block.matcher (s : Block) (h : HalfId) (t : Nat) (desc : Bool) : Option Nat :=
  let m := s.f h F.WTK_CTRL_MATCH_M t
  let rs := (s.trk h t).ratios.take m
  if rs.length < m || m = 0 then none
  else match (List.range (s.crkN h t)).filter (s.matchesAt h t desc rs) with
    | [j] => some j
    | _ => none

/-- CAM tolerance in AU. -/
def Block.camTol (s : Block) (h : HalfId) (t : Nat) : Nat := s.f h F.WTK_AUX_CAM_TOL t * 1024

def Block.camAng (s : Block) (h : HalfId) (t e : Nat) : Nat := (s.w h .WTK_CAM t e).toNat

/-- The distance between two angles on a circle of length `m`. -/
def circDist (m a b : Nat) : Nat := if fwd m a b < fwd m b a then fwd m a b else fwd m b a

/-- A list of numbers strictly rises. -/
def rising : List Nat → Bool
  | a :: b :: rest => decide (a < b) && rising (b :: rest)
  | _ => true

/-- The conditions of rule R59 on a tracker's tables. -/
def Block.tablesValid (s : Block) (h : HalfId) (t : Nat) : Bool :=
  let n := s.crkN h t
  let es := List.range n
  let m := s.f h F.WTK_CTRL_MATCH_M t
  let cams := (List.range (s.f h F.WTK_TABN_CAM_N t)).map (s.camAng h t)
  let odd := (es.filter (s.abnormal h t)).length
  let near (e : Nat) : Bool := (List.range (m + 1)).any fun i => s.abnormal h t (entryAt n e (-(i : Int)))
  let own (e : Nat) : List Frac := (List.range m).map fun (i : Nat) =>
    ⟨s.spacing h t (entryAt n e (-(i : Int))), s.spacing h t (entryAt n e (-(i : Int) - 1))⟩
  decide (1 ≤ n ∧ n ≤ 368) && rising (es.map (s.crkAng h t)) &&
  decide (1 ≤ odd ∧ odd ≤ 8) && es.all (fun e => s.f h F.WTK_CRK1_CLASS t e != 3) &&
  es.all (fun e => !near e || es.all (fun j => j == e || !s.matchesAt h t false (own e) j)) &&
  (s.cycleL h == revAU ||
    (!cams.isEmpty && rising cams &&
     cams.any (fun c => cams.all (fun d =>
       (c / revAU == d / revAU) || decide (2 * s.camTol h t < circDist revAU (c % revAU) (d % revAU))))))

/-! ## Front ends (rules R51, R52, R472) -/

def Block.feOf (s : Block) (n : Nat) : FrontEnd := nth ⟨false, 0, 0⟩ s.fe n
def Block.setFe (s : Block) (n : Nat) (x : FrontEnd) : Block := { s with fe := s.fe.set n x }

/-- The arming threshold: max(VR_MIN, VR_FRAC × the previous peak) (rule R52). -/
def Block.armLevel (s : Block) (n : Nat) : Nat :=
  let part := (s.feOf n).prevPeak * (s.f .a F.FE_CFG_VR_FRAC n + 1) / 8
  if part < s.f .a F.FE_CFG_VR_MIN n then s.f .a F.FE_CFG_VR_MIN n else part

/-- Whether a tracker takes an input: `none` it does not, otherwise true for a cam input. -/
def Block.takes (s : Block) (h : HalfId) (t n : Nat) : Option Bool :=
  if n < 2 then (if s.f h F.WTK_CTRL_CRK_SEL t = n then some false else none)
  else (if s.f h F.WTK_CTRL_CAM_SEL t = n + 2 then some true else none)

/-- An edge reaches the trackers of a half that take its input (rules R33, R41). -/
def Block.deliver (h : HalfId) (n : Nat) (s : Block) (t : Nat) : Block :=
  match s.takes h t n with
  | some cam => if s.angRuns h then s.modTrk h t fun y => { y with raw := y.raw ++ [(cam, (s.half h).tsc)] } else s
  | none => s

/-- FE_TIMING_EDGE: an edge of the input signal; where it is the timing edge of the mode (rule R51), and in VR mode the
detector is armed (rule R52), it goes to both halves. -/
def feTimingEdge (n : Nat) (up : Bool) (s : Block) : Block :=
  let mode := s.f .a F.FE_CFG_MODE n
  let inv := s.on .a F.FE_CFG_INV n
  let fe := s.feOf n
  let timing := if mode = 1 then fe.armed && (up == inv) else if mode = 0 then false else up == !inv
  let s1 := if mode = 0 then s else s.setF .a F.FE_STAT_LEVEL (bitOf up) n
  if !timing then s1 else
  let s2 := if mode = 1 then
      (s1.setFe n ⟨false, fe.peak, 0⟩).setF .a F.FE_STAT_PEAK (capNat 255 fe.peak) n
    else s1
  let s3 := s2.setF .a F.FE_STAT_ACTIVE 1 n
  [HalfId.a, HalfId.b].foldl (fun st h => [0, 1].foldl (Block.deliver h n) st) s3

def execFeTimingEdge (n : Fin 6) (rising : Bool) (s : State) : Host.Outcome State Fault Refusal :=
  .next { s with blk := if s.blk.drvOn then feTimingEdge n.val rising s.blk else s.blk }

/-- VR_ARM: the signal rises to a level, in 20 mV steps; above the arming threshold it arms the detector (rule R52). -/
def vrArm (n : Nat) (level : Nat) (s : Block) : Block :=
  let fe := s.feOf n
  if s.f .a F.FE_CFG_MODE n = 1 then
    s.setFe n { fe with armed := fe.armed || decide (s.armLevel n < level), peak := if fe.peak < level then level else fe.peak }
  else s

def execVrArm (n : Fin 6) (level : BitVec 16) (s : State) : Host.Outcome State Fault Refusal :=
  .next { s with blk := if s.blk.drvOn then vrArm n.val level.toNat s.blk else s.blk }

/-- VR_PEAK_TIMEOUT: 100 ms without an edge; the previous peak is taken as 0 and ACTIVE reads 0 (rule R52). -/
def vrPeakTimeout (n : Nat) (s : Block) : Block :=
  (s.setFe n { s.feOf n with prevPeak := 0 }).setF .a F.FE_STAT_ACTIVE 0 n

def execVrPeakTimeout (n : Fin 6) (s : State) : Host.Outcome State Fault Refusal :=
  .next { s with blk := if s.blk.drvOn then vrPeakTimeout n.val s.blk else s.blk }

/-- FE_FAULT_DETECT: an open or a short has held for 10 ms while the input is inactive (rule R472). OPEN is the finding
on a VR input. -/
def feFaultDetect (n : Nat) (short : Bool) (s : Block) : Block :=
  if s.on .a F.FE_STAT_ACTIVE n then s
  else if short then s.setF .a F.FE_STAT_SHORT 1 n
  else if s.f .a F.FE_CFG_MODE n = 1 then s.setF .a F.FE_STAT_OPEN 1 n
  else s

def execFeFaultDetect (n : Fin 6) (short : Bool) (s : State) : Host.Outcome State Fault Refusal :=
  .next { s with blk := if s.blk.drvOn then feFaultDetect n.val short s.blk else s.blk }

/-! ## Glitch filter (rule R53) -/

/-- The first edge of a kind in a list, and the list without it. -/
def takeEdge (cam : Bool) : List (Bool × Nat) → Option (Nat × List (Bool × Nat))
  | [] => none
  | (c, st) :: rest =>
    if c == cam then some (st, rest) else (takeEdge cam rest).map fun p => (p.1, (c, st) :: p.2)

/-- GLITCH_FILTER_PASS: the oldest waiting edge has held for GLITCH ticks and is passed, or (`held` false) its level changed
back before that and it is removed and flagged. No edge is passed before GLITCH ticks have gone since its timestamp. -/
def glitchFilterPass (h : HalfId) (t : Nat) (cam held : Bool) (s : Block) : Block :=
  match takeEdge cam (s.trk h t).raw with
  | none => s
  | some (st, rest) =>
    if held && !reached ((st + s.f h F.WTK_CTRL_GLITCH t) % 2 ^ 48) (s.half h).tsc then s
    else if held then s.modTrk h t fun y =>
      { y with raw := rest, passed := y.passed ++ [(cam, st)], dirOpen := if cam then y.dirOpen else some st }
    else (s.modTrk h t fun y => { y with raw := rest }).setF h F.WTK_ERR_GLITCH 1 t

def execGlitchFilterPass (h : HalfId) (t : Fin 2) (cam held : Bool) (s : State) : Host.Outcome State Fault Refusal :=
  .next { s with blk := glitchFilterPass h t.val cam held s.blk }

/-! ## Direction (rules R74, R75, R103, R133) -/

/-- The angle clock follows a declaration of its source: direction, position, and the predictor from the last period
alone (rule R103). At a declaration made at a pulse's trailing edge no acceptance takes place, so t_a is the declaration's own
ANGCLK and not t_e + D, which has passed (DEDUCED, log entry 97). -/
def Block.clockDeclare (s : Block) (h : HalfId) (t : Nat) (rev : Bool) : Block :=
  let y := s.trk h t
  let n := s.tooth h t
  let s1n := s.nextSpacing h t n rev
  let that := if y.lastCS = 0 then fracOf y.lastP else frac ((y.lastP * s1n : Nat) : Int) y.lastCS
  let s1 := s.setF h F.ANG_STAT_REV (bitOf rev)
  if s1.clockValid h then
    let m := s1.modM h
    (((s1.modClk h fun c =>
        { c.adopt (s1.posAngle h t) ((y.lastEdge).getD 0) s1n (s1.f h F.WTK_CTRL_GLITCH t + 6) that m rev with
          hist := [] }).reposition h).angleSend h 0)
  else s1

/-- Reverse is declared: open windows end, injection-class entries are cancelled with REVERSE, and their insertion is
suspended: records that wait for SCP are not inserted either (rules R133, R180). -/
def Block.reverseCancels (s : Block) (h : HalfId) : Block :=
  ((s.endWindows h 2).modHalf h fun x =>
    { x with sched := { x.sched with revSusp := x.sched.revSusp || x.sched.curSrc.isSome || x.sched.nextSrc.isSome
                                     due := x.sched.due.filter fun d => !((x.sched.dueRec d).any fun r => s.injClass h r.chan) } }).cancelWhere h
      cREVERSE (fun e => s.injClass h e.chan)

/-- The source of a half declares a direction: on reverse, injection-class entries are cancelled with REVERSE, armed or
not (rule R133), and the clock is repositioned. -/
def Block.sourceDeclares (s : Block) (h : HalfId) (t : Nat) (rev : Bool) : Block :=
  if !s.drives h t then s else
  let s1 := if rev then s.reverseCancels h else s
  let s2 := s1.clockDeclare h t rev
  s2.modClk h Clock.unlearn

/-- The spacings, uncorrected and corrected, that the last accepted period covered when its last entry is owned by `owner`: both
where it spans a skipped entry (rules R60, R90). -/
def Block.covered (s : Block) (h : HalfId) (t owner : Nat) (rev skip : Bool) : Nat × Nat :=
  let before := entryAt (s.crkN h t) owner (if rev then 1 else -1)
  (s.spacing h t owner + (if skip then s.spacing h t before else 0),
   s.corrSpacing h t owner + (if skip then s.corrSpacing h t before else 0))

/-- A declaration of direction at a given position: REV, REVSEEN, cleared ratios, the notice, and the source's part. Without a
tracked position it changes REV, with REVSEEN, and no position, window, entry or clock (rule R485). -/
def Block.declare (s : Block) (h : HalfId) (t : Nat) (rev : Bool) (pos : Option (Nat × Nat)) : Block :=
  let s1 := s.setF h F.WTK_STAT_REV (bitOf rev) t
  let s2 := if rev then s1.setF h F.WTK_ERR_REVSEEN 1 t else s1
  let s3 := match pos with
    | some (e, rv) =>
      let owner := if rev then entryAt (s.crkN h t) e 1 else e
      let cov := s2.covered h t owner rev (s.trk h t).lastSkip
      (s2.setPos h t e rv).modTrk h t fun y => { y with lastS := cov.1, lastCS := cov.2 }
    | none => s2
  let s4 := s3.modTrk h t fun y => { y with ratios := [], prevT := ⟨0, 1⟩, dirRun := 0, dirSteps := 0 }
  let s5 := (s4.setQuality h t).syncNotice h t
  if pos.isSome then s5.sourceDeclares h t rev else s5

/-- Position `k` entries on, with the revolution it lies in (FULL sync): entry and revolution. -/
def Block.shifted (s : Block) (h : HalfId) (t : Nat) (k : Int) : Nat × Nat :=
  let n := s.crkN h t
  let p : Int := (s.tooth h t : Int) + n * s.revol h t + k
  if n = 0 then (0, 0) else (((p % (2 * n : Nat)).toNat) % n, ((p % (2 * n : Nat)).toNat) / n)

/-- The tracker has a position. -/
def Block.placed (s : Block) (h : HalfId) (t : Nat) : Bool := s.sync h t == syCrank || s.sync h t == syFull

/-- DIRECTION_PULSE_DECODE: the trailing edge, or the next timing edge, decides a pulse's direction; after DIR_CONFIRM
pulses against the declared direction the other is declared (rules R54, R74, R485). A pulse whose period spans a skipped entry
had stepped two entries, and takes both back and two more; one whose timing edge was rejected had stepped none: it counts toward
DIR_CONFIRM and takes nothing back (DEDUCED, log entry 96). A tracker that is not enabled goes on decoding (DESIGN CHOICE, log entry
117). -/
def directionPulseDecode (h : HalfId) (t : Nat) (trailing : Bool) (s : Block) : Block :=
  let y := s.trk h t
  match y.dirOpen with
  | none => s
  | some st =>
    if s.f h F.WTK_CTRL_REV_MODE t != 1 || s.f .a F.FE_CFG_MODE (s.f h F.WTK_CTRL_CRK_SEL t) != 3 then s else
    let wid := s.f h F.WTK_DIRW_DIR_WIDTH t
    let fastT := y.lastP != 0 && decide (y.lastP < 3 * wid)
    let dir := if !trailing || fastT then y.dirLast else decide (wid ≤ ticksTo st (s.half h).tsc)
    let s1 := if trailing then s else s.setF h F.WTK_ERR_DIRERR 1 t
    let stepped := y.lastEdge == some st
    if dir == s.trkRev h t then s1.modTrk h t fun y => { y with dirOpen := none, dirLast := dir, dirRun := 0, dirSteps := 0 }
    else
      let steps := y.dirSteps + (if stepped then (if y.lastSkip then 2 else 1) else 0)
      let s2 := s1.modTrk h t fun y => { y with dirOpen := none, dirLast := dir, dirRun := y.dirRun + 1, dirSteps := steps }
      if y.dirRun + 1 < s.f h F.WTK_AUX_DIR_CONFIRM t then s2
      else s2.declare h t dir (if s2.placed h t then some (s2.shifted h t (if dir then -(2 * steps) else 2 * steps)) else none)

def execDirectionPulseDecode (h : HalfId) (t : Fin 2) (trailing : Bool) (s : State) : Host.Outcome State Fault Refusal :=
  .next { s with blk := directionPulseDecode h t.val trailing s.blk }

/-! ## Angles between edges, and the angle source (rules R56, R68, R101) -/

/-- Crank angle of an instant near the last accepted crank edge, capped at the next entry (rule R68); while
reverse is declared it falls from that edge toward the entry below (DEDUCED; log entry 30). -/
def Block.interp (s : Block) (h : HalfId) (t at' : Nat) : Int :=
  let y := s.trk h t
  let n := s.tooth h t
  let run : Int := if y.lastP = 0 then 0 else ticksSigned ((y.lastEdge).getD 0) at' * y.lastS / y.lastP
  let cap (m : Nat) : Int := if run < m then run else m
  if s.trkRev h t then s.crkAng h t n - cap (s.spacing h t n)
  else s.crkAng h t n + cap (s.spacing h t (entryAt (s.crkN h t) n 1))

/-- The interpolated angle on a circle of length `m`, with the revolution of the last accepted edge. An angle capped on 360 °CA
is not reduced before that revolution is added, so that it leads into the next one (DEDUCED, log entry 99). -/
def Block.placedAt (s : Block) (h : HalfId) (t at' m : Nat) : Nat :=
  ((s.interp h t at' + (s.revol h t * revAU : Nat)) % (m : Int)).toNat

/-- The clock relabelled to the revolution in which A lies nearer to an angle of the full cycle. -/
def Block.relabelNear (s : Block) (h : HalfId) (ang : Nat) : Block :=
  let l := s.cycleL h
  let r0 := s.relabelClock h 0
  let r1 := s.relabelClock h revAU
  if circDist l (r1.ang h) ang < circDist l (r0.ang h) ang then r1 else r0

/-- The angle source passes to tracker `t` (rule R56). M follows the new source's sync state (rule R86): a clock that ran modulo
360 °CA is relabelled to the revolution the new source knows, as rule R69 does, and A, STEP and HALT are kept but for that
revolution (rule R101; DEDUCED, log entry 102). -/
def Block.takeSource (s : Block) (h : HalfId) (t : Nat) : Block :=
  let s1 := (((s.setF h F.WTK_ASEL_CURSRC t).modHalf h fun x => { x with srcAsked := false }).modClk h Clock.unlearn).setQuality h t
  if s1.drives h t && s1.clockValid h && s1.sync h t == syFull && !s1.on h F.ANG_STAT_FULLRANGE then
    s1.relabelNear h (s1.placedAt h t (s1.half h).tsc (s1.cycleL h))
  else s1

/-- The source switches to the tracker PRIMARY was written to name, at its first accepted edge that agrees (rule R56). -/
def Block.maybeSwitch (s : Block) (h : HalfId) (t : Nat) : Block :=
  if (s.half h).srcAsked && s.f h F.WTK_ASEL_PRIMARY = t && s.src h != t && (s.trk h t).agreed then s.takeSource h t else s

/-! ## Acceptance by the angle clock (rules R90 to R96, R99, R105, R107, R148) -/

/-- The direction of a valid clock is that of its source from this edge on: a source that took over with the other direction declared
turns it here, since rule R101 keeps A, STEP and HALT until the new source's next accepted edge (DEDUCED, log entry 119). -/
def Block.clockTurns (s : Block) (h : HalfId) (rev : Bool) : Block :=
  if s.clockRev h = rev then s
  else (if rev then s.reverseCancels h else s).setF h F.ANG_STAT_REV (bitOf rev)

/-- An edge accepted by the source in CRANK or FULL sync while the clock does not follow it: the angle master's frame carries the
tracker's own values, T̂ from the last period alone, and the phase watch evaluates (rules R390, R391; DEDUCED, log entry 76). -/
def Block.sourceEdge (s : Block) (h : HalfId) (t te t0 cs : Nat) : Block :=
  let next := s.nextSpacing h t (s.tooth h t) (s.trkRev h t)
  let s1 := s.angleSendOf h ⟨te, s.posAngle h t, if cs = 0 then t0 else t0 * next / cs, next⟩ 0
  if s.sync h t == syFull then s1.phaseWatch h else s1

/-- The angle clock acts on an edge accepted by its source in CRANK or FULL sync; with `enter` the source enters that
state at this edge, and the clock is repositioned (rule R99). The history loaded there is normalised by the spacings alone, as
the rule says, without the profile factor of rule R90 (DEDUCED, log entry 94). -/
def Block.clockAccept (s : Block) (h : HalfId) (t te t0 cs : Nat) (enter : Bool) : Block :=
  if s.src h != t then s
  else if !s.drives h t || !s.on h F.ANG_CTRL_EN then s.sourceEdge h t te t0 cs
  else
  let rev := s.trkRev h t
  let full := s.sync h t == syFull
  let n := s.tooth h t
  let glob := s.posAngle h t
  let next := s.nextSpacing h t n rev
  let d := s.f h F.WTK_CTRL_GLITCH t + 6
  let fresh := enter || !s.clockValid h
  let s0 := if fresh then s.makeValid h full rev else s.clockTurns h rev
  let f1 := s0.profVal h (if rev then glob else (glob + next) % s0.cycleL h) next
  let u0 := s0.normPeriod h glob t0 cs rev
  let hist := if fresh then
      ((s.trk h t).periods.filter (fun p => p.2 != 0)).map (fun p => frac p.1 p.2)
    else u0 :: (s.half h).clk.hist
  let hist3 := hist.take 3
  let p := s0.predict h hist3 next f1
  let m := p.2.modM h
  let s1 := (p.2.modClk h fun c => { c.adopt glob te next d p.1 m rev with hist := hist3 }).notePeriod h te u0
  let s2 := if fresh then s1.reposition h else s1.meetTrajectory h
  let s3 := if full && !rev && !s2.on h F.WTK_STAT_BLOCKED t then
      let s3 := s2.learnProfile h glob t0 cs
      let s4 := s3.modClk h fun c => { c with revMarks := c.revMarks ++ [(n, te)] }
      if n = 0 then s4.learnRevolution h t te else s4
    else s2.modClk h fun c => { c with revOk := false }
  let s5 := (s3.envelopeTest h).angleSend h 0
  if full then s5.phaseWatch h else s5

/-- A half sends an edge accepted by its source to the peer (rule R83). -/
def Block.angleMessage (s : Block) (h : HalfId) (t te : Nat) : Block :=
  if s.src h = t && s.bridgeUp h then
    s.send h (.angle te (s.w h .WTK_TANG t).toNat (s.sync h t == syFull))
  else s

/-- One entry of the tooth-period ring (rules R81, R82). -/
def Block.ringWrite (s : Block) (h : HalfId) (t t0 : Nat) (skip gap : Bool) : Block :=
  let i := s.f h F.WTK_RING_WPTR t
  let st := s.sync h t
  let w1 := st * 2 ^ 21 + bitOf (s.trkRev h t) * 2 ^ 20 + bitOf skip * 2 ^ 19 + bitOf gap * 2 ^ 18 +
    (if st = syFull then s.revol h t * 512 else 0) + (if st = syTooth then 511 else s.tooth h t)
  ((s.setW h .WTK_RNG0 (periodWord t0) t i).setW h .WTK_RNG1 (wd w1) t i).setF h F.WTK_RING_WPTR (i + 1) t

/-- Judged edges enter the history of the score (rule R72). -/
def Block.judged (s : Block) (h : HalfId) (t : Nat) (rejected : Bool) : Block :=
  s.modTrk h t fun y => { y with rejHist := (rejected :: y.rejHist).take 64 }

/-- An edge is rejected (rule R63); in the blocked condition, or when a gap edge fails, the tracker blocks (rule R65). -/
def Block.reject (s : Block) (h : HalfId) (t : Nat) (gap : Bool) : Block :=
  let s1 := (s.count h F.WTK_CNT_REJECTS t).judged h t true
  let s2 := if gap then (s1.setF h F.WTK_ERR_GAPERR 1 t).setF h F.WTK_STAT_BLOCKED 1 t else s1
  let s3 := if s2.src h = t then s2.modClk h fun c => { c with revOk := false, cycClean := false } else s2
  s3.setQuality h t

/-- Whether a tracker's edge angle agrees with the angle clock at that instant within XCHK_TOL (rule R56). The tolerance is that
of the tracker whose edge is judged; the rule names the register without a tracker. The clock's angle is that of its reference
trajectory at the edge's timestamp, never beyond HALT, and not the counter A as it stands at the judgement (DESIGN CHOICE, log entry
98). -/
def Block.agrees (s : Block) (h : HalfId) (t te : Nat) : Bool :=
  let m := s.modM h
  s.clockValid h && decide (circDist m (((s.half h).clk.qHeld m (s.clockRev h) te) / 65536) (s.posAngle h t % m) ≤
    (s.trk h t).xTol * 64)

/-- After the position has moved by an edge in CRANK or FULL sync: travel counters, FULL_CYCLES of a tracker that does not drive a valid
clock (the others are counted at the cycle start, rule R71), agreement. An edge that declares a direction re-seats the position and passes
no angle 0. -/
def Block.travelled (s : Block) (h : HalfId) (t te old : Nat) (au : Nat) (declared : Bool) : Block :=
  let full := s.sync h t == syFull
  let l := s.cycleL h
  let y := s.trk h t
  let seen := y.sinceCam + au < l
  let s1 := s.modTrk h t fun y =>
    { y with sinceCam := capNat l (y.sinceCam + au), fullTravel := if full then capNat l (y.fullTravel + au) else 0,
             agreed := full && s.agrees h t te }
  let s2 := if seen then s1 else s1.setF h F.WTK_STAT_CAM_SEEN 0 t
  let wrapped := full && !declared && !s.trkRev h t && decide ((s.w h .WTK_TANG t).toNat < old)
  if wrapped && !(s.drives h t && s.clockValid h) then (s2.count h F.WTK_STAT_FULL_CYCLES t).modTrk h t fun y => { y with xMismatch := false } else s2

/-- An edge accepted in CRANK or FULL sync, `k` entries on (rules R60, R62, R64, R65, R74, R75). A re-declaration of forward
rotation sets the position to the forward match, as a declaration of reverse sets it to the descending one (DEDUCED, log entry
106). An edge that declares a direction makes the reposition of rule R103 alone, and no acceptance by the clock after it (DEDUCED,
log entry 118). -/
def Block.acceptPlaced (s : Block) (h : HalfId) (t te t0 : Nat) (k : Nat) : Block :=
  let rev := s.trkRev h t
  let n0 := s.tooth h t
  let cnt := s.crkN h t
  let old := (s.w h .WTK_TANG t).toNat
  let dest := s.shifted h t (if rev then -(k : Int) else k)
  let owner := if rev then entryAt cnt dest.1 1 else dest.1
  let first := if rev then n0 else entryAt cnt n0 1
  let span := if k = 2 then s.spacing h t first + s.spacing h t owner else s.spacing h t owner
  let cspan := if k = 2 then s.corrSpacing h t first + s.corrSpacing h t owner else s.corrSpacing h t owner
  let share : Frac := if k = 2 then frac ((t0 * s.spacing h t owner : Nat) : Int) span else fracOf t0
  let y := s.trk h t
  let ratios := if y.prevT.num = 0 then y.ratios else (fracDiv share y.prevT :: y.ratios).take 16
  let s1 := (s.setPos h t dest.1 dest.2).modTrk h t fun y =>
    { y with lastEdge := some te, lastP := t0, lastS := span, lastCS := cspan, lastSkip := k = 2, ratios := ratios,
             prevT := share, periods := ((t0, cspan) :: y.periods).take 3 }
  let s2 := (s1.setW h .WTK_LASTP (periodWord t0) t).judged h t false
  let s3 := if k = 2 then
      let s3 := (s2.setF h F.WTK_ERR_SKIP 1 t).count h F.WTK_CNT_SKIPS t
      if s3.src h = t then s3.modClk h fun c => { c with revOk := false } else s3
    else s2
  let s4 := s3.ringWrite h t t0 (k = 2) (s.abnormal h t owner)
  let fm := s4.matcher h t false
  let dm := s4.matcher h t true
  let pattern := s4.f h F.WTK_CTRL_REV_MODE t = 2
  let here := some dest.1
  let nearRev (e : Nat) : Nat × Nat :=
    let o := s4.revol h t
    let up := (e + cnt - dest.1) % (if cnt = 0 then 1 else cnt)
    if 2 * up ≤ cnt then (e, if e < dest.1 then o + 1 else o) else (e, if dest.1 < e then o + 1 else o)
  let s5 :=
    if pattern && !rev && dm.isSome && (fm.isNone || fm != here) then s4.declare h t true (dm.map nearRev)
    else if pattern && rev && fm.isSome && dm.isNone then s4.declare h t false (fm.map nearRev)
    else
      let mine := if rev then dm else fm
      if mine.isSome && mine != here then (s4.setF h F.WTK_ERR_GAPERR 1 t).setF h F.WTK_STAT_BLOCKED 1 t else s4
  let declared := s5.trkRev h t != rev
  let s6 := (s5.travelled h t te old span declared).setQuality h t
  let s7 := (s6.maybeSwitch h t).angleMessage h t te
  if !declared then (s7.clockAccept h t te t0 cspan false).jumpExecute h
  else if s7.drives h t && s7.clockValid h then
    let s8 := (s7.notePeriod h te (s7.normPeriod h (s7.posAngle h t) t0 (s7.trk h t).lastCS (!rev))).envelopeTest h
    if s8.sync h t == syFull then s8.phaseWatch h else s8
  else if s7.src h = t then s7.sourceEdge h t te t0 (s7.trk h t).lastCS
  else s7

/-- An edge accepted in TOOTH sync: the matcher may place the tracker (rules R64, R67, R99, R485). -/
def Block.acceptTooth (s : Block) (h : HalfId) (t te t0 : Nat) : Block :=
  let y := s.trk h t
  let ratios := if y.prevT.num = 0 then y.ratios else (fracDiv (fracOf t0) y.prevT :: y.ratios).take 16
  let s1 := (s.modTrk h t fun y =>
    { y with lastEdge := some te, lastP := t0, ratios := ratios, prevT := fracOf t0,
             periods := ((t0, 0) :: y.periods).take 3 }).judged h t false
  let s2 := s1.setW h .WTK_LASTP (periodWord t0) t
  let desc := s2.trkRev h t
  match s2.matcher h t desc with
  | none => (s2.ringWrite h t t0 false false).setQuality h t
  | some j =>
    let full := s2.cycleL h == revAU
    let n := s2.crkN h t
    let ownerAt (i : Nat) : Nat := if desc then entryAt n j (1 + i) else entryAt n j (-(i : Int))
    let s3 := (s2.setSync h t (if full then syFull else syCrank)).setPos h t j 0
    let s4 := s3.modTrk h t fun y =>
      { y with lastS := s3.spacing h t (ownerAt 0), lastCS := s3.corrSpacing h t (ownerAt 0), lastSkip := false, camNamed := none, fullTravel := 0,
               periods := y.periods.zipIdx.map (fun p => (p.1.1, s3.corrSpacing h t (ownerAt p.2))) }
    let s5 := s4.ringWrite h t t0 false (s4.abnormal h t (ownerAt 0))
    ((s5.setQuality h t).angleMessage h t te).clockAccept h t te t0 (s4.corrSpacing h t (ownerAt 0)) true

/-- The lauter filter's two tests in CRANK and FULL sync (rules R60 to R63): entries to step, or none for a reject. -/
def Block.lauter (s : Block) (h : HalfId) (t t0 : Nat) : Option Nat :=
  let y := s.trk h t
  let rev := s.trkRev h t
  let cnt := s.crkN h t
  let n0 := s.tooth h t
  let o1 := if rev then n0 else entryAt cnt n0 1
  let o2 := if rev then entryAt cnt n0 (-1) else entryAt cnt n0 2
  let ratio (sp : Nat) : Frac := frac ((t0 * y.lastS : Nat) : Int) (y.lastP * sp)
  if s.inWindow h t o1 (ratio (s.spacing h t o1)) then some 1
  else if s.on h F.WTK_CTRL_SKIP_EN t && !s.abnormal h t o1 && !s.abnormal h t o2 &&
      s.inWindow h t o1 (ratio (s.spacing h t o1 + s.spacing h t o2)) then some 2
  else none

/-- WTK_XCFG and WTK_STALL as they stand at an accepted edge take effect (rule R85). -/
def Block.latchCfg (s : Block) (h : HalfId) (t : Nat) : Block :=
  s.modTrk h t fun y => { y with xTol := s.f h F.WTK_XCFG_XCHK_TOL t, stallTime := s.f h F.WTK_STALL_STALL_TIME t }

/-- EDGE_ACCEPTANCE: the tracker judges the oldest passed crank edge, GLITCH + 6 ticks after its timestamp and not before (rule
R89). Where the command comes later, t_a is its own ANGCLK (log entry 90). The period that ends at the edge which enters TOOTH is
no T_prev of the matcher, whose first ratio ends at the fourth edge (DEDUCED from "M + 2 accepted edges since entering TOOTH",
log entry 103); that edge writes a ring entry, and the SYNC of every ring entry is the state after the edge (DESIGN CHOICE, log
entry 104). -/
def edgeAcceptance (h : HalfId) (t : Nat) (s : Block) : Block :=
  match takeEdge false (s.trk h t).passed with
  | none => s
  | some (te, rest) =>
    if !reached ((te + s.f h F.WTK_CTRL_GLITCH t + 6) % 2 ^ 48) (s.half h).tsc then s else
    let s0 := s.modTrk h t fun y => { y with passed := rest }
    if !s.on h F.WTK_CTRL_EN t then s0 else
    let y := s0.trk h t
    let st := s0.sync h t
    let t0 := ticksTo ((y.lastEdge).getD 0) te
    if st = syLost then
      if s0.on h F.WTK_CTRL_AUTO_RESYNC t then
        ((((s0.latchCfg h t).setSync h t syNone).modTrk h t fun y =>
          { y with lastEdge := some te, ratios := [], prevT := ⟨0, 1⟩, periods := [] }).judged h t false).setQuality h t
      else s0
    else if st = syNone then
      match y.lastEdge with
      | none => (((s0.latchCfg h t).modTrk h t fun y =>
          { y with lastEdge := some te, ratios := [], prevT := ⟨0, 1⟩, periods := [] }).judged h t false).setQuality h t
      | some _ =>
        let s1 := (s0.latchCfg h t).setSync h t syTooth
        let s2 := s1.modTrk h t fun y =>
          { y with lastEdge := some te, lastP := t0, prevT := ⟨0, 1⟩, periods := [(t0, 0)] }
        ((s2.setW h .WTK_LASTP (periodWord t0) t).ringWrite h t t0 false false).judged h t false |>.setQuality h t
    else if st = syTooth then (s0.latchCfg h t).acceptTooth h t te t0
    else if s0.on h F.WTK_STAT_BLOCKED t then s0.reject h t false
    else
      match s0.lauter h t t0 with
      | some k => (s0.latchCfg h t).acceptPlaced h t te t0 k
      | none =>
        let o1 := if s0.trkRev h t then s0.tooth h t else entryAt (s0.crkN h t) (s0.tooth h t) 1
        s0.reject h t (s0.abnormal h t o1)

def execEdgeAcceptance (h : HalfId) (t : Fin 2) (s : State) : Host.Outcome State Fault Refusal :=
  .next { s with blk := edgeAcceptance h t.val s.blk }

/-! ## Cam edges (rules R68 to R71) -/

/-- The resolution of a revolution (rules R68, R69): FULL sync, and the relabelling of tracker and clock. -/
def Block.resolve (s : Block) (h : HalfId) (t rv : Nat) : Block :=
  let s1 := (s.setSync h t syFull).setPos h t (s.tooth h t) rv
  let s2 := s1.modTrk h t fun y => { y with camNamed := none, fullTravel := 0, sinceCam := 0 }
  let s3 := (s2.setF h F.WTK_STAT_CAM_SEEN 1 t).setQuality h t
  if s3.drives h t && s3.clockValid h then s3.relabelClock h (if rv = 1 && s3.cycleL h != revAU then revAU else 0) else s3

/-- CAM_EDGE: the oldest passed cam edge is placed against the crank angle; ignored in NONE, TOOTH and LOST and in
reverse (rules R68, R70, R71, R76). An edge without a candidate in CRANK sync sets CAMERR and counts as a cam error in the score,
and not in CAMERRS, which rule R70 gives to FULL sync alone (DEDUCED, log entry 100). -/
def camEdge (h : HalfId) (t : Nat) (s : Block) : Block :=
  match takeEdge true (s.trk h t).passed with
  | none => s
  | some (te, rest) =>
    let s0 := s.modTrk h t fun y => { y with passed := rest }
    let st := s0.sync h t
    let cams := (List.range (s0.f h F.WTK_TABN_CAM_N t)).map (s0.camAng h t)
    let hist (bad : Bool) (b : Block) : Block := b.modTrk h t fun y => { y with camHist := (bad :: y.camHist).take 8 }
    if s0.trkRev h t || !(st = syCrank || st = syFull) then s0
    else if st = syCrank then
      let a := s0.placedAt h t te revAU
      match cams.filter (fun c => decide (circDist revAU (c % revAU) a ≤ s0.camTol h t)) with
      | [] => ((hist true (s0.modTrk h t fun y => { y with camNamed := none })).setF h F.WTK_ERR_CAMERR 1 t).setQuality h t
      | [c] =>
        let rv := if c < revAU then 0 else 1
        let n := match (s0.trk h t).camNamed with
          | some (r, k) => if r = rv then k + 1 else 1
          | none => 1
        let s1 := (hist false s0).modTrk h t fun y => { y with camNamed := some (rv, n) }
        if s1.f h F.WTK_AUX_CAM_CONFIRM t ≤ n then s1.resolve h t rv else s1.setQuality h t
      | _ => s0
    else
      let l := s0.cycleL h
      let a := s0.placedAt h t te l
      if cams.any (fun c => decide (circDist l c a ≤ s0.camTol h t)) then
        ((hist false (s0.modTrk h t fun y => { y with sinceCam := 0 })).setF h F.WTK_STAT_CAM_SEEN 1 t).setQuality h t
      else
        ((((hist true s0).setF h F.WTK_ERR_CAMERR 1 t).count h F.WTK_CNT_CAMERRS t).setF h F.WTK_STAT_FULL_CYCLES 0 t).setQuality h t

def execCamEdge (h : HalfId) (t : Fin 2) (s : State) : Host.Outcome State Fault Refusal :=
  .next { s with blk := camEdge h t.val s.blk }

/-! ## Loss, failover, enable and disable (rules R56, R66, R67, R78 to R80, R485) -/

/-- A tracker loses its position and enters a state without one. -/
def Block.unplace (s : Block) (h : HalfId) (t st : Nat) : Block :=
  let s0 := if s.f h F.WTK_CTRL_REV_MODE t = 1 then s else s.setF h F.WTK_STAT_REV 0 t
  let s1 := (s0.setSync h t st).setF h F.WTK_STAT_BLOCKED 0 t
  let s2 := ((s1.setW h .WTK_POS (Reg.resetAt .WTK_POS h t 0) t).setF h F.WTK_STAT_FULL_CYCLES 0 t).setF h F.WTK_STAT_CAM_SEEN 0 t
  (s2.modTrk h t fun y =>
    { y with lastEdge := none, lastP := 0, lastS := 0, lastCS := 0, lastSkip := false, ratios := [], prevT := ⟨0, 1⟩, periods := [],
             camNamed := none, fullTravel := 0, agreed := false, dirSteps := 0 }).setQuality h t

/-- The conditions of a failover from tracker `t` (rule R56). -/
def Block.failoverTo (s : Block) (h : HalfId) (t : Nat) : Bool :=
  let o := 1 - t
  let y := s.trk h o
  s.on h F.WTK_ASEL_FAILOVER_EN && s.sync h o == syFull && y.fullTravel == s.cycleL h && y.agreed

/-- The stall timeout T in ticks (rule R77). In TOOTH sync there is no prediction P, and T is STALL_TIME (DESIGN CHOICE, log
entry 101). -/
def Block.stallTicks (s : Block) (h : HalfId) (t : Nat) : Nat :=
  let y := s.trk h t
  let time := (if y.stallTime < 1000 then 1000 else y.stallTime) * 200
  let mult := s.f h F.WTK_AUX_STALL_MULT t
  let n := s.tooth h t
  let next := s.spacing h t (if s.trkRev h t then n else entryAt (s.crkN h t) n 1)
  let adapt := if y.lastS = 0 then time else mult * y.lastP * next / y.lastS
  if mult = 0 || s.sync h t == syTooth then time else capNat time (if adapt < 200000 then 200000 else adapt)

/-- When the stall timer of a tracker fires, none without an accepted edge: T after it, and up to 1 µs more (rule R78). -/
def Block.stallAt (s : Block) (h : HalfId) (t : Nat) : Option Nat :=
  (s.trk h t).lastEdge.map fun e => (e + s.stallTicks h t + Config.stallPhase (h == .b) t e % 200) % 2 ^ 48

/-- The stall is decided now: the firing instant plus GLITCH + 8 has come, and no crank edge time-stamped before that instant
waits to be judged (rule R78). -/
def Block.stalls (s : Block) (h : HalfId) (t : Nat) : Bool :=
  match s.stallAt h t with
  | some f =>
    let y := s.trk h t
    reached ((f + s.f h F.WTK_CTRL_GLITCH t + 8) % 2 ^ 48) (s.half h).tsc &&
      (y.raw ++ y.passed).all fun p => p.1 || decide (ticksSigned f p.2 ≥ 0)
  | none => false

/-- STALL_TIMEOUT: the tracker enters LOST; the source passes to the other tracker, or the clock becomes invalid and the
unarmed entries are cancelled with STALL. Before the decision is due it has no effect. -/
def stallTimeout (h : HalfId) (t : Nat) (s : Block) : Block :=
  let st := s.sync h t
  if !(st = syTooth || st = syCrank || st = syFull) || !s.stalls h t then s else
  let placed := s.placed h t
  let s1 := (s.unplace h t syLost).setF h F.WTK_ERR_LOSTSEEN 1 t
  if s.src h != t || !placed then s1
  else if !s.drives h t then s1.angleSend h 1
  else if s1.failoverTo h t then
    let s2 := s1.takeSource h (1 - t)
    s2.report h cOK 0 0 t (s2.w h .WTK_ERR t).toNat
  else (s1.clockInvalid h cSTALL).angleSend h 1

def execStallTimeout (h : HalfId) (t : Fin 2) (s : State) : Host.Outcome State Fault Refusal :=
  .next { s with blk := stallTimeout h t.val s.blk }

/-- A tracker starts (rules R55, R67). REV stays 0 without a direction sensor (rule R485). PRIMARY names the source where the other
tracker is not enabled; with it enabled CURSRC stays (DESIGN CHOICE, log entry 116). -/
def Block.trkStart (s : Block) (h : HalfId) (t : Nat) : Block :=
  let s1 := if s.on h F.WTK_CTRL_EN (1 - t) then s
    else (s.setF h F.WTK_ASEL_CURSRC (s.f h F.WTK_ASEL_PRIMARY)).modHalf h fun x => { x with srcAsked := false }
  let s2 := if s1.f h F.WTK_CTRL_REV_MODE t = 1 then s1 else s1.setF h F.WTK_STAT_REV 0 t
  ((s2.setF h F.WTK_CTRL_EN 1 t).setTrk h t Tracker.idle).setQuality h t

/-- WTK_CTRL.EN is set: ignored with WTK_ERR.CFG where the tables are invalid (rule R59). -/
def Block.trkEnable (s : Block) (h : HalfId) (t : Nat) : Block :=
  if s.on h F.WTK_CTRL_EN t then s else if s.tablesValid h t then s.trkStart h t else s.setF h F.WTK_ERR_CFG 1 t

def execWtkEnable (h : HalfId) (t : Fin 2) (s : State) : Host.Outcome State Fault Refusal :=
  s.access .WTK_CTRL h (if s.blk.on h F.WTK_CTRL_EN t.val then { s.blk with busErr := true }
    else { s.blk.trkEnable h t.val with busErr := false })

/-- WTK_CTRL.EN is cleared: NONE, and SYNC_LOST when the tracker was the angle source (rules R67, R79). -/
def Block.trkDisable (s : Block) (h : HalfId) (t : Nat) : Block :=
  if !s.on h F.WTK_CTRL_EN t then s else
  let placed := s.placed h t
  let s1 := ((s.setF h F.WTK_CTRL_EN 0 t).unplace h t syNone).modTrk h t fun y => { y with raw := [], passed := [], dirOpen := none }
  if s.src h != t || !placed then s1
  else (if s.drives h t then s1.clockInvalid h cSYNC_LOST else s1).angleSend h 2

def execWtkDisable (h : HalfId) (t : Fin 2) (s : State) : Host.Outcome State Fault Refusal :=
  s.access .WTK_CTRL h { s.blk.trkDisable h t.val with busErr := false }

/-- WTK_CLR.CLRCNT clears WTK_CNT (rule R85). -/
def execWtkClearCounters (h : HalfId) (t : Fin 2) (s : State) : Host.Outcome State Fault Refusal :=
  s.access .WTK_CLR h { s.blk.clearW h .WTK_CNT t.val with busErr := false }

/-- PRIMARY is written: the switch to the tracker it names follows at that tracker's first accepted edge that agrees, or at
enable; none is awaited where the tracker is the present source (rule R56). -/
def Block.askSource (s : Block) (h : HalfId) (t : Nat) : Block :=
  (s.setF h F.WTK_ASEL_PRIMARY t).modHalf h fun x => { x with srcAsked := s.src h != t }

def execAngleSourceSelect (h : HalfId) (t : Fin 2) (s : State) : Host.Outcome State Fault Refusal :=
  s.access .WTK_ASEL h { s.blk.askSource h t.val with busErr := false }

/-! ## Cross-checking (rules R83, R84) -/

/-- The first angle message a half has received, and the rest. -/
def takeAngle : List BMsg → Option (Nat × Nat × Bool × List BMsg)
  | [] => none
  | .angle st a f :: rest => some (st, a, f, rest)
  | m :: rest => (takeAngle rest).map fun p => (p.1, p.2.1, p.2.2.1, m :: p.2.2.2)

/-- ANGLE_MESSAGE_RECEIVE: the half compares the peer's angle with its own at that instant. DIFF is rounded toward zero to its 64
AU steps (DESIGN CHOICE, log entry 105). -/
def angleMessageReceive (h : HalfId) (s : Block) : Block :=
  let lane := s.lane h.peer
  match takeAngle lane.rx with
  | none => s
  | some (st, a, f, rest) =>
    let s0 := s.setLane h.peer { lane with rx := rest }
    let t := s0.src h
    if !s0.placed h t || !s0.placed h.peer (s0.src h.peer) || !s0.bridgeUp h || !s0.on h F.TSC_XSTAT_VALID then s0.setF h F.WTK_XCHK_PEER_VALID 0 t
    else
      let at' := (((st : Int) + (s0.half h).xdiff) % 2 ^ 48).toNat
      let both := f && s0.sync h t == syFull
      let m := if both then s0.cycleL h else revAU
      let own := s0.placedAt h t at' m
      let signed : Int := if 2 * fwd m own (a % m) < m then (fwd m own (a % m) : Int) else (fwd m own (a % m) : Int) - m
      let steps := if signed < 0 then -((-signed) / 64) else signed / 64
      let s1 := (s0.setF h F.WTK_XCHK_PEER_VALID 1 t).setF h F.WTK_XCHK_DIFF (field 15 (clampInt 16383 steps)) t
      if (s0.trk h t).xTol * 64 < signed.natAbs then
        let s2 := (s1.setF h F.WTK_ERR_XCHK 1 t).modTrk h t fun y => { y with xMismatch := true }
        (s2.setQuality h t).report h cOK 0 0 t (s2.w h .WTK_ERR t).toNat
      else s1

def execAngleMessageReceive (h : HalfId) (s : State) : Host.Outcome State Fault Refusal :=
  .next { s with blk := angleMessageReceive h s.blk }

/-! ## The angle clock's own events and commands (rules R92, R93, R95, R99, R113) -/

/-- HALT_REACHED: A stands at HALT; HALTED reads 1 until the next accepted edge. -/
def haltReached (h : HalfId) (s : Block) : Block :=
  let c := (s.half h).clk
  if s.clockValid h && c.mode != .halted && c.a == c.halt && fracLe c.haltRun (c.run (s.half h).tsc) then
    (s.modClk h fun c => { c with mode := .halted, haltLen := 1 }).clkFlags h .halted
  else s

def execHaltReached (h : HalfId) (s : State) : Host.Outcome State Fault Refusal :=
  .next { s with blk := haltReached h s.blk }

/-- HOLD_END: the reference trajectory has reached A; the clock follows it again (rule R93). -/
def holdEnd (h : HalfId) (s : Block) : Block :=
  let c := (s.half h).clk
  let m := s.modM h
  if s.clockValid h && c.mode == .hold then
    if c.holdOver m (s.clockRev h) (c.qHeld m (s.clockRev h) (s.half h).tsc) then
      (s.modClk h fun c => { c with mode := .follow }).clkFlags h .follow
    else s
  else s

def execHoldEnd (h : HalfId) (s : State) : Host.Outcome State Fault Refusal :=
  .next { s with blk := holdEnd h s.blk }

/-- CATCHUP_END: A equals Q (rule R95). -/
def catchupEnd (h : HalfId) (s : Block) : Block :=
  let c := (s.half h).clk
  if s.clockValid h && c.mode == .catchup && c.a == c.qHeld (s.modM h) (s.clockRev h) (s.half h).tsc then
    (s.modClk h fun c => { c with mode := .follow }).clkFlags h .follow
  else s

def execCatchupEnd (h : HalfId) (s : State) : Host.Outcome State Fault Refusal :=
  .next { s with blk := catchupEnd h s.blk }

/-- ANG_CTRL.EN is set: the clock stays invalid until the source's next accepted edge (rule R99), and a follower waits for its
master from now on (rule R111). -/
def Block.clockEnable (s : Block) (h : HalfId) : Block :=
  (s.setF h F.ANG_CTRL_EN 1).modHalf h fun x => { x with fab := { x.fab with usedAt := x.tsc } }

/-- ANGLE_CLOCK_ENABLE; a bus error while EN is 1 already (rule R113). -/
def execAngleClockEnable (h : HalfId) (s : State) : Host.Outcome State Fault Refusal :=
  s.access .ANG_CTRL h (if s.blk.on h F.ANG_CTRL_EN then { s.blk with busErr := true }
    else { s.blk.clockEnable h with busErr := false })

/-- ANG_CTRL.EN is cleared: the clock is invalid, and unarmed entries are cancelled with SYNC_LOST (rules R113, R133). -/
def Block.clockDisable (s : Block) (h : HalfId) : Block := (s.setF h F.ANG_CTRL_EN 0).clockInvalid h cSYNC_LOST

def execAngleClockDisable (h : HalfId) (s : State) : Host.Outcome State Fault Refusal :=
  s.access .ANG_CTRL h { s.blk.clockDisable h with busErr := false }

/-- ANG_CLR.CLRCNT clears ANG_CNT. -/
def execAngleClearCounters (h : HalfId) (s : State) : Host.Outcome State Fault Refusal :=
  s.access .ANG_CLR h { s.blk.clearW h .ANG_CNT with busErr := false }

/-- A read of ANG_NOW returns the integer part of A and latches ANG_FRAC and ANG_TSL in the same ANGCLK. -/
def Block.readAngNow (s : Block) (h : HalfId) : Block :=
  { ((s.setF h F.ANG_FRAC_FRAC ((s.half h).clk.a % 65536)).setW h .ANG_TSL (wd (s.tsLow h))) with
    busErr := false, busData := wd (s.ang h) }

def execAngNowRead (h : HalfId) (s : State) : Host.Outcome State Fault Refusal :=
  s.access .ANG_NOW h (s.blk.readAngNow h)

end Sys2Proof.Machine
end

