-- ==== Sys2Proof/Machine/Atu.lean ====
section
/-!
DEFINITION. Combustion and misfire analysis (chapter 9): the attenuation unit's computations on a finished window, its
result record, ANP's combustion feedback, the crank-speed misfire judgement and the reports.
-/

namespace Sys2Proof.Machine

/-! ## The settings a context took (rule R248) -/

/-- A register as it was when the window opened. -/
def Win.reg (w : Win) (h : HalfId) (r : Reg) (i : Nat := 0) : Nat := (memGet (r.resetAt h i 0) w.snap (r.addr h i 0)).toNat

def Win.fld (w : Win) (h : HalfId) (x : Fld) (i : Nat := 0) : Nat := bits (w.reg h x.reg i) x.hi x.lo

/-- The nearest whole number to a fraction; a half is rounded up. -/
def roundNear (x : Frac) : Int := fracFloor (fracAdd x ⟨1, 2⟩)

/-- A whole number as an unsigned 24-bit field that saturates. -/
def satU (x : Int) : Nat := if x < 0 then 0 else if 16777215 < x then 16777215 else x.toNat

/-- A whole number as a two's complement 24-bit field that saturates. -/
def satS (x : Int) : Nat := field 24 (if x < -8388608 then -8388608 else if 8388607 < x then 8388607 else x)

/-! ## Pressure, angle and volume of a sample (rules R249, R250) -/

/-- code × GAIN + OFFSET in kPa. -/
def Win.rawP (w : Win) (h : HalfId) (code : Int) : Frac :=
  frac (code * w.fld h F.ATU_CPG_GAIN w.cp + sext 24 (w.fld h F.ATU_CPO_OFFSET w.cp) * 1024) 65536

/-- The pegging reference in kPa. -/
def Win.pegRef (w : Win) (h : HalfId) : Frac :=
  if w.fld h F.ATU_PEG_SRC = 1 then frac (w.fld h F.ATU_PREF_PREF : Int) 64
  else
    let m := w.fld h F.ATU_PEG_AIN
    let c := codeOf (w.fld h F.PCV_AINCFG_ALIGN m) (wd (w.reg h .PCV_AINV m))
    let code : Int := if w.fld h F.PCV_AINCFG_DIFF (m / 2 * 2) = 1 then sext 16 c else c
    frac (code * w.fld h F.ATU_REFG_GAIN + sext 24 (w.fld h F.ATU_REFO_OFFSET) * 1024) 65536

/-- PEG in kPa, and whether pegging failed; `xs` are the samples in order. -/
def Win.peg (w : Win) (h : HalfId) (xs : List Sample) : Frac × Bool :=
  let src := w.fld h F.ATU_PEG_SRC
  let first := xs.take (w.fld h F.ATU_PEG_N + 1)
  if (src != 1 && src != 2) || first.isEmpty then (⟨0, 1⟩, false)
  else if first.any Sample.flag then (⟨0, 1⟩, true)
  else
    let sum := first.foldl (fun a x => fracAdd a (w.rawP h x.code)) ⟨0, 1⟩
    (fracSub (w.pegRef h) (fracDiv sum (fracOf first.length)), false)

/-- L as it was when the window opened (rules R5, R248). -/
def Win.cycleL (w : Win) (h : HalfId) : Nat := if w.fld h F.ANG_CTRL_CYCLE = 1 then revAU else 2 * revAU

/-- Nominal cylinder-frame angle of point `k`. -/
def Win.theta (w : Win) (h : HalfId) (l k : Nat) : Nat :=
  (w.g + pointAt w.space k + w.fld h F.ANG_TDC_OFFSET w.frame) % l

/-- Volume at a cylinder-frame angle, in the table's unit. -/
def Win.volume (w : Win) (h : HalfId) (l th : Nat) : Frac :=
  let i := th * 720 / l
  let a := w.fld h F.ATU_VOL_V i
  let b := w.fld h F.ATU_VOL_V (i + 1)
  frac ((a : Int) * l + ((b : Int) - a) * (th * 720 % l : Nat)) l

/-- One point of the computation. -/
structure Pt where
  th : Nat
  p  : Frac
  v  : Frac
  deriving DecidableEq, Repr

def Win.points (w : Win) (h : HalfId) (l : Nat) (peg : Frac) (xs : List Sample) : List Pt :=
  xs.map fun x => ⟨w.theta h l x.k, fracAdd (w.rawP h x.code) peg, w.volume h l (w.theta h l x.k)⟩

/-! ## The computations (rules R251 to R253) -/

/-- What the computation holds after some points. -/
structure Burn where
  w    : Frac
  q    : Frac
  qmax : Frac
  qs   : List (Pt × Frac)   -- points from the second on with q after them, newest first
  deriving DecidableEq, Repr

/-- One step of the computation of rule R251, from point `a` to point `b`; `g` is γ in 2^-16. -/
def Burn.step (g : Nat) (x : Burn) (a b : Pt) : Burn :=
  let pm := fracMul (fracAdd b.p a.p) ⟨1, 2⟩
  let dv := fracSub b.v a.v
  let vm := fracMul (fracAdd b.v a.v) ⟨1, 2⟩
  let q := fracAdd x.q (fracAdd (fracMul (frac (g : Int) (g - 65536)) (fracMul pm dv))
    (fracMul (frac 65536 (g - 65536)) (fracMul vm (fracSub b.p a.p))))
  { w := fracAdd x.w (fracMul pm dv), q := q, qmax := fracMax x.qmax q, qs := (b, q) :: x.qs }

def burn (g : Nat) : Burn → List Pt → Burn
  | x, a :: b :: rest => burn g (x.step g a b) (b :: rest)
  | x, _ => x

/-- The first of the points with the greatest pressure. -/
def peakPt : List Pt → Option Pt
  | [] => none
  | a :: rest => some (rest.foldl (fun m b => if fracLt m.p b.p then b else m) a)

/-- The angle at which q first reaches a level, between the point before and the point at the crossing. -/
def crossing (l : Nat) (level : Frac) : Pt → Frac → List (Pt × Frac) → Nat
  | _, _, [] => 0
  | a, qa, (b, qb) :: rest =>
    if fracLe level qb then
      let part := if qb = qa then ⟨1, 1⟩ else fracDiv (fracSub level qa) (fracSub qb qa)
      (((a.th : Int) + roundNear (fracMul part (fracOf (fwd l a.th b.th)))) % (l : Int)).toNat
    else crossing l level b qb rest

/-- The second differences of the pressure at the points that the ringing span holds (rule R253). -/
def ringing (l start stop : Nat) : List Pt → Frac
  | a :: b :: c :: rest =>
    let d := fracSub (fracAdd c.p a.p) (fracMul ⟨2, 1⟩ b.p)
    let abs : Frac := if d.num < 0 then ⟨-d.num, d.den⟩ else d
    let r := ringing l start stop (b :: c :: rest)
    if fwd l start c.th < fwd l start stop then fracMax r abs else r
  | _ => ⟨0, 1⟩

/-! ## The result record (rules R254, R255) -/

def Block.recWord (s : Block) (h : HalfId) (c i : Nat) : Word := s.w h .ATU_REC (16 * c + i)

def Block.putRec (s : Block) (h : HalfId) (c : Nat) (ws : List Word) : Block :=
  ws.zipIdx.foldl (fun t p => t.setW h .ATU_REC p.1 (16 * c + p.2)) s

/-- The words of a job's record, with the free values for what has no value: IMEP over a volume of 0, and heat release with
a reserved γ (log entry 5). The settings are those of the window's opening; the misfire thresholds, which rule R248 does not count
among them, are those at the record. -/
def Block.atuWords (s : Block) (h : HalfId) (j : AtuJob) : List Word × Block :=
  let w := j.win
  let l := w.cycleL h
  let xs := w.samples.reverse
  let peg := w.peg h xs
  let pts := w.points h l peg.1 xs
  let g := w.fld h F.ATU_GAMMA_GAMMA
  let gOk := decide (65537 ≤ g ∧ g ≤ 131071)
  let b := burn g ⟨⟨0, 1⟩, ⟨0, 1⟩, ⟨0, 1⟩, []⟩ pts
  let pk := match peakPt pts with
    | some p => (satU (roundNear (fracMul p.p ⟨64, 1⟩)), p.th)
    | none => (0, w.theta h l 0)
  let vd := w.fld h F.ATU_VD_VD
  let d1 := s.draw
  let imep := if vd = 0 then (d1.1, d1.2) else (satS (roundNear (fracMul (fracDiv b.w (fracOf vd)) ⟨64, 1⟩)), s)
  let unit : Int := if w.fld h F.ATU_CFG_VUNIT = 1 then 16 else 1
  let qs := b.qs.reverse
  let q := satS (roundNear (fracMul b.qmax (frac (unit * 16) 1000000)))
  let noca := !gOk || fracLe b.qmax ⟨0, 1⟩
  let ca (x : Nat) : Nat := match pts with
    | p0 :: _ => if noca then 0 else crossing l (fracMul b.qmax ⟨x, 100⟩) p0 ⟨0, 1⟩ qs
    | [] => 0
  let d2 := imep.2.draw
  let heat := if gOk then (q, imep.2) else d2
  let ring := satU (roundNear (fracMul (ringing l (w.fld h F.ATU_RSTART_ANGLE) (w.fld h F.ATU_REND_ANGLE) pts) ⟨64, 1⟩))
  let long := decide (4096 < w.next)
  let valid := j.endCode == 0 && !w.jump && !w.drop && w.flags == 0 && !peg.2 && !long
  let mf := valid && (decide (sext 24 imep.1 < sext 24 (s.f h F.ATU_MFIMEP_TH)) || decide (sext 24 heat.1 < sext 24 (s.f h F.ATU_MFQ_TH)))
  let cycle := (bits (s.recWord h w.frame 0).toNat 15 8 + 1) % 256
  ([wd (w.frame * 2 ^ 19 + j.endCode * 2 ^ 16 + cycle * 256 + bitOf valid * 128 + bitOf mf * 64 + bitOf w.jump * 32 + bitOf w.drop * 16 +
      bitOf (w.flags != 0) * 8 + bitOf noca * 4 + bitOf peg.2 * 2 + bitOf long),
    wd pk.1, wd pk.2, wd imep.1, wd heat.1, wd (ca 10), wd (ca 50), wd (ca 90), wd ring, wd (w.tag * 2 ^ 14), wd (s.tsLow h)], heat.2)

def Block.modAtu (s : Block) (h : HalfId) (f : Atu → Atu) : Block := s.modHalf h fun x => { x with atu := f x.atu }

/-- ATU_RECORD_WRITE: the context's window is analysed, and its record replaces the cylinder's. ATU_CA50Tc, ATU_FBG and ATU_FBc
take effect as they stand (rule R264). -/
def atuRecordWrite (h : HalfId) (ctx : Nat) (s : Block) : Block :=
  match (s.half h).atu.jobs.find? (fun j => j.ctx == ctx) with
  | none => s
  | some j =>
    let r := s.atuWords h j
    let c := j.win.frame
    let w0 := (nth 0 r.1 0).toNat
    let valid := bits w0 7 7 == 1
    let mf := bits w0 6 6 == 1
    let fb := valid && !mf && (s.on h F.ATU_CYL_CAFB c || s.on h F.ATU_CYL_IMFB c)
    let due : FbDue :=
      { cyl := c, ca50 := (nth 0 r.1 6).toNat, imep := sext 24 (nth 0 r.1 3).toNat, target := s.f h F.ATU_CA50T_TARGET c,
        kca := s.f h F.ATU_FBG_KCA, kim := s.f h F.ATU_FBG_KIM, late := j.win.late }
    let s1 := (r.2.putRec h c r.1).modAtu h fun x =>
      { x with jobs := x.jobs.erase j, fresh := x.fresh.set c true, fbHeld := x.fbHeld.set c none,
               imep := if valid then x.imep.set c (some (sext 24 (nth 0 r.1 3).toNat)) else x.imep,
               fbDue := if fb then x.fbDue ++ [due] else x.fbDue }
    let s2 := if bits w0 1 1 = 1 then s1.setF h F.ATU_ERR_PEGFAIL 1 else s1
    if valid then s2 else s2.setF h F.ATU_ERR_INVALID 1

def execAtuRecordWrite (h : HalfId) (ctx : Fin 8) (s : State) : Host.Outcome State Fault Refusal :=
  .next { s with blk := atuRecordWrite h ctx.val s.blk }

/-- A read of word 0 of a result record latches words 1 to 10 (rule R254). -/
def Block.readRec0 (s : Block) (h : HalfId) (c : Nat) : Block :=
  { s.modAtu h (fun x => { x with latch := (c, (List.range 10).map fun i => s.recWord h c (i + 1)) }) with
    busErr := false, busData := s.recWord h c 0 }

def execAtuRecordRead (h : HalfId) (c : Fin 24) (s : State) : Host.Outcome State Fault Refusal :=
  s.access .ATU_REC h (s.blk.readRec0 h c.val)

/-! ## Combustion feedback (rules R257 to R259) -/

/-- The untrimmed PARAM of the cylinder's main shot in the schedule in use. -/
def Block.mainParam (s : Block) (h : HalfId) (c : Nat) : Option Nat :=
  (s.inUse h).bind fun ws =>
    ((imgRecs ws).find? fun r => r.frame == c && r.tag == s.f h F.ATU_CYL_MAINTAG c).map fun r => r.w2.toNat

/-- The mean of the latest VALID IMEP of the half's cylinders with IMFB set, as sum and number. -/
def Block.imepRef (s : Block) (h : HalfId) : Int × Nat :=
  let l := (List.range 24).filterMap fun c =>
    if s.ownsCyl h c && s.on h F.ATU_CYL_IMFB c then nth none (s.half h).atu.imep c else none
  (l.foldl (· + ·) 0, l.length)

/-- The signed difference of two cylinder-frame angles, `a` after `b` positive, modulo the cycle (rule R6). -/
def angleDiff (l a b : Nat) : Int := if 2 * fwd l b a < l then fwd l b a else (fwd l b a : Int) - l

/-- a_c after a record: `d` steps of the angle correction toward the target, rounded toward zero (rule R258). -/
def stepAngle (l : Nat) (d : FbDue) (a : Int) : Int :=
  clampInt 2047 (a + ((d.kca : Int) * angleDiff l d.target d.ca50).tdiv (256 * 64))

/-- e_c after a record, by the reference as sum and number and the untrimmed PARAM `e` of the main shot (rule R258). -/
def stepEnergising (ref : Int × Nat) (d : FbDue) (e : Nat) (x : Int) : Int :=
  clampInt 2047 (x + ((d.kim : Int) * e * (ref.1 - ref.2 * d.imep)).tdiv (256 * ref.1 * 16))

/-- COMBUSTION_FEEDBACK: a_c and e_c from the oldest VALID record of the cylinder not yet used, and ANP's pairs of the cylinder
to their pending copies. The feedback is late when the cylinder's trim latch was passed in an earlier ANGCLK (rules R157, R257). -/
def combustionFeedback (h : HalfId) (c : Nat) (s : Block) : Block :=
  match (s.half h).atu.fbDue.find? (fun d => d.cyl == c) with
  | none => s
  | some d =>
    let s0 := s.modAtu h fun x => { x with fbDue := x.fbDue.erase d }
    if s.phase h = phTEST || nth 0 (s.half h).hip.roles 2 = 2 then s0 else
    let old := corrOf (s0.corr h c)
    let a := if s0.on h F.ATU_CYL_CAFB c then stepAngle (s0.cycleL h) d old.1 else old.1
    let ref := s0.imepRef h
    let e := match s0.mainParam h c with
      | some n => if s0.on h F.ATU_CYL_IMFB c && decide (0 < ref.1) then stepEnergising ref d n old.2 else old.2
      | none => old.2
    let s1 := (s0.setCorr h c (corrWord (a, e))).writePairs h fun r => r.frame == c
    if d.late.isSome && d.late != some (s.half h).tsc then s1.setF h F.ATU_ERR_LATEFB 1 else s1

def execCombustionFeedback (h : HalfId) (c : Fin 24) (s : State) : Host.Outcome State Fault Refusal :=
  .next { s with blk := combustionFeedback h c.val s.blk }

/-! ## Misfire from crank speed (rules R260 to R262) -/

/-- The newest entries of a tooth-period ring, newest first: word 0 and word 1 of each. -/
def Block.ringEntries (s : Block) (h : HalfId) (t : Nat) : List (Nat × Nat) :=
  let p := s.f h F.WTK_RING_WPTR t
  (List.range 1024).map fun i =>
    let k := (p + 1023 - i) % 1024
    ((s.w h .WTK_RNG0 t k).toNat, (s.w h .WTK_RNG1 t k).toNat)

/-- Global angle of a ring entry, by its tooth and revolution. -/
def Block.ringAngle (s : Block) (h : HalfId) (t w1 : Nat) : Nat :=
  (s.corrAng h t (bits w1 8 0) + revAU * bits w1 9 9) % s.cycleL h

/-- A ring entry lies in the segment of a cylinder. -/
def Block.inSegment (s : Block) (h : HalfId) (t c w1 : Nat) : Bool :=
  let l := s.cycleL h
  let d := fwd l ((s.tdc h c + s.f h F.ATU_MFSEG_START * 4096) % l) (s.ringAngle h t w1)
  decide (0 < d) && decide (d ≤ s.f h F.ATU_MFSEG_LEN * 4096)

/-- The period of a ring entry in ticks (rule R81). -/
def ringPeriod (w0 : Nat) : Nat := bits w0 19 0 * 2 ^ bits w0 23 20

/-- How far the wheel travelled from ring entry `b` to the next newer one, `a`, whichever way it turned. -/
def Block.ringTravel (s : Block) (h : HalfId) (t a b : Nat) : Nat :=
  if bits a 20 20 = 1 then fwd (s.cycleL h) (s.ringAngle h t a) (s.ringAngle h t b)
  else fwd (s.cycleL h) (s.ringAngle h t b) (s.ringAngle h t a)

/-- The entries, newest first, that lie less than `room` of travel behind the first. -/
def Block.lastCycle (s : Block) (h : HalfId) (t : Nat) : Nat → List (Nat × Nat) → List (Nat × Nat)
  | room, a :: b :: rest =>
    let d := s.ringTravel h t a.2 b.2
    if d < room then a :: s.lastCycle h t (room - d) (b :: rest) else [a]
  | _, l => l

/-- The entries of the latest pass of a cylinder's segment: none when that pass left none, whatever older passes left (rules R261,
R262). -/
def Block.segmentRing (s : Block) (h : HalfId) (t c : Nat) : List (Nat × Nat) :=
  ((s.lastCycle h t (s.cycleL h) (s.ringEntries h t)).dropWhile fun e => !s.inSegment h t c e.2).takeWhile fun e => s.inSegment h t c e.2

/-- τ of a cylinder's latest segment, none where rule R262 leaves it without one. -/
def Block.tauOf (s : Block) (h : HalfId) (c : Nat) : Option Frac :=
  let t := s.src h
  let es := s.segmentRing h t c
  if es.isEmpty || es.any (fun e => bits e.2 19 19 = 1 || bits e.2 20 20 = 1 || bits e.2 23 21 != syFull) then none
  else
    some (frac ((total (fun e => ringPeriod e.1) es : Nat) : Int) (total (fun e => s.corrSpacing h t (bits e.2 8 0)) es))

/-- The cylinder that fires before another, among all N_CYL (rule R260). -/
def Block.firesBefore (s : Block) (h : HalfId) (c : Nat) : Option Nat :=
  let l := s.cycleL h
  let others := (List.range (s.f h F.ANG_CYL_N_CYL)).filter fun d => d != c
  (sortBy (fun d => (fwd l (s.tdc h d) (s.tdc h c) + l - 1) % l) others).head?

/-- CRANK_MISFIRE_JUDGE: the segment of a cylinder has ended. -/
def crankMisfireJudge (h : HalfId) (c : Nat) (s : Block) : Block :=
  if s.f h F.ANG_CYL_N_CYL ≤ c then s else
  let x := (s.half h).atu
  let tau := s.tauOf h c
  let before := (s.firesBefore h c).bind fun d => nth none x.tau d
  let fuel := nth false x.fuel c
  let s1 := s.modAtu h fun x => { x with tau := x.tau.set c tau, fuel := x.fuel.set c false }
  if !s.ownsCyl h c then s1 else
  let note (v : Bool × Bool × Int) (t : Block) : Block := t.modAtu h fun x => { x with crk := x.crk.set c (some v) }
  let cyc := (s.half h).clk.cycLen
  match tau, before with
  | some a, some p =>
    if !s.on h F.ATU_CFG_MFEN || !fuel || cyc = 0 then note (false, false, 0) s1
    else
      let m := fracMul (fracDiv (fracSub a p) (frac (cyc : Int) (s.cycleL h))) ⟨65536, 1⟩
      let b := sext 16 (s.f h F.ATU_MFS_BASE c)
      let diff := fracSub m ⟨b, 1⟩
      let metric := fracFloor diff
      if fracLt (fracOf (s.f h F.ATU_MFTH_TH)) diff then note (true, true, metric) (s1.count h F.ATU_MFS_MFCNT c)
      else
        let b' := fracFloor (fracAdd ⟨b, 1⟩ (fracMul diff ⟨1, 2 ^ s.f h F.ATU_MFTH_RATE⟩))
        let held := if b' < -32768 then -32768 else if 32767 < b' then 32767 else b'
        note (true, false, metric) (s1.setF h F.ATU_MFS_BASE (field 16 held) c)
  | _, _ => note (false, false, 0) s1

def execCrankMisfireJudge (h : HalfId) (c : Fin 24) (s : State) : Host.Outcome State Fault Refusal :=
  .next { s with blk := crankMisfireJudge h c.val s.blk }

/-! ## Reports (rule R263) -/

/-- COMBUSTION_REPORT_SEND: what is due for a cylinder cycle from its new record and its crank-speed verdict. -/
def combustionReportSend (h : HalfId) (c : Nat) (s : Block) : Block :=
  let x := (s.half h).atu
  let fresh := nth false x.fresh c
  let crk := nth none x.crk c
  if !fresh && crk.isNone then s else
  let v := crk.getD (false, false, 0)
  let words := (List.range 11).map (s.recWord h c)
  let w0 := (s.recWord h c 0).toNat
  let atuMf := bits w0 6 6 == 1
  let m0 := c * 2 ^ 19 + bits w0 15 8 * 2 ^ 11 + bitOf v.1 * 1024 + bitOf v.2.1 * 512 + bitOf atuMf * 256
  let pay := words ++ [wd m0, wd (satS v.2.2)]
  let div := s.f h F.ATU_CFG_RDIV
  let since := nth 0 x.since c + 1
  let comb := fresh && s.on h F.ATU_CYL_EN c && div != 0 && decide (div ≤ since)
  let s1 := s.modAtu h fun x =>
    { x with fresh := x.fresh.set c false, crk := x.crk.set c none,
             since := if fresh then x.since.set c (if comb then 0 else since) else x.since }
  let s2 := if comb then s1.softNotice h 0xC7 pay 2 else s1
  if s.on h F.ATU_CFG_MFNOTE && ((fresh && atuMf) || v.2.1) then s2.softNotice h 0xC8 pay 1 else s2

def execCombustionReportSend (h : HalfId) (c : Fin 24) (s : State) : Host.Outcome State Fault Refusal :=
  .next { s with blk := combustionReportSend h c.val s.blk }

/-! ## Clears (rule R264) -/

/-- ATU_CLR.CLRBASE: every b_c is 0. -/
def Block.clearBase (s : Block) (h : HalfId) : Block := (List.range 24).foldl (fun t c => t.setF h F.ATU_MFS_BASE 0 c) s

def execAtuClearBaseline (h : HalfId) (s : State) : Host.Outcome State Fault Refusal :=
  s.access .ATU_CLR h { s.blk.clearBase h with busErr := false }

/-- ATU_CLR.CLRCNT: every MFCNT is 0. -/
def Block.clearMfcnt (s : Block) (h : HalfId) : Block := (List.range 24).foldl (fun t c => t.setF h F.ATU_MFS_MFCNT 0 c) s

def execAtuClearCounts (h : HalfId) (s : State) : Host.Outcome State Fault Refusal :=
  s.access .ATU_CLR h { s.blk.clearMfcnt h with busErr := false }

/-- ATU_VD as a commit computes it: the greatest less the least volume (rule R250). -/
def Block.deriveVd (s : Block) (h : HalfId) : Block :=
  let vs := (List.range 721).map fun i => s.f h F.ATU_VOL_V i
  let lo := vs.foldl (fun m v => if v < m then v else m) (nth 0 vs 0)
  s.setW h .ATU_VD (wd (maxOf vs - lo))

end Sys2Proof.Machine
end

