-- ==== Sys2Proof/Machine/LineCode.lean ====
section
/-!
DEFINITION. The line layer of the host link and of the fabric (chapters 15 and 17): the 8b/10b code with its running disparity,
the control sequences, the CRC-32C, and the symbols of a training set and of a frame. The code tables are those of IEEE 802.3
Clause 36, which rule R343 names and does not print (PRESUMED, log entry 138).
-/

namespace Sys2Proof.Machine

/-! ## Symbols (rule R343) -/

/-- A symbol before coding: a control or a data byte. -/
structure Sym where
  ctl  : Bool
  byte : Nat
  deriving DecidableEq, Repr

def Sym.d (b : Nat) : Sym := ⟨false, b % 256⟩

/-- K28.5, K28.0, K27.7 and K29.7. -/
def symK285 : Sym := ⟨true, 0xBC⟩
def symK280 : Sym := ⟨true, 0x1C⟩
def symSOF : Sym := ⟨true, 0xFB⟩
def symEOF : Sym := ⟨true, 0xFD⟩

/-- Sub-blocks abcdei of D.00 to D.31 for negative running disparity, a as bit 5. -/
def sixBits : List Nat :=
  [0x27, 0x1D, 0x2D, 0x31, 0x35, 0x29, 0x19, 0x38, 0x39, 0x25, 0x15, 0x34, 0x0D, 0x2C, 0x1C, 0x17,
   0x1B, 0x23, 0x13, 0x32, 0x0B, 0x2A, 0x1A, 0x3A, 0x33, 0x26, 0x16, 0x36, 0x0E, 0x2E, 0x1E, 0x2B]

/-- Sub-blocks fghj of D.x.0 to D.x.7 for negative running disparity, f as bit 3; the last is D.x.P7. -/
def fourBits : List Nat := [0xB, 0x9, 0x5, 0xC, 0xD, 0xA, 0x6, 0xE]

/-- Sub-blocks fghj of K.x.0 to K.x.7 for negative running disparity. -/
def fourCtl : List Nat := [0xB, 0x6, 0xA, 0xC, 0xD, 0x5, 0x9, 0x7]

/-- How many of the low `n` bits are 1. -/
def ones (n v : Nat) : Nat := total (fun i => v / 2 ^ i % 2) (List.range n)

/-- A sub-block of `n` bits at a running disparity (true: positive), from its form at negative, and the disparity after it. A form
that changes sides is the complement at positive disparity: an unbalanced one, and the balanced ones named. -/
def subBlock (n : Nat) (both : Bool) (v : Nat) (rd : Bool) : Nat × Bool :=
  let level := 2 * ones n v == n
  (if rd && (!level || both) then 2 ^ n - 1 - v else v, if level then rd else !rd)

/-- One symbol in ten bits, abcdei then fghj, with a as bit 9, at a running disparity; and the disparity after it. -/
def Sym.code (x : Sym) (rd : Bool) : Nat × Bool :=
  let lo := x.byte % 32
  let hi := x.byte / 32
  let six := if x.ctl && lo == 28 then subBlock 6 false 0x0F rd else subBlock 6 (lo == 7) (nth 0 sixBits lo) rd
  let alt := hi == 7 && (if six.2 then lo == 11 || lo == 13 || lo == 14 else lo == 17 || lo == 18 || lo == 20)
  let four := if x.ctl then subBlock 4 true (nth 0 fourCtl hi) six.2
    else if alt then subBlock 4 false 0x7 six.2
    else subBlock 4 (hi == 3) (nth 0 fourBits hi) six.2
  (six.1 * 16 + four.1, four.2)

/-- What a list of symbols puts on the line from a running disparity, and the disparity after it. -/
def lineCode : List Sym → Bool → List Nat × Bool
  | [], rd => ([], rd)
  | x :: rest, rd =>
    let c := x.code rd
    let r := lineCode rest c.2
    (c.1 :: r.1, r.2)

/-- A word as its three bytes, [23:16] first. -/
def wordSyms (w : Word) : List Sym := (wordBytes w).map Sym.d

/-! ## Control sequences (rules R344, R380) -/

/-- IDLE: K28.5, D16.2. -/
def lineIDLE : List Sym := [symK285, .d 0x50]

/-- SKIP: K28.0, K28.0. -/
def lineSKIP : List Sym := [symK280, symK280]

/-- A training set: K28.5, D21.5, FLAGS, REV. -/
def TrainSet.line (t : TrainSet) : List Sym := [symK285, .d 0xB5, .d t.flags.toNat, .d t.rev.toNat]

/-- The training set the unit sends: ACK in ALIGN, FLAGS [1] and REV of the unit, and on a fabric port the lane on which it wants to
receive. -/
def unitSet (ack : Bool) (lane : Nat) : TrainSet := ⟨BitVec.ofNat 8 (4 * (lane % 2) + 2 + bitOf ack), 0xC2⟩

/-- A training set from the host is as rule R344 has it. -/
def TrainSet.fromHost (t : TrainSet) : Bool := decide (t.flags.toNat ≤ 1) && t.rev == 0

/-- A training set from another unit is as rules R344 and R380 have it. -/
def TrainSet.fromUnit (t : TrainSet) : Bool := decide (t.flags.toNat < 8) && bits t.flags.toNat 1 1 == 1 && t.rev == 0xC2

def TrainSet.ack (t : TrainSet) : Bool := bits t.flags.toNat 0 0 == 1

/-- The lane on which the sender wants to receive. -/
def TrainSet.lane (t : TrainSet) : Nat := bits t.flags.toNat 2 2

/-! ## Frames (rules R349, R382) -/

/-- The CRC-32C of the bytes of words in the order sent. -/
def crc32c (ws : List Word) : Nat := crcWith 0x82F63B78 ws

/-- The symbols of a frame: SOF, the words, the CRC with [31:24] first, EOF. -/
def frameSyms (ws : List Word) : List Sym :=
  let c := crc32c ws
  [symSOF] ++ ws.flatMap wordSyms ++ [.d (bits c 31 24), .d (bits c 23 16), .d (bits c 15 8), .d (bits c 7 0)] ++ [symEOF]

/-- The CRC received is that of the words received. -/
def FrameEnd.crcOk (e : FrameEnd) (ws : List Word) : Bool := e.crc.toNat == crc32c ws

/-- A frame received whole: no code violation, EOF in place, and its CRC. -/
def FrameEnd.good (e : FrameEnd) (ws : List Word) : Bool := e.clean && e.crcOk ws

/-- The end of a frame of these words as its sender makes it. -/
def frameEnd (ws : List Word) : FrameEnd := ⟨true, BitVec.ofNat 32 (crc32c ws)⟩

end Sys2Proof.Machine
end

