-- ==== Sys2Proof/Machine/Mailboxes.lean ====
section
/-!
DEFINITION. Mailboxes (chapter 14, rules R335 to R340): posts, takes, endpoint resets, crossings, and the two firmware
flows that keep them moving: HIP posting replies and notices, the link block posting host words.
-/

namespace Sys2Proof.Machine

/-- The role a bus master has: 0 HIP, 1 SCP, 2 ANP, 3 SUP, 4 the host's end in the link block; SPC has the role it took. -/
def Block.roleOf (s : Block) (h : HalfId) : Master → Option Nat
  | .hip => if nth 2 (s.half h).hip.roles 0 = 0 then some 0 else none
  | .scp => if nth 2 (s.half h).hip.roles 1 = 0 then some 1 else none
  | .anp => if nth 2 (s.half h).hip.roles 2 = 0 then some 2 else none
  | .sup => some 3
  | .spc => (List.range 3).find? fun r => nth 2 (s.half h).hip.roles r == 1
  | .link => some 4

def Block.mbxFull (s : Block) (h : HalfId) (m : Nat) : Bool := s.on h F.MBX_STAT_FULL m

/-- A word is stored and FULL set (rule R337). -/
def Block.mbxStore (s : Block) (h : HalfId) (m : Nat) (v : Word) : Block :=
  (s.setW h .MBX_DATA v m).setF h F.MBX_STAT_FULL 1 m

/-- FULL clears by a take (cause 0) or by a discard (cause 1), which the sender sees. -/
def Block.mbxEmpty (s : Block) (h : HalfId) (m cause : Nat) : Block :=
  ((s.setF h F.MBX_STAT_FULL 0 m).setF h F.MBX_STAT_EMPTYEV 1 m).setF h F.MBX_STAT_ECAUSE cause m

/-! ## Words that wait for a mailbox -/

/-- The link that serves a half's mailboxes (QHL_BIND.LINK, rule R355). -/
def Block.servedBy (s : Block) (h : HalfId) : HalfId := if s.on h F.QHL_BIND_LINK then h.peer else h

/-- A host word for a mailbox of half `h`, or the news that it is empty again, is on the bridge. -/
def Block.hostWay (s : Block) (h : HalfId) (second : Bool) : Bool :=
  let out := s.lane h.peer
  let back := s.lane h
  (out.fifo ++ out.wait).any (fun m => match m with | .host c _ => c == second | _ => false) ||
    (back.fifo ++ back.wait).any (fun m => match m with | .freed c => c == second | _ => false)

/-- The link block posts the next host word into an empty MBX0 or MBX4 and frees its credit; into a mailbox of the other half over the
bridge, one word at a time (rules R338, R354, log entry 89). -/
def Block.linkFeed (s : Block) (h : HalfId) (second : Bool) : Block :=
  let m := if second then 4 else 0
  let l := s.servedBy h
  let c := bitOf second
  match nth [] (s.half l).link.hold (2 * h.num + c) with
  | [] => s
  | v :: rest =>
    if s.mbxFull h m || (l != h && (!s.bridgeUp l || s.hostWay h second)) then s
    else (if l = h then s.mbxStore h m v else s.send l (.host second v)).modHalf l fun x =>
      { x with link := { x.link with hold := x.link.hold.set (2 * h.num + c) rest,
                                     freed := x.link.freed.set (4 * h.num + c) (nth 0 x.link.freed (4 * h.num + c) + 1) } }

/-- MBX0 or MBX4 of half `h` is empty again: the link that serves it posts the next word, once it hears of it. -/
def Block.linkMore (s : Block) (h : HalfId) (second : Bool) : Block :=
  if s.servedBy h = h then s.linkFeed h second
  else if s.bridgeUp h then s.send h (.freed second) else s

/-- The header and words of a notice, as posted into MBX6 (rule R360). -/
def Notice.post (n : Notice) : List Word := wd (n.code * 2 ^ 16 + n.words.length * 2 ^ 10 + n.seq) :: n.words

/-- HIP begins the next notice: those in order first, then COMBUSTION, MISFIRE and CAN_RX, which are numbered now, and a
DROPPED notice once their queue has room after a loss (rules R364, R375). -/
def Block.nextNotice (s : Block) (h : HalfId) : Block :=
  let p := (s.half h).hip
  match p.six, p.out6, p.soft with
  | [], n :: rest, _ => s.modHalf h fun x => { x with hip := { x.hip with six := n.post, out6 := rest } }
  | [], [], n :: rest =>
    let s1 := (s.modHalf h fun x => { x with hip := { x.hip with soft := rest } }).notice h n.code n.words
    let s2 := if p.lost = (0, 0, 0) then s1 else
      (s1.modHalf h fun x => { x with hip := { x.hip with lost := (0, 0, 0) } }).notice h 0xCF
        [wd (p.lost.1 * 2 ^ 16 + p.lost.2.1 * 2 ^ 8 + p.lost.2.2)]
    match (s2.half h).hip.out6 with
    | [] => s2
    | k :: more => s2.modHalf h fun x => { x with hip := { x.hip with six := k.post, out6 := more } }
  | _, _, _ => s

/-- HIP posts the next word for the host into an empty MBX1, MBX5 or MBX6. -/
def Block.hipPost (s : Block) (h : HalfId) (m : Nat) : Block :=
  if s.mbxFull h m || !((s.half h).hip.running || ((s.half h).live && s.phase h == phBOOT)) then s else
  if m = 1 then
    match (s.half h).hip.sec.out with
    | [] => s
    | v :: rest => (s.mbxStore h m v).modHalf h fun x => { x with hip := { x.hip with sec := { x.hip.sec with out := rest } } }
  else if m = 5 then
    match (s.half h).hip.nonsec.out with
    | [] => s
    | v :: rest =>
      (s.mbxStore h m v).modHalf h fun x => { x with hip := { x.hip with nonsec := { x.hip.nonsec with out := rest } } }
  else if m = 6 then
    let s1 := s.nextNotice h
    match (s1.half h).hip.six with
    | [] => s1
    | v :: rest => (s1.mbxStore h m v).modHalf h fun x => { x with hip := { x.hip with six := rest } }
  else s

/-! ## Post and take (rules R336, R337) -/

/-- A write of MBX_DATA: the sender's word is stored where FULL reads 0, and meets a bus error that keeps the old word where it reads 1
(rule R337; accesses of one SYSCLK come as commands one after the other, log entry 90). MBX15 posts into the peer's MBX14 over the bridge.
-/
def Block.mbxPost (s : Block) (h : HalfId) (m : Nat) (who : Master) (v : Word) : Block :=
  if s.roleOf h who ≠ some (mbxTable m).2.1 || s.mbxFull h m then { s with busErr := true }
  else if m = 15 then
    if s.bridgeUp h then { (s.mbxStore h m v).send h (.mbx v) with busErr := false } else { s with busErr := true }
  else { s.mbxStore h m v with busErr := false }

def execMbxPost (h : HalfId) (m : Fin 16) (who : Master) (v : Word) (s : State) : Host.Outcome State Fault Refusal :=
  s.access .MBX_DATA h (s.blk.mbxPost h m.val who v)

/-- What a take sets in motion: the next word of the sender. -/
def Block.mbxAfter (s : Block) (h : HalfId) (m : Nat) : Block :=
  if m = 0 then s.linkMore h false
  else if m = 4 then s.linkMore h true
  else if m = 14 then s.send h .taken
  else s.hipPost h m

/-- A read of MBX_DATA by the receiver: the word, and FULL cleared; on an empty mailbox 0, and EMPTYRD set (rule R337). -/
def Block.mbxTake (s : Block) (h : HalfId) (m : Nat) (who : Master) : Block :=
  if m = 15 || s.roleOf h who ≠ some (mbxTable m).2.2.1 then { s with busErr := true }
  else if s.mbxFull h m then { (s.mbxEmpty h m 0).mbxAfter h m with busErr := false, busData := s.w h .MBX_DATA m }
  else { s.setF h F.MBX_STAT_EMPTYRD 1 m with busErr := false, busData := 0 }

/-! ## Resets of an endpoint (rule R339) -/

/-- The endpoint `ep` of a half resets: what was posted to it is discarded, and its receivers see SNDRST; both show whether or not a
word was posted (rules R339, R348). Of MBX14 and MBX15 the peer sees that (`peerHipReset`). -/
def Block.endReset (s : Block) (h : HalfId) (ep : Nat) : Block :=
  (List.range 16).foldl (fun t m =>
    let x := mbxTable m
    let t1 := if x.2.2.1 ≠ ep then t else if m = 14 then t.setF h F.MBX_STAT_FULL 0 m else t.mbxEmpty h m 1
    if x.2.1 = ep && m != 15 then t1.setF h F.MBX_STAT_SNDRST 1 m else t1) s

/-- The two mailboxes toward the peer, at a loss of the bridge or a reset of the peer. -/
def Block.peerMbxReset (s : Block) (h : HalfId) : Block := s.endReset h 5

/-- A `.mbx` word among those of a lane. -/
def isMbx : BMsg → Bool
  | .mbx _ => true
  | _ => false

/-- MBX15 shows the peer's MBX14, or a word on its way there, as FULL (rule R335). -/
def Block.mbxMirror (s : Block) (h : HalfId) : Block :=
  s.setF h F.MBX_STAT_FULL (bitOf (s.mbxFull h.peer 14 || ((s.lane h).fifo ++ (s.lane h).wait).any isMbx)) 15

/-- The peer's HIP was restarted: its unread words from this half were discarded, and its own stay (rule R339). -/
def Block.peerHipReset (s : Block) (h : HalfId) : Block := (s.peerMbxReset h).mbxMirror h

/-- A core of a role is reset in place: its mailbox endpoint resets. For HIP the peer learns it over the bridge, and the link block posts
the words it holds into the mailboxes that are empty again (rules R339, R354). -/
def Block.coreReset (s : Block) (h : HalfId) (r : Nat) : Block :=
  let s1 := s.endReset h r
  if r ≠ 0 then s1 else
  let s2 := (s1.linkMore h false).linkMore h true
  if s2.bridgeUp h then s2.send h .hipReset else s2

/-! ## Crossing (rule R340) -/

/-- Both mailboxes of a pair have read FULL for TIMEOUT µs: CROSSED in both, and a class 0 report. -/
def mbxCrossed (h : HalfId) (m : Nat) (s : Block) : Block :=
  match (mbxTable m).2.2.2 with
  | none => s
  | some p =>
    if !s.mbxFull h m || !s.mbxFull h p || s.f h F.MBX_XTO_TIMEOUT = 0 then s
    else
      let low := if m < p then m else p
      ((s.setF h F.MBX_STAT_CROSSED 1 m).setF h F.MBX_STAT_CROSSED 1 p).report h cOK 0 10 low 0

def execMbxCrossed (h : HalfId) (m : Fin 16) (s : State) : Host.Outcome State Fault Refusal :=
  .next { s with blk := mbxCrossed h m.val s.blk }

end Sys2Proof.Machine
end

