-- ==== Sys2Proof/Machine/LinkOps.lean ====
section
/-!
DEFINITION. What a host link's going-down and a change of the serving link do (rules R347, R348, R355, R369, R370).
-/

namespace Sys2Proof.Machine

/-- States of QHL_STAT.STATE and EUL_PSTAT.STATE (rule R346). -/
def lkDOWN : Nat := 0
def lkTRAIN : Nat := 1
def lkALIGN : Nat := 2
def lkUP : Nat := 3

def Block.linkUp (s : Block) (l : HalfId) : Bool := s.f l F.QHL_STAT_STATE == lkUP

def Block.modLink (s : Block) (l : HalfId) (f : Link → Link) : Block := s.modHalf l fun x => { x with link := f x.link }

/-! ## Fields of a frame (rules R349, R350, R354) -/

def QFrame.type (f : QFrame) : Nat := bits f.h0.toNat 23 20
def QFrame.half (f : QFrame) : HalfId := if bits f.h0.toNat 19 19 = 1 then .b else .a
def QFrame.chan (f : QFrame) : Nat := bits f.h0.toNat 18 16
def QFrame.lseq (f : QFrame) : Nat := bits f.h0.toNat 15 8
def QFrame.nw (f : QFrame) : Nat := bits f.h0.toNat 7 0

/-- The credit class of a frame toward the unit. -/
def QFrame.inClass (f : QFrame) : Option Nat :=
  match f.type with
  | 1 => if f.chan < 2 then some f.chan else none
  | 3 => some 2
  | 4 | 6 => some 3
  | _ => none

/-- QHL_STAT shows which halves each link serves and its unacknowledged frames. -/
def Block.linkShow (s : Block) : Block :=
  [HalfId.a, HalfId.b].foldl (fun t l =>
    ((t.setF l F.QHL_STAT_SRVA (bitOf (t.servedBy .a == l))).setF l F.QHL_STAT_SRVB (bitOf (t.servedBy .b == l))).setF l
      F.QHL_STAT_OUTST (t.half l).link.unack.length) s

/-- An outgoing stream closes when its link goes down, and the long command that fills it will end with reason LINK and
the words sent (rule R370). -/
def Block.dropOutgoing (s : Block) (h : HalfId) : Block :=
  let outs := (s.half h).hip.streams.filter fun x => !x.incoming
  let s1 := outs.foldl (fun t x => t.setW h .QHL_BULK 0 (16 + x.id)) s
  s1.modHalf h fun x =>
    { x with hip := { x.hip with
      streams := x.hip.streams.filter Stream.incoming
      long := x.hip.long.map fun c =>
        match outs.find? fun y => y.code == c.code with
        | some y => { c with status := wd (cCONFIG_INVALID * 2 ^ 16 + 16 * 2 ^ 8), result := [wd y.sent] }
        | none => c } }

/-- The words of a link on their way over the bridge to a mailbox of half `h` are discarded where they stand. -/
def Block.dropHostWay (s : Block) (h : HalfId) : Block :=
  let l := s.lane h.peer
  let off (m : BMsg) : BMsg := match m with
    | .host _ _ => .part 3
    | m => m
  s.setLane h.peer { l with fifo := l.fifo.map off, wait := l.wait.map off }

/-- A frame of the unit that only the serving link of its half carries: MBX, NOTICE and BULK (rule R355). -/
def QFrame.serving (f : QFrame) : Bool := f.type == 1 || f.type == 2 || f.type == 3

/-- The host endpoint of a half's mailboxes resets: posted words, HIP's half-posted replies and notices, partly received
commands, and the secure session go. The words that the link block or the bridge still holds for the half are discarded and their
room is free, and frames of the half that the host has not acknowledged are not sent again (rules R348, R354, R355, R362, R369, log
entry 137). -/
def Block.hostReset (s : Block) (h : HalfId) : Block :=
  let s1 := (s.endReset h 4).modHalf h fun x =>
    { x with hip := { x.hip with session := false, six := [],
                                 sec := { x.hip.sec with out := [], part := [], wait := [] },
                                 nonsec := { x.hip.nonsec with out := [], part := [], wait := [] } } }
  let l := s.servedBy h
  let gone (y : Link) (c : Nat) : Nat :=
    (if c < 2 then (nth [] y.hold (2 * h.num + c)).length else 0) +
      total (fun f => if f.half == h && f.inClass == some c then f.nw else 0) y.inq
  ((s1.dropOutgoing h).dropHostWay h).modLink l fun y =>
    { y with unack := y.unack.filter fun p => !(p.1.half == h && p.1.serving)
             hold := (y.hold.set (2 * h.num) []).set (2 * h.num + 1) []
             inq := y.inq.filter fun f => f.half != h || f.type == 4 || f.type == 6
             freed := [0, 1, 2].foldl (fun z c => z.set (4 * h.num + c) (nth 0 z (4 * h.num + c) + gone y c)) y.freed }

/-- The serving link of a half moves, with its LINK notice (rules R355, R374). -/
def Block.moveServing (s : Block) (h l : HalfId) : Block :=
  if s.servedBy h = l then s else
  ((s.setF h F.QHL_BIND_LINK (bitOf (l != h))).notice h 0xCC [wd (h.num * 2 ^ 23 + bitOf (l != h) * 2 ^ 22)]).linkShow

/-- A link leaves UP for `state`: everything it holds is discarded, the endpoints it serves are reset, and with AUTO the
other link takes a half over (rules R347, R348, R355). -/
def Block.linkFalls (s : Block) (l : HalfId) (state : Nat) : Block :=
  if !s.linkUp l then s.setF l F.QHL_STAT_STATE state else
  let s1 := ((s.setF l F.QHL_STAT_STATE state).setF l F.QHL_ERR_DOWN 1).count l F.QHL_CNT1_DOWNS
  let served := [HalfId.a, HalfId.b].filter fun h => s.servedBy h == l
  let s2 := served.foldl (fun t h => t.hostReset h) s1
  let s3 := s2.modLink l fun _ => Link.down
  let s4 := served.foldl (fun t h =>
    if t.on h F.QHL_BIND_AUTO && t.linkUp l.peer && t.bridgeUp h then t.moveServing h l.peer else t) s3
  s4.linkShow.report l cOK 1 11 127 (s4.w l .QHL_ERR).toNat

end Sys2Proof.Machine
end

