-- ==== Sys2Proof/Machine/Link.lean ====
section
/-!
DEFINITION. The Quilith Host Link (chapter 15): bring-up, sequence numbers, acknowledgement and resending, credits,
binding, and the frames that leave and arrive; register frames are in Machine/HostAccess.lean. `l` names a link by the half
whose link block it is. The control frames an event makes the link send are those in `Link.ctl` after it.
-/

namespace Sys2Proof.Machine

/-! ## Frames (rules R349, R350, R353) -/

/-- A frame of a type with its half, CHAN and payload. -/
def QFrame.mk' (type half chan lseq : Nat) (pay : List Word) : QFrame :=
  ⟨wd (type * 2 ^ 20 + half * 2 ^ 19 + chan * 2 ^ 16 + lseq * 2 ^ 8 + pay.length), pay⟩

/-- A control frame of a subtype, from the half that sends it; LSEQ is that of an ACK or NAK. -/
def ctlFrame (l : HalfId) (subtype lseq : Nat) (pay : List Word) : QFrame := QFrame.mk' 0 l.num subtype lseq pay

/-- The symbols of a frame. -/
def QFrame.syms (f : QFrame) : List Sym := frameSyms (f.h0 :: f.pay)

def Block.link (s : Block) (l : HalfId) : Link := (s.half l).link

/-- The link sends control frames. -/
def Block.sendCtl (s : Block) (l : HalfId) (fs : List QFrame) : Block := s.modLink l fun x => { x with ctl := fs }

/-! ## Bring-up (rules R346, R347, R374) -/

/-- The room of a credit class at INIT, toward the unit (rule R354). -/
def rooms : List Nat := [64, 256, 1024, 132]

/-- The link enters UP: INIT sent, sequence numbers and credits from the start, a LINK notice of each half it serves. -/
def Block.linkRises (s : Block) (l : HalfId) : Block :=
  let srv := bitOf (s.servedBy .b == l) * 2 ^ 15 + bitOf (s.servedBy .a == l) * 2 ^ 14
  let s1 := ((s.setF l F.QHL_STAT_STATE lkUP).modLink l fun _ => { Link.down with
    ctl := [ctlFrame l 3 0 [wd (0xC2 * 2 ^ 16 + srv)]] }).linkShow
  [HalfId.a, HalfId.b].foldl (fun t h =>
    if t.servedBy h = l then t.notice h 0xCC [wd (h.num * 2 ^ 23 + bitOf (l != h) * 2 ^ 22)] else t) s1

/-- The symbols a link end sends while no frame and no SKIP is due (rules R344, R346). -/
def Block.linkRests (s : Block) (l : HalfId) : List Sym :=
  let st := s.f l F.QHL_STAT_STATE
  if st = lkDOWN then [] else if st = lkUP then lineIDLE else (unitSet (st == lkALIGN) 0).line

/-- LINK_TRAINING_SET_RECEIVE on the host link; `sent`: the end has sent at least 16 of its own in ALIGN. A set that is not as the host
sends it ends a run of valid ones. In Steep and Couch a valid one only wakes the half (rule R443). -/
def trainingSet (l : HalfId) (t : TrainSet) (sent : Bool) (s : Block) : Block :=
  let st := s.f l F.QHL_STAT_STATE
  let n := (s.link l).ts + 1
  if !t.fromHost then s.modLink l fun x => { x with ts := 0, tsAck := 0 }
  else if 2 ≤ s.rung l then (if s.on .a F.WAKE_CFG_QHLEN then s.wakeHalf l (10 + l.num) 3 else s)
  else if !s.on l F.CRP_STAT_HLLOCK then s
  else if st = lkTRAIN then
    if 64 ≤ n then (s.setF l F.QHL_STAT_STATE lkALIGN).modLink l fun x => { x with ts := 0, tsAck := 0 }
    else s.modLink l fun x => { x with ts := n }
  else if st = lkALIGN then
    let k := if t.ack then capNat 16 ((s.link l).tsAck + 1) else 0
    if k = 16 && sent then s.linkRises l else s.modLink l fun x => { x with tsAck := k }
  else s

/-- LINK_TRAIN_TIMEOUT: 1 ms in TRAIN or ALIGN. -/
def trainTimeout (l : HalfId) (s : Block) : Block :=
  let st := s.f l F.QHL_STAT_STATE
  if (st = lkTRAIN || st = lkALIGN) && s.rung l ≤ 1 then
    ((s.setF l F.QHL_ERR_TRNFAIL 1).setF l F.QHL_STAT_STATE lkTRAIN).modLink l fun x => { x with ts := 0, tsAck := 0 }
  else s

/-- LINK_CODE_VIOLATION, `since` received symbols after the one before: 4 within 64 symbols take a link in UP down; in
training a run of valid training sets ends; a link in DOWN receives nothing. -/
def codeViolation (l : HalfId) (since : Nat) (s : Block) : Block :=
  if s.f l F.QHL_STAT_STATE = lkDOWN then s else
  let near := (0 :: (s.link l).viol.map (fun d => d + since)).filter fun d => d < 64
  let s1 := (s.count l F.QHL_CNT1_CODEERRS).modLink l fun x => { x with viol := near.take 4, ts := 0, tsAck := 0 }
  if s.linkUp l && decide (4 ≤ near.length) then (s1.setF l F.QHL_ERR_ALIGN 1).linkFalls l lkTRAIN else s1

/-- LINK_DOWN: a link in UP goes down for a cause of rule R347 at its far end. -/
def execLinkDown (h : HalfId) (s : State) : Host.Outcome State Fault Refusal :=
  .next { s with blk := if s.blk.linkUp h then s.blk.linkFalls h lkTRAIN else s.blk }

/-- The masters that may write QHL_BIND.AUTO and QHL_CMD: SUP and HIP of the half, the host in TEST (rule R359). -/
def Block.linkMaster (s : Block) (h : HalfId) (who : Master) : Bool :=
  s.roleOf h who == some 3 || s.roleOf h who == some 0 || (who == .link && s.phase h == phTEST)

/-- QHL_CMD.LRST. -/
def Block.linkReset (s : Block) (l : HalfId) : Block := if s.linkUp l then s.linkFalls l lkTRAIN else s

def execLinkResetCommand (h : HalfId) (who : Master) (s : State) : Host.Outcome State Fault Refusal :=
  s.access .QHL_CMD h (if s.blk.linkMaster h who then { s.blk.linkReset h with busErr := false } else { s.blk with busErr := true })

/-- QHL_CMD.CLRCNT. -/
def Block.linkClear (s : Block) (l : HalfId) : Block := ((s.setW l .QHL_CNT0 0).setW l .QHL_CNT1 0).setW l .QHL_CNT2 0

def execQhlClearCounters (h : HalfId) (who : Master) (s : State) : Host.Outcome State Fault Refusal :=
  s.access .QHL_CMD h (if s.blk.linkMaster h who then { s.blk.linkClear h with busErr := false } else { s.blk with busErr := true })

/-- QHL_RESET: a RESET control frame is received. -/
def execQhlReset (h : HalfId) (s : State) : Host.Outcome State Fault Refusal := .next { s with blk := s.blk.linkReset h }

/-! ## Frames received (rules R351, R352, R354) -/

/-- The half is reachable over a link: the link's own, or the other through the bridge (rules R355, R356). -/
def Block.reaches (s : Block) (l h : HalfId) : Bool := l == h || s.bridgeUp l

/-- Reserved TYPE or CHAN, NW outside the type's range or against COUNT, or reserved bits set. -/
def QFrame.malformed (f : QFrame) : Bool :=
  let p1 := (nth 0 f.pay 1).toNat
  let count := bits p1 5 0 + 1
  match f.type with
  | 1 => decide (1 < f.chan) || f.nw == 0 || decide (64 < f.nw)
  | 2 => f.chan != 0 || f.nw == 0 || decide (64 < f.nw)
  | 3 => f.chan != 0 || decide (f.nw < 2) || decide (129 < f.nw)
  | 4 => f.chan != 0 || f.nw != 2 || bits p1 15 6 != 0
  | 5 => f.chan != 0 || f.nw == 0 || decide (65 < f.nw)
  | 6 => f.chan != 0 || decide (f.nw < 3) || decide (66 < f.nw) || bits p1 15 6 != 0 || f.nw != 2 + count
  | 7 => f.chan != 0 || f.nw != 1
  | _ => true

/-- An incoming stream of a half. -/
def Block.inStream (s : Block) (h : HalfId) (id : Nat) : Option Stream :=
  (s.half h).hip.streams.find? fun x => x.incoming && x.id == id

/-- The reason a frame received in order is refused, 0 none; the grounds in the order of their codes (log entry 14). -/
def Block.rejects (s : Block) (l : HalfId) (f : QFrame) : Nat :=
  let p0 := (nth 0 f.pay 0).toNat
  let room := match f.inClass with
    | some c =>
      let i := 4 * f.half.num + c
      decide (f.nw ≤ (nth 0 (s.link l).limit i + 65536 - nth 0 (s.link l).got i % 65536) % 65536)
    | none => true
  if !s.reaches l f.half then 1
  else if (f.type == 1 || f.type == 3) && s.servedBy f.half != l then 2
  else if f.type == 3 && !f.malformed && (match s.inStream f.half (bits p0 23 20) with
      | some x => decide (x.len < bits p0 19 0 + (f.nw - 1))
      | none => true) then 3
  else if f.malformed then 4
  else if f.type == 2 || f.type == 5 || f.type == 7 then 5
  else if !room then 6
  else 0

/-- Payload words of a class counted as received, and with `free` at once as freed. -/
def Link.take (x : Link) (f : QFrame) (free : Bool) : Link :=
  match f.inClass with
  | some c =>
    let i := 4 * f.half.num + c
    { x with got := x.got.set i (nth 0 x.got i + f.nw),
             freed := if free then x.freed.set i (nth 0 x.freed i + f.nw) else x.freed }
  | none => x

/-- An accepted frame: acknowledged, and queued or refused. The words of a refused frame take no room. -/
def Block.acceptFrame (s : Block) (l : HalfId) (f : QFrame) : Block :=
  let ack := ctlFrame l 0 f.lseq []
  let s1 := s.modLink l fun x => { x with rxSeq := (x.rxSeq + 1) % 256, nakOk := true }
  let why := s.rejects l f
  if why = 0 then s1.modLink l fun x => { x.take f false with inq := x.inq ++ [f], ctl := [ack] }
  else
    let s2 := ((s1.setF l F.QHL_ERR_REJECT 1).count l F.QHL_CNT2_REJECTS).modLink l fun x =>
      { (if why = 6 then x else x.take f true) with ctl := [ack, ctlFrame l 6 0 [wd (why * 2 ^ 20 + f.lseq * 2 ^ 12)]] }
    if why = 6 then s2.setF l F.QHL_ERR_CREDIT 1 else s2

/-- QHL_FRAME_RECEIVE. A frame discarded for its CRC alone lets the next one out of order cause a NAK again. A control frame received
whole acts in its own row. -/
def frameReceive (l : HalfId) (e : FrameEnd) (h0 : Word) (pay : List Word) (s : Block) : Block :=
  let f : QFrame := ⟨h0, pay⟩
  if !s.linkUp l then s
  else if !e.good (h0 :: pay) || f.nw != pay.length then
    ((s.setF l F.QHL_ERR_CRC 1).count l F.QHL_CNT0_CRCERRS).modLink l fun x =>
      { x with nakOk := x.nakOk || (e.clean && !e.crcOk (h0 :: pay)), ctl := [] }
  else if f.type = 0 then s.sendCtl l []
  else
    let d := (f.lseq + 256 - (s.link l).rxSeq) % 256
    if d = 0 then s.acceptFrame l f
    else if d < 128 then
      let s1 := (s.setF l F.QHL_ERR_SEQ 1).count l F.QHL_CNT2_SEQDROPS
      s1.modLink l fun x => { x with nakOk := false, ctl := if x.nakOk then [ctlFrame l 1 x.rxSeq []] else [] }
    else s.modLink l fun x => { x with ctl := [ctlFrame l 0 ((x.rxSeq + 255) % 256) []] }

def execQhlFrameReceive (h : HalfId) (e : FrameEnd) (h0 : Word) (pay : List Word) (s : State) : Host.Outcome State Fault Refusal :=
  .next { s with blk := frameReceive h e h0 pay s.blk }

/-! ## Mailbox and bulk frames (rules R354, R358) -/

/-- The words from offset 0 that are written without a gap. -/
def fillOf (pieces : List (Nat × List Word)) : Nat :=
  (List.range pieces.length).foldl (fun f _ =>
    pieces.foldl (fun g p => if p.1 ≤ g && g < p.1 + p.2.length then p.1 + p.2.length else g) f) 0

/-- QHL_MBX_FRAME: the words of the accepted frame at the head wait for their mailbox. -/
def mbxFrame (l : HalfId) (s : Block) : Block :=
  match (s.link l).inq with
  | f :: rest =>
    if f.type = 1 then
      let i := 2 * f.half.num + f.chan
      let s1 := s.modLink l fun x => { x with inq := rest, hold := x.hold.set i (nth [] x.hold i ++ f.pay), ctl := [] }
      s1.linkFeed f.half (f.chan == 1)
    else s
  | [] => s

def execQhlMbxFrame (h : HalfId) (s : State) : Host.Outcome State Fault Refusal := .next { s with blk := mbxFrame h s.blk }

/-- QHL_BULK_FRAME: data word i of the accepted frame at the head becomes word OFFSET + i of its stream. -/
def bulkFrame (l : HalfId) (s : Block) : Block :=
  match (s.link l).inq with
  | f :: rest =>
    if f.type = 3 then
      let h := f.half
      let p0 := (nth 0 f.pay 0).toNat
      let id := bits p0 23 20
      let i := 4 * h.num + 2
      let s1 := s.modLink l fun x => { x with inq := rest, ctl := [], freed := x.freed.set i (nth 0 x.freed i + f.nw) }
      match s.inStream h id with
      | some x =>
        let x' := { x with pieces := x.pieces ++ [(bits p0 19 0, f.pay.drop 1)] }
        (s1.modHalf h fun y => { y with hip := { y.hip with
          streams := y.hip.streams.map fun z => if z.incoming && z.id == id then x' else z } }).setF h F.QHL_BULK_FILL (fillOf x'.pieces) id
      | none => s1
    else s
  | [] => s

/-! ## Acknowledgement and resending (rule R351) -/

/-- QHL_ACK: frames up to the one named are released. -/
def ackFrame (l : HalfId) (lseq : Nat) (s : Block) : Block :=
  if (s.link l).unack.any fun p => p.1.lseq == lseq then
    (s.modLink l fun x => { x with ctl := [], unack := (x.unack.dropWhile fun p => p.1.lseq != lseq).drop 1 }).linkShow
  else s.sendCtl l []

def execQhlAck (h : HalfId) (lseq : BitVec 8) (s : State) : Host.Outcome State Fault Refusal :=
  .next { s with blk := ackFrame h lseq.toNat s.blk }

/-- The unacknowledged frames from one on are sent again; a frame that has been sent eight times takes the link down. -/
def Block.resend (s : Block) (l : HalfId) (from' : QFrame × Nat → Bool) : Block :=
  let x := s.link l
  let early := x.unack.takeWhile fun p => !from' p
  let late := x.unack.dropWhile fun p => !from' p
  if late.any fun p => 8 ≤ p.2 then (s.setF l F.QHL_ERR_RETXLIM 1).linkFalls l lkTRAIN
  else
    let s1 := late.foldl (fun t _ => t.count l F.QHL_CNT0_RETX) s
    s1.modLink l fun x => { x with ctl := [], unack := early ++ late.map fun p => (p.1, p.2 + 1) }

/-- QHL_NAK. -/
def execQhlNak (h : HalfId) (lseq : BitVec 8) (s : State) : Host.Outcome State Fault Refusal :=
  .next { s with blk := if s.blk.linkUp h then s.blk.resend h fun p => p.1.lseq == lseq.toNat else s.blk }

/-- QHL_RETRANSMIT_TIMEOUT: the oldest frame has been unacknowledged for 10 µs. -/
def execQhlRetransmitTimeout (h : HalfId) (s : State) : Host.Outcome State Fault Refusal :=
  .next { s with blk := if s.blk.linkUp h then s.blk.resend h fun _ => true else s.blk }

/-! ## Control frames (rules R353 to R355) -/

/-- QHL_CREDIT: the host's limit of a class 4 to 7 of a half. -/
def creditFrame (l half : HalfId) (cls : Nat) (limit : Nat) (s : Block) : Block :=
  if !s.linkUp l || cls < 4 then s else
  s.modLink l fun x => { x with ctl := [], hostLim := x.hostLim.set (4 * half.num + (cls - 4)) limit }

def execQhlCredit (h half : HalfId) (cls : BitVec 3) (limit : BitVec 16) (s : State) : Host.Outcome State Fault Refusal :=
  .next { s with blk := creditFrame h half cls.toNat limit.toNat s.blk }

/-- QHL_INIT: the far end's revision and served halves. -/
def execQhlInit (h : HalfId) (rev : BitVec 8) (served : BitVec 2) (s : State) : Host.Outcome State Fault Refusal :=
  .next { s with blk := if s.blk.linkUp h then
    s.blk.modLink h fun x => { x with ctl := [], peer := some (rev.toNat, served.toNat) } else s.blk }

/-- QHL_BIND: the link becomes the serving link of the named half, and answers with BINDRES. The old serving link's
endpoints of that half are reset. -/
def bindFrame (l half : HalfId) (s : Block) : Block :=
  if !s.linkUp l then s else
  let res (n : Nat) : List QFrame := [ctlFrame l 5 0 [wd (half.num * 2 ^ 23 + n * 2 ^ 20)]]
  if !s.reaches l half then s.sendCtl l (res 1)
  else if s.servedBy half = l then s.sendCtl l (res 2)
  else ((s.hostReset half).moveServing half l).sendCtl l (res 0)

def execQhlBind (h half : HalfId) (s : State) : Host.Outcome State Fault Refusal := .next { s with blk := bindFrame h half s.blk }

/-- QHL_REJECT: the host did not act on a frame it has acknowledged. The rules give the unit nothing to do with it; no
control frame answers it. -/
def execQhlReject (h : HalfId) (reason : BitVec 4) (lseq : BitVec 8) (s : State) : Host.Outcome State Fault Refusal :=
  let _ := (reason, lseq)
  .next { s with blk := if s.blk.linkUp h then s.blk.sendCtl h [] else s.blk }

/-- QHL_CREDIT_SEND: the LIMIT of a class of a half as the words freed so far make it. -/
def creditSend (l half : HalfId) (cls : Nat) (s : Block) : Block :=
  if !s.linkUp l then s else
  let i := 4 * half.num + cls
  let n := nth 0 (s.link l).freed i
  let limit := (n + nth 0 rooms cls) % 65536
  s.modLink l fun x => { x with limit := x.limit.set i limit, told := x.told.set i n,
                                ctl := [ctlFrame l 2 0 [wd (cls * 2 ^ 21 + half.num * 2 ^ 20 + limit)]] }

def execQhlCreditSend (h half : HalfId) (cls : Fin 4) (s : State) : Host.Outcome State Fault Refusal :=
  .next { s with blk := creditSend h half cls.val s.blk }

/-! ## Outbound frames (rules R349 to R351, R354, R355) -/

/-- Words the host's credit still allows in a class 4 + c of a half. -/
def Link.hostRoom (x : Link) (half : HalfId) (c : Nat) : Nat :=
  let i := 4 * half.num + c
  (nth 0 x.hostLim i + 65536 - nth 0 x.hostCnt i % 65536) % 65536

/-- A sequenced frame is sent: numbered, counted against the credit, and held until it is acknowledged. -/
def Block.sendFrame (s : Block) (l half : HalfId) (type chan c : Nat) (pay : List Word) : Block :=
  let i := 4 * half.num + c
  (s.modLink l fun x =>
    { x with txSeq := (x.txSeq + 1) % 256, unack := x.unack ++ [(QFrame.mk' type half.num chan x.txSeq pay, 1)],
             hostCnt := x.hostCnt.set i ((nth 0 x.hostCnt i + pay.length) % 65536), ctl := [] }).linkShow

/-- Up to `n` words taken from MBX1, MBX5 or MBX6 by the host's end; HIP posts the next one as each leaves. -/
def takeWords (h : HalfId) (m : Nat) : Nat → Block → List Word × Block
  | 0, s => ([], s)
  | n + 1, s =>
    let s0 := s.hipPost h m
    if s0.mbxFull h m then
      let r := takeWords h m n (s0.mbxEmpty h m 0)
      (s0.w h .MBX_DATA m :: r.1, r.2)
    else ([], s0)

/-- The next BULK frame of an outgoing stream: its number, offset and at most `n` words. -/
def Block.outStream (s : Block) (h : HalfId) (n : Nat) : Option (Stream × List Word) :=
  (s.half h).hip.streams.findSome? fun x =>
    if x.incoming then none else
    let ws := ((x.pieces.flatMap Prod.snd).drop x.sent).take n
    if ws.isEmpty then none else some (x, ws)

/-- QHL_OUTBOUND_FRAME: a frame of class 4 + `c` of a half with at most `n` words: MBX1, MBX5, MBX6, at most 64, or register replies
before outgoing bulk data (rule R350). On the link that does not serve the half only the report of a firmware failure leaves (rule
R331). -/
def outboundFrame (l half : HalfId) (c n : Nat) (s : Block) : Block :=
  let x := s.link l
  let room := x.hostRoom half c
  if !s.linkUp l || 32 ≤ x.unack.length || !s.reaches l half then s
  else if c < 3 then
    if s.servedBy half != l then
      let ws := (s.half half).hip.bootReport
      if c = 2 && !ws.isEmpty && decide (ws.length ≤ capNat room n) then
        (s.modHalf half fun y => { y with hip := { y.hip with bootReport := [] } }).sendFrame l half 2 0 2 ws
      else s
    else
    let m := if c = 0 then 1 else if c = 1 then 5 else 6
    let r := takeWords half m (capNat 64 (if room < n then room else n)) s
    if r.1.isEmpty then r.2 else r.2.sendFrame l half (if c = 2 then 2 else 1) (if c = 1 then 1 else 0) c r.1
  else match x.regOut with
    | f :: rest =>
      if f.pay.length ≤ x.hostRoom f.half 3 then
        (s.modLink l fun x => { x with regOut := rest }).sendFrame l f.half f.type 0 3 f.pay
      else s
    | [] =>
      if s.servedBy half != l || room < 2 then s else
      match s.outStream half (if room - 1 < n then room - 1 else n) with
      | some (y, ws) =>
        let s1 := s.modHalf half fun z => { z with hip := { z.hip with streams := z.hip.streams.map fun q =>
          if !q.incoming && q.id == y.id then { q with sent := q.sent + ws.length } else q } }
        s1.sendFrame l half 3 0 3 (wd (y.id * 2 ^ 20 + y.sent) :: ws)
      | none => s

end Sys2Proof.Machine
end

