-- ==== Sys2Proof/Machine/Eul.lean ====
section
/-!
DEFINITION. EutenLink (chapter 17): ports and lanes, wraps, frames received and forwarded, fabric time, masters, and the
follower clock of chapter 3. The training rows serve the host link and, by port, the fabric links.
-/

namespace Sys2Proof.Machine

/-! ## Ports (rules R346, R378, R380, R387, R388) -/

/-- The module-wide number of a port, FL0 to FL3. -/
def flNum (q : HalfId × Nat) : Nat := 2 * q.1.num + q.2

def Block.portInUse (s : Block) (h : HalfId) (p : Nat) : Bool :=
  s.joined h && s.f h F.EUL_PCFG_ROLE p != 0

/-- A ring port of a dual ring whose link is down wraps, until that link has been UP for 100 ms (rule R387). -/
def Block.portWraps (s : Block) (h : HalfId) (p : Nat) : Block :=
  let role := s.f h F.EUL_PCFG_ROLE p
  if s.f h F.EUL_NODE_TOPO = 1 && (role = 1 || role = 2) then
    ((s.setF h F.EUL_PSTAT_WRAP 1 p).setF h F.EUL_ERR_WRAPPED 1).modPort h p fun x => { x with wrap := true }
  else s

/-- A port's link leaves its state, and what waits on it is discarded; in a dual ring a ring port that was UP wraps (rule R387). -/
def Block.eulFalls (s : Block) (h : HalfId) (p state : Nat) : Block :=
  let up := s.portUp (h, p)
  let s1 := (s.setF h F.EUL_PSTAT_STATE state p).modPort h p fun x => { x with out := [], sending := none, ts := 0, tsAck := 0, pdAt := none }
  if !up then s1 else
  let s3 := (s1.count h F.EUL_PCNT0_DOWNS p).portWraps h p
  s3.report h cOK 1 12 p (s3.w h .EUL_ERR).toNat

/-- The ports follow EN, their role, the half's life and its rung: in TRAIN or beyond, or DOWN. A ring port of a dual ring wraps until
its link is UP. A node that leaves the fabric is no master. -/
def Block.eulPorts (s : Block) (h : HalfId) : Block :=
  let on := (s.half h).live && decide (s.rung h ≤ 1)
  let s := if s.joined h then s else (s.setF h F.EUL_TSTAT_TMASTER 0).setF h F.EUL_ASTAT_AMASTER 0
  [0, 1].foldl (fun t p =>
    let st := t.f h F.EUL_PSTAT_STATE p
    if on && t.portInUse h p then (if st = lkDOWN then (t.setF h F.EUL_PSTAT_STATE lkTRAIN p).portWraps h p else t)
    else if st = lkDOWN then t else t.eulFalls h p lkDOWN) s

/-- Symbols on a port in use wake a half in Steep or Couch (rule R443). -/
def Block.eulWake (s : Block) (h : HalfId) (p : Nat) : Block :=
  if s.portInUse h p && s.on .a F.WAKE_CFG_FLEN && decide (2 ≤ s.rung h) then s.wakeHalf h (12 + h.num) 3 else s

/-- The lanes on which a port sends: both in training, and in UP the one the far end named (rule R380). -/
def Block.sendLanes (s : Block) (h : HalfId) (p : Nat) : List Nat :=
  let st := s.f h F.EUL_PSTAT_STATE p
  if st = lkDOWN then [] else if st = lkUP then [(s.eport h p).sendLane] else [0, 1]

/-- The symbols a port sends on those lanes while no frame and no SKIP is due; its training sets name the lane it uses (rules R344,
R380, R381). -/
def Block.portRests (s : Block) (h : HalfId) (p : Nat) : List Sym :=
  let st := s.f h F.EUL_PSTAT_STATE p
  if st = lkDOWN then [] else if st = lkUP then lineIDLE else (unitSet (st == lkALIGN) (s.f h F.EUL_PSTAT_LANE p)).line

/-- A training set on a port. A valid one names the lane on which this end sends from then on; one that no unit sends ends a run of
valid ones. -/
def eulTraining (h : HalfId) (p : Nat) (t : TrainSet) (sent : Bool) (s : Block) : Block :=
  let st := s.f h F.EUL_PSTAT_STATE p
  let x := s.eport h p
  if 2 ≤ s.rung h then s.eulWake h p
  else if !t.fromUnit then s.modPort h p fun y => { y with ts := 0, tsAck := 0 }
  else if st = lkTRAIN then
    if s.on h F.EUL_PSTAT_LANEFAIL p then s
    else if 64 ≤ x.ts + 1 then
      (s.setF h F.EUL_PSTAT_STATE lkALIGN p).modPort h p fun y => { y with ts := 0, tsAck := 0, sendLane := t.lane }
    else s.modPort h p fun y => { y with ts := x.ts + 1, sendLane := t.lane }
  else if st = lkALIGN then
    let k := if t.ack then capNat 16 (x.tsAck + 1) else 0
    if k = 16 && sent then
      (s.setF h F.EUL_PSTAT_STATE lkUP p).modPort h p fun y => { y with ts := 0, tsAck := 0, trainF := 0, sendLane := t.lane }
    else s.modPort h p fun y => { y with tsAck := k, sendLane := t.lane }
  else s

/-- LINK_TRAINING_SET_RECEIVE, on the host link or on a fabric port of the half. -/
def execLinkTrainingSetReceive (h : HalfId) (port : Option (Fin 2)) (ts : TrainSet) (sent : Bool) (s : State) :
    Host.Outcome State Fault Refusal :=
  .next { s with blk := match port with
    | none => trainingSet h ts sent s.blk
    | some p => eulTraining h p.val ts sent s.blk }

/-- 1 ms of a port in TRAIN or ALIGN. -/
def eulTrainTimeout (h : HalfId) (p : Nat) (s : Block) : Block :=
  let st := s.f h F.EUL_PSTAT_STATE p
  if st = lkTRAIN || st = lkALIGN then
    (s.setF h F.EUL_PSTAT_STATE lkTRAIN p).modPort h p fun x => { x with ts := 0, tsAck := 0, trainF := capNat 2 (x.trainF + 1) }
  else s

/-- LINK_TRAIN_TIMEOUT. -/
def execLinkTrainTimeout (h : HalfId) (port : Option (Fin 2)) (s : State) : Host.Outcome State Fault Refusal :=
  .next { s with blk := match port with
    | none => trainTimeout h s.blk
    | some p => eulTrainTimeout h p.val s.blk }

/-- A code violation on the lane in use, `since` symbols after the last; 1 s is 50,000,000 symbols. -/
def eulViolation (h : HalfId) (p since : Nat) (s : Block) : Block :=
  let ages := ((0 :: (s.eport h p).viol.map (fun d => d + since)).filter fun d => d < 50000000).take 16
  let s1 := (s.count h F.EUL_PCNT0_CODEERRS p).modPort h p fun x => { x with viol := ages, ts := 0, tsAck := 0 }
  if s.portUp (h, p) && decide (4 ≤ (ages.filter fun d => d < 64).length) then s1.eulFalls h p lkTRAIN else s1

/-- LINK_CODE_VIOLATION. -/
def execLinkCodeViolation (h : HalfId) (port : Option (Fin 2)) (since : BitVec 32) (s : State) : Host.Outcome State Fault Refusal :=
  .next { s with blk := match port with
    | none => codeViolation h since.toNat s.blk
    | some p => eulViolation h p.val since.toNat s.blk }

/-- EUL_LINK_DOWN: a violation cause, or 1 µs without a valid symbol. -/
def execEulLinkDown (h : HalfId) (p : Fin 2) (s : State) : Host.Outcome State Fault Refusal :=
  .next { s with blk := if s.blk.portUp (h, p.val) then s.blk.eulFalls h p.val lkTRAIN else s.blk }

/-- A port that is not DOWN trains again. -/
def Block.retrain (s : Block) (h : HalfId) (p : Nat) : Block :=
  if s.f h F.EUL_PSTAT_STATE p = lkDOWN then s else s.eulFalls h p lkTRAIN

/-- EUL_LANE_FAIL: the lane in use has failed, by the counts the port holds (rule R381, log entry 76). With both lanes failed the port
stays in TRAIN. -/
def laneFail (h : HalfId) (p : Nat) (s : Block) : Block :=
  let x := s.eport h p
  let lane := s.f h F.EUL_PSTAT_LANE p
  let known := nth false x.laneBad lane
  if s.on h F.EUL_PSTAT_LANEFAIL p || (!known && x.viol.length < 16 && x.trainF < 2) then s else
  let s1 := s.modPort h p fun y => { y with laneBad := y.laneBad.set lane true, viol := [], trainF := 0 }
  if nth false x.laneBad (1 - lane) then
    let s2 := (s1.retrain h p).setF h F.EUL_PSTAT_LANEFAIL 1 p
    s2.spareEvent h 8 false (flNum (h, p)) 0 0 12 p (s2.w h .EUL_ERR).toNat
  else if s.on h F.EUL_PCFG_LANE_AUTO p then
    let s2 := s1.retrain h p
    let s3 := ((s2.setF h F.EUL_PSTAT_LANE (1 - lane) p).setF h F.EUL_PSTAT_SPAREUSE 1 p).setF h F.EUL_ERR_LANESW 1
    s3.spareEvent h 8 true (flNum (h, p)) 0 0 12 p (s3.w h .EUL_ERR).toNat
  else if known then s else s1.report h cOK 1 12 p (s1.w h .EUL_ERR).toNat

def execEulLaneFail (h : HalfId) (p : Fin 2) (s : State) : Host.Outcome State Fault Refusal :=
  .next { s with blk := laneFail h p.val s.blk }

/-- EUL_WRAP_HEAL: the link has been UP for 100 ms without a break. A port that also wraps because the bridge is lost goes on doing so
until it is back (rules R387, R388). -/
def wrapHeal (h : HalfId) (p : Nat) (s : Block) : Block :=
  if !s.on h F.EUL_PSTAT_WRAP p || !s.portUp (h, p) then s else
  let s1 := s.modPort h p fun x => { x with wrap := false }
  if s.islandPort h = some p && !s.bridgeUp h then s1
  else (s1.setF h F.EUL_PSTAT_WRAP 0 p).setF h F.EUL_ERR_HEALED 1

def execEulWrapHeal (h : HalfId) (p : Fin 2) (s : State) : Host.Outcome State Fault Refusal :=
  .next { s with blk := wrapHeal h p.val s.blk }

/-! ## Frames received (rules R377, R382, R384, R385) -/

/-- A SYNC with an amount added to CORR, its words 4 and 5. -/
def EFrame.addCorr (f : EFrame) (d : Int) : EFrame :=
  if f.type = ftSYNC then
    let n := field 48 (((nth 0 f.pay 3).toNat * 2 ^ 24 + (nth 0 f.pay 4).toNat : Nat) + d)
    { f with pay := (f.pay.set 3 (wd (n / 2 ^ 24))).set 4 (wd n) }
  else f

/-- Forwarding: HOPS raised by one, and by one more across the bridge; beyond 128 the frame is discarded, and counted once. A SYNC
takes the residence time toward that port and the link delay of the port it came on. -/
def Block.forward (s : Block) (h : HalfId) (p : Nat) (f : EFrame) (res : Nat → Nat) : Block :=
  let role := s.f h F.EUL_PCFG_ROLE p
  let topo := s.f h F.EUL_NODE_TOPO
  let outs := if topo = 2 then s.treePorts h (some (h, p))
    else if role = 1 then s.toward h 2
    else if role = 2 && topo = 1 then s.toward h 1
    else []
  let hops (q : (HalfId × Nat) × Bool) : Nat := f.hops + (if q.1.1 = h then 1 else 2)
  let s1 := if outs.any fun q => decide (128 < hops q) then s.count h F.EUL_PCNT1_HOPDROPS p else s
  (outs.filter fun q => decide (hops q ≤ 128)).foldl (fun t q =>
    t.emit h q.1 ((f.addCorr ((res (flNum q.1) : Int) + s.f h F.EUL_PSTAT_PDELAY p)).onward (hops q) q.2)) s1

/-- A frame acted on is handed to each half of the node; a SYNC carries the delay of the link it came over. -/
def Block.actOn (s : Block) (h : HalfId) (p tap : Nat) (f : EFrame) : Block :=
  let g := f.addCorr (s.f h F.EUL_PSTAT_PDELAY p)
  (s.nodeHalves h).foldl (fun t k =>
    let t1 := t.modFab k fun x => x.see (f.src, f.type, f.seq) (s.half k).tsc
    if f.type = ftSYNC || f.type = ftANNOUNCE || f.type = ftANGLE then
      t1.hand h k p tap (g.onward (f.hops + (if k = h then 1 else 2)) false)
    else t1) s

/-- The words a frame carries on the line, which its CRC covers. -/
def EFrame.words (f : EFrame) : List Word := f.w0 :: f.w1 :: f.w2 :: f.pay

/-- EUL_FRAME_RECEIVE at port `p`, in delay-line step `tap` of the present tick. A frame that fails its CRC, or whose NW is beyond 16 or
not its length, is counted, and neither acted on nor sent on (log entry 76). A node acts on frames for every node and for itself. Its
own frame is removed where it comes back on WEST, or would be turned back at the node's own wrap; of a node that the lost bridge
divides, each half takes the other's frames as those of a neighbour (rules R377, R382, R384, R388, log entry 139). -/
def eulFrameReceive (h : HalfId) (p : Nat) (e : FrameEnd) (f : EFrame) (tap : Nat) (res : Nat → Nat) (s : Block) : Block :=
  if 2 ≤ s.rung h then s.eulWake h p
  else if !s.portUp (h, p) || !s.portInUse h p then s
  else
    let mine := f.src == s.f h F.EUL_NODE_NODE
    if !e.good f.words || f.nw != f.pay.length || decide (16 < f.nw) then s.count h F.EUL_PCNT1_CRCERRS p
    else if f.type = ftPDREQ || f.type = ftPDRESP then
      (if mine then s.setF h F.EUL_ERR_DUPID 1 else s).hand h h p tap f
    else
      let west := s.f h F.EUL_PCFG_ROLE p == 1
      let ring := s.f h F.EUL_NODE_TOPO != 2
      if mine && !(ring && !s.bridgeUp h && !s.sawIt h f) then
        let back := ring && (west || f.wrapped) && s.sawIt h f
        let s1 := if back then s else s.setF h F.EUL_ERR_DUPID 1
        if ring && (west || (s.toward h 1).all Prod.snd) then s1 else s1.forward h p f res
      else
        let s1 := s.forward h p f res
        if f.type = 0 || 6 < f.type || s.sawIt h f || !(f.bcast || f.dst == s.f h F.EUL_NODE_NODE) then s1 else s1.actOn h p tap f

def execEulFrameReceive (h : HalfId) (p : Fin 2) (e : FrameEnd) (w0 w1 w2 : Word) (pay : List Word) (tap : BitVec 6)
    (res : List (BitVec 24)) (s : State) : Host.Outcome State Fault Refusal :=
  .next { s with blk := eulFrameReceive h p.val e ⟨w0, w1, w2, pay⟩ tap.toNat (fun i => (nth 0 res i).toNat) s.blk }

/-- The oldest frame of a type that waits at a half, and the rest. -/
def takeFrame (type : Nat) : List (Nat × Nat × EFrame) → Option ((Nat × Nat × EFrame) × List (Nat × Nat × EFrame))
  | [] => none
  | x :: rest => if x.2.2.type = type then some (x, rest) else (takeFrame type rest).map fun p => (p.1, x :: p.2)

/-! ## Fabric time (rules R385, R386) -/

/-- The fabric time at the master's departure plus CORR, in delay-line steps. -/
def syncTime (pay : List Word) : Int :=
  let v (i : Nat) : Nat := (nth 0 pay i).toNat
  (((v 0 * 2 ^ 24 + v 1) * 64 + bits (v 2) 23 18 : Nat) : Int) + sext 48 (v 3 * 2 ^ 24 + v 4)

/-- EUL_SYNC_RECEIVE: offset and rate follow the SYNC; 64 in succession within 4 ns (51 steps) give LOCK. -/
def syncReceive (h : HalfId) (s : Block) : Block :=
  match takeFrame ftSYNC (s.fab h).pend with
  | none => s
  | some ((_, at', f), rest) =>
    let s0 := s.modFab h fun x => { x with pend := rest }
    if s.on h F.EUL_TSTAT_TMASTER && s.speaks h then s0 else
    let x := s.fab h
    let t := syncTime f.pay
    let err := if x.synced then stepsTo (s.fabTime h at') t else 0
    let good := if x.synced && decide (err.natAbs ≤ 51) then capNat 64 (x.good + 1) else 0
    let dt := stepsTo x.base t
    let own := stepsTo x.at0 at'
    let rate : Frac := if x.synced && decide (0 < dt) && decide (0 < own) then frac dt own.toNat else ⟨1, 1⟩
    let s1 := s0.modFab h fun x => { x with base := t, at0 := at', rate := rate, synced := true, good := good }
    let s2 := (s1.setF h F.EUL_OFFERR_ERR (field 16 (clampInt 32767 err))).setF h F.EUL_TSTAT_HOLDOVER 0
    let s3 := if good = 64 then s2.setF h F.EUL_TSTAT_LOCK 1 else s2
    let s4 := if x.synced && s.f h F.EUL_TSTAT_TM_ID != f.src then s3.setF h F.EUL_ERR_TMCHG 1 else s3
    (s4.setF h F.EUL_TSTAT_TM_ID f.src).setF h F.EUL_TSTAT_HOPSM (capNat 127 f.hops)

def execEulSyncReceive (h : HalfId) (s : State) : Host.Outcome State Fault Refusal := .next { s with blk := syncReceive h s.blk }

/-- EUL_SYNC_SEND, by the time master, in step `tap` of the tick; its own other half hears it over the bridge. -/
def syncSend (h : HalfId) (tap : Nat) (s : Block) : Block :=
  if !s.fabRuns h || !s.on h F.EUL_TSTAT_TMASTER || !s.speaks h then s else
  let r := s.fabSend h ftSYNC 0 none (fabWords (s.fabTime h (s.stepsAt h tap)) ++ [0, 0])
  if s.bridgeUp h then r.1.hand h h.peer 0 tap (r.2.onward 1 false) else r.1

def execEulSyncSend (h : HalfId) (tap : BitVec 6) (s : State) : Host.Outcome State Fault Refusal :=
  .next { s with blk := syncSend h tap.toNat s.blk }

/-- EUL_HOLDOVER: no SYNC for 1 ms (12,800,000 steps) at a half that takes part in the fabric. -/
def holdover (h : HalfId) (s : Block) : Block :=
  let x := s.fab h
  if !s.fabRuns h || (s.on h F.EUL_TSTAT_TMASTER && s.speaks h) || s.on h F.EUL_TSTAT_HOLDOVER ||
      (x.synced && decide (stepsTo x.at0 (s.stepsAt h 0) < 12800000)) then s
  else ((((s.setF h F.EUL_TSTAT_HOLDOVER 1).setF h F.EUL_TSTAT_LOCK 0).setF h F.EUL_ERR_LOCKLOSS 1).modFab h fun x => { x with good := 0 })

def execEulHoldover (h : HalfId) (s : State) : Host.Outcome State Fault Refusal := .next { s with blk := holdover h s.blk }

/-- A frame of one link, which no node forwards. -/
def Block.linkSend (s : Block) (h : HalfId) (p type dst : Nat) (pay : List Word) : Block :=
  let seq := nth 0 (s.fab h).seqs type
  let f : EFrame := ⟨wd (type * 2 ^ 20 + s.f h F.EUL_NODE_NODE), wd dst, wd (seq * 2 ^ 16 + pay.length), pay⟩
  (s.modNode h fun x => { x with seqs := x.seqs.set type ((seq + 1) % 256) }).emit h (h, p) f

/-- EUL_PDREQ_RECEIVE: answered `gap` steps after its arrival. -/
def pdreqReceive (h : HalfId) (gap : Nat) (s : Block) : Block :=
  match takeFrame ftPDREQ (s.fab h).pend with
  | none => s
  | some ((p, _, f), rest) =>
    (s.modFab h fun x => { x with pend := rest }).linkSend h p ftPDRESP f.src [wd (field 24 (-(gap : Int))), 0]

def execEulPdreqReceive (h : HalfId) (gap : BitVec 23) (s : State) : Host.Outcome State Fault Refusal :=
  .next { s with blk := pdreqReceive h gap.toNat s.blk }

/-- EUL_PDELAY_MEASURE: PDREQ leaves in step `tap` of the tick. -/
def pdelayMeasure (h : HalfId) (p tap : Nat) (s : Block) : Block :=
  if !s.portUp (h, p) then s
  else (s.linkSend h p ftPDREQ 0 []).modPort h p fun x => { x with pdAt := some (s.stepsAt h tap) }

def execEulPdelayMeasure (h : HalfId) (p : Fin 2) (tap : BitVec 6) (s : State) : Host.Outcome State Fault Refusal :=
  .next { s with blk := pdelayMeasure h p.val tap.toNat s.blk }

/-- EUL_PDRESP_RECEIVE: half the round trip less the turnaround, plus ASYM, averaged over the last 16 measurements. -/
def pdrespReceive (h : HalfId) (s : Block) : Block :=
  match takeFrame ftPDRESP (s.fab h).pend with
  | none => s
  | some ((p, at', f), rest) =>
    let s0 := s.modFab h fun x => { x with pend := rest }
    match (s.eport h p).pdAt with
    | none => s0
    | some sent =>
      let d := (stepsTo sent at' + sext 24 (nth 0 f.pay 0).toNat) / 2 + sext 16 (s.f h F.EUL_PCFG_ASYM p)
      let ds := (d :: (s.eport h p).delays).take 16
      let avg := ds.foldl (fun a b => a + b) 0 / (ds.length : Int)
      (s0.modPort h p fun x => { x with delays := ds, pdAt := none }).setF h F.EUL_PSTAT_PDELAY (field 16 avg) p

def execEulPdrespReceive (h : HalfId) (s : State) : Host.Outcome State Fault Refusal :=
  .next { s with blk := pdrespReceive h s.blk }

/-! ## Masters (rule R389) -/

/-- Rank of a candidate: PRI, and for the angle FULL sync above CRANK sync, and that above every other state. -/
def rankOf (angle : Bool) (pri sync : Nat) : Nat :=
  4 * pri + (if !angle then 0 else if sync = syFull then 2 else if sync = syCrank then 1 else 0)

def Block.ownRank (s : Block) (h : HalfId) (angle : Bool) : Nat :=
  rankOf angle (if angle then s.f h F.EUL_PRI_APRI else s.f h F.EUL_PRI_TPRI) (s.f h F.WTK_STAT_SYNC (s.src h))

/-- This node is a candidate of a kind. -/
def Block.candidate (s : Block) (h : HalfId) (angle : Bool) : Bool :=
  s.fabRuns h && (if angle then s.f h F.EUL_PRI_APRI != 0 && s.on h F.EUL_PRI_ABCAST && s.clockValid h else s.f h F.EUL_PRI_TPRI != 0)

/-- One candidate is better than another: higher rank, then lower node ID. -/
def better (r1 n1 r2 n2 : Nat) : Bool := decide (r2 < r1) || (r1 == r2 && decide (n1 < n2))

/-- The candidates of a kind heard within 3 ms. -/
def Block.heard (s : Block) (h : HalfId) (angle : Bool) : List (Nat × Nat × Nat) :=
  (if angle then (s.fab h).heardA else (s.fab h).heardT).filter fun c => decide (ticksTo c.2.2 (s.half h).tsc < 600000)

/-- What was heard with a candidate's new announcement in place of its last one. -/
def Block.hears (s : Block) (h : HalfId) (angle : Bool) (rank node : Nat) : Block :=
  let l := ((s.heard h angle).filter fun c => c.2.1 != node) ++ [(rank, node, (s.half h).tsc)]
  s.modFab h fun x => if angle then { x with heardA := l } else { x with heardT := l }

/-- EUL_ANNOUNCE_RECEIVE: a candidate of the kind and group is remembered, and a master that hears a better one stops; one that is no
candidate itself any longer stops at any (DEDUCED, log entry 76). -/
def announceReceive (h : HalfId) (s : Block) : Block :=
  match takeFrame ftANNOUNCE (s.fab h).pend with
  | none => s
  | some ((_, _, f), rest) =>
    let s0 := s.modFab h fun x => { x with pend := rest }
    let v := (nth 0 f.pay 0).toNat
    let angle := bits v 19 19 == 1
    let rank := rankOf angle (bits v 23 20) (bits v 18 16)
    if angle && f.group != s.f h F.EUL_NODE_GROUP then s0 else
    let s1 := s0.hears h angle rank f.src
    if s.candidate h angle && !better rank f.src (s.ownRank h angle) (s.f h F.EUL_NODE_NODE) then s1
    else s1.setF h (if angle then F.EUL_ASTAT_AMASTER else F.EUL_TSTAT_TMASTER) 0

def execEulAnnounceReceive (h : HalfId) (s : State) : Host.Outcome State Fault Refusal :=
  .next { s with blk := announceReceive h s.blk }

/-- EUL_ANNOUNCE_SEND: a candidate's announcement of one kind. -/
def announceSend (h : HalfId) (angle : Bool) (s : Block) : Block :=
  if !s.candidate h angle || !s.speaks h then s else
  let v := (if angle then s.f h F.EUL_PRI_APRI * 2 ^ 20 + 2 ^ 19 else s.f h F.EUL_PRI_TPRI * 2 ^ 20) +
    s.f h F.WTK_STAT_SYNC (s.src h) * 2 ^ 16
  (s.fabSend h ftANNOUNCE (if angle then s.f h F.EUL_NODE_GROUP else 0) none [wd v]).1

def execEulAnnounceSend (h : HalfId) (angle : Bool) (s : State) : Host.Outcome State Fault Refusal :=
  .next { s with blk := announceSend h angle s.blk }

/-- No better announcement of the kind within 3 ms. -/
def Block.unopposed (s : Block) (h : HalfId) (angle : Bool) : Bool :=
  (s.heard h angle).all fun c => !better c.1 c.2.1 (s.ownRank h angle) (s.f h F.EUL_NODE_NODE)

/-- EUL_MASTER_ELECT: the node becomes time master, whose helm half counts fabric time from its own counter, or angle
master of its group. -/
def masterElect (h : HalfId) (angle : Bool) (s : Block) : Block :=
  if !s.candidate h angle || !s.speaks h || !s.unopposed h angle then s else
  let me := s.f h F.EUL_NODE_NODE
  if angle then
    if s.on h F.EUL_ASTAT_AMASTER then s else
    (s.nodeHalves h).foldl (fun t k =>
      (((t.setF k F.EUL_ASTAT_AMASTER 1).setF k F.EUL_ASTAT_AVALID 1).setF k F.EUL_ASTAT_AM_ID me).setF k F.EUL_ERR_AMCHG 1) s
  else
    if s.on h F.EUL_TSTAT_TMASTER then s else
    let s1 := (s.nodeHalves h).foldl (fun t k =>
      (((t.setF k F.EUL_TSTAT_TMASTER 1).setF k F.EUL_TSTAT_TM_ID me).setF k F.EUL_TSTAT_HOPSM (if k = h then 0 else 1)).setF k
        F.EUL_ERR_TMCHG 1) s
    s1.modFab h fun x => { x with base := s.stepsAt h 0, at0 := s.stepsAt h 0, rate := ⟨1, 1⟩, synced := true }

def execEulMasterElect (h : HalfId) (angle : Bool) (s : State) : Host.Outcome State Fault Refusal :=
  .next { s with blk := masterElect h angle s.blk }

/-! ## ANGLE frames (rules R110, R111, R390) -/

/-- EUL_ANGLE_RECEIVE: a frame of the own group goes to a follower clock, one of REFGRP to the phase watch; a follower of
another cycle length ignores it. -/
def angleReceive (h : HalfId) (s : Block) : Block :=
  match takeFrame ftANGLE (s.fab h).pend with
  | none => s
  | some ((_, _, f), rest) =>
    let s0 := s.modFab h fun x => { x with pend := rest }
    let now := (s.half h).tsc
    let s1 := if s.on h F.EUL_PHCFG_EN && f.group == s.f h F.EUL_PHCFG_REFGRP then
        s0.modFab h fun x => { x with ref := some (f.pay, now) }
      else s0
    if f.group != s.f h F.EUL_NODE_GROUP then s1 else
    let s2 := if s.f h F.EUL_ASTAT_AM_ID != f.src && s.on h F.EUL_ASTAT_AVALID then s1.setF h F.EUL_ERR_AMCHG 1 else s1
    let s3 := (s2.setF h F.EUL_ASTAT_AVALID 1).setF h F.EUL_ASTAT_AM_ID f.src
    if !s.on h F.ANG_CTRL_SRC then s3
    else if bits (nth 0 f.pay 0).toNat 18 18 != s.f h F.ANG_CTRL_CYCLE then s3.setF h F.EUL_ERR_CYCERR 1
    else s3.modFab h fun x => { x with queue := x.queue ++ [(f.pay, f.src, now)] }

def execEulAngleReceive (h : HalfId) (s : State) : Host.Outcome State Fault Refusal := .next { s with blk := angleReceive h s.blk }

/-- One message of the master: an accepted edge, applied at once (rules R91 to R103, R110), or an end of its sync. -/
def Block.follow1 (s : Block) (h : HalfId) (pay : List Word) : Block :=
  let v (i : Nat) : Nat := (nth 0 pay i).toNat
  let sync := bits (v 0) 23 21
  let ended := bits (v 0) 17 16
  if ended != 0 || bits (v 0) 19 19 == 0 || !(sync == syCrank || sync == syFull) then
    s.clockInvalid h (if ended = 1 then cSTALL else cSYNC_LOST)
  else
    let full := sync == syFull
    let rev := bits (v 0) 20 20 == 1
    let te := ((s.ownTime h ((((v 1 * 2 ^ 24 + v 2) * 64 + bits (v 3) 23 18 : Nat)) : Int) / 64) % (2 ^ 48 : Int)).toNat
    let that := periodOf (nth 0 pay 5)
    let d := s.f h F.ANG_FCFG_LAT_MAX * 4
    let lateBy := fwd (2 ^ 48) ((te + d) % 2 ^ 48) (s.half h).tsc
    let s0 := if 0 < lateBy && lateBy < 2 ^ 47 then s.setF h F.ANG_ERR_FLATE 1 else s
    let turned := s.clockValid h && rev != s.clockRev h
    let s1 := if turned then (if rev then s0.reverseCancels h else s0).setF h F.ANG_STAT_REV (bitOf rev) else s0
    let fresh := !s.clockValid h || (s.on h F.ANG_STAT_FULLRANGE && !full)
    let s1 := if fresh && s.fullSync h then s1.suspendStatic h false else s1
    let s2 := if fresh then s1.makeValid h full rev
      else if full && !s.on h F.ANG_STAT_FULLRANGE then s1.relabelNear h (v 4) else s1
    let m := s2.modM h
    let s3 := (s2.modClk h fun c => { c.adopt (v 4) te (v 6) d (fracOf that) m rev with hist := [] }).notePeriod h te (frac that (v 6))
    let s4 := if fresh || turned then s3.reposition h else (s3.meetTrajectory h).jumpExecute h
    let s5 := s4.envelopeTest h
    if fresh || turned then s5.angleSend h 0 else s5

/-- BROADCAST_MESSAGE_USE: the oldest message becomes usable. -/
def messageUse (h : HalfId) (s : Block) : Block :=
  match (s.fab h).queue with
  | [] => s
  | (pay, _, _) :: rest =>
    let s0 := s.modFab h fun x => { x with queue := rest, usedAt := (s.half h).tsc }
    if s.on h F.ANG_CTRL_EN && s.on h F.ANG_CTRL_SRC then s0.follow1 h pay else s0

def execBroadcastMessageUse (h : HalfId) (s : State) : Host.Outcome State Fault Refusal := .next { s with blk := messageUse h s.blk }

/-- FOLLOWER_STALL_TIMEOUT: no message became usable for FSTALL µs, counted from the last one or from the enable; values below
1,000 are taken as 1,000 (rules R111, R113). -/
def followerStall (h : HalfId) (s : Block) : Block :=
  let us := if s.f h F.ANG_FSTALL_FSTALL < 1000 then 1000 else s.f h F.ANG_FSTALL_FSTALL
  if s.on h F.ANG_CTRL_EN && s.on h F.ANG_CTRL_SRC && decide (us * 200 ≤ ticksTo (s.fab h).usedAt (s.half h).tsc) then
    ((s.clockInvalid h cSTALL).setF h F.ANG_ERR_FLOSS 1).setF h F.EUL_ASTAT_AVALID 0
  else s

def execFollowerStallTimeout (h : HalfId) (s : State) : Host.Outcome State Fault Refusal :=
  .next { s with blk := followerStall h s.blk }

/-! ## Registers (rule R394) -/

/-- EUL_CLR.CLRCNT clears the counters of both ports. -/
def Block.eulClear (s : Block) (h : HalfId) : Block :=
  [0, 1].foldl (fun t p => (t.setW h .EUL_PCNT0 0 p).setW h .EUL_PCNT1 0 p) s

def execEulClearCounters (h : HalfId) (s : State) : Host.Outcome State Fault Refusal :=
  s.access .EUL_CLR h { s.blk.eulClear h with busErr := false }

/-- A read of EUL_FTLO latches EUL_FTHI. -/
def Block.readFtlo (s : Block) (h : HalfId) : Block :=
  let w := fabWords (s.fabTime h (s.stepsAt h 0))
  { s.setW h .EUL_FTHI (nth 0 w 0) with busErr := false, busData := nth 0 w 1 }

def execEulFtloRead (h : HalfId) (s : State) : Host.Outcome State Fault Refusal := s.access .EUL_FTLO h (s.blk.readFtlo h)

end Sys2Proof.Machine
end

