-- ==== Sys2Proof/Machine/LogEngine.lean ====
section
/-!
DEFINITION. The log engine (rules R431 to R434, R436): entries in LOG_ENT, the ring pointer in LOG_STAT.
-/

namespace Sys2Proof.Machine

/-- Entries the ring holds. -/
def Block.logCount (s : Block) (h : HalfId) : Nat := if s.on h F.LOG_STAT_FULL then 256 else s.f h F.LOG_STAT_WPTR

def Block.logWord (s : Block) (h : HalfId) (i j : Nat) : Word := s.w h .LOG_ENT (4 * i + j)

/-- The four words of an entry. -/
def Block.logEntry (s : Block) (h : HalfId) (i : Nat) : List Word := (List.range 4).map (s.logWord h i)

/-- Word 0 of a report: CODE, CLASS, BLOCK, INDEX. -/
def logKey (code cls block index : Nat) : Word := wd (code * 2 ^ 16 + cls * 2 ^ 12 + block * 2 ^ 7 + index)

/-- A FAULT notice is queued, or counted as skipped (rule R434). -/
def Block.faultNote (s : Block) (h : HalfId) (d : FaultDue) : Block :=
  s.modHalf h fun x =>
    if x.hip.faults.length < 16 then { x with hip := { x.hip with faults := x.hip.faults ++ [d] } }
    else { x with hip := { x.hip with skipped := capNat 255 (x.hip.skipped + 1) } }

/-- A new entry at WPTR, over the oldest one when the ring is full; one whose notice goes on every link has it whatever NOTEMIN is
(rule R416). -/
def Block.logNew (s : Block) (h : HalfId) (key : Word) (cls count detail first last : Nat) (wide : Bool) : Block :=
  let i := s.f h F.LOG_STAT_WPTR
  let e := [key, wd (count * 2 ^ 16 + detail % 65536), wd first, wd last]
  let s1 := (List.range 4).foldl (fun t j => t.setW h .LOG_ENT (nth 0 e j) (4 * i + j)) s
  let s2 := if s.on h F.LOG_STAT_FULL then s1.count h F.LOG_WRAPS_WRAPS else s1
  let s3 := (s2.setF h F.LOG_STAT_WPTR (i + 1)).setF h F.LOG_STAT_FULL (bitOf (s.on h F.LOG_STAT_FULL || i == 255))
  if wide || cls = 15 || s.f h F.HLM_CFG_NOTEMIN ≤ cls then s3.faultNote h ⟨i, e, false, wide⟩ else s3

/-- The entry of the 16 newest into which a report coalesces. -/
def Block.logMatch (s : Block) (h : HalfId) (key : Word) : Option Nat :=
  ((List.range (if s.logCount h < 16 then s.logCount h else 16)).map fun k => (s.f h F.LOG_STAT_WPTR + 255 - k) % 256).find?
    fun i => s.logWord h i 0 == key && decide (bits (s.logWord h i 1).toNat 23 16 < 255)

/-- One report of the queue: coalesced, without a notice unless it goes on every link (rule R416), or a new entry. -/
def Block.logReport (s : Block) (h : HalfId) (r : Report) : Block :=
  let key := logKey r.code r.cls r.block r.index
  let t := bits r.stamp 41 18
  match s.logMatch h key with
  | some i =>
    let n := bits (s.logWord h i 1).toNat 23 16 + 1
    let s1 := (s.setW h .LOG_ENT (wd (n * 2 ^ 16 + r.detail % 65536)) (4 * i + 1)).setW h .LOG_ENT (wd t) (4 * i + 3)
    if r.wide then s1.faultNote h ⟨i, s1.logEntry h i, false, true⟩ else s1
  | none => s.logNew h key r.cls 1 r.detail t t r.wide

/-- One LOST entry for each block with a loss count, which clears (rule R433). -/
def Block.logLosses (s : Block) (h : HalfId) : Block :=
  (List.range 32).foldl (fun t b =>
    let n := t.f h F.LOG_LOSS_LOST b
    if n = 0 then t else
    let stamp := bits (t.half h).tsc 41 18
    (t.logNew h (logKey (nth 0 (t.half h).hl.lostCode b) 15 b 127) 15 n 0 stamp stamp false).setF h F.LOG_LOSS_LOST 0 b) s

/-- The engine takes the oldest report, and the queue then has room for the losses. -/
def Block.logStep (s : Block) (h : HalfId) : Block :=
  match (s.half h).hl.queue with
  | [] => s
  | r :: rest => ((s.modHalf h fun x => { x with hl := { x.hl with queue := rest } }).logReport h r).logLosses h

/-- LOG_REPORT, while MEM, which holds the log, is on (rules R431, R437); from Couch on reports wait. -/
def logTake (h : HalfId) (s : Block) : Block := if s.memOn h then s.logStep h else s

def execLogReport (h : HalfId) (s : State) : Host.Outcome State Fault Refusal := .next { s with blk := logTake h s.blk }

/-- The engine runs the queue empty, as it has by the time a half is reset, which brings MEM back (rule R430). -/
def Block.logDrain (s : Block) (h : HalfId) : Block :=
  ((s.half h).hl.queue.foldl (fun t _ => t.logStep h) s)

/-- The log emptied: LOG_CMD.CLEAR or LOG_CLEAR (rules R431, R436). -/
def Block.logClear (s : Block) (h : HalfId) : Block :=
  let s1 := if s.memOn h then (List.range 1024).foldl (fun t i => t.setW h .LOG_ENT 0 i) s else s
  (s1.setF h F.LOG_STAT_WPTR 0).setF h F.LOG_STAT_FULL 0

/-- LOG_CMD.CLEAR, by SUP or HIP; a host register write reaches it only in TEST (rules R19, R436). -/
def Block.logCmd (s : Block) (h : HalfId) (ok : Bool) : Block :=
  if ok then { s.logClear h with busErr := false } else { s with busErr := true }

/-- A read of word 0 of an entry latches its words 1 to 3 (rule R436). -/
def Block.logRead (s : Block) (h : HalfId) (i : Nat) : Block :=
  let e := s.logEntry h i
  { s.modHalf h (fun x => { x with hl := { x.hl with latchE := (i, e.drop 1) } }) with busErr := false, busData := nth 0 e 0 }

def execLogEntryRead (h : HalfId) (i : BitVec 8) (s : State) : Host.Outcome State Fault Refusal :=
  s.access .LOG_ENT h (s.blk.logRead h i.toNat)

end Sys2Proof.Machine
end

