-- ==== Sys2Proof/Machine/Resets.lean ====
section
/-!
DEFINITION. What a reset of a half, of the drive-die logic and of the always-on domain clears and keeps (rules R430, R448,
R449), and the class 3 and class 4 faults that order one (rule R428).
-/

namespace Sys2Proof.Machine

def Block.modHl (s : Block) (h : HalfId) (f : HelmLog → HelmLog) : Block := s.modHalf h fun x => { x with hl := f x.hl }

/-- Offsets of a half whose registers outlive its reset: the error log, and the tally's stored words (rules R431, R462). -/
def keptOffset (o : Nat) : Bool :=
  (decide (0x2E0010 ≤ o) && decide (o < 0x2E0012)) || (decide (0x2E0100 ≤ o) && decide (o < 0x2E0120)) ||
  (decide (0x2E1000 ≤ o) && decide (o < 0x2E1400)) || (decide (0x310002 ≤ o) && decide (o < 0x310004)) ||
  (decide (0x310020 ≤ o) && decide (o < 0x310030)) || (decide (0x310100 ≤ o) && decide (o < 0x3101B0))

/-- The first address of a half (rule R44). -/
def halfBase (h : HalfId) : Nat := 0x400000 * h.num

/-- The registers of a half at their reset words, but for those that outlive its reset. -/
def Block.clearHalfRegs (s : Block) (h : HalfId) : Block :=
  { s with regs := s.regs.filter fun x =>
      !(decide (halfBase h ≤ x.1) && decide (x.1 < halfBase h + 0x400000)) || keptOffset (x.1 - halfBase h) }

/-- The part of a half outside its registers, in reset: the tally's increments, the repairs its store records, the wake
state of AON and the losses of the log stay. -/
def Half.inReset (x : Half) : Half :=
  { Half.reset with live := false, tal := x.tal, lost := x.lost, slotDue := x.slotDue, sram := x.sram, pwr := x.pwr,
                    hl := { HelmLog.start with lostCode := x.hl.lostCode } }

/-- DRV follows the higher of the two halves; once off, it comes back with DRV_POWER_UP (rule R442). -/
def Block.drvWanted (s : Block) : Nat :=
  let r := if s.rung .a < s.rung .b then s.rung .a else s.rung .b
  if r ≤ 3 then 0 else if r = 4 then 1 else 2

def Block.drvFollow (s : Block) : Block :=
  let want := s.drvWanted
  let cur := s.f .a F.PWR_STAT_DRV
  if cur = 2 || cur = want then s
  else
    let s1 := s.setF .a F.PWR_STAT_DRV want
    if want = 0 then s1 else (s1.outputsOff .a).outputsOff .b

/-- A half enters reset with a cause of rule R448: reports already made reach the log, its link falls silent, the outputs drop, pending
entries end without notices, configuration and images go. What the peer's link holds for it is discarded (rule R354). The mailboxes whose
two ends lie in the half show both ends reset, and the peer's mailboxes see the reset (rule R339). -/
def Block.haltHalf (s : Block) (h : HalfId) (cause : Nat) : Block :=
  let s0 := (s.logDrain h).linkFalls h lkDOWN
  let s1 := if s0.servedBy h = h then s0 else s0.hostReset h
  let s2 := ((s1.clearHalfRegs h).modHalf h Half.inReset).setOwners
  let s3 := (List.range 12).foldl (fun t k => { t with chop := t.chop.set (injBase h + k) Chop.idle }) s2
  let s4 := (List.range 6).foldl (fun t k => { t with bhs := t.bhs.set (bhsBase h + k) ⟨none, none, false⟩ }) s3
  let mine (i : Nat) : Bool := (decide (i < 24) && i / 12 == h.num) || (decide (24 ≤ i) && (i - 24) / 24 == h.num)
  let s4 : Block := { s4 with latchAt := s4.latchAt.zipIdx.map fun (p : Option Nat × Nat) => if mine p.2 then none else p.1 }
  let s5 := (s4.setF h F.CRP_STAT_RCAUSE cause).updateOE h
  let s6 := (s5.setLane .a ⟨[], [], []⟩).setLane .b ⟨[], [], []⟩
  let s7 := [0, 1, 2, 3, 4].foldl (fun t ep => t.endReset h ep) s6
  (((s7.peerMbxReset h.peer).mbxMirror h).linkShow).peerInvalid

/-- A reset of a half: it goes to BOOT, so its ladder state is Run again (rules R448, R449; log entry 78). -/
def Block.resetHalf (s : Block) (h : HalfId) (cause : Nat) : Block :=
  (((s.haltHalf h cause).setF .a (rungFld h) 0).modPwr h fun _ => Pwr.run).drvFollow

/-- The bits of drive-die registers that a reset of its logic keeps: trip latches with their causes, segment state, and the supply
conditions as they are (rule R449). -/
def drvKept (a : Nat) : Nat :=
  match findReg a with
  | some (.INJ_TRIP, _) | some (.BHS_TRIP, _) | some (.BST_TRIP, _) | some (.HB_TRIP, _) => 0x8001FF
  | some (.EVO_STAT, _) => 0x4000C0
  | some (.INJ_SEG, _) | some (.BHS_SEG, _) | some (.DRV_STAT, _) | some (.DRV_TEMP, _) => 0xFFFFFF
  | _ => 0

/-- A reset of the drive-die logic. -/
def Block.resetDrv (s : Block) : Block :=
  let kept := s.regs.foldl (fun m x =>
    if decide (0x800000 ≤ x.1) && decide (x.1 < 0x900000) then
      memSet (regReset x.1) m x.1 (wd (mix (regReset x.1).toNat (drvKept x.1) x.2.toNat))
    else m) s.regs
  let s1 := { s with regs := kept,
                     fe := List.replicate 6 ⟨false, 0, 0⟩, bhs := List.replicate 12 ⟨none, none, false⟩,
                     chop := List.replicate 24 Chop.idle }
  let s2 := (s1.outputsOff .a).outputsOff .b
  (s2.setF .a F.DRV_STAT_OEA 0).setF .a F.DRV_STAT_OEB 0

/-- Both halves and the drive-die logic (causes 0x03, 0x05, and 0x02 of the drive die). -/
def Block.resetModule (s : Block) (cause : Nat) : Block := ((s.resetHalf .a cause).resetHalf .b cause).resetDrv

/-- A class 3 or class 4 report: logged, a new entry of it relayed by the peer while the bridge holds, then the half resets itself; with
class 4 it asks the peer to do the same, and with `drv` the fault lies in the drive die (rules R428, R430, R448). -/
def Block.fatalAs (s : Block) (h : HalfId) (cause cls code block index detail : Nat) (drv : Bool) : Block :=
  let s0 := s.logDrain h
  let s1 := (s0.report h code cls block index detail).logDrain h
  let i := s0.f h F.LOG_STAT_WPTR
  let s2 := if s.bridgeUp h then
      let t := if (s0.logMatch h (logKey code cls block index)).isNone then s1.faultNote h.peer ⟨i, s1.logEntry h i, true, false⟩ else s1
      if cls = 4 then t.send h .class4 else t
    else s1
  let keep := s2.lane h
  let s3 := s2.resetHalf h cause
  let s4 := if cls = 4 && s.bridgeUp h then s3.setLane h keep else s3
  if drv then s4.resetDrv else s4

def Block.fatal (s : Block) (h : HalfId) (cls code block index detail : Nat) (drv : Bool) : Block :=
  s.fatalAs h (if cls = 4 then 8 else 6) cls code block index detail drv

end Sys2Proof.Machine
end

