-- ==== Sys2Proof/Machine/Helm.lean ====
section
/-!
DEFINITION. Heartbeats, claims, disputes, island mode, and the supervisor watchdog (chapters 1 and 19).
-/

namespace Sys2Proof.Machine

/-- SUP and the bridge endpoint of a half work: out of reset, and above Kiln (rules R437, R441). -/
def Block.supRuns (s : Block) (h : HalfId) : Bool := (s.half h).live && decide (s.rung h ≤ 3)

/-- The half claims the helm and derives its state again. -/
def Block.claim (s : Block) (h : HalfId) (cause : Nat) : Block :=
  if s.fwRuns h then (s.setF h F.HLM_STAT_CLAIM 1).deriveHelm h cause else s.deriveHelm h cause

/-! ## Heartbeats (rules R29, R418 to R420) -/

/-- The heartbeat word of a half. -/
def Block.beatWord (s : Block) (h : HalfId) : Word :=
  let fw := s.fwRuns h
  wd (s.f h F.HLM_STAT_CLAIM * 2 ^ 23 + bitOf fw * 2 ^ 22 + s.f h F.HLM_STAT_PREF * 2 ^ 21 + s.score h * 2 ^ 13 +
    s.phase h * 2 ^ 10 + (if fw then capNat 7 (s.f h F.WTK_STAT_FULL_CYCLES (s.src h)) else 0) * 2 ^ 7)

/-- HEARTBEAT_SEND. With the first heartbeat of its firmware a half claims where PREF names it and no claim of the peer is
held, where the peer is down, or in island mode. -/
def heartbeatSend (h : HalfId) (s : Block) : Block :=
  if !s.supRuns h then s else
  let first := s.fwRuns h && !(s.half h).hl.fwBeats
  let s1 := if first then s.modHl h fun y => { y with fwBeats := true, claimAt := some (s.half h).tsc } else s
  let s2 := if first && ((s.on h F.HLM_STAT_PREF && !s.on h F.HLM_STAT_PEERCLAIM) || s.on h F.HLM_STAT_PEERDOWN || (s.half h).hl.lost)
    then s1.claim h 0 else s1
  if (s.half h).hl.lost then s2 else s2.send h (.beat (s2.beatWord h))

def execHeartbeatSend (h : HalfId) (s : State) : Host.Outcome State Fault Refusal := .next { s with blk := heartbeatSend h s.blk }

/-- The first heartbeat among the words received, and the rest. -/
def takeBeat : List BMsg → Option (Word × List BMsg)
  | [] => none
  | .beat w :: rest => some (w, rest)
  | m :: rest => (takeBeat rest).map fun p => (p.1, m :: p.2)

/-- The cause of a HELM change that a heartbeat brings: a claim against a holder is a challenge; before any holder was
agreed it is the boot. -/
def Block.beatCause (s : Block) (h : HalfId) (claim : Bool) : Nat :=
  if (s.half h).hl.holder.isSome && claim then 3 else 0

/-- HEARTBEAT_RECEIVE. -/
def heartbeatReceive (h : HalfId) (s : Block) : Block :=
  let lane := s.lane h.peer
  match takeBeat lane.rx with
  | none => s
  | some (w, rest) =>
    let s0 := s.setLane h.peer { lane with rx := rest }
    if (s0.half h).hl.lost then s0 else
    let v := w.toNat
    let q := bits v 20 13
    let sent := bits v 23 23 == 1
    let claim := sent && !(s0.half h).hl.yielding
    let s1 := (((s0.setF h F.HLM_STAT_PEERCLAIM (bitOf claim)).setF h F.HLM_STAT_PEERFW (bits v 22 22)).setF h F.HLM_STAT_PEERQ
      q).setF h F.HLM_STAT_BRIDGE 1
    let below := decide (q + s.f h F.HLM_CFG_CHALLENGE ≤ s.score h)
    let s2 := s1.modHl h fun y =>
      { y with lastBeat := some w, claimAt := if sent then none else y.claimAt, peerQOk := y.peerQOk && below, yielding := y.yielding && sent }
    s2.deriveHelm h (s2.beatCause h claim)

def execHeartbeatReceive (h : HalfId) (s : State) : Host.Outcome State Fault Refusal :=
  .next { s with blk := heartbeatReceive h s.blk }

/-- HELM_CLAIM_TIMEOUT: 1 ms, within 0.01 ms, after the first firmware heartbeat no claim was received (rule R420). -/
def claimTimeout (h : HalfId) (s : Block) : Block :=
  match (s.half h).hl.claimAt with
  | none => s
  | some t =>
    if ticksGone t (s.half h).tsc < 198000 then s else
    let s1 := s.modHl h fun y => { y with claimAt := none }
    if s.on h F.HLM_STAT_PEERCLAIM || s.on h F.HLM_STAT_CLAIM then s1 else s1.claim h 0

def execHelmClaimTimeout (h : HalfId) (s : State) : Host.Outcome State Fault Refusal :=
  .next { s with blk := claimTimeout h s.blk }

/-- The entries that ISLCAN cancels on entry to island mode. -/
def Block.islandCancels (s : Block) (h : HalfId) (e : Entry) : Bool :=
  let mode := s.f h F.HLM_CFG_ISLCAN
  let l := s.cycleL h
  let d := fwd l (s.ang h) (e.g % l)
  let later := !s.fullSync h || (decide (l - s.ang h ≤ d) && decide (d < l - l / 4))
  !e.static && !e.armed && (mode == 2 || (mode == 1 && later))

/-- What ISLCAN does in the ANGCLK of entry to island mode (rule R426). -/
def Block.enterIsland (s : Block) (h : HalfId) : Block := s.cancelWhere h cHELM_LOSS (s.islandCancels h)

/-- PEER_DOWN: the indication follows the peer's reset and its SUP domain (rule R419). A half whose peer goes down claims and
holds (rules R420, R424); the claim of the peer ends with it. A peer that is back while the bridge is still lost leaves the half in
island mode (rule R426). -/
def peerDown (h : HalfId) (down : Bool) (s : Block) : Block :=
  if !(s.half h).live || down == s.supRuns h.peer || down == s.on h F.HLM_STAT_PEERDOWN then s
  else if down then ((s.peerInvalid.setF h F.HLM_STAT_PEERDOWN 1).setF h F.HLM_STAT_PEERCLAIM 0).claim h 1
  else
    let t := (s.setF h F.HLM_STAT_PEERDOWN 0).deriveHelm h 2
    if t.helm h = 3 && s.helm h != 3 then t.enterIsland h else t

def execPeerDown (h : HalfId) (down : Bool) (s : State) : Host.Outcome State Fault Refusal :=
  .next { s with blk := peerDown h down s.blk }

/-! ## Loss and return of the bridge (rules R29, R184, R356, R425 to R427) -/

/-- Words on the way when the bridge is lost do not arrive; a deactivation waits for its return (rule R184). -/
def Lane.cut (l : Lane) : Lane :=
  let keep := (l.fifo ++ l.wait).filter fun m => match m with
    | .deactivate _ => true
    | _ => false
  { fifo := keep, wait := [], rx := l.rx }

/-- A dual ring whose other port lies on the peer wraps at the half's own port (rule R388). -/
def Block.islandWrap (s : Block) (h : HalfId) : Block :=
  match s.islandPort h with
  | some p => (s.setF h F.EUL_PSTAT_WRAP 1 p).setF h F.EUL_ERR_WRAPPED 1
  | none => s

/-- BRIDGE_LOST: the half enters island mode, but not while its peer is down. -/
def bridgeLost (h : HalfId) (s : Block) : Block :=
  if !s.supRuns h || s.on h F.HLM_STAT_PEERDOWN || (s.half h).hl.lost then s else
  let s1 := ((s.setF h F.HLM_STAT_BRIDGE 0).setLane h (s.lane h).cut).modHl h fun y => { y with lost := true }
  let s2 := s1.claim h 6
  let s3 := s2.enterIsland h
  let s4 := (s3.setF h F.WTK_XCHK_PEER_VALID 0 0).setF h F.WTK_XCHK_PEER_VALID 0 1
  let s5 := (s4.peerMbxReset h).islandWrap h
  if s5.servedBy h = h then s5 else (s5.hostReset h).moveServing h h

def execBridgeLost (h : HalfId) (s : State) : Host.Outcome State Fault Refusal := .next { s with blk := bridgeLost h s.blk }

/-- One half at the bridge's return: it claims, as its peer does. -/
def Block.bridgeBack (s : Block) (h : HalfId) (peerClaims : Bool) : Block :=
  (((s.setF h F.HLM_STAT_BRIDGE 1).setF h F.HLM_STAT_PEERCLAIM (bitOf peerClaims)).modHl h
    fun y => { y with lost := false, yielding := false }).claim h 7

/-- BRIDGE_RETURN: both halves claim, and a dispute follows. -/
def bridgeReturn (s : Block) : Block :=
  if s.supRuns .a && s.supRuns .b && ((s.half .a).hl.lost || (s.half .b).hl.lost) then
    (s.bridgeBack .a (s.fwRuns .b)).bridgeBack .b (s.fwRuns .a)
  else s

def execBridgeReturn (s : State) : Host.Outcome State Fault Refusal := .next { s with blk := bridgeReturn s.blk }

/-- BRIDGE_CREDIT_WAIT_FAULT: words still wait for a credit; a bridge health fault is recorded (rule R28, log entry 15). -/
def creditWait (h : HalfId) (s : Block) : Block :=
  if (s.lane h).wait.isEmpty then s
  else s.report h cOK 0 16 127 (s.score h * 256 + s.f h F.HLM_STAT_PEERQ)

def execBridgeCreditWaitFault (h : HalfId) (s : State) : Host.Outcome State Fault Refusal :=
  .next { s with blk := creditWait h s.blk }

/-- TSC_XDIFF_MEASURE: own count minus the peer's at one instant, off by at most 2 ticks: the error is `e - 2` (rule R43). A
half measures once the peer's firmware has sent a heartbeat (rule R452). -/
def xdiffMeasure (h : HalfId) (e : Nat) (s : Block) : Block :=
  if !s.bridgeUp h || !(s.half h).live || !(s.half h.peer).live || !s.on h F.HLM_STAT_PEERFW then s else
  let d : Int := ((s.half h).tsc : Int) - ((s.half h.peer).tsc : Int) + (e : Int) - 2
  (s.modHalf h fun x => { x with xdiff := sext 48 (field 48 d) }).setF h F.TSC_XSTAT_VALID 1

def execTscXdiffMeasure (h : HalfId) (e : Fin 5) (s : State) : Host.Outcome State Fault Refusal :=
  .next { s with blk := xdiffMeasure h e.val s.blk }

/-! ## Disputes (rules R421 to R424) -/

/-- The half holds both values: the lower yields, and of equal ones the half that HELMPRE does not name. -/
def Block.decideDispute (s : Block) (h : HalfId) : Block :=
  let y := (s.half h).hl
  match y.sentQ, y.qmin, y.pqmin with
  | true, some own, some peer =>
    let cause := if own = peer then 5 else 4
    let yields := decide (own < peer) || (own == peer && !s.on h F.HLM_STAT_PREF)
    if yields then ((s.setF h F.HLM_STAT_CLAIM 0).setF h F.HLM_ERR_YIELDED 1).deriveHelm h cause
    else ((s.modHl h fun y => { y with yielding := s.on h F.HLM_STAT_PEERCLAIM }).setF h F.HLM_STAT_PEERCLAIM 0).deriveHelm h cause
  | _, _, _ => s

/-- The present ANGCLK is an evaluation point: a cycle start of the half not yet evaluated, or with the clock invalid 100 ms, within
1 %, after the last point or the loss of the clock (rule R423). -/
def Block.evalPoint (s : Block) (h : HalfId) : Bool :=
  let c := (s.half h).clk
  let now := (s.half h).tsc
  let last := (s.half h).hl.evalAt
  if s.clockValid h then c.cycAt == some now && last != some now
  else match last, c.invalidSince with
    | some t, _ | none, some t => decide (19800000 ≤ ticksGone t now)
    | none, none => true

/-- DISPUTE_EVALUATION: at the first evaluation point the half starts to record QMIN, at the second it sends it. The boot ROM takes
no part. -/
def disputeEvaluation (h : HalfId) (s : Block) : Block :=
  if s.helm h ≠ 2 || !s.fwRuns h || !s.evalPoint h then s else
  let n := s.f h F.HLM_DISP_EVALS
  let s := s.modHl h fun y => { y with evalAt := some (s.half h).tsc }
  if n = 0 then (s.modHl h fun y => { y with qmin := some (s.score h) }).setF h F.HLM_DISP_EVALS 1
  else if n = 1 then
    let q := (s.half h).hl.qmin.getD (s.score h)
    let s1 := (((s.modHl h fun y => { y with qmin := some q, sentQ := true }).setF h F.HLM_DISP_EVALS 2).setF h F.HLM_DISP_QMIN q)
    (s1.send h (.qmin q)).decideDispute h
  else s

def execDisputeEvaluation (h : HalfId) (s : State) : Host.Outcome State Fault Refusal :=
  .next { s with blk := disputeEvaluation h s.blk }

/-- The first helm message among the words received, and the rest. -/
def takeQmin : List BMsg → Option (Nat × List BMsg)
  | [] => none
  | .qmin q :: rest => some (q, rest)
  | m :: rest => (takeQmin rest).map fun p => (p.1, m :: p.2)

/-- HELM_MESSAGE_RECEIVE. -/
def helmMessageReceive (h : HalfId) (s : Block) : Block :=
  let lane := s.lane h.peer
  match takeQmin lane.rx with
  | none => s
  | some (q, rest) =>
    let s0 := s.setLane h.peer { lane with rx := rest }
    if s0.helm h ≠ 2 then s0
    else ((s0.modHl h fun y => { y with pqmin := some q }).setF h F.HLM_DISP_PQMIN q).decideDispute h

def execHelmMessageReceive (h : HalfId) (s : State) : Host.Outcome State Fault Refusal :=
  .next { s with blk := helmMessageReceive h s.blk }

/-! ## Class 4 requests and the supervisor watchdog (rules R428, R429) -/

/-- A class 4 request among the words received, taken out. -/
def takeClass4 : List BMsg → Option (List BMsg)
  | [] => none
  | .class4 :: rest => some rest
  | m :: rest => (takeClass4 rest).map fun l => m :: l

/-- CLASS4_REQUEST_RECEIVE: obeyed whatever the half sees itself. -/
def class4Receive (h : HalfId) (s : Block) : Block :=
  match takeClass4 (s.lane h.peer).rx with
  | none => s
  | some _ => s.resetHalf h 9

def execClass4RequestReceive (h : HalfId) (s : State) : Host.Outcome State Fault Refusal :=
  .next { s with blk := class4Receive h s.blk }

/-- SUPERVISOR_WATCHDOG_TIMEOUT: a running watchdog had no write for 1 ms; the half is reset. -/
def watchdogTimeout (h : HalfId) (s : Block) : Block :=
  if s.supRuns h && (s.half h).hl.wdogRun then s.fatalAs h 7 3 cOK 15 3 0 false else s

def execSupervisorWatchdogTimeout (h : HalfId) (s : State) : Host.Outcome State Fault Refusal :=
  .next { s with blk := watchdogTimeout h s.blk }

/-- SUPERVISOR_WATCHDOG_KICK: a write of CRP_WDOG with KICK 1, by SUP. -/
def Block.watchdogKick (s : Block) (h : HalfId) (who : Master) : Block :=
  if s.roleOf h who = some 3 then { s.modHl h fun y => { y with wdogRun := true } with busErr := false } else { s with busErr := true }

def execSupervisorWatchdogKick (h : HalfId) (who : Master) (s : State) : Host.Outcome State Fault Refusal :=
  s.access .CRP_WDOG h (s.blk.watchdogKick h who)

/-! ## Commands on the helm and log registers (rule R436) -/

/-- HLM_CLR, LOG_CMD and HLM_ERR: SUP and HIP of the half, the host in TEST (rule R19). -/
def Block.hlmMaster (s : Block) (h : HalfId) (who : Master) : Bool :=
  s.roleOf h who == some 3 || s.roleOf h who == some 0 || (who == .link && s.phase h == phTEST)

/-- HLM_CLR.CLRCNT. -/
def Block.helmClear (s : Block) (h : HalfId) (who : Master) : Block :=
  if s.hlmMaster h who then { (s.setW h .HLM_CNT 0).setW h .LOG_WRAPS 0 with busErr := false } else { s with busErr := true }

def execHlmClearCounters (h : HalfId) (who : Master) (s : State) : Host.Outcome State Fault Refusal :=
  s.access .HLM_CLR h (s.blk.helmClear h who)

/-- LOG_CMD.CLEAR. -/
def execLogCmdClear (h : HalfId) (who : Master) (s : State) : Host.Outcome State Fault Refusal :=
  s.access .LOG_CMD h (s.blk.logCmd h (s.blk.hlmMaster h who))

end Sys2Proof.Machine
end

