-- ==== Sys2Proof/Machine/Comparators.lean ====
section
/-!
DEFINITION. Comparators and window monitors (chapter 10). A command gives the voltage of a comparator's input in threshold steps,
which every comparator on that input sees; the decision before INV is CMP_STAT.RAW with INV taken back.
-/

namespace Sys2Proof.Machine

def Block.cmp (s : Block) (h : HalfId) (k : Nat) : Cmp := nth Cmp.idle (s.half h).cmp k

def Block.modCmp (s : Block) (h : HalfId) (k : Nat) (f : Cmp → Cmp) : Block :=
  s.modHalf h fun x => { x with cmp := x.cmp.set k (f (nth Cmp.idle x.cmp k)) }

/-! ## Decision (rules R265, R266) -/

/-- V of a comparator: the voltage of the input that INSEL selects. -/
def Block.cmpV (s : Block) (h : HalfId) (k : Nat) : Nat := nth 0 (s.half h).cmpIn (s.f h F.CMP_CFG_INSEL k)

/-- The input of a comparator takes a voltage. -/
def Block.setCmpV (s : Block) (h : HalfId) (k v : Nat) : Block :=
  s.modHalf h fun x => { x with cmpIn := x.cmpIn.set (s.f h F.CMP_CFG_INSEL k) v }

/-- What the table of rule R266 makes of an input: a decision, or none inside a band. -/
def cmpDecide (mode hi lo hys v : Nat) : Option Bool :=
  match mode with
  | 0 => if hi ≤ v then some true else if v + hys ≤ hi then some false else none
  | 1 => if v ≤ lo then some true else if lo + hys ≤ v then some false else none
  | 2 => if hi ≤ v ∨ v ≤ lo then some true else if lo + hys ≤ v ∧ v + hys ≤ hi then some false else none
  | _ => none

def Block.cmpDecision (s : Block) (h : HalfId) (k v : Nat) : Option Bool :=
  cmpDecide (s.f h F.CMP_CFG_MODE k) (s.f h F.CMP_TH_TH_HI k) (s.f h F.CMP_TH_TH_LO k) (s.f h F.CMP_HYS_HYS k) v

/-- Window mode: the side of the last excursion (rule R266). -/
def Block.cmpSide (s : Block) (h : HalfId) (k v : Nat) : Block :=
  if s.f h F.CMP_CFG_MODE k ≠ 2 then s
  else if s.f h F.CMP_TH_TH_HI k ≤ v then (s.setF h F.CMP_STAT_ABOVE 1 k).setF h F.CMP_STAT_BELOW 0 k
  else if v ≤ s.f h F.CMP_TH_TH_LO k then (s.setF h F.CMP_STAT_ABOVE 0 k).setF h F.CMP_STAT_BELOW 1 k
  else s

/-- V has crossed no edge since it was `v0`: the same decision, and in window mode on the same side. -/
def Block.cmpSame (s : Block) (h : HalfId) (k v0 v : Nat) : Bool :=
  s.cmpDecision h k v0 == s.cmpDecision h k v &&
    (s.f h F.CMP_CFG_MODE k != 2 || decide (s.f h F.CMP_TH_TH_HI k ≤ v0) == decide (s.f h F.CMP_TH_TH_HI k ≤ v))

/-- After a write of CMP_TH or CMP_HYS an enabled comparator that V would make decide anew waits for V to cross an edge (rule R274). -/
def Block.cmpHold (s : Block) (h : HalfId) (k : Nat) : Block :=
  let v := s.cmpV h k
  let last := s.on h F.CMP_STAT_RAW k != s.on h F.CMP_CFG_INV k
  s.modCmp h k fun c =>
    { c with heldAt := if s.on h F.CMP_CFG_EN k && (match s.cmpDecision h k v with
      | some d => s.on h F.CMP_STAT_UNSETTLED k || d != last
      | none => false) then some v else none }

/-! ## Blanking (rules R268, R269) -/

/-- The blanking source is at its active level; a HIGH-Z output reads as LOW (rule R277). -/
def Block.blankSource (s : Block) (h : HalfId) (k : Nat) : Bool :=
  let n := s.f h F.CMP_BLK_SRC k
  let level :=
    if n < 16 then s.on h (if s.on h F.CMP_BLK_SRCOUT k then F.PWM_STAT_OUTB else F.PWM_STAT_OUTA) n
    else s.tmrLevel (n - 16)
  level != s.on h F.CMP_BLK_BLPOL k

/-- Blanking holds the output. -/
def Block.blanked (s : Block) (h : HalfId) (k : Nat) : Bool :=
  s.on h F.CMP_CFG_EN k && s.on h F.CMP_BLK_BLEN k && s.blankSource h k && !(s.cmp h k).ovrd

/-! ## Routing (rules R270 to R272, R275) -/

/-- Comparator `k`, powered and enabled, holds trip line `l`: a HIGH routed output, or a failed comparator with FAILSAFE. -/
def Block.cmpHolds (s : Block) (h : HalfId) (l k : Nat) : Bool :=
  s.cmpPowered h && s.on h F.CMP_CFG_EN k && s.on h F.CMP_CFG_TRIPEN k && s.f h F.CMP_CFG_TL k == l &&
    (s.on h F.CMP_STAT_OUT k || (s.on h F.CMP_STAT_FAILED k && s.on h F.CMP_CFG_FAILSAFE k))

/-- CMP_TLSTAT shows each line as the OR of the comparators routed to it. -/
def Block.tripLines (s : Block) (h : HalfId) : Block :=
  s.setF h F.CMP_TLSTAT_TL (total (fun l => if (List.range 32).any (s.cmpHolds h l) then 2 ^ l else 0) (List.range 8))

/-- A selected edge of the output: its event bit, the capture, the offer to the timers, the wake. -/
def Block.cmpEdge (s : Block) (h : HalfId) (k : Nat) (rising : Bool) : Block :=
  if bits (s.f h F.CMP_CFG_EDGE k) (bitOf !rising) (bitOf !rising) = 0 then s else
  let s1 := s.setF h (if rising then F.CMP_EVT_RISE else F.CMP_EVT_FALL) 1 k
  let s2 := if s.on h F.CMP_CFG_CAPEN k then
      let t := if (s.cmp h k).unread then s1.setF h F.CMP_EVT_CAPOVF 1 k else s1
      (t.setW h .CMP_CAPLO (wd (s.half h).tsc) k).modCmp h k fun c => { c with cap := (s.half h).tsc, unread := true }
    else s1
  let s3 := if s.on h F.CMP_CFG_TCAPEN k then
      { s2 with tmr := s2.tmr.zipIdx.map fun (x, i) =>
          if s.on .a F.TMR_CFG_CAPEN i && s.f .a F.TMR_CFG_CAPH i == h.num && s.f .a F.TMR_CFG_CAPCMP i == k
          then { x with cap := true } else x }
    else s2
  if s.on h F.CMP_CFG_WAKEEN k then s3.wakeHalf h (7 + h.num) 3 else s3

/-- The output takes a level, with an edge where `event`. -/
def Block.cmpOut (s : Block) (h : HalfId) (k : Nat) (v event : Bool) : Block :=
  if s.on h F.CMP_STAT_OUT k = v then s.tripLines h
  else
    let s1 := (s.setF h F.CMP_STAT_OUT (bitOf v) k).tripLines h
    if event then s1.cmpEdge h k v else s1

/-! ## The commands -/

/-- An enabled comparator decides at its V: a settled one whose last decision is `last` keeps it inside a band, and its output
follows unless blanking holds it; an unsettled one settles at a band edge; one whose edges were moved past V waits for V to cross
one (rules R266, R268, R273, R274). -/
def Block.cmpFollow (s0 : Block) (h : HalfId) (k : Nat) (last : Bool) : Block :=
  if !s0.cmpPowered h || !s0.on h F.CMP_CFG_EN k || s0.on h F.CMP_STAT_FAILED k then s0 else
  let waits : Bool := match (s0.cmp h k).heldAt with
    | some v0 => s0.cmpSame h k v0 (s0.cmpV h k)
    | none => false
  let s := if waits then s0 else s0.modCmp h k fun c => { c with heldAt := none }
  let inv := s.on h F.CMP_CFG_INV k
  let fresh := s.on h F.CMP_STAT_UNSETTLED k
  match if waits then none else s.cmpDecision h k (s.cmpV h k), fresh with
  | none, true => s
  | none, false =>
    let s1 := s.setF h F.CMP_STAT_RAW (bitOf (last != inv)) k
    if s.blanked h k then s1 else s1.cmpOut h k (last != inv) true
  | some d, _ =>
    let s1 := ((s.cmpSide h k (s.cmpV h k)).setF h F.CMP_STAT_RAW (bitOf (d != inv)) k).setF h F.CMP_STAT_UNSETTLED 0 k
    if s.blanked h k then s1 else s1.cmpOut h k (d != inv) (!fresh || (d && (d != inv)))

/-- Comparator `k` decides with the configuration it had. -/
def Block.cmpJudge (h : HalfId) (s : Block) (k : Nat) : Block :=
  s.cmpFollow h k (s.on h F.CMP_STAT_RAW k != s.on h F.CMP_CFG_INV k)

/-- COMPARATOR_DECISION_CHANGE: the input of comparator `k` reaches V, and every comparator on that input decides. -/
def decisionChange (h : HalfId) (k v : Nat) (s : Block) : Block :=
  ((List.range 32).filter fun j => s.f h F.CMP_CFG_INSEL j == s.f h F.CMP_CFG_INSEL k).foldl (Block.cmpJudge h) (s.setCmpV h k v)

def execComparatorDecisionChange (h : HalfId) (k : Fin 32) (v : BitVec 12) (s : State) : Host.Outcome State Fault Refusal :=
  .next { s with blk := decisionChange h k.val v.toNat s.blk }

/-- The source has left its active level, or BLEN is 0: the guard's override ends with the active level, and the output takes the
raw decision. -/
def blankingEnd (h : HalfId) (k : Nat) (s : Block) : Block :=
  if s.blanked h k then s else
  let s1 := if s.blankSource h k then s else s.modCmp h k fun c => { c with ovrd := false }
  if s.cmpPowered h && s.on h F.CMP_CFG_EN k && !s.on h F.CMP_STAT_UNSETTLED k && !s.on h F.CMP_STAT_FAILED k then
    s1.cmpOut h k (s.on h F.CMP_STAT_RAW k) true
  else s1

def execBlankingEnd (h : HalfId) (k : Fin 32) (s : State) : Host.Outcome State Fault Refusal :=
  .next { s with blk := blankingEnd h k.val s.blk }

/-- The guard overrides a blanking that has held too long; with BLMAX 0 it is off (rule R269). -/
def blankingGuard (h : HalfId) (k : Nat) (s : Block) : Block :=
  if !s.cmpPowered h || !s.blanked h k || s.f h F.CMP_BLK_BLMAX k = 0 then s else
  let s1 := (s.modCmp h k fun c => { c with ovrd := true }).setF h F.CMP_EVT_BLERR 1 k
  if s.on h F.CMP_STAT_UNSETTLED k || s.on h F.CMP_STAT_FAILED k then s1
  else s1.cmpOut h k (s.on h F.CMP_STAT_RAW k) true

def execBlankingGuardTimeout (h : HalfId) (k : Fin 32) (s : State) : Host.Outcome State Fault Refusal :=
  .next { s with blk := blankingGuard h k.val s.blk }

/-- The first decision, when a comparator is enabled or its ANA domain is powered (rule R273). -/
def Block.cmpFirst (s0 : Block) (h : HalfId) (k : Nat) : Block :=
  let s := s0.modCmp h k fun c => { c with heldAt := none }
  if !s.cmpPowered h || s.on h F.CMP_STAT_FAILED k then s.tripLines h else
  match s.cmpDecision h k (s.cmpV h k) with
  | some d =>
    let raw := d != s.on h F.CMP_CFG_INV k
    ((((s.cmpSide h k (s.cmpV h k)).setF h F.CMP_STAT_RAW (bitOf raw) k).setF h F.CMP_STAT_UNSETTLED 0 k).cmpOut h k raw false)
  | none => ((s.setF h F.CMP_STAT_RAW 0 k).setF h F.CMP_STAT_UNSETTLED 1 k).cmpOut h k false false

/-- EN written 1 with the input at V: the first decision of a comparator that was not enabled. -/
def cmpEnable (h : HalfId) (k v : Nat) (s : Block) : Block :=
  let s1 := decisionChange h k v s
  if s.on h F.CMP_CFG_EN k then { s1 with busErr := false }
  else { (s1.setF h F.CMP_CFG_EN 1 k).cmpFirst h k with busErr := false }

def execComparatorEnable (h : HalfId) (k : Fin 32) (v : BitVec 12) (s : State) : Host.Outcome State Fault Refusal :=
  s.access .CMP_CFG h (cmpEnable h k.val v.toNat s.blk)

/-- EN written 0: output LOW, trip line released, no event; CMP_EVT and the capture stay (rule R274). -/
def Block.cmpOff (s : Block) (h : HalfId) (k : Nat) : Block :=
  let s1 := (((s.setF h F.CMP_CFG_EN 0 k).setF h F.CMP_STAT_RAW 0 k).setF h F.CMP_STAT_UNSETTLED 0 k).modCmp h k
    fun c => { c with ovrd := false, heldAt := none }
  s1.cmpOut h k false false

def execComparatorDisable (h : HalfId) (k : Fin 32) (s : State) : Host.Outcome State Fault Refusal :=
  s.access .CMP_CFG h { s.blk.cmpOff h k.val with busErr := false }

/-- Window mode requires TH_LO + HYS < TH_HI − HYS (rule R266). -/
def windowOk (mode hi lo hys : Nat) : Bool := mode != 2 || decide (lo + hys + hys < hi)

/-- A write of CMP_TH or CMP_HYS (rules R274, R276): no edge by itself; refused where it breaks the window condition. -/
def Block.cmpThreshold (s : Block) (h : HalfId) (k : Nat) (hys : Bool) (v : Word) : Block :=
  let r := if hys then Reg.CMP_HYS else Reg.CMP_TH
  let s1 := s.setW h r (wd (v.toNat &&& r.info.rw)) k
  if windowOk (s1.f h F.CMP_CFG_MODE k) (s1.f h F.CMP_TH_TH_HI k) (s1.f h F.CMP_TH_TH_LO k) (s1.f h F.CMP_HYS_HYS k)
  then { s1.cmpHold h k with busErr := false } else { s with busErr := true }

def execComparatorThresholdWrite (h : HalfId) (k : Fin 32) (hys : Bool) (v : Word) (s : State) :
    Host.Outcome State Fault Refusal := s.access .CMP_TH h (s.blk.cmpThreshold h k.val hys v)

/-- A read of CMP_CAPLO returns the low half of the capture and latches CMP_CAPHI (rule R271). -/
def Block.capRead (s : Block) (h : HalfId) (k : Nat) : Block :=
  let s1 := (s.setW h .CMP_CAPHI (wd ((s.cmp h k).cap / 2 ^ 24)) k).modCmp h k fun c => { c with unread := false }
  { s1 with busErr := false, busData := s.w h .CMP_CAPLO k }

def execCmpCaploRead (h : HalfId) (k : Fin 32) (s : State) : Host.Outcome State Fault Refusal :=
  s.access .CMP_CAPLO h (s.blk.capRead h k.val)

/-- A failed comparator takes the lowest unused good spare of its half, or reads FAILED; the exchange or the failure goes
to the tally, the notices and the log (rules R37, R275, R464). -/
def Block.cmpReplace (s : Block) (h : HalfId) (k : Nat) : Block :=
  let gone := s.f h F.CMP_SPARE_USED ||| s.f h F.CMP_SPARE_SFAIL
  match (List.range 4).find? fun i => bits gone i i = 0 with
  | some i =>
    let used := putBits (s.f h F.CMP_SPARE_USED) i i 1
    let s1 := (s.setF h F.CMP_SPARE_USED used).setF h F.CMP_STAT_SPARE 1 k
    let left := ((List.range 4).filter fun j => bits (gone ||| used) j j = 0).length
    s1.spareEvent h 4 true k left 0 7 k 0
  | none => ((s.setF h F.CMP_STAT_FAILED 1 k).cmpOut h k false false).spareEvent h 4 false k 0 0 7 k 0

/-- CMP_SPARE written with FGO 1: in TEST it replaces comparator FIDX, in any other phase it is a refused write. -/
def Block.cmpForce (s : Block) (h : HalfId) (k : Nat) : Block :=
  if s.phase h = phTEST then { s.cmpReplace h k with busErr := false } else { s with busErr := true }

def execComparatorForceReplace (h : HalfId) (k : Fin 32) (s : State) : Host.Outcome State Fault Refusal :=
  s.access .CMP_SPARE h (s.blk.cmpForce h k.val)

end Sys2Proof.Machine
end

