-- ==== Sys2Proof/Machine/Pwm.lean ====
section
/-!
DEFINITION. PWM units (chapter 11): counter, compares, overrides, minimum-pulse filter, bootstrap refresh, dead time and
trip gating, in this order. Times inside a unit are delay-line steps of 78.125 ps, 64 to the ANGCLK, from its start.
-/

namespace Sys2Proof.Machine

def Block.pwm (s : Block) (h : HalfId) (u : Nat) : Pwm := nth Pwm.idle (s.half h).pwm u

def Block.modPwm (s : Block) (h : HalfId) (u : Nat) (f : Pwm → Pwm) : Block :=
  s.modHalf h fun x => { x with pwm := x.pwm.set u (f (nth Pwm.idle x.pwm u)) }

def Block.pwmFrozen (s : Block) (h : HalfId) : Bool := s.on h F.PWM_GFRZ_FRZ

/-- Trip gating: both outputs HIGH-Z while the latch is set, and after its clear until the wrap (rules R290, R291). -/
def Block.pwmHiz (s : Block) (h : HalfId) (u : Nat) : Bool := s.on h F.PWM_TRIP_LATCH u || (s.pwm h u).clear

/-- PWM_STAT and PWM_GRUN show the unit, and the half-bridges that name it follow its outputs (rules R222, R277). -/
def Block.pwmShow (s : Block) (h : HalfId) (u : Nat) : Block :=
  let p := s.pwm h u
  let hiz := s.pwmHiz h u
  let stat := bitOf p.run.isSome * 2 ^ 23 + bitOf (p.pend.isSome || p.pend2.isSome) * 2 ^ 22 + bitOf (s.pwmFrozen h) * 2 ^ 21 +
    bitOf hiz * 2 ^ 20 + bitOf p.refAt.isSome * 2 ^ 19 +
    bitOf ((p.chA.edges ++ p.chB.edges).any PwmEdge.post) * 2 ^ 18 + bitOf (p.lvlA && !hiz) * 2 ^ 17 + bitOf (p.lvlB && !hiz) * 2 ^ 16
  let s1 := (s.setW h .PWM_STAT (wd stat) u).setF h F.PWM_GRUN_RUN (putBits (s.f h F.PWM_GRUN_RUN) u u (bitOf p.run.isSome))
  (List.range 4).foldl (fun t k =>
    if t.on .a F.HB_CFG_EN (hbBase h + k) && t.f .a F.HB_CFG_SRC (hbBase h + k) == u then t.hbDrive (hbBase h + k) else t) s1

/-! ## Requests and overrides (rules R281, R286) -/

/-- The update set as the registers hold it. -/
def Block.pwmRegs (s : Block) (h : HalfId) (u : Nat) : PwmSet :=
  { per := s.f h F.PWM_PER_PER u,
    cmp := [s.f h F.PWM_AON_VALUE u, s.f h F.PWM_AOFF_VALUE u, s.f h F.PWM_BON_VALUE u, s.f h F.PWM_BOFF_VALUE u],
    tap := (s.w h .PWM_TAP u).toNat, ovr := (s.w h .PWM_OVR u).toNat }

/-- The tap of compare `i`. -/
def PwmSet.tapOf (x : PwmSet) (i : Nat) : Nat := bits x.tap (23 - 6 * i) (18 - 6 * i)

/-- What the overrides make of the two requests: the level at the input of each filter. -/
def pwmLevels (ovr : Nat) (a b : Bool) : Bool × Bool :=
  let swap := bits ovr 2 2 == 1
  ((if swap then b else a) != (bits ovr 1 1 == 1), (if swap then a else b) != (bits ovr 0 0 == 1))

/-- The four compares that match at a count, in tap order, OFF after ON at equal taps (rules R281, R282). -/
def PwmSet.hitsAt (x : PwmSet) (run count : Nat) : List PwmHit :=
  sortBy (fun k => 2 * k.t + k.cmp % 2) (((List.range 4).filter fun i => nth 0 x.cmp i == count && decide (count < x.per)).map
    fun i => ⟨64 * run + x.tapOf i, i⟩)

/-! ## The minimum-pulse filter (rule R287) -/

/-- The threshold W. -/
def Block.pwmW (s : Block) (h : HalfId) (u : Nat) : Nat :=
  s.f h F.PWM_MINP_MINP u + (if s.on h F.PWM_CTRL_CMPL u then s.f h F.PWM_DT_DT u else 0)

/-- What an edge at the filter input does: the filter after it, and the PWM_ERR bits it sets (4 DROP, 3 STRETCH,
2 JOIN). Two edges at one time are no pulse and leave together. -/
def PwmChan.edge (c : PwmChan) (w : Nat) (stretch : Bool) (t : Nat) (level : Bool) : PwmChan × Nat :=
  if c.inp = level then (c, 0) else
  let push (x : PwmEdge) (l : List PwmEdge) : PwmChan := { c with inp := level, edges := l ++ [x] }
  let fresh : PwmEdge := ⟨t, t + w, level, false, false⟩
  match c.edges.getLast? with
  | none => (push fresh [], 0)
  | some e =>
    if e.init && e.t == t then ({ c with inp := level, edges := c.edges.dropLast ++ [{ e with level := level }] }, 0)
    else if e.init && decide (t < e.leave) then (push fresh c.edges, 0)
    else if e.leave ≤ t then (push fresh c.edges, 0)
    else if e.t = t then ({ c with inp := level, edges := c.edges.dropLast }, 0)
    else if e.post then ({ c with inp := level, edges := c.edges.dropLast }, 4)
    else if stretch then (push { fresh with leave := e.leave + w, post := true } c.edges, 8)
    else ({ c with inp := level, edges := c.edges.dropLast }, 16)

def Block.pwmErr (s : Block) (h : HalfId) (u m : Nat) : Block :=
  s.setW h .PWM_ERR (s.w h .PWM_ERR u ||| wd m) u

/-- The present requests reach the filters at time `t`. -/
def Block.pwmRequest (s : Block) (h : HalfId) (u t : Nat) : Block :=
  let p := s.pwm h u
  let l := pwmLevels p.act.ovr p.reqA p.reqB
  let w := s.pwmW h u
  let st := s.on h F.PWM_CTRL_POLICY u
  let a := p.chA.edge w st t l.1
  let b := if s.on h F.PWM_CTRL_CMPL u then (p.chB, 0) else p.chB.edge w st t l.2
  (s.modPwm h u fun x => { x with chA := a.1, chB := b.1 }).pwmErr h u (a.2 ||| b.2)

/-- The edges of a filter without a start level that an edge overtook: such a level never leaves, but stands while that edge may
still be removed as part of a short pulse. -/
def leaving : List PwmEdge → List PwmEdge
  | a :: b :: rest => if a.init && decide (b.t < a.leave) then b :: rest else a :: b :: rest
  | l => l

/-- The filters from a start on: the request of that moment enters as no edge, and any edge that comes before it has left
takes its place (rules R280, R291). -/
def Block.pwmStages (s : Block) (h : HalfId) (u t : Nat) : Block :=
  let w := s.pwmW h u
  s.modPwm h u fun x =>
    let l := pwmLevels x.act.ovr x.reqA x.reqB
    { x with chA := ⟨l.1, [⟨t, t + w, l.1, true, false⟩], none⟩, chB := ⟨l.2, [⟨t, t + w, l.2, true, false⟩], none⟩,
             riseAt := none, refAt := none, lvlA := false, lvlB := false, dtA := none, dtB := none, clear := false }

/-! ## Dead time (rule R289) -/

/-- S takes a level: an output falls at once and rises DT after `t`, unless it is HIGH. -/
def Block.pwmS (s : Block) (h : HalfId) (u t : Nat) (level : Bool) : Block :=
  let dt := s.f h F.PWM_DT_DT u
  s.modPwm h u fun x =>
    let x := { x with riseAt := if level then some t else none }
    if level then
      if dt = 0 then { x with lvlA := true, lvlB := false, dtA := none, dtB := none }
      else { x with lvlB := false, dtB := none, dtA := if x.lvlA then none else some (t + dt) }
    else if dt = 0 then { x with lvlA := false, lvlB := true, dtA := none, dtB := none }
    else { x with lvlA := false, dtA := none, dtB := if x.lvlB then none else some (t + dt) }

/-- A running unit whose CMPL an overlay changed, at time `t` (rules R286, R289, R293): output B becomes the complement of S, or the
two outputs follow their own filters, that of B from the level it had. -/
def Block.pwmRemode (s : Block) (h : HalfId) (u t : Nat) : Block :=
  let p := s.pwm h u
  let lvl := p.chA.out.getD false
  if s.on h F.PWM_CTRL_CMPL u then (s.modPwm h u fun x => { x with chB := PwmChan.idle }).pwmS h u t lvl
  else s.modPwm h u fun x =>
    { x with chB := ⟨x.lvlB, [], some x.lvlB⟩, lvlA := lvl, dtA := none, dtB := none, riseAt := none, refAt := none }

/-! ## Starting and stopping (rules R279, R280) -/

/-- The counter starts at INIT with the shadow set active, both outputs LOW, and the compares at INIT match. -/
def Block.pwmStart (s : Block) (h : HalfId) (u : Nat) : Block :=
  let init := s.f h F.PWM_INIT_INIT u
  let set := s.pwmRegs h u
  let s1 := s.modPwm h u fun x => { x with wait := false, run := some 0, count := init, act := set, ovr := none, pipe := [],
                                           wrap := none, hits := set.hitsAt 0 init, reqA := false, reqB := false, clear := x.clear }
  let hold := (s.pwm h u).clear
  ((s1.pwmStages h u 0).modPwm h u fun x => { x with clear := hold }).pwmShow h u

/-- EN written 1: refused with PER below 4 or INIT not below PER; a unit that is enabled goes on. -/
def Block.pwmEnable (s : Block) (h : HalfId) (u : Nat) : Block :=
  let per := s.f h F.PWM_PER_PER u
  if per < 4 || per ≤ s.f h F.PWM_INIT_INIT u then { s with busErr := true }
  else if s.on h F.PWM_CTRL_EN u then { s with busErr := false }
  else
    let s1 := s.setF h F.PWM_CTRL_EN 1 u
    { (if s.on h F.PWM_CTRL_GSYNC u then (s1.modPwm h u fun x => { x with wait := true }).pwmShow h u
       else s1.pwmStart h u) with busErr := false }

def execPwmEnable (h : HalfId) (u : Fin 16) (s : State) : Host.Outcome State Fault Refusal :=
  s.access .PWM_CTRL h (s.blk.pwmEnable h u.val)

/-- The registers of a PWM unit that an overlay may give. -/
def pwmUnitReg (r : Reg) : Bool :=
  match r with
  | .PWM_CTRL | .PWM_PER | .PWM_INIT | .PWM_AON | .PWM_AOFF | .PWM_BON | .PWM_BOFF | .PWM_TAP | .PWM_OVR | .PWM_DT | .PWM_MINP
  | .PWM_BS | .PWM_TRIP => true
  | _ => false

/-- The overlay values that wait for a unit's wrap become its registers (rule R293). -/
def Block.pwmOverlay (s : Block) (h : HalfId) (u : Nat) : Block :=
  ((s.pwm h u).ovl.filter fun x => pwmUnitReg x.1).foldl (fun t x => t.setW h x.1 (wd (mix (t.w h x.1 u).toNat x.1.info.rw x.2.toNat)) u) s

/-- EN written 0: the counter stops, both outputs are LOW, the stages are cleared; a trip latch stays. Overlay values that waited
for a wrap wait no longer. -/
def Block.pwmStop (s : Block) (h : HalfId) (u : Nat) : Block :=
  (((s.pwmOverlay h u).setF h F.PWM_CTRL_EN 0 u).modPwm h u fun x =>
    { Pwm.idle with act := x.act, pend := x.pend, pend2 := x.pend2, clear := x.clear }).pwmShow h u

def execPwmDisable (h : HalfId) (u : Fin 16) (s : State) : Host.Outcome State Fault Refusal :=
  s.access .PWM_CTRL h { s.blk.pwmStop h u.val with busErr := false }

/-- PWM_GSTART: every named unit that has EN 1 and waits starts. -/
def Block.pwmGstart (s : Block) (h : HalfId) (mask : Nat) : Block :=
  (List.range 16).foldl (fun t u => if bits mask u u == 1 && (t.pwm h u).wait then t.pwmStart h u else t) s

def execPwmGstart (h : HalfId) (mask : BitVec 16) (s : State) : Host.Outcome State Fault Refusal :=
  s.access .PWM_GSTART h { s.blk.pwmGstart h mask.toNat with busErr := false }

/-! ## The update set (rules R283 to R285) -/

/-- PWM_LOAD in shadow mode; a LOAD in a wrap ANGCLK waits for the next wrap. -/
def Block.pwmLoad (s : Block) (h : HalfId) (u : Nat) : Block :=
  if s.on h F.PWM_CTRL_UPD u then s else
  let set := s.pwmRegs h u
  (s.modPwm h u fun x => if x.wrap.isSome then { x with pend2 := some set } else { x with pend := some set }).pwmShow h u

def execPwmLoad (h : HalfId) (u : Fin 16) (s : State) : Host.Outcome State Fault Refusal :=
  s.access .PWM_LOAD h { s.blk.pwmLoad h u.val with busErr := false }

/-- The registers of the update set: 0 PER, 1 to 4 the compares, 5 PWM_TAP, 6 PWM_OVR. -/
def pwmReg : Nat → Reg
  | 0 => .PWM_PER
  | 1 => .PWM_AON
  | 2 => .PWM_AOFF
  | 3 => .PWM_BON
  | 4 => .PWM_BOFF
  | 5 => .PWM_TAP
  | _ => .PWM_OVR

/-- A write of the update set. In immediate mode a running unit takes taps at once, overrides at the next wrap, and a
compare or the period through its 2-clock pipeline. -/
def Block.pwmUpdate (s : Block) (h : HalfId) (u i : Nat) (v : Word) : Block :=
  let r := pwmReg i
  let new := wd (v.toNat &&& r.info.rw)
  let s1 := s.setW h r new u
  if !s.on h F.PWM_CTRL_UPD u then s1 else
  s1.modPwm h u fun x =>
    match x.run with
    | none => x
    | some run =>
      if i = 5 then { x with act := { x.act with tap := new.toNat } }
      else if i = 6 then { x with ovr := some new.toNat }
      else if i = 0 then { x with pipe := x.pipe ++ [⟨run + 2, 4, new.toNat, decide (new.toNat < x.count + 3)⟩] }
      else { x with pipe := x.pipe ++ [⟨run + 2, i - 1, new.toNat, new.toNat == (x.count + 1) % x.act.per⟩] }

def execPwmUpdateWrite (h : HalfId) (u : Fin 16) (which : Fin 7) (v : Word) (s : State) :
    Host.Outcome State Fault Refusal :=
  s.access .PWM_PER h { s.blk.pwmUpdate h u.val which.val v with busErr := false }

/-! ## One ANGCLK of a unit (rules R279, R281, R284, R285) -/

/-- A compare value whose pipeline ends in this ANGCLK. -/
def Pwm.pipeEnd (x : Pwm) (run : Nat) (e : PwmPipe) : Pwm :=
  if e.idx = 4 then x
  else
    let act := { x.act with cmp := x.act.cmp.set e.idx e.v }
    if e.late then { x with act := act, hits := x.hits ++ [⟨64 * run, e.idx⟩] } else { x with act := act }

/-- The order in which matches take effect: by time, OFF after ON at equal times (rule R282). -/
def hitOrder (l : List PwmHit) : List PwmHit := sortBy (fun k => 2 * k.t + k.cmp % 2) l

/-- The counter counts or wraps, by the PER whose pipeline ends in this ANGCLK where there is one; a late PER wraps at once (rule
R285). A wrap awaits PWM_WRAP, which gives the matches of count 0. -/
def Pwm.tick (x : Pwm) : Pwm :=
  match x.run with
  | none => x
  | some run =>
    let run := run + 1
    let due := x.pipe.filter fun e => e.due ≤ run
    let pers := due.filter fun e => e.idx == 4
    let per := (pers.getLast?.map PwmPipe.v).getD x.act.per
    let past := decide (per ≤ x.count + 1) || pers.any PwmPipe.late
    let x1 : Pwm := { x with run := some run, act := { x.act with per := per }, count := if past then 0 else x.count + 1,
                             wrap := if past then some run else x.wrap, pipe := x.pipe.filter fun e => run < e.due }
    let x2 : Pwm := due.foldl (fun y e => Pwm.pipeEnd y run e) x1
    if x2.wrap = some run then x2 else { x2 with hits := hitOrder (x2.hits ++ x2.act.hitsAt run x2.count) }

/-- One ANGCLK of a half's PWM units; a frozen half's units stand still (rule R292). -/
def Block.pwmTick (s : Block) (h : HalfId) : Block :=
  if s.pwmFrozen h || !(s.half h).live then s else
  let late (x : Pwm) : Bool := match x.run with
    | none => false
    | some run => x.pipe.any fun e => e.late && e.due ≤ run + 1
  let s1 := (s.half h).pwm.zipIdx.foldl (fun t (x, u) => if late x then t.pwmErr h u 32 else t) s
  s1.modHalf h fun y => { y with pwm := y.pwm.map Pwm.tick }

/-! ## Wrap and matches -/

/-- A register of the update set that an overlay changed enters the set in force (rule R293). -/
def PwmSet.overlay (x : PwmSet) (r : Reg) (v : Word) : PwmSet :=
  match r with
  | .PWM_PER => { x with per := v.toNat }
  | .PWM_AON => { x with cmp := x.cmp.set 0 v.toNat }
  | .PWM_AOFF => { x with cmp := x.cmp.set 1 v.toNat }
  | .PWM_BON => { x with cmp := x.cmp.set 2 v.toNat }
  | .PWM_BOFF => { x with cmp := x.cmp.set 3 v.toNat }
  | .PWM_TAP => { x with tap := v.toNat }
  | .PWM_OVR => { x with ovr := v.toNat }
  | _ => x

/-- At a wrap the pending set, the overrides and a cleared trip take effect, and a compare of 0 matches. -/
def pwmWrap (h : HalfId) (u : Nat) (s : Block) : Block :=
  let p := s.pwm h u
  match p.wrap with
  | none => s
  | some run =>
    let now := { p.act with ovr := p.ovr.getD p.act.ovr }
    let set := p.ovl.foldl (fun x o => x.overlay o.1 o.2) (p.pend.getD now)
    let s0 := s.pwmOverlay h u
    let hits := hitOrder (p.hits ++ set.hitsAt run 0)
    let s1 := s0.modPwm h u fun x =>
      { x with act := set, pend := x.pend2, pend2 := none, ovr := none, wrap := none, ovl := [], hits := hits }
    let s2 := if p.clear && !s.on h F.PWM_TRIP_LATCH u then s1.pwmStages h u (64 * run)
      else if s1.on h F.PWM_CTRL_CMPL u != s.on h F.PWM_CTRL_CMPL u then (s1.pwmRemode h u (64 * run)).pwmRequest h u (64 * run)
      else s1.pwmRequest h u (64 * run)
    if s2.on h F.PWM_CTRL_EN u then s2.pwmShow h u else s2.pwmStop h u

def execPwmWrap (h : HalfId) (u : Fin 16) (s : State) : Host.Outcome State Fault Refusal :=
  .next { s with blk := pwmWrap h u.val s.blk }

/-- The oldest match sets its request, which reaches the filter through the overrides. -/
def pwmMatch (h : HalfId) (u : Nat) (s : Block) : Block :=
  match (s.pwm h u).hits with
  | [] => s
  | k :: rest =>
    let s1 := s.modPwm h u fun x =>
      { x with hits := rest, reqA := if k.cmp = 0 then true else if k.cmp = 1 then false else x.reqA,
               reqB := if k.cmp = 2 then true else if k.cmp = 3 then false else x.reqB }
    (s1.pwmRequest h u k.t).pwmShow h u

def execPwmCompareMatch (h : HalfId) (u : Fin 16) (s : State) : Host.Outcome State Fault Refusal :=
  .next { s with blk := pwmMatch h u.val s.blk }

/-! ## Filter output, dead time, refresh -/

/-- The last delay-line step of the present ANGCLK of a running unit. -/
def Pwm.now (x : Pwm) : Option Nat := x.run.map fun r => 64 * r + 63

/-- The oldest edge of a filter leaves it. S passes the refresh on to dead time: while a refresh forces S LOW a falling
edge ends the refresh and S stays LOW (rule R288). -/
def pwmEdgeOut (h : HalfId) (u : Nat) (b : Bool) (s : Block) : Block :=
  let p := s.pwm h u
  let cmpl := s.on h F.PWM_CTRL_CMPL u
  let c := if b then p.chB else p.chA
  match p.now, leaving c.edges with
  | some now, e :: rest =>
    if now < e.leave || s.pwmFrozen h || (b && cmpl) then s else
    let c1 := { c with edges := rest, out := some e.level }
    let s1 := s.modPwm h u fun x => if b then { x with chB := c1 } else { x with chA := c1 }
    let s2 :=
      if !cmpl then s1.modPwm h u fun x => if b then { x with lvlB := e.level } else { x with lvlA := e.level }
      else if c.out = some e.level then s1
      else if p.refAt.isSome then (if e.level then s1 else s1.modPwm h u fun x => { x with refAt := none, riseAt := none })
      else s1.pwmS h u e.leave e.level
    s2.pwmShow h u
  | _, _ => s

def execPwmFilterEdgeOut (h : HalfId) (u : Fin 16) (b : Bool) (s : State) : Host.Outcome State Fault Refusal :=
  .next { s with blk := pwmEdgeOut h u.val b s.blk }

/-- DT has passed: the delayed rise of output A, or of B, takes effect. -/
def pwmDeadEnd (h : HalfId) (u : Nat) (b : Bool) (s : Block) : Block :=
  let p := s.pwm h u
  match p.now, (if b then p.dtB else p.dtA) with
  | some now, some t =>
    if now < t || s.pwmFrozen h then s else
    (s.modPwm h u fun x => if b then { x with lvlB := true, dtB := none } else { x with lvlA := true, dtA := none }).pwmShow h u
  | _, _ => s

def execPwmDeadTimeEnd (h : HalfId) (u : Fin 16) (b : Bool) (s : State) : Host.Outcome State Fault Refusal :=
  .next { s with blk := pwmDeadEnd h u.val b s.blk }

/-- S has been HIGH for BSMAX µs (200 ANGCLK each) within ±1 %: the refresh forces it LOW, in an ANGCLK, with tap 0. -/
def pwmRefreshStart (h : HalfId) (u : Nat) (s : Block) : Block :=
  let p := s.pwm h u
  match p.run, p.riseAt with
  | some run, some t =>
    if !s.on h F.PWM_BS_EN u || !s.on h F.PWM_CTRL_CMPL u || p.refAt.isSome || s.pwmFrozen h ||
       100 * (64 * run) < 100 * t + 99 * (s.f h F.PWM_BS_BSMAX u * 12800) then s
    else
      let s1 := (s.modPwm h u fun x => { x with refAt := some run }).pwmS h u (64 * run) false
      (s1.pwmErr h u 2).pwmShow h u
  | _, _ => s

def execPwmRefreshStart (h : HalfId) (u : Fin 16) (s : State) : Host.Outcome State Fault Refusal :=
  .next { s with blk := pwmRefreshStart h u.val s.blk }

/-- BSW ticks after its start the refresh releases S. -/
def pwmRefreshEnd (h : HalfId) (u : Nat) (s : Block) : Block :=
  let p := s.pwm h u
  match p.run, p.refAt with
  | some run, some t =>
    if run < t + s.f h F.PWM_BS_BSW u || s.pwmFrozen h then s
    else
      let s1 := s.modPwm h u fun x => { x with refAt := none }
      (s1.pwmS h u (64 * (t + s.f h F.PWM_BS_BSW u)) true).pwmShow h u
  | _, _ => s

def execPwmRefreshEnd (h : HalfId) (u : Fin 16) (s : State) : Host.Outcome State Fault Refusal :=
  .next { s with blk := pwmRefreshEnd h u.val s.blk }

/-! ## Trip (rules R290, R291) -/

/-- The selected trip lines that are asserted. -/
def Block.pwmLines (s : Block) (h : HalfId) (u : Nat) : Nat := s.f h F.PWM_TRIP_TMASK u &&& s.f h F.CMP_TLSTAT_TL

/-- The latch is set; SUP enters the setting in the error log (class 2, rule R428). -/
def Block.pwmTrip (s : Block) (h : HalfId) (u : Nat) (sw : Bool) : Block :=
  let new := !s.on h F.PWM_TRIP_LATCH u
  let s1 := s.setF h F.PWM_TRIP_LATCH 1 u
  let s2 := if new then (s1.setF h F.PWM_TRIP_LINES (s.pwmLines h u) u).setF h F.PWM_TRIP_SW (bitOf sw) u
            else if sw then s1.setF h F.PWM_TRIP_SW 1 u else s1
  let s3 := s2.pwmShow h u
  if new then s3.report h cTRIP 2 8 u (s2.w h .PWM_ERR u).toNat else s3

/-- PWM_TRIP_SET: a selected line asserts. -/
def execPwmTripSet (h : HalfId) (u : Fin 16) (s : State) : Host.Outcome State Fault Refusal :=
  if s.blk.pwmLines h u.val = 0 || s.blk.on h F.PWM_TRIP_LATCH u.val then .next s
  else .next { s with blk := s.blk.pwmTrip h u.val false }

/-- PWM_TRIP_SWSET. -/
def execPwmTripSwset (h : HalfId) (u : Fin 16) (s : State) : Host.Outcome State Fault Refusal :=
  s.access .PWM_TRIP h { s.blk.pwmTrip h u.val true with busErr := false }

/-- A 1 written to LATCH: refused with CLRREF and a class 0 report while a selected line is asserted (rules R291, R428); else the
outputs stay HIGH-Z until the next wrap. -/
def Block.pwmTripClear (s : Block) (h : HalfId) (u : Nat) : Block :=
  if !s.on h F.PWM_TRIP_LATCH u then s
  else if s.pwmLines h u ≠ 0 then (s.setF h F.PWM_TRIP_CLRREF 1 u).report h cOK 0 8 u (s.w h .PWM_ERR u).toNat
  else ((s.setF h F.PWM_TRIP_LATCH 0 u).modPwm h u fun x => { x with clear := true }).pwmShow h u

def execPwmTripClear (h : HalfId) (u : Fin 16) (s : State) : Host.Outcome State Fault Refusal :=
  s.access .PWM_TRIP h { s.blk.pwmTripClear h u.val with busErr := false }

/-! ## Freeze (rule R292) -/

/-- PWM_GFRZ and every unit's FROZEN: while a processor is halted by the debug port, or ANGCLK stands, in the rungs below Rest. -/
def Block.pwmFreeze (s : Block) (h : HalfId) : Block :=
  let v := bitOf ((s.half h).halted || decide (2 ≤ s.rung h))
  (List.range 16).foldl (fun t u => t.setF h F.PWM_STAT_FROZEN v u) (s.setF h F.PWM_GFRZ_FRZ v)

/-- A processor of the half is halted by the debug port, or runs again. -/
def Block.debugHalt (s : Block) (h : HalfId) (v : Bool) : Block := (s.modHalf h fun x => { x with halted := v }).pwmFreeze h

def execPwmFreeze (h : HalfId) (s : State) : Host.Outcome State Fault Refusal := .next { s with blk := s.blk.debugHalt h true }

/-- The halt ends; the units stay frozen where ANGCLK stands. -/
def execPwmUnfreeze (h : HalfId) (s : State) : Host.Outcome State Fault Refusal := .next { s with blk := s.blk.debugHalt h false }

end Sys2Proof.Machine
end

