-- ==== Sys2Proof/Machine/Modes.lean ====
section
/-!
DEFINITION. Mode latch and cycle start: entry to SERVICE, exchanges of sets, mode changes and the recheck of the dynamic
entries (rules R100, R146, R162 to R166, R180, R187 to R189, R411, R412, R422, R488).
-/

namespace Sys2Proof.Machine

/-! ## Mode shadows taking effect (rules R165, R293, R315, R411) -/

/-- The registers an overlay may give a pin engine. -/
def peOwnReg (r : Reg) : Bool :=
  match r with
  | .PE_PROG | .PE_CFG | .PE_PROTO0 | .PE_PROTO1 | .PE_PIN => true
  | _ => false

/-- The indices, below `n`, of the blocks that one of the addresses belongs to, of the registers that `p` names. -/
def ownersIn (n : Nat) (p : Reg → Bool) (l : List Nat) : List Nat :=
  (List.range n).filter fun k => l.any fun a => match findReg a with
    | some (r, _, i, _) => p r && i == k
    | none => false

/-- One shadow becomes the register value; a running PWM unit takes it at its next wrap (rule R293), and ATU_FBc has its effect
from the next record (rule R264). -/
def Block.putShadow (h : HalfId) (m : Nat) (s : Block) (a : Nat) : Block :=
  match findReg a with
  | some (r, _, i, _) =>
    if pwmUnitReg r && (s.pwm h i).run.isSome then
      s.modPwm h i fun x => { x with ovl := x.ovl ++ [(r, wd (s.shadowWord h m a))] }
    else if r = .ATU_FB then s.writeCorr h i (wd (s.shadowWord h m a))
    else s.putAddr a (s.shadowWord h m a)
  | none => s

/-- What follows from a changed PWM_CTRL.EN of a unit that does not run. -/
def Block.pwmShadowed (h : HalfId) (old s : Block) (u : Nat) : Block :=
  if (old.pwm h u).run.isSome then s
  else if s.on h F.PWM_CTRL_EN u then
    if old.on h F.PWM_CTRL_EN u then s else { (s.setF h F.PWM_CTRL_EN 0 u).pwmEnable h u with busErr := s.busErr }
  else (s.modPwm h u fun x => { x with wait := false }).pwmShow h u

/-- What follows from a changed comparator configuration: enabled, disabled, or, for one that stays enabled, its decision by the
new settings, or after new thresholds alone at V's next crossing; where blanking no longer holds the output, that follows; the trip lines
follow the routing (rules R268, R270, R273, R274; log entry 114). -/
def Block.cmpShadowed (h : HalfId) (old s : Block) (k : Nat) : Block :=
  let t := if !s.on h F.CMP_CFG_EN k then s.cmpOff h k
    else if !old.on h F.CMP_CFG_EN k then s.cmpFirst h k
    else if s.w h .CMP_CFG k = old.w h .CMP_CFG k then blankingEnd h k (s.cmpHold h k)
    else blankingEnd h k ((s.modCmp h k fun c => { c with heldAt := none }).cmpFollow h k
      (old.on h F.CMP_STAT_RAW k != old.on h F.CMP_CFG_INV k))
  t.tripLines h

/-- An engine whose program or configuration changed starts again where EN stands at 1 (rule R315). -/
def Block.peShadowed (h : HalfId) (s : Block) (e : Nat) : Block :=
  let s1 := (s.protoTrim h e).peChanged h e
  if s1.on h F.PE_CFG_EN e then (s1.setF h F.PE_CFG_EN 0 e).peStart h e else s1

/-- A running engine stops for the records of an overlay, which alone may change EN (rule R315). -/
def Block.pePause (h : HalfId) (s : Block) (e : Nat) : Block :=
  if s.peRuns h e then (s.peStop h e).setF h F.PE_CFG_EN (s.f h F.PE_CFG_EN e) e else s

/-- The windows open on a converter that a mode change disables run on (rule R412). -/
def Block.convShadowed (h : HalfId) (old s : Block) (k : Nat) : Block :=
  if old.on h F.PCV_CFG_EN k && !s.on h F.PCV_CFG_EN k then
    s.modConv h k fun c => { c with wins := c.wins.map fun w => w.map fun w => { w with held := true } }
  else s

/-- Every shadow of mode `m` becomes the register value in one ANGCLK. -/
def Block.applyShadows (s : Block) (h : HalfId) (m : Nat) : Block :=
  let l := s.shadowAddrs h (s.mode h) m
  let engines := ownersIn 8 peOwnReg l
  let s1 := engines.foldl (Block.pePause h) s
  let s2 := l.foldl (Block.putShadow h m) s1
  let s3 := engines.foldl (Block.peShadowed h) s2
  let s4 := (ownersIn 32 (fun r => r == .CMP_CFG || r == .CMP_TH || r == .CMP_HYS || r == .CMP_BLK) l).foldl (Block.cmpShadowed h s) s3
  let s5 := (ownersIn 16 (fun r => r == .PWM_CTRL) l).foldl (Block.pwmShadowed h s) s4
  ([0, 1].foldl (Block.convShadowed h s) s5).syncEnv h

/-- The staged mode takes effect: entries of reconfigured channels are cancelled (rule R412), the shadows become the
register values, ADM_STAT.MODE changes, and the MODE notice follows. -/
def Block.modeEffect (s : Block) (h : HalfId) (m : Nat) : Block :=
  let old := s.mode h
  let s1 := s.cancelWhere h cMODE_CHANGE fun e => s.reconfigured h old m e.chan
  let s2 := (s1.applyShadows h m).setF h F.ADM_STAT_MODE m
  let s3 := if s2.f h F.ADM_STAT_NEXTMODE = m then s2.setF h F.ADM_STAT_MODEPEND 0 else s2
  (s3.modSched h fun x => { x with staged := none, shadowDone := false, shadowLate := false }).notice h 0xC2 [wd m, wd (s.tsLow h)]

/-! ## CYCLE_START (rules R71, R100, R107, R144, R165, R180, R188, R411, R422) -/

/-- The challenge of rule R422: over a full cycle every heartbeat lay CHALLENGE below the own score. -/
def Block.challenge (s : Block) (h : HalfId) (fullCycle : Bool) : Block :=
  let y := (s.half h).hl
  let s1 := s.modHalf h fun x => { x with hl := { x.hl with peerQOk := true } }
  if fullCycle && s.helm h == 1 && s.f h F.HLM_CFG_CHALLENGE != 0 && y.peerQOk && s.fwRuns h then
    (s1.setF h F.HLM_STAT_CLAIM 1).deriveHelm h 3
  else s1

/-- The phase change that the latch decided. -/
def Block.cyclePhase (s : Block) (h : HalfId) : Block :=
  let p := s.phase h
  let leaving := (s.half h).sched.leaving
  let s1 := s.modSched h fun x => { x with leaving := false }
  if s1.on h F.ADM_STAT_SVCPEND then
    let s2 := s1.setF h F.ADM_STAT_SVCPEND 0
    if p = phCRANK || p = phRECOVERY then s2.setPhase h phSERVICE 2 else s2
  else if leaving && p == phSERVICE then s1.setPhase h phRECOVERY 2
  else s1

/-- The cycle-start indication: the clock passed global angle 0 forward in FULL sync. -/
def cycleStart (h : HalfId) (s : Block) : Block :=
  let c := (s.half h).clk
  let now := (s.half h).tsc
  if !s.fullSync h || !s.passed h 0 false || c.cycAt == some now then s else
  let t := s.src h
  let s1 := if s.drives h t then (s.count h F.WTK_STAT_FULL_CYCLES t).modTrk h t fun y => { y with xMismatch := false } else s
  let s2 := s1.modClk h fun c =>
    { c with cycLen := (match c.cycAt with | some a => ticksTo a now | none => 0), cycAt := some now, cycPrevClean := c.cycClean,
             cycClean := true }
  let s3 := s2.modSched h fun x =>
    { x with prevSrc := x.curSrc, curSrc := x.nextSrc, revRest := false, svcLate := false,
             suspCount := if x.suspended || x.revSusp then capNat 8388607 (x.suspCount + 1) else x.suspCount }
  let s4 := s3.cyclePhase h
  let s5 := match (s4.half h).sched.staged with
    | some m => if (s4.half h).sched.shadowDone then s4.modeEffect h m else s4.modSched h fun x => { x with shadowLate := true }
    | none => s4
  s5.challenge h c.cycAt.isSome

def execCycleStart (h : HalfId) (s : State) : Host.Outcome State Fault Refusal := .next { s with blk := cycleStart h s.blk }

/-- MODE_SHADOW_WRITE_DONE: the transfer engine has written the shadows; where the cycle start has passed they take effect
now, and the log records the delay (rules R411, R428). -/
def modeShadowDone (h : HalfId) (s : Block) : Block :=
  match (s.half h).sched.staged with
  | some m =>
    if (s.half h).sched.shadowLate then (s.modeEffect h m).report h cOK 0 23 127 0
    else s.modSched h fun x => { x with shadowDone := true }
  | none => s

def execModeShadowWriteDone (h : HalfId) (s : State) : Host.Outcome State Fault Refusal :=
  .next { s with blk := modeShadowDone h s.blk }

/-! ## MODE_LATCH (rules R162 to R164, R180, R188) -/

/-- The global angle of the mode latch, L − H. -/
def Block.latchAngle (s : Block) (h : HalfId) : Nat := (s.cycleL h - s.f h F.ADM_MODEH_HORIZON * 64) % s.cycleL h

/-- The target of an entry lies at or after the coming cycle start: ahead of the clock, and not held back after a jump passed it. -/
def Block.newCycle (s : Block) (h : HalfId) (e : Entry) : Bool :=
  let l := s.cycleL h
  e.deferral.isNone && !s.pastTarget h e.g && (s.passed h 0 false || decide (l - s.ang h ≤ fwd l (s.ang h) e.g))

/-- FULL_CYCLES of a half's angle-source tracker, as the half holding the helm knows it: its own count, and the peer's from
the last heartbeat. -/
def Block.fullCycles (s : Block) (holder h : HalfId) : Nat :=
  if h = holder then s.f h F.WTK_STAT_FULL_CYCLES (s.src h)
  else match (s.half holder).hl.lastBeat with
    | some w => bits w.toNat 9 7
    | none => 0

/-- The conditions of rule R163. -/
def Block.decidesService (s : Block) (h : HalfId) : Bool :=
  s.holdsHelm h && (s.phase h == phCRANK || s.phase h == phRECOVERY) && s.mayServe h &&
    [HalfId.a, HalfId.b].all fun k => !s.ownsAny k || decide (4 ≤ s.fullCycles h k)

/-- The schedule that fills the coming cycle: none in CRANK before SERVICE is decided, and none outside the active
phases (rules R154, R164, R187). -/
def Block.coming (s : Block) (h : HalfId) (service : Bool) : Option (Nat × Nat) :=
  let x := (s.half h).sched
  let p := s.phase h
  if x.active ≠ 0 && (p == phRECOVERY || p == phTEST || p == phSERVICE || (p == phCRANK && service)) then
    some (x.active, x.staged.getD (s.mode h))
  else none

/-- Records of the coming cycle whose INSERT lies in the part of the last movement from distance `from'` on, or, with
`from'` none, in the span from the latch angle to A. -/
def Block.latePassed (s : Block) (h : HalfId) (from' : Option Nat) : List ((Nat × Nat) × Nat) :=
  let x := (s.half h).sched
  match x.nextSrc, (s.half h).clk.moved, from' with
  | some id, some mv, some dl =>
    let edge := if mv.start = 0 then mv.modulus else mv.modulus - mv.start
    (sortBy Prod.fst (s.passedRecs h (some id) true fun r d => (r.wrap || decide (edge ≤ d)) && decide (dl ≤ d))).map Prod.snd
  | some id, _, none =>
    let l := s.cycleL h
    let span := fwd l (s.latchAngle h) (s.ang h)
    (sortBy Prod.fst ((x.recs (some id)).zipIdx.filterMap fun q =>
      let d := fwd l (s.latchAngle h) (q.1.insert % l)
      if q.1.wrap && decide (d ≤ span) && s.collects h true q.1 then some (d, id, q.2) else none)).map Prod.snd
  | _, _, _ => []

/-- Where the schedule that fills the coming cycle changes, the records waiting for SCP are those of the coming cycle's schedule as it is
now, from the latch on. -/
def Block.refill (s : Block) (h : HalfId) (old : Option (Nat × Nat)) (from' : Option Nat) : Block :=
  if old == (s.half h).sched.nextSrc then s else
  let gone := (s.modSched h fun x => { x with nextSrc := old }).latePassed h from'
  let now := s.latePassed h from'
  let x := (s.half h).sched
  let due := x.due.filter (fun d => !gone.contains d) ++ now.filter fun d => !x.due.contains d || gone.contains d
  let key (d : (Nat × Nat) × Nat) : Nat := match (x.dueRec d).bind fun r => s.passedAt h r.insert with
    | some a => (a + 1) * 4096 + d.2
    | none => 0
  s.modSched h fun x => { x with due := sortBy key due }

/-- The entries that fail the recheck: those on channels reconfigured by the staged mode, and those that fail checks 7 to
11 one at a time, in sampling order, against the new static bookings, the entries not subject to it, and those kept. `gone`: entries
that another cause took in this very ANGCLK; they book nothing. -/
def Block.recheckFails (s : Block) (h : HalfId) (subject gone rest : List Entry) : List Entry :=
  let out := (subject ++ gone).filter fun e => match (s.half h).sched.staged with
    | some m => s.reconfigured h (s.mode h) m e.chan
    | none => false
  let left := sortBy Entry.order ((subject ++ gone).filter fun e => !out.contains e)
  let r := left.foldl (fun (r : List Entry × List Entry) e =>
    if s.checks7to11 h e (s.books h (rest ++ r.1)) ≠ cOK then (r.1, r.2 ++ [e])
    else if gone.contains e then r else (r.1 ++ [e], r.2)) ([], [])
  out ++ r.2

/-- Step 3 of rule R164, with the static entries that an exchange of sets ends (rule R188). An entry cancelled earlier in this ANGCLK
that fails too reports the cause that comes first (rule R137). -/
def Block.recheckDynamic (s : Block) (h : HalfId) (exchange : Bool) : Block :=
  let dyn := s.dynEntries h
  let mine (e : Entry) : Bool := !e.armed && s.newCycle h e
  let subject := dyn.filter mine
  let gone := s.goneNow h fun e => !e.static && mine e
  let fails := s.recheckFails h subject gone (dyn.filter fun e => !subject.contains e)
  s.cancelWhere h cMODE_CHANGE fun e => fails.contains e || (exchange && e.static && mine e)

/-- A pending exchange of sets is carried out at the latch (rule R188). An image of the new set that was replaced or deleted since the
activation passed its checks is bound as it now stands (DESIGN CHOICE, log entry 124). -/
def Block.exchange (s : Block) (h : HalfId) : Block :=
  match (s.half h).sched.pendSet with
  | some n =>
    if n = 0 then (s.unbindSet h).modSched h fun x => { x with leaving := s.phase h == phSERVICE }
    else s.bindSet h n
  | none => s

/-- Static insertion resumes at a mode latch, with one SCHED_SUSPEND notice (rule R180), once SCP's role is taken up after a failure (rule
R333). -/
def Block.resumeStatic (s : Block) (h : HalfId) : Block :=
  let x := (s.half h).sched
  if (x.suspended || x.revSusp) && nth 0 (s.half h).hip.roles 1 != 2 && !((s.half h).cores.failing.any fun f => f.role == 1) then
    (s.modSched h fun x => { x with suspended := false, revSusp := false, revRest := x.revSusp, suspCount := 0, suspInvalid := false,
                                    curSrc := if x.suspended then none else x.curSrc }).notice h 0xC5
      [wd (bitOf x.suspInvalid * 2 ^ 23 + x.suspCount)]
  else s

/-- The steps of rule R164 for a SERVICE decision that comes to a half: at its latch, or later (rule R488). -/
def Block.latchSteps (s : Block) (h : HalfId) (service exch : Bool) (from' : Option Nat) : Block :=
  let old := (s.half h).sched.nextSrc
  let s1 := if service then s.setF h F.ADM_STAT_SVCPEND 1 else s
  let s2 := (s1.modSched h fun x => { x with nextSrc := s1.coming h service }).refill h old from'
  if service || exch || (s2.half h).sched.staged.isSome then s2.recheckDynamic h exch else s2

/-- The mode latch: the clock passed the global angle L − H forward in FULL sync; none comes in HOLD (rule R489). A pending exchange is
carried out first, and the decision on SERVICE is taken on what it leaves. -/
def modeLatch (h : HalfId) (s : Block) : Block :=
  if s.cannotLatch h then s else
  match s.passedAt h (s.latchAngle h) with
  | none => s
  | some dl =>
    let exch := (s.half h).sched.pendSet.isSome
    let s1 := (s.resumeStatic h).exchange h
    let mine := s1.decidesService h
    let late := (s.half h).sched.svcLate && s1.mayServe h && (s1.phase h == phCRANK || s1.phase h == phRECOVERY)
    let s2 := (if mine && s.bridgeUp h then s1.send h (.service (s.half h.peer).tsc) else s1).modSched h fun x =>
      { x with svcLate := false }
    let s3 := if s.on h F.ADM_STAT_MODEPEND then
        s2.modSched h fun x => { x with staged := some (s.f h F.ADM_STAT_NEXTMODE), shadowDone := false, shadowLate := false }
      else s2
    s3.latchSteps h (mine || late) exch (some dl)

def execModeLatch (h : HalfId) (s : State) : Host.Outcome State Fault Refusal := .next { s with blk := modeLatch h s.blk }

/-! ## The sampling clock of a submission (rules R151, R166, R486) -/

/-- The state that a submission sampled now is checked against: with a target in the new cycle, in the ANGCLK of the mode latch, the
one that the latch leaves, whichever of the two commands comes first (rule R166). -/
def Block.atLatch (s : Block) (h : HalfId) (e : Entry) : Block :=
  if s.newCycle h e && (s.passedAt h (s.latchAngle h)).isSome then modeLatch h s else s

/-- The sampling clock of a submission: refused, or its slot, notice record and tag are reserved (rules R151, R486). -/
def Block.sample (s : Block) (h : HalfId) (i : Insertion) : Nat × Block :=
  let e := s.mkEntry h i
  let code := (s.atLatch h e).admission h e
  if code = cOK then
    let s1 := s.modHalf h fun x =>
      { x with cask := x.cask ++ [{ e with written := false, fwdArm := s.withinLead h e }], nextOrd := x.nextOrd + 1 }
    (code, s1.setW h .ADM_RES (wd (2 ^ 23 + s1.slotOf h e * 256)))
  else (code, s.refuse h code i.chan i.tag)

/-- ADMISSION_SAMPLE: the submission leaves its queue. -/
def admissionSample (h : HalfId) (s : Block) : Block :=
  match (s.half h).sub with
  | some i => ((s.modHalf h fun x => { x with sub := none }).sample h i).2
  | none => s

def execAdmissionSample (h : HalfId) (s : State) : Host.Outcome State Fault Refusal :=
  .next { s with blk := admissionSample h s.blk }

/-! ## SERVICE_DECISION_RECEIVE (rules R146, R488) -/

/-- The first SERVICE decision a half has received, taken out, with the half's count when it was sent. -/
def takeService : List BMsg → Option (Nat × List BMsg)
  | [] => none
  | .service sent :: rest => some (sent, rest)
  | m :: rest => (takeService rest).map fun p => (p.1, m :: p.2)

/-- A decision that comes at or after the cycle-start indication to which it applies, the first since it was sent, is discarded.
Between its latch and that cycle start the half carries it out; before its latch it keeps it for that latch. -/
def serviceDecisionReceive (h : HalfId) (s : Block) : Block :=
  let lane := s.lane h.peer
  match takeService lane.rx with
  | none => s
  | some (sent, rest) =>
    let s1 := s.setLane h.peer { lane with rx := rest }
    let past := match (s.half h).clk.cycAt with
      | some t => reached sent t
      | none => false
    let a := s1.ang h
    if past || !s1.fullSync h then s1
    else if s1.latchAngle h ≤ a && a < s1.cycleL h then
      if s1.mayServe h && (s1.phase h == phCRANK || s1.phase h == phRECOVERY) then s1.latchSteps h true false none else s1
    else s1.modSched h fun x => { x with svcLate := true }

def execServiceDecisionReceive (h : HalfId) (s : State) : Host.Outcome State Fault Refusal :=
  .next { s with blk := serviceDecisionReceive h s.blk }

end Sys2Proof.Machine
end

