-- ==== Sys2Proof/Machine/Processors.lean ====
section
/-!
DEFINITION. Processor watchdog and role takeover, SUP lockstep, SRAM errors, and the CAN FD controllers (chapter 14).
-/

namespace Sys2Proof.Machine

def Block.modHip (s : Block) (h : HalfId) (f : Hip → Hip) : Block := s.modHalf h fun x => { x with hip := f x.hip }
def Block.modCores (s : Block) (h : HalfId) (f : Cores → Cores) : Block := s.modHalf h fun x => { x with cores := f x.cores }

/-! ## Failures and takeover (rules R332, R333) -/

/-- SUP judges the core of a role failed: reason 0 watchdog, 1 self-test, 2 double-bit error. Of failures of one instant the
lower-numbered comes first (rule R458). Static insertion stops at a failure of SCP: the records that wait for it are not inserted (rule
R333). -/
def Block.coreFails (s : Block) (h : HalfId) (r reason : Nat) : Block :=
  let now := (s.half h).tsc
  if (s.half h).cores.failing.any fun x => x.role == r then s else
  let l := (s.half h).cores.failing
  let same := insertBy CoreFail.role ⟨r, reason, now⟩ (l.filter fun x => x.stamp == now)
  let s1 := s.modCores h fun c => { c with failing := l.filter (fun x => x.stamp != now) ++ same }
  if r = 1 then s1.modHalf h fun x => { x with sched := { x.sched with suspended := true, due := [] } } else s1

/-- CORE_WATCHDOG_TIMEOUT: HIP, SCP or ANP, unless the role is vacant. -/
def execCoreWatchdogTimeout (h : HalfId) (r : Fin 3) (s : State) : Host.Outcome State Fault Refusal :=
  if nth 2 (s.blk.half h).hip.roles r.val = 2 then .next s else .next { s with blk := s.blk.coreFails h r.val 0 }

/-- A core that takes or restarts a role takes up its work (rule R333): HIP answers no command whose reply it had not
posted and numbers its notices afresh, ANP's unread records are lost. -/
def Block.takeUp (s : Block) (h : HalfId) (r : Nat) : Block :=
  if r = 0 then s.modHip h fun p =>
    { p with seq := 0, six := [], sec := { p.sec with out := [], part := [] }, nonsec := { p.nonsec with out := [], part := [] } }
  else if r = 2 then s.modHalf h fun x => { x with atu := { x.atu with fbDue := [] } }
  else s

/-- SPC is unused and good. -/
def Block.spcFree (s : Block) (h : HalfId) : Bool :=
  !(s.half h).cores.spcBad && !(s.half h).hip.roles.contains 1

/-- The ROLE notice: 0 taken by SPC, 1 restarted, 2 vacant. The peer reports the vacancy of a HIP role. -/
def roleWord (r how peer : Nat) : Word := wd (r * 2 ^ 21 + how * 2 ^ 19 + peer * 2 ^ 18)

/-- A failed core is dealt with: SPC takes its role, or it restarts, or, after a second failure within 10 s of a restart, the role is
vacant; the core, SPC where it had the role, is then held in reset. -/
def Block.dealCore (h : HalfId) (s : Block) (f : CoreFail) : Block :=
  let now := (s.half h).tsc
  let r := f.role
  let recent := match nth none (s.half h).cores.failedAt r with
    | some t => decide (fwd (2 ^ 48) t now ≤ 2000000000)
    | none => false
  let s1 := s.modCores h fun c => { c with failing := c.failing.filter fun x => x.role != r }
  if s.spcFree h then
    let s2 := (s1.modHip h fun p => { p with roles := p.roles.set r 1 }).takeUp h r
    (s2.spareEvent h 5 true r 0 0 15 r f.reason).notice h 0xCD [roleWord r 0 0]
  else
    let s2 := ((s1.modCores h fun c => { c with failedAt := c.failedAt.set r (some now) }).coreReset h r).spareEvent h 5 false r 0 0 15 r
      f.reason
    if recent then
      let s3 := (s2.modHip h fun p => { p with roles := p.roles.set r 2, running := p.running && r != 0 }).notice h 0xCD
        [roleWord r 2 0]
      let s4 := s3.modCores h fun c => { c with spcBad := c.spcBad || nth 0 (s.half h).hip.roles r == 1 }
      if r = 0 && s.bridgeUp h then s4.send h (.role (roleWord r 2 1)) else s4
    else (s2.takeUp h r).notice h 0xCD [roleWord r 1 0]

/-- ROLE_TAKEOVER: the failure of a role is dealt with, and before it those that came earlier, or in the same instant with a lower number
(rule R458). -/
def roleTakeover (h : HalfId) (r : Nat) (s : Block) : Block :=
  let l := (s.half h).cores.failing
  match l.find? fun x => x.role == r with
  | none => s
  | some f => (l.takeWhile (fun x => x.role != r) ++ [f]).foldl (Block.dealCore h) s

def execRoleTakeover (h : HalfId) (r : Fin 3) (s : State) : Host.Outcome State Fault Refusal :=
  .next { s with blk := roleTakeover h r.val s.blk }

/-- SUP_LOCKSTEP_FAULT: SUP restarts; the first is a class 1 fault, a second within 10 s a class 3 one (R330, R428). -/
def lockstep (h : HalfId) (s : Block) : Block :=
  let now := (s.half h).tsc
  let again := match (s.half h).hl.lastSup with
    | some t => decide (fwd (2 ^ 48) t now ≤ 2000000000)
    | none => false
  let s1 := (s.setF h F.HLM_ERR_LOCKSTEP 1).endReset h 3
  if again then s1.fatal h 3 cOK 15 3 3 false
  else (s1.modHalf h fun x => { x with hl := { x.hl with lastSup := some now } }).report h cOK 1 15 3 3

def execSupLockstepFault (h : HalfId) (s : State) : Host.Outcome State Fault Refusal :=
  .next { s with blk := lockstep h s.blk }

/-! ## SRAM (rules R334, R456) -/

/-- A corrected error counts against its row; at SRAMTH the row is replaced by a spare row of its bank, or meets an empty pool, once. A
row that was replaced is not replaced again (rule R463, log entry 134). -/
def sramSingle (h : HalfId) (b row : Nat) (s : Block) : Block :=
  let m := (s.half h).sram
  let n := ((m.corr.find? fun x => x.1 == (b, row)).map Prod.snd).getD 0 + 1
  let others := m.corr.filter fun x => x.1 != (b, row)
  if s.f h F.TAL_POL_SRAMTH ≤ n && s.f h F.TAL_POL_SRAMTH != 0 && !(s.half h).tal.replaced.contains (3, b * 65536 + row) then
    let used := nth 0 m.spare b
    if used < 8 then
      (s.modHalf h fun x => { x with sram := { x.sram with corr := others, spare := x.sram.spare.set b (used + 1) } }).spareEvent
        h 3 true b (7 - used) row 14 b row
    else
      let s1 := s.modHalf h fun x => { x with sram := { x.sram with corr := others ++ [((b, row), n)] } }
      if m.met.contains (b, row) then s1
      else (s1.modHalf h fun x => { x with sram := { x.sram with met := x.sram.met ++ [(b, row)] } }).spareEvent h 3 false b 0 row 14 b row
  else s.modHalf h fun x => { x with sram := { x.sram with corr := others ++ [((b, row), n)] } }

def execSramSingleBitError (h : HalfId) (b : Fin 8) (row : BitVec 16) (s : State) : Host.Outcome State Fault Refusal :=
  .next { s with blk := sramSingle h b.val row.toNat s.blk }

/-- The read completes with a bus error and the event is logged. In a core's own code it fails the core; in SUP's it is a
class 3 fault (rules R332, R334, R428). -/
def sramDouble (h : HalfId) (b row : Nat) (who : Master) (code : Bool) (s : Block) : Block :=
  let s1 := { s with busErr := true }
  match s.roleOf h who with
  | some 3 => if code then s1.fatal h 3 cOK 14 b row false else s1.report h cOK 0 14 b row
  | some r => if code && decide (r < 3) then (s1.report h cOK 0 14 b row).coreFails h r 2 else s1.report h cOK 0 14 b row
  | none => s1.report h cOK 0 14 b row

def execSramDoubleBitError (h : HalfId) (b : Fin 8) (row : BitVec 16) (who : Master) (code : Bool) (s : State) :
    Host.Outcome State Fault Refusal :=
  .next { s with blk := sramDouble h b.val row.toNat who code s.blk }

/-! ## CAN FD (rule R341): error counting and states as in ISO 11898-1 -/

/-- The CAN controllers of a half run: LNK and CORE are on, with their PLLs (rules R437, R439). -/
def Block.canRuns (s : Block) (h : HalfId) : Bool := s.angRuns h

/-- CAN_STAT.STATE: 0 error active, 1 error passive, 2 bus-off, 3 not joined. -/
def Block.canState (s : Block) (h : HalfId) (n : Nat) : Nat := s.f h F.CAN_STAT_STATE n

/-- Error passive above 127 in either count. -/
def Block.canJudge (s : Block) (h : HalfId) (n : Nat) : Block :=
  if s.canState h n ≤ 1 then
    s.setF h F.CAN_STAT_STATE (bitOf (decide (127 < s.f h F.CAN_STAT_TEC n) || decide (127 < s.f h F.CAN_STAT_REC n))) n
  else s

/-- A frame passes a filter of its controller: identifier kind, and identifier under the mask. -/
def canPasses (filters : List (Nat × List Word)) (n : Nat) (w1 w2 : Word) : Bool :=
  let id := bits w1.toNat 4 0 * 2 ^ 24 + w2.toNat
  filters.any fun (k, f) =>
    let f1 := (nth 0 f 0).toNat
    let m := bits (nth 0 f 2).toNat 4 0 * 2 ^ 24 + (nth 0 f 3).toNat
    k / 16 == n && bits f1 15 15 == 1 && bits f1 14 14 == bits w1.toNat 22 22 &&
      (id &&& m) == ((bits f1 4 0 * 2 ^ 24 + (nth 0 f 1).toNat) &&& m)

/-- A frame received without error: the receive count falls, and HIP forwards a frame that passes a filter. A frame of the
FD format is not received with FDEN 0. The fall from above 127 goes to an open value from 119 to 127. -/
def canReceive (h : HalfId) (n : Nat) (w1 w2 : Word) (data : List Word) (s : Block) : Block :=
  if !s.canRuns h || 2 ≤ s.canState h n || (bits w1.toNat 21 21 == 1 && !s.on h F.CAN_CTRL_FDEN n) then s else
  let rec0 := s.f h F.CAN_STAT_REC n
  let s1 := if 127 < rec0 then let (v, t) := s.draw; t.setF h F.CAN_STAT_REC (119 + v % 9) n else s.setF h F.CAN_STAT_REC (rec0 - 1) n
  let s2 := s1.canJudge h n
  let w1' := wd (putBits w1.toNat 23 23 n)
  if canPasses (s.half h).hip.filters n w1 w2 then
    s2.softNotice h 0xD1 ([w1', w2, wd (s.tsLow h)] ++ data.take 22) 0
  else s2

def execCanFrameReceive (h : HalfId) (n : Fin 2) (w1 w2 : Word) (data : List Word) (s : State) :
    Host.Outcome State Fault Refusal :=
  .next { s with blk := canReceive h n.val w1 w2 data s.blk }

def Block.modCan (s : Block) (h : HalfId) (n : Nat) (f : Can → Can) : Block :=
  s.modHalf h fun x => { x with can := x.can.set n (f (nth ⟨[]⟩ x.can n)) }

/-- A frame of the FD format waits at the front while FDEN is 0: it is not sent (rule R342, log entry 133). -/
def Block.fdWaits (s : Block) (h : HalfId) (n : Nat) : Bool :=
  !s.on h F.CAN_CTRL_FDEN n && match (nth ⟨[]⟩ (s.half h).can n).tx with
    | (w1 :: _) :: _ => bits w1.toNat 21 21 == 1
    | _ => false

/-- The oldest queued frame was sent: its place is free and the transmit count falls. -/
def canSent (h : HalfId) (n : Nat) (s : Block) : Block :=
  if !s.canRuns h || s.fdWaits h n || 2 ≤ s.canState h n || (nth ⟨[]⟩ (s.half h).can n).tx.isEmpty || s.on h F.CAN_CTRL_LISTEN n then s else
  ((s.modCan h n fun c => ⟨c.tx.drop 1⟩).setF h F.CAN_STAT_TEC (s.f h F.CAN_STAT_TEC n - 1) n).canJudge h n

def execCanTransmitComplete (h : HalfId) (n : Fin 2) (s : State) : Host.Outcome State Fault Refusal :=
  .next { s with blk := canSent h n.val s.blk }

/-- A bus error: a transmitter counts 8; a receiver 1, or 8 where the standard says so (`heavy`). Bus-off when the
transmit count passes 255. -/
def canError (h : HalfId) (n : Nat) (tx heavy : Bool) (s : Block) : Block :=
  if !s.canRuns h || 2 ≤ s.canState h n then s
  else if tx then
    let t := s.f h F.CAN_STAT_TEC n + 8
    let s1 := s.setF h F.CAN_STAT_TEC (capNat 255 t) n
    if 255 < t then s1.setF h F.CAN_STAT_STATE 2 n else s1.canJudge h n
  else (s.setF h F.CAN_STAT_REC (capNat 255 (s.f h F.CAN_STAT_REC n + (if heavy then 8 else 1))) n).canJudge h n

def execCanBusError (h : HalfId) (n : Fin 2) (tx heavy : Bool) (s : State) : Host.Outcome State Fault Refusal :=
  .next { s with blk := canError h n.val tx heavy s.blk }

/-- The recovery sequence of a bus-off controller is complete. -/
def canRecover (h : HalfId) (n : Nat) (s : Block) : Block :=
  if !s.canRuns h || s.canState h n ≠ 2 then s else
  ((s.setF h F.CAN_STAT_STATE 0 n).setF h F.CAN_STAT_TEC 0 n).setF h F.CAN_STAT_REC 0 n

def execCanBusOffRecovery (h : HalfId) (n : Fin 2) (s : State) : Host.Outcome State Fault Refusal :=
  .next { s with blk := canRecover h n.val s.blk }

/-- EN of a controller: 1 joins the bus with both counts 0, 0 leaves it. -/
def Block.canJoin (s : Block) (h : HalfId) (n : Nat) (en : Bool) : Block :=
  ((s.setF h F.CAN_STAT_STATE (if en then 0 else 3) n).setF h F.CAN_STAT_TEC 0 n).setF h F.CAN_STAT_REC 0 n

end Sys2Proof.Machine
end

