-- ==== Sys2Proof/Machine/Tally.lean ====
section
/-!
DEFINITION. Wear counters and the tally (chapter 21, rules R459 to R465). TAL_* registers hold the values last committed;
`Half.tal` holds the increments since.
-/

namespace Sys2Proof.Machine

/-! ## Live values (rules R461, R462) -/

def Block.wear (s : Block) (h : HalfId) (r : Nat) : Wear := nth ⟨0, 0, 0, 255, 0, false, 0, 0⟩ (s.half h).tal.wear r

/-- The kind of a wear record: 0 INJ, 1 BHS, 2 HB. -/
def wearKind (r : Nat) : Nat := if r < 12 then 0 else if r < 18 then 1 else 2

def Block.swCount (s : Block) (h : HalfId) (r : Nat) : Nat :=
  ((s.w h .TAL_W1 r).toNat + (s.w h .TAL_W2 r).toNat * 2 ^ 24 + (s.wear h r).sw) % 2 ^ 48

def Block.tcCount (s : Block) (h : HalfId) (r : Nat) : Nat := capNat 0xFFFFFF ((s.w h .TAL_W3 r).toNat + (s.wear h r).tc)

/-- Delivered energy in joules; the increments are kept in µJ. -/
def Block.joules (s : Block) (h : HalfId) (r : Nat) : Nat :=
  ((s.w h .TAL_W4 r).toNat + (s.w h .TAL_W5 r).toNat * 2 ^ 24 + (s.wear h r).en / 1000000) % 2 ^ 48

/-- Segments in service as INJ_SEG or BHS_SEG shows them; until they are restored after DRV power-up, as the store has them. -/
def Block.insvc (s : Block) (h : HalfId) (r : Nat) : Nat :=
  if nth false s.segDue h.num then s.f h F.TAL_W0_INSVC r
  else if r < 12 then s.f .a F.INJ_SEG_INSVC (injBase h + r)
  else if r < 18 then s.f .a F.BHS_SEG_INSVC (bhsBase h + (r - 12))
  else 0

/-- WEARPCT (rule R461): ratings of switch cycles in 2^16, of thermal cycles, of energy in kJ. -/
def Block.wearPct (s : Block) (h : HalfId) (r : Nat) : Nat :=
  let k := wearKind r
  let part (count rated : Nat) : Nat := if rated = 0 then 0 else count * 100 / rated
  let a := part (s.swCount h r) (s.f h F.TAL_RSW_RATED k * 65536)
  let b := part (s.tcCount h r) (s.f h F.TAL_RTC_RATED k)
  let c := part (s.joules h r) (s.f h F.TAL_REN_RATED k * 1000)
  capNat 127 (if a < b then (if b < c then c else b) else if a < c then c else a)

def Block.poolUsed (s : Block) (h : HalfId) (k : Nat) : Nat :=
  capNat 255 (s.f h F.TAL_POOL_USED k + nth 0 (s.half h).tal.used k)

def Block.poolFailed (s : Block) (h : HalfId) (k : Nat) : Nat :=
  capNat 255 (s.f h F.TAL_POOL_FAILED k + nth 0 (s.half h).tal.failed k)

def Block.tjPeak (s : Block) (h : HalfId) (r : Nat) : Nat :=
  let p := (s.wear h r).peak
  if s.f h F.TAL_W6_TJPEAK r < p then p else s.f h F.TAL_W6_TJPEAK r

/-- A word of wear record `r` as a read returns it; words 2 and 5 are those that the last read of word 1 and of word 4 of the record
latched (rule R465), and before any such read as they are. -/
def Block.wearWord (s : Block) (h : HalfId) (r i : Nat) : Word :=
  let l := nth (none, none) (s.half h).tal.latch r
  match i with
  | 0 => wd (wearId h r * 2 ^ 16 + s.insvc h r * 2 ^ 7 + s.wearPct h r)
  | 1 => wd (s.swCount h r)
  | 2 => l.1.getD (wd (s.swCount h r / 2 ^ 24))
  | 3 => wd (s.tcCount h r)
  | 4 => wd (s.joules h r)
  | 5 => l.2.getD (wd (s.joules h r / 2 ^ 24))
  | 6 => wd (s.tjPeak h r * 2 ^ 16)
  | _ => 0

/-! ## TALLY_WORD_READ -/

/-- A read of word 1 latches word 2, and a read of word 4 latches word 5. -/
def Block.tallyWordRead (s : Block) (h : HalfId) (r : Nat) (energy : Bool) : Block :=
  let l := nth (none, none) (s.half h).tal.latch r
  let new := if energy then (l.1, some (wd (s.joules h r / 2 ^ 24))) else (some (wd (s.swCount h r / 2 ^ 24)), l.2)
  { s.modTal h (fun x => { x with latch := x.latch.set r new }) with busErr := false, busData := s.wearWord h r (if energy then 4 else 1) }

def execTallyWordRead (h : HalfId) (r : Fin 22) (energy : Bool) (s : State) : Host.Outcome State Fault Refusal :=
  s.access .TAL_W1 h (s.blk.tallyWordRead h r.val energy)

/-! ## THERMAL_SAMPLE (rules R460, R461, R464) -/

/-- The notices of WEARPCT reaching WARN and 100, with their log entries in the block of the stage. The spare segment of a stage is left
while the eight first are all in service (rule R456). -/
def Block.wearNotices (s : Block) (h : HalfId) (r : Nat) : Block :=
  let pct := s.wearPct h r
  let warn := s.f h F.TAL_POL_WARN
  let k := wearKind r
  let idx := wearId h r % 32
  let left := bitOf (k != 2 && s.insvc h r % 512 == 0xFF)
  let note (s : Block) (event : Nat) : Block :=
    (s.spareNote h k event idx left pct).report h cOK 0 (if k = 2 then 20 else 17 + k) idx
      (bits (s.w .a (if k = 0 then .INJ_TRIP else if k = 1 then .BHS_TRIP else .HB_TRIP) idx).toNat 8 0)
  let was := (s.wear h r).warned
  let s1 := if was % 2 = 0 && warn != 0 && decide (warn ≤ pct) then
      (note s 2).modWear h r fun w => { w with warned := w.warned + 1 } else s
  if was < 2 && decide (100 ≤ pct) then (note s1 3).modWear h r fun w => { w with warned := w.warned + 2 } else s1

/-- A junction reading of a stage shows in DRV_TEMP and decides OTW, with a free bit within 5 °C of 150 °C; where OTW rises the half
that holds the helm logs it (rule R417, log entry 131). -/
def Block.junctionRead (s : Block) (h : HalfId) (r t : Nat) : Block :=
  let l := s.junction.set (22 * h.num + r) t
  let top := l.foldl (fun m x => if m < x then x else m) 0
  let s1 := { s with junction := l }.setF .a F.DRV_TEMP_TJMAX top
  let d := if 209 < top && decide (top ≤ 219) then s1.draw else (bitOf (decide (219 < top)), s1)
  let s2 := d.2.setF .a F.DRV_STAT_OTW d.1
  if s2.on .a F.DRV_STAT_OTW && !s.on .a F.DRV_STAT_OTW then s2.driveReport 0 else s2

/-- The junction of a stage is read, in °C + 64: a swing that completes is a thermal cycle. `uj`: the energy that went
through the stage outside shots since the last sample, in µJ (rule R459). -/
def thermalSample (h : HalfId) (r t uj : Nat) (s : Block) : Block :=
  let dt := s.f h F.TAL_POL_DT
  let s1 := s.modWear h r fun w =>
    let w := { w with en := w.en + uj, peak := if w.peak < t then t else w.peak }
    if w.risen then
      if t + dt ≤ w.high then { w with tc := w.tc + 1, risen := false, low := t, high := t }
      else { w with high := if w.high < t then t else w.high }
    else if t < w.low then { w with low := t, high := t }
    else { w with high := t, risen := decide (w.low + dt ≤ t) }
  (s1.wearNotices h r).junctionRead h r t

def execThermalSample (h : HalfId) (r : Fin 22) (t : BitVec 8) (uj : Word) (s : State) : Host.Outcome State Fault Refusal :=
  .next { s with blk := thermalSample h r.val t.toNat uj.toNat s.blk }

/-! ## TALLY_COMMIT (rule R462) -/

/-- The live values of a wear record become the committed ones. -/
def Block.commitWear (h : HalfId) (s : Block) (r : Nat) : Block :=
  let sw := s.swCount h r
  let en := s.joules h r
  let s1 := (((((s.setW h .TAL_W0 (s.wearWord h r 0) r).setW h .TAL_W1 (wd sw) r).setW h .TAL_W2 (wd (sw / 2 ^ 24)) r).setW h
    .TAL_W3 (wd (s.tcCount h r)) r).setW h .TAL_W4 (wd en) r).setW h .TAL_W5 (wd (en / 2 ^ 24)) r
  (s1.setF h F.TAL_W6_TJPEAK (s.tjPeak h r) r).modWear h r fun w => { w with sw := 0, tc := 0, en := w.en % 1000000 }

/-- SUP commits the live values and clears the increments; `steps` tenths of an hour in Run and Rest have gone by. -/
def Block.tallyCommit (s : Block) (h : HalfId) (steps : Nat) : Block :=
  let s1 := (List.range 22).foldl (Block.commitWear h) s
  let s2 := (List.range 16).foldl (fun t k =>
    (t.setF h F.TAL_POOL_USED (s.poolUsed h k) k).setF h F.TAL_POOL_FAILED (s.poolFailed h k) k) s1
  let s3 := s2.setW h .TAL_AGE (wd (capNat 0xFFFFFF (s.f h F.TAL_AGE_HOURS + steps)))
  (s3.count h F.TAL_COMMITS_COUNT).modTal h fun x =>
    { x with used := List.replicate 16 0, failed := List.replicate 16 0
             store := ⟨x.replaced, (s.half h).lost, (s.half h).slotDue, (s.half h).sram.spare, x.wear.map Wear.warned⟩ }

/-- A commit, which SUP's firmware makes: none before it runs. -/
def Block.tallySync (s : Block) (h : HalfId) (steps : Nat) : Block := if s.fwRuns h then s.tallyCommit h steps else s

def execTallyCommit (h : HalfId) (steps : BitVec 8) (s : State) : Host.Outcome State Fault Refusal :=
  s.access .TAL_CMD h { s.blk.tallySync h steps.toNat with busErr := false }

end Sys2Proof.Machine
end

