-- ==== Sys2Proof/Machine/Timers.lean ====
section
/-!
DEFINITION. Always-running timers (chapter 12). The count stands in TMR_CNT, RUN, DONE and OUT in TMR_STAT; an even
timer with LINK set and its odd neighbour are one 48-bit timer that the even one governs (rule R301).
-/

namespace Sys2Proof.Machine

def Block.tmr1 (s : Block) (k : Nat) : Tmr := nth Tmr.idle s.tmr k

def Block.modTmr (s : Block) (k : Nat) (f : Tmr → Tmr) : Block := { s with tmr := s.tmr.set k (f (nth Tmr.idle s.tmr k)) }

/-- Timer `k`, or the pair it is of, is running. -/
def Block.tmrRuns (s : Block) (k : Nat) : Bool := s.on .a F.TMR_STAT_RUN (if s.tmrHigh k then k - 1 else k)

/-- The owner: 0 none, 1 half A, 2 half B (rule R296). -/
def Block.tmrOwner (s : Block) (k : Nat) : Nat :=
  if k < 12 then bits (s.w .a .TMR_OWNL).toNat (2 * k + 1) (2 * k) else bits (s.w .a .TMR_OWNH).toNat (2 * (k - 12) + 1) (2 * (k - 12))

def Block.ownsTmr (s : Block) (h : HalfId) (k : Nat) : Bool := s.tmrOwner k == h.num + 1

/-- The count and the modulus of a timer, or of a pair. -/
def Block.tmrCount (s : Block) (k : Nat) : Nat :=
  (s.w .a .TMR_CNT k).toNat + (if s.tmrPair k then (s.w .a .TMR_CNT (k + 1)).toNat * 2 ^ 24 else 0)

def Block.tmrMod (s : Block) (k : Nat) : Nat := if s.tmrPair k then 2 ^ 48 else 2 ^ 24

def Block.setTmrCount (s : Block) (k n : Nat) : Block :=
  let s1 := s.setW .a .TMR_CNT (wd n) k
  if s.tmrPair k then s1.setW .a .TMR_CNT (wd (n / 2 ^ 24)) (k + 1) else s1

/-- The compare value in force of a timer, or of a pair. -/
def Block.tmrCmp (s : Block) (k : Nat) : Nat :=
  (s.tmr1 k).cmp + (if s.tmrPair k then (s.tmr1 (k + 1)).cmp * 2 ^ 24 else 0)

def Block.setTmrCmp (s : Block) (k v : Nat) : Block :=
  let s1 := s.modTmr k fun x => { x with cmp := v % 2 ^ 24 }
  if s.tmrPair k then s1.modTmr (k + 1) fun x => { x with cmp := v / 2 ^ 24 % 2 ^ 24 } else s1

/-- The output level that OUTM gives where it does not toggle (rule R303). -/
def Block.tmrOut (s : Block) (k : Nat) : Block :=
  match s.f .a F.TMR_CFG_OUTM k with
  | 0 => s.setF .a F.TMR_STAT_OUT 0 k
  | 1 => s.setF .a F.TMR_STAT_OUT (s.f .a F.TMR_STAT_RUN k) k
  | _ => s

/-! ## One AONCLK (rules R294, R297, R299, R300) -/

/-- One AONCLK of the write pipeline of a timer whose count becomes `n` where it runs (rules R126, R300). The value whose last clock
this is comes into force; answers whether it matches now with the LATE indication: the count arrived at it in an earlier clock. A
value written to a stopped timer matches when the count arrives at it, in the pipeline too: the second answer. -/
def tmrPipe (n : Option Nat) : List TmrWrite → List TmrWrite × Option Nat × Bool × Bool
  | [] => ([], none, false, false)
  | x :: rest =>
    let r := tmrPipe n rest
    let here := n == some x.v
    let rest' := if x.left ≤ 1 then r.1 else { x with left := x.left - 1, seen := x.seen || (here && !x.held) } :: r.1
    let done := decide (x.left ≤ 1)
    (rest', if done then r.2.1.or (some x.v) else r.2.1, (done && x.seen) || r.2.2.1, (here && x.held) || r.2.2.2)

/-- A running timer counts: arrival and overflow await TIMER_MATCH and TIMER_OVERFLOW. A one-shot timer whose match
awaits its command does not count on. The reset that follows a match comes whether the timer still runs or not. -/
def Block.tmrStep (s : Block) (k : Nat) : Block :=
  let x := s.tmr1 k
  let s0 := s.modTmr k fun y => { y with acts := (y.acts.1 ||| y.acts.2, 0), stopped := false }
  let run := s.on .a F.TMR_STAT_RUN k && !(x.hit && s.on .a F.TMR_CFG_ONESHOT k) && !s.tmrHigh k
  let old := s.tmrCount k
  let n := if x.mrst then 0 else (old + 1) % s.tmrMod k
  let p := tmrPipe (if run then some n else none) x.pipe
  let s1 := (match p.2.1 with | some v => s0.setTmrCmp k v | none => s0).modTmr k fun y => { y with pipe := p.1 }
  if s.tmrHigh k then s1 else
  let s2 := if p.2.2.1 then (s1.setF .a F.TMR_EVT_LATE 1 k).modTmr k fun y => { y with hit := true } else s1
  if !run then
    (if x.mrst then s2.setTmrCount k 0 else s2).modTmr k fun y =>
      { y with mrst := p.2.2.1 && s.on .a F.TMR_CFG_MRST k && !s.on .a F.TMR_CFG_ONESHOT k }
  else
    let hit := n == s1.tmrCmp k || p.2.2.1 || p.2.2.2
    (s2.setTmrCount k n).modTmr k fun y =>
      { y with hit := y.hit || hit, ovf := y.ovf || (n == 0 && old + 1 == s.tmrMod k),
               mrst := hit && s.on .a F.TMR_CFG_MRST k && !s.on .a F.TMR_CFG_ONESHOT k }

/-- One AONCLK of all timers. -/
def Block.tmrTick (s : Block) : Block := (List.range 16).foldl Block.tmrStep s

/-! ## Match, overflow and link actions (rules R297 to R299, R305) -/

/-- An action of `k` goes to its target in the next AONCLK: bit 0 start, bit 1 reset. -/
def Block.tmrLink (s : Block) (k act : Nat) : Block :=
  s.modTmr (s.f .a F.TMR_CFG_LTGT k) fun y => { y with acts := (y.acts.1, y.acts.2 ||| act) }

/-- The half that owns a timer is woken by it, from any rung (rule R443). -/
def Block.tmrWake (s : Block) (k : Nat) : Block :=
  match s.tmrOwner k with
  | 1 => s.wakeHalf .a 9 5
  | 2 => s.wakeHalf .b 9 5
  | _ => s

def timerMatch (k : Nat) (s : Block) : Block :=
  if !(s.tmr1 k).hit || s.tmrHigh k then s else
  let s1 := (s.modTmr k fun y => { y with hit := false }).setF .a F.TMR_EVT_MATCH 1 k
  let s2 := if s.on .a F.TMR_CFG_ONESHOT k then
      ((s1.setF .a F.TMR_STAT_RUN 0 k).setF .a F.TMR_STAT_DONE 1 k).modTmr k fun y => { y with stopped := true }
    else s1
  let s3 := if s.f .a F.TMR_CFG_OUTM k = 2 then s2.setF .a F.TMR_STAT_OUT (bitOf !(s.on .a F.TMR_STAT_OUT k)) k else s2.tmrOut k
  let s4 := s3.tmrLink k (s.f .a F.TMR_CFG_MLNK k)
  if s.on .a F.TMR_CFG_WAKEEN k then s4.tmrWake k else s4

def execTimerMatch (k : Fin 16) (s : State) : Host.Outcome State Fault Refusal :=
  .next { s with blk := timerMatch k.val s.blk }

def timerOverflow (k : Nat) (s : Block) : Block :=
  if !(s.tmr1 k).ovf || s.tmrHigh k then s else
  ((s.modTmr k fun y => { y with ovf := false }).setF .a F.TMR_EVT_OVF 1 k).tmrLink k (s.f .a F.TMR_CFG_OLNK k)

def execTimerOverflow (k : Fin 16) (s : State) : Host.Outcome State Fault Refusal :=
  .next { s with blk := timerOverflow k.val s.blk }

/-- The one-shot run has ended, or ends in this AONCLK. -/
def Block.tmrEnded (s : Block) (k : Nat) : Bool :=
  s.on .a F.TMR_STAT_DONE k || ((s.tmr1 k).hit && s.on .a F.TMR_CFG_ONESHOT k)

/-- A timer, or either half of the pair it leads, has failed with no spare left: it never runs (rule R306). -/
def Block.tmrFailed (s : Block) (k : Nat) : Bool :=
  s.on .a F.TMR_STAT_FAILED k || (s.tmrPair k && s.on .a F.TMR_STAT_FAILED (k + 1))

/-- A start: ignored with NOSTART after a one-shot end, ignored by a failed timer. -/
def Block.tmrGo (s : Block) (k : Nat) : Block :=
  if s.tmrEnded k then s.setF .a F.TMR_EVT_NOSTART 1 k
  else if s.tmrFailed k || (s.tmr1 k).stopped then s
  else (s.setF .a F.TMR_STAT_RUN 1 k).tmrOut k

/-- The actions that reach a timer in this AONCLK: each applied once, ignored as a whole after a one-shot end. -/
def timerLinkAction (k : Nat) (s : Block) : Block :=
  let act := (s.tmr1 k).acts.1
  if act = 0 then s else
  let s1 := s.modTmr k fun y => { y with acts := (0, y.acts.2) }
  if s.tmrHigh k then s1
  else if s.tmrEnded k then (if act % 2 = 1 then s1.setF .a F.TMR_EVT_NOSTART 1 k else s1)
  else
    let s2 := if 2 ≤ act then s1.setTmrCount k 0 else s1
    if act % 2 = 1 then s2.tmrGo k else s2

def execTimerLinkAction (k : Fin 16) (s : State) : Host.Outcome State Fault Refusal :=
  .next { s with blk := timerLinkAction k.val s.blk }

/-! ## TMR_CTRL (rules R294, R295, R298, R299, R307) -/

/-- A write of TMR_CTRL by the owner; a pair obeys its low timer's. A stop and a start together leave it stopped. The one-shot run
whose count has arrived at VALUE ends before an ARM. -/
def Block.tmrCtrl (s : Block) (h : HalfId) (k : Nat) (start stop reset arm : Bool) : Block :=
  if !s.ownsTmr h k then { s with busErr := true }
  else if s.tmrHigh k then { s with busErr := false }
  else
    let s1 := if arm then
        (if (s.tmr1 k).hit && s.on .a F.TMR_CFG_ONESHOT k then timerMatch k s else s).setF .a F.TMR_STAT_DONE 0 k
      else s
    let s2 := if arm || reset then s1.setTmrCount k 0 else s1
    let s3 := if stop then
        ((s2.setF .a F.TMR_STAT_RUN 0 k).tmrOut k).modTmr k fun y => { y with stopped := true }
      else if start then s2.tmrGo k else s2
    { s3 with busErr := false }

def execTimerStart (h : HalfId) (k : Fin 16) (s : State) : Host.Outcome State Fault Refusal :=
  .next { s with blk := s.blk.tmrCtrl h k.val true false false false }
def execTimerStop (h : HalfId) (k : Fin 16) (s : State) : Host.Outcome State Fault Refusal :=
  .next { s with blk := s.blk.tmrCtrl h k.val false true false false }
def execTimerReset (h : HalfId) (k : Fin 16) (s : State) : Host.Outcome State Fault Refusal :=
  .next { s with blk := s.blk.tmrCtrl h k.val false false true false }
def execTimerArm (h : HalfId) (k : Fin 16) (s : State) : Host.Outcome State Fault Refusal :=
  .next { s with blk := s.blk.tmrCtrl h k.val false false false true }

/-! ## Compare writes, capture, reads, ownership -/

/-- A TMR_CMP write by the owner enters its pipeline; the high value of a pair waits for the next low one. -/
def Block.tmrCompare (s : Block) (h : HalfId) (k : Nat) (v : Word) : Block :=
  if !s.ownsTmr h k then { s with busErr := true } else
  let s1 := s.setW .a .TMR_CMP v k
  if s.tmrHigh k then { s1 with busErr := false } else
  let val := if s.tmrPair k then v.toNat + (s.w .a .TMR_CMP (k + 1)).toNat * 2 ^ 24 else v.toNat
  { s1.modTmr k (fun y => { y with pipe := y.pipe ++ [⟨val, 2, !s.on .a F.TMR_STAT_RUN k, false⟩] }) with busErr := false }

def execTimerCompareWrite (h : HalfId) (k : Fin 16) (v : Word) (s : State) : Host.Outcome State Fault Refusal :=
  .next { s with blk := s.blk.tmrCompare h k.val v }

/-- An offered edge has become usable: the count less 2, or the held count of a stopped timer (rule R304). -/
def timerCapture (k : Nat) (s : Block) : Block :=
  if !(s.tmr1 k).cap || !s.on .a F.TMR_CFG_CAPEN k || s.tmrHigh k then s else
  let n := (s.w .a .TMR_CNT k).toNat
  let s1 := s.setW .a .TMR_CAP (wd (if s.on .a F.TMR_STAT_RUN k then n + 2 ^ 24 - 2 else n)) k
  let s2 := if (s.tmr1 k).unread then s1.setF .a F.TMR_EVT_CAPOVF 1 k else s1
  s2.modTmr k fun y => { y with cap := false, unread := true }

def execTimerCapture (k : Fin 16) (s : State) : Host.Outcome State Fault Refusal :=
  .next { s with blk := timerCapture k.val s.blk }

/-- A read of TMR_CNT; on a pair's low timer it latches the high count into TMR_HOLD (rule R302). -/
def Block.tmrRead (s : Block) (k : Nat) : Block :=
  let s1 := if s.tmrPair k then s.setW .a .TMR_HOLD (s.w .a .TMR_CNT (k + 1)) (k + 1) else s
  { s1 with busErr := false, busData := s.w .a .TMR_CNT k }

def execTmrCntRead (k : Fin 16) (s : State) : Host.Outcome State Fault Refusal :=
  .next { s with blk := s.blk.tmrRead k.val }

/-- A write of TMR_OWNL or TMR_OWNH: the helm half's, and refused where it changes the owner of a running timer. -/
def Block.tmrOwn (s : Block) (h : HalfId) (high : Bool) (v : Word) : Block :=
  let r := if high then Reg.TMR_OWNH else Reg.TMR_OWNL
  let s1 := s.setW .a r (wd (v.toNat &&& r.info.rw))
  if s.holdsHelm h && (List.range 16).all fun k => !s.tmrRuns k || s1.tmrOwner k == s.tmrOwner k
  then { s1 with busErr := false } else { s with busErr := true }

def execTimerOwnershipWrite (h : HalfId) (high : Bool) (v : Word) (s : State) : Host.Outcome State Fault Refusal :=
  .next { s with blk := s.blk.tmrOwn h high v }

end Sys2Proof.Machine
end

