-- ==== Sys2Proof/Machine/Flags.lean ====
section
/-!
DEFINITION. Status words as a bus master reads them: the registers whose value follows from the rest of the state (live
counts, queue heads, latched halves), by the register maps of the chapters. Every other register reads as stored.
-/

namespace Sys2Proof.Machine

/-- A word with one field replaced. -/
def withF (w : Word) (x : Fld) (v : Nat) : Word := wd (putBits w.toNat x.hi x.lo v)

/-- The words of a notice record (rule R139). -/
def NRec.words (r : NRec) : List Word := [wd (r.code * 65536 + r.chan * 1024 + r.tag), r.armErr, wd r.late, wd r.time]

/-- Word 3 of a slot view (rule R142). -/
def Entry.slotWord (e : Entry) : Word :=
  wd (bitOf e.armed * 2 ^ 23 + 2 ^ 22 + (if e.armed then e.tap * 2 ^ 16 else 0) + e.tag)

/-- A word of the slot view: entries in cask order, unused slots 0. -/
def Block.slotView (s : Block) (h : HalfId) (k slot i : Nat) : Word :=
  match (s.chanEntries h k)[slot]? with
  | some e => nth 0 [e.w0, e.w1, e.w2, e.slotWord] i
  | none => 0

/-- EVC_STAT (chapter 4). -/
def Block.evcStat (s : Block) (h : HalfId) (k : Nat) : Word :=
  let es := (s.half h).cask.filter fun e => e.chan == k
  let w1 := withF (s.w h .EVC_STAT k) F.EVC_STAT_PEND es.length
  let w2 := withF w1 F.EVC_STAT_ARMED (es.filter Entry.armed).length
  let w3 := withF w2 F.EVC_STAT_TRIPPED (bitOf (s.chanTripped h k))
  withF w3 F.EVC_STAT_INHIBIT (bitOf (s.injClass h k && s.clockRev h))

/-- The energy booked in the present budget interval, µJ (rule R208). -/
def Block.boostUse (s : Block) (h : HalfId) : Nat :=
  heldIn (s.energyLedger h (s.books h (s.dynEntries h))) (slotNo (s.bintTicks h) (s.half h).tsc 0)

/-- The largest total of the 64 duty windows that touch the present slot of a sequencer, µs (rule R210). -/
def Block.dutyUse (s : Block) (h : HalfId) (k : Nat) : Nat :=
  let j := slotNo 320000 (s.half h).tsc 0
  let held := s.dutyLedger h k (s.books h (s.dynEntries h))
  maxOf ((List.range 64).map fun (i : Nat) => total (fun (n : Nat) => heldIn held (j + i - 63 + n)) (List.range 64)) / 200

/-- SEQ_STAT (chapter 7). -/
def Block.seqStat (s : Block) (h : HalfId) (k : Nat) : Word :=
  let n := injBase h + k
  let w1 := withF (s.w h .SEQ_STAT k) F.SEQ_STAT_RCOUNT (nth [] (s.half h).sq.results k).length
  let w2 := withF w1 F.SEQ_STAT_PAIRED (bitOf (s.paired n))
  withF w2 F.SEQ_STAT_SUBORD (bitOf (s.paired n && k % 2 == 1))

/-- SEQ_CFG: the odd sequencer of a pair shows the even one's SPLIT, and a paralleled pair none (rule R200). -/
def Block.seqCfg (s : Block) (h : HalfId) (k : Nat) : Word :=
  withF (s.w h .SEQ_CFG k) F.SEQ_CFG_SPLIT (if s.paired (injBase h + k) then 0 else s.f h F.SEQ_CFG_SPLIT (k / 2 * 2))

/-- One word of the oldest shot record. -/
def Block.seqRecord (s : Block) (h : HalfId) (k i : Nat) : Word :=
  match nth [] (s.half h).sq.results k with
  | r :: _ => nth 0 [r.w0, r.w1, r.w2, r.w3] i
  | [] => 0

/-- PCV_STAT (chapter 8). -/
def Block.pcvStat (s : Block) (h : HalfId) (k : Nat) : Word :=
  let c := s.conv h k
  let used (l : List Bool) : Nat := total (fun p => if p.1 then 2 ^ p.2 else 0) l.zipIdx
  let busy := if k < 2 then used (c.wins.map Option.isSome) else used (c.shots.map Option.isSome)
  let qs := c.wins.map fun w => match w with | some x => x.queue.length | none => 0
  let w1 := withF (s.w h .PCV_STAT k) F.PCV_STAT_BUSY busy
  withF (withF w1 F.PCV_STAT_QPEND (maxOf qs)) F.PCV_STAT_RCOUNT c.recs.length

/-- ATU_STAT.BUSY: contexts with an open analysed window or a record still to be written. -/
def Block.atuBusy (s : Block) (h : HalfId) : Nat :=
  total (fun c => let w := nth none (s.conv h (c / 4)).wins (c % 4)
    if (match w with | some x => x.atu | none => false) || (s.half h).atu.jobs.any (fun j => j.ctx == c) then 2 ^ c else 0) (List.range 8)

/-- A word of an ATU result record; those of the record whose word 0 was read last come from the latch. -/
def Block.atuWord (s : Block) (h : HalfId) (i : Nat) : Word :=
  let l := (s.half h).atu.latch
  if i / 16 = l.1 && 0 < i % 16 && i % 16 ≤ l.2.length then nth 0 l.2 (i % 16 - 1) else s.w h .ATU_REC i

/-- A word of the log; words 1 to 3 of the entry whose word 0 was read last come from the latch (rule R436). -/
def Block.logView (s : Block) (h : HalfId) (i : Nat) : Word :=
  let l := (s.half h).hl.latchE
  if i / 4 = l.1 && i % 4 != 0 then nth 0 l.2 (i % 4 - 1) else s.w h .LOG_ENT i

/-- QHL_STAT (chapter 15). -/
def Block.qhlStat (s : Block) (l : HalfId) : Word :=
  let w1 := withF (s.w l .QHL_STAT) F.QHL_STAT_SRVA (bitOf (s.servedBy .a == l))
  withF (withF w1 F.QHL_STAT_SRVB (bitOf (s.servedBy .b == l))) F.QHL_STAT_OUTST (s.half l).link.unack.length

/-- HLM_STAT and HLM_DISP (chapter 19). -/
def Block.hlmStat (s : Block) (h : HalfId) : Word :=
  withF (withF (s.w h .HLM_STAT) F.HLM_STAT_HELM (s.helm h)) F.HLM_STAT_OWNQ (s.score h)

def Block.hlmDisp (s : Block) (h : HalfId) : Word :=
  match (s.half h).hl.qmin with
  | some q => withF (s.w h .HLM_DISP) F.HLM_DISP_QMIN q
  | none => s.w h .HLM_DISP

/-- What a read of a register returns, for the half `h` and the indices; the effects a read has stand in Machine/Bus.lean. -/
def Block.viewWord (s : Block) (r : Reg) (h : HalfId) (i j : Nat) : Word :=
  let raw := s.w h r i j
  let c := (s.half h).clk
  match r with
  | .WTK_STAT => withF raw F.WTK_STAT_ANGSRC (bitOf (s.drives h i && s.on h F.WTK_CTRL_EN i))
  | .WTK_XCHK => withF raw F.WTK_XCHK_PEER_QUALITY (s.f h F.HLM_STAT_PEERQ)
  | .ANG_NOW => wd (s.ang h)
  | .ANG_STEPI => wd (fracFloor c.step).toNat
  | .ANG_STEPF => wd (fix16 c.step % 65536)
  | .ANG_HALT => wd (c.halt / 65536)
  | .ANG_PREDT => periodWord (fracFloor c.period).toNat
  | .ANG_STAT => withF raw F.ANG_STAT_ORDER c.order
  | .TSC_LO => wd (s.half h).tsc
  | .TSC_XDIFF => wd (field 48 (s.half h).xdiff)
  | .EVC_CFG => if s.f h F.EVC_CFG_KIND i = 1 then withF raw F.EVC_CFG_INJCLASS 1 else raw
  | .EVC_STAT => s.evcStat h i
  | .EVC_CMDRES => withF raw F.EVC_CMDRES_BUSY (bitOf (s.cmdBusy h i))
  | .EVC_HEADT_LO => wd (s.headTime h i)
  | .EVC_SLOT0 => s.slotView h i j 0
  | .EVC_SLOT1 => s.slotView h i j 1
  | .EVC_SLOT2 => s.slotView h i j 2
  | .EVC_SLOT3 => s.slotView h i j 3
  | .EVN_W => match (s.half h).evn with
    | n :: _ => nth 0 n.words i
    | [] => 0
  | .EVN_STAT => wd (s.half h).evn.length
  | .ADM_ENVN => (s.envelope h).1
  | .ADM_ENVR => (s.envelope h).2
  | .ADM_CRED => withF raw F.ADM_CRED_SLOTS (s.slotCredit h i)
  | .SEQ_STAT => s.seqStat h i
  | .SEQ_CFG => s.seqCfg h i
  | .SEQ_DUSE => wd (s.dutyUse h i)
  | .SEQ_R => s.seqRecord h i j
  | .SEQ_BUSE => wd (s.boostUse h)
  | .PCV_STAT => s.pcvStat h i
  | .PCV_WR => match (s.conv h i).recs with
    | x :: _ => nth 0 x j
    | [] => 0
  | .ATU_STAT => withF raw F.ATU_STAT_BUSY (s.atuBusy h)
  | .ATU_REC => s.atuWord h i
  | .CMP_STAT => withF raw F.CMP_STAT_BLANKED (bitOf (s.blanked h i))
  | .TMR_STAT => withF raw F.TMR_STAT_OUT (bitOf (s.tmrLevel i))
  | .CMP_CAPLO => wd (s.cmp h i).cap
  | .PWM_NOW => wd (s.pwm h i).count
  | .PE_FSTAT => wd ((s.pe h i).rq.length * 16 + (s.pe h i).sq.length)
  | .PE_RQ => nth 0 (s.pe h i).rq 0
  | .PE_TLO => wd (s.pe h i).t
  | .QHL_STAT => s.qhlStat h
  | .EUL_FTLO => nth 0 (fabWords (s.fabTime h (s.stepsAt h 0))) 1
  | .EUL_PHSTAT => withF raw F.EUL_PHSTAT_REFOK (bitOf (s.refOk h))
  | .HLM_STAT => s.hlmStat h
  | .HLM_DISP => s.hlmDisp h
  | .LOG_STAT => withF raw F.LOG_STAT_QFILL (s.half h).hl.queue.length
  | .LOG_ENT => s.logView h i
  | .TAL_POOL => withF (withF raw F.TAL_POOL_USED (s.poolUsed h i)) F.TAL_POOL_FAILED (s.poolFailed h i)
  | .TAL_W0 => s.wearWord h i 0
  | .INJ_CFG => if i % 2 = 1 then withF raw F.INJ_CFG_PAIR 0 else raw
  | .PCV_AINCFG => if i % 2 = 1 then withF raw F.PCV_AINCFG_DIFF 0 else raw
  | .TMR_CFG => if i % 2 = 1 then withF raw F.TMR_CFG_LINK 0 else raw
  | .PWR_STAT => withF raw F.PWR_STAT_KEY (bitOf s.keyActive)
  | .TAL_W1 => s.wearWord h i 1
  | .TAL_W2 => s.wearWord h i 2
  | .TAL_W3 => s.wearWord h i 3
  | .TAL_W4 => s.wearWord h i 4
  | .TAL_W5 => s.wearWord h i 5
  | .TAL_W6 => s.wearWord h i 6
  | .TAL_W7 => s.wearWord h i 7
  | _ => wd (raw.toNat &&& (0xFFFFFF ^^^ r.info.wo))

/-! ## Interrupts (rules R271, R305, R319, R338, R340) -/

/-- Processor `role` of a half (0 HIP, 1 SCP, 2 ANP, 3 SUP) is interrupted: by a comparator, a timer of the half, a pin
engine or a mailbox. -/
def Block.irq (s : Block) (h : HalfId) (role : Nat) : Bool :=
  ((List.range 32).any fun k => s.on h F.CMP_CFG_IRQEN k && s.f h F.CMP_CFG_IRQDST k == role &&
    (s.on h F.CMP_EVT_RISE k || s.on h F.CMP_EVT_FALL k || s.on h F.CMP_EVT_BLERR k)) ||
  ((List.range 16).any fun k => s.ownsTmr h k && !s.tmrHigh k && s.on .a F.TMR_CFG_IRQEN k && s.f .a F.TMR_CFG_IRQDST k == role &&
    (s.on .a F.TMR_EVT_MATCH k || s.on .a F.TMR_EVT_OVF k || s.on .a F.TMR_EVT_LATE k)) ||
  ((List.range 8).any fun e => s.on h F.PE_IRQ_IRQEN e && s.f h F.PE_IRQ_IRQDST e == role &&
    (!(s.pe h e).rq.isEmpty || s.w h .PE_ERR e != 0)) ||
  ((List.range 16).any fun m =>
    let x := mbxTable m
    let crossed := s.on h F.MBX_STAT_CROSSED m && s.on h F.MBX_IEN_CROSSIE m
    (x.2.1 == role && ((s.on h F.MBX_STAT_EMPTYEV m && s.on h F.MBX_IEN_EMPTYIE m) || crossed)) ||
    (x.2.2.1 == role && ((s.on h F.MBX_STAT_FULL m && s.on h F.MBX_IEN_FULLIE m) || crossed ||
      (s.on h F.MBX_STAT_SNDRST m && s.on h F.MBX_IEN_SNDRSTIE m))))

/-- In Rest any processor interrupt wakes its half (rule R443). -/
def Block.irqWake (s : Block) (h : HalfId) : Block :=
  if s.rung h = 1 && (List.range 4).any (s.irq h) then s.wakeHalf h 14 1 else s

/-! ## Pins (rules R309, R310) -/

/-- What a half drives on pin `k` of the group of engine `e`: none while the pin is not driven. In BOOT and HOLD no pin is
driven; a pin follows its engine, or an output of a PWM unit, and an open-drain pin is only ever driven low. -/
def Block.pinOut (s : Block) (h : HalfId) (e k : Nat) : Option Bool :=
  let od (v : Bool) : Option Bool := if v && s.on h F.PE_PIN_OD e k then none else some v
  if !(s.half h).live || !activePhase (s.phase h) then none else
  match s.f h F.PE_PIN_SRC e k with
  | 1 => od (bits (s.f h F.PE_PINS_DRIVE e) k k == 1)
  | 2 =>
    let u := s.f h F.PE_PIN_UNIT e k
    let p := s.pwm h u
    if s.pwmHiz h u then none else od (if s.on h F.PE_PIN_OUTSEL e k then p.lvlB else p.lvlA)
  | _ => none

end Sys2Proof.Machine
end

