-- ==== Sys2Proof/Machine/RegWrites.lean ====
section
/-!
DEFINITION. A write of one register by a bus master: who may make it, in which phase, and what it sets in motion
(rules R16, R17, R49 and the write rule of each chapter). A write that is refused completes with a bus error and changes
nothing; a write of a read-only register is ignored (rule R16).
-/

namespace Sys2Proof.Machine

/-- A bus master and the half it belongs to. -/
structure Writer where
  half : HalfId
  who  : Master
  deriving DecidableEq, Repr

/-- The access completes with a bus error and no other effect (rule R47). -/
def Block.refused (s : Block) : Block := { s with busErr := true }

/-- The access completes. -/
def Block.done (s : Block) : Block := { s with busErr := false }

/-- What a write leaves in a register word: RW bits take the value, a 1 clears a W1C bit, all others stay (rule R16). -/
def written (r : Reg) (old v : Word) : Word :=
  wd (mix old.toNat r.info.rw v.toNat &&& (0xFFFFFF ^^^ (v.toNat &&& r.info.w1c)))

/-- A write that only stores. -/
def Block.stored (s : Block) (h : HalfId) (r : Reg) (v : Word) (i : Nat := 0) (j : Nat := 0) : Block :=
  (s.setW h r (written r (s.w h r i j) v) i j).done

/-- A write that stores where the write rule allows it. -/
def Block.storeIf (s : Block) (ok : Bool) (h : HalfId) (r : Reg) (v : Word) (i : Nat := 0) (j : Nat := 0) : Block :=
  if ok then s.stored h r v i j else s.refused

/-- A command, where it is allowed. -/
def Block.doneIf (s : Block) (ok : Bool) (t : Block) : Block := if ok then t.done else s.refused

/-- Bit `n` of a written value. -/
def bitAt (v : Word) (n : Nat) : Bool := bits v.toNat n n == 1

/-- The half is in BOOT, HOLD or TEST. -/
def Block.inCfg (s : Block) (h : HalfId) : Bool := s.phase h == phBOOT || s.phase h == phHOLD || s.phase h == phTEST

/-- The half is in HOLD or TEST (rule R167). -/
def Block.inHold (s : Block) (h : HalfId) : Bool := s.phase h == phHOLD || s.phase h == phTEST

/-- The write changes EN, bit 23, and nothing else. -/
def enAlone (r : Reg) (old v : Word) : Bool := bits (written r old v).toNat 22 0 == bits old.toNat 22 0

/-! ## Wheel trackers and the angle clock (rules R56, R59, R85, R113) -/

def Block.writeWtkCtrl (s : Block) (h : HalfId) (t : Nat) (v : Word) : Block :=
  let old := s.w h .WTK_CTRL t
  let new := written .WTK_CTRL old v
  if s.on h F.WTK_CTRL_EN t then
    s.doneIf (enAlone .WTK_CTRL old v && !bitAt new 23) (s.trkDisable h t)
  else
    let s1 := s.setW h .WTK_CTRL (wd (bits new.toNat 22 0)) t
    if !bitAt new 23 then s1.done
    else if s1.tablesValid h t then (s1.trkEnable h t).done
    else (s.setF h F.WTK_ERR_CFG 1 t).done

def Block.writeWtk (s : Block) (r : Reg) (h : HalfId) (i j : Nat) (v : Word) : Block :=
  match r with
  | .WTK_CTRL => s.writeWtkCtrl h i v
  | .WTK_CLR => if bitAt v 0 then (s.clearW h .WTK_CNT i).done else s.done
  | .WTK_STALL | .WTK_XCFG | .WTK_ERR => s.stored h r v i j
  | .WTK_ASEL =>
    let idle := !s.on h F.WTK_CTRL_EN 0 && !s.on h F.WTK_CTRL_EN 1
    if idle || bitAt v 2 == s.on h F.WTK_ASEL_FAILOVER_EN then ((s.stored h r v).askSource h (bits v.toNat 0 0)).done else s.refused
  | .WTK_WIN | .WTK_AUX | .WTK_DIRW | .WTK_TABN | .WTK_GWIN | .WTK_CRK0 | .WTK_CRK1 | .WTK_CAM =>
    s.storeIf (!s.on h F.WTK_CTRL_EN i) h r v i j
  | _ => s.done

def Block.writeAng (s : Block) (r : Reg) (h : HalfId) (i : Nat) (v : Word) : Block :=
  let en := s.on h F.ANG_CTRL_EN
  match r with
  | .ANG_CTRL =>
    if en then s.doneIf (enAlone r (s.w h r) v && !bitAt v 23) (s.clockDisable h)
    else if bitAt v 23 then ((s.stored h r v).clockEnable h).done else s.stored h r v
  | .ANG_GEO => if en then s.refused else if i = 0 then s.done else s.stored h r v i
  | .ANG_PRED | .ANG_FCFG | .ANG_FSTALL | .ANG_CYL | .ANG_TDC | .ANG_PROF => s.storeIf (!en) h r v i
  | .ANG_RFMAX | .ANG_LRN | .ANG_ERR => s.stored h r v i
  | .ANG_CLR => if bitAt v 0 then (s.clearW h .ANG_CNT).done else s.done
  | _ => s.done

/-! ## Event channels and admission (rules R121, R142, R151, R167) -/

def Block.writeEvc (s : Block) (r : Reg) (h : HalfId) (i j : Nat) (v : Word) : Block :=
  let n := v.toNat
  match r with
  | .EVC_CFG =>
    if s.on h F.EVC_CFG_EN i then s.doneIf (enAlone r (s.viewWord r h i 0) v && !bitAt v 23) (s.disableChan h i) else s.stored h r v i
  | .EVC_LEAD => s.storeIf (!s.on h F.EVC_CFG_EN i) h r v i
  | .EVC_TOL => s.stored h r v i
  | .EVC_CMD =>
    if s.cmdBusy h i then s.refused else
    match bits n 23 22 with
    | 1 => s.cancelCmd h i (fun e => e.tag == bits n 9 0) true
    | 2 => s.cancelCmd h i (fun _ => true) false
    | 3 => s.clearEvc h i
    | _ => s.done
  | .EVI_W => s.storeIf (!(i == 1 && activePhase (s.phase h))) h r v i j
  | .EVI_GO => eviGo h i (bits n 21 16) (bits n 9 0) s
  | .EVN_POP => if bitAt v 0 then s.popNotice h else s.done
  | _ => s.done

def Block.writeAdm (s : Block) (r : Reg) (h : HalfId) (i : Nat) (v : Word) : Block :=
  match r with
  | .ADM_DWELL | .ADM_MINAHEAD | .ADM_CRH | .ADM_MODEH | .ADM_STOP => s.storeIf (s.inHold h) h r v
  | .ADM_CENVN | .ADM_CENVR => if s.inHold h then ((s.stored h r v).syncEnv h).done else s.refused
  | .ADM_W | .ADM_ERR => s.stored h r v i
  | .ADM_GO => admGo h (bits v.toNat 21 16) (bits v.toNat 9 0) s
  | .ADM_CLR => if bitAt v 0 then (s.clearW h .ADM_CNT).done else s.done
  | _ => s.done

/-! ## The drive die (rules R49, R215 to R218, R227) -/

/-- The output an index of a drive-die register belongs to. -/
def Reg.output (r : Reg) (i : Nat) : Option Output :=
  match r with
  | .INJ_CFG | .INJ_MAX | .INJ_STAT | .INJ_TRIP | .INJ_SEG => if h : i < 24 then some (.inj ⟨i, h⟩) else none
  | .BHS_CFG | .BHS_STAT | .BHS_TRIP | .BHS_SEG => if h : i < 12 then some (.bhs ⟨i, h⟩) else none
  | .BST_CFG | .BST_STAT | .BST_TRIP => if h : i < 2 then some (.bst ⟨i, h⟩) else none
  | .HB_CFG | .HB_GUARD | .HB_STAT | .HB_TRIP => if h : i < 8 then some (.hb ⟨i, h⟩) else none
  | .EVO_CFG | .EVO_STAT => if h : i < 48 then some (.evo ⟨i, h⟩) else none
  | _ => none

/-- A write of a trip register: LATCH, CLRREF and SWSET lie at bit `b` and the two below; a software trip decides over a
clear written with it. Whether a measured cause's condition still holds is a free value. -/
def Block.writeTrip (s : Block) (o : Output) (b : Nat) (v : Word) : Block :=
  let measured := [caOV, caOC, caOT, caMAXON, caSTUCK].any fun c => (match o with | .evo _ => false | _ => true) && s.cause o c
  let s1 := if bitAt v b && s.tripped o then
      let d := s.draw
      if measured then d.2.clearLatch o (d.1 % 2 == 1) else s.clearLatch o false
    else s
  let s2 := if bitAt v (b - 1) then s1.setF .a o.clrrefFld 0 o.reg.2 else s1
  (if bitAt v (b - 2) then s2.trip o caSW else s2).done

/-- A half may write a register of the drive die or of the always-on region (rule R49): the registers of an output belong to
the half it is wired to, those of a timer to its owner, and WAKE_STAT to either half (rule R455); the other ones are the helm's. -/
def Block.entitled (s : Block) (h : HalfId) (r : Reg) (i : Nat) : Bool :=
  match r.output i with
  | some o => o.owner == h
  | none =>
    match r with
    | .TMR_CFG | .TMR_CMP | .TMR_CTRL | .TMR_CNT | .TMR_HOLD | .TMR_CAP | .TMR_STAT | .TMR_EVT => s.ownsTmr h i
    | .WAKE_STAT => true
    | _ => s.holdsHelm h

def Block.writeDrv (s : Block) (m : Writer) (r : Reg) (i : Nat) (v : Word) : Block :=
  if !s.entitled m.half r i then s.refused else
  match r with
  | .FE_CFG => s.stored .a r v i
  | .DRV_CTRL => (((s.stored .a r v).updateOE .a).updateOE .b).done
  | .DRV_SWTRIP => (if bitAt v 0 then s.swtripAll else s).done
  | .INJ_CFG | .INJ_MAX | .BHS_CFG | .BST_CFG | .EVO_CFG => s.storeIf (s.inCfg m.half) .a r v i
  | .HB_CFG => if s.inCfg m.half then ((s.stored .a r v i).hbDrive i).done else s.refused
  | .HB_GUARD => s.stored .a r v i
  | .INJ_TRIP | .BHS_TRIP | .BST_TRIP | .HB_TRIP | .EVO_STAT =>
    match r.output i with
    | some o => s.writeTrip o (if r = .EVO_STAT then 22 else 23) v
    | none => s.refused
  | _ => s.done

/-! ## Sequencers, converters and the attenuation unit (rules R167, R199, R214, R227, R246, R264) -/

def Block.seqIdle (s : Block) (h : HalfId) : Bool := (s.half h).sq.shots.all Option.isNone

/-- A write of SEQ_LRN restores the drifts at the next learning update (rules R214, R227). -/
def Block.restoreDrift (s : Block) (h : HalfId) (k : Nat) : Block :=
  s.modHalf h fun y => { y with sq := { y.sq with lrnDue := y.sq.lrnDue.set k true } }

def Block.writeSeq (s : Block) (r : Reg) (h : HalfId) (i : Nat) (v : Word) : Block :=
  match r with
  | .SEQ_PW0 | .SEQ_PW1 | .SEQ_PW2 | .SEQ_PW3 | .SEQ_PW4 | .SEQ_PW5 | .SEQ_PW6 | .SEQ_PW7 | .SEQ_CFG =>
    s.storeIf (s.inCfg h && s.seqIdle h) h r v i
  | .SEQ_DLIM | .SEQ_BINT | .SEQ_BUD => s.storeIf (s.inHold h) h r v i
  | .SEQ_LRN => ((s.stored h r v i).restoreDrift h i).done
  | .SEQ_LCFG | .SEQ_VREF => s.stored h r v i
  | .SEQ_POP =>
    let s1 := if bitAt v 0 then s.popResult h i else s
    (if bitAt v 1 then s1.clearOvf h i else s1).done
  | .SEQ_FORCE => s.forceWrite h i v
  | _ => s.done

def Block.writePcv (s : Block) (r : Reg) (h : HalfId) (i j : Nat) (v : Word) : Block :=
  let n := v.toNat
  match r with
  | .PCV_CFG | .PCV_WBUF | .PCV_WLEN | .PCV_SCAN | .PCV_SCANN | .PCV_CYL | .PCV_CYLG | .PCV_CPCFG | .PCV_AINCFG =>
    s.storeIf (s.inCfg h) h r v i j
  | .PCV_ERR | .PCV_AINSTAT => s.stored h r v i
  | .PCV_CMD =>
    match bits n 23 22 with
    | 1 => if i < 2 then (s.endWindow h i (bits n 1 0) 6).done else s.done
    | 2 => (s.clearW h .PCV_CNT i).done
    | _ => s.done
  | .PCV_WPOP => if bitAt v 0 then (s.popWindow h i).done else s.done
  | .PCV_SPARE =>
    let k := bits n 17 15
    if k < 4 then
      let s1 := s.forceConverter h k
      if s1.busErr then s.refused else (s1.stored h r v).done
    else s.stored h r v
  | _ => s.done

def Block.writeAtu (s : Block) (r : Reg) (h : HalfId) (i : Nat) (v : Word) : Block :=
  match r with
  | .ATU_CFG | .ATU_GAMMA | .ATU_MFIMEP | .ATU_MFQ | .ATU_RSTART | .ATU_REND | .ATU_PEG | .ATU_PREF | .ATU_REFG
  | .ATU_REFO | .ATU_CPG | .ATU_CPO | .ATU_CYL | .ATU_MFSEG | .ATU_MFTH | .ATU_VOL => s.storeIf (s.inCfg h) h r v i
  | .ATU_FB => (s.writeCorr h i v).done
  | .ATU_CA50T | .ATU_FBG | .ATU_ERR => s.stored h r v i
  | .ATU_CLR =>
    let s1 := if bitAt v 0 then s.clearMfcnt h else s
    (if bitAt v 1 then s1.clearBase h else s1).done
  | _ => s.done

/-! ## Comparators, PWM units and timers (rules R274, R276, R293, R307) -/

def Block.writeCmp (s : Block) (r : Reg) (h : HalfId) (i : Nat) (v : Word) : Block :=
  let en := s.on h F.CMP_CFG_EN i
  let cfg := !en && s.inCfg h
  match r with
  | .CMP_CFG =>
    if enAlone r (s.w h r i) v then
      if bitAt v 23 == en then s.done
      else if bitAt v 23 then ((s.stored h r v i).cmpFirst h i).done else (s.cmpOff h i).done
    else if cfg then
      let s1 := (s.stored h r v i).tripLines h
      (if bitAt v 23 then s1.cmpFirst h i else s1).done
    else s.refused
  | .CMP_BLK => s.storeIf cfg h r v i
  | .CMP_TH => s.cmpThreshold h i false v
  | .CMP_HYS => s.cmpThreshold h i true v
  | .CMP_EVT => s.stored h r v i
  | .CMP_SPARE => if bitAt v 15 then s.cmpForce h (bits v.toNat 14 10) else s.done
  | _ => s.done

/-- Place of an update-set register in the order of `pwmReg`. -/
def pwmPlace : Reg → Nat
  | .PWM_PER => 0
  | .PWM_AON => 1
  | .PWM_AOFF => 2
  | .PWM_BON => 3
  | .PWM_BOFF => 4
  | .PWM_TAP => 5
  | _ => 6

def Block.writePwmCtrl (s : Block) (h : HalfId) (u : Nat) (v : Word) : Block :=
  let old := s.w h .PWM_CTRL u
  let turnOn (t : Block) : Block := let x := t.pwmEnable h u; if x.busErr then s.refused else x
  if enAlone .PWM_CTRL old v then
    if bitAt v 23 then turnOn s else if s.on h F.PWM_CTRL_EN u then (s.pwmStop h u).done else s.done
  else if !s.on h F.PWM_CTRL_EN u && s.inCfg h then
    let s1 := s.setW h .PWM_CTRL (wd (bits (written .PWM_CTRL old v).toNat 22 0)) u
    if bitAt v 23 then turnOn s1 else s1.done
  else s.refused

/-- PWM_TRIP: TMASK follows the write rule of the configuration, and a write that leaves it as it is needs none. -/
def Block.writePwmTrip (s : Block) (h : HalfId) (u : Nat) (v : Word) : Block :=
  let mask := bits v.toNat 15 8
  if mask ≠ s.f h F.PWM_TRIP_TMASK u && (s.on h F.PWM_CTRL_EN u || !s.inCfg h) then s.refused else
  let s1 := if bitAt v 23 then s.pwmTripClear h u else s
  let s2 := if bitAt v 22 then s1.setF h F.PWM_TRIP_CLRREF 0 u else s1
  let s3 := s2.setF h F.PWM_TRIP_TMASK mask u
  (if bitAt v 21 then s3.pwmTrip h u true else s3).done

def Block.writePwm (s : Block) (r : Reg) (h : HalfId) (i : Nat) (v : Word) : Block :=
  let cfg := !s.on h F.PWM_CTRL_EN i && s.inCfg h
  match r with
  | .PWM_CTRL => s.writePwmCtrl h i v
  | .PWM_DT | .PWM_MINP | .PWM_BS => s.storeIf cfg h r v i
  | .PWM_PER | .PWM_AON | .PWM_AOFF | .PWM_BON | .PWM_BOFF | .PWM_TAP | .PWM_OVR => (s.pwmUpdate h i (pwmPlace r) v).done
  | .PWM_INIT | .PWM_ERR => s.stored h r v i
  | .PWM_LOAD => if bitAt v 0 then (s.pwmLoad h i).done else s.done
  | .PWM_TRIP => s.writePwmTrip h i v
  | .PWM_GSTART => (s.pwmGstart h (bits v.toNat 15 0)).done
  | _ => s.done

def Block.writeTmr (s : Block) (m : Writer) (r : Reg) (i : Nat) (v : Word) : Block :=
  if !s.entitled m.half r i then s.refused else
  match r with
  | .TMR_CFG =>
    if s.tmrRuns i then s.refused else ((s.stored .a r v i).tmrOut i).done
  | .TMR_CMP => s.tmrCompare m.half i v
  | .TMR_CTRL => s.tmrCtrl m.half i (bitAt v 23) (bitAt v 22) (bitAt v 21) (bitAt v 20)
  | .TMR_EVT => s.stored .a r v i
  | .TMR_OWNL => s.tmrOwn m.half false v
  | .TMR_OWNH => s.tmrOwn m.half true v
  | _ => s.done

/-! ## Pin engines, mailboxes and CAN (rules R314, R328, R336, R342) -/

def Block.writePe (s : Block) (r : Reg) (h : HalfId) (i j : Nat) (v : Word) : Block :=
  let n := v.toNat
  match r with
  | .PE_PROG => s.progWrite h i j v
  | .PE_CFG => s.progWrite h i 0x40 v
  | .PE_PROTO0 => s.progWrite h i 0x42 v
  | .PE_PROTO1 => s.progWrite h i 0x43 v
  | .PE_PIN => s.progWrite h i (0x44 + j) v
  | .PE_IRQ | .PE_ERR => s.stored h r v i
  | .PE_SQ => s.sqWrite h i v
  | .PE_RQPOP => if bitAt v 0 then s.rqPop h i else s.done
  | .PE_FSET => (s.writeFlags h (bits n 15 0) true).done
  | .PE_FCLR => (s.writeFlags h (bits n 15 0) false).done
  | .PE_GSTART => (s.peGstart h (bits n 7 0)).done
  | _ => s.done

/-- The master reaches mailbox `i`: MBX0 to MBX3 need the secure attribute, which host register accesses lack (R336, R357). -/
def Block.mbxReach (s : Block) (h : HalfId) (who : Master) (i : Nat) : Bool :=
  !(mbxTable i).1 || s.roleOf h who == some 0 || s.roleOf h who == some 3

def Block.writeMbxStat (s : Block) (h : HalfId) (who : Master) (i : Nat) (v : Word) : Block :=
  let sender := s.roleOf h who == some (mbxTable i).2.1
  let receiver := s.roleOf h who == some (mbxTable i).2.2.1
  let clear (t : Block) (ok : Bool) (x : Fld) : Block := if ok && bitAt v x.lo then t.setF h x 0 i else t
  (clear (clear (clear (clear s (sender || receiver) F.MBX_STAT_CROSSED) sender F.MBX_STAT_EMPTYEV) receiver
    F.MBX_STAT_SNDRST) receiver F.MBX_STAT_EMPTYRD).done

def Block.writeMbx (s : Block) (m : Writer) (r : Reg) (h : HalfId) (i : Nat) (v : Word) : Block :=
  let role := if m.half = h then s.roleOf h m.who else none
  match r with
  | .MBX_XTO => s.storeIf (role == some 3) h r v
  | .MBX_DATA => if m.half = h && s.mbxReach h m.who i then s.mbxPost h i m.who v else s.refused
  | .MBX_STAT =>
    if !s.mbxReach h m.who i then s.refused else if m.half = h then s.writeMbxStat h m.who i v else s.done
  | .MBX_IEN =>
    s.storeIf (s.mbxReach h m.who i && (role == some (mbxTable i).2.1 || role == some (mbxTable i).2.2.1)) h r v i
  | .MBX_CFG => s.doneIf (s.mbxReach h m.who i) s
  | _ => s.done

def Block.writeCan (s : Block) (r : Reg) (h : HalfId) (i : Nat) (v : Word) : Block :=
  let ok := s.inCfg h || !s.on h F.CAN_CTRL_EN i
  match r with
  | .CAN_CTRL =>
    if !ok then s.refused
    else
      let s1 := s.stored h r v i
      if bitAt v 23 == s.on h F.CAN_CTRL_EN i then s1 else (s1.canJoin h i (bitAt v 23)).done
  | .CAN_NBT | .CAN_DBT => s.storeIf ok h r v i
  | _ => s.done

/-! ## Links, helm, power and tally (rules R359, R394, R436, R455, R465) -/

def Block.writeLink (s : Block) (m : Writer) (r : Reg) (h : HalfId) (i : Nat) (v : Word) : Block :=
  let ok := m.half == h && s.linkMaster h m.who
  let fab := s.inCfg h && !s.on h F.EUL_NODE_EN
  match r with
  | .QHL_BIND => s.storeIf ok h r v
  | .QHL_ERR => s.stored h r v
  | .QHL_CMD =>
    let s1 := if bitAt v 1 then s.linkClear h else s
    s.doneIf ok (if bitAt v 0 then s1.linkReset h else s1)
  | .EUL_NODE | .EUL_PRI | .EUL_PCFG => if fab then ((s.stored h r v i).eulPorts h).done else s.refused
  | .EUL_PHCFG => if fab then ((s.stored h r v i).modFab h fun x => { x with ref := none, phRun := 0, phHist := [] }).done else s.refused
  | .EUL_PHOFF | .EUL_PHWIN | .EUL_PHN | .EUL_ERR => s.stored h r v
  | .EUL_CLR => if bitAt v 0 then (s.eulClear h).done else s.done
  | _ => s.done

def Block.writeSys (s : Block) (m : Writer) (r : Reg) (h : HalfId) (i : Nat) (v : Word) : Block :=
  let own := m.half == h
  let ok := own && s.hlmMaster h m.who
  match r with
  | .HLM_CFG => s.storeIf (s.inCfg h) h r v
  | .HLM_ERR => s.storeIf ok h r v
  | .HLM_CLR => if own then (if bitAt v 0 then s.helmClear h m.who else s.doneIf ok s) else s.refused
  | .LOG_CMD => if bitAt v 0 then s.logCmd h ok else s.doneIf ok s
  | .PWR_POL | .WAKE_CFG | .WAKE_TH | .PWR_STAT | .PWR_STRAP | .AON_FREQ | .WAKE_STAT =>
    if s.entitled m.half r i then s.stored .a r v else s.refused
  | .CRP_WDOG => if !own then s.refused else if bitAt v 0 then s.watchdogKick h m.who else s.doneIf (s.roleOf h m.who == some 3) s
  | .TAL_POL | .TAL_RSW | .TAL_RTC | .TAL_REN => s.storeIf ok h r v i
  | .TAL_CMD => if bitAt v 0 then (s.tallySync h 0).done else s.done
  | _ => s.done

/-! ## Any register -/

/-- A register write by a master, to a register that is powered. -/
def Block.regWrite (s : Block) (m : Writer) (r : Reg) (h : HalfId) (i j : Nat) (v : Word) : Block :=
  match r.info.base / 0x10000 with
  | 0x20 => s.writeWtk r h i j v
  | 0x21 => s.writeAng r h i v
  | 0x22 => s.writeEvc r h i j v
  | 0x23 => s.writeAdm r h i v
  | 0x24 => s.writeSeq r h i v
  | 0x25 => s.writePcv r h i j v
  | 0x26 => s.writeAtu r h i v
  | 0x27 => s.writeCmp r h i v
  | 0x28 => s.writePwm r h i v
  | 0x29 => s.writePe r h i j v
  | 0x2A => s.writeMbx m r h i v
  | 0x2B => s.writeLink m r h i v
  | 0x2C => s.writeLink m r h i v
  | 0x2D => s.writeCan r h i v
  | 0x2E => s.writeSys m r h i v
  | 0x2F => s.writeSys m r h i v
  | 0x30 => s.done
  | 0x31 => s.writeSys m r h i v
  | 0x90 => if r.info.base / 0x1000 = 0x901 then s.writeTmr m r i v else s.writeSys m r h i v
  | _ => s.writeDrv m r i v

end Sys2Proof.Machine
end

