-- ==== Sys2Proof/Machine/Bus.lean ====
section
/-!
DEFINITION. Accesses of bus masters: the address map, power, RAM, the racking bridge as it carries bus transactions, and
the effects a read has (rules R44 to R49).
-/

namespace Sys2Proof.Machine

/-! ## What can be reached (rules R44 to R47, R439) -/

/-- A master can make an access: its half is out of reset, its clock runs, and a core holds its role; no core runs before the
firmware has been verified (rule R331). -/
def Block.masterRuns (s : Block) (m : Writer) : Bool :=
  (s.half m.half).live && (m.who == .link || s.fwRuns m.half) && (s.roleOf m.half m.who).isSome && (match s.rung m.half with
    | 0 => true
    | 1 => m.who == .sup || m.who == .link
    | 2 | 3 => m.who == .sup
    | _ => false)

/-- What an address names. -/
inductive Place where
  | reg (r : Reg) (h : HalfId) (i j : Nat)
  | sram (h : HalfId)
  | keep
  | none
  deriving DecidableEq, Repr

def placeOf (a : Nat) : Place :=
  if a < 0x800000 && decide (a % 0x400000 < 0x080000) then .sram (if a < 0x400000 then .a else .b)
  else if 0x910000 ≤ a && decide (a < 0x912000) then .keep
  else match findReg a with
    | some (r, h, i, j) => .reg r h i j
    | none => .none

/-- The half whose region an address lies in; none in the common regions. -/
def regionOf (a : Nat) : Option HalfId :=
  if a < 0x400000 then some .a else if a < 0x800000 then some .b else none

/-- RAM that an address names can be accessed by a master of half `k` (rules R47, R454). -/
def Block.ramOn (s : Block) (k : HalfId) : Place → Bool
  | .sram h => s.pageOn h 0
  | .keep => decide (s.rung k ≤ 1)
  | _ => false

/-! ## Reads -/

/-- Measured values that no event of the model carries: what a read finds of them is a free value. VBST decides READY and
UV (rules R206, R207). -/
def Block.measured (s : Block) (r : Reg) (h : HalfId) (i : Nat) (n : Nat) : Word :=
  let raw := s.viewWord r h i 0
  match r with
  | .DRV_STAT => withF raw F.DRV_STAT_VBAT (n % 1024)
  | .HB_STAT => withF raw F.HB_STAT_ILIVE (n % 256)
  | .BST_STAT =>
    let v := 1000 * (n % 1024)
    let t := 4500 + 25 * s.f .a F.BST_CFG_VSET i
    let past (limit : Nat) : Bool := decide (limit + 10000 < v) || (decide (limit ≤ v + 10000) && n / 1024 % 2 == 1)
    let ov := past 750000 || (s.on .a F.BST_CFG_EN i && past (100 * t + 40000))
    withF (withF (withF (withF raw F.BST_STAT_VBST (n % 1024)) F.BST_STAT_READY (bitOf (decide (95 * t ≤ v) && decide (v ≤ 105 * t))))
      F.BST_STAT_UV (bitOf (decide (v < 85 * t)))) F.BST_STAT_OV (bitOf ov)
  | _ => raw

/-- A read of a register that is powered. -/
def Block.regRead (s : Block) (m : Writer) (r : Reg) (h : HalfId) (i j : Nat) : Block :=
  let plain : Block := { s with busErr := false, busData := s.viewWord r h i j }
  match r with
  | .TSC_LO => s.readTscLo h
  | .TSC_XDIFF => s.readXdiff h
  | .ANG_NOW => s.readAngNow h
  | .EVC_HEADT_LO => s.readHeadt h i
  | .CMP_CAPLO => s.capRead h i
  | .TMR_CNT => s.tmrRead i
  | .TMR_CAP => plain.modTmr i fun y => { y with unread := false }
  | .ATU_REC => if i % 16 = 0 then s.readRec0 h (i / 16) else plain
  | .LOG_ENT => if i % 4 = 0 then s.logRead h (i / 4) else plain
  | .TAL_W1 => s.tallyWordRead h i false
  | .TAL_W4 => s.tallyWordRead h i true
  | .EUL_FTLO => s.readFtlo h
  | .PE_TLO => s.readTlo h i
  | .MBX_DATA => if m.half = h && s.mbxReach h m.who i then s.mbxTake h i m.who else s.refused
  | .MBX_STAT | .MBX_CFG | .MBX_IEN => if s.mbxReach h m.who i then plain else s.refused
  | .DRV_STAT | .HB_STAT | .BST_STAT =>
    let d := s.draw
    { d.2 with busErr := false, busData := s.measured r h i d.1 }
  | _ => plain

/-! ## Accesses -/

/-- An access completes with a bus error. -/
def State.busError (s : State) : State := { s with blk := s.blk.refused }

/-- A write that has reached the region it names. -/
def State.writeAt (s : State) (m : Writer) (a : Nat) (v : Word) : State :=
  match placeOf a with
  | .reg r h i j => if s.blk.powered r h then { s with blk := s.blk.regWrite m r h i j v } else s.busError
  | .none => s.busError
  | p => if s.blk.ramOn m.half p then { s with ram := memSet 0 s.ram a v, blk := s.blk.done } else s.busError

/-- A read that has reached the region it names. -/
def State.readAt (s : State) (m : Writer) (a : Nat) : State :=
  match placeOf a with
  | .reg r h i j => if s.blk.powered r h then { s with blk := s.blk.regRead m r h i j } else s.busError
  | .none => s.busError
  | p => if s.blk.ramOn m.half p then { s with blk := { s.blk.done with busData := memGet 0 s.ram a } } else s.busError

/-- A word of the bridge arrives at half `h`: bus transactions and mailbox words act at once, the other words wait for the
event that acts on them (rules R27, R28, R335). -/
def State.arrive (s : State) (h : HalfId) (w : BMsg) : State :=
  match w with
  | .nextMode n pend =>
    { s with blk := (s.blk.setF h F.ADM_STAT_NEXTMODE n).setF h F.ADM_STAT_MODEPEND (bitOf pend) }
  | .role x => { s with blk := s.blk.notice h 0xCD [x] }
  | .mbx x => { s with blk := s.blk.mbxStore h 14 x }
  | .taken => { s with blk := s.blk.mbxEmpty h 15 0 }
  | .hipReset => { s with blk := s.blk.peerHipReset h }
  | .part _ => s
  | .host second v => { s with blk := s.blk.mbxStore h (if second then 4 else 0) v }
  | .freed second => { s with blk := s.blk.linkFeed h.peer second }
  | .fab true p _ f => { s with blk := if s.blk.portUp (h, p) then s.blk.egress h p f else s.blk }
  | .fab false p at' f => { s with blk := s.blk.keep h p at' f }
  | .write who a v =>
    let t := s.writeAt ⟨h.peer, who⟩ a v
    { t with blk := { t.blk with busErr := s.blk.busErr } }
  | w => { s with blk := let l := s.blk.lane h.peer; s.blk.setLane h.peer { l with rx := l.rx ++ [w] } }

/-- The oldest word on the bridge toward `h` becomes available there, and its credit lets a waiting word be written. -/
def State.deliver (s : State) (h : HalfId) : State :=
  let l := s.blk.lane h.peer
  match l.fifo with
  | [] => s
  | w :: rest =>
    if !s.blk.supRuns h || (s.blk.half h).hl.lost then s else
    let l1 : Lane := { l with fifo := rest ++ l.wait.take 1, wait := l.wait.drop 1 }
    { s with blk := s.blk.setLane h.peer l1 }.arrive h w

/-- BRIDGE_WORD_DELIVER. -/
def execBridgeWordDeliver (h : HalfId) (s : State) : Host.Outcome State Fault Refusal := .next (s.deliver h)

/-- The bridge carries transactions of half `h` (rule R29). -/
def Block.bridgeCarries (s : Block) (h : HalfId) : Bool := s.bridgeUp h && s.supRuns h && s.supRuns h.peer

/-- A read of half `h` across the bridge reaches its peer, and its reply comes back: neither half holds the bridge for lost (rules R29,
R48). -/
def Block.bridgeReads (s : Block) (h : HalfId) : Bool :=
  s.bridgeCarries h && !(s.half h).hl.lost && !(s.half h.peer).hl.lost

/-- Every word half `h` has written becomes available at its peer. -/
def State.flush (s : State) (h : HalfId) : State :=
  let l := s.blk.lane h
  (l.fifo ++ l.wait).foldl (fun t _ => t.deliver h.peer) s

/-- Words that link `l` and half `h` are about to exchange over the bridge within one command: what was written before them in either
direction arrives before them (rule R28, log entry 89). -/
def State.crossing (s : State) (l h : HalfId) : State := if l = h then s else (s.flush l).flush h

/-- A write by a master: at its own half and the common regions directly, at the other half as a posted write. A host
register write is accepted only in TEST (rule R19). -/
def State.busWrite (s : State) (m : Writer) (a : Nat) (v : Word) : State :=
  if !s.blk.masterRuns m then s
  else if m.who = .link && s.blk.phase m.half ≠ phTEST then s.busError
  else if regionOf a = some m.half.peer then
    if s.blk.bridgeCarries m.half then { s with blk := (s.blk.send m.half (.write m.who a v)).done } else s.busError
  else s.writeAt m a v

/-- A read by a master. The words written before its request take effect before it, and those the other half wrote before
its reply arrive before it (rules R28, R48). -/
def State.busRead (s : State) (m : Writer) (a : Nat) : State :=
  if !s.blk.masterRuns m then s
  else if regionOf a = some m.half.peer then
    if s.blk.bridgeReads m.half then ((s.flush m.half).flush m.half.peer).readAt m a else s.busError
  else s.readAt m a

/-- REGISTER_WRITE. -/
def execRegisterWrite (h : HalfId) (m : Master) (a v : Word) (s : State) : Host.Outcome State Fault Refusal :=
  .next (s.busWrite ⟨h, m⟩ a.toNat v)

/-- CROSS_HALF_ACCESS: a master of `h` writes or reads the other half's region at an offset. -/
def execCrossHalfAccess (h : HalfId) (m : Master) (write : Bool) (off : BitVec 22) (v : Word) (s : State) :
    Host.Outcome State Fault Refusal :=
  let a := off.toNat + 0x400000 * h.peer.num
  .next (if write then s.busWrite ⟨h, m⟩ a v else s.busRead ⟨h, m⟩ a)

end Sys2Proof.Machine
end

