-- ==== Sys2Proof/Machine/HostAccess.lean ====
section
/-!
DEFINITION. What the link block does through the bus or over the bridge: register frames (rule R357), with the runs of accesses that
the REG_READ and REG_WRITE commands share, and the frames of a half that the other half's link carries (rule R355).
-/

namespace Sys2Proof.Machine

/-- The address after `a`. -/
def nextAddr (a : Nat) : Nat := (a + 1) % 2 ^ 24

/-- Up to `n` reads at consecutive addresses: the words read, whether a bus error ended the run, and the state after. -/
def State.readRun (m : Writer) : Nat → Nat → State → List Word × Bool × State
  | 0, _, s => ([], false, s)
  | n + 1, a, s =>
    if !s.blk.masterRuns m then ([], true, s) else
    let t := s.busRead m a
    if t.blk.busErr then ([], true, t)
    else
      let r := State.readRun m n (nextAddr a) t
      (t.blk.busData :: r.1, r.2.1, r.2.2)

/-- Writes of words at consecutive addresses: how many were made, whether a bus error ended the run, and the state after. -/
def State.writeRun (m : Writer) : Nat → List Word → State → Nat × Bool × State
  | _, [], s => (0, false, s)
  | a, v :: rest, s =>
    if !s.blk.masterRuns m then (0, true, s) else
    let t := s.busWrite m a v
    if t.blk.busErr then (0, true, t)
    else
      let r := State.writeRun m (nextAddr a) rest t
      (r.1 + 1, r.2.1, r.2.2)

/-- The reply of a register frame: CODE, TAG, BERR, DONE. -/
def regStatus (code tag : Nat) (berr : Bool) (done : Nat) : Word := wd (code * 2 ^ 16 + tag * 2 ^ 8 + bitOf berr * 2 ^ 7 + done)

/-- The frame at the head is done with: its words are freed and its reply waits for credit. -/
def Block.regReply (s : Block) (l : HalfId) (f : QFrame) (type : Nat) (pay : List Word) : Block :=
  s.modLink l fun x =>
    { x with inq := x.inq.drop 1, ctl := [],
             freed := x.freed.set (4 * f.half.num + 3) (nth 0 x.freed (4 * f.half.num + 3) + f.nw),
             regOut := x.regOut ++ [QFrame.mk' type f.half.num 0 0 pay] }

/-- The frame of a type at the head of a link's accepted frames. -/
def Block.regFrame (s : Block) (l : HalfId) (type : Nat) : Option QFrame :=
  match (s.link l).inq with
  | f :: _ => if f.type = type then some f else none
  | [] => none

/-- QHL_REG_RD: the link block of the half named reads COUNT registers and answers with the words read. -/
def State.regRd (s : State) (l : HalfId) : State :=
  match s.blk.regFrame l 4 with
  | none => s
  | some f =>
    let p1 := (nth 0 f.pay 1).toNat
    let r := State.readRun ⟨f.half, .link⟩ (bits p1 5 0 + 1) (nth 0 f.pay 0).toNat (s.crossing l f.half)
    { r.2.2 with blk := r.2.2.blk.regReply l f 5 (regStatus cOK (bits p1 23 16) r.2.1 r.1.length :: r.1) }

/-- QHL_REG_WR: in TEST the words are written; in every other phase nothing is, and CODE is PHASE. -/
def State.regWr (s : State) (l : HalfId) : State :=
  match s.blk.regFrame l 6 with
  | none => s
  | some f =>
    let tag := bits (nth 0 f.pay 1).toNat 23 16
    let s := s.crossing l f.half
    if s.blk.phase f.half ≠ phTEST then { s with blk := s.blk.regReply l f 7 [regStatus cPHASE tag false 0] }
    else
      let r := State.writeRun ⟨f.half, .link⟩ (nth 0 f.pay 0).toNat (f.pay.drop 2) s
      { r.2.2 with blk := r.2.2.blk.regReply l f 7 [regStatus cOK tag r.2.1 r.1] }

def execQhlRegRd (h : HalfId) (s : State) : Host.Outcome State Fault Refusal := .next (s.regRd h)

/-- QHL_BULK_FRAME: a stream of the other half is written over the bridge. -/
def State.bulk (s : State) (l : HalfId) : State :=
  let t := match s.blk.regFrame l 3 with
    | some f => s.crossing l f.half
    | none => s
  { t with blk := bulkFrame l t.blk }

def execQhlBulkFrame (h : HalfId) (s : State) : Host.Outcome State Fault Refusal := .next (s.bulk h)

/-- QHL_OUTBOUND_FRAME: words of the other half are taken over the bridge. -/
def State.outbound (s : State) (l half : HalfId) (c n : Nat) : State :=
  let t := s.crossing l half
  { t with blk := outboundFrame l half c n t.blk }

def execQhlOutboundFrame (h half : HalfId) (c : Fin 4) (n : Fin 129) (s : State) : Host.Outcome State Fault Refusal :=
  .next (s.outbound h half c.val n.val)

def execQhlRegWr (h : HalfId) (s : State) : Host.Outcome State Fault Refusal := .next (s.regWr h)

end Sys2Proof.Machine
end

