-- ==== Sys2Proof/Machine/Commands.lean ====
section
/-!
DEFINITION. The command protocol (chapter 16): the form of every command, the order of the grounds for refusal, replies,
and the meanings of the commands but those on configurations and firmware.
-/

namespace Sys2Proof.Machine

/-! ## The status word (rule R366) -/

def rsUNKNOWN : Nat := 1
def rsCOUNT : Nat := 2
def rsTRUNCATED : Nat := 3
def rsRESERVED : Nat := 4
def rsSTREAM : Nat := 5
def rsINCOMPLETE : Nat := 6
def rsBUSY : Nat := 7
def rsNO_SESSION : Nat := 8
def rsWRONG_PAIR : Nat := 9
def rsSIGNATURE : Nat := 10
def rsLOCKOUT : Nat := 11
def rsNOT_FOUND : Nat := 12
def rsNOT_TRIMMABLE : Nat := 13
def rsBERR : Nat := 14
def rsVERSION : Nat := 15
def rsLINK : Nat := 16

def statusWord (code reason index : Nat) : Word := wd (code * 2 ^ 16 + reason * 2 ^ 8 + index)
def stOK : Word := statusWord cOK 0 0
def stPENDING : Word := wd (2 ^ 15)

/-! ## The form of each command (rule R371) -/

/-- What a command's row gives: the COUNT range, the flags, and the 1-based payload word with a reserved bit or value, 0
where there is none. -/
structure CmdForm where
  counts : Nat → Bool
  boot   : Bool := false
  sec    : Bool := false
  helm   : Bool := false
  long   : Bool := false
  bad    : List Word → Nat := fun _ => 0

/-- The first payload word with a bit of its mask set, counted from `i`. -/
def badMask : Nat → List Nat → List Word → Nat
  | i, m :: ms, w :: ws => if w.toNat &&& m ≠ 0 then i else badMask (i + 1) ms ws
  | _, _, _ => 0

/-- The first word that a test refuses, counted from `i`. -/
def badFrom (p : Nat → Word → Bool) : Nat → List Word → Nat
  | _, [] => 0
  | i, w :: ws => if p i w then i else badFrom p (i + 1) ws

/-- The first payload word that a test refuses, counted from 1. -/
def badAt (p : Nat → Word → Bool) (pay : List Word) : Nat := badFrom p 1 pay

def eq0 (n : Nat) : Bool := n == 0
def pw (pay : List Word) (i : Nat) : Nat := (nth 0 pay (i - 1)).toNat

/-- The commands of rule R371, by CODE; none where the code is not listed. -/
def cmdForm : Nat → Option CmdForm
  | 0x00 => some { counts := eq0, boot := true }
  | 0x01 => some { counts := eq0, boot := true }
  | 0x02 => some { counts := eq0, boot := true }
  | 0x03 => some { counts := (· == 1), bad := badMask 1 [0xFFFFE0] }
  | 0x04 => some { counts := eq0, boot := true }
  | 0x05 => some { counts := fun n => decide (n ≤ 62), boot := true }
  | 0x06 => some { counts := (· == 1), boot := true, bad := badMask 1 [0x07FFFF] }
  | 0x07 => some { counts := (· == 1), boot := true, bad := badMask 1 [0xFFFC00] }
  | 0x08 => some { counts := (· == 1), sec := true, bad := badMask 1 [0xFFFFFE] }
  | 0x0A => some { counts := eq0, boot := true }
  | 0x0B => some { counts := (· == 44), boot := true,
                   bad := badAt fun i w => (i == 22 || i == 44) && bits w.toNat 15 0 != 0 }
  | 0x0C => some { counts := eq0, boot := true }
  | 0x0D => some { counts := fun n => decide (2 ≤ n ∧ n ≤ 24), bad := badMask 1 [0x00FFE0] }
  | 0x0E => some { counts := (· == 4), bad := badMask 1 [0x703FE0, 0, 0xFFFFE0] }
  | 0x10 => some { counts := (· == 2), sec := true, bad := badMask 1 [0x00FFFF] }
  | 0x11 => some { counts := (· == 5), sec := true, long := true, bad := badMask 1 [0x00FFFF, 0, 0, 0xFFFF00] }
  | 0x12 => some { counts := eq0, sec := true }
  | 0x13 => some { counts := eq0, boot := true }
  | 0x20 => some { counts := (· == 2), bad := badMask 1 [0x0FFFFF] }
  | 0x21 => some { counts := (· == 1), long := true, bad := badMask 1 [0x0FFFFF] }
  | 0x22 => some { counts := (· == 1), helm := true, long := true }
  | 0x23 => some { counts := eq0, helm := true }
  | 0x24 => some { counts := eq0, boot := true }
  | 0x25 => some { counts := (· == 1), bad := badMask 1 [0xFFFFE0] }
  | 0x26 => some { counts := (· == 2), bad := badMask 1 [0, 0x07FFFF] }
  | 0x30 => some { counts := fun n => n % 4 == 0 && decide (4 ≤ n ∧ n ≤ 60),
                   bad := badAt fun i w => i % 4 == 1 && w.toNat &&& 0xC0FC00 != 0 }
  | 0x31 => some { counts := fun n => decide (1 ≤ n ∧ n ≤ 63),
                   bad := badAt fun _ w => w.toNat &&& 0x00FC00 != 0 || bits w.toNat 23 22 == 0 || bits w.toNat 23 22 == 3 }
  | 0x32 => some { counts := fun n => n % 2 == 1 && decide (3 ≤ n ∧ n ≤ 63),
                   bad := badAt fun i w => (i == 1 && w.toNat &&& 0x0FFFFF != 0) || (i % 2 == 0 && w.toNat &&& 0xC0FC00 != 0) }
  | 0x33 => some { counts := (· == 2), bad := badMask 1 [0x0FFFFF, 0xC0FC00] }
  | 0x34 => some { counts := (· == 2), boot := true,
                   bad := fun p => if bits (pw p 1) 23 6 != 0 then 1
                     else if bits (pw p 2) 23 6 != 0 || pw p 2 == 0 || decide (62 < pw p 2) || decide (64 < pw p 1 + pw p 2) then 2
                     else 0 }
  | 0x40 => some { counts := (· == 1),
                   bad := fun p => if [phHOLD, phCRANK, phRECOVERY, phTEST].contains (pw p 1) then 0 else 1 }
  | 0x41 => some { counts := (· == 1), helm := true, bad := badMask 1 [0xFFFFF0] }
  | 0x50 => some { counts := (· == 2), boot := true, bad := fun p => if 1 ≤ pw p 2 ∧ pw p 2 ≤ 62 then 0 else 2 }
  | 0x51 => some { counts := fun n => decide (2 ≤ n ∧ n ≤ 63) }
  | 0x60 => some { counts := (· == 2), boot := true, long := true,
                   bad := fun p => if pw p 1 &&& 0x0FFF00 != 0 then 1 else if 1 ≤ pw p 2 ∧ pw p 2 ≤ 256 then 0 else 2 }
  | 0x61 => some { counts := eq0 }
  | 0x62 => some { counts := (· == 1), boot := true, long := true, bad := badMask 1 [0x0FFFFF] }
  | 0x70 => some { counts := (· == 2), sec := true, bad := badMask 1 [0x0FFFFF] }
  | 0x71 => some { counts := (· == 1), sec := true, long := true, bad := badMask 1 [0x0FFFFF] }
  | 0x72 => some { counts := eq0, sec := true }
  | 0x73 => some { counts := (· == 1), sec := true, bad := badMask 1 [0xFFFF00] }
  | 0x74 => some { counts := eq0, sec := true }
  | _ => none

/-! ## Execution (rules R361 to R363, R490) -/

/-- HIP executes commands: it runs, and its clock is not gated (rules R361, R439). -/
def Block.hipActs (s : Block) (h : HalfId) : Bool := (s.half h).live && (s.half h).hip.running && s.rung h == 0

def Hip.pair (x : Hip) (secure : Bool) : PairState := if secure then x.sec else x.nonsec

def Hip.setPair (x : Hip) (secure : Bool) (p : PairState) : Hip := if secure then { x with sec := p } else { x with nonsec := p }

/-- A header: of a command with its payload's COUNT, or of a reply with its own. -/
def header (code count seq : Nat) : Word := wd (code * 2 ^ 16 + count * 2 ^ 10 + seq)

/-- Reply words wait for MBX1 or MBX5. -/
def Block.postReply (s : Block) (h : HalfId) (secure : Bool) (words : List Word) : Block :=
  (s.modHip h fun x => let p := x.pair secure; x.setPair secure { p with out := p.out ++ words }).hipPost h (if secure then 1 else 5)

/-- The words of the reply to a command, its header first (rule R360). COUNT ends at 63: a reply that its row would make longer, that to
63 requests of EVT_CANCEL, ends there (DESIGN CHOICE, log entry 135). -/
def replyWords (hdr : Word) (words : List Word) : List Word :=
  header (bits hdr.toNat 23 16) (words.take 63).length (bits hdr.toNat 9 0) :: words.take 63

/-- A command has been executed: its reply is posted, and kept among those to the last 16 (rule R363). -/
def Block.reply (s : Block) (h : HalfId) (secure : Bool) (hdr : Word) (words : List Word) : Block :=
  let out := replyWords hdr words
  (s.modHip h fun x =>
    let p := x.pair secure
    x.setPair secure { p with done := ((hdr, out) :: p.done).take 16 }).postReply h secure out

/-- The stored reply to a command with the same header. -/
def Block.stored? (s : Block) (h : HalfId) (secure : Bool) (hdr : Word) : Option (List Word) :=
  ((((s.half h).hip.pair secure).done).find? fun x => x.1 == hdr).map Prod.snd

/-- A standalone start runs: from the entry of both halves into HOLD, or of half A with the bridge lost, to its end; half B
takes part while the bridge holds (rules R413, R416). -/
def Block.saRuns (s : Block) (h : HalfId) : Bool :=
  s.ha.hip.standalone && s.ha.live && s.phase .a == phHOLD && (if s.ha.hl.lost then h == .a else s.phase .b == phHOLD)

/-- The commands refused while a standalone start runs (rule R416). -/
def saBlocks (code : Nat) : Bool := code == 0x10 || (decide (0x20 ≤ code) && decide (code ≤ 0x26)) || code == 0x40

/-- Grounds 1 to 9 of rule R490, then a standalone start, in their order; none where none applies. `got`: payload words that arrived. -/
def Block.ground (s : Block) (h : HalfId) (secure : Bool) (code count : Nat) (pay : List Word) : Option Word :=
  match cmdForm code with
  | none => some (statusWord cCONFIG_INVALID rsUNKNOWN 0)
  | some f =>
    if !f.counts count then some (statusWord cCONFIG_INVALID rsCOUNT 0)
    else if pay.length < count then some (statusWord cCONFIG_INVALID rsTRUNCATED 0)
    else if s.phase h = phBOOT && !f.boot then some (statusWord cPHASE 0 0)
    else if f.sec && !secure then some (statusWord cSECURE_REQUIRED rsWRONG_PAIR 0)
    else if f.sec && !(s.half h).hip.session then some (statusWord cSECURE_REQUIRED rsNO_SESSION 0)
    else if f.helm && !s.holdsHelm h then some (statusWord cNOT_HELM 0 0)
    else if f.long && (s.half h).hip.long.isSome then some (statusWord cQUEUE_FULL rsBUSY 0)
    else if f.bad pay ≠ 0 then some (statusWord cCONFIG_INVALID rsRESERVED (f.bad pay))
    else if saBlocks code && s.saRuns h then some (statusWord cQUEUE_FULL rsBUSY 0)
    else none

/-- A command that comes while HIP does not act waits in the mailbox and the link block (rule R361). -/
def Block.keepCommand (s : Block) (h : HalfId) (secure : Bool) (hdr : Word) (pay : List Word) : Block :=
  if (s.half h).live then
    s.modHip h fun x => let p := x.pair secure; x.setPair secure { p with wait := p.wait ++ [(hdr, pay)] }
  else s

/-- HIP has taken a command of a pair: a header it has answered before brings the stored reply again; otherwise the first
ground for refusal is the reply, or `body` executes the command and gives the words of its reply, the status word first. A command
with words missing is discarded, so the reply to it is not kept (rules R362, R363). -/
def State.command (s : State) (h : HalfId) (secure : Bool) (hdr : Word) (pay : List Word) (body : State → State × List Word) :
    State :=
  if !s.blk.hipActs h then { s with blk := s.blk.keepCommand h secure hdr pay } else
  match s.blk.stored? h secure hdr with
  | some out => { s with blk := s.blk.postReply h secure out }
  | none =>
    match s.blk.ground h secure (bits hdr.toNat 23 16) (bits hdr.toNat 15 10) pay with
    | some st => { s with blk := if pay.length < bits hdr.toNat 15 10 then s.blk.postReply h secure (replyWords hdr [st])
                                 else s.blk.reply h secure hdr [st] }
    | none =>
      let r := body s
      { r.1 with blk := r.1.blk.reply h secure hdr r.2 }

/-- A command with all its payload. -/
def State.cmd (s : State) (h : HalfId) (secure : Bool) (code : Nat) (seq : BitVec 10) (pay : List Word)
    (body : State → State × List Word) : Host.Outcome State Fault Refusal :=
  .next (s.command h secure (header code pay.length seq.toNat) pay body)

/-- A body that touches nothing but the block. -/
def onBlk (f : Block → Block × List Word) (s : State) : State × List Word :=
  let r := f s.blk
  ({ s with blk := r.1 }, r.2)

/-- A body that only answers. -/
def answer (f : Block → List Word) : State → State × List Word := onBlk fun s => (s, f s)

/-- A refusal by a command's own condition. -/
def no (code reason index : Nat) : List Word := [statusWord code reason index]

/-! ## General commands -/

def execNop (h : HalfId) (secure : Bool) (seq : BitVec 10) (pay : List Word) (s : State) : Host.Outcome State Fault Refusal :=
  s.cmd h secure 0x00 seq pay (answer fun _ => [stOK])

def State.fuse (s : State) : HalfId → Fuses
  | .a => s.fuseA
  | .b => s.fuseB

def State.setFuse (s : State) (h : HalfId) (x : Fuses) : State :=
  match h with
  | .a => { s with fuseA := x }
  | .b => { s with fuseB := x }

def State.firm (s : State) : HalfId → Firm
  | .a => s.firmA
  | .b => s.firmB

def State.setFirm (s : State) (h : HalfId) (x : Firm) : State :=
  match h with
  | .a => { s with firmA := x }
  | .b => { s with firmB := x }

/-- The image of the slot a half runs from. -/
def Firm.running (x : Firm) : List Word := nth [] x.slots x.started

/-- IDENT. -/
def identWords (h : HalfId) (s : State) : List Word :=
  let f := s.firm h
  [stOK, 6424, 0x4145, wd (0xC2 * 2 ^ 16 + h.num * 2 ^ 15 + bitOf (s.blk.holdsHelm h) * 2 ^ 14), Config.fwVersion f.running,
   wd ((Config.fwSecver f.running).toNat * 2 ^ 16 + f.active * 2 ^ 15 + (s.fuse h).keyPos * 2 ^ 13),
   wd (Config.serial.toNat / 2 ^ 24), wd Config.serial.toNat]

def execIdent (h : HalfId) (secure : Bool) (seq : BitVec 10) (pay : List Word) (s : State) : Host.Outcome State Fault Refusal :=
  s.cmd h secure 0x01 seq pay fun s => (s, identWords h s)

/-- STATUS. -/
def statusWords (h : HalfId) (s : Block) : List Word :=
  let vacant (k : HalfId) (r : Nat) : Nat := bitOf (nth 0 (s.half k).hip.roles r == 2)
  [stOK, s.w h .ADM_STAT, s.viewWord .WTK_STAT h (s.src h) 0, s.viewWord .ANG_STAT h 0 0,
   wd (bitOf (s.half h).hl.lost * 2 ^ 23 + vacant h.peer 0 * 2 ^ 22 + vacant h 1 * 2 ^ 21 + vacant h 2 * 2 ^ 20 +
     bitOf (s.half h).hip.session * 2 ^ 19)]

def execStatus (h : HalfId) (secure : Bool) (seq : BitVec 10) (pay : List Word) (s : State) : Host.Outcome State Fault Refusal :=
  s.cmd h secure 0x02 seq pay (answer (statusWords h))

def execNoticeMask (h : HalfId) (secure : Bool) (seq : BitVec 10) (pay : List Word) (s : State) :
    Host.Outcome State Fault Refusal :=
  s.cmd h secure 0x03 seq pay (onBlk fun s => (s.modHip h fun x => { x with mask := pw pay 1 }, [stOK]))

/-- TIME: high word first. -/
def execTime (h : HalfId) (secure : Bool) (seq : BitVec 10) (pay : List Word) (s : State) : Host.Outcome State Fault Refusal :=
  s.cmd h secure 0x04 seq pay (answer fun s => [stOK, wd ((s.half h).tsc / 2 ^ 24), wd (s.tsLow h)])

def execEcho (h : HalfId) (secure : Bool) (seq : BitVec 10) (pay : List Word) (s : State) : Host.Outcome State Fault Refusal :=
  s.cmd h secure 0x05 seq pay (answer fun _ => stOK :: pay)

/-! ## Streams (rule R370) -/

def Block.stream? (s : Block) (h : HalfId) (incoming : Bool) (id : Nat) : Option Stream :=
  (s.half h).hip.streams.find? fun x => x.incoming == incoming && x.id == id

/-- QHL_BULK index of a stream. -/
def bulkIndex (incoming : Bool) (id : Nat) : Nat := if incoming then id else 16 + id

/-- A stream opens; an outgoing one holds all its words at once. -/
def Block.openStream (s : Block) (h : HalfId) (x : Stream) : Block :=
  let k := bulkIndex x.incoming x.id
  ((s.setF h F.QHL_BULK_OPEN 1 k).setF h F.QHL_BULK_FILL (if x.incoming then 0 else x.len) k).modHip h
    fun p => { p with streams := p.streams ++ [x] }

def Block.closeStream (s : Block) (h : HalfId) (incoming : Bool) (id : Nat) : Block :=
  (s.setW h .QHL_BULK 0 (bulkIndex incoming id)).modHip h
    fun p => { p with streams := p.streams.filter fun x => !(x.incoming == incoming && x.id == id) }

/-- The words an incoming stream holds; a repeated offset overwrites (rule R358). -/
def Stream.words (x : Stream) : List Word :=
  x.pieces.foldl (fun l p => (p.2.zipIdx).foldl (fun m w => m.set (p.1 + w.2) w.1) l) (List.replicate x.len 0)

/-- FILL reaches the declared length. -/
def Stream.complete (x : Stream) : Bool := decide (x.len ≤ fillOf x.pieces)

/-- An opening command: refused where the stream is open or the length above its limit. -/
def Block.openCmd (s : Block) (h : HalfId) (code id len limit arg : Nat) : Block × List Word :=
  if (s.stream? h true id).isSome then (s, no cCONFIG_INVALID rsSTREAM 1)
  else if limit < len then (s, no cCONFIG_INVALID rsSTREAM 2)
  else (s.openStream h ⟨id, true, code, len, arg, [], 0⟩, [stOK])

def execStreamAbort (h : HalfId) (secure : Bool) (seq : BitVec 10) (pay : List Word) (s : State) :
    Host.Outcome State Fault Refusal :=
  s.cmd h secure 0x06 seq pay (onBlk fun s =>
    let id := bits (pw pay 1) 23 20
    let incoming := bits (pw pay 1) 19 19 == 0
    match s.stream? h incoming id with
    | none => (s, no cCONFIG_INVALID rsSTREAM 1)
    | some x =>
      let s1 := s.closeStream h incoming id
      (if incoming then s1 else s1.modHip h fun p => { p with long := p.long.map fun c =>
        if c.code == x.code then { c with status := statusWord cCONFIG_INVALID rsSTREAM 0, result := [wd x.sent] } else c }, [stOK]))

/-! ## Notices (rules R374 to R376) -/

/-- NOTICE_REPLAY: the notices held from a SEQ on are sent again, before any newer one. -/
def noticeReplay (h : HalfId) (q : Nat) (s : Block) : Block × List Word :=
  let p := (s.half h).hip
  let oldest := ((p.replay.head?).map Notice.seq).getD p.seq
  let again := p.replay.dropWhile fun n => n.seq != q
  if again.isEmpty && q != p.seq then (s, [statusWord cPAST 0 0, wd oldest])
  else
    let before := p.out6.filter fun n => !again.contains n
    (s.modHip h fun x => { x with out6 := before ++ again }, [stOK, wd oldest])

def execNoticeReplay (h : HalfId) (secure : Bool) (seq : BitVec 10) (pay : List Word) (s : State) :
    Host.Outcome State Fault Refusal :=
  s.cmd h secure 0x07 seq pay (onBlk fun s =>
    let r := noticeReplay h (bits (pw pay 1) 9 0) s
    (r.1.hipPost h 6, r.2))

/-- A batch of records is due: 15 have gathered, or the first has been in the queue for 20 µs (rule R375; log entry 63). -/
def Half.batchDue (x : Half) : Bool :=
  decide (15 ≤ x.evn.length) || (match x.evn with
    | r :: _ => decide (4000 ≤ ticksGone r.stamp x.tsc)
    | [] => false)

/-- EVENT_NOTICE_SEND: records of the notice queue, at most 15, go into one EVENT notice. HIP pops them only when it holds
room: when no EVENT notice waits for MBX6 (rule R375). -/
def eventNotice (h : HalfId) (s : Block) : Block :=
  let x := s.half h
  if !s.hipActs h || !x.batchDue || (x.hip.out6.any fun n => n.code == 0xC3) then s else
  ((s.modHalf h fun y => { y with evn := y.evn.drop 15 }).notice h 0xC3 ((x.evn.take 15).flatMap NRec.words)).hipPost h 6

def execEventNoticeSend (h : HalfId) (s : State) : Host.Outcome State Fault Refusal := .next { s with blk := eventNotice h s.blk }

/-- FAULT_NOTICE_SEND: the oldest FAULT notice waiting (rule R434); one for every link that is up goes on the link that does not serve
the half as well (rule R416). -/
def faultNotice (h : HalfId) (s : Block) : Block :=
  let p := (s.half h).hip
  match p.faults with
  | [] => s
  | d :: rest =>
    if !s.hipActs h then s else
    let s1 := (s.modHip h fun x => { x with faults := rest, skipped := 0 }).notice h 0xC9
      (d.entry ++ [wd (bitOf d.peer * 2 ^ 23 + p.skipped * 2 ^ 15 + d.slot)])
    let s2 := if d.wide && s.linkUp (s.servedBy h).peer then
        s1.modHip h fun x => { x with bootReport := x.bootReport ++ ((x.out6.getLast?).map Notice.post).getD [] }
      else s1
    s2.hipPost h 6

def execFaultNoticeSend (h : HalfId) (s : State) : Host.Outcome State Fault Refusal := .next { s with blk := faultNotice h s.blk }

/-! ## Reset and the secure session (rules R368, R369) -/

/-- RESET: module scope needs the helm as well. The reset itself follows as HALF_RESET. -/
def execReset (h : HalfId) (secure : Bool) (seq : BitVec 10) (pay : List Word) (s : State) : Host.Outcome State Fault Refusal :=
  s.cmd h secure 0x08 seq pay (onBlk fun s =>
    let module := bits (pw pay 1) 0 0 == 1
    if module && !s.holdsHelm h then (s, no cNOT_HELM 0 0)
    else (s.modHip h fun x => { x with resetIn := some module }, [stOK]))

/-- Three bytes to a word, the first in [23:16]. -/
def packBytes : List Nat → List Word
  | a :: b :: c :: rest => wd (a * 2 ^ 16 + b * 2 ^ 8 + c) :: packBytes rest
  | _ => []

/-- SEC_CHALLENGE: a fresh nonce of 32 bytes and the half's byte; an unused nonce goes. -/
def secChallenge (h : HalfId) (s : Block) : Block × List Word :=
  let ws := packBytes ((List.range 32).map (fun i => (Config.nonceByte s.fresh i).toNat) ++ [h.num])
  ({ s with fresh := s.fresh + 1 }.modHip h fun x => { x with nonce := some ws }, stOK :: ws)

def execSecChallenge (h : HalfId) (secure : Bool) (seq : BitVec 10) (pay : List Word) (s : State) :
    Host.Outcome State Fault Refusal := s.cmd h secure 0x0A seq pay (onBlk (secChallenge h))

/-- SEC_UNLOCK: refused in a lockout; otherwise it uses the nonce, and opens the session or counts a failure. -/
def secUnlock (h : HalfId) (pay : List Word) (s : Block) : Block × List Word :=
  if nth false s.lockout h.num then (s, no cSECURE_REQUIRED rsLOCKOUT 0) else
  let key := pay.take 22
  let ok := match (s.half h).hip.nonce with
    | some n => Config.keyHashOk key && Config.signatureOk n key (pay.drop 22)
    | none => false
  let s1 := s.modHip h fun x => { x with nonce := none }
  if ok then ({ s1.modHip h fun x => { x with session := true } with fails := s1.fails.set h.num 0 }, [stOK])
  else
    let n := nth 0 s1.fails h.num + 1
    ({ s1 with fails := s1.fails.set h.num n, lockout := s1.lockout.set h.num (decide (3 ≤ n)) }, no cSECURE_REQUIRED rsSIGNATURE 0)

def execSecUnlock (h : HalfId) (secure : Bool) (seq : BitVec 10) (pay : List Word) (s : State) :
    Host.Outcome State Fault Refusal := s.cmd h secure 0x0B seq pay (onBlk (secUnlock h pay))

def execSecClose (h : HalfId) (secure : Bool) (seq : BitVec 10) (pay : List Word) (s : State) : Host.Outcome State Fault Refusal :=
  s.cmd h secure 0x0C seq pay (onBlk fun s => (s.modHip h fun x => { x with session := false }, [stOK]))

/-- SEC_LOCKOUT_END: 10 s after the third failure; the failures are counted afresh. -/
def execSecLockoutEnd (h : HalfId) (s : State) : Host.Outcome State Fault Refusal :=
  if nth false s.blk.lockout h.num then
    .next { s with blk := { s.blk with lockout := s.blk.lockout.set h.num false, fails := s.blk.fails.set h.num 0 } }
  else .next s

/-! ## CAN (rule R371) -/

/-- Data bytes of a DLC, and the payload words of a CAN_TX that carries them. -/
def dlcBytes (fdf : Bool) (dlc : Nat) : Nat :=
  if dlc ≤ 8 then dlc else if fdf then nth 64 [12, 16, 20, 24, 32, 48, 64] (dlc - 9) else 8

def canTxWords (w1 : Nat) : Nat := 2 + (dlcBytes (bits w1 21 21 == 1) (bits w1 19 16) + 2) / 3

def canTx (h : HalfId) (pay : List Word) (s : Block) : Block × List Word :=
  let n := bits (pw pay 1) 23 23
  if pay.length ≠ canTxWords (pw pay 1) then (s, no cCONFIG_INVALID rsCOUNT 0)
  else if 8 ≤ (nth ⟨[]⟩ (s.half h).can n).tx.length then (s, no cQUEUE_FULL 0 0)
  else if s.canState h n = 3 then (s, no cPHASE 0 0)
  else (s.modCan h n fun c => { c with tx := c.tx ++ [pay] }, [stOK])

def execCanTx (h : HalfId) (secure : Bool) (seq : BitVec 10) (pay : List Word) (s : State) : Host.Outcome State Fault Refusal :=
  s.cmd h secure 0x0D seq pay (onBlk (canTx h pay))

def canFilter (h : HalfId) (pay : List Word) (s : Block) : Block :=
  let k := bits (pw pay 1) 23 23 * 16 + bits (pw pay 1) 19 16
  s.modHip h fun x => { x with filters := (x.filters.filter fun f => f.1 != k) ++ [(k, pay)] }

def execCanFilter (h : HalfId) (secure : Bool) (seq : BitVec 10) (pay : List Word) (s : State) :
    Host.Outcome State Fault Refusal := s.cmd h secure 0x0E seq pay (onBlk fun s => (canFilter h pay s, [stOK]))

/-! ## Schedules (rules R168, R169, R185 to R188) -/

def execSchedLoadBegin (h : HalfId) (secure : Bool) (seq : BitVec 10) (pay : List Word) (s : State) :
    Host.Outcome State Fault Refusal :=
  s.cmd h secure 0x20 seq pay (onBlk fun s => s.openCmd h 0x20 (bits (pw pay 1) 23 20) (pw pay 2) 49152 0)

/-- A long command starts; what it will need stands in `arg` and `result`. -/
def Block.startLong (s : Block) (h : HalfId) (code : Nat) (secure : Bool) (seq : BitVec 10) (helm : Bool) (arg : Nat)
    (result : List Word) : Block × List Word :=
  (s.modHip h fun x => { x with long := some ⟨code, secure, seq.toNat, helm, arg, false, false, stOK, result⟩ }, [stPENDING])

/-- A command that closes an incoming stream: the stream opened by `opener`, with all its words. -/
def Block.closeCmd (s : Block) (h : HalfId) (opener id : Nat) (k : List Word → Block → Block × List Word) : Block × List Word :=
  match s.stream? h true id with
  | some x =>
    if x.code ≠ opener then (s, no cCONFIG_INVALID rsSTREAM 1)
    else if !x.complete then (s, no cCONFIG_INVALID rsINCOMPLETE 1)
    else k x.words (s.closeStream h true id)
  | none => (s, no cCONFIG_INVALID rsSTREAM 1)

def execSchedLoadEnd (h : HalfId) (secure : Bool) (seq : BitVec 10) (pay : List Word) (s : State) :
    Host.Outcome State Fault Refusal :=
  s.cmd h secure 0x21 seq pay (onBlk fun s =>
    s.closeCmd h 0x20 (bits (pw pay 1) 23 20) fun ws t => t.startLong h 0x21 secure seq false 0 ws)

/-- The end of a load: the image's own checks, the active set, the store, and then the image stands in the store (rules
R169, R185). -/
def Block.storeImage (s : Block) (h : HalfId) (ws : List Word) : Block × Word × List Word :=
  let x := (s.half h).sched
  let res := [wd (imgSet ws), wd (imgMode ws * 2 ^ 20)]
  let others := x.store.filter fun i => !(i.setId == imgSet ws && i.mode == imgMode ws)
  if !imageOk h ws then (s, statusWord cCONFIG_INVALID 0 0, res)
  else if others.length < x.store.length && x.active == imgSet ws then (s, statusWord cPHASE 0 0, res)
  else if 32 ≤ others.length || 163840 < total (fun i => i.words.length) others + ws.length then
    (s, statusWord cQUEUE_FULL 0 0, res)
  else (s.modSched h fun y => { y with store := others ++ [⟨imgSet ws, imgMode ws, ws⟩] }, stOK, res)

/-- The stream of the open configuration. -/
def Block.cfgStream (s : Block) (h : HalfId) : Option Stream := (s.half h).hip.streams.find? fun x => x.code == 0x10

/-- A configuration is open: the state reads so, or its stream is still open after a commit refused for missing words (rules R404,
R408; log entry 62). -/
def Block.cfgIsOpen (s : Block) (h : HalfId) : Bool := (s.half h).hip.cfg == 1 || (s.cfgStream h).isSome

/-- SCHED_ACTIVATE: refused in BOOT and SERVICE, and while a configuration is open (rules R186, R404). -/
def execSchedActivate (h : HalfId) (secure : Bool) (seq : BitVec 10) (pay : List Word) (s : State) :
    Host.Outcome State Fault Refusal :=
  s.cmd h secure 0x22 seq pay (onBlk fun s =>
    if s.phase h = phSERVICE || s.phase h = phBOOT || s.cfgIsOpen h then (s, no cPHASE 0 0)
    else s.startLong h 0x22 secure seq true (pw pay 1) [])

def execSchedDeactivate (h : HalfId) (secure : Bool) (seq : BitVec 10) (pay : List Word) (s : State) :
    Host.Outcome State Fault Refusal :=
  s.cmd h secure 0x23 seq pay (onBlk fun s => ([HalfId.a, HalfId.b].foldl Block.postDeactivation s, [stOK]))

/-- Free words: a reply that the spec does not state. -/
def Block.drawWords : Nat → Block → List Word × Block
  | 0, s => ([], s)
  | n + 1, s =>
    let d := s.draw
    let r := Block.drawWords n d.2
    (wd d.1 :: r.1, r.2)

/-- SCHED_STATUS; header words of the image in use are free values where none is. -/
def schedStatus (h : HalfId) (s : Block) : Block × List Word :=
  let head := [stOK, wd (s.half h).sched.active,
    wd (s.f h F.ADM_STAT_SCHED * 2 ^ 23 + s.f h F.ADM_STAT_CERT_OK * 2 ^ 22 + s.mode h * 2 ^ 18)]
  match s.inUse h with
  | some ws => (s, head ++ (ws.drop 20).take 11 ++ [nth 0 ws 31])
  | none => let r := Block.drawWords 12 s; (r.2, head ++ r.1)

def execSchedStatus (h : HalfId) (secure : Bool) (seq : BitVec 10) (pay : List Word) (s : State) :
    Host.Outcome State Fault Refusal := s.cmd h secure 0x24 seq pay (onBlk (schedStatus h))

def schedList (h : HalfId) (first : Nat) (s : Block) : List Word :=
  let x := (s.half h).sched
  let l := (x.store.drop first).take 30
  stOK :: wd l.length :: l.flatMap fun i =>
    [wd i.setId, wd (i.mode * 2 ^ 20 + bitOf (x.active != 0 && x.active == i.setId) * 2 ^ 19 + i.words.length)]

def execSchedList (h : HalfId) (secure : Bool) (seq : BitVec 10) (pay : List Word) (s : State) : Host.Outcome State Fault Refusal :=
  s.cmd h secure 0x25 seq pay (answer (schedList h (bits (pw pay 1) 4 0)))

/-- SCHED_DELETE: one mode of a set or all; never of the active set. A set that is not stored is at fault in word 1, a mode in word 2. -/
def schedDelete (h : HalfId) (pay : List Word) (s : Block) : Block × List Word :=
  let x := (s.half h).sched
  let every := bits (pw pay 2) 19 19 == 1
  let hit (i : Image) : Bool := i.setId == pw pay 1 && (every || i.mode == bits (pw pay 2) 23 20)
  if !x.store.any hit then
    (s, no cCONFIG_INVALID rsNOT_FOUND (if x.store.any fun i => i.setId == pw pay 1 then 2 else 1))
  else if x.active = pw pay 1 then (s, no cPHASE 0 0)
  else (s.modSched h fun y => { y with store := y.store.filter fun i => !hit i }, [stOK])

def execSchedDelete (h : HalfId) (secure : Bool) (seq : BitVec 10) (pay : List Word) (s : State) :
    Host.Outcome State Fault Refusal := s.cmd h secure 0x26 seq pay (onBlk (schedDelete h pay))

/-! ## Events, trims and credit (rules R136, R151, R155, R176) -/

/-- HIP waits until the admission checker is free. -/
def Block.admFree (s : Block) (h : HalfId) : Block :=
  let t := if s.on h F.ADM_RES_BUSY then admissionSample h s else s
  if t.on h F.ADM_RES_BUSY then (t.writeClock h false).2 else t

/-- One entry of EVT_SUBMIT through the checker; `parity`: its slot fails its parity check. The reply word of the entry. -/
def Block.submit (s : Block) (h : HalfId) (w : Nat) (entry : List Word) (parity : Bool) : Word × Block :=
  let k := bits w 21 16
  let tag := bits w 9 0
  if 0x200 ≤ tag then (wd (cCONFIG_INVALID * 2 ^ 16 + tag), s) else
  let s1 := (s.admFree h).setW h .ADM_W (nth 0 entry 0) 0
  let s2 := (s1.setW h .ADM_W (nth 0 entry 1) 1).setW h .ADM_W (nth 0 entry 2) 2
  let r := s2.sample h ⟨1, k, tag, nth 0 entry 0, nth 0 entry 1, nth 0 entry 2, none⟩
  let s3 := if r.1 = cOK then (r.2.writeClock h parity).2 else r.2
  (wd (s3.f h F.ADM_RES_CODE * 2 ^ 16 + s3.f h F.ADM_RES_SLOT * 2 ^ 12 + tag), s3)

/-- EVT_SUBMIT: the entries in order, each on its own. -/
def submitAll (h : HalfId) (parity : Nat) : Nat → List Word → Block → List Word × Block
  | i, w :: a :: b :: c :: rest, s =>
    let r := s.submit h w.toNat [a, b, c] (bits parity i i == 1)
    let q := submitAll h parity (i + 1) rest r.2
    (r.1 :: q.1, q.2)
  | _, _, s => ([], s)

def execEvtSubmit (h : HalfId) (secure : Bool) (seq : BitVec 10) (pay : List Word) (parity : BitVec 15) (s : State) :
    Host.Outcome State Fault Refusal :=
  s.cmd h secure 0x30 seq pay (onBlk fun s => let r := submitAll h parity.toNat 0 pay s; (r.2, stOK :: r.1))

/-- EVT_CANCEL: the requests in order. -/
def cancelAll (h : HalfId) : List Word → Block → List Word × Block
  | [], s => ([], s)
  | w :: rest, s =>
    let n := w.toNat
    let k := bits n 21 16
    let tag := bits n 9 0
    let byTag := bits n 23 22 == 1
    let t := s.cancelCmd h k (fun e => !byTag || e.tag == tag) byTag
    let r := cancelAll h rest t
    (wd (t.f h F.EVC_CMDRES_CODE k * 2 ^ 16 + t.f h F.EVC_CMDRES_COUNT k * 2 ^ 11 + tag) :: r.1, r.2)

def execEvtCancel (h : HalfId) (secure : Bool) (seq : BitVec 10) (pay : List Word) (s : State) : Host.Outcome State Fault Refusal :=
  s.cmd h secure 0x31 seq pay (onBlk fun s => let r := cancelAll h pay s; (r.2, stOK :: r.1))

/-- The record of the active set's schedule of a mode with a channel and tag. -/
def Block.recordOf (s : Block) (h : HalfId) (mode chan tag : Nat) : Option ERec :=
  let x := (s.half h).sched
  (x.image x.active mode).bind fun ws => (imgRecs ws).find? fun r => r.chan == chan && r.tag == tag

/-- Why a pair cannot be written: NOT_FOUND, NOT_TRIMMABLE, TRIM_RANGE; or the trims with it written. -/
def trimPair (s : Block) (h : HalfId) (mode : Nat) (trims : List Trim) (name value : Nat) (i : Nat) : List Word ⊕ List Trim :=
  let k := bits name 21 16
  let tag := bits name 9 0
  let x := (s.half h).sched
  match s.recordOf h mode k tag with
  | none => .inl (no cCONFIG_INVALID rsNOT_FOUND i)
  | some r =>
    if !r.trim then .inl (no cCONFIG_INVALID rsNOT_TRIMMABLE i) else
    let p : Int × Int := (sext 12 (bits value 23 12), sext 12 (bits value 11 0))
    let anp := ((trims.find? fun t => t.isFor x.active mode k tag).map Trim.anpP).getD (0, 0)
    let a := p.1 + anp.1
    let e := p.2 + anp.2
    if -(r.alo : Int) ≤ a ∧ a ≤ r.ahi ∧ -(r.elo : Int) ≤ e ∧ e ≤ r.ehi then
      .inr (trims.map fun t => if t.isFor x.active mode k tag then { t with hostP := p } else t)
    else .inl (no cTRIM_RANGE 0 i)

/-- The pairs of a TRIM_SET, all or none. -/
def trimPairs (s : Block) (h : HalfId) (mode : Nat) : Nat → List Trim → List Word → List Word ⊕ List Trim
  | i, trims, n :: v :: rest =>
    match trimPair s h mode trims n.toNat v.toNat i with
    | .inl w => .inl w
    | .inr l => trimPairs s h mode (i + 1) l rest
  | _, trims, _ => .inr trims

def trimSet (h : HalfId) (pay : List Word) (s : Block) : Block × List Word :=
  if (s.half h).sched.active = 0 then (s, no cPHASE 0 0) else
  match trimPairs s h (bits (pw pay 1) 23 20) 1 (s.half h).sched.trims (pay.drop 1) with
  | .inl w => (s, w)
  | .inr l => ((s.modSched h fun x => { x with trims := l }).relatch h, [stOK])

def execTrimSet (h : HalfId) (secure : Bool) (seq : BitVec 10) (pay : List Word) (s : State) : Host.Outcome State Fault Refusal :=
  s.cmd h secure 0x32 seq pay (onBlk (trimSet h pay))

/-- A trim pair in the layout of TRIM_SET. -/
def pairWord (p : Int × Int) : Word := wd (field 12 p.1 * 2 ^ 12 + field 12 p.2)

def trimRead (h : HalfId) (pay : List Word) (s : Block) : List Word :=
  let x := (s.half h).sched
  let mode := bits (pw pay 1) 23 20
  let k := bits (pw pay 2) 21 16
  let tag := bits (pw pay 2) 9 0
  if x.active = 0 then no cPHASE 0 0 else
  match s.recordOf h mode k tag with
  | none => no cCONFIG_INVALID rsNOT_FOUND 1
  | some r =>
    if !r.trim then no cCONFIG_INVALID rsNOT_TRIMMABLE 1 else
    match x.trims.find? fun t => t.isFor x.active mode k tag with
    | some t => [stOK, pairWord t.hostP, pairWord t.hostA, pairWord t.anpA]
    | none => [stOK, 0, 0, 0]

def execTrimRead (h : HalfId) (secure : Bool) (seq : BitVec 10) (pay : List Word) (s : State) : Host.Outcome State Fault Refusal :=
  s.cmd h secure 0x33 seq pay (answer (trimRead h pay))

def execCreditRead (h : HalfId) (secure : Bool) (seq : BitVec 10) (pay : List Word) (s : State) :
    Host.Outcome State Fault Refusal :=
  s.cmd h secure 0x34 seq pay (answer fun s =>
    stOK :: (List.range (pw pay 2)).map fun i => s.viewWord .ADM_CRED h (pw pay 1 + i) 0)

/-! ## Register access by command -/

/-- The master that holds the HIP role. -/
def Block.hipMaster (s : Block) (h : HalfId) : Writer := ⟨h, if nth 0 (s.half h).hip.roles 0 = 1 then .spc else .hip⟩

/-- The status of a run of register accesses. -/
def runStatus (berr : Bool) (done : Nat) : Word := if berr then statusWord cOK rsBERR done else stOK

def execRegRead (h : HalfId) (secure : Bool) (seq : BitVec 10) (pay : List Word) (s : State) : Host.Outcome State Fault Refusal :=
  s.cmd h secure 0x50 seq pay fun s =>
    let r := State.readRun (s.blk.hipMaster h) (pw pay 2) (pw pay 1) s
    (r.2.2, runStatus r.2.1 r.1.length :: r.1)

def execRegWrite (h : HalfId) (secure : Bool) (seq : BitVec 10) (pay : List Word) (s : State) : Host.Outcome State Fault Refusal :=
  s.cmd h secure 0x51 seq pay fun s =>
    if s.blk.phase h ≠ phTEST then (s, no cPHASE 0 0)
    else
      let r := State.writeRun (s.blk.hipMaster h) (pw pay 1) (pay.drop 1) s
      (r.2.2, [runStatus r.2.1 r.1])

/-! ## Log and tally (rules R431, R465) -/

/-- A long command that sends words on an outgoing stream. -/
def Block.sendLong (s : Block) (h : HalfId) (code id : Nat) (secure : Bool) (seq : BitVec 10) (ws : List Word) :
    Block × List Word :=
  if (s.stream? h false id).isSome then (s, no cCONFIG_INVALID rsSTREAM 1)
  else (s.openStream h ⟨id, false, code, ws.length, 0, [(0, ws)], 0⟩).startLong h code secure seq false id [wd ws.length]

/-- LOG_READ: entries by ring index, four words each. -/
def execLogRead (h : HalfId) (secure : Bool) (seq : BitVec 10) (pay : List Word) (s : State) : Host.Outcome State Fault Refusal :=
  s.cmd h secure 0x60 seq pay (onBlk fun s =>
    s.sendLong h 0x60 (bits (pw pay 1) 23 20) secure seq
      ((List.range (pw pay 2)).flatMap fun i => s.logEntry h ((bits (pw pay 1) 7 0 + i) % 256)))

def execLogClear (h : HalfId) (secure : Bool) (seq : BitVec 10) (pay : List Word) (s : State) : Host.Outcome State Fault Refusal :=
  s.cmd h secure 0x61 seq pay (onBlk fun s => (s.logClear h, [stOK]))

/-- The words 0x31_0000 to 0x31_01AF of a half in address order, so each upper word with the lower one before it, and none from an older
latch; addresses of no register read 0. -/
def tallyWords (h : HalfId) (s : Block) : List Word :=
  let t := s.modTal h fun x => { x with latch := Tally.fresh.latch }
  (List.range 0x1B0).map fun i =>
    match findReg (0x310000 + 0x400000 * h.num + i) with
    | some (r, k, a, b) => t.viewWord r k a b
    | none => 0

def execTallyRead (h : HalfId) (secure : Bool) (seq : BitVec 10) (pay : List Word) (s : State) : Host.Outcome State Fault Refusal :=
  s.cmd h secure 0x62 seq pay (onBlk fun s => s.sendLong h 0x62 (bits (pw pay 1) 23 20) secure seq (tallyWords h s))

/-! ## Commands that are not commands (rules R362, R371) -/

/-- COMMAND_UNKNOWN: a code that rule R371 does not list. -/
def execCommandUnknown (h : HalfId) (secure : Bool) (code : BitVec 7) (seq : BitVec 10) (pay : List Word) (s : State) :
    Host.Outcome State Fault Refusal :=
  if (cmdForm code.toNat).isSome then .next s else s.cmd h secure code.toNat seq pay fun s => (s, [])

/-- The words that HIP has taken of a command not yet complete (rule R360). -/
def Block.setPart (s : Block) (h : HalfId) (secure : Bool) (l : List Word) : Block :=
  s.modHip h fun x => x.setPair secure { x.pair secure with part := l }

/-- COMMAND_TRUNCATED: fewer than COUNT payload words came within 1 ms of the header. What HIP has taken is discarded; a command that a
reset of its endpoint has discarded before has no reply (rule R362). -/
def execCommandTruncated (h : HalfId) (secure : Bool) (hdr : Word) (pay : List Word) (s : State) :
    Host.Outcome State Fault Refusal :=
  if bits hdr.toNat 15 10 ≤ pay.length || bits hdr.toNat 23 23 == 1 || ((s.blk.half h).hip.pair secure).part != hdr :: pay then .next s
  else .next ({ s with blk := s.blk.setPart h secure [] }.command h secure hdr pay fun s => (s, []))

end Sys2Proof.Machine
end

