-- ==== Sys2Proof/Machine/ConfigCommands.lean ====
section
/-!
DEFINITION. The commands on configurations, modes and service phases: opening, checking and applying an image, agreement
between the halves, and the standalone start (chapter 18, rules R144 and R373).
-/

namespace Sys2Proof.Machine

/-! ## What an image may address (rules R399, R400, R409) -/

/-- A register that both bases carry and only the half holding the helm applies: drive-die common control, wheel front ends,
always-on control, wake logic and the timer ownership table (rules R399, R409). -/
def cfgModule (a : Nat) : Bool :=
  match findReg a with
  | some (r, _) =>
    let b := r.info.base
    b / 0x10000 == 0x80 || b / 0x10000 == 0x86 || b / 0x1000 == 0x900 || b / 0x1000 == 0x902 || b / 0x10 == 0x90110
  | none => false

/-- The WO fields that records may use as commands (rule R399). -/
def cfgCommand (r : Reg) : Bool := r == .TMR_CTRL || r == .PWM_GSTART || r == .PE_GSTART

/-- The bits of a register that record data may set (rule R399). -/
def cfgBits (a : Nat) : Nat :=
  match placeOf a with
  | .keep => 0xFFFFFF
  | .reg r _ _ _ => if cfgCommand r then r.info.rw ||| r.info.wo else r.info.rw
  | _ => 0

/-- A base's records may address it; `own` tells the timers that the half owns in the table as configured (rule R399). -/
def baseMay (h : HalfId) (own : Nat → Bool) (a : Nat) : Bool :=
  cfgBits a != 0 && (match placeOf a with
    | .keep => true
    | .reg r k i _ =>
      if r.info.perHalf then k == h
      else cfgModule a || (if r.info.base / 0x1000 = 0x901 then own i else (r.output i).any fun o => o.owner == h)
    | _ => false)

/-- An overlay's records may address it (rule R400). -/
def overlayMay (h : HalfId) (a : Nat) : Bool :=
  match findReg a with
  | some (r, k, _) => k == h && (match r with
    | .WTK_STALL | .WTK_XCFG | .ANG_RFMAX | .ANG_LRN | .EVC_CFG | .EVC_LEAD | .EVC_TOL | .ADM_DWELL | .ADM_MINAHEAD | .ADM_CRH
    | .ADM_MODEH | .ADM_STOP | .ADM_CENVN | .ADM_CENVR | .SEQ_DLIM | .SEQ_BINT | .SEQ_BUD | .PCV_CFG | .PCV_WBUF | .PCV_WLEN
    | .PCV_SCAN | .PCV_SCANN | .PCV_CYL | .PCV_CYLG | .PCV_CPCFG | .PCV_AINCFG | .ATU_CFG | .ATU_GAMMA | .ATU_MFIMEP | .ATU_MFQ
    | .ATU_RSTART | .ATU_REND | .ATU_PEG | .ATU_PREF | .ATU_REFG | .ATU_REFO | .ATU_CPG | .ATU_CPO | .ATU_CYL | .ATU_MFSEG
    | .ATU_MFTH | .ATU_CA50T | .ATU_FBG | .ATU_FB | .CMP_CFG | .CMP_TH | .CMP_HYS | .CMP_BLK | .PWM_CTRL | .PWM_DT | .PWM_MINP
    | .PWM_BS | .PWM_TRIP | .PWM_PER | .PWM_AON | .PWM_AOFF | .PWM_BON | .PWM_BOFF | .PWM_TAP | .PWM_OVR | .PWM_INIT | .PE_PROG
    | .PE_CFG | .PE_PROTO0 | .PE_PROTO1 | .PE_PIN => true
    | _ => false)
  | none => false

/-- The owner an image's ownership table gives a timer, over the table as it stands: 0 none, 1 half A, 2 half B. -/
def Block.ownsInImage (s : Block) (ws : List Word) (k : Nat) : Nat :=
  let a := if k < 12 then 0x901100 else 0x901101
  let v := ((cfgWrites ws).filter fun w => w.addr == a).foldl (CWrite.onto (rwBits a)) (s.atAddr a)
  bits v (2 * (k % 12) + 1) (2 * (k % 12))

/-! ## Record syntax (rules R398 to R400, check 6) -/

/-- A record obeys the syntax and addresses what it may. -/
def CRec.ok (may : Nat → Bool) (r : CRec) : Bool :=
  r.op != 3 && r.low == 0 && r.stride != 0 && r.writes.all fun w =>
    may w.addr && (w.val &&& (0xFFFFFF ^^^ cfgBits w.addr) == 0) && (r.op != 2 || (w.mask &&& (0xFFFFFF ^^^ cfgBits w.addr) == 0))

/-- The first record that fails a test: its 1-based index and its ADDR. -/
def firstRec (p : CRec → Bool) : Nat → List CRec → Option (Nat × Nat)
  | _, [] => none
  | i, r :: rs => if p r then firstRec p (i + 1) rs else some (i, r.addr)

/-- Check 6 over an image: the failing record, (0, 0) where none is at fault. -/
def recsBad (may : Nat → Bool) (overlay : Bool) (ws : List Word) : Option (Nat × Nat) :=
  let p := parseRecs ws.length (ws.drop 8)
  match firstRec (CRec.ok may) 1 p.1 with
  | some x => some x
  | none =>
    if let some a := p.2 then some (p.1.length + 1, a)
    else if p.1.length ≠ cfgNRec ws || (overlay && decide (1024 < (touched ws).length)) then some (0, 0)
    else none

/-! ## Applying a base (rules R401, R409) -/

/-- Registers that a base commit keeps as they stood (rule R401). -/
def cfgKeeps (r : Reg) : Bool :=
  r.info.base / 0x1000 == 0x901 || (match r with
    | .SEQ_LRN | .ATU_FB | .ANG_GEO | .ANG_PROF => true
    | _ => false)

/-- A register that a base commit sets to its reset value first. -/
def cfgResets (h : HalfId) (helm : Bool) (a : Nat) : Bool :=
  baseMay h (fun _ => false) a && (helm || !cfgModule a) && (match findReg a with
    | some (r, _) => !cfgKeeps r
    | none => false)

/-- What is enabled stops as its EN turns 0. -/
def Block.cfgStop (s : Block) (h : HalfId) : Block :=
  let each (n : Nat) (x : Fld) (f : Block → Nat → Block) (t : Block) : Block :=
    (List.range n).foldl (fun t k => if t.on h x k then f t k else t) t
  let s1 := each 2 F.WTK_CTRL_EN (fun t k => t.trkDisable h k) s
  let s2 := if s1.on h F.ANG_CTRL_EN then s1.clockDisable h else s1
  let s3 := each 64 F.EVC_CFG_EN (fun t k => t.disableChan h k) s2
  let s4 := each 32 F.CMP_CFG_EN (fun t k => t.cmpOff h k) s3
  let s5 := each 16 F.PWM_CTRL_EN (fun t k => t.pwmStop h k) s4
  let s6 := each 8 F.PE_CFG_EN (fun t k => t.peStop h k) s5
  each 2 F.CAN_CTRL_EN (fun t k => t.canJoin h k false) s6

/-- Every register that a base may address is set to its reset value, but for those kept; bits a base cannot write stay. -/
def Block.cfgClear (s : Block) (h : HalfId) : Block :=
  let helm := s.holdsHelm h
  let s1 := s.cfgStop h
  let s2 := s1.regs.foldl (fun t x =>
    if cfgResets h helm x.1 then t.putAddr x.1 (mix (t.atAddr x.1) (rwBits x.1) (regReset x.1).toNat) else t) s1
  let s3 := ((((s2.tripLines h).eulPorts h).hbDriveHalf h).syncEnv h).updateOE h
  (s3.updateOE h.peer)

/-- A tracker enabled by a record; its tables are judged by check 7, in the whole configuration (rule R59). -/
def Block.cfgTracker (s : Block) (h : HalfId) (t v : Nat) : Block :=
  if s.on h F.WTK_CTRL_EN t || bits v 23 23 = 0 then s.regWrite (s.hipMaster h) .WTK_CTRL h t 0 (wd v)
  else ((s.setW h .WTK_CTRL (wd (bits (written .WTK_CTRL (s.w h .WTK_CTRL t) (wd v)).toNat 22 0)) t).trkStart h t).done

/-- One register write of a record; false where its block's write rule refuses it. The module records of a half that does
not hold the helm write nothing. -/
def State.cfgWrite (h : HalfId) (s : State) (w : CWrite) : State × Bool :=
  if cfgModule w.addr && !s.blk.holdsHelm h then (s, true) else
  let old := match placeOf w.addr with
    | .keep => (memGet 0 s.ram w.addr).toNat
    | _ => s.blk.atAddr w.addr
  let v := mix old w.mask w.val &&& cfgBits w.addr
  let t := match placeOf w.addr with
    | .reg .WTK_CTRL k i _ => { s with blk := s.blk.cfgTracker k i v }
    | _ => s.writeAt (s.blk.hipMaster h) w.addr (wd v)
  (t, !t.blk.busErr)

def State.cfgRec (h : HalfId) (s : State) (r : CRec) : State × Bool :=
  r.writes.foldl (fun x w => if x.2 then x.1.cfgWrite h w else x) (s, true)

/-- The records in image order: the state, or the first record with a refused write. -/
def State.cfgApply (h : HalfId) : Nat → State → List CRec → State ⊕ (Nat × Nat)
  | _, s, [] => .inl s
  | i, s, r :: rs =>
    let x := s.cfgRec h r
    if x.2 then x.1.cfgApply h (i + 1) rs else .inr (i, r.addr)

/-- A base applied: clearing, records, derived values. The bus the host sees keeps its last result. -/
def State.applyBase (s : State) (h : HalfId) (ws : List Word) : State ⊕ (Nat × Nat) :=
  match State.cfgApply h 1 { s with blk := s.blk.cfgClear h } (cfgRecs ws) with
  | .inl t => .inl { t with blk := { (((t.blk.deriveVd h).hbDriveHalf h).syncEnv h) with busErr := s.blk.busErr } }
  | .inr x => .inr x

/-- The registers of a half as an overlay over an applied base makes them; a view for checks. -/
def Block.overlaid (s : Block) (ws : List Word) : Block :=
  (cfgWrites ws).foldl (fun t w => t.putAddr w.addr (w.onto (rwBits w.addr) (t.atAddr w.addr))) s

/-! ## Values and combinations refused with CONFIG_INVALID (check 7) -/

/-- The conditions of rule R197 on one configured profile of a type. -/
def Block.profileOk (s : Block) (h : HalfId) (ty p : Nat) : Bool :=
  let i := 8 * ty + p
  let ipk := s.f h F.SEQ_PW0_IPK i
  let seqs := (List.range 12).filter fun k => s.f h F.SEQ_CFG_TYPE k == ty
  let lim := if seqs.all fun k => s.paired (injBase h + k) then 240 else 120
  let level (x : Fld) : Bool := decide (s.f h x i ≤ ipk) && decide (s.f h x i ≤ lim / 2)
  let band (l w : Nat) : Bool := l == 0 || (decide (2 ≤ w) && decide (w < l))
  ipk == 0 ||
    (decide (ipk ≤ lim) && level F.SEQ_PW3_IH1 && level F.SEQ_PW5_IH2 && band ipk (s.f h F.SEQ_PW0_PKHYS i) &&
     band (s.f h F.SEQ_PW3_IH1 i) (s.f h F.SEQ_PW3_H1HYS i) && band (s.f h F.SEQ_PW5_IH2 i) (s.f h F.SEQ_PW5_H2HYS i) &&
     decide (200 ≤ s.f h F.SEQ_PW1_TB_MAX i) && decide (s.f h F.SEQ_PW1_TB_MAX i ≤ 100000) && decide (200 ≤ s.f h F.SEQ_PW6_TQ i))

/-- An input is single-ended. -/
def Block.singleEnded (s : Block) (h : HalfId) (m : Nat) : Bool := !s.on h F.PCV_AINCFG_DIFF (m / 2 * 2)

/-- The inputs a current converter's scan list names. -/
def Block.scanned (s : Block) (h : HalfId) (c : Nat) : List Nat :=
  ((List.range (s.f h F.PCV_SCANN_N c)).map fun i => s.f h F.PCV_SCAN_INPUT c i).filter fun m => decide (m < 16)

/-- PSI5 pins (rule R327). -/
def Block.psiOk (s : Block) (h : HalfId) (e : Nat) : Bool :=
  let pin := s.f h F.PE_PROTO0_SYNCPIN e
  s.f h F.PE_CFG_PROTO e != 2 ||
    (s.f h F.PE_PIN_SRC e pin == 1 && s.f h F.PE_PROTO0_RXPIN_PSI5 e != pin)

/-- The roles a half's ports take, OFF left out. -/
def Block.rolesOf (s : Block) (h : HalfId) : List Nat := ([0, 1].map fun p => s.f h F.EUL_PCFG_ROLE p).filter fun r => decide (1 ≤ r)

/-- The roles of a node's ports suit its topology: WEST and EAST in a ring or dual ring, UP and DOWN in a tree; each on one port, but
for DOWN on up to three (rules R377, R378). -/
def rolesOk (topo : Nat) (roles : List Nat) : Bool :=
  roles.all (fun r => if topo = 2 then r == 3 || r == 4 else r == 1 || r == 2) &&
  distinct (roles.filter fun r => r != 4) && decide ((roles.filter fun r => r == 4).length ≤ 3)

/-- The peer holds a committed base with a CFG_SEQ, and the bridge holds (rules R403, R410). -/
def Block.peerHas (s : Block) (h : HalfId) (seq : Nat) : Bool :=
  s.bridgeUp h && !(s.half h.peer).hip.base.isEmpty && (s.half h.peer).hip.cfgSeq == seq

/-- Each refused value or combination of a configuration, with the registers it lies in. -/
def Block.cfgFaults (s : Block) (h : HalfId) (seq : Nat) : List (Bool × List Nat) :=
  let at' (r : Reg) (i : Nat := 0) (j : Nat := 0) : Nat := r.addr h i j
  let peer := s.peerHas h seq
  ((List.range 2).flatMap fun t =>
    [(s.f h F.WTK_CTRL_REV_MODE t == 3, [at' .WTK_CTRL t]),
     (s.on h F.WTK_CTRL_EN t && !s.tablesValid h t,
      [at' .WTK_CTRL t, at' .WTK_TABN t, at' .ANG_CTRL])]) ++
  [(s.f h F.ANG_CTRL_EARLY_MODE == 3, [at' .ANG_CTRL])] ++
  ((List.range 4).flatMap fun ty => (List.range 8).map fun p =>
    (!s.profileOk h ty p, ((List.range 8).map fun w => at' (profReg w) (8 * ty + p)) ++ (List.range 12).map fun k => at' .SEQ_CFG k)) ++
  ((List.range 12).map fun n => (s.f h F.PCV_CPCFG_ALIGN n == 3, [at' .PCV_CPCFG n])) ++
  ((List.range 16).map fun m =>
    (s.f h F.PCV_AINCFG_ALIGN m == 3 || (s.f h F.PCV_AINCFG_ALIGN m == 1 && s.singleEnded h m), [at' .PCV_AINCFG m])) ++
  ((List.range 2).map fun c =>
    ((s.scanned h c).any fun m => m % 2 == 1 && !s.singleEnded h m, (List.range 16).map fun i => at' .PCV_SCAN c i)) ++
  [(s.f h F.ATU_PEG_SRC == 3, [at' .ATU_PEG]),
   (s.on h F.ATU_CFG_EN && (s.w h .ATU_VOL 0 != s.w h .ATU_VOL 720 || s.w h .ATU_VD == 0), [at' .ATU_CFG])] ++
  ((List.range 32).flatMap fun k =>
    [(decide (22 ≤ s.f h F.CMP_CFG_INSEL k) || s.f h F.CMP_CFG_MODE k == 3, [at' .CMP_CFG k]),
     (!windowOk (s.f h F.CMP_CFG_MODE k) (s.f h F.CMP_TH_TH_HI k) (s.f h F.CMP_TH_TH_LO k) (s.f h F.CMP_HYS_HYS k),
      [at' .CMP_CFG k, at' .CMP_TH k, at' .CMP_HYS k])]) ++
  ((List.range 16).map fun u =>
    ((s.on h F.PWM_BS_EN u && !s.on h F.PWM_CTRL_CMPL u) ||
      decide (64 * s.f h F.PWM_BS_BSW u < s.f h F.PWM_MINP_MINP u + s.f h F.PWM_DT_DT u),
     [at' .PWM_BS u, at' .PWM_CTRL u, at' .PWM_MINP u, at' .PWM_DT u])) ++
  ((List.range 16).map fun u =>
    (s.on h F.PWM_CTRL_EN u && (decide (s.f h F.PWM_PER_PER u < 4) || decide (s.f h F.PWM_PER_PER u ≤ s.f h F.PWM_INIT_INIT u)),
     [at' .PWM_CTRL u, at' .PWM_PER u, at' .PWM_INIT u])) ++
  ((List.range 8).flatMap fun e =>
    ((List.range 4).map fun k => (s.f h F.PE_PIN_SRC e k == 3, [at' .PE_PIN e k])) ++
    [(s.f h F.PE_CFG_PROTO e == 3 || (s.on h F.PE_CFG_CHAIN e && s.f h F.PE_CFG_PROTO e != 0), [at' .PE_CFG e]),
     (!s.psiOk h e, [at' .PE_CFG e, at' .PE_PROTO0 e])]) ++
  [(s.f h F.HLM_CFG_ISLCAN == 3, [at' .HLM_CFG]),
   (decide (3 ≤ s.f h F.EUL_NODE_TOPO), [at' .EUL_NODE]),
   (!rolesOk (s.f h F.EUL_NODE_TOPO) (s.rolesOf h ++ if peer then s.rolesOf h.peer else []), [at' .EUL_PCFG 0, at' .EUL_PCFG 1, at' .EUL_NODE]),
   (peer && (s.w h .EUL_NODE != s.w h.peer .EUL_NODE || s.w h .EUL_PRI != s.w h.peer .EUL_PRI), [at' .EUL_NODE, at' .EUL_PRI]),
   (s.on h F.EUL_PHCFG_EN && s.f h F.EUL_PHCFG_REFGRP == s.f h F.EUL_NODE_GROUP, [at' .EUL_PHCFG, at' .EUL_NODE])]

/-! ## Claims (rules R31, R116, R205, R235, R277, R296, R309, R402) -/

/-- Outputs of a kind of channel that OUT may name (rule R114). -/
def outsOf : Nat → Nat
  | 1 => 12
  | 2 => 24
  | 3 => 2
  | 4 => 8
  | 5 => 32
  | _ => 0

/-- The PWM units that half-bridges of a half name in HB_CFG.SRC, whatever EN is; one whose HB_CFG stands at its reset word names
none (rules R277, R309; log entry 70). -/
def Block.bridgeUnits (s : Block) (h : HalfId) : List Nat :=
  ((List.range 4).filter fun k => s.w .a .HB_CFG (hbBase h + k) != Reg.HB_CFG.resetAt .a (hbBase h + k) 0).map fun k =>
    s.f .a F.HB_CFG_SRC (hbBase h + k)

/-- The claims of a configuration that collide, with the registers they lie in. -/
def Block.claimFaults (s : Block) (h : HalfId) : List (Bool × List Nat) :=
  let at' (r : Reg) (i : Nat := 0) (j : Nat := 0) : Nat := r.addr h i j
  let chans := (List.range 64).filter fun k => s.f h F.EVC_CFG_KIND k != 0
  let out (k : Nat) : Nat := s.f h F.EVC_CFG_KIND k * 32 + s.f h F.EVC_CFG_OUT k
  let marks (k : Nat) : Bool := s.f h F.EVC_CFG_KIND k == 5
  let bridges := s.bridgeUnits h
  let hbs := (List.range 4).map fun k => at' .HB_CFG (hbBase h + k)
  let cyls := (List.range 24).filter fun c => s.on h F.ATU_CYL_EN c
  (chans.flatMap fun k =>
    [(decide (outsOf (s.f h F.EVC_CFG_KIND k) ≤ s.f h F.EVC_CFG_OUT k), [at' .EVC_CFG k]),
     (!marks k && chans.any fun j => decide (j < k) && out j == out k, [at' .EVC_CFG k]),
     (s.f h F.EVC_CFG_KIND k == 1 && s.f h F.EVC_CFG_OUT k % 2 == 1 && s.paired (injBase h + s.f h F.EVC_CFG_OUT k),
      [at' .EVC_CFG k, at' .INJ_CFG (injBase h + s.f h F.EVC_CFG_OUT k / 2 * 2)])]) ++
  [(!distinct bridges, hbs)] ++
  ((List.range 8).flatMap fun e => (List.range 4).map fun k =>
    (s.f h F.PE_PIN_SRC e k == 2 && bridges.contains (s.f h F.PE_PIN_UNIT e k), at' .PE_PIN e k :: hbs)) ++
  [((s.scanned h 0).any fun m => (s.scanned h 1).contains m,
    (List.range 2).flatMap fun c => (List.range 16).map fun i => at' .PCV_SCAN c i)] ++
  ((List.range 16).map fun k =>
    (s.ownsTmr h k &&
      (((s.f .a F.TMR_CFG_MLNK k != 0 || s.f .a F.TMR_CFG_OLNK k != 0) && s.tmrOwner (s.f .a F.TMR_CFG_LTGT k) != s.tmrOwner k) ||
       (s.tmrPair k && s.tmrOwner (k + 1) != s.tmrOwner k)), [at' .TMR_CFG k])) ++
  [(!distinct (cyls.map fun c => s.f h F.PCV_CYL_CP c), cyls.flatMap fun c => [at' .PCV_CYL c, at' .ATU_CYL c])]

/-- The first fault of a list, with the last record of the image that writes a register it lies in; (0, 0) for none. -/
def faultRec (ws : List Word) (l : List (Bool × List Nat)) : Option (Nat × Nat) :=
  (l.find? Prod.fst).map fun x =>
    (((cfgRecs ws).zipIdx 1).foldl (fun r q => if q.1.writes.any fun w => x.2.contains w.addr then (q.2, q.1.addr) else r) (0, 0))

/-- Words of the module records of an image, and their CRC (rules R403, R410). -/
def CRec.words (r : CRec) : List Word := wd (r.op * 2 ^ 22 + (r.count - 1) * 2 ^ 16 + r.stride * 2 ^ 8 + r.low) :: wd r.addr :: r.data

def moduleCrc (ws : List Word) : Nat :=
  crc32 (((cfgRecs ws).filter fun r => r.writes.any fun w => cfgModule w.addr).flatMap CRec.words)

/-- The claims that span both halves collide: the peer's base has the same CFG_SEQ and other module records, or both halves
claim one timer (rules R296, R403). -/
def Block.crossClaim (s : Block) (h : HalfId) (seq : Nat) (ws : List Word) : Bool :=
  let pb := (s.half h.peer).hip.base
  s.peerHas h seq && (moduleCrc pb != moduleCrc ws ||
    (List.range 16).any fun k => s.ownsInImage ws k == h.num + 1 && s.ownsInImage pb k == h.peer.num + 1)

/-! ## The checks of a commit (rule R406) -/

/-- A refusal of a commit: status word, then check order, failing record and its ADDR. -/
def cfgRefusal (code reason order : Nat) (r : Nat × Nat := (0, 0)) : Word × List Word :=
  (statusWord code reason 0, [wd order, wd r.1, wd r.2])

/-- The header fields and limits (rules R395, R396). -/
def cfgHeaderOk (h : HalfId) (mode : Nat) (ws : List Word) : Bool :=
  let lim := if mode = 0 then 98304 else 2048
  decide (8 ≤ ws.length) && decide (ws.length ≤ lim) && iw ws 0 == 0x514346 && bits (iw ws 1) 23 16 == 1 && cfgHalf ws == h.num &&
    cfgMode ws == mode && (if mode = 0 then cfgClass ws == 0 else decide (cfgClass ws ≤ 6)) && bits (iw ws 1) 3 0 == 0 &&
    iw ws 2 == ws.length && iw ws 3 != 0 && bits (iw ws 4) 23 8 == 0 && iw ws 7 == 0

/-- The first word of the commit record that does not agree with the open and with the header, 0 where all do (rules R366, R405). -/
def commitFault (id len mode : Nat) (pay ws : List Word) : Nat :=
  if bits (pw pay 1) 23 20 != id || bits (pw pay 1) 19 16 != mode then 1
  else if pw pay 2 != iw ws 2 || pw pay 2 != len then 2
  else if pw pay 3 != iw ws 3 then 3
  else if pw pay 4 != iw ws 4 then 4
  else if pw pay 5 != iw ws 5 then 5
  else 0

/-- The overlays that a base with a CFG_SEQ keeps (rule R407). -/
def Hip.keptOvls (x : Hip) (seq : Nat) : List (Nat × Nat × List Word) := x.overlays.filter fun o => cfgSeqOf o.2.2 == seq

/-- HORIZON is at least 640 in every mode that overlays make of an applied base (check 10). -/
def Block.horizonOk (s : Block) (h : HalfId) (ovls : List (Nat × Nat × List Word)) : Bool :=
  ovls.isEmpty || ([] :: ovls.map fun o => o.2.2).all fun ws => decide (640 ≤ (s.overlaid ws).f h F.ADM_MODEH_HORIZON)

/-- The bases in the end, half A's and half B's, give a cylinder of the half an injector channel of the other one (rules R31, R402; log
entry 10). -/
def Block.foreignClaim (s : Block) (h : HalfId) (base : List Word) : Bool :=
  let other := (s.half h.peer).hip.base
  match h with
  | .a => Config.foreignInjector false base other
  | .b => Config.foreignInjector true other base

/-- Checks 7 to 10 over the base applied to a scratch of the state: `base` the base in the end, `ws` the image under
commit, `ovls` the overlays held after it. -/
def Block.cfgChecks (s : Block) (h : HalfId) (seq : Nat) (base ws : List Word) (ovls : List (Nat × Nat × List Word)) :
    Option (Word × List Word) :=
  let modes := s :: ovls.map fun o => s.overlaid o.2.2
  match modes.findSome? fun t => faultRec ws (t.cfgFaults h seq) with
  | some r => some (cfgRefusal cCONFIG_INVALID 0 7 r)
  | none =>
    match modes.findSome? fun t => faultRec ws (t.claimFaults h) with
    | some r => some (cfgRefusal cCLAIM_CONFLICT 0 8 r)
    | none =>
      if s.foreignClaim h base then some (cfgRefusal cCLAIM_CONFLICT 0 8)
      else if s.crossClaim h seq base then some (cfgRefusal cCLAIM_CONFLICT 0 9)
      else if !s.horizonOk h ovls then some (cfgRefusal cCONFIG_INVALID 0 10)
      else none

/-- The result of a successful commit. -/
def cfgResult (ws : List Word) : Word × List Word :=
  (stOK, [wd (cfgSeqOf ws), wd (cfgCrcOf ws / 2 ^ 24), wd (cfgCrcOf ws)])

/-- The configuration state after a commit or an abort that changed nothing (rule R408). -/
def Block.cfgBack (s : Block) (h : HalfId) : Block :=
  s.modHip h fun x => { x with cfg := if x.base.isEmpty then 0 else 2 }

/-- A commit that changes a binding ends the active set in both halves (rules R184, R407); with no set active the peer is told
nothing. -/
def Block.cfgUnbind (s : Block) (h : HalfId) : Block :=
  let x := (s.half h).sched
  let set := match x.pendSet with
    | some n => if n = 0 then x.active else n
    | none => x.active
  let t := s.postDeactivation h
  if set = 0 then t else t.send h (.deactivate set)

/-- The OVL_CRC a schedule image carries (rule R172). -/
def imgOvlCrc (ws : List Word) : Nat := bits (iw ws 7) 7 0 * 2 ^ 24 + iw ws 8

/-- The active set holds an image for a mode whose OVL_CRC is another (rule R407). -/
def Block.ovlChanges (s : Block) (h : HalfId) (mode crc : Nat) : Bool :=
  let x := (s.half h).sched
  match x.image x.active mode with
  | some ws => imgOvlCrc ws != crc
  | none => false

/-- Checks 3 to 10 on a base, then rules R401 and R407. A base committed where none was in force differs in its binding (DESIGN
CHOICE, log entry 125). -/
def State.commitBase (s : State) (h : HalfId) (ws : List Word) : State × Word × List Word :=
  let x := (s.blk.half h).hip
  let seq := cfgSeqOf ws
  let crc := cfgCrcOf ws
  if !cfgHeaderOk h 0 ws then (s, cfgRefusal cCONFIG_INVALID rsRESERVED 3)
  else if cfgCrcCalc ws ≠ crc then (s, cfgRefusal cCONFIG_INVALID 0 4)
  else if !x.base.isEmpty && !(decide (x.cfgSeq < seq) || (seq == x.cfgSeq && crc == x.cfgCrc)) then
    (s, cfgRefusal cCONFIG_INVALID 0 5)
  else
    match recsBad (baseMay h fun k => s.blk.ownsInImage ws k == h.num + 1) false ws with
    | some r => (s, cfgRefusal cCONFIG_INVALID rsRESERVED 6 r)
    | none =>
      match s.applyBase h ws with
      | .inr r => (s, cfgRefusal cCONFIG_INVALID 0 7 r)
      | .inl t =>
        let ovls := x.keptOvls seq
        match t.blk.cfgChecks h seq ws ws ovls with
        | some r => (s, r)
        | none =>
          let b := (t.blk.modHip h fun y =>
            { y with cfg := 2, base := ws, cfgSeq := seq, cfgCrc := crc, overlays := ovls,
                     keptFb := (List.range 24).map fun c => s.blk.w h .ATU_FB c }).setOwners.modSched h
              fun y => { y with staged := none, shadowDone := false, shadowLate := false }
          let b1 := ((b.setF h F.ADM_STAT_MODE 0).setF h F.ADM_STAT_NEXTMODE 0).setF h F.ADM_STAT_MODEPEND 0
          let b2 := if x.base.isEmpty || seq ≠ x.cfgSeq || crc ≠ x.cfgCrc then b1.cfgUnbind h else b1
          ({ t with blk := b2 }, cfgResult ws)

/-- Checks 3 to 10 on an overlay, which is then stored (rules R406, R407). -/
def State.commitOverlay (s : State) (h : HalfId) (mode : Nat) (ws : List Word) : State × Word × List Word :=
  let x := (s.blk.half h).hip
  let crc := cfgCrcOf ws
  if !cfgHeaderOk h mode ws then (s, cfgRefusal cCONFIG_INVALID rsRESERVED 3)
  else if cfgCrcCalc ws ≠ crc then (s, cfgRefusal cCONFIG_INVALID 0 4)
  else if x.base.isEmpty || x.cfgSeq ≠ cfgSeqOf ws then (s, cfgRefusal cCONFIG_INVALID rsNOT_FOUND 5)
  else
    match recsBad (overlayMay h) true ws with
    | some r => (s, cfgRefusal cCONFIG_INVALID rsRESERVED 6 r)
    | none =>
      let view := match s.applyBase h x.base with
        | .inl t => t.blk
        | .inr _ => s.blk
      let others := x.overlays.filter fun o => o.1 != mode
      let ovls := others ++ [(mode, crc, ws)]
      match (view.cfgChecks h x.cfgSeq x.base ws ovls) with
      | some r => (s, r)
      | none =>
        let b := s.blk.modHip h fun y => { y with cfg := 2, overlays := ovls }
        let b1 := if s.blk.ovlChanges h mode crc then b.cfgUnbind h else b
        ({ s with blk := b1 }, cfgResult ws)

/-- A commit from its second check on: the stream's number, length and overlay, the commit record, the image. -/
def State.commit (s : State) (h : HalfId) (id len mode : Nat) (pay ws : List Word) : State × Word × List Word :=
  let i := commitFault id len mode pay ws
  if i ≠ 0 then (s, statusWord cCONFIG_INVALID rsRESERVED i, [2, 0, 0])
  else if mode = 0 then s.commitBase h ws else s.commitOverlay h mode ws

/-! ## CFG commands (rules R371, R404 to R408) -/

/-- CFG_OPEN: the half enters HOLD and the configuration state reads open. -/
def cfgOpen (h : HalfId) (pay : List Word) (s : Block) : Block × List Word :=
  let ovl := bits (pw pay 1) 19 16
  if s.cfgIsOpen h then (s, no cCONFIG_INVALID rsSTREAM 0) else
  let r := s.openCmd h 0x10 (bits (pw pay 1) 23 20) (pw pay 2) (if ovl = 0 then 98304 else 2048) ovl
  if r.2 = [stOK] then (((r.1.modHip h fun x => { x with cfg := 1 }).setPhase h phHOLD 0), [stOK]) else r

def execCfgOpen (h : HalfId) (secure : Bool) (seq : BitVec 10) (pay : List Word) (s : State) : Host.Outcome State Fault Refusal :=
  s.cmd h secure 0x10 seq pay (onBlk (cfgOpen h pay))

/-- CFG_COMMIT: with no configuration stream open it is refused at once; with FILL below the length it fails check 1 and
leaves the stream open; otherwise the stream closes and its words go to the checks. -/
def cfgCommit (h : HalfId) (secure : Bool) (seq : BitVec 10) (pay : List Word) (s : Block) : Block × List Word :=
  match s.cfgStream h with
  | none => (s, no cCONFIG_INVALID rsSTREAM 0)
  | some x =>
    if x.complete then
      (s.closeStream h true x.id).startLong h 0x11 secure seq false 0 ([wd x.id, wd x.len, wd x.arg] ++ pay ++ x.words)
    else
      let r := s.startLong h 0x11 secure seq false 1 []
      (r.1.modHip h fun y => { y with long := y.long.map fun c =>
        { c with status := statusWord cCONFIG_INVALID rsINCOMPLETE 0, result := [1, 0, 0] } }, r.2)

def execCfgCommit (h : HalfId) (secure : Bool) (seq : BitVec 10) (pay : List Word) (s : State) :
    Host.Outcome State Fault Refusal := s.cmd h secure 0x11 seq pay (onBlk (cfgCommit h secure seq pay))

/-- CFG_ABORT: refused where no configuration is open, or where its commit is already under way. -/
def cfgAbort (h : HalfId) (s : Block) : Block × List Word :=
  let x := (s.half h).hip
  if !s.cfgIsOpen h || (match x.long with | some c => c.code == 0x11 && c.arg == 0 | none => false) then
    (s, no cCONFIG_INVALID rsSTREAM 0)
  else
    let s1 := match s.cfgStream h with
      | some y => s.closeStream h true y.id
      | none => s
    (s1.cfgBack h, [stOK])

def execCfgAbort (h : HalfId) (secure : Bool) (seq : BitVec 10) (pay : List Word) (s : State) : Host.Outcome State Fault Refusal :=
  s.cmd h secure 0x12 seq pay (onBlk (cfgAbort h))

/-- CFG_STATUS. -/
def cfgStatusWords (h : HalfId) (s : Block) : List Word :=
  let x := (s.half h).hip
  [stOK, wd x.cfgSeq, wd (x.cfgCrc / 2 ^ 24 * 2 ^ 8 + x.cfg), wd x.cfgCrc,
   wd (total (fun m => if x.overlays.any fun o => o.1 == m + 1 then 2 ^ m else 0) (List.range 15))]

def execCfgStatus (h : HalfId) (secure : Bool) (seq : BitVec 10) (pay : List Word) (s : State) :
    Host.Outcome State Fault Refusal := s.cmd h secure 0x13 seq pay (answer (cfgStatusWords h))

/-! ## PHASE_SET and MODE_SET (rules R144, R373, R410) -/

/-- The halves agree, as far as one may judge it: leaving HOLD for CRANK or TEST (rule R410). -/
def Block.mayLeaveHold (s : Block) (h : HalfId) : Bool :=
  let x := (s.half h).hip
  let y := (s.half h.peer).hip
  let modes (z : Hip) : List Nat := (List.range 16).filter fun m => z.overlays.any fun o => o.1 == m
  x.cfg == 2 && (!s.bridgeUp h || (s.peerHas h x.cfgSeq && modes x == modes y && !s.crossClaim h x.cfgSeq x.base))

/-- A phase command changes the phase this way (rule R144). -/
def phaseMove (old new : Nat) : Bool :=
  (old == phHOLD && (new == phCRANK || new == phTEST)) || (old == phSERVICE && new == phRECOVERY) ||
    ((old == phCRANK || old == phSERVICE || old == phRECOVERY || old == phTEST) && new == phHOLD)

def phaseSet (h : HalfId) (pay : List Word) (s : Block) : Block × List Word :=
  let old := s.phase h
  let new := pw pay 1
  if s.cfgIsOpen h && new ≠ phHOLD then (s, no cPHASE 0 0)
  else if !phaseMove old new then (s, no cPHASE 0 0)
  else if old = phHOLD && !s.mayLeaveHold h then (s, no cCONFIG_INVALID 0 0)
  else (s.setPhase h new 0, [stOK])

def execPhaseSet (h : HalfId) (secure : Bool) (seq : BitVec 10) (pay : List Word) (s : State) : Host.Outcome State Fault Refusal :=
  s.cmd h secure 0x40 seq pay (onBlk (phaseSet h pay))

/-- MODE_SET: NEXTMODE in both halves; the mode in effect withdraws the request (rule R373). -/
def modeSet (h : HalfId) (pay : List Word) (s : Block) : Block × List Word :=
  let m := pw pay 1
  if !(s.half h).hip.hasMode m then (s, no cCONFIG_INVALID rsNOT_FOUND 1) else
  let pend := m != s.mode h
  (((s.setF h F.ADM_STAT_NEXTMODE m).setF h F.ADM_STAT_MODEPEND (bitOf pend)).send h (.nextMode m pend), [stOK])

def execModeSet (h : HalfId) (secure : Bool) (seq : BitVec 10) (pay : List Word) (s : State) : Host.Outcome State Fault Refusal :=
  s.cmd h secure 0x41 seq pay (onBlk (modeSet h pay))

/-! ## Standalone start (rules R413 to R416) -/

/-- The words of the flash on SPF0: word w in bytes 3w to 3w + 2, the highest first (rule R413). -/
def flashWords : List (BitVec 8) → List Word
  | a :: b :: c :: rest => (a ++ b ++ c) :: flashWords rest
  | _ => []

/-- An entry of the directory. -/
structure SaEntry where
  kind : Nat
  half : HalfId
  mode : Nat
  addr : Nat
  len  : Nat
  deriving DecidableEq, Repr

def saCount (flash : List Word) : Nat := bits (iw flash 1) 15 8

def saEntry (flash : List Word) (e : Nat) : SaEntry :=
  let w := iw flash (3 + 3 * e)
  ⟨bits w 23 22, if bits w 21 21 = 1 then .b else .a, bits w 20 17, iw flash (4 + 3 * e), iw flash (5 + 3 * e)⟩

def saEntries (flash : List Word) : List SaEntry := (List.range (saCount flash)).map (saEntry flash)

def SaEntry.words (flash : List Word) (x : SaEntry) : List Word := (flash.drop x.addr).take x.len

/-- The directory obeys rule R414. -/
def saDirOk (flash : List Word) : Bool :=
  let n := saCount flash
  iw flash 0 == 0x515344 && bits (iw flash 1) 23 16 == 1 && decide (1 ≤ n) && decide (n ≤ 96) && bits (iw flash 1) 7 3 == 0 &&
    (bits (iw flash 1) 2 0 == 1 || bits (iw flash 1) 2 0 == 2) && (List.range n).all fun e =>
      let w := iw flash (3 + 3 * e)
      bits w 23 22 != 3 && bits w 16 0 == 0 && (bits w 23 22 == 1) == (bits w 20 17 != 0)

/-- The signature of rule R415: directory words before the key, then every image. -/
def saSigned (flash : List Word) : Bool :=
  let d := 3 + 3 * saCount flash
  let key := (flash.drop d).take 22
  Config.keyHashOk key &&
    Config.signatureOk (flash.take d ++ (saEntries flash).flatMap (SaEntry.words flash)) key ((flash.drop (d + 22)).take 22)

/-- One entry committed or loaded; its status, and the check that failed. -/
def State.saStep (flash : List Word) (s : State) (x : SaEntry) : State × Word × List Word :=
  let ws := x.words flash
  if x.kind = 2 then
    let r := s.blk.storeImage x.half ws
    ({ s with blk := r.1 }, r.2.1, [0])
  else if x.kind = 0 then s.commitBase x.half ws
  else s.commitOverlay x.half x.mode ws

/-- The entries in order, up to the first that fails: its index, the check order and the code. -/
def State.saAll (flash : List Word) : Nat → State → List SaEntry → State × Option (Nat × Nat × Nat)
  | _, s, [] => (s, none)
  | e, s, x :: rest =>
    if x.half = .b && s.blk.ha.hl.lost then s.saAll flash (e + 1) rest else
    let r := s.saStep flash x
    if r.2.1 = stOK then r.1.saAll flash (e + 1) rest
    else (r.1, some (e, (nth 0 r.2.2 0).toNat, bits r.2.1.toNat 23 16))

/-- The set named by the directory becomes active in both halves, by the half that holds the helm (rules R186, R415). -/
def Block.saActivate (s : Block) (setId n : Nat) : Block × Option (Nat × Nat × Nat) :=
  if setId = 0 then (s, none)
  else if !s.holdsHelm .a && !s.holdsHelm .b then (s, some (n, 0, cNOT_HELM)) else
  let v := (s.activationCheck setId).1
  if v.code = cOK then ([HalfId.a, HalfId.b].foldl (Block.postActivation setId) s, none) else (s, some (n, v.order, v.code))

/-- The halves that take part enter CRANK. -/
def Block.saCrank (s : Block) (n : Nat) : Block × Option (Nat × Nat × Nat) :=
  let hs := if s.ha.hl.lost then [HalfId.a] else [HalfId.a, HalfId.b]
  if hs.all s.mayLeaveHold then (hs.foldl (fun t h => t.setPhase h phCRANK 7) s, none) else (s, some (n, 0, cCONFIG_INVALID))

/-- The whole start over the words of the flash, and where it failed. -/
def State.saRun (s : State) (flash : List Word) : State × Option (Nat × Nat × Nat) :=
  let n := saCount flash
  if !saDirOk flash then (s, some (255, 0, cCONFIG_INVALID))
  else if !saSigned flash then (s, some (255, 0, cSECURE_REQUIRED))
  else
    match State.saAll flash 0 s (saEntries flash) with
    | (t, some f) => (t, some f)
    | (t, none) =>
      match t.blk.saActivate (iw flash 2) n with
      | (b, some f) => ({ t with blk := b }, some f)
      | (b, none) =>
        if bits (iw flash 1) 2 0 = 2 then
          let r := b.saCrank n
          ({ t with blk := r.1 }, r.2)
        else ({ t with blk := b }, none)

/-- STANDALONE_START: `flash` holds the bytes of the flash on SPF0 from byte 0 on. A failure is a class 1 report of half A, whose FAULT
notice goes on every link that is up (rule R416). -/
def execStandaloneStart (flash : List (BitVec 8)) (s : State) : Host.Outcome State Fault Refusal :=
  if !s.blk.saRuns .a || !s.blk.hipActs .a then .next s else
  let r := s.saRun (flashWords flash)
  let b := r.1.blk.modHip .a fun x => { x with standalone := false }
  .next { r.1 with blk := match r.2 with
    | some (e, order, code) => b.reportAs true .a code 1 23 127 (order % 256 * 256 + e)
    | none => b }

end Sys2Proof.Machine
end

