-- ==== Sys2Proof/Machine/LongCommands.lean ====
section
/-!
DEFINITION. The commands on firmware and security versions, and the end of a long command with its COMPLETION notice
(rules R331, R367, R372).
-/

namespace Sys2Proof.Machine

/-! ## Firmware (rules R331, R371, R372) -/

def Firm.inactive (x : Firm) : Nat := 1 - x.active

def Firm.slot (x : Firm) (i : Nat) : List Word := nth [] x.slots i

/-- An image verifies with a key position and carries at least a security version (rule R331). -/
def fwGood (keyPos secver : Nat) (ws : List Word) : Bool :=
  Config.fwVerifies keyPos ws && decide (secver ≤ (Config.fwSecver ws).toNat)

/-- HOLD or TEST. -/
def Block.fwPhase (s : Block) (h : HalfId) : Bool := s.phase h == phHOLD || s.phase h == phTEST

def execFwBegin (h : HalfId) (secure : Bool) (seq : BitVec 10) (pay : List Word) (s : State) : Host.Outcome State Fault Refusal :=
  s.cmd h secure 0x70 seq pay (onBlk fun s =>
    if !s.fwPhase h then (s, no cPHASE 0 0) else s.openCmd h 0x70 (bits (pw pay 1) 23 20) (pw pay 2) 196608 0)

def execFwEnd (h : HalfId) (secure : Bool) (seq : BitVec 10) (pay : List Word) (s : State) : Host.Outcome State Fault Refusal :=
  s.cmd h secure 0x71 seq pay (onBlk fun s =>
    s.closeCmd h 0x70 (bits (pw pay 1) 23 20) fun ws t => t.startLong h 0x71 secure seq false 0 ws)

/-- FW_SELECT: the inactive slot, when FW_END verified it, becomes the active one at the next boot. Its row gives NOT_FOUND before PHASE
(rule R490). -/
def fwSelect (h : HalfId) (s : State) : State × List Word :=
  let x := s.firm h
  if !x.checked then (s, no cCONFIG_INVALID rsNOT_FOUND 0)
  else if !s.blk.fwPhase h then (s, no cPHASE 0 0)
  else (s.setFirm h { x with active := x.inactive }, [stOK])

def execFwSelect (h : HalfId) (secure : Bool) (seq : BitVec 10) (pay : List Word) (s : State) :
    Host.Outcome State Fault Refusal := s.cmd h secure 0x72 seq pay (fwSelect h)

/-- SECVER_SET: both slots verify and carry the new version or a later one, and it lies above the present minimum. -/
def secverSet (h : HalfId) (v : Nat) (s : State) : State × List Word :=
  let f := s.fuse h
  if decide (f.secver < v) && [0, 1].all fun i => fwGood f.keyPos v ((s.firm h).slot i) then
    (s.setFuse h { f with secver := v }, [stOK])
  else (s, no cCONFIG_INVALID rsVERSION 1)

def execSecverSet (h : HalfId) (secure : Bool) (seq : BitVec 10) (pay : List Word) (s : State) :
    Host.Outcome State Fault Refusal := s.cmd h secure 0x73 seq pay (secverSet h (pw pay 1))

/-- KEY_ADVANCE: the next key position, when both slots verify with its key; never past the fourth. -/
def keyAdvance (h : HalfId) (s : State) : State × List Word :=
  let f := s.fuse h
  if decide (f.keyPos < 3) && [0, 1].all fun i => Config.fwVerifies (f.keyPos + 1) ((s.firm h).slot i) then
    (s.setFuse h { f with keyPos := f.keyPos + 1 }, [stOK, wd (f.keyPos + 1)])
  else (s, no cCONFIG_INVALID rsVERSION 0)

def execKeyAdvance (h : HalfId) (secure : Bool) (seq : BitVec 10) (pay : List Word) (s : State) :
    Host.Outcome State Fault Refusal := s.cmd h secure 0x74 seq pay (keyAdvance h)

/-- The end of FW_END: the image stands in the inactive slot and has been verified. -/
def State.fwStore (s : State) (h : HalfId) (ws : List Word) : State × Word × List Word :=
  let x := s.firm h
  let f := s.fuse h
  let ok := fwGood f.keyPos f.secver ws
  let st := if ok then stOK
    else if Config.fwVerifies f.keyPos ws then statusWord cCONFIG_INVALID rsVERSION 0
    else statusWord cSECURE_REQUIRED rsSIGNATURE 0
  (s.setFirm h { x with slots := x.slots.set x.inactive ws, checked := ok }, st,
   [Config.fwVersion ws, wd ((Config.fwSecver ws).toNat * 2 ^ 16)])

/-! ## LONG_COMMAND_COMPLETE (rules R186, R187, R367, R370, R406) -/

/-- The end of SCHED_ACTIVATE: the checks' verdict; a set that passes is active by then. -/
def Block.activateEnd (s : Block) (c : LongCmd) : Block × Word × List Word :=
  if c.posted then (s, stOK, [0, 0]) else
  let v := s.activationCheck c.arg
  if v.1.code = cOK then ([HalfId.a, HalfId.b].foldl (Block.postActivation c.arg) s, stOK, [0, 0])
  else (s, statusWord v.1.code 0 0, [wd (v.1.order * 2 ^ 16 + v.2.num * 2 ^ 15 + v.1.mode * 2 ^ 11), wd v.1.item])

/-- The end of CFG_COMMIT; a refused commit leaves the configuration in force before, one with words missing leaves its stream open
(rules R370, R406, R408). -/
def State.commitEnd (s : State) (h : HalfId) (c : LongCmd) : State × Word × List Word :=
  if c.arg = 1 then ({ s with blk := s.blk.cfgBack h }, c.status, c.result) else
  let p := c.result
  let r := s.commit h (iw p 0) (iw p 1) (iw p 2) ((p.drop 3).take 5) (p.drop 8)
  if r.2.1 = stOK then r else ({ r.1 with blk := r.1.blk.cfgBack h }, r.2)

/-- The end of a command that sends words: OK once all are sent; otherwise what closed its stream has set. -/
def Block.sendEnd (s : Block) (h : HalfId) (c : LongCmd) : Option (Block × Word × List Word) :=
  match s.stream? h false c.arg with
  | some x =>
    if x.code = c.code then
      if x.len ≤ x.sent then some (s.closeStream h false c.arg, stOK, c.result) else none
    else some (s, c.status, c.result)
  | none => some (s, c.status, c.result)

/-- What a long command ends with; none while it cannot end yet. -/
def State.longEnd (s : State) (h : HalfId) (c : LongCmd) : Option (State × Word × List Word) :=
  let lift (r : Block × Word × List Word) : State × Word × List Word := ({ s with blk := r.1 }, r.2)
  if c.helm && !c.posted && (c.helmLost || !s.blk.holdsHelm h) then some (s, statusWord cNOT_HELM 0 0, [])
  else match c.code with
    | 0x11 => some (s.commitEnd h c)
    | 0x21 => some (lift (s.blk.storeImage h c.result))
    | 0x22 => some (lift (s.blk.activateEnd c))
    | 0x71 => some (s.fwStore h c.result)
    | _ => (s.blk.sendEnd h c).map lift

/-- LONG_COMMAND_COMPLETE: the COMPLETION notice with the result. -/
def longComplete (h : HalfId) (s : State) : State :=
  match (s.blk.half h).hip.long with
  | none => s
  | some c =>
    if !s.blk.hipActs h then s else
    match s.longEnd h c with
    | none => s
    | some (t, st, ws) =>
      let b := t.blk.modHip h fun x => { x with long := none }
      { t with blk := (b.notice h 0xD0 (wd (c.code * 2 ^ 16 + bitOf (!c.secure) * 2 ^ 15 + c.seq) :: st :: ws)).hipPost h 6 }

def execLongCommandComplete (h : HalfId) (s : State) : Host.Outcome State Fault Refusal := .next (longComplete h s)

end Sys2Proof.Machine
end

