-- ==== Sys2Proof/Machine/HostCommands.lean ====
section
/-!
DEFINITION. Commands as words: a header that HIP has taken picks its command, which runs once its payload is there, and commands that
came before HIP acted run when it starts (rules R360, R361).
-/

namespace Sys2Proof.Machine

/-- The command that a header's CODE names, with all its payload; a code that no command has is answered so, and one above 0x7F is none.
No slot of an entry submitted so fails its parity check. -/
def hostOutcome (h : HalfId) (secure : Bool) (hdr : Word) (pay : List Word) (s : State) : Host.Outcome State Fault Refusal :=
  let seq : BitVec 10 := BitVec.ofNat 10 (bits hdr.toNat 9 0)
  match bits hdr.toNat 23 16 with
  | 0x00 => execNop h secure seq pay s
  | 0x01 => execIdent h secure seq pay s
  | 0x02 => execStatus h secure seq pay s
  | 0x03 => execNoticeMask h secure seq pay s
  | 0x04 => execTime h secure seq pay s
  | 0x05 => execEcho h secure seq pay s
  | 0x06 => execStreamAbort h secure seq pay s
  | 0x07 => execNoticeReplay h secure seq pay s
  | 0x08 => execReset h secure seq pay s
  | 0x0A => execSecChallenge h secure seq pay s
  | 0x0B => execSecUnlock h secure seq pay s
  | 0x0C => execSecClose h secure seq pay s
  | 0x0D => execCanTx h secure seq pay s
  | 0x0E => execCanFilter h secure seq pay s
  | 0x10 => execCfgOpen h secure seq pay s
  | 0x11 => execCfgCommit h secure seq pay s
  | 0x12 => execCfgAbort h secure seq pay s
  | 0x13 => execCfgStatus h secure seq pay s
  | 0x20 => execSchedLoadBegin h secure seq pay s
  | 0x21 => execSchedLoadEnd h secure seq pay s
  | 0x22 => execSchedActivate h secure seq pay s
  | 0x23 => execSchedDeactivate h secure seq pay s
  | 0x24 => execSchedStatus h secure seq pay s
  | 0x25 => execSchedList h secure seq pay s
  | 0x26 => execSchedDelete h secure seq pay s
  | 0x30 => execEvtSubmit h secure seq pay 0 s
  | 0x31 => execEvtCancel h secure seq pay s
  | 0x32 => execTrimSet h secure seq pay s
  | 0x33 => execTrimRead h secure seq pay s
  | 0x34 => execCreditRead h secure seq pay s
  | 0x40 => execPhaseSet h secure seq pay s
  | 0x41 => execModeSet h secure seq pay s
  | 0x50 => execRegRead h secure seq pay s
  | 0x51 => execRegWrite h secure seq pay s
  | 0x60 => execLogRead h secure seq pay s
  | 0x61 => execLogClear h secure seq pay s
  | 0x62 => execTallyRead h secure seq pay s
  | 0x70 => execFwBegin h secure seq pay s
  | 0x71 => execFwEnd h secure seq pay s
  | 0x72 => execFwSelect h secure seq pay s
  | 0x73 => execSecverSet h secure seq pay s
  | 0x74 => execKeyAdvance h secure seq pay s
  | code => if code < 0x80 then execCommandUnknown h secure (BitVec.ofNat 7 code) seq pay s else .next s

/-- The state after a command that words spell. -/
def State.hostCommand (s : State) (h : HalfId) (secure : Bool) (hdr : Word) (pay : List Word) : State :=
  match hostOutcome h secure hdr pay s with
  | .next t => t
  | _ => s

/-- HIP has taken a word of MBX0 or MBX4: the command runs once COUNT payload words have followed its header. -/
def State.hipWord (s : State) (h : HalfId) (secure : Bool) (w : Word) : State :=
  match ((s.blk.half h).hip.pair secure).part ++ [w] with
  | [] => s
  | hdr :: pay =>
    if pay.length < bits hdr.toNat 15 10 then { s with blk := s.blk.setPart h secure (hdr :: pay) }
    else { s with blk := s.blk.setPart h secure [] }.hostCommand h secure hdr pay

/-- HIP acts again, or for the first time: the commands that waited run, each pair's in their order. -/
def State.runWaiting (s : State) (h : HalfId) : State :=
  if !s.blk.hipActs h then s else
  let x := (s.blk.half h).hip
  let b := s.blk.modHip h fun y => { y with sec := { y.sec with wait := [] }, nonsec := { y.nonsec with wait := [] } }
  let run (secure : Bool) (t : State) (c : Word × List Word) : State := t.hostCommand h secure c.1 c.2
  x.nonsec.wait.foldl (run false) (x.sec.wait.foldl (run true) { s with blk := b })

/-- HIP takes a word of a command from MBX0 or MBX4. -/
def Block.hipTakes (s : Block) (h : HalfId) (m : Nat) (who : Master) : Bool :=
  (m == 0 || m == 4) && s.roleOf h who == some 0 && s.powered .MBX_DATA h && s.mbxFull h m && s.hipActs h

def execMbxTake (h : HalfId) (m : Fin 16) (who : Master) (s : State) : Host.Outcome State Fault Refusal :=
  let w := s.blk.w h .MBX_DATA m.val
  if s.blk.hipTakes h m.val who then
    let t := { s with blk := s.blk.mbxTake h m.val who }.hipWord h (m.val == 0) w
    .next { t with blk := { t.blk with busErr := false, busData := w } }
  else s.access .MBX_DATA h (s.blk.mbxTake h m.val who)

end Sys2Proof.Machine
end

