-- ==== Sys2Proof/Machine/Power.lean ====
section
/-!
DEFINITION. Power, clocks, resets, start-up and the ladder (chapter 20), and the parity errors of the drive die (rule R428).
-/

namespace Sys2Proof.Machine

/-! ## Resets (rules R428, R445, R448, R449) -/

/-- Registers of both halves that the tally's store holds (rule R462). -/
def tallyStored (a : Nat) : Bool :=
  let o := a % 0x400000
  decide (a < 0x800000) && keptOffset o && decide (0x310000 ≤ o)

/-- A timer that fails its test takes an unused good spare, or reads FAILED (rule R306); the half's tally records it. -/
def Block.timerFails (s : Block) (k : Nat) : Block :=
  let used := s.f .a F.TMR_SPARE_USED
  let gone := used ||| s.f .a F.TMR_SPARE_SFAIL
  let note (brought : Bool) (left : Nat) (t : Block) (h : HalfId) : Block :=
    let t1 := (t.poolUse h 6 k brought).modHalf h fun x =>
      x.addNotice 0xCE [wd (6 * 2 ^ 20 + bitOf (!brought) * 2 ^ 18 + k * 2 ^ 11 + left), 0, 0]
    t1.report h cOK 1 22 k 0
  match [0, 1].find? fun i => bits gone i i = 0 with
  | some i =>
    let left := ([0, 1].filter fun j => j != i && bits gone j j == 0).length
    let s1 := (s.setF .a F.TMR_SPARE_USED (putBits used i i 1)).setF .a F.TMR_STAT_SPARE 1 k
    [HalfId.a, HalfId.b].foldl (note true left) s1
  | none => [HalfId.a, HalfId.b].foldl (note false 0) (s.setF .a F.TMR_STAT_FAILED 1 k)

/-- Everything is reset but what lies in non-volatile stores: the tally with the repairs and wear notices it records, as last committed
(rule R462). -/
def Block.aonReset (s : Block) : Block :=
  let keep (h : HalfId) : Half :=
    let k := (s.half h).tal.store
    { Half.reset with lost := k.lost, slotDue := k.slotDue, sram := ⟨[], k.spare, []⟩, tal := { Tally.fresh with
      replaced := k.replaced
      store := k
      wear := Tally.fresh.wear.zipIdx.map fun (w : Wear × Nat) => { w.1 with warned := nth 0 k.warned w.2 } } }
  { Block.reset with regs := s.regs.filter (fun x => tallyStored x.1), ha := keep .a, hb := keep .b, keyIn := s.keyIn,
                     fresh := s.fresh }

/-- AON_POWER_ON: VAON crosses its release threshold; `timers` fail their test, and so do the spares `spares`. -/
def execAonPowerOn (timers : List (Fin 16)) (spares : List (Fin 2)) (s : State) : Host.Outcome State Fault Refusal :=
  let b := s.blk.aonReset.setF .a F.TMR_SPARE_SFAIL (total (fun i => if spares.any fun j => j.val == i then 2 ^ i else 0) [0, 1])
  let bad := (List.range 16).filter fun k => timers.any fun j => j.val == k
  .next { s with blk := bad.foldl Block.timerFails b, ram := [] }

/-- SUPPLY_BELOW_THRESHOLD: die 0 half A, 1 half B, 2 the drive die. -/
def execSupplyBelowThreshold (die : Fin 3) (s : State) : Host.Outcome State Fault Refusal :=
  .next { s with blk := if die.val = 0 then s.blk.resetHalf .a 2 else if die.val = 1 then s.blk.resetHalf .b 2 else s.blk.resetModule 2 }

def execResetNLow (s : State) : Host.Outcome State Fault Refusal := .next { s with blk := s.blk.resetModule 3 }

def execJtagReset (h : HalfId) (s : State) : Host.Outcome State Fault Refusal := .next { s with blk := s.blk.resetHalf h 0x0B }

/-- REFCLK_LOSS: while the oscillator is meant to run, that is, while a half is above Kiln; both dies are held in reset. -/
def refclkLoss (s : Block) : Block :=
  if 4 ≤ s.rung .a && decide (4 ≤ s.rung .b) then s else
  let note (t : Block) (h : HalfId) : Block := if (t.half h).live then t.report h cOK 0 26 127 (3 * 256 + 1) else t
  let s1 := [HalfId.a, HalfId.b].foldl note s
  (s1.resetHalf .a 0x0A).resetHalf .b 0x0A

def execRefclkLoss (s : State) : Host.Outcome State Fault Refusal := .next { s with blk := refclkLoss s.blk }

/-- HALF_RESET: the reset that a RESET command ordered, of the half or of the module. -/
def halfReset (h : HalfId) (s : Block) : Block :=
  match (s.half h).hip.resetIn with
  | none => s
  | some false => s.resetHalf h 4
  | some true => s.resetModule 5

def execHalfReset (h : HalfId) (s : State) : Host.Outcome State Fault Refusal := .next { s with blk := halfReset h s.blk }

/-- A class 4 fault in the drive die, seen by half `h`. -/
def execDriveDieParityError (h : HalfId) (s : State) : Host.Outcome State Fault Refusal :=
  if (s.blk.half h).live then
    .next { s with blk := s.blk.fatal h 4 cOK 27 127 (bits (s.blk.w .a .DRV_STAT).toNat 23 20) true }
  else .next s

/-! ## Start (rules R331, R446, R447, R450 to R452, R457) -/

/-- RESET_RELEASE: the die leaves reset with the straps as it samples them; HELMPRE low prefers half A (rules R419, R451). -/
def resetRelease (h : HalfId) (helmpre sastart : Bool) (s : Block) : Block :=
  if (s.half h).live || s.rung h != 0 then s else
  let s1 := s.modHalf h fun x => { x with live := true, hip := { x.hip with standalone := sastart && h == .a } }
  let s2 := ((s1.setF h F.HLM_STAT_PREF (bitOf (helmpre == (h == .b)))).setF h F.CRP_STAT_REFOK 1).modHl h
    fun y => { y with straps := (helmpre, sastart) }
  if s2.holdsHelm h.peer && (s2.half h.peer).live then s2 else s2.showStraps h

def execResetRelease (h : HalfId) (helmpre sastart : Bool) (s : State) : Host.Outcome State Fault Refusal :=
  .next { s with blk := resetRelease h helmpre sastart s.blk }

/-- The lock bits of the SYSCLK, ANGCLK, ADCCLK and HLCLK PLLs. -/
def lockFld : Nat → Fld
  | 0 => F.CRP_STAT_SYSLOCK
  | 1 => F.CRP_STAT_ANGLOCK
  | 2 => F.CRP_STAT_ADCLOCK
  | _ => F.CRP_STAT_HLLOCK

def Block.allLocked (s : Block) (h : HalfId) : Bool := [0, 1, 2, 3].all fun i => s.on h (lockFld i)

/-- PLL_LOCK: at start, after a loss, and on a wake from Steep or below. With HLCLK the host link starts training. -/
def pllLock (h : HalfId) (pll : Nat) (s : Block) : Block :=
  if !(s.half h).live || (2 ≤ s.rung h && (s.half h).pwr.waking.isNone) then s else
  let s1 := s.setF h (lockFld pll) 1
  if pll = 3 && s1.f h F.QHL_STAT_STATE == lkDOWN then s1.setF h F.QHL_STAT_STATE lkTRAIN else s1

def execPllLock (h : HalfId) (pll : Fin 4) (s : State) : Host.Outcome State Fault Refusal :=
  .next { s with blk := pllLock h pll.val s.blk }

/-- PLL_LOCK_LOSS, with the consequence of rule R446; without ADCCLK the converters' slots count 0, which starts the certificate recheck
(rule R245). -/
def pllLoss (h : HalfId) (pll : Nat) (s : Block) : Block :=
  if !s.on h (lockFld pll) then s else
  if pll < 2 then s.fatal h 3 cOK 26 127 (3 * 256 + 2 + pll) false else
  let s1 := (s.setF h (lockFld pll) 0).report h cOK 1 26 127 (3 * 256 + 2 + pll)
  if pll = 3 then s1.linkFalls h lkTRAIN else s1.modHalf h fun x => { x with sched := { x.sched with lossDue := true } }

def execPllLockLoss (h : HalfId) (pll : Fin 4) (s : State) : Host.Outcome State Fault Refusal :=
  .next { s with blk := pllLoss h pll.val s.blk }

/-- The slot that the boot ROM starts, the active one before the other, with the result of the BOOT notice. -/
def bootSlot (f : Fuses) (x : Firm) : Option (Nat × Nat) :=
  if fwGood f.keyPos f.secver (x.slot x.active) then some (x.active, 0)
  else if fwGood f.keyPos f.secver (x.slot x.inactive) then some (x.inactive, 1)
  else none

/-- Causes of a reset that has its own log entry: the class 3 and class 4 faults of the half, and REFCLK loss. -/
def causeLogged (c : Nat) : Bool := c == 6 || c == 7 || c == 8 || c == 0x0A

/-- FIRMWARE_VERIFY: the BOOT notice, and the firmware starts where an image passes, HIP with the
commands that wait for it (rule R361); otherwise the half stays in BOOT. -/
def firmwareVerify (h : HalfId) (s : State) : State :=
  let b := s.blk
  if !(b.half h).live || b.phase h != phBOOT || (b.half h).hip.running || !b.allLocked h then s else
  let x := s.firm h
  let cause := b.f h F.CRP_STAT_RCAUSE
  match bootSlot (s.fuse h) x with
  | some (i, res) =>
    let b1 := b.modHalf h fun y =>
      { y with hip := { y.hip with running := true } }.addNotice 0xC0
        [wd (res * 2 ^ 16 + i * 2 ^ 15), Config.fwVersion (x.slot i), wd cause]
    let b2 := if causeLogged cause then b1 else b1.report h cOK 0 26 127 cause
    (({ s with blk := b2.hipPost h 6 }).setFirm h { x with started := i }).runWaiting h
  | none =>
    let b1 := b.modHalf h fun y =>
      let z := y.addNotice 0xC0 [wd (2 * 2 ^ 16 + x.active * 2 ^ 15), 0, wd cause]
      { z with hip := { z.hip with bootReport := ((z.hip.out6.getLast?).map Notice.post).getD [] } }
    { s with blk := b1.hipPost h 6 }

def execFirmwareVerify (h : HalfId) (s : State) : Host.Outcome State Fault Refusal := .next (firmwareVerify h s)

/-- Segments retired, as a record of those in service shows them: those of the eight that are out, and the spare segment
where it is out and one of them was replaced (rules R456, R457). -/
def retiredOf (insvc : Nat) : Nat :=
  let out := 0xFF - insvc % 256
  out + (if out ≠ 0 && bits insvc 8 8 = 0 then 256 else 0)

/-- The half restores the segments of its stages from the tally, and with them every permanent latch (rule R457). -/
def Block.restoreStages (s : Block) (h : HalfId) : Block :=
  if !nth false s.segDue h.num then s else
  let stage (seg : Reg) (insvc retired : Fld) (base r0 : Nat) (mk : Nat → Option Output) (t : Block) (k : Nat) : Block :=
    let n := t.f h F.TAL_W0_INSVC (r0 + k)
    let t1 := ((t.setW .a seg 0 (base + k)).setF .a insvc n (base + k)).setF .a retired (retiredOf n) (base + k)
    match mk (base + k) with
    | some o => if t1.permanent o then t1.trip o caSW else t1
    | none => t1
  let inj (n : Nat) : Option Output := if hn : n < 24 then some (.inj ⟨n, hn⟩) else none
  let bhs (n : Nat) : Option Output := if hn : n < 12 then some (.bhs ⟨n, hn⟩) else none
  let s1 := (List.range 12).foldl (stage .INJ_SEG F.INJ_SEG_INSVC F.INJ_SEG_RETIRED (injBase h) 0 inj) s
  let s2 := (List.range 6).foldl (stage .BHS_SEG F.BHS_SEG_INSVC F.BHS_SEG_RETIRED (bhsBase h) 12 bhs) s1
  { s2 with segDue := s2.segDue.set h.num false }

/-- Cask `k` after the self-test: one faulty slot is replaced by the spare, every further one is lost (rules R125, R463). A slot that
failed its parity check has been counted then. -/
def Block.bootSlots (s : Block) (h : HalfId) (news : List (Fin 64)) (k : Nat) : Block :=
  let index := 64 * h.num + k
  let recorded := (s.half h).tal.replaced.contains (7, index)
  let fresh := (news.filter fun c => c.val == k).length
  if !recorded && fresh = 0 then s else
  let more := if recorded then fresh else fresh - 1
  let s1 := (s.setF h F.EVC_STAT_SPAREUSE 1 k).modHalf h fun x =>
    { x with lost := x.lost.set k (nth 0 x.lost k + more), slotDue := x.slotDue.set k false }
  let s2 := if recorded then s1 else s1.spareEvent h 7 true index 0 0 2 k 0
  (List.range more).foldl (fun t _ => t.spareEvent h 7 false index 0 0 2 k 0) s2

/-- The self-tests of BOOT: cask slots, comparators, converters and cores (rules R125, R243, R275, R332). -/
def Block.selfTest (s : Block) (h : HalfId) (x : SelfTest) : Block :=
  let s1 := (List.range 64).foldl (fun t k => t.bootSlots h x.slots k) s
  let bad := total (fun i => if x.spares.any fun j => j.val == i then 2 ^ i else 0) (List.range 4)
  let s2 := ((List.range 32).filter fun k => x.comps.any fun j => j.val == k).foldl (fun t k => t.cmpReplace h k)
    (s1.setF h F.CMP_SPARE_SFAIL bad)
  let s3 := ((List.range 4).filter fun k => x.convs.any fun j => j.val == k).foldl (fun t k => t.convFailed h k) s2
  let s4 := if x.cores.any fun j => j.val == 3 then (s3.modCores h fun c => { c with spcBad := true }).report h cOK 0 15 4 1 else s3
  ((List.range 3).filter fun r => x.cores.any fun j => j.val == r).foldl (fun t r => t.coreFails h r 1) s4

/-- BOOT ends: the stages are restored, the self-tests have run, and the half enters HOLD with cause 1. -/
def Block.bootEnds (s : Block) (h : HalfId) (x : SelfTest) : Block :=
  ((s.restoreStages h).selfTest h x).setPhase h phHOLD 1

/-- The firmware runs and the half is still in BOOT. -/
def Block.booting (s : Block) (h : HalfId) : Bool := (s.half h).live && (s.half h).hip.running && s.phase h == phBOOT

/-- BOOT_SELF_TEST_COMPLETE: with the difference of the timestamp counters measured. -/
def execBootSelfTestComplete (h : HalfId) (test : SelfTest) (s : State) : Host.Outcome State Fault Refusal :=
  if s.blk.booting h && s.blk.on h F.TSC_XSTAT_VALID then .next { s with blk := s.blk.bootEnds h test } else .next s

/-- BOOT_PEER_WAIT_TIMEOUT: 10 ms without a firmware heartbeat of the peer. -/
def execBootPeerWaitTimeout (h : HalfId) (test : SelfTest) (s : State) : Host.Outcome State Fault Refusal :=
  if s.blk.booting h && !s.blk.on h F.HLM_STAT_PEERFW && !s.blk.on h F.TSC_XSTAT_VALID then
    .next { s with blk := s.blk.bootEnds h test }
  else .next s

/-- AONCLK_MEASURE: the helm half in Run writes the error, in 0.01 %; above 5 % it is a class 4 fault (rule R447). -/
def aonMeasure (err : BitVec 16) (s : Block) : Block :=
  match [HalfId.a, HalfId.b].find? fun h => (s.half h).live && s.holdsHelm h && s.rung h == 0 with
  | none => s
  | some h =>
    let s1 := s.setW .a .AON_FREQ (wd err.toNat)
    if 500 < err.toInt.natAbs then s1.fatal h 4 cOK 26 127 (3 * 256 + 6) false else s1

def execAonclkMeasure (err : BitVec 16) (s : State) : Host.Outcome State Fault Refusal :=
  .next { s with blk := aonMeasure err s.blk }

/-! ## The ladder (rules R437 to R444) -/

/-- The target rung of a half. -/
def targetFld : HalfId → Fld
  | .a => F.PWR_POL_TGTA
  | .b => F.PWR_POL_TGTB

/-- A wake event of the present AONCLK, where the step that comes completes the descent: it is served from the new rung (rule R444). -/
def Block.lateWake (s : Block) (h : HalfId) : Option (Nat × Nat) :=
  if s.f .a (targetFld h) ≤ s.rung h + 1 then (s.half h).pwr.now else none

/-- The conditions under which a half goes down (rules R440, R444). -/
def Block.mayDescend (s : Block) (h : HalfId) : Bool :=
  let x := (s.half h).hip
  let target := s.f .a (targetFld h)
  let late := s.lateWake h
  (s.half h).live && s.phase h == phHOLD && decide (1 ≤ target) && decide (target ≤ 5) && x.long.isNone && x.streams.isEmpty &&
    x.cfg != 1 && (!s.keyActive || late.map Prod.fst == some 0) && ((s.half h).pwr.waking.isNone || late.isSome) &&
    (!s.holdsHelm h || decide (1 ≤ s.rung h.peer) || s.on h F.HLM_STAT_PEERDOWN)

/-- Comparators without power: outputs LOW, trip lines released (rule R272). -/
def Block.cmpDark (s : Block) (h : HalfId) : Block := ((List.range 32).foldl (fun t k => t.cmpOut h k false false) s).tripLines h

/-- A half in Store: all of it is lost, its error log too (rule R441). -/
def Block.enterStore (s : Block) (h : HalfId) : Block :=
  let s1 := s.haltHalf h 0x0C
  { s1 with regs := s1.regs.filter fun x =>
      !(decide (halfBase h ≤ x.1) && decide (x.1 < halfBase h + 0x400000) && keptOffset (x.1 - halfBase h)) || tallyStored x.1 }

/-- What the entry to a rung does (rule R441). -/
def Block.enterRung (s : Block) (h : HalfId) (r : Nat) : Block :=
  match r with
  | 2 =>
    let s1 := ((s.linkFalls h lkTRAIN).eulPorts h).pwmFreeze h
    [0, 1, 2, 3].foldl (fun t i => t.setF h (lockFld i) 0) s1
  | 4 => peerDown h.peer true ((s.cmpDark h).setF h F.QHL_STAT_STATE lkDOWN)
  | 5 => s.enterStore h
  | _ => s

/-- The SRAM words of a half are lost. -/
def dropSram (h : HalfId) (m : Mem) : Mem :=
  m.filter fun x => !(decide (halfBase h ≤ x.1) && decide (x.1 < halfBase h + 0x080000))

/-- LADDER_DESCENT: one rung further down, while the conditions hold; the first step writes a log entry, and the tally is
committed before Kiln (rule R462). A condition that fails during the descent makes the half wake from the rung reached, by no
source of WAKE_STAT; a wake event of the same AONCLK as the last step is served from the new rung (rule R444). -/
def ladderDescent (h : HalfId) (s : State) : State :=
  let target := s.blk.f .a (targetFld h)
  if !s.blk.mayDescend h then
    if (s.blk.half h).pwr.going then { s with blk := s.blk.modPwr h fun x => { x with waking := x.waking.or (some 31), going := false } } else s
  else if target ≤ s.blk.rung h then { s with blk := s.blk.modPwr h fun x => { x with going := false } } else
  let r := s.blk.rung h + 1
  let b := if r = 1 then s.blk.report h cOK 0 26 127 (256 + s.blk.f .a (targetFld h))
    else if r = 4 then s.blk.tallyCommit h 0 else s.blk
  let b1 := (((b.setF .a (rungFld h) r).enterRung h r).setF h F.CRP_LADDER_DEEPEST r).modPwr h fun x =>
    { x with going := decide (r < target) }
  let b1 := match s.blk.lateWake h with
    | some (bit, deepest) => b1.wakeHalf h bit deepest
    | none => b1
  { s with blk := b1.drvFollow, ram := if r = 5 then dropSram h s.ram else s.ram }

def execLadderDescent (h : HalfId) (s : State) : Host.Outcome State Fault Refusal := .next (ladderDescent h s)

/-- KEY_IN_CHANGE: at its active level KEY_IN wakes both halves. -/
def keyChange (level : Bool) (s : Block) : Block :=
  let s1 := { s with keyIn := level }
  if s1.keyActive && s1.on .a F.WAKE_CFG_KEYEN then (s1.wakeHalf .a 0 5).wakeHalf .b 0 5 else s1

def execKeyInChange (level : Bool) (s : State) : Host.Outcome State Fault Refusal := .next { s with blk := keyChange level s.blk }

/-- WAKE_EDGE_COUNT: `edges` edges on land `n` (CRK0, CRK1, CAM0 to CAM3), each within 1 s of the one before. -/
def wakeEdges (n edges : Nat) (s : Block) : Block :=
  let on := bits (s.f .a F.WAKE_CFG_CRKCAM) (5 - n) (5 - n) == 1
  if on && decide (s.f .a F.WAKE_TH_CNT ≤ edges) && edges != 0 then (s.wakeHalf .a (1 + n) 5).wakeHalf .b (1 + n) 5 else s

def execWakeEdgeCount (n : Fin 6) (edges : BitVec 8) (s : State) : Host.Outcome State Fault Refusal :=
  .next { s with blk := wakeEdges n.val edges.toNat s.blk }

/-- A half runs again from Steep, Couch or Kiln: what stood still resumes, and comparators without power decide afresh. Its
counter stood still, so neither half holds a measurement of the difference (rule R43). -/
def Block.resumes (s : Block) (h : HalfId) (from' : Nat) : Block :=
  let s1 := if 2 ≤ from' then ((((s.pwmFreeze h).eulPorts h).setF h F.TSC_XSTAT_VALID 0).setF h.peer F.TSC_XSTAT_VALID 0).peerInvalid
    else s
  if from' = 4 then
    peerDown h.peer false
      (((List.range 32).foldl (fun t k => if t.on h F.CMP_CFG_EN k then t.cmpFirst h k else t) s1).tripLines h)
  else s1

/-- LADDER_WAKE_COMPLETE: the half is at Run again, from Steep or below once its PLLs have locked; from Store it is a die in
reset with cause 0x0C, which RESET_RELEASE takes through BOOT. The wake is logged. -/
def ladderWake (h : HalfId) (s : Block) : Block :=
  let r := s.rung h
  match (s.half h).pwr.waking with
  | none => s
  | some bit =>
    if r = 0 || (2 ≤ r && decide (r ≤ 4) && !s.allLocked h) then s else
    let s1 := ((s.setF .a (rungFld h) 0).modPwr h fun _ => Pwr.run).drvFollow
    let s2 := if r = 5 then s1 else s1.resumes h r
    (s2.setF h F.CRP_LADDER_WSRC bit).report h cOK 0 26 127 (2 * 256 + bit)

def execLadderWakeComplete (h : HalfId) (s : State) : Host.Outcome State Fault Refusal :=
  if s.blk.rung h = 0 || (s.blk.half h).pwr.waking.isNone then .next s
  else .next ({ s with blk := ladderWake h s.blk }.runWaiting h)

/-- DRV_POWER_UP: after both halves were in Store, the registers of the drive die take their reset values and the trip
latches clear; each half's outputs stay off until it has restored its stages (rules R442, R457). -/
def drvPowerUp (s : Block) : Block :=
  if s.f .a F.PWR_STAT_DRV != 2 || s.drvWanted == 2 then s else
  let regs := s.regs.filter fun x => !(decide (0x800000 ≤ x.1) && decide (x.1 < 0x900000))
  let s1 : Block := { s with regs := regs, fe := List.replicate 6 ⟨false, 0, 0⟩, bhs := List.replicate 12 ⟨none, none, false⟩,
                             chop := List.replicate 24 Chop.idle, segDue := [true, true] }
  s1.setF .a F.PWR_STAT_DRV s1.drvWanted

def execDrvPowerUp (s : State) : Host.Outcome State Fault Refusal := .next { s with blk := drvPowerUp s.blk }

end Sys2Proof.Machine
end

