-- ==== Sys2Proof/Machine/Tick.lean ====
section
/-!
DEFINITION. What happens in one ANGCLK in which no command comes: the timestamp counters, the angle clocks and the PWM units
of both halves advance, the fabric ports send (rule R384), and the timers where an AONCLK edge falls into it (rules R38, R86, R126, R141, R279, R294).
-/

namespace Sys2Proof.Machine

/-- One ANGCLK of a half; where ANGCLK is stopped, nothing of it moves (rules R292, R311, R441). -/
def Block.tickHalf (s : Block) (h : HalfId) : Block :=
  if s.angRuns h then
    ((s.clockTick h).pwmTick h).modHalf h fun x =>
      { x with tsc := (x.tsc + 1) % 2 ^ 48, pe := x.pe.map fun p => { p with busy := false } }
  else s

/-- One ANGCLK of the module. -/
def Block.tick (s : Block) : Block :=
  let s1 := ((s.tickHalf .a).tickHalf .b).portTick
  let s2 := { s1 with fresh := s1.fresh + 1 }
  let s3 := if Config.aonEdge s1.fresh then s2.newAon.tmrTick else s2
  (s3.irqWake .a).irqWake .b

end Sys2Proof.Machine
end

