-- ==== Sys2Proof/Machine/Dispatch.lean ====
section
/-!
DEFINITION. One arm per command: each calls that command's own meaning.
-/

namespace Sys2Proof.Machine

/-- The effect of a command on everything but the queue. -/
def exec (i : Instr) (s : State) : Host.Outcome State Fault Refusal :=
  match i with
  | .registerWrite h m a v => Sys2Proof.Machine.execRegisterWrite h m a v s
  | .crossHalfAccess h m write off v => Sys2Proof.Machine.execCrossHalfAccess h m write off v s
  | .bridgeWordDeliver h => Sys2Proof.Machine.execBridgeWordDeliver h s
  | .bridgeCreditWaitFault h => Sys2Proof.Machine.execBridgeCreditWaitFault h s
  | .heartbeatSend h => Sys2Proof.Machine.execHeartbeatSend h s
  | .heartbeatReceive h => Sys2Proof.Machine.execHeartbeatReceive h s
  | .bridgeLost h => Sys2Proof.Machine.execBridgeLost h s
  | .bridgeReturn => Sys2Proof.Machine.execBridgeReturn s
  | .tscXdiffMeasure h e => Sys2Proof.Machine.execTscXdiffMeasure h e s
  | .feTimingEdge n rising => Sys2Proof.Machine.execFeTimingEdge n rising s
  | .vrArm n level => Sys2Proof.Machine.execVrArm n level s
  | .vrPeakTimeout n => Sys2Proof.Machine.execVrPeakTimeout n s
  | .feFaultDetect n short => Sys2Proof.Machine.execFeFaultDetect n short s
  | .glitchFilterPass h t cam held => Sys2Proof.Machine.execGlitchFilterPass h t cam held s
  | .directionPulseDecode h t trailing => Sys2Proof.Machine.execDirectionPulseDecode h t trailing s
  | .edgeAcceptance h t => Sys2Proof.Machine.execEdgeAcceptance h t s
  | .camEdge h t => Sys2Proof.Machine.execCamEdge h t s
  | .stallTimeout h t => Sys2Proof.Machine.execStallTimeout h t s
  | .wtkEnable h t => Sys2Proof.Machine.execWtkEnable h t s
  | .wtkDisable h t => Sys2Proof.Machine.execWtkDisable h t s
  | .wtkClearCounters h t => Sys2Proof.Machine.execWtkClearCounters h t s
  | .angleSourceSelect h t => Sys2Proof.Machine.execAngleSourceSelect h t s
  | .angleMessageReceive h => Sys2Proof.Machine.execAngleMessageReceive h s
  | .haltReached h => Sys2Proof.Machine.execHaltReached h s
  | .holdEnd h => Sys2Proof.Machine.execHoldEnd h s
  | .catchupEnd h => Sys2Proof.Machine.execCatchupEnd h s
  | .angleClockEnable h => Sys2Proof.Machine.execAngleClockEnable h s
  | .angleClockDisable h => Sys2Proof.Machine.execAngleClockDisable h s
  | .angleClearCounters h => Sys2Proof.Machine.execAngleClearCounters h s
  | .angNowRead h => Sys2Proof.Machine.execAngNowRead h s
  | .broadcastMessageUse h => Sys2Proof.Machine.execBroadcastMessageUse h s
  | .followerStallTimeout h => Sys2Proof.Machine.execFollowerStallTimeout h s
  | .cycleStart h => Sys2Proof.Machine.execCycleStart h s
  | .modeLatch h => Sys2Proof.Machine.execModeLatch h s
  | .serviceDecisionReceive h => Sys2Proof.Machine.execServiceDecisionReceive h s
  | .modeShadowWriteDone h => Sys2Proof.Machine.execModeShadowWriteDone h s
  | .trimLatch h c => Sys2Proof.Machine.execTrimLatch h c s
  | .staticInsert h => Sys2Proof.Machine.execStaticInsert h s
  | .eviGo h p chan tag => Sys2Proof.Machine.execEviGo h p chan tag s
  | .insertionClassify h p parity => Sys2Proof.Machine.execInsertionClassify h p parity s
  | .entryArm h chan tag => Sys2Proof.Machine.execEntryArm h chan tag s
  | .entryExecute h chan tag => Sys2Proof.Machine.execEntryExecute h chan tag s
  | .evoPulseReturn h line => Sys2Proof.Machine.execEvoPulseReturn h line s
  | .deferredExecute h chan tag => Sys2Proof.Machine.execDeferredExecute h chan tag s
  | .cancelTag h chan tag => Sys2Proof.Machine.execCancelTag h chan tag s
  | .cancelAll h chan => Sys2Proof.Machine.execCancelAll h chan s
  | .evcClearCounters h chan => Sys2Proof.Machine.execEvcClearCounters h chan s
  | .channelDisable h chan => Sys2Proof.Machine.execChannelDisable h chan s
  | .noticePop h => Sys2Proof.Machine.execNoticePop h s
  | .tscLoRead h => Sys2Proof.Machine.execTscLoRead h s
  | .tscXdiffRead h => Sys2Proof.Machine.execTscXdiffRead h s
  | .evcHeadtLoRead h chan => Sys2Proof.Machine.execEvcHeadtLoRead h chan s
  | .admGo h chan tag => Sys2Proof.Machine.execAdmGo h chan tag s
  | .admissionSample h => Sys2Proof.Machine.execAdmissionSample h s
  | .admissionInsertWrite h parity => Sys2Proof.Machine.execAdmissionInsertWrite h parity s
  | .admClearCounters h => Sys2Proof.Machine.execAdmClearCounters h s
  | .stopTimeExpiry h => Sys2Proof.Machine.execStopTimeExpiry h s
  | .certificateRecheck h => Sys2Proof.Machine.execCertificateRecheck h s
  | .activationResult h => Sys2Proof.Machine.execActivationResult h s
  | .peerDeactivateReceive h => Sys2Proof.Machine.execPeerDeactivateReceive h s
  | .peakReached n => Sys2Proof.Machine.execPeakReached n s
  | .boostTimeout n x => Sys2Proof.Machine.execBoostTimeout n x s
  | .peakHoldEnd x => Sys2Proof.Machine.execPeakHoldEnd x s
  | .hold1End x => Sys2Proof.Machine.execHold1End x s
  | .quenchStart n => Sys2Proof.Machine.execQuenchStart n s
  | .shotEnd n x => Sys2Proof.Machine.execShotEnd n x s
  | .quenchTimeout n x => Sys2Proof.Machine.execQuenchTimeout n x s
  | .shotTripEnd n x => Sys2Proof.Machine.execShotTripEnd n x s
  | .bhsRequest x => Sys2Proof.Machine.execBhsRequest x s
  | .bhsRelease n => Sys2Proof.Machine.execBhsRelease n s
  | .bhsChangeoverEnd k => Sys2Proof.Machine.execBhsChangeoverEnd k s
  | .grantSeen n => Sys2Proof.Machine.execGrantSeen n s
  | .chopThresholdCross n upper => Sys2Proof.Machine.execChopThresholdCross n upper s
  | .chopTimingExpiry n blanking => Sys2Proof.Machine.execChopTimingExpiry n blanking s
  | .driftLearnUpdate h k => Sys2Proof.Machine.execDriftLearnUpdate h k s
  | .seqResultPop h k => Sys2Proof.Machine.execSeqResultPop h k s
  | .seqClearOverflow h k => Sys2Proof.Machine.execSeqClearOverflow h k s
  | .seqForceWrite h k v => Sys2Proof.Machine.execSeqForceWrite h k v s
  | .tripOvercurrent x => Sys2Proof.Machine.execTripOvercurrent x s
  | .tripOvertemp o => Sys2Proof.Machine.execTripOvertemp o s
  | .tripMaxon n => Sys2Proof.Machine.execTripMaxon n s
  | .tripExternal o tl => Sys2Proof.Machine.execTripExternal o tl s
  | .tripSoftware h o => Sys2Proof.Machine.execTripSoftware h o s
  | .drvSwtripAll h => Sys2Proof.Machine.execDrvSwtripAll h s
  | .tripOvervoltage j => Sys2Proof.Machine.execTripOvervoltage j s
  | .tripStuck b => Sys2Proof.Machine.execTripStuck b s
  | .vbatUndervoltage => Sys2Proof.Machine.execVbatUndervoltage s
  | .vbatUvRelease => Sys2Proof.Machine.execVbatUvRelease s
  | .tripLatchClear h o holds => Sys2Proof.Machine.execTripLatchClear h o holds s
  | .conversionResult h k pos code r => Sys2Proof.Machine.execConversionResult h k pos code r s
  | .windowPointPass h k slot => Sys2Proof.Machine.execWindowPointPass h k slot s
  | .windowPointSample h k code r => Sys2Proof.Machine.execWindowPointSample h k code r s
  | .windowStop h k slot => Sys2Proof.Machine.execWindowStop h k slot s
  | .pcvClearCounters h k => Sys2Proof.Machine.execPcvClearCounters h k s
  | .windowRecordPop h k => Sys2Proof.Machine.execWindowRecordPop h k s
  | .spareConverterCheck h diff => Sys2Proof.Machine.execSpareConverterCheck h diff s
  | .converterForceReplace h k => Sys2Proof.Machine.execConverterForceReplace h k s
  | .atuRecordWrite h ctx => Sys2Proof.Machine.execAtuRecordWrite h ctx s
  | .atuRecordRead h c => Sys2Proof.Machine.execAtuRecordRead h c s
  | .combustionFeedback h c => Sys2Proof.Machine.execCombustionFeedback h c s
  | .crankMisfireJudge h c => Sys2Proof.Machine.execCrankMisfireJudge h c s
  | .combustionReportSend h c => Sys2Proof.Machine.execCombustionReportSend h c s
  | .atuClearBaseline h => Sys2Proof.Machine.execAtuClearBaseline h s
  | .atuClearCounts h => Sys2Proof.Machine.execAtuClearCounts h s
  | .comparatorDecisionChange h k v => Sys2Proof.Machine.execComparatorDecisionChange h k v s
  | .blankingEnd h k => Sys2Proof.Machine.execBlankingEnd h k s
  | .blankingGuardTimeout h k => Sys2Proof.Machine.execBlankingGuardTimeout h k s
  | .comparatorEnable h k v => Sys2Proof.Machine.execComparatorEnable h k v s
  | .comparatorDisable h k => Sys2Proof.Machine.execComparatorDisable h k s
  | .comparatorThresholdWrite h k hys v => Sys2Proof.Machine.execComparatorThresholdWrite h k hys v s
  | .cmpCaploRead h k => Sys2Proof.Machine.execCmpCaploRead h k s
  | .comparatorForceReplace h k => Sys2Proof.Machine.execComparatorForceReplace h k s
  | .pwmEnable h u => Sys2Proof.Machine.execPwmEnable h u s
  | .pwmDisable h u => Sys2Proof.Machine.execPwmDisable h u s
  | .pwmGstart h mask => Sys2Proof.Machine.execPwmGstart h mask s
  | .pwmLoad h u => Sys2Proof.Machine.execPwmLoad h u s
  | .pwmUpdateWrite h u which v => Sys2Proof.Machine.execPwmUpdateWrite h u which v s
  | .pwmWrap h u => Sys2Proof.Machine.execPwmWrap h u s
  | .pwmCompareMatch h u => Sys2Proof.Machine.execPwmCompareMatch h u s
  | .pwmFilterEdgeOut h u b => Sys2Proof.Machine.execPwmFilterEdgeOut h u b s
  | .pwmDeadTimeEnd h u b => Sys2Proof.Machine.execPwmDeadTimeEnd h u b s
  | .pwmRefreshStart h u => Sys2Proof.Machine.execPwmRefreshStart h u s
  | .pwmRefreshEnd h u => Sys2Proof.Machine.execPwmRefreshEnd h u s
  | .pwmTripSet h u => Sys2Proof.Machine.execPwmTripSet h u s
  | .pwmTripSwset h u => Sys2Proof.Machine.execPwmTripSwset h u s
  | .pwmTripClear h u => Sys2Proof.Machine.execPwmTripClear h u s
  | .pwmFreeze h => Sys2Proof.Machine.execPwmFreeze h s
  | .pwmUnfreeze h => Sys2Proof.Machine.execPwmUnfreeze h s
  | .timerMatch k => Sys2Proof.Machine.execTimerMatch k s
  | .timerOverflow k => Sys2Proof.Machine.execTimerOverflow k s
  | .timerLinkAction k => Sys2Proof.Machine.execTimerLinkAction k s
  | .timerStart h k => Sys2Proof.Machine.execTimerStart h k s
  | .timerStop h k => Sys2Proof.Machine.execTimerStop h k s
  | .timerReset h k => Sys2Proof.Machine.execTimerReset h k s
  | .timerArm h k => Sys2Proof.Machine.execTimerArm h k s
  | .timerCompareWrite h k v => Sys2Proof.Machine.execTimerCompareWrite h k v s
  | .timerCapture k => Sys2Proof.Machine.execTimerCapture k s
  | .tmrCntRead k => Sys2Proof.Machine.execTmrCntRead k s
  | .timerOwnershipWrite h high v => Sys2Proof.Machine.execTimerOwnershipWrite h high v s
  | .peEnable h e => Sys2Proof.Machine.execPeEnable h e s
  | .peDisable h e => Sys2Proof.Machine.execPeDisable h e s
  | .peGstart h mask => Sys2Proof.Machine.execPeGstart h mask s
  | .peProgramChange h e off v => Sys2Proof.Machine.execPeProgramChange h e off v s
  | .peIdle h e => Sys2Proof.Machine.execPeIdle h e s
  | .peBr h e pins => Sys2Proof.Machine.execPeBr h e pins s
  | .peLoop h e => Sys2Proof.Machine.execPeLoop h e s
  | .peLdi h e => Sys2Proof.Machine.execPeLdi h e s
  | .peLdx h e => Sys2Proof.Machine.execPeLdx h e s
  | .peMovr h e pins => Sys2Proof.Machine.execPeMovr h e pins s
  | .peTime h e => Sys2Proof.Machine.execPeTime h e s
  | .peTwait h e => Sys2Proof.Machine.execPeTwait h e s
  | .pePwait h e pins => Sys2Proof.Machine.execPePwait h e pins s
  | .peFwait h e => Sys2Proof.Machine.execPeFwait h e s
  | .peFlag h e => Sys2Proof.Machine.execPeFlag h e s
  | .peTrgw h e => Sys2Proof.Machine.execPeTrgw h e s
  | .peSout h e => Sys2Proof.Machine.execPeSout h e s
  | .peSin h e pins => Sys2Proof.Machine.execPeSin h e pins s
  | .peQget h e => Sys2Proof.Machine.execPeQget h e s
  | .peQput h e => Sys2Proof.Machine.execPeQput h e s
  | .peIllegalInstruction h e => Sys2Proof.Machine.execPeIllegalInstruction h e s
  | .peStallComplete h e pins => Sys2Proof.Machine.execPeStallComplete h e pins s
  | .peSendQueueWrite h e v => Sys2Proof.Machine.execPeSendQueueWrite h e v s
  | .peReceiveQueuePop h e => Sys2Proof.Machine.execPeReceiveQueuePop h e s
  | .peFlagSet h mask => Sys2Proof.Machine.execPeFlagSet h mask s
  | .peFlagClear h mask => Sys2Proof.Machine.execPeFlagClear h mask s
  | .peTloRead h e => Sys2Proof.Machine.execPeTloRead h e s
  | .sentFrameReceive h e opens cal periods => Sys2Proof.Machine.execSentFrameReceive h e opens cal periods s
  | .psi5FrameReceive h e opens data chk line => Sys2Proof.Machine.execPsi5FrameReceive h e opens data chk line s
  | .psi5SyncPulse h e begins => Sys2Proof.Machine.execPsi5SyncPulse h e begins s
  | .coreWatchdogTimeout h r => Sys2Proof.Machine.execCoreWatchdogTimeout h r s
  | .roleTakeover h r => Sys2Proof.Machine.execRoleTakeover h r s
  | .supLockstepFault h => Sys2Proof.Machine.execSupLockstepFault h s
  | .sramSingleBitError h b row => Sys2Proof.Machine.execSramSingleBitError h b row s
  | .sramDoubleBitError h b row who code => Sys2Proof.Machine.execSramDoubleBitError h b row who code s
  | .mbxPost h m who v => Sys2Proof.Machine.execMbxPost h m who v s
  | .mbxTake h m who => Sys2Proof.Machine.execMbxTake h m who s
  | .mbxCrossed h m => Sys2Proof.Machine.execMbxCrossed h m s
  | .canFrameReceive h n w1 w2 data => Sys2Proof.Machine.execCanFrameReceive h n w1 w2 data s
  | .linkTrainingSetReceive h port ack sent => Sys2Proof.Machine.execLinkTrainingSetReceive h port ack sent s
  | .linkTrainTimeout h port => Sys2Proof.Machine.execLinkTrainTimeout h port s
  | .linkCodeViolation h port since => Sys2Proof.Machine.execLinkCodeViolation h port since s
  | .linkDown h => Sys2Proof.Machine.execLinkDown h s
  | .linkResetCommand h who => Sys2Proof.Machine.execLinkResetCommand h who s
  | .qhlClearCounters h who => Sys2Proof.Machine.execQhlClearCounters h who s
  | .qhlFrameReceive h ok h0 pay => Sys2Proof.Machine.execQhlFrameReceive h ok h0 pay s
  | .qhlMbxFrame h => Sys2Proof.Machine.execQhlMbxFrame h s
  | .qhlBulkFrame h => Sys2Proof.Machine.execQhlBulkFrame h s
  | .qhlRegRd h => Sys2Proof.Machine.execQhlRegRd h s
  | .qhlRegWr h => Sys2Proof.Machine.execQhlRegWr h s
  | .qhlAck h lseq => Sys2Proof.Machine.execQhlAck h lseq s
  | .qhlNak h lseq => Sys2Proof.Machine.execQhlNak h lseq s
  | .qhlCredit h half cls limit => Sys2Proof.Machine.execQhlCredit h half cls limit s
  | .qhlInit h rev served => Sys2Proof.Machine.execQhlInit h rev served s
  | .qhlBind h half => Sys2Proof.Machine.execQhlBind h half s
  | .qhlReject h reason lseq => Sys2Proof.Machine.execQhlReject h reason lseq s
  | .qhlReset h => Sys2Proof.Machine.execQhlReset h s
  | .qhlRetransmitTimeout h => Sys2Proof.Machine.execQhlRetransmitTimeout h s
  | .qhlCreditSend h half cls => Sys2Proof.Machine.execQhlCreditSend h half cls s
  | .qhlOutboundFrame h half c n => Sys2Proof.Machine.execQhlOutboundFrame h half c n s
  | .nop h secure seq pay => Sys2Proof.Machine.execNop h secure seq pay s
  | .ident h secure seq pay => Sys2Proof.Machine.execIdent h secure seq pay s
  | .status h secure seq pay => Sys2Proof.Machine.execStatus h secure seq pay s
  | .noticeMask h secure seq pay => Sys2Proof.Machine.execNoticeMask h secure seq pay s
  | .time h secure seq pay => Sys2Proof.Machine.execTime h secure seq pay s
  | .echo h secure seq pay => Sys2Proof.Machine.execEcho h secure seq pay s
  | .streamAbort h secure seq pay => Sys2Proof.Machine.execStreamAbort h secure seq pay s
  | .noticeReplay h secure seq pay => Sys2Proof.Machine.execNoticeReplay h secure seq pay s
  | .reset h secure seq pay => Sys2Proof.Machine.execReset h secure seq pay s
  | .secChallenge h secure seq pay => Sys2Proof.Machine.execSecChallenge h secure seq pay s
  | .secUnlock h secure seq pay => Sys2Proof.Machine.execSecUnlock h secure seq pay s
  | .secClose h secure seq pay => Sys2Proof.Machine.execSecClose h secure seq pay s
  | .secLockoutEnd h => Sys2Proof.Machine.execSecLockoutEnd h s
  | .canTx h secure seq pay => Sys2Proof.Machine.execCanTx h secure seq pay s
  | .canFilter h secure seq pay => Sys2Proof.Machine.execCanFilter h secure seq pay s
  | .cfgOpen h secure seq pay => Sys2Proof.Machine.execCfgOpen h secure seq pay s
  | .cfgCommit h secure seq pay => Sys2Proof.Machine.execCfgCommit h secure seq pay s
  | .cfgAbort h secure seq pay => Sys2Proof.Machine.execCfgAbort h secure seq pay s
  | .cfgStatus h secure seq pay => Sys2Proof.Machine.execCfgStatus h secure seq pay s
  | .schedLoadBegin h secure seq pay => Sys2Proof.Machine.execSchedLoadBegin h secure seq pay s
  | .schedLoadEnd h secure seq pay => Sys2Proof.Machine.execSchedLoadEnd h secure seq pay s
  | .schedActivate h secure seq pay => Sys2Proof.Machine.execSchedActivate h secure seq pay s
  | .schedDeactivate h secure seq pay => Sys2Proof.Machine.execSchedDeactivate h secure seq pay s
  | .schedStatus h secure seq pay => Sys2Proof.Machine.execSchedStatus h secure seq pay s
  | .schedList h secure seq pay => Sys2Proof.Machine.execSchedList h secure seq pay s
  | .schedDelete h secure seq pay => Sys2Proof.Machine.execSchedDelete h secure seq pay s
  | .evtSubmit h secure seq pay parity => Sys2Proof.Machine.execEvtSubmit h secure seq pay parity s
  | .evtCancel h secure seq pay => Sys2Proof.Machine.execEvtCancel h secure seq pay s
  | .trimSet h secure seq pay => Sys2Proof.Machine.execTrimSet h secure seq pay s
  | .trimRead h secure seq pay => Sys2Proof.Machine.execTrimRead h secure seq pay s
  | .creditRead h secure seq pay => Sys2Proof.Machine.execCreditRead h secure seq pay s
  | .phaseSet h secure seq pay => Sys2Proof.Machine.execPhaseSet h secure seq pay s
  | .modeSet h secure seq pay => Sys2Proof.Machine.execModeSet h secure seq pay s
  | .regRead h secure seq pay => Sys2Proof.Machine.execRegRead h secure seq pay s
  | .regWrite h secure seq pay => Sys2Proof.Machine.execRegWrite h secure seq pay s
  | .logRead h secure seq pay => Sys2Proof.Machine.execLogRead h secure seq pay s
  | .logClear h secure seq pay => Sys2Proof.Machine.execLogClear h secure seq pay s
  | .tallyRead h secure seq pay => Sys2Proof.Machine.execTallyRead h secure seq pay s
  | .fwBegin h secure seq pay => Sys2Proof.Machine.execFwBegin h secure seq pay s
  | .fwEnd h secure seq pay => Sys2Proof.Machine.execFwEnd h secure seq pay s
  | .fwSelect h secure seq pay => Sys2Proof.Machine.execFwSelect h secure seq pay s
  | .secverSet h secure seq pay => Sys2Proof.Machine.execSecverSet h secure seq pay s
  | .keyAdvance h secure seq pay => Sys2Proof.Machine.execKeyAdvance h secure seq pay s
  | .commandUnknown h secure code seq pay => Sys2Proof.Machine.execCommandUnknown h secure code seq pay s
  | .commandTruncated h secure hdr pay => Sys2Proof.Machine.execCommandTruncated h secure hdr pay s
  | .longCommandComplete h => Sys2Proof.Machine.execLongCommandComplete h s
  | .eventNoticeSend h => Sys2Proof.Machine.execEventNoticeSend h s
  | .faultNoticeSend h => Sys2Proof.Machine.execFaultNoticeSend h s
  | .logReport h => Sys2Proof.Machine.execLogReport h s
  | .logCmdClear h who => Sys2Proof.Machine.execLogCmdClear h who s
  | .logEntryRead h n => Sys2Proof.Machine.execLogEntryRead h n s
  | .hlmClearCounters h who => Sys2Proof.Machine.execHlmClearCounters h who s
  | .helmClaimTimeout h => Sys2Proof.Machine.execHelmClaimTimeout h s
  | .peerDown h down => Sys2Proof.Machine.execPeerDown h down s
  | .disputeEvaluation h => Sys2Proof.Machine.execDisputeEvaluation h s
  | .helmMessageReceive h => Sys2Proof.Machine.execHelmMessageReceive h s
  | .class4RequestReceive h => Sys2Proof.Machine.execClass4RequestReceive h s
  | .supervisorWatchdogTimeout h => Sys2Proof.Machine.execSupervisorWatchdogTimeout h s
  | .supervisorWatchdogKick h who => Sys2Proof.Machine.execSupervisorWatchdogKick h who s
  | .aonPowerOn timers spares => Sys2Proof.Machine.execAonPowerOn timers spares s
  | .supplyBelowThreshold die => Sys2Proof.Machine.execSupplyBelowThreshold die s
  | .resetNLow => Sys2Proof.Machine.execResetNLow s
  | .jtagReset h => Sys2Proof.Machine.execJtagReset h s
  | .refclkLoss => Sys2Proof.Machine.execRefclkLoss s
  | .halfReset h => Sys2Proof.Machine.execHalfReset h s
  | .resetRelease h helmpre sastart => Sys2Proof.Machine.execResetRelease h helmpre sastart s
  | .pllLock h pll => Sys2Proof.Machine.execPllLock h pll s
  | .pllLockLoss h pll => Sys2Proof.Machine.execPllLockLoss h pll s
  | .firmwareVerify h => Sys2Proof.Machine.execFirmwareVerify h s
  | .bootPeerWaitTimeout h test => Sys2Proof.Machine.execBootPeerWaitTimeout h test s
  | .bootSelfTestComplete h test => Sys2Proof.Machine.execBootSelfTestComplete h test s
  | .standaloneStart flash => Sys2Proof.Machine.execStandaloneStart flash s
  | .aonclkMeasure err => Sys2Proof.Machine.execAonclkMeasure err s
  | .ladderDescent h => Sys2Proof.Machine.execLadderDescent h s
  | .keyInChange level => Sys2Proof.Machine.execKeyInChange level s
  | .wakeEdgeCount n edges => Sys2Proof.Machine.execWakeEdgeCount n edges s
  | .ladderWakeComplete h => Sys2Proof.Machine.execLadderWakeComplete h s
  | .drvPowerUp => Sys2Proof.Machine.execDrvPowerUp s
  | .thermalSample h r t uj => Sys2Proof.Machine.execThermalSample h r t uj s
  | .tallyCommit h steps => Sys2Proof.Machine.execTallyCommit h steps s
  | .tallyWordRead h r energy => Sys2Proof.Machine.execTallyWordRead h r energy s
  | .eulLaneFail h p => Sys2Proof.Machine.execEulLaneFail h p s
  | .eulLinkDown h p => Sys2Proof.Machine.execEulLinkDown h p s
  | .eulWrapHeal h p => Sys2Proof.Machine.execEulWrapHeal h p s
  | .eulFrameReceive h p ok w0 w1 w2 pay tap res => Sys2Proof.Machine.execEulFrameReceive h p ok w0 w1 w2 pay tap res s
  | .eulSyncReceive h => Sys2Proof.Machine.execEulSyncReceive h s
  | .eulPdreqReceive h gap => Sys2Proof.Machine.execEulPdreqReceive h gap s
  | .eulPdrespReceive h => Sys2Proof.Machine.execEulPdrespReceive h s
  | .eulAnnounceReceive h => Sys2Proof.Machine.execEulAnnounceReceive h s
  | .eulAngleReceive h => Sys2Proof.Machine.execEulAngleReceive h s
  | .eulSyncSend h tap => Sys2Proof.Machine.execEulSyncSend h tap s
  | .eulPdelayMeasure h p tap => Sys2Proof.Machine.execEulPdelayMeasure h p tap s
  | .eulAnnounceSend h angle => Sys2Proof.Machine.execEulAnnounceSend h angle s
  | .eulMasterElect h angle => Sys2Proof.Machine.execEulMasterElect h angle s
  | .eulHoldover h => Sys2Proof.Machine.execEulHoldover h s
  | .eulClearCounters h => Sys2Proof.Machine.execEulClearCounters h s
  | .eulFtloRead h => Sys2Proof.Machine.execEulFtloRead h s
  | .canTransmitComplete h n => Sys2Proof.Machine.execCanTransmitComplete h n s
  | .canBusError h n tx heavy => Sys2Proof.Machine.execCanBusError h n tx heavy s
  | .canBusOffRecovery h n => Sys2Proof.Machine.execCanBusOffRecovery h n s
  | .driveDieParityError h => Sys2Proof.Machine.execDriveDieParityError h s

end Sys2Proof.Machine
end

