-- ==== Sys2Proof/Safety.lean ====
section
/-!
DEFINITION. What counts as a sound state of the block, in the terms of the statements: the canonical form of its RAM, the
limits of its one-time-programmable memory, and what never comes back to an earlier value.
-/

namespace Sys2Proof.Machine

/-- RAM is in its canonical form: addresses strictly rising, no entry equal to what an unlisted address reads as. -/
def State.ramOk (s : State) : Prop := Memory.wf ramReset s.ram = true

/-- A key position is one of the four there are (rule R372). -/
def State.keysOk (s : State) : Prop := s.fuseA.keyPos ≤ 3 ∧ s.fuseB.keyPos ≤ 3

/-- One-time-programmable memory only moves forward from one state to another (rule R372). -/
def State.fusesRise (s t : State) : Prop :=
  ∀ h : HalfId, (s.fuse h).secver ≤ (t.fuse h).secver ∧ (s.fuse h).keyPos ≤ (t.fuse h).keyPos

/-- What every state of a run keeps. -/
def State.Sound (s : State) : Prop := s.ramOk ∧ s.keysOk

/-- A command is executed and not turned away: HIP takes commands, has not answered this header before, and no ground of rule
R490 applies (rules R361, R363, R490). COUNT has 6 bits. -/
def Block.accepts (s : Block) (h : HalfId) (secure : Bool) (code : Nat) (seq : BitVec 10) (pay : List Word) : Bool :=
  s.hipActs h && (s.stored? h secure (header code pay.length seq.toNat)).isNone && decide (pay.length ≤ 63) &&
    (s.ground h secure code pay.length pay).isNone

/-- The commands after which HIP runs commands that waited or that words spell, so that they can do what any of those does (rules R360,
R361). -/
def runsWords : Instr → Bool
  | .mbxTake .. | .firmwareVerify .. | .ladderWakeComplete .. => true
  | _ => false

/-- The commands by which a word of RAM can change: bus accesses (a read, like a host frame for the other half, lets waiting writes
through first), register records of a configuration, converter samples, the loss of power, and words that spell a command (rules R28, R47,
R241, R361, R441, R448). -/
def writesRam (c : Instr) : Bool :=
  runsWords c || match c with
  | .registerWrite .. | .crossHalfAccess .. | .bridgeWordDeliver .. | .qhlRegWr .. | .qhlRegRd .. | .qhlBulkFrame ..
  | .qhlOutboundFrame .. | .regWrite .. | .regRead .. | .longCommandComplete .. | .standaloneStart .. | .windowPointSample ..
  | .aonPowerOn .. | .ladderDescent .. => true
  | _ => false

/-- The commands by which one-time-programmable memory can change (rule R372). -/
def writesOtp (c : Instr) : Bool :=
  runsWords c || match c with
  | .secverSet .. | .keyAdvance .. => true
  | _ => false

/-- The commands by which the firmware slots or the choice among them can change (rules R331, R367, R371). -/
def writesFirmware (c : Instr) : Bool :=
  runsWords c || match c with
  | .fwSelect .. | .longCommandComplete .. => true
  | _ => false

/-- A register exists with these indices, and in half A only where it is no register of a half. -/
def Reg.has (r : Reg) (h : HalfId) (i j : Nat) : Bool :=
  (r.info.perHalf || h == .a) && (match r.info.dims with
    | [] => i == 0 && j == 0
    | [(n, _)] => decide (i < n) && j == 0
    | (n, _) :: (m, _) :: _ => decide (i < n) && decide (j < m))

end Sys2Proof.Machine
end

