-- ==== Sys2Proof/Certificates/Slice0/Obligations.lean ====
section
/-!
DEFINITION. The statements for the provers. A statement over the rows of a family is a conjunction with one clause for each row and
form; its hypotheses are on the state and the operands alone.
-/

open Sys2Proof Sys2Proof.Machine

/-- A step takes the command at the front of the queue and executes it with the queue's rest. For every command c and
state s, a step of s with c at the front of its queue is exec of c on s with the queue's rest. The queue of waiting
commands is the model's form (log entry 1). (Rules R361.) -/
def Obligations.StepRunsFrontCommand : Prop :=
  ∀ (s : State) (c : Instr) (rest : List Instr),
    step { s with pending := c :: rest } = exec c { s with pending := rest }

/-- With no command waiting, one ANGCLK passes. A step on an empty queue answers the state after one ANGCLK of the module:
nothing but the block itself changes. That a step without a command is one ANGCLK is the model's choice (log entry 3).
(Rules R38, R86.) -/
def Obligations.IdleStepIsOneAngclk : Prop :=
  ∀ s : State, s.pending = [] → step s = .next { s with blk := s.blk.tick }

/-- The state after reset. After reset every register reads its reset value (the Reset column where the spec gives one,
else the value of the model's register map, log entry 4), both halves are in BOOT and in reset, no command waits, and
the state is sound. (Rules R18, R23.) -/
def Obligations.ResetState : Prop :=
  State.reset.pending = [] ∧ State.reset.Sound ∧
  (∀ h : HalfId, (State.reset.blk.half h).live = false ∧ State.reset.blk.phase h = phBOOT) ∧
  (∀ (r : Reg) (h : HalfId) (i j : Nat), r.has h i j = true → State.reset.blk.w h r i j = r.resetAt h i j)

/-- A register write and a cross-half access take effect where their target can be reached. REGISTER_WRITE of a RAM word
in reach stores the word, and every other RAM word reads as before; REGISTER_WRITE to a reserved address sets the bus
error and nothing else; a write of a read-write register that any phase may write stores it; CROSS_HALF_ACCESS posts a
write to the bridge while the bridge carries it, and reads the other half's SRAM while neither half holds the bridge
for lost. That a posted write takes two words of the bridge, completes for its master when it is written, and that an
access ends with a bus error while the bridge is lost, is the model's choice (log entries 22 and 89), and the write
clause proves it of Block.send. What a row judges itself and what its operands carry is the model's form; the model's
choices in these rows are log entries 1, 11, 22, 88, 89. (Rules R16, R47, R48.) -/
def Obligations.BusAccessesComplete : Prop :=
  (∀ (s : State) (h k : HalfId) (m : Master) (a v : Word),
     s.blk.masterRuns ⟨h, m⟩ = true →
     m ≠ .link →
     regionOf a.toNat ≠ some h.peer →
     placeOf a.toNat = .sram k →
     s.blk.pageOn k 0 = true →
     ∃ t, exec (.registerWrite h m a v) s = .next t ∧ memGet 0 t.ram a.toNat = v ∧ (∀ b, b ≠ a.toNat → memGet 0 t.ram b = memGet 0 s.ram b) ∧
        t = { s with ram := t.ram, blk := { s.blk with busErr := false } }) ∧
  (∀ (s : State) (h : HalfId) (m : Master) (a v : Word),
     s.blk.masterRuns ⟨h, m⟩ = true →
     m ≠ .link →
     regionOf a.toNat ≠ some h.peer →
     placeOf a.toNat = .none →
     exec (.registerWrite h m a v) s = .next { s with blk := ({ s.blk with busErr := true }) }) ∧
  (∀ (s : State) (h : HalfId) (m : Master) (t : Fin 2) (v : Word),
     s.blk.masterRuns ⟨h, m⟩ = true →
     m ≠ .link →
     (Reg.WTK_STALL.addr h t 0) < 2 ^ 24 →
     s.blk.pageOn h 0x20 = true →
     exec (.registerWrite h m (wd (Reg.WTK_STALL.addr h t 0)) v) s =
        .next { s with blk := ({ s.blk.setW h .WTK_STALL v t with busErr := false }) }) ∧
  (∀ (s : State) (h : HalfId) (m : Master) (off : BitVec 22) (v : Word),
     s.blk.masterRuns ⟨h, m⟩ = true →
     m ≠ .link →
     s.blk.bridgeCarries h = true →
     exec (.crossHalfAccess h m true off v) s = .next { s with blk := ({ s.blk.send h (.write m (off.toNat + 0x400000 * h.peer.num) v) with busErr := false }) }) ∧
  (∀ (s : State) (h : HalfId) (m : Master) (off : BitVec 22) (v : Word),
     s.blk.masterRuns ⟨h, m⟩ = true →
     s.blk.bridgeReads h = true →
     (s.blk.lane h).fifo = [] →
     (s.blk.lane h).wait = [] →
     (s.blk.lane h.peer).fifo = [] →
     (s.blk.lane h.peer).wait = [] →
     off.toNat < 0x080000 →
     s.blk.pageOn h.peer 0 = true →
     exec (.crossHalfAccess h m false off v) s = .next { s with blk := ({ s.blk with
        busErr := false, busData := memGet 0 s.ram (off.toNat + 0x400000 * h.peer.num) }) })

/-- Words cross the racking bridge in order, and heartbeats, claims and their loss act on the half. BRIDGE_WORD_DELIVER
hands the oldest word on and gives its credit to a waiting word, a host word straight into its mailbox;
BRIDGE_CREDIT_WAIT_FAULT records the wait, in class 0, block 16, index 127 with the scores of the two halves as
DETAIL, which is the model's choice (log entry 15; rule R28 gives the fault no class or block); HEARTBEAT_SEND puts
the heartbeat on the bridge; HEARTBEAT_RECEIVE stores what it carries and derives the helm; BRIDGE_LOST and
BRIDGE_RETURN change the lost state and claim; TSC_XDIFF_MEASURE stores the difference. What a row judges itself and
what its operands carry is the model's form; the model's choices in these rows are log entries 1, 11, 23, 57, 58, 72,
73, 82, 89, 137. (Rules R28, R29, R43, R418, R425, R427.) -/
def Obligations.BridgeRowsComplete : Prop :=
  (∀ (s : State) (h : HalfId) (x : Word) (rest : List BMsg),
     (s.blk.lane h.peer).fifo = .beat x :: rest →
     s.blk.supRuns h = true →
     (s.blk.half h).hl.lost = false →
     exec (.bridgeWordDeliver h) s = .next { s with blk := (s.blk.setLane h.peer
        { fifo := rest ++ (s.blk.lane h.peer).wait.take 1, wait := (s.blk.lane h.peer).wait.drop 1,
          rx := (s.blk.lane h.peer).rx ++ [BMsg.beat x] }) }) ∧
  (∀ (s : State) (h : HalfId) (second : Bool) (x : Word) (rest : List BMsg),
     (s.blk.lane h.peer).fifo = .host second x :: rest →
     s.blk.supRuns h = true →
     (s.blk.half h).hl.lost = false →
     exec (.bridgeWordDeliver h) s = .next { s with blk := ((s.blk.setLane h.peer
        { fifo := rest ++ (s.blk.lane h.peer).wait.take 1, wait := (s.blk.lane h.peer).wait.drop 1,
          rx := (s.blk.lane h.peer).rx }).mbxStore h (if second then 4 else 0) x) }) ∧
  (∀ (s : State) (h : HalfId),
     (s.blk.lane h).wait ≠ [] →
     exec (.bridgeCreditWaitFault h) s = .next { s with blk := (s.blk.report h 0 0 16 127
        (s.blk.score h * 256 + s.blk.f h F.HLM_STAT_PEERQ)) }) ∧
  (∀ (s : State) (h : HalfId),
     s.blk.supRuns h = true →
     (s.blk.half h).hl.lost = false →
     ((s.blk.half h).hl.fwBeats = true ∨ s.blk.fwRuns h = false) →
     exec (.heartbeatSend h) s = .next { s with blk := (s.blk.send h (.beat (s.blk.beatWord h))) }) ∧
  (∀ (s : State) (h : HalfId) (w : Word) (rest : List BMsg),
     takeBeat (s.blk.lane h.peer).rx = some (w, rest) →
     (s.blk.half h).hl.lost = false →
     (s.blk.half h).hl.yielding = false →
     ∃ b : Block, b.f h F.HLM_STAT_PEERQ = bits w.toNat 20 13 ∧ b.f h F.HLM_STAT_PEERCLAIM = bits w.toNat 23 23 ∧
        b.f h F.HLM_STAT_PEERFW = bits w.toNat 22 22 ∧ b.on h F.HLM_STAT_BRIDGE = true ∧ (b.half h).hl.lastBeat = some w ∧
        exec (.heartbeatReceive h) s = .next { s with blk := (b.deriveHelm h (b.beatCause h (bits w.toNat 23 23 == 1))) }) ∧
  (∀ (s : State) (h : HalfId) (b : Block) (c : Block),
     s.blk.supRuns h = true →
     s.blk.on h F.HLM_STAT_PEERDOWN = false →
     (s.blk.half h).hl.lost = false →
     b = (((s.blk.setF h F.HLM_STAT_BRIDGE 0).setLane h (s.blk.lane h).cut).modHl h (fun y => { y with lost := true })).claim h 6 →
     c = ((((b.enterIsland h).setF h F.WTK_XCHK_PEER_VALID 0 0).setF h F.WTK_XCHK_PEER_VALID 0 1).peerMbxReset h).islandWrap h →
     exec (.bridgeLost h) s = .next { s with blk := (if c.servedBy h = h then c else (c.hostReset h).moveServing h h) }) ∧
  (∀ (s : State),
     s.blk.supRuns .a = true →
     s.blk.supRuns .b = true →
     (s.blk.half .a).hl.lost = true →
     exec .bridgeReturn s = .next { s with blk := ((s.blk.bridgeBack .a (s.blk.fwRuns .b)).bridgeBack .b (s.blk.fwRuns .a)) }) ∧
  (∀ (s : State) (h : HalfId) (e : Fin 5),
     s.blk.bridgeUp h = true →
     (s.blk.half h).live = true →
     (s.blk.half h.peer).live = true →
     s.blk.on h F.HLM_STAT_PEERFW = true →
     (s.blk.half h).tsc < 2 ^ 40 →
     (s.blk.half h.peer).tsc < 2 ^ 40 →
     ∃ t, exec (.tscXdiffMeasure h e) s = .next t ∧ t.blk.on h F.TSC_XSTAT_VALID = true ∧
        ((t.blk.half h).xdiff - (((s.blk.half h).tsc : Int) - (s.blk.half h.peer).tsc)).natAbs ≤ 2 ∧ (t.blk.half h).tsc = (s.blk.half h).tsc)

/-- Claims, peer down, disputes, class 4 requests and the supervisor watchdog. Each row of the helm, in the states in
which the spec gives it an effect, answers the state with that effect: HELM_CLAIM_TIMEOUT claims, PEER_DOWN follows
the peer, DISPUTE_EVALUATION records and sends QMIN, HELM_MESSAGE_RECEIVE takes the peer value, CLASS4_REQUEST_RECEIVE
and SUPERVISOR_WATCHDOG_TIMEOUT reset the half, a kick by SUP starts the watchdog, and the counters clear. What a row
judges itself and what its operands carry is the model's form; the model's choices in these rows are log entries 1,
11, 21, 23, 72, 73, 74, 78, 79, 88, 89, 90, 95. (Rules R419, R420, R421, R423, R424, R428, R429, R436.) -/
def Obligations.HelmRowsComplete : Prop :=
  (∀ (s : State) (h : HalfId) (t : Nat),
     (s.blk.half h).hl.claimAt = some t →
     198000 ≤ ticksGone t (s.blk.half h).tsc →
     s.blk.on h F.HLM_STAT_PEERCLAIM = false →
     s.blk.on h F.HLM_STAT_CLAIM = false →
     s.blk.fwRuns h = true →
     exec (.helmClaimTimeout h) s = .next { s with blk := (((s.blk.modHl h fun y => { y with claimAt := none }).setF h F.HLM_STAT_CLAIM 1).deriveHelm h 0) }) ∧
  (∀ (s : State) (h : HalfId) (t : Nat),
     (s.blk.half h).hl.claimAt = some t →
     198000 ≤ ticksGone t (s.blk.half h).tsc →
     (s.blk.on h F.HLM_STAT_PEERCLAIM = true ∨ s.blk.on h F.HLM_STAT_CLAIM = true) →
     exec (.helmClaimTimeout h) s = .next { s with blk := (s.blk.modHl h fun y => { y with claimAt := none }) }) ∧
  (∀ (s : State) (h : HalfId),
     (s.blk.half h).live = true →
     s.blk.supRuns h.peer = false →
     s.blk.on h F.HLM_STAT_PEERDOWN = false →
     exec (.peerDown h true) s = .next { s with blk := (((s.blk.peerInvalid.setF h F.HLM_STAT_PEERDOWN 1).setF h F.HLM_STAT_PEERCLAIM 0).claim h 1) }) ∧
  (∀ (s : State) (h : HalfId) (t : Block),
     (s.blk.half h).live = true →
     s.blk.supRuns h.peer = true →
     s.blk.on h F.HLM_STAT_PEERDOWN = true →
     t = (s.blk.setF h F.HLM_STAT_PEERDOWN 0).deriveHelm h 2 →
     exec (.peerDown h false) s = .next { s with blk := (if t.helm h = 3 ∧ s.blk.helm h ≠ 3 then t.enterIsland h else t) }) ∧
  (∀ (s : State) (h : HalfId),
     s.blk.helm h = 2 →
     s.blk.fwRuns h = true →
     s.blk.evalPoint h = true →
     s.blk.f h F.HLM_DISP_EVALS = 0 →
     exec (.disputeEvaluation h) s = .next { s with blk := ((s.blk.modHl h fun y => { y with evalAt := some (s.blk.half h).tsc, qmin := some (s.blk.score h) }).setF h F.HLM_DISP_EVALS 1) }) ∧
  (∀ (s : State) (h : HalfId) (q : Nat),
     s.blk.helm h = 2 →
     s.blk.fwRuns h = true →
     s.blk.evalPoint h = true →
     s.blk.f h F.HLM_DISP_EVALS = 1 →
     (s.blk.half h).hl.qmin = some q →
     exec (.disputeEvaluation h) s = .next { s with blk := (((((s.blk.modHl h fun y => { y with evalAt := some (s.blk.half h).tsc, qmin := some q, sentQ := true }).setF h F.HLM_DISP_EVALS 2).setF h F.HLM_DISP_QMIN q).send h
          (.qmin q)).decideDispute h) }) ∧
  (∀ (s : State) (h : HalfId) (q : Nat) (rest : List BMsg),
     takeQmin (s.blk.lane h.peer).rx = some (q, rest) →
     s.blk.helm h = 2 →
     exec (.helmMessageReceive h) s = .next { s with blk := ((((s.blk.setLane h.peer { s.blk.lane h.peer with rx := rest }).modHl h fun y => { y with pqmin := some q }).setF h
          F.HLM_DISP_PQMIN q).decideDispute h) }) ∧
  (∀ (s : State) (h : HalfId) (rest : List BMsg),
     takeClass4 (s.blk.lane h.peer).rx = some rest →
     exec (.class4RequestReceive h) s = .next { s with blk := (s.blk.resetHalf h 9) }) ∧
  (∀ (s : State) (h : HalfId),
     s.blk.supRuns h = true →
     (s.blk.half h).hl.wdogRun = true →
     exec (.supervisorWatchdogTimeout h) s = .next { s with blk := (s.blk.fatalAs h 7 3 0 15 3 0 false) }) ∧
  (∀ (s : State) (h : HalfId) (who : Master),
     s.blk.powered .CRP_WDOG h = true →
     s.blk.roleOf h who = some 3 →
     exec (.supervisorWatchdogKick h who) s = .next { s with blk := ({ s.blk.modHl h (fun y => { y with wdogRun := true }) with busErr := false }) }) ∧
  (∀ (s : State) (h : HalfId) (who : Master),
     s.blk.powered .HLM_CLR h = true →
     s.blk.hlmMaster h who = true →
     exec (.hlmClearCounters h who) s = .next { s with blk := ({ (s.blk.setW h .HLM_CNT 0).setW h .LOG_WRAPS 0 with busErr := false }) }) ∧
  (∀ (s : State) (h : HalfId) (who : Master),
     s.blk.powered .LOG_CMD h = true →
     s.blk.hlmMaster h who = true →
     exec (.logCmdClear h who) s = .next { s with blk := ({ s.blk.logClear h with busErr := false }) }) ∧
  (∀ (s : State) (h : HalfId) (r : Report) (rest : List Report),
     s.blk.memOn h = true →
     (s.blk.half h).hl.queue = r :: rest →
     exec (.logReport h) s = .next { s with blk := (((s.blk.modHl h fun y => { y with queue := rest }).logReport h r).logLosses h) }) ∧
  (∀ (s : State) (h : HalfId) (i : BitVec 8),
     s.blk.powered .LOG_ENT h = true →
     exec (.logEntryRead h i) s = .next { s with blk := ({ s.blk.modHl h (fun y => { y with latchE := (i.toNat, (s.blk.logEntry h i.toNat).drop 1) }) with
          busErr := false, busData := s.blk.logWord h i.toNat 0 }) })

/-- Core failures, role takeover, lockstep, SRAM errors and CAN FD. The rows of the processors, SRAM and CAN controllers,
in the states in which the spec gives them an effect, answer the state with it. That a double-bit error of a plain
data word is reported at class 0 is the model's choice (log entry 55). What a row judges itself and what its operands
carry is the model's form; the model's choices in these rows are log entries 1, 11, 54, 56, 58, 133. (Rules R330,
R332, R333, R334, R341, R371.) -/
def Obligations.ProcessorRowsComplete : Prop :=
  (∀ (s : State) (h : HalfId) (r : Fin 3),
     nth 2 (s.blk.half h).hip.roles r ≠ 2 →
     exec (.coreWatchdogTimeout h r) s = .next { s with blk := (s.blk.coreFails h r 0) }) ∧
  (∀ (s : State) (h : HalfId) (r : Fin 3) (q : CoreFail) (rest : List CoreFail),
     (s.blk.half h).cores.failing = q :: rest →
     q.role = r →
     s.blk.spcFree h = true →
     exec (.roleTakeover h r) s = .next { s with blk := ((((((s.blk.modCores h fun c => { c with failing := c.failing.filter (fun x => x.role != r.val) }).modHip h
          fun p => { p with roles := p.roles.set r 1 }).takeUp h r).spareEvent h 5 true r 0 0 15 r q.reason).notice h 0xCD [roleWord r 0 0])) }) ∧
  (∀ (s : State) (h : HalfId) (r : Fin 3),
     (s.blk.half h).cores.failing.find? (fun x => x.role == r.val) = none →
     exec (.roleTakeover h r) s = .next s) ∧
  (∀ (s : State) (h : HalfId),
     (s.blk.half h).hl.lastSup = none →
     exec (.supLockstepFault h) s = .next { s with blk := ((((s.blk.setF h F.HLM_ERR_LOCKSTEP 1).endReset h 3).modHl h fun y => { y with lastSup := some (s.blk.half h).tsc }).report h 0 1 15 3 3) }) ∧
  (∀ (s : State) (h : HalfId) (b : Fin 8) (row : BitVec 16),
     s.blk.f h F.TAL_POL_SRAMTH = 1 →
     nth 0 (s.blk.half h).sram.spare b < 8 →
     (3, b.val * 65536 + row.toNat) ∉ (s.blk.half h).tal.replaced →
     exec (.sramSingleBitError h b row) s = .next { s with blk := ((s.blk.modHalf h fun x => { x with sram := { x.sram with corr := x.sram.corr.filter (fun y => y.1 != (b.val, row.toNat)), spare := x.sram.spare.set b (nth 0 x.sram.spare b + 1) } }).spareEvent h 3 true b (7 - nth 0 (s.blk.half h).sram.spare b) row.toNat 14 b row.toNat) }) ∧
  (∀ (s : State) (h : HalfId) (b : Fin 8) (row : BitVec 16),
     s.blk.f h F.TAL_POL_SRAMTH = 0 →
     (s.blk.half h).sram.corr = [] →
     exec (.sramSingleBitError h b row) s = .next { s with blk := (s.blk.modHalf h fun x => { x with sram := { x.sram with corr := [((b.val, row.toNat), 1)] } }) }) ∧
  (∀ (s : State) (h : HalfId) (b : Fin 8) (row : BitVec 16) (who : Master),
     exec (.sramDoubleBitError h b row who false) s = .next { s with blk := (({ s.blk with busErr := true } : Block).report h 0 0 14 b row.toNat) }) ∧
  (∀ (s : State) (h : HalfId) (n : Fin 2) (w1 w2 : Word) (data : List Word),
     s.blk.canRuns h = true →
     s.blk.canState h n < 2 →
     bits w1.toNat 21 21 = 0 →
     s.blk.f h F.CAN_STAT_REC n ≤ 127 →
     canPasses (s.blk.half h).hip.filters n w1 w2 = false →
     exec (.canFrameReceive h n w1 w2 data) s = .next { s with blk := ((s.blk.setF h F.CAN_STAT_REC (s.blk.f h F.CAN_STAT_REC n - 1) n).canJudge h n) }) ∧
  (∀ (s : State) (h : HalfId) (n : Fin 2) (w1 w2 : Word) (data : List Word),
     s.blk.canRuns h = true →
     s.blk.canState h n < 2 →
     bits w1.toNat 21 21 = 0 →
     s.blk.f h F.CAN_STAT_REC n ≤ 127 →
     canPasses (s.blk.half h).hip.filters n w1 w2 = true →
     exec (.canFrameReceive h n w1 w2 data) s = .next { s with blk := (((s.blk.setF h F.CAN_STAT_REC (s.blk.f h F.CAN_STAT_REC n - 1) n).canJudge h n).softNotice h 0xD1
          ([wd (putBits w1.toNat 23 23 n), w2, wd (s.blk.tsLow h)] ++ data.take 22) 0) }) ∧
  (∀ (s : State) (h : HalfId) (n : Fin 2),
     s.blk.canRuns h = true →
     s.blk.canState h n < 2 →
     (nth ⟨[]⟩ (s.blk.half h).can n).tx ≠ [] →
     s.blk.on h F.CAN_CTRL_LISTEN n = false →
     s.blk.fdWaits h n = false →
     exec (.canTransmitComplete h n) s = .next { s with blk := (((s.blk.modCan h n fun c => ⟨c.tx.drop 1⟩).setF h F.CAN_STAT_TEC (s.blk.f h F.CAN_STAT_TEC n - 1) n).canJudge h n) }) ∧
  (∀ (s : State) (h : HalfId) (n : Fin 2) (heavy : Bool),
     s.blk.canRuns h = true →
     s.blk.canState h n < 2 →
     255 < s.blk.f h F.CAN_STAT_TEC n + 8 →
     exec (.canBusError h n true heavy) s = .next { s with blk := ((s.blk.setF h F.CAN_STAT_TEC 255 n).setF h F.CAN_STAT_STATE 2 n) }) ∧
  (∀ (s : State) (h : HalfId) (n : Fin 2) (heavy : Bool),
     s.blk.canRuns h = true →
     s.blk.canState h n < 2 →
     s.blk.f h F.CAN_STAT_REC n < 240 →
     exec (.canBusError h n false heavy) s = .next { s with blk := ((s.blk.setF h F.CAN_STAT_REC (s.blk.f h F.CAN_STAT_REC n + (if heavy then 8 else 1)) n).canJudge h n) }) ∧
  (∀ (s : State) (h : HalfId) (n : Fin 2),
     s.blk.canRuns h = true →
     s.blk.canState h n = 2 →
     exec (.canBusOffRecovery h n) s = .next { s with blk := (((s.blk.setF h F.CAN_STAT_STATE 0 n).setF h F.CAN_STAT_TEC 0 n).setF h F.CAN_STAT_REC 0 n) })

/-- Front ends: timing edges, VR arming and peaks, input faults. A timing edge of a digital or direction-coded input goes
to every tracker that takes the input, in both halves; an edge that is not the timing edge only moves LEVEL, and an
input that is off ignores it; in VR mode the armed detector takes the edge and its peak, and an unarmed one only moves
LEVEL; VR_ARM arms above the threshold and keeps the greatest level; VR_PEAK_TIMEOUT takes the previous peak as 0;
FE_FAULT_DETECT flags a short, or an open VR input, of an inactive input. While the DRV domain is off or in retention
the front ends are off and none of these has an effect. What a row judges itself and what its operands carry is the
model's form; the model's choices in these rows are log entries 1, 11. (Rules R33, R51, R52, R442, R472.) -/
def Obligations.FrontEndRowsComplete : Prop :=
  (∀ (s : State) (n : Fin 6) (up : Bool),
     s.blk.drvOn = true →
     s.blk.f .a F.FE_CFG_MODE n = 0 →
     exec (.feTimingEdge n up) s = .next s) ∧
  (∀ (s : State) (n : Fin 6) (up : Bool),
     s.blk.drvOn = true →
     2 ≤ s.blk.f .a F.FE_CFG_MODE n →
     up = !s.blk.on .a F.FE_CFG_INV n →
     exec (.feTimingEdge n up) s = .next { s with blk := ([HalfId.a, HalfId.b].foldl (fun b h => [0, 1].foldl (Block.deliver h n) b)
        ((s.blk.setF .a F.FE_STAT_LEVEL (bitOf up) n).setF .a F.FE_STAT_ACTIVE 1 n)) }) ∧
  (∀ (s : State) (n : Fin 6) (up : Bool),
     s.blk.drvOn = true →
     2 ≤ s.blk.f .a F.FE_CFG_MODE n →
     up = s.blk.on .a F.FE_CFG_INV n →
     exec (.feTimingEdge n up) s = .next { s with blk := (s.blk.setF .a F.FE_STAT_LEVEL (bitOf up) n) }) ∧
  (∀ (s : State) (n : Fin 6) (up : Bool),
     s.blk.drvOn = true →
     s.blk.f .a F.FE_CFG_MODE n = 1 →
     (s.blk.feOf n).armed = true →
     up = s.blk.on .a F.FE_CFG_INV n →
     exec (.feTimingEdge n up) s = .next { s with blk := ([HalfId.a, HalfId.b].foldl (fun b h => [0, 1].foldl (Block.deliver h n) b)
        ((((s.blk.setF .a F.FE_STAT_LEVEL (bitOf up) n).setFe n ⟨false, (s.blk.feOf n).peak, 0⟩).setF .a F.FE_STAT_PEAK
          (capNat 255 (s.blk.feOf n).peak) n).setF .a F.FE_STAT_ACTIVE 1 n)) }) ∧
  (∀ (s : State) (n : Fin 6) (up : Bool),
     s.blk.drvOn = true →
     s.blk.f .a F.FE_CFG_MODE n = 1 →
     ((s.blk.feOf n).armed = false ∨ up = !s.blk.on .a F.FE_CFG_INV n) →
     exec (.feTimingEdge n up) s = .next { s with blk := (s.blk.setF .a F.FE_STAT_LEVEL (bitOf up) n) }) ∧
  (∀ (s : State) (n : Fin 6) (v : BitVec 16),
     s.blk.drvOn = true →
     s.blk.f .a F.FE_CFG_MODE n = 1 →
     exec (.vrArm n v) s = .next { s with blk := (s.blk.setFe n { s.blk.feOf n with
        armed := (s.blk.feOf n).armed || decide (s.blk.armLevel n < v.toNat),
        peak := if (s.blk.feOf n).peak < v.toNat then v.toNat else (s.blk.feOf n).peak }) }) ∧
  (∀ (s : State) (n : Fin 6),
     s.blk.drvOn = true →
     exec (.vrPeakTimeout n) s = .next { s with blk := ((s.blk.setFe n { s.blk.feOf n with prevPeak := 0 }).setF .a F.FE_STAT_ACTIVE 0 n) }) ∧
  (∀ (s : State) (n : Fin 6),
     s.blk.drvOn = true →
     s.blk.on .a F.FE_STAT_ACTIVE n = false →
     exec (.feFaultDetect n true) s = .next { s with blk := (s.blk.setF .a F.FE_STAT_SHORT 1 n) }) ∧
  (∀ (s : State) (n : Fin 6),
     s.blk.drvOn = true →
     s.blk.on .a F.FE_STAT_ACTIVE n = false →
     s.blk.f .a F.FE_CFG_MODE n = 1 →
     exec (.feFaultDetect n false) s = .next { s with blk := (s.blk.setF .a F.FE_STAT_OPEN 1 n) }) ∧
  (∀ (s : State) (n : Fin 6) (up : Bool),
     s.blk.drvOn = false →
     exec (.feTimingEdge n up) s = .next s) ∧
  (∀ (s : State) (n : Fin 6) (v : BitVec 16),
     s.blk.drvOn = false →
     exec (.vrArm n v) s = .next s) ∧
  (∀ (s : State) (n : Fin 6),
     s.blk.drvOn = false →
     exec (.vrPeakTimeout n) s = .next s) ∧
  (∀ (s : State) (n : Fin 6) (b : Bool),
     s.blk.drvOn = false →
     exec (.feFaultDetect n b) s = .next s)

/-- Wheel edges: glitch filter, direction pulses, acceptance, cam edges. A waiting edge that has held for GLITCH ticks is
passed with its own timestamp, and one that has not is removed and flagged. A direction pulse is decoded by its width
against DIR_WIDTH, or as the pulse before it where the period is shorter than 3 × DIR_WIDTH or its trailing edge is
missing; in the declared direction it resets the run, against it it counts and steps, and the DIR_CONFIRM-th declares
the other direction. From GLITCH + 6 ticks after its timestamp an edge of an enabled tracker is judged: in LOST it is
ignored or, with AUTO_RESYNC, starts NONE; in NONE the first edge is the reference and the second enters TOOTH; in
TOOTH the matcher runs; in CRANK and FULL an edge in the windows steps the position, any other or one of a blocked
tracker is rejected. A cam edge names a revolution in CRANK sync, confirms FULL sync, or counts as a cam error. What a
row judges itself and what its operands carry is the model's form; the model's choices in these rows are log entries
1, 11, 25, 26, 27, 58, 83, 90, 95, 96, 99, 100, 103, 104, 106, 117, 118. (Rules R53, R54, R60, R61, R62, R63, R65,
R66, R67, R68, R70, R74.) -/
def Obligations.EdgeRowsComplete : Prop :=
  (∀ (s : State) (h : HalfId) (t : Fin 2) (cam : Bool) (st : Nat) (rest : List (Bool × Nat)),
     takeEdge cam (s.blk.trk h t).raw = some (st, rest) →
     reached ((st + s.blk.f h F.WTK_CTRL_GLITCH t) % 2 ^ 48) (s.blk.half h).tsc = true →
     exec (.glitchFilterPass h t cam true) s = .next { s with blk := (s.blk.modTrk h t fun y =>
        { y with raw := rest, passed := y.passed ++ [(cam, st)], dirOpen := if cam then y.dirOpen else some st }) }) ∧
  (∀ (s : State) (h : HalfId) (t : Fin 2) (cam : Bool) (st : Nat) (rest : List (Bool × Nat)),
     takeEdge cam (s.blk.trk h t).raw = some (st, rest) →
     exec (.glitchFilterPass h t cam false) s = .next { s with blk := ((s.blk.modTrk h t fun y => { y with raw := rest }).setF h F.WTK_ERR_GLITCH 1 t) }) ∧
  (∀ (s : State) (h : HalfId) (t : Fin 2) (tr : Bool) (st : Nat) (wid : Nat) (d : Bool) (b : Block),
     (s.blk.trk h t).dirOpen = some st →
     s.blk.f h F.WTK_CTRL_REV_MODE t = 1 →
     s.blk.f .a F.FE_CFG_MODE (s.blk.f h F.WTK_CTRL_CRK_SEL t) = 3 →
     wid = s.blk.f h F.WTK_DIRW_DIR_WIDTH t →
     (d = (if tr = false ∨ ((s.blk.trk h t).lastP ≠ 0 ∧ (s.blk.trk h t).lastP < 3 * wid) then (s.blk.trk h t).dirLast
        else decide (wid ≤ ticksTo st (s.blk.half h).tsc))) →
     b = (if tr then s.blk else s.blk.setF h F.WTK_ERR_DIRERR 1 t) →
     d = s.blk.trkRev h t →
     exec (.directionPulseDecode h t tr) s = .next { s with blk := (b.modTrk h t fun y =>
        { y with dirOpen := none, dirLast := d, dirRun := 0, dirSteps := 0 }) }) ∧
  (∀ (s : State) (h : HalfId) (t : Fin 2) (tr : Bool) (st : Nat) (wid : Nat) (d : Bool) (b : Block) (k : Nat),
     (s.blk.trk h t).dirOpen = some st →
     s.blk.f h F.WTK_CTRL_REV_MODE t = 1 →
     s.blk.f .a F.FE_CFG_MODE (s.blk.f h F.WTK_CTRL_CRK_SEL t) = 3 →
     wid = s.blk.f h F.WTK_DIRW_DIR_WIDTH t →
     (d = (if tr = false ∨ ((s.blk.trk h t).lastP ≠ 0 ∧ (s.blk.trk h t).lastP < 3 * wid) then (s.blk.trk h t).dirLast
        else decide (wid ≤ ticksTo st (s.blk.half h).tsc))) →
     b = (if tr then s.blk else s.blk.setF h F.WTK_ERR_DIRERR 1 t) →
     d ≠ s.blk.trkRev h t →
     k = (s.blk.trk h t).dirSteps + (if (s.blk.trk h t).lastEdge = some st then (if (s.blk.trk h t).lastSkip then 2 else 1) else 0) →
     (s.blk.trk h t).dirRun + 1 < s.blk.f h F.WTK_AUX_DIR_CONFIRM t →
     exec (.directionPulseDecode h t tr) s = .next { s with blk := (b.modTrk h t fun y =>
        { y with dirOpen := none, dirLast := d, dirRun := y.dirRun + 1, dirSteps := k }) }) ∧
  (∀ (s : State) (h : HalfId) (t : Fin 2) (tr : Bool) (st : Nat) (wid : Nat) (d : Bool) (b : Block) (k : Nat) (c : Block),
     (s.blk.trk h t).dirOpen = some st →
     s.blk.f h F.WTK_CTRL_REV_MODE t = 1 →
     s.blk.f .a F.FE_CFG_MODE (s.blk.f h F.WTK_CTRL_CRK_SEL t) = 3 →
     wid = s.blk.f h F.WTK_DIRW_DIR_WIDTH t →
     (d = (if tr = false ∨ ((s.blk.trk h t).lastP ≠ 0 ∧ (s.blk.trk h t).lastP < 3 * wid) then (s.blk.trk h t).dirLast
        else decide (wid ≤ ticksTo st (s.blk.half h).tsc))) →
     b = (if tr then s.blk else s.blk.setF h F.WTK_ERR_DIRERR 1 t) →
     d ≠ s.blk.trkRev h t →
     k = (s.blk.trk h t).dirSteps + (if (s.blk.trk h t).lastEdge = some st then (if (s.blk.trk h t).lastSkip then 2 else 1) else 0) →
     s.blk.f h F.WTK_AUX_DIR_CONFIRM t ≤ (s.blk.trk h t).dirRun + 1 →
     c = b.modTrk h t (fun y => { y with dirOpen := none, dirLast := d, dirRun := y.dirRun + 1, dirSteps := k }) →
     exec (.directionPulseDecode h t tr) s = .next { s with blk := (c.declare h t d
        (if c.placed h t then some (c.shifted h t (if d then -(2 * k) else 2 * k)) else none)) }) ∧
  (∀ (s : State) (h : HalfId) (t : Fin 2) (te : Nat) (rest : List (Bool × Nat)) (b : Block),
     takeEdge false (s.blk.trk h t).passed = some (te, rest) →
     reached ((te + s.blk.f h F.WTK_CTRL_GLITCH t + 6) % 2 ^ 48) (s.blk.half h).tsc = true →
     b = s.blk.modTrk h t (fun y => { y with passed := rest }) →
     s.blk.on h F.WTK_CTRL_EN t = false →
     exec (.edgeAcceptance h t) s = .next { s with blk := (b) }) ∧
  (∀ (s : State) (h : HalfId) (t : Fin 2) (te : Nat) (rest : List (Bool × Nat)) (b : Block),
     takeEdge false (s.blk.trk h t).passed = some (te, rest) →
     reached ((te + s.blk.f h F.WTK_CTRL_GLITCH t + 6) % 2 ^ 48) (s.blk.half h).tsc = true →
     b = s.blk.modTrk h t (fun y => { y with passed := rest }) →
     s.blk.on h F.WTK_CTRL_EN t = true →
     b.sync h t = syLost →
     b.on h F.WTK_CTRL_AUTO_RESYNC t = false →
     exec (.edgeAcceptance h t) s = .next { s with blk := (b) }) ∧
  (∀ (s : State) (h : HalfId) (t : Fin 2) (te : Nat) (rest : List (Bool × Nat)) (b : Block),
     takeEdge false (s.blk.trk h t).passed = some (te, rest) →
     reached ((te + s.blk.f h F.WTK_CTRL_GLITCH t + 6) % 2 ^ 48) (s.blk.half h).tsc = true →
     b = s.blk.modTrk h t (fun y => { y with passed := rest }) →
     s.blk.on h F.WTK_CTRL_EN t = true →
     b.sync h t = syLost →
     b.on h F.WTK_CTRL_AUTO_RESYNC t = true →
     exec (.edgeAcceptance h t) s = .next { s with blk := (((((b.latchCfg h t).setSync h t syNone).modTrk h t fun y =>
        { y with lastEdge := some te, ratios := [], prevT := ⟨0, 1⟩, periods := [] }).judged h t false).setQuality h t) }) ∧
  (∀ (s : State) (h : HalfId) (t : Fin 2) (te : Nat) (rest : List (Bool × Nat)) (b : Block),
     takeEdge false (s.blk.trk h t).passed = some (te, rest) →
     reached ((te + s.blk.f h F.WTK_CTRL_GLITCH t + 6) % 2 ^ 48) (s.blk.half h).tsc = true →
     b = s.blk.modTrk h t (fun y => { y with passed := rest }) →
     s.blk.on h F.WTK_CTRL_EN t = true →
     b.sync h t = syNone →
     (b.trk h t).lastEdge = none →
     exec (.edgeAcceptance h t) s = .next { s with blk := ((((b.latchCfg h t).modTrk h t fun y => { y with lastEdge := some te, ratios := [], prevT := ⟨0, 1⟩, periods := [] }).judged h t false).setQuality h t) }) ∧
  (∀ (s : State) (h : HalfId) (t : Fin 2) (te : Nat) (rest : List (Bool × Nat)) (b : Block) (e0 : Nat) (p : Nat),
     takeEdge false (s.blk.trk h t).passed = some (te, rest) →
     reached ((te + s.blk.f h F.WTK_CTRL_GLITCH t + 6) % 2 ^ 48) (s.blk.half h).tsc = true →
     b = s.blk.modTrk h t (fun y => { y with passed := rest }) →
     s.blk.on h F.WTK_CTRL_EN t = true →
     b.sync h t = syNone →
     (b.trk h t).lastEdge = some e0 →
     p = ticksTo e0 te →
     exec (.edgeAcceptance h t) s = .next { s with blk := (((((((b.latchCfg h t).setSync h t syTooth).modTrk h t fun y =>
        { y with lastEdge := some te, lastP := p, prevT := ⟨0, 1⟩, periods := [(p, 0)] }).setW h .WTK_LASTP (periodWord p) t).ringWrite h t p false
          false).judged h t false).setQuality h t) }) ∧
  (∀ (s : State) (h : HalfId) (t : Fin 2) (te : Nat) (rest : List (Bool × Nat)) (b : Block) (e0 : Nat),
     takeEdge false (s.blk.trk h t).passed = some (te, rest) →
     reached ((te + s.blk.f h F.WTK_CTRL_GLITCH t + 6) % 2 ^ 48) (s.blk.half h).tsc = true →
     b = s.blk.modTrk h t (fun y => { y with passed := rest }) →
     s.blk.on h F.WTK_CTRL_EN t = true →
     b.sync h t = syTooth →
     (b.trk h t).lastEdge = some e0 →
     exec (.edgeAcceptance h t) s = .next { s with blk := ((b.latchCfg h t).acceptTooth h t te (ticksTo e0 te)) }) ∧
  (∀ (s : State) (h : HalfId) (t : Fin 2) (te : Nat) (rest : List (Bool × Nat)) (b : Block),
     takeEdge false (s.blk.trk h t).passed = some (te, rest) →
     reached ((te + s.blk.f h F.WTK_CTRL_GLITCH t + 6) % 2 ^ 48) (s.blk.half h).tsc = true →
     b = s.blk.modTrk h t (fun y => { y with passed := rest }) →
     s.blk.on h F.WTK_CTRL_EN t = true →
     b.placed h t = true →
     b.on h F.WTK_STAT_BLOCKED t = true →
     exec (.edgeAcceptance h t) s = .next { s with blk := (b.reject h t false) }) ∧
  (∀ (s : State) (h : HalfId) (t : Fin 2) (te : Nat) (rest : List (Bool × Nat)) (b : Block) (e0 : Nat) (k : Nat),
     takeEdge false (s.blk.trk h t).passed = some (te, rest) →
     reached ((te + s.blk.f h F.WTK_CTRL_GLITCH t + 6) % 2 ^ 48) (s.blk.half h).tsc = true →
     b = s.blk.modTrk h t (fun y => { y with passed := rest }) →
     s.blk.on h F.WTK_CTRL_EN t = true →
     b.placed h t = true →
     b.on h F.WTK_STAT_BLOCKED t = false →
     (b.trk h t).lastEdge = some e0 →
     b.lauter h t (ticksTo e0 te) = some k →
     exec (.edgeAcceptance h t) s = .next { s with blk := ((b.latchCfg h t).acceptPlaced h t te (ticksTo e0 te) k) }) ∧
  (∀ (s : State) (h : HalfId) (t : Fin 2) (te : Nat) (rest : List (Bool × Nat)) (b : Block) (e0 : Nat),
     takeEdge false (s.blk.trk h t).passed = some (te, rest) →
     reached ((te + s.blk.f h F.WTK_CTRL_GLITCH t + 6) % 2 ^ 48) (s.blk.half h).tsc = true →
     b = s.blk.modTrk h t (fun y => { y with passed := rest }) →
     s.blk.on h F.WTK_CTRL_EN t = true →
     b.placed h t = true →
     b.on h F.WTK_STAT_BLOCKED t = false →
     (b.trk h t).lastEdge = some e0 →
     b.lauter h t (ticksTo e0 te) = none →
     exec (.edgeAcceptance h t) s = .next { s with blk := (b.reject h t (b.abnormal h t (if b.trkRev h t then b.tooth h t else entryAt (b.crkN h t) (b.tooth h t) 1))) }) ∧
  (∀ (s : State) (h : HalfId) (t : Fin 2) (te : Nat) (rest : List (Bool × Nat)) (b : Block),
     takeEdge true (s.blk.trk h t).passed = some (te, rest) →
     b = s.blk.modTrk h t (fun y => { y with passed := rest }) →
     (b.placed h t = false ∨ b.trkRev h t = true) →
     exec (.camEdge h t) s = .next { s with blk := (b) }) ∧
  (∀ (s : State) (h : HalfId) (t : Fin 2) (te : Nat) (rest : List (Bool × Nat)) (b : Block) (cs : List Nat),
     takeEdge true (s.blk.trk h t).passed = some (te, rest) →
     b = s.blk.modTrk h t (fun y => { y with passed := rest }) →
     b.sync h t = syCrank →
     b.trkRev h t = false →
     cs = (((List.range (b.f h F.WTK_TABN_CAM_N t)).map (b.camAng h t)).filter (fun c => decide (circDist revAU (c % revAU) (b.placedAt h t te revAU) ≤ b.camTol h t))) →
     [] = cs →
     exec (.camEdge h t) s = .next { s with blk := ((((b.modTrk h t fun y => { y with camNamed := none }).modTrk h t fun y =>
        { y with camHist := (true :: y.camHist).take 8 }).setF h F.WTK_ERR_CAMERR 1 t).setQuality h t) }) ∧
  (∀ (s : State) (h : HalfId) (t : Fin 2) (te : Nat) (rest : List (Bool × Nat)) (b : Block) (cs : List Nat),
     takeEdge true (s.blk.trk h t).passed = some (te, rest) →
     b = s.blk.modTrk h t (fun y => { y with passed := rest }) →
     b.sync h t = syCrank →
     b.trkRev h t = false →
     cs = (((List.range (b.f h F.WTK_TABN_CAM_N t)).map (b.camAng h t)).filter (fun c => decide (circDist revAU (c % revAU) (b.placedAt h t te revAU) ≤ b.camTol h t))) →
     2 ≤ cs.length →
     exec (.camEdge h t) s = .next { s with blk := (b) }) ∧
  (∀ (s : State) (h : HalfId) (t : Fin 2) (te : Nat) (rest : List (Bool × Nat)) (b : Block) (cs : List Nat) (a : Nat) (rv : Nat) (k : Nat) (c : Block),
     takeEdge true (s.blk.trk h t).passed = some (te, rest) →
     b = s.blk.modTrk h t (fun y => { y with passed := rest }) →
     b.sync h t = syCrank →
     b.trkRev h t = false →
     cs = (((List.range (b.f h F.WTK_TABN_CAM_N t)).map (b.camAng h t)).filter (fun c => decide (circDist revAU (c % revAU) (b.placedAt h t te revAU) ≤ b.camTol h t))) →
     [a] = cs →
     rv = (if a < revAU then 0 else 1) →
     (k = (match (b.trk h t).camNamed with | some (r, m) => if r = rv then m + 1 else 1 | none => 1)) →
     (c = (b.modTrk h t fun y => { y with camHist := (false :: y.camHist).take 8 }).modTrk h t (fun y => { y with camNamed := some (rv, k) })) →
     exec (.camEdge h t) s = .next { s with blk := (if b.f h F.WTK_AUX_CAM_CONFIRM t ≤ k then c.resolve h t rv else c.setQuality h t) }) ∧
  (∀ (s : State) (h : HalfId) (t : Fin 2) (te : Nat) (rest : List (Bool × Nat)) (b : Block),
     takeEdge true (s.blk.trk h t).passed = some (te, rest) →
     b = s.blk.modTrk h t (fun y => { y with passed := rest }) →
     b.sync h t = syFull →
     b.trkRev h t = false →
     ((List.range (b.f h F.WTK_TABN_CAM_N t)).map (b.camAng h t)).any (fun c => decide (circDist (b.cycleL h) c (b.placedAt h t te (b.cycleL h)) ≤ b.camTol h t)) = true →
     exec (.camEdge h t) s = .next { s with blk := ((((b.modTrk h t fun y => { y with sinceCam := 0 }).modTrk h t fun y =>
        { y with camHist := (false :: y.camHist).take 8 }).setF h F.WTK_STAT_CAM_SEEN 1 t).setQuality h t) }) ∧
  (∀ (s : State) (h : HalfId) (t : Fin 2) (te : Nat) (rest : List (Bool × Nat)) (b : Block),
     takeEdge true (s.blk.trk h t).passed = some (te, rest) →
     b = s.blk.modTrk h t (fun y => { y with passed := rest }) →
     b.sync h t = syFull →
     b.trkRev h t = false →
     ((List.range (b.f h F.WTK_TABN_CAM_N t)).map (b.camAng h t)).any (fun c => decide (circDist (b.cycleL h) c (b.placedAt h t te (b.cycleL h)) ≤ b.camTol h t)) = false →
     exec (.camEdge h t) s = .next { s with blk := (((((b.modTrk h t fun y => { y with camHist := (true :: y.camHist).take 8 }).setF h F.WTK_ERR_CAMERR 1 t).count h
          F.WTK_CNT_CAMERRS t).setF h F.WTK_STAT_FULL_CYCLES 0 t).setQuality h t) })

/-- Wheel trackers: stall, failover, enable, disable, counters, source and cross-check. A stall that is due enters LOST
with LOSTSEEN; of the angle source it passes the source to the other tracker where rule R56 lets it, and otherwise
ends the clock with STALL; an angle frame says so where the source does not pass. Enabling an idle tracker whose
tables are valid starts it and one with invalid tables only sets WTK_ERR.CFG; while it is enabled the access ends with
a bus error. Disabling returns it to NONE, and where it was the angle source it ends the clock with SYNC_LOST, unless
the clock follows the fabric, and an angle frame says so. CLRCNT clears the counters, PRIMARY takes the tracker
written, and an angle message of the peer gives DIFF and PEER_VALID, or clears PEER_VALID where no comparison can be
made; a difference beyond XCHK_TOL sets ERR.XCHK and is reported. What a row judges itself and what its operands carry
is the model's form; the model's choices in these rows are log entries 1, 11, 10, 30, 79, 88, 90, 91, 99, 102, 105.
(Rules R56, R59, R67, R78, R79, R83, R84, R85.) -/
def Obligations.TrackerRowsComplete : Prop :=
  (∀ (s : State) (h : HalfId) (t : Fin 2) (b : Block),
     (s.blk.sync h t = syTooth ∨ s.blk.placed h t = true) →
     s.blk.stalls h t = true →
     b = (s.blk.unplace h t syLost).setF h F.WTK_ERR_LOSTSEEN 1 t →
     (s.blk.src h ≠ t ∨ s.blk.placed h t = false) →
     exec (.stallTimeout h t) s = .next { s with blk := (b) }) ∧
  (∀ (s : State) (h : HalfId) (t : Fin 2) (b : Block),
     (s.blk.sync h t = syTooth ∨ s.blk.placed h t = true) →
     s.blk.stalls h t = true →
     b = (s.blk.unplace h t syLost).setF h F.WTK_ERR_LOSTSEEN 1 t →
     s.blk.src h = t →
     s.blk.drives h t = false →
     s.blk.placed h t = true →
     exec (.stallTimeout h t) s = .next { s with blk := (b.angleSend h 1) }) ∧
  (∀ (s : State) (h : HalfId) (t : Fin 2) (b : Block),
     (s.blk.sync h t = syTooth ∨ s.blk.placed h t = true) →
     s.blk.stalls h t = true →
     b = (s.blk.unplace h t syLost).setF h F.WTK_ERR_LOSTSEEN 1 t →
     s.blk.src h = t →
     s.blk.drives h t = true →
     s.blk.placed h t = true →
     b.failoverTo h t = false →
     exec (.stallTimeout h t) s = .next { s with blk := ((b.clockInvalid h cSTALL).angleSend h 1) }) ∧
  (∀ (s : State) (h : HalfId) (t : Fin 2) (b : Block) (c : Block),
     (s.blk.sync h t = syTooth ∨ s.blk.placed h t = true) →
     s.blk.stalls h t = true →
     b = (s.blk.unplace h t syLost).setF h F.WTK_ERR_LOSTSEEN 1 t →
     s.blk.src h = t →
     s.blk.drives h t = true →
     s.blk.placed h t = true →
     b.failoverTo h t = true →
     c = b.takeSource h (1 - t.val) →
     exec (.stallTimeout h t) s = .next { s with blk := (c.report h 0 0 0 t (c.w h .WTK_ERR t).toNat) }) ∧
  (∀ (s : State) (h : HalfId) (t : Fin 2),
     s.blk.powered .WTK_CTRL h = true →
     s.blk.on h F.WTK_CTRL_EN t = true →
     exec (.wtkEnable h t) s = .next { s with blk := ({ s.blk with busErr := true }) }) ∧
  (∀ (s : State) (h : HalfId) (t : Fin 2),
     s.blk.powered .WTK_CTRL h = true →
     s.blk.on h F.WTK_CTRL_EN t = false →
     s.blk.tablesValid h t = false →
     exec (.wtkEnable h t) s = .next { s with blk := ({ s.blk.setF h F.WTK_ERR_CFG 1 t with busErr := false }) }) ∧
  (∀ (s : State) (h : HalfId) (t : Fin 2) (b : Block) (c : Block),
     s.blk.powered .WTK_CTRL h = true →
     s.blk.on h F.WTK_CTRL_EN t = false →
     s.blk.tablesValid h t = true →
     (b = (if s.blk.on h F.WTK_CTRL_EN (1 - t.val) then s.blk
        else (s.blk.setF h F.WTK_ASEL_CURSRC (s.blk.f h F.WTK_ASEL_PRIMARY)).modHalf h fun x => { x with srcAsked := false })) →
     c = (if s.blk.f h F.WTK_CTRL_REV_MODE t = 1 then b else b.setF h F.WTK_STAT_REV 0 t) →
     exec (.wtkEnable h t) s = .next { s with blk := ({ ((c.setF h F.WTK_CTRL_EN 1 t).setTrk h t Tracker.idle).setQuality h t with busErr := false }) }) ∧
  (∀ (s : State) (h : HalfId) (t : Fin 2),
     s.blk.powered .WTK_CTRL h = true →
     s.blk.on h F.WTK_CTRL_EN t = true →
     (s.blk.src h ≠ t ∨ s.blk.placed h t = false) →
     exec (.wtkDisable h t) s = .next { s with blk := ({ ((s.blk.setF h F.WTK_CTRL_EN 0 t).unplace h t syNone).modTrk h t (fun y => { y with raw := [], passed := [], dirOpen := none }) with
        busErr := false }) }) ∧
  (∀ (s : State) (h : HalfId) (t : Fin 2) (b : Block),
     s.blk.powered .WTK_CTRL h = true →
     s.blk.on h F.WTK_CTRL_EN t = true →
     s.blk.src h = t →
     s.blk.placed h t = true →
     b = ((s.blk.setF h F.WTK_CTRL_EN 0 t).unplace h t syNone).modTrk h t (fun y => { y with raw := [], passed := [], dirOpen := none }) →
     exec (.wtkDisable h t) s = .next { s with blk := ({ ((if s.blk.drives h t then b.clockInvalid h cSYNC_LOST else b).angleSend h 2) with busErr := false }) }) ∧
  (∀ (s : State) (h : HalfId) (t : Fin 2),
     s.blk.powered .WTK_CTRL h = true →
     s.blk.on h F.WTK_CTRL_EN t = false →
     exec (.wtkDisable h t) s = .next { s with blk := ({ s.blk with busErr := false }) }) ∧
  (∀ (s : State) (h : HalfId) (t : Fin 2),
     s.blk.powered .WTK_CLR h = true →
     exec (.wtkClearCounters h t) s = .next { s with blk := ({ s.blk.clearW h .WTK_CNT t with busErr := false }) }) ∧
  (∀ (s : State) (h : HalfId) (t : Fin 2),
     s.blk.powered .WTK_ASEL h = true →
     exec (.angleSourceSelect h t) s = .next { s with blk := ({ (s.blk.setF h F.WTK_ASEL_PRIMARY t).modHalf h (fun x => { x with srcAsked := s.blk.src h != t.val }) with
        busErr := false }) }) ∧
  (∀ (s : State) (h : HalfId) (st : Nat) (a : Nat) (f : Bool) (rest : List BMsg) (b : Block) (t : Nat),
     takeAngle (s.blk.lane h.peer).rx = some (st, a, f, rest) →
     b = s.blk.setLane h.peer { s.blk.lane h.peer with rx := rest } →
     t = b.src h →
     (b.placed h t = false ∨ b.placed h.peer (b.src h.peer) = false ∨ b.bridgeUp h = false ∨ b.on h F.TSC_XSTAT_VALID = false) →
     exec (.angleMessageReceive h) s = .next { s with blk := (b.setF h F.WTK_XCHK_PEER_VALID 0 t) }) ∧
  (∀ (s : State) (h : HalfId) (st : Nat) (a : Nat) (f : Bool) (rest : List BMsg) (b : Block) (t : Nat) (m : Nat) (own : Nat) (d : Int) (c : Block),
     takeAngle (s.blk.lane h.peer).rx = some (st, a, f, rest) →
     b = s.blk.setLane h.peer { s.blk.lane h.peer with rx := rest } →
     t = b.src h →
     b.placed h t = true →
     b.placed h.peer (b.src h.peer) = true →
     b.bridgeUp h = true →
     b.on h F.TSC_XSTAT_VALID = true →
     (m = (if f = true ∧ b.sync h t = syFull then b.cycleL h else revAU)) →
     own = b.placedAt h t (((st : Int) + (b.half h).xdiff) % 2 ^ 48).toNat m →
     d = (if 2 * fwd m own (a % m) < m then (fwd m own (a % m) : Int) else (fwd m own (a % m) : Int) - m) →
     c = (b.setF h F.WTK_XCHK_PEER_VALID 1 t).setF h F.WTK_XCHK_DIFF (field 15 (clampInt 16383 (if d < 0 then -((-d) / 64) else d / 64))) t →
     d.natAbs ≤ (b.trk h t).xTol * 64 →
     exec (.angleMessageReceive h) s = .next { s with blk := (c) }) ∧
  (∀ (s : State) (h : HalfId) (st : Nat) (a : Nat) (f : Bool) (rest : List BMsg) (b : Block) (t : Nat) (m : Nat) (own : Nat) (d : Int) (c : Block) (e : Block),
     takeAngle (s.blk.lane h.peer).rx = some (st, a, f, rest) →
     b = s.blk.setLane h.peer { s.blk.lane h.peer with rx := rest } →
     t = b.src h →
     b.placed h t = true →
     b.placed h.peer (b.src h.peer) = true →
     b.bridgeUp h = true →
     b.on h F.TSC_XSTAT_VALID = true →
     (m = (if f = true ∧ b.sync h t = syFull then b.cycleL h else revAU)) →
     own = b.placedAt h t (((st : Int) + (b.half h).xdiff) % 2 ^ 48).toNat m →
     d = (if 2 * fwd m own (a % m) < m then (fwd m own (a % m) : Int) else (fwd m own (a % m) : Int) - m) →
     c = (b.setF h F.WTK_XCHK_PEER_VALID 1 t).setF h F.WTK_XCHK_DIFF (field 15 (clampInt 16383 (if d < 0 then -((-d) / 64) else d / 64))) t →
     (b.trk h t).xTol * 64 < d.natAbs →
     e = (c.setF h F.WTK_ERR_XCHK 1 t).modTrk h t (fun y => { y with xMismatch := true }) →
     exec (.angleMessageReceive h) s = .next { s with blk := ((e.setQuality h t).report h 0 0 0 t (e.w h .WTK_ERR t).toNat) })

/-- The angle clock: halt, hold, catch-up, enable, disable, reads and follower events. HALT_REACHED, HOLD_END and
CATCHUP_END change the clock's mode with the flags of ANG_STAT; enabling leaves it invalid and is refused while it is
enabled, disabling makes it invalid with SYNC_LOST; ANG_NOW is read with its two latches; a follower acts on the
oldest message, and drops it while it is no follower; a follower stall makes the clock invalid once no message has
become usable for FSTALL µs, 1,000 at least; that it clears EUL_ASTAT.AVALID as well is the model's choice (log entry
76). What a row judges itself and what its operands carry is the model's form; the model's choices in these rows are
log entries 1, 11, 27, 79, 88, 90, 126. (Rules R92, R93, R95, R99, R110, R111, R113.) -/
def Obligations.AngleClockRowsComplete : Prop :=
  (∀ (s : State) (h : HalfId),
     s.blk.clockValid h = true →
     (s.blk.half h).clk.mode ≠ .halted →
     (s.blk.half h).clk.a = (s.blk.half h).clk.halt →
     fracLe (s.blk.half h).clk.haltRun ((s.blk.half h).clk.run (s.blk.half h).tsc) = true →
     exec (.haltReached h) s = .next { s with blk := ((s.blk.modClk h fun c => { c with mode := .halted, haltLen := 1 }).clkFlags h .halted) }) ∧
  (∀ (s : State) (h : HalfId) (m : Nat),
     s.blk.clockValid h = true →
     (s.blk.half h).clk.mode = .hold →
     m = s.blk.modM h →
     (s.blk.half h).clk.holdOver m (s.blk.clockRev h) ((s.blk.half h).clk.qHeld m (s.blk.clockRev h) (s.blk.half h).tsc) = true →
     exec (.holdEnd h) s = .next { s with blk := ((s.blk.modClk h fun c => { c with mode := .follow }).clkFlags h .follow) }) ∧
  (∀ (s : State) (h : HalfId),
     s.blk.clockValid h = true →
     (s.blk.half h).clk.mode = .catchup →
     (s.blk.half h).clk.a = (s.blk.half h).clk.qHeld (s.blk.modM h) (s.blk.clockRev h) (s.blk.half h).tsc →
     exec (.catchupEnd h) s = .next { s with blk := ((s.blk.modClk h fun c => { c with mode := .follow }).clkFlags h .follow) }) ∧
  (∀ (s : State) (h : HalfId),
     s.blk.powered .ANG_CTRL h = true →
     s.blk.on h F.ANG_CTRL_EN = false →
     exec (.angleClockEnable h) s = .next { s with blk := ({ (s.blk.setF h F.ANG_CTRL_EN 1).modFab h (fun x => { x with usedAt := (s.blk.half h).tsc }) with busErr := false }) }) ∧
  (∀ (s : State) (h : HalfId),
     s.blk.powered .ANG_CTRL h = true →
     s.blk.on h F.ANG_CTRL_EN = true →
     exec (.angleClockEnable h) s = .next { s with blk := ({ s.blk with busErr := true }) }) ∧
  (∀ (s : State) (h : HalfId),
     s.blk.powered .ANG_CTRL h = true →
     exec (.angleClockDisable h) s = .next { s with blk := ({ (s.blk.setF h F.ANG_CTRL_EN 0).clockInvalid h cSYNC_LOST with busErr := false }) }) ∧
  (∀ (s : State) (h : HalfId),
     s.blk.powered .ANG_CLR h = true →
     exec (.angleClearCounters h) s = .next { s with blk := ({ s.blk.clearW h .ANG_CNT with busErr := false }) }) ∧
  (∀ (s : State) (h : HalfId),
     s.blk.powered .ANG_NOW h = true →
     ∃ t, exec (.angNowRead h) s = .next t ∧ t.blk.busData = wd (s.blk.ang h) ∧ t.blk.w h .ANG_TSL = wd (s.blk.tsLow h) ∧
        t.blk.f h F.ANG_FRAC_FRAC = (s.blk.half h).clk.a % 65536 ∧ t.blk.half h = s.blk.half h ∧ t.ram = s.ram ∧ t.blk.busErr = false) ∧
  (∀ (s : State) (h : HalfId) (pay : List Word) (src : Nat) (q : Nat) (rest : List (List Word × Nat × Nat)) (b : Block),
     (s.blk.fab h).queue = (pay, src, q) :: rest →
     b = s.blk.modFab h (fun x => { x with queue := rest, usedAt := (s.blk.half h).tsc }) →
     exec (.broadcastMessageUse h) s = .next { s with blk := (if s.blk.on h F.ANG_CTRL_EN && s.blk.on h F.ANG_CTRL_SRC then b.follow1 h pay else b) }) ∧
  (∀ (s : State) (h : HalfId),
     s.blk.on h F.ANG_CTRL_EN = true →
     s.blk.on h F.ANG_CTRL_SRC = true →
     (if s.blk.f h F.ANG_FSTALL_FSTALL < 1000 then 1000 else s.blk.f h F.ANG_FSTALL_FSTALL) * 200 ≤ ticksTo (s.blk.fab h).usedAt (s.blk.half h).tsc →
     exec (.followerStallTimeout h) s = .next { s with blk := (((s.blk.clockInvalid h cSTALL).setF h F.ANG_ERR_FLOSS 1).setF h F.EUL_ASTAT_AVALID 0) })

/-- EutenLink ports: lanes, links, wraps, frames received and forwarded. A failed lane is replaced where the other is good
and LANE_AUTO allows, is reported where LANE_AUTO is 0, and takes the port out of service where the other is bad too;
a link that falls leaves UP; a wrap heals after its link holds; symbols on a port in use wake a half below Rest, a
frame with a bad CRC or length is counted and dropped, a PDREQ or PDRESP waits at the half it came to, a frame of
another node is forwarded and, where it is meant for this node and not yet seen, acted on; the node's own frame is
removed at WEST or at its own wrap, and forwarded otherwise, with DUPID where it is no copy of the node's own. A lane
that fails is judged on the counts the port holds, a frame with NW beyond 16 counts as a CRC error, and what a node
saw is kept for 1 ms: the model's choice (log entry 76), as is what is done at the own wrap and by halves that the
lost bridge divides (log entry 139). counters clear and fabric time is read with its latch. What a row judges itself
and what its operands carry is the model's form; the model's choices in these rows are log entries 1, 11, 16, 58, 75,
76, 79, 88, 139. (Rules R377, R380, R381, R382, R384, R387, R388, R394, R443.) -/
def Obligations.FabricPortRowsComplete : Prop :=
  (∀ (s : State) (h : HalfId) (p : Fin 2) (b : Block),
     s.blk.on h F.EUL_PSTAT_LANEFAIL p = false →
     ((16 ≤ (s.blk.eport h p).viol.length ∨ 2 ≤ (s.blk.eport h p).trainF) ∨ nth false (s.blk.eport h p).laneBad (s.blk.f h F.EUL_PSTAT_LANE p) = true) →
     b = s.blk.modPort h p (fun y => { y with laneBad := y.laneBad.set (s.blk.f h F.EUL_PSTAT_LANE p) true, viol := [], trainF := 0 }) →
     nth false (s.blk.eport h p).laneBad (1 - s.blk.f h F.EUL_PSTAT_LANE p) = false →
     s.blk.on h F.EUL_PCFG_LANE_AUTO p = false →
     nth false (s.blk.eport h p).laneBad (s.blk.f h F.EUL_PSTAT_LANE p) = false →
     exec (.eulLaneFail h p) s = .next { s with blk := ((b.report h 0 1 12 p (b.w h .EUL_ERR).toNat)) }) ∧
  (∀ (s : State) (h : HalfId) (p : Fin 2) (b : Block) (c : Block) (d : Block),
     s.blk.on h F.EUL_PSTAT_LANEFAIL p = false →
     ((16 ≤ (s.blk.eport h p).viol.length ∨ 2 ≤ (s.blk.eport h p).trainF) ∨ nth false (s.blk.eport h p).laneBad (s.blk.f h F.EUL_PSTAT_LANE p) = true) →
     b = s.blk.modPort h p (fun y => { y with laneBad := y.laneBad.set (s.blk.f h F.EUL_PSTAT_LANE p) true, viol := [], trainF := 0 }) →
     nth false (s.blk.eport h p).laneBad (1 - s.blk.f h F.EUL_PSTAT_LANE p) = false →
     s.blk.on h F.EUL_PCFG_LANE_AUTO p = true →
     c = b.retrain h p →
     d = ((c.setF h F.EUL_PSTAT_LANE (1 - s.blk.f h F.EUL_PSTAT_LANE p) p).setF h F.EUL_PSTAT_SPAREUSE 1 p).setF h F.EUL_ERR_LANESW 1 →
     exec (.eulLaneFail h p) s = .next { s with blk := ((d.spareEvent h 8 true (flNum (h, p)) 0 0 12 p (d.w h .EUL_ERR).toNat)) }) ∧
  (∀ (s : State) (h : HalfId) (p : Fin 2) (b : Block) (c : Block) (d : Block),
     s.blk.on h F.EUL_PSTAT_LANEFAIL p = false →
     ((16 ≤ (s.blk.eport h p).viol.length ∨ 2 ≤ (s.blk.eport h p).trainF) ∨ nth false (s.blk.eport h p).laneBad (s.blk.f h F.EUL_PSTAT_LANE p) = true) →
     b = s.blk.modPort h p (fun y => { y with laneBad := y.laneBad.set (s.blk.f h F.EUL_PSTAT_LANE p) true, viol := [], trainF := 0 }) →
     nth false (s.blk.eport h p).laneBad (1 - s.blk.f h F.EUL_PSTAT_LANE p) = true →
     c = b.retrain h p →
     d = c.setF h F.EUL_PSTAT_LANEFAIL 1 p →
     exec (.eulLaneFail h p) s = .next { s with blk := ((d.spareEvent h 8 false (flNum (h, p)) 0 0 12 p (d.w h .EUL_ERR).toNat)) }) ∧
  (∀ (s : State) (h : HalfId) (p : Fin 2),
     s.blk.portUp (h, p.val) = true →
     exec (.eulLinkDown h p) s = .next { s with blk := (s.blk.eulFalls h p lkTRAIN) }) ∧
  (∀ (s : State) (h : HalfId) (p : Fin 2),
     s.blk.on h F.EUL_PSTAT_WRAP p = true →
     s.blk.portUp (h, p.val) = true →
     (s.blk.islandPort h ≠ some p.val ∨ s.blk.bridgeUp h = true) →
     exec (.eulWrapHeal h p) s = .next { s with blk := (((s.blk.modPort h p fun x => { x with wrap := false }).setF h F.EUL_PSTAT_WRAP 0 p).setF h F.EUL_ERR_HEALED 1) }) ∧
  (∀ (s : State) (h : HalfId) (p : Fin 2),
     s.blk.on h F.EUL_PSTAT_WRAP p = true →
     s.blk.portUp (h, p.val) = true →
     s.blk.islandPort h = some p.val →
     s.blk.bridgeUp h = false →
     exec (.eulWrapHeal h p) s = .next { s with blk := (s.blk.modPort h p fun x => { x with wrap := false }) }) ∧
  (∀ (s : State) (h : HalfId) (p : Fin 2) (e : FrameEnd) (w0 : Word) (w1 : Word) (w2 : Word) (pay : List Word) (tap : BitVec 6) (res : List (BitVec 24)) (f : EFrame),
     f = ⟨w0, w1, w2, pay⟩ →
     2 ≤ s.blk.rung h →
     exec (.eulFrameReceive h p e w0 w1 w2 pay tap res) s = .next { s with blk := (s.blk.eulWake h p) }) ∧
  (∀ (s : State) (h : HalfId) (p : Fin 2) (e : FrameEnd) (w0 : Word) (w1 : Word) (w2 : Word) (pay : List Word) (tap : BitVec 6) (res : List (BitVec 24)) (f : EFrame),
     f = ⟨w0, w1, w2, pay⟩ →
     s.blk.rung h < 2 →
     s.blk.portUp (h, p.val) = true →
     s.blk.portInUse h p = true →
     (e.good f.words = false ∨ f.nw ≠ pay.length ∨ 16 < f.nw) →
     exec (.eulFrameReceive h p e w0 w1 w2 pay tap res) s = .next { s with blk := (s.blk.count h F.EUL_PCNT1_CRCERRS p) }) ∧
  (∀ (s : State) (h : HalfId) (p : Fin 2) (e : FrameEnd) (w0 : Word) (w1 : Word) (w2 : Word) (pay : List Word) (tap : BitVec 6) (res : List (BitVec 24)) (f : EFrame),
     f = ⟨w0, w1, w2, pay⟩ →
     s.blk.rung h < 2 →
     s.blk.portUp (h, p.val) = true →
     s.blk.portInUse h p = true →
     e.good f.words = true →
     f.nw = pay.length →
     f.nw ≤ 16 →
     (f.type = ftPDREQ ∨ f.type = ftPDRESP) →
     exec (.eulFrameReceive h p e w0 w1 w2 pay tap res) s = .next { s with blk := ((if f.src = s.blk.f h F.EUL_NODE_NODE then s.blk.setF h F.EUL_ERR_DUPID 1 else s.blk).hand h h p tap.toNat f) }) ∧
  (∀ (s : State) (h : HalfId) (p : Fin 2) (e : FrameEnd) (w0 : Word) (w1 : Word) (w2 : Word) (pay : List Word) (tap : BitVec 6) (res : List (BitVec 24)) (f : EFrame) (b : Block),
     f = ⟨w0, w1, w2, pay⟩ →
     s.blk.rung h < 2 →
     s.blk.portUp (h, p.val) = true →
     s.blk.portInUse h p = true →
     e.good f.words = true →
     f.nw = pay.length →
     f.nw ≤ 16 →
     f.type ≠ ftPDREQ →
     f.type ≠ ftPDRESP →
     (f.src ≠ s.blk.f h F.EUL_NODE_NODE ∨ (s.blk.f h F.EUL_NODE_TOPO ≠ 2 ∧ s.blk.bridgeUp h = false ∧ s.blk.sawIt h f = false)) →
     b = s.blk.forward h p f (fun i => (nth 0 res i).toNat) →
     exec (.eulFrameReceive h p e w0 w1 w2 pay tap res) s = .next { s with blk := (if f.type = 0 ∨ 6 < f.type ∨ s.blk.sawIt h f = true ∨ (f.bcast = false ∧ f.dst ≠ s.blk.f h F.EUL_NODE_NODE) then b else b.actOn h p tap.toNat f) }) ∧
  (∀ (s : State) (h : HalfId) (p : Fin 2) (e : FrameEnd) (w0 : Word) (w1 : Word) (w2 : Word) (pay : List Word) (tap : BitVec 6) (res : List (BitVec 24)) (f : EFrame) (west : Bool) (ring : Bool) (b : Block),
     f = ⟨w0, w1, w2, pay⟩ →
     s.blk.rung h < 2 →
     s.blk.portUp (h, p.val) = true →
     s.blk.portInUse h p = true →
     e.good f.words = true →
     f.nw = pay.length →
     f.nw ≤ 16 →
     f.type ≠ ftPDREQ →
     f.type ≠ ftPDRESP →
     f.src = s.blk.f h F.EUL_NODE_NODE →
     (s.blk.f h F.EUL_NODE_TOPO = 2 ∨ s.blk.bridgeUp h = true ∨ s.blk.sawIt h f = true) →
     west = (s.blk.f h F.EUL_PCFG_ROLE p == 1) →
     ring = (s.blk.f h F.EUL_NODE_TOPO != 2) →
     b = (if ring && (west || f.wrapped) && s.blk.sawIt h f then s.blk else s.blk.setF h F.EUL_ERR_DUPID 1) →
     exec (.eulFrameReceive h p e w0 w1 w2 pay tap res) s = .next { s with blk := (if ring && (west || (s.blk.toward h 1).all Prod.snd) then b else b.forward h p f (fun i => (nth 0 res i).toNat)) }) ∧
  (∀ (s : State) (h : HalfId),
     s.blk.powered .EUL_CLR h = true →
     exec (.eulClearCounters h) s = .next { s with blk := ({ (((s.blk.setW h .EUL_PCNT0 0 0).setW h .EUL_PCNT1 0 0).setW h .EUL_PCNT0 0 1).setW h .EUL_PCNT1 0 1 with busErr := false }) }) ∧
  (∀ (s : State) (h : HalfId),
     s.blk.powered .EUL_FTLO h = true →
     ∃ t, exec (.eulFtloRead h) s = .next t ∧ t.blk.busErr = false ∧ t.blk.half h = s.blk.half h ∧ t.ram = s.ram ∧
        [t.blk.w h .EUL_FTHI, t.blk.busData] = (fabWords (s.blk.fabTime h (s.blk.stepsAt h 0))).take 2)

/-- EutenLink time, masters and angle frames. SYNC frames set offset, rate, error and LOCK; the time master sends SYNC,
its other half hearing it over the bridge; link delays are measured by PDREQ and PDRESP and averaged over 16;
candidates announce themselves, stand back for a better one and are elected after 3 ms; ANGLE frames of the own group
reach a follower of the same cycle length; holdover begins 1 ms after the last SYNC, or without one. What a row judges
itself and what its operands carry is the model's form; the model's choices in these rows are log entries 1, 11, 16,
58, 75, 90. (Rules R385, R386, R388, R389, R390.) -/
def Obligations.FabricTimeRowsComplete : Prop :=
  (∀ (s : State) (h : HalfId) (p : Nat) (q : Nat) (f : EFrame) (rest : List (Nat × Nat × EFrame)),
     takeFrame ftSYNC (s.blk.fab h).pend = some ((p, q, f), rest) →
     (s.blk.on h F.EUL_TSTAT_TMASTER && s.blk.speaks h) = true →
     exec (.eulSyncReceive h) s = .next { s with blk := (s.blk.modFab h fun x => { x with pend := rest }) }) ∧
  (∀ (s : State) (h : HalfId) (p : Nat) (q : Nat) (f : EFrame) (rest : List (Nat × Nat × EFrame)) (x : Fabric) (t : Int) (err : Int) (good : Nat) (rate : Frac) (b : Block) (c : Block) (d : Block),
     takeFrame ftSYNC (s.blk.fab h).pend = some ((p, q, f), rest) →
     (s.blk.on h F.EUL_TSTAT_TMASTER && s.blk.speaks h) = false →
     x = s.blk.fab h →
     t = syncTime f.pay →
     err = (if x.synced then stepsTo (s.blk.fabTime h q) t else 0) →
     good = (if x.synced && decide (err.natAbs ≤ 51) then capNat 64 (x.good + 1) else 0) →
     rate = (if x.synced && decide (0 < stepsTo x.base t) && decide (0 < stepsTo x.at0 q) then frac (stepsTo x.base t) (stepsTo x.at0 q).toNat else ⟨1, 1⟩) →
     (b = (((s.blk.modFab h fun x => { x with pend := rest }).modFab h fun x =>
        { x with base := t, at0 := q, rate := rate, synced := true, good := good }).setF h F.EUL_OFFERR_ERR (field 16 (clampInt 32767 err))).setF h
          F.EUL_TSTAT_HOLDOVER 0) →
     c = (if good = 64 then b.setF h F.EUL_TSTAT_LOCK 1 else b) →
     d = (if x.synced && s.blk.f h F.EUL_TSTAT_TM_ID != f.src then c.setF h F.EUL_ERR_TMCHG 1 else c) →
     exec (.eulSyncReceive h) s = .next { s with blk := ((d.setF h F.EUL_TSTAT_TM_ID f.src).setF h F.EUL_TSTAT_HOPSM (capNat 127 f.hops)) }) ∧
  (∀ (s : State) (h : HalfId) (p : Nat) (q : Nat) (f : EFrame) (rest : List (Nat × Nat × EFrame)) (gap : BitVec 23),
     takeFrame ftPDREQ (s.blk.fab h).pend = some ((p, q, f), rest) →
     exec (.eulPdreqReceive h gap) s = .next { s with blk := ((s.blk.modFab h fun x => { x with pend := rest }).linkSend h p ftPDRESP f.src
        [wd (field 24 (-(gap.toNat : Int))), 0]) }) ∧
  (∀ (s : State) (h : HalfId) (p : Nat) (q : Nat) (f : EFrame) (rest : List (Nat × Nat × EFrame)) (sent : Int) (d : Int) (ds : List Int),
     takeFrame ftPDRESP (s.blk.fab h).pend = some ((p, q, f), rest) →
     (s.blk.eport h p).pdAt = some sent →
     d = (stepsTo sent q + sext 24 (nth 0 f.pay 0).toNat) / 2 + sext 16 (s.blk.f h F.EUL_PCFG_ASYM p) →
     ds = (d :: (s.blk.eport h p).delays).take 16 →
     exec (.eulPdrespReceive h) s = .next { s with blk := ((((s.blk.modFab h fun x => { x with pend := rest }).modPort h p fun x =>
          { x with delays := ds, pdAt := none }).setF h F.EUL_PSTAT_PDELAY (field 16 (ds.sum / (ds.length : Int))) p)) }) ∧
  (∀ (s : State) (h : HalfId) (p : Nat) (q : Nat) (f : EFrame) (rest : List (Nat × Nat × EFrame)) (v : Nat) (rank : Nat),
     takeFrame ftANNOUNCE (s.blk.fab h).pend = some ((p, q, f), rest) →
     v = (nth 0 f.pay 0).toNat →
     bits v 19 19 = 0 →
     rank = rankOf false (bits v 23 20) (bits v 18 16) →
     (s.blk.candidate h false = false ∨ better rank f.src (s.blk.ownRank h false) (s.blk.f h F.EUL_NODE_NODE) = true) →
     exec (.eulAnnounceReceive h) s = .next { s with blk := (((s.blk.modFab h fun x => { x with pend := rest }).hears h false rank f.src).setF h F.EUL_TSTAT_TMASTER 0) }) ∧
  (∀ (s : State) (h : HalfId) (p : Nat) (q : Nat) (f : EFrame) (rest : List (Nat × Nat × EFrame)) (v : Nat) (rank : Nat),
     takeFrame ftANNOUNCE (s.blk.fab h).pend = some ((p, q, f), rest) →
     v = (nth 0 f.pay 0).toNat →
     bits v 19 19 = 1 →
     rank = rankOf true (bits v 23 20) (bits v 18 16) →
     f.group = s.blk.f h F.EUL_NODE_GROUP →
     (s.blk.candidate h true = false ∨ better rank f.src (s.blk.ownRank h true) (s.blk.f h F.EUL_NODE_NODE) = true) →
     exec (.eulAnnounceReceive h) s = .next { s with blk := (((s.blk.modFab h fun x => { x with pend := rest }).hears h true rank f.src).setF h F.EUL_ASTAT_AMASTER 0) }) ∧
  (∀ (s : State) (h : HalfId) (p : Nat) (q : Nat) (f : EFrame) (rest : List (Nat × Nat × EFrame)) (v : Nat) (rank : Nat) (k : Bool),
     takeFrame ftANNOUNCE (s.blk.fab h).pend = some ((p, q, f), rest) →
     v = (nth 0 f.pay 0).toNat →
     k = (bits v 19 19 == 1) →
     rank = rankOf k (bits v 23 20) (bits v 18 16) →
     (f.group = s.blk.f h F.EUL_NODE_GROUP ∨ k = false) →
     s.blk.candidate h k = true →
     better rank f.src (s.blk.ownRank h k) (s.blk.f h F.EUL_NODE_NODE) = false →
     exec (.eulAnnounceReceive h) s = .next { s with blk := ((s.blk.modFab h fun x => { x with pend := rest }).hears h k rank f.src) }) ∧
  (∀ (s : State) (h : HalfId) (p : Nat) (q : Nat) (f : EFrame) (rest : List (Nat × Nat × EFrame)) (v : Nat),
     takeFrame ftANNOUNCE (s.blk.fab h).pend = some ((p, q, f), rest) →
     v = (nth 0 f.pay 0).toNat →
     bits v 19 19 = 1 →
     f.group ≠ s.blk.f h F.EUL_NODE_GROUP →
     exec (.eulAnnounceReceive h) s = .next { s with blk := (s.blk.modFab h fun x => { x with pend := rest }) }) ∧
  (∀ (s : State) (h : HalfId) (p : Nat) (q : Nat) (f : EFrame) (rest : List (Nat × Nat × EFrame)) (b : Block),
     takeFrame ftANGLE (s.blk.fab h).pend = some ((p, q, f), rest) →
     (b = (if s.blk.on h F.EUL_PHCFG_EN && f.group == s.blk.f h F.EUL_PHCFG_REFGRP then
        (s.blk.modFab h fun x => { x with pend := rest }).modFab h fun x => { x with ref := some (f.pay, (s.blk.half h).tsc) }
        else s.blk.modFab h fun x => { x with pend := rest })) →
     f.group ≠ s.blk.f h F.EUL_NODE_GROUP →
     exec (.eulAngleReceive h) s = .next { s with blk := (b) }) ∧
  (∀ (s : State) (h : HalfId) (p : Nat) (q : Nat) (f : EFrame) (rest : List (Nat × Nat × EFrame)) (b : Block) (c : Block),
     takeFrame ftANGLE (s.blk.fab h).pend = some ((p, q, f), rest) →
     (b = (if s.blk.on h F.EUL_PHCFG_EN && f.group == s.blk.f h F.EUL_PHCFG_REFGRP then
        (s.blk.modFab h fun x => { x with pend := rest }).modFab h fun x => { x with ref := some (f.pay, (s.blk.half h).tsc) }
        else s.blk.modFab h fun x => { x with pend := rest })) →
     f.group = s.blk.f h F.EUL_NODE_GROUP →
     c = ((if s.blk.f h F.EUL_ASTAT_AM_ID != f.src && s.blk.on h F.EUL_ASTAT_AVALID then b.setF h F.EUL_ERR_AMCHG 1 else b).setF h
        F.EUL_ASTAT_AVALID 1).setF h F.EUL_ASTAT_AM_ID f.src →
     s.blk.on h F.ANG_CTRL_SRC = false →
     exec (.eulAngleReceive h) s = .next { s with blk := (c) }) ∧
  (∀ (s : State) (h : HalfId) (p : Nat) (q : Nat) (f : EFrame) (rest : List (Nat × Nat × EFrame)) (b : Block) (c : Block),
     takeFrame ftANGLE (s.blk.fab h).pend = some ((p, q, f), rest) →
     (b = (if s.blk.on h F.EUL_PHCFG_EN && f.group == s.blk.f h F.EUL_PHCFG_REFGRP then
        (s.blk.modFab h fun x => { x with pend := rest }).modFab h fun x => { x with ref := some (f.pay, (s.blk.half h).tsc) }
        else s.blk.modFab h fun x => { x with pend := rest })) →
     f.group = s.blk.f h F.EUL_NODE_GROUP →
     c = ((if s.blk.f h F.EUL_ASTAT_AM_ID != f.src && s.blk.on h F.EUL_ASTAT_AVALID then b.setF h F.EUL_ERR_AMCHG 1 else b).setF h
        F.EUL_ASTAT_AVALID 1).setF h F.EUL_ASTAT_AM_ID f.src →
     s.blk.on h F.ANG_CTRL_SRC = true →
     bits (nth 0 f.pay 0).toNat 18 18 ≠ s.blk.f h F.ANG_CTRL_CYCLE →
     exec (.eulAngleReceive h) s = .next { s with blk := (c.setF h F.EUL_ERR_CYCERR 1) }) ∧
  (∀ (s : State) (h : HalfId) (p : Nat) (q : Nat) (f : EFrame) (rest : List (Nat × Nat × EFrame)) (b : Block) (c : Block),
     takeFrame ftANGLE (s.blk.fab h).pend = some ((p, q, f), rest) →
     (b = (if s.blk.on h F.EUL_PHCFG_EN && f.group == s.blk.f h F.EUL_PHCFG_REFGRP then
        (s.blk.modFab h fun x => { x with pend := rest }).modFab h fun x => { x with ref := some (f.pay, (s.blk.half h).tsc) }
        else s.blk.modFab h fun x => { x with pend := rest })) →
     f.group = s.blk.f h F.EUL_NODE_GROUP →
     c = ((if s.blk.f h F.EUL_ASTAT_AM_ID != f.src && s.blk.on h F.EUL_ASTAT_AVALID then b.setF h F.EUL_ERR_AMCHG 1 else b).setF h
        F.EUL_ASTAT_AVALID 1).setF h F.EUL_ASTAT_AM_ID f.src →
     s.blk.on h F.ANG_CTRL_SRC = true →
     bits (nth 0 f.pay 0).toNat 18 18 = s.blk.f h F.ANG_CTRL_CYCLE →
     exec (.eulAngleReceive h) s = .next { s with blk := (c.modFab h fun x =>
        { x with queue := x.queue ++ [(f.pay, f.src, (s.blk.half h).tsc)] }) }) ∧
  (∀ (s : State) (h : HalfId) (tap : BitVec 6) (r : Block × EFrame),
     s.blk.fabRuns h = true →
     s.blk.on h F.EUL_TSTAT_TMASTER = true →
     s.blk.speaks h = true →
     r = s.blk.fabSend h ftSYNC 0 none (fabWords (s.blk.fabTime h (s.blk.stepsAt h tap.toNat)) ++ [0, 0]) →
     exec (.eulSyncSend h tap) s = .next { s with blk := (if s.blk.bridgeUp h then r.1.hand h h.peer 0 tap.toNat (r.2.onward 1 false) else r.1) }) ∧
  (∀ (s : State) (h : HalfId) (p : Fin 2) (tap : BitVec 6),
     s.blk.portUp (h, p.val) = true →
     exec (.eulPdelayMeasure h p tap) s = .next { s with blk := ((s.blk.linkSend h p ftPDREQ 0 []).modPort h p fun x => { x with pdAt := some (s.blk.stepsAt h tap.toNat) }) }) ∧
  (∀ (s : State) (h : HalfId),
     s.blk.candidate h false = true →
     s.blk.speaks h = true →
     exec (.eulAnnounceSend h false) s = .next { s with blk := ((s.blk.fabSend h ftANNOUNCE 0 none
        [wd (s.blk.f h F.EUL_PRI_TPRI * 2 ^ 20 + s.blk.f h F.WTK_STAT_SYNC (s.blk.src h) * 2 ^ 16)]).1) }) ∧
  (∀ (s : State) (h : HalfId),
     s.blk.candidate h true = true →
     s.blk.speaks h = true →
     exec (.eulAnnounceSend h true) s = .next { s with blk := ((s.blk.fabSend h ftANNOUNCE (s.blk.f h F.EUL_NODE_GROUP) none
        [wd (s.blk.f h F.EUL_PRI_APRI * 2 ^ 20 + 2 ^ 19 + s.blk.f h F.WTK_STAT_SYNC (s.blk.src h) * 2 ^ 16)]).1) }) ∧
  (∀ (s : State) (h : HalfId),
     s.blk.candidate h true = true →
     s.blk.speaks h = true →
     s.blk.unopposed h true = true →
     s.blk.on h F.EUL_ASTAT_AMASTER = false →
     exec (.eulMasterElect h true) s = .next { s with blk := ((s.blk.nodeHalves h).foldl (fun b k => (((b.setF k F.EUL_ASTAT_AMASTER 1).setF k F.EUL_ASTAT_AVALID 1).setF k F.EUL_ASTAT_AM_ID
        (s.blk.f h F.EUL_NODE_NODE)).setF k F.EUL_ERR_AMCHG 1) s.blk) }) ∧
  (∀ (s : State) (h : HalfId),
     s.blk.candidate h false = true →
     s.blk.speaks h = true →
     s.blk.unopposed h false = true →
     s.blk.on h F.EUL_TSTAT_TMASTER = false →
     exec (.eulMasterElect h false) s = .next { s with blk := (((s.blk.nodeHalves h).foldl (fun b k => (((b.setF k F.EUL_TSTAT_TMASTER 1).setF k F.EUL_TSTAT_TM_ID (s.blk.f h F.EUL_NODE_NODE)).setF k
        F.EUL_TSTAT_HOPSM (if k = h then 0 else 1)).setF k F.EUL_ERR_TMCHG 1) s.blk).modFab h fun x =>
          { x with base := s.blk.stepsAt h 0, at0 := s.blk.stepsAt h 0, rate := ⟨1, 1⟩, synced := true }) }) ∧
  (∀ (s : State) (h : HalfId),
     s.blk.fabRuns h = true →
     (s.blk.on h F.EUL_TSTAT_TMASTER && s.blk.speaks h) = false →
     s.blk.on h F.EUL_TSTAT_HOLDOVER = false →
     ((s.blk.fab h).synced = false ∨ (12800000 : Int) ≤ stepsTo (s.blk.fab h).at0 (s.blk.stepsAt h 0)) →
     exec (.eulHoldover h) s = .next { s with blk := ((((s.blk.setF h F.EUL_TSTAT_HOLDOVER 1).setF h F.EUL_TSTAT_LOCK 0).setF h F.EUL_ERR_LOCKLOSS 1).modFab h
        fun x => { x with good := 0 }) })

/-- Cycle start, mode latch, decisions and the static schedule. The rows that a passed angle brings: the cycle start and
the mode latch outside FULL sync, and the mode latch in HOLD, do nothing; in it the cycle start counts the cycle,
shifts the sources, makes the phase change that the latch decided, lets a staged mode take effect where its shadows
are written, and challenges; the mode latch resumes static insertion, exchanges the sets, decides SERVICE, latches the
mode request and makes the steps of rule R164. A SERVICE decision at or after its cycle start, or outside FULL sync,
is discarded, between latch and cycle start carried out, and before the latch kept. A staged mode takes effect with
its shadows where the cycle start has passed, with a report of class 0, block 23, index 127, which is the model's
choice (log entry 74); trims latch; SCP inserts the first waiting record, trimmed; an activation result binds a set; a
peer deactivation is posted, unless another set has been activated since the peer's commit (the model's choice, log
entry 127); the recheck clears its request and withdraws the certificate where it fails; STOP_TIME ends RECOVERY. What
a row judges itself and what its operands carry is the model's form; the model's choices in these rows are log entries
1, 11, 13, 32, 34, 89, 90, 112, 124, 127, 138. (Rules R100, R144, R146, R150, R157, R163, R164, R165, R184, R187,
R411, R488.) -/
def Obligations.CycleRowsComplete : Prop :=
  (∀ (s : State) (h : HalfId),
     (s.blk.fullSync h = false ∨ s.blk.passed h 0 false = false) →
     exec (.cycleStart h) s = .next s) ∧
  (∀ (s : State) (h : HalfId) (b1 : Block) (b2 : Block) (b3 : Block) (b4 : Block) (b5 : Block),
     s.blk.fullSync h = true →
     s.blk.passed h 0 false = true →
     (s.blk.half h).clk.cycAt ≠ some (s.blk.half h).tsc →
     (b1 = (if s.blk.drives h (s.blk.src h) then
        (s.blk.count h F.WTK_STAT_FULL_CYCLES (s.blk.src h)).modTrk h (s.blk.src h) fun y => { y with xMismatch := false } else s.blk)) →
     (b2 = b1.modClk h (fun c => { c with
          cycLen := (c.cycAt.map fun a => ticksTo a (s.blk.half h).tsc).getD 0, cycAt := some (s.blk.half h).tsc,
          cycPrevClean := c.cycClean, cycClean := true })) →
     (b3 = b2.modSched h (fun x => { x with
          prevSrc := x.curSrc, curSrc := x.nextSrc, revRest := false, svcLate := false,
          suspCount := if x.suspended || x.revSusp then capNat 8388607 (x.suspCount + 1) else x.suspCount })) →
     b4 = b3.cyclePhase h →
     (b5 = (match (b4.half h).sched.staged with
        | some m => if (b4.half h).sched.shadowDone then b4.modeEffect h m else b4.modSched h fun x => { x with shadowLate := true }
        | none => b4)) →
     exec (.cycleStart h) s = .next { s with blk := (b5.challenge h (s.blk.half h).clk.cycAt.isSome) }) ∧
  (∀ (s : State) (h : HalfId),
     (s.blk.fullSync h = false ∨ activePhase (s.blk.phase h) = false ∨ s.blk.passedAt h (s.blk.latchAngle h) = none) →
     exec (.modeLatch h) s = .next s) ∧
  (∀ (s : State) (h : HalfId) (dl : Nat) (b1 : Block) (mine : Bool) (late : Bool) (b2 : Block) (b3 : Block),
     s.blk.fullSync h = true →
     activePhase (s.blk.phase h) = true →
     s.blk.passedAt h (s.blk.latchAngle h) = some dl →
     b1 = (s.blk.resumeStatic h).exchange h →
     mine = b1.decidesService h →
     late = ((s.blk.half h).sched.svcLate && b1.mayServe h && (b1.phase h == phCRANK || b1.phase h == phRECOVERY)) →
     b2 = (if mine && s.blk.bridgeUp h then b1.send h (.service (s.blk.half h.peer).tsc) else b1).modSched h (fun x => { x with svcLate := false }) →
     (b3 = (if s.blk.on h F.ADM_STAT_MODEPEND then b2.modSched h fun x =>
        { x with staged := some (s.blk.f h F.ADM_STAT_NEXTMODE), shadowDone := false, shadowLate := false } else b2)) →
     exec (.modeLatch h) s = .next { s with blk := (b3.latchSteps h (mine || late) (s.blk.half h).sched.pendSet.isSome (some dl)) }) ∧
  (∀ (s : State) (h : HalfId) (sent : Nat) (rest : List BMsg) (b : Block) (t : Nat),
     takeService (s.blk.lane h.peer).rx = some (sent, rest) →
     b = s.blk.setLane h.peer { s.blk.lane h.peer with rx := rest } →
     (s.blk.half h).clk.cycAt = some t →
     reached sent t = true →
     exec (.serviceDecisionReceive h) s = .next { s with blk := (b) }) ∧
  (∀ (s : State) (h : HalfId) (sent : Nat) (rest : List BMsg) (b : Block),
     takeService (s.blk.lane h.peer).rx = some (sent, rest) →
     b = s.blk.setLane h.peer { s.blk.lane h.peer with rx := rest } →
     b.fullSync h = false →
     exec (.serviceDecisionReceive h) s = .next { s with blk := (b) }) ∧
  (∀ (s : State) (h : HalfId) (sent : Nat) (rest : List BMsg) (b : Block),
     takeService (s.blk.lane h.peer).rx = some (sent, rest) →
     b = s.blk.setLane h.peer { s.blk.lane h.peer with rx := rest } →
     (s.blk.half h).clk.cycAt = none →
     b.fullSync h = true →
     b.mayServe h = true →
     (b.phase h = phCRANK ∨ b.phase h = phRECOVERY) →
     b.latchAngle h ≤ b.ang h →
     b.ang h < b.cycleL h →
     exec (.serviceDecisionReceive h) s = .next { s with blk := (b.latchSteps h true false none) }) ∧
  (∀ (s : State) (h : HalfId) (sent : Nat) (rest : List BMsg) (b : Block) (t : Nat),
     takeService (s.blk.lane h.peer).rx = some (sent, rest) →
     b = s.blk.setLane h.peer { s.blk.lane h.peer with rx := rest } →
     (s.blk.half h).clk.cycAt = some t →
     reached sent t = false →
     b.fullSync h = true →
     b.mayServe h = true →
     (b.phase h = phCRANK ∨ b.phase h = phRECOVERY) →
     b.latchAngle h ≤ b.ang h →
     b.ang h < b.cycleL h →
     exec (.serviceDecisionReceive h) s = .next { s with blk := (b.latchSteps h true false none) }) ∧
  (∀ (s : State) (h : HalfId) (sent : Nat) (rest : List BMsg) (b : Block),
     takeService (s.blk.lane h.peer).rx = some (sent, rest) →
     b = s.blk.setLane h.peer { s.blk.lane h.peer with rx := rest } →
     (s.blk.half h).clk.cycAt = none →
     b.fullSync h = true →
     b.ang h < b.latchAngle h →
     exec (.serviceDecisionReceive h) s = .next { s with blk := (b.modSched h fun x => { x with svcLate := true }) }) ∧
  (∀ (s : State) (h : HalfId) (m : Nat),
     (s.blk.half h).sched.staged = some m →
     (s.blk.half h).sched.shadowLate = false →
     exec (.modeShadowWriteDone h) s = .next { s with blk := (s.blk.modSched h fun x => { x with shadowDone := true }) }) ∧
  (∀ (s : State) (h : HalfId) (m : Nat),
     (s.blk.half h).sched.staged = some m →
     (s.blk.half h).sched.shadowLate = true →
     exec (.modeShadowWriteDone h) s = .next { s with blk := ((s.blk.modeEffect h m).report h 0 0 23 127 0) }) ∧
  (∀ (s : State) (h : HalfId) (c : Fin 24) (hit : List Image) (b : Block) (t : Nat),
     s.blk.fullSync h = true →
     t = (s.blk.half h).tsc →
     (hit = (s.blk.half h).sched.store.filter (fun i => i.setId == (s.blk.half h).sched.active &&
        (imgCyls i.words).any fun e => e.cyl == c.val && s.blk.passed h e.latch false)) →
     hit ≠ [] →
     (b = (if hit.any (fun i => i.mode == s.blk.mode h) && nth 0 (s.blk.half h).hip.roles 2 != 2 then s.blk.writePairs h fun r => r.frame == c.val else s.blk)) →
     ∃ u, exec (.trimLatch h c) s = .next u ∧
        (u.blk.half h).sched = (((b.modSched h fun y => { y with latched := (y.latched.filter fun z => z.1 == t) ++ hit.map fun i => (t, i.setId, i.mode, c.val) }).relatch
          h).half h).sched ∧
        (u.blk.half h).atu.fbDue = (b.half h).atu.fbDue.map (fun d => if d.cyl == c.val then { d with late := some (d.late.getD t) } else d)) ∧
  (∀ (s : State) (h : HalfId) (d : (Nat × Nat) × Nat) (r : ERec) (tr : Int × Int) (w0 : Word) (w2 : Word) (b : Block),
     s.blk.on h F.EVI_RES_BUSY 0 = false →
     nth 0 (s.blk.half h).hip.roles 1 ≠ 2 →
     (s.blk.half h).sched.due.find? (fun d => !s.blk.heldDue h d) = some d →
     (s.blk.half h).sched.dueRec d = some r →
     tr = (if r.trim then (s.blk.half h).sched.trimOf d r else (0, 0)) →
     w0 = wd ((((r.w0.toNat : Int) + tr.1) % (s.blk.cycleL h : Int)).toNat) →
     w2 = wd ((r.w2.toNat : Int) + tr.2).toNat →
     (b = (((s.blk.modSched h fun x => { x with due := x.due.erase d }).setW h .EVI_W w0 0 0).setW h .EVI_W r.w1 0 1).setW h .EVI_W w2 0 2) →
     exec (.staticInsert h) s = .next { s with blk := ((b.setF h F.EVI_RES_BUSY 1 0).modHalf h fun y => { y with ports := y.ports ++ [⟨0, r.chan, r.tag, w0, r.w1, w2, some (d.1.2, d.2)⟩] }) }) ∧
  (∀ (s : State) (h : HalfId) (c : LongCmd),
     (s.blk.half h).hip.long = some c →
     c.code = 0x22 →
     c.posted = false →
     s.blk.holdsHelm h = true →
     (s.blk.activationCheck c.arg).1.code = cOK →
     exec (.activationResult h) s = .next { s with blk := ((Block.postActivation c.arg (Block.postActivation c.arg s.blk .a) .b).modHalf h fun x =>
        { x with hip := { x.hip with long := some { c with posted := true } } }) }) ∧
  (∀ (s : State) (h : HalfId) (set : Nat) (rest : List BMsg),
     takeDeactivate (s.blk.lane h.peer).rx = some (set, rest) →
     s.blk.deactivates h set = true →
     exec (.peerDeactivateReceive h) s = .next { s with blk := ((s.blk.setLane h.peer { s.blk.lane h.peer with rx := rest }).postDeactivation h) }) ∧
  (∀ (s : State) (h : HalfId) (set : Nat) (rest : List BMsg),
     takeDeactivate (s.blk.lane h.peer).rx = some (set, rest) →
     s.blk.deactivates h set = false →
     exec (.peerDeactivateReceive h) s = .next { s with blk := (s.blk.setLane h.peer { s.blk.lane h.peer with rx := rest }) }) ∧
  (∀ (s : State) (h : HalfId),
     (s.blk.half h).sched.lossDue = true →
     ((s.blk.half h).sched.active = 0 ∨ (s.blk.recheckOf h).1 = cOK) →
     exec (.certificateRecheck h) s = .next { s with blk := (s.blk.modSched h fun x => { x with lossDue := false }) }) ∧
  (∀ (s : State) (h : HalfId) (b : Block) (c : Block),
     (s.blk.half h).sched.lossDue = true →
     (s.blk.half h).sched.active ≠ 0 →
     (s.blk.recheckOf h).1 ≠ cOK →
     (b = (((s.blk.modSched h fun x => { x with lossDue := false }).setF h F.ADM_ERR_RECHECK 1).setF h F.ADM_STAT_CERT_OK 0).modSched h (fun x => { x with recheck := true })) →
     c = (b.withdrawService h).report h (s.blk.recheckOf h).1 1 24 127 (7 * 256 + (s.blk.recheckOf h).2 % 256) →
     exec (.certificateRecheck h) s = .next { s with blk := (if c.phase h = phSERVICE then c.setPhase h phRECOVERY 5 else c) }) ∧
  (∀ (s : State) (h : HalfId) (t : Nat),
     (s.blk.half h).clk.invalidSince = some t →
     s.blk.phase h = phRECOVERY →
     s.blk.clockValid h = false →
     s.blk.f h F.ADM_STOP_STOP_TIME * 200 ≤ ticksTo t (s.blk.half h).tsc →
     exec (.stopTimeExpiry h) s = .next { s with blk := (s.blk.setPhase h phCRANK 6) })

/-- Insertion and arming: ports, classification, arming, execution and pulses. EVI_GO starts an insertion of the port's
words, and ends with a bus error while the port is BUSY or where the checker owns port 1; classification refuses an
insertion that fails a check with its code in EVI_RES, a static one with a notice, and enters one that passes, armed
where it lies within the lead; an entry whose arm point is passed is armed with the frozen time; an armed entry at its
match, the entries of its channel that come before it done, executes, is deferred while its output is busy, or is
cancelled; a due pulse returns; a deferred entry executes when its output is free. What a row judges itself and what
its operands carry is the model's form; the model's choices in these rows are log entries 1, 11, 31, 79, 86, 88, 90,
107, 135, 138. (Rules R121, R124, R125, R129, R131, R134, R149, R161.) -/
def Obligations.InsertionRowsComplete : Prop :=
  (∀ (s : State) (h : HalfId) (p : Fin 2) (chan : Fin 64) (tag : BitVec 10),
     s.blk.on h F.EVI_RES_BUSY p = false →
     (p = 0 ∨ activePhase (s.blk.phase h) = false) →
     s.blk.powered .EVI_GO h = true →
     exec (.eviGo h p chan tag) s = .next { s with blk := ({ (s.blk.setF h F.EVI_RES_BUSY 1 p).modHalf h (fun x => { x with ports := x.ports ++ [⟨p, chan, tag.toNat, s.blk.w h .EVI_W p 0, s.blk.w h .EVI_W p 1, s.blk.w h .EVI_W p 2, none⟩] }) with
        busErr := false }) }) ∧
  (∀ (s : State) (h : HalfId) (p : Fin 2) (chan : Fin 64) (tag : BitVec 10),
     (s.blk.on h F.EVI_RES_BUSY p = true ∨ (p = 1 ∧ activePhase (s.blk.phase h) = true)) →
     s.blk.powered .EVI_GO h = true →
     exec (.eviGo h p chan tag) s = .next { s with blk := ({ s.blk with busErr := true }) }) ∧
  (∀ (s : State) (h : HalfId) (p : Fin 2) (parity : Bool) (i : Insertion) (b : Block) (c : Nat),
     (s.blk.half h).ports.find? (fun i => i.port == p.val) = some i →
     (b = s.blk.modHalf h (fun x => { x with ports := x.ports.filter fun y => y.port != p.val })) →
     b.channelChecks h i.port (b.mkEntry h i) = c →
     c ≠ cOK →
     i.static = none →
     exec (.insertionClassify h p parity) s = .next { s with blk := (b.setW h .EVI_RES (wd c) p) }) ∧
  (∀ (s : State) (h : HalfId) (p : Fin 2) (parity : Bool) (i : Insertion) (b : Block) (c : Nat) (m : Nat) (k : Nat),
     (s.blk.half h).ports.find? (fun i => i.port == p.val) = some i →
     (b = s.blk.modHalf h (fun x => { x with ports := x.ports.filter fun y => y.port != p.val })) →
     b.channelChecks h i.port (b.mkEntry h i) = c →
     c ≠ cOK →
     i.static = some (m, k) →
     exec (.insertionClassify h p parity) s = .next { s with blk := ((b.setW h .EVI_RES (wd c) p).notice h 0xC4 [wd (c * 65536 + i.chan * 1024 + i.tag), wd (m * 2 ^ 20 + k % 4096)]) }) ∧
  (∀ (s : State) (h : HalfId) (p : Fin 2) (i : Insertion) (b : Block) (e : Entry) (d : Block),
     (s.blk.half h).ports.find? (fun i => i.port == p.val) = some i →
     (b = s.blk.modHalf h (fun x => { x with ports := x.ports.filter fun y => y.port != p.val })) →
     b.channelChecks h i.port (b.mkEntry h i) = cOK →
     e = (if b.withinLead h (b.mkEntry h i) && !b.clockRev h then b.armed h (b.mkEntry h i) else b.mkEntry h i) →
     d = b.modHalf h (fun x => { x with cask := x.cask ++ [e], nextOrd := x.nextOrd + 1 }) →
     exec (.insertionClassify h p false) s = .next { s with blk := (d.setW h .EVI_RES (wd (d.slotOf h e * 256)) p) }) ∧
  (∀ (s : State) (h : HalfId) (p : Fin 2) (i : Insertion) (b : Block) (e : Entry) (d : Block),
     (s.blk.half h).ports.find? (fun i => i.port == p.val) = some i →
     i.static = none →
     (b = s.blk.modHalf h (fun x => { x with ports := x.ports.filter fun y => y.port != p.val })) →
     b.channelChecks h i.port (b.mkEntry h i) = cOK →
     e = (if b.withinLead h (b.mkEntry h i) && !b.clockRev h then b.armed h (b.mkEntry h i) else b.mkEntry h i) →
     d = b.slotFault h e.chan →
     exec (.insertionClassify h p true) s = .next { s with blk := (if d.usableSlots h e.chan ≤ b.pend h e.chan then d.setW h .EVI_RES (wd cQUEUE_FULL) p
        else (d.modHalf h fun x => { x with cask := x.cask ++ [e], nextOrd := x.nextOrd + 1 }).setW h .EVI_RES
          (wd ((d.modHalf h fun x => { x with cask := x.cask ++ [e], nextOrd := x.nextOrd + 1 }).slotOf h e * 256)) p) }) ∧
  (∀ (s : State) (h : HalfId) (chan : Fin 64) (tag : BitVec 10) (e : Entry),
     s.blk.findEntry h chan tag.toNat = some e →
     e.armed = false →
     e.deferral = none →
     s.blk.clockValid h = true →
     s.blk.clockRev h = false →
     s.blk.passed h (s.blk.armPoint h e) false = true →
     exec (.entryArm h chan tag) s = .next { s with blk := (s.blk.replaceEntry h (if e.written then s.blk.armed h e else { e with fwdArm := true })) }) ∧
  (∀ (s : State) (h : HalfId) (chan : Fin 64) (tag : BitVec 10) (e : Entry) (b : Block) (code : Nat),
     s.blk.findEntry h chan tag.toNat = some e →
     s.blk.due h e = true →
     (s.blk.dueOrder h chan).takeWhile (fun y => y.tag != tag.toNat) = [] →
     e.chan = chan.val →
     e.tag = tag.toNat →
     s.blk.execCancel h e = none →
     b = s.blk.returnsFirst h e.chan →
     b.outputBusy h e = false →
     (code = (if e.late = true ∨ e.matchAt ≠ (s.blk.half h).tsc then cLATE else cOK)) →
     exec (.entryExecute h chan tag) s = .next { s with blk := (b.complete h e code (if code = cLATE then lateBy e.frozen (s.blk.half h).tsc else 0)) }) ∧
  (∀ (s : State) (h : HalfId) (chan : Fin 64) (tag : BitVec 10) (e : Entry) (b : Block) (code : Nat),
     s.blk.findEntry h chan tag.toNat = some e →
     s.blk.due h e = true →
     (s.blk.dueOrder h chan).takeWhile (fun y => y.tag != tag.toNat) = [] →
     e.chan = chan.val →
     e.tag = tag.toNat →
     s.blk.execCancel h e = none →
     b = s.blk.returnsFirst h e.chan →
     b.outputBusy h e = true →
     (code = (if e.late = true ∨ e.matchAt ≠ (s.blk.half h).tsc then cLATE else cOK)) →
     exec (.entryExecute h chan tag) s = .next { s with blk := (b.defer h e code) }) ∧
  (∀ (s : State) (h : HalfId) (chan : Fin 64) (tag : BitVec 10) (e : Entry) (cause : Nat),
     s.blk.findEntry h chan tag.toNat = some e →
     s.blk.due h e = true →
     (s.blk.dueOrder h chan).takeWhile (fun y => y.tag != tag.toNat) = [] →
     e.chan = chan.val →
     e.tag = tag.toNat →
     s.blk.execCancel h e = some cause →
     exec (.entryExecute h chan tag) s = .next { s with blk := ((Block.cancelOne h cause s.blk e).creditNotice h s.blk [e.chan]) }) ∧
  (∀ (s : State) (h : HalfId) (line : Fin 24) (p : Pulse),
     (s.blk.half h).pulses.find? (fun p => p.line == line.val && reached p.due (s.blk.half h).tsc) = some p →
     exec (.evoPulseReturn h line) s = .next { s with blk := ((s.blk.modHalf h fun y => { y with pulses := y.pulses.erase p, evoEnd := y.evoEnd.set line (some y.tsc) }).evoCommand h line false
          none 0 p.tap) }) ∧
  (∀ (s : State) (h : HalfId) (chan : Fin 64) (tag : BitVec 10) (e : Entry) (since : Nat) (code : Word) (b : Block),
     s.blk.findEntry h chan tag.toNat = some e →
     e.deferral = some (since, code) →
     s.blk.execCancel h e = none →
     b = s.blk.returnsFirst h chan →
     b.outputBusy h e = false →
     code.toNat = cJUMPED →
     exec (.deferredExecute h chan tag) s = .next { s with blk := (b.complete h e cJUMPED (ticksTo since (s.blk.half h).tsc)) }) ∧
  (∀ (s : State) (h : HalfId) (chan : Fin 64) (tag : BitVec 10) (e : Entry) (since : Nat) (code : Word) (b : Block),
     s.blk.findEntry h chan tag.toNat = some e →
     e.deferral = some (since, code) →
     s.blk.execCancel h e = none →
     b = s.blk.returnsFirst h chan →
     b.outputBusy h e = false →
     code.toNat ≠ cJUMPED →
     exec (.deferredExecute h chan tag) s = .next { s with blk := (b.complete h e cLATE (lateBy e.frozen (s.blk.half h).tsc)) }) ∧
  (∀ (s : State) (h : HalfId) (chan : Fin 64) (tag : BitVec 10) (e : Entry) (since : Nat) (code : Word) (cause : Nat),
     s.blk.findEntry h chan tag.toNat = some e →
     e.deferral = some (since, code) →
     s.blk.execCancel h e = some cause →
     exec (.deferredExecute h chan tag) s = .next { s with blk := ((Block.cancelOne h cause s.blk e).creditNotice h s.blk [e.chan]) })

/-- Channel commands, the notice queue and latched reads. CANCEL_TAG and CANCEL_ALL cancel with HOST_CANCEL what they can
still reach and report the count, the counters clear, each as a command of its channel that is in progress for 2
ANGCLK, while which a further one ends with a bus error; CHANNEL_DISABLE cancels with HOST_CANCEL; EVN_POP removes the
oldest record; reads of TSC_LO, TSC_XDIFF and EVC_HEADT_LO latch their high halves and leave everything else of the
half as it was. What a row judges itself and what its operands carry is the model's form; the model's choices in these
rows are log entries 1, 11, 79, 88, 108. (Rules R136, R138, R141, R142.) -/
def Obligations.ChannelRowsComplete : Prop :=
  (∀ (s : State) (h : HalfId) (chan : Fin 64) (tag : BitVec 10) (hit : List Entry),
     s.blk.cmdBusy h chan = false →
     (s.blk.half h).cask.filter (fun e => e.chan == chan.val && e.tag == tag.toNat && s.blk.reachable h e) = hit →
     s.blk.powered .EVC_CMD h = true →
     exec (.cancelTag h chan tag) s = .next { s with blk := ({ ((s.blk.cancelWhere h cHOST_CANCEL (fun e => e.chan == chan.val && e.tag == tag.toNat && s.blk.reachable h e)).setW h .EVC_CMDRES
        (wd (hit.length * 256 + if hit = [] then cPAST else cOK)) chan).modHalf h (fun x => { x with cmdDone := x.cmdDone.set chan (some ((x.tsc + 2) % 2 ^ 48)) }) with busErr := false }) }) ∧
  (∀ (s : State) (h : HalfId) (chan : Fin 64) (hit : List Entry),
     s.blk.cmdBusy h chan = false →
     (s.blk.half h).cask.filter (fun e => e.chan == chan.val && true && s.blk.reachable h e) = hit →
     s.blk.powered .EVC_CMD h = true →
     exec (.cancelAll h chan) s = .next { s with blk := ({ ((s.blk.cancelWhere h cHOST_CANCEL (fun e => e.chan == chan.val && true && s.blk.reachable h e)).setW h .EVC_CMDRES
        (wd (hit.length * 256)) chan).modHalf h (fun x => { x with cmdDone := x.cmdDone.set chan (some ((x.tsc + 2) % 2 ^ 48)) }) with busErr := false }) }) ∧
  (∀ (s : State) (h : HalfId) (chan : Fin 64),
     s.blk.cmdBusy h chan = false →
     s.blk.powered .EVC_CMD h = true →
     exec (.evcClearCounters h chan) s = .next { s with blk := ({ ((s.blk.clearW h .EVC_CNT chan).setW h .EVC_CMDRES 0 chan).modHalf h (fun x => { x with cmdDone := x.cmdDone.set chan (some ((x.tsc + 2) % 2 ^ 48)) }) with busErr := false }) }) ∧
  (∀ (s : State) (h : HalfId) (chan : Fin 64) (tag : BitVec 10),
     s.blk.cmdBusy h chan = true →
     s.blk.powered .EVC_CMD h = true →
     exec (.cancelTag h chan tag) s = .next { s with blk := ({ s.blk with busErr := true }) }) ∧
  (∀ (s : State) (h : HalfId) (chan : Fin 64),
     s.blk.cmdBusy h chan = true →
     s.blk.powered .EVC_CMD h = true →
     exec (.cancelAll h chan) s = .next { s with blk := ({ s.blk with busErr := true }) }) ∧
  (∀ (s : State) (h : HalfId) (chan : Fin 64),
     s.blk.cmdBusy h chan = true →
     s.blk.powered .EVC_CMD h = true →
     exec (.evcClearCounters h chan) s = .next { s with blk := ({ s.blk with busErr := true }) }) ∧
  (∀ (s : State) (h : HalfId) (chan : Fin 64),
     s.blk.powered .EVC_CFG h = true →
     exec (.channelDisable h chan) s = .next { s with blk := ({ (s.blk.setF h F.EVC_CFG_EN 0 chan).cancelWhere h cHOST_CANCEL (fun e => e.chan == chan.val) with busErr := false }) }) ∧
  (∀ (s : State) (h : HalfId),
     s.blk.powered .EVN_POP h = true →
     exec (.noticePop h) s = .next { s with blk := ({ s.blk.modHalf h (fun x => { x with evn := x.evn.drop 1 }) with busErr := false }) }) ∧
  (∀ (s : State) (h : HalfId),
     s.blk.powered .TSC_LO h = true →
     exec (.tscLoRead h) s = .next { s with blk := ({ s.blk.setW h .TSC_HI (wd ((s.blk.half h).tsc / 2 ^ 24)) with busErr := false, busData := wd ((s.blk.half h).tsc % 2 ^ 24) }) }) ∧
  (∀ (s : State) (h : HalfId),
     s.blk.powered .TSC_XDIFF h = true →
     exec (.tscXdiffRead h) s = .next { s with blk := ({ s.blk.setW h .TSC_XDIFFH (wd (field 48 (s.blk.half h).xdiff / 2 ^ 24)) with busErr := false, busData := wd (field 48 (s.blk.half h).xdiff) }) }) ∧
  (∀ (s : State) (h : HalfId) (chan : Fin 64),
     s.blk.powered .EVC_HEADT_LO h = true →
     exec (.evcHeadtLoRead h chan) s = .next { s with blk := ({ s.blk.setW h .EVC_HEADT_HI (wd (s.blk.headTime h chan / 2 ^ 24)) chan with busErr := false, busData := wd (s.blk.headTime h chan) }) })

/-- Submission, admission and its write clock. ADM_GO takes the submission words, and ends with a bus error while one is
in progress; the sampling clock refuses with the code of the first failed check, in the ANGCLK of a mode latch on the
state the latch leaves, or reserves the slot; the write clock enters the words, armed where the entry lay within its
lead, and reports the slot; of an entry cancelled in between the submission stands and counts (the model's choice, log
entry 109); the counters clear. What a row judges itself and what its operands carry is the model's form; the model's
choices in these rows are log entries 1, 11, 79, 88. (Rules R129, R151, R152, R166, R486.) -/
def Obligations.AdmissionRowsComplete : Prop :=
  (∀ (s : State) (h : HalfId) (chan : Fin 64) (tag : BitVec 10),
     s.blk.on h F.ADM_RES_BUSY = false →
     s.blk.powered .ADM_GO h = true →
     exec (.admGo h chan tag) s = .next { s with blk := ({ (s.blk.setF h F.ADM_RES_BUSY 1).modHalf h (fun x => { x with sub := some ⟨1, chan, tag.toNat, s.blk.w h .ADM_W 0, s.blk.w h .ADM_W 1, s.blk.w h .ADM_W 2, none⟩ }) with
        busErr := false }) }) ∧
  (∀ (s : State) (h : HalfId) (chan : Fin 64) (tag : BitVec 10),
     s.blk.on h F.ADM_RES_BUSY = true →
     s.blk.powered .ADM_GO h = true →
     exec (.admGo h chan tag) s = .next { s with blk := ({ s.blk with busErr := true }) }) ∧
  (∀ (s : State) (h : HalfId) (i : Insertion) (b : Block) (c : Nat),
     (s.blk.half h).sub = some i →
     b = s.blk.modHalf h (fun x => { x with sub := none }) →
     c = (b.atLatch h (b.mkEntry h i)).admission h (b.mkEntry h i) →
     c ≠ cOK →
     exec (.admissionSample h) s = .next { s with blk := (((b.setW h .ADM_RES (wd c)).count h F.ADM_CNT_REFUSALS).setW h .ADM_LASTR
        (wd (c * 65536 + i.chan * 1024 + i.tag))) }) ∧
  (∀ (s : State) (h : HalfId) (i : Insertion) (b : Block) (d : Block),
     (s.blk.half h).sub = some i →
     b = s.blk.modHalf h (fun x => { x with sub := none }) →
     (b.atLatch h (b.mkEntry h i)).admission h (b.mkEntry h i) = cOK →
     d = b.modHalf h (fun x => { x with
        cask := x.cask ++ [{ b.mkEntry h i with written := false, fwdArm := b.withinLead h (b.mkEntry h i) }], nextOrd := x.nextOrd + 1 }) →
     exec (.admissionSample h) s = .next { s with blk := (d.setW h .ADM_RES (wd (2 ^ 23 + d.slotOf h (b.mkEntry h i) * 256))) }) ∧
  (∀ (s : State) (h : HalfId) (e : Entry) (b : Block),
     s.blk.on h F.ADM_RES_BUSY = true →
     (s.blk.half h).sub = none →
     (s.blk.half h).cask.find? (fun e => !e.written) = some e →
     b = s.blk.replaceEntry h (if e.fwdArm && !s.blk.clockRev h && s.blk.clockValid h then s.blk.armed h { e with written := true } else { e with written := true }) →
     exec (.admissionInsertWrite h false) s = .next { s with blk := ((b.setW h .ADM_RES (wd (b.slotOf h { e with written := true } * 256))).count h F.ADM_CNT_ADMITS) }) ∧
  (∀ (s : State) (h : HalfId) (parity : Bool),
     s.blk.on h F.ADM_RES_BUSY = true →
     (s.blk.half h).sub = none →
     (s.blk.half h).cask.find? (fun e => !e.written) = none →
     exec (.admissionInsertWrite h parity) s = .next { s with blk := ((s.blk.setF h F.ADM_RES_BUSY 0).count h F.ADM_CNT_ADMITS) }) ∧
  (∀ (s : State) (h : HalfId),
     s.blk.powered .ADM_CLR h = true →
     exec (.admClearCounters h) s = .next { s with blk := ({ s.blk.clearW h .ADM_CNT with busErr := false }) })

/-- The events of a running shot. While a shot runs, each of its events moves it as chapter 7 says: peak reached turns
boost off and stamps PKR; the boost timeout, the end of the peak hold and of hold 1 enter the next hold phase when
their time has come; quench begins at start + E whatever the phase, marks PKMISS without a grant and requests the
boost switch no longer; the end of the quench, its timeout and a trip whose latch the sequencer sees end the shot with
its record; a row before its time, in another phase or without a running shot leaves the block as it was. What a row
judges itself and what its operands carry is the model's form; the model's choices in these rows are log entries 1,
11, 113. (Rules R194, R195, R196, R217.) -/
def Obligations.ShotRowsComplete : Prop :=
  (∀ (s : State) (n : Fin 24) (sh : Shot),
     s.blk.shot n = some sh →
     sh.quenchAt = none →
     sh.pkrAt = none →
     s.blk.f .a F.INJ_STAT_PH n = 0 →
     (s.blk.chopOf n).blank = false →
     exec (.peakReached n) s = .next { s with blk := ((((s.blk.hold n false).bhsWithdraw n).setShot n (some { sh with pkrAt := some (s.blk.half (injHalf n)).tsc })).seqState n 2) }) ∧
  (∀ (s : State) (n : Fin 24),
     s.blk.shot n = none →
     exec (.peakReached n) s = .next s) ∧
  (∀ (s : State) (n : Fin 24) (sh : Shot),
     s.blk.shot n = some sh →
     (sh.quenchAt ≠ none ∨ sh.pkrAt ≠ none ∨ s.blk.f .a F.INJ_STAT_PH n ≠ 0 ∨ (s.blk.chopOf n).blank = true) →
     exec (.peakReached n) s = .next s) ∧
  (∀ (s : State) (n : Fin 24) (sh : Shot) (below : Bool) (p : BandPlace),
     s.blk.shot n = some sh →
     sh.quenchAt = none →
     sh.pkrAt = none →
     s.blk.f .a F.INJ_STAT_PH n = 0 →
     s.blk.shotDue n sh.gntAt (s.blk.profW (injHalf n) (injSeq n) sh.prof 1) = true →
     exec (.boostTimeout n ⟨below, p⟩) s = .next { s with blk := (s.blk.enterHold n { sh with pkmiss := true, openld := below }
        (if s.blk.profW (injHalf n) (injSeq n) sh.prof 4 = 0 then 2 else 1) p) }) ∧
  (∀ (s : State) (n : Fin 24) (below : Bool) (p : BandPlace),
     s.blk.shot n = none →
     exec (.boostTimeout n ⟨below, p⟩) s = .next s) ∧
  (∀ (s : State) (n : Fin 24) (sh : Shot) (below : Bool) (p : BandPlace),
     s.blk.shot n = some sh →
     (sh.quenchAt ≠ none ∨ sh.pkrAt ≠ none ∨ s.blk.f .a F.INJ_STAT_PH n ≠ 0 ∨ s.blk.shotDue n sh.gntAt (s.blk.profW (injHalf n) (injSeq n) sh.prof 1) = false) →
     exec (.boostTimeout n ⟨below, p⟩) s = .next s) ∧
  (∀ (s : State) (n : Fin 24) (sh : Shot) (p : BandPlace),
     s.blk.shot n = some sh →
     sh.quenchAt = none →
     s.blk.f .a F.INJ_STAT_PH n = 0 →
     s.blk.shotDue n sh.pkrAt (s.blk.profW (injHalf n) (injSeq n) sh.prof 2) = true →
     exec (.peakHoldEnd ⟨n, p⟩) s = .next { s with blk := (s.blk.enterHold n sh (if s.blk.profW (injHalf n) (injSeq n) sh.prof 4 = 0 then 2 else 1) p) }) ∧
  (∀ (s : State) (n : Fin 24) (p : BandPlace),
     s.blk.shot n = none →
     exec (.peakHoldEnd ⟨n, p⟩) s = .next s) ∧
  (∀ (s : State) (n : Fin 24) (sh : Shot) (p : BandPlace),
     s.blk.shot n = some sh →
     (sh.quenchAt ≠ none ∨ s.blk.f .a F.INJ_STAT_PH n ≠ 0 ∨ s.blk.shotDue n sh.pkrAt (s.blk.profW (injHalf n) (injSeq n) sh.prof 2) = false) →
     exec (.peakHoldEnd ⟨n, p⟩) s = .next s) ∧
  (∀ (s : State) (n : Fin 24) (sh : Shot) (p : BandPlace),
     s.blk.shot n = some sh →
     sh.quenchAt = none →
     s.blk.f .a F.INJ_STAT_PH n = 1 →
     s.blk.shotDue n sh.holdAt (s.blk.profW (injHalf n) (injSeq n) sh.prof 4) = true →
     exec (.hold1End ⟨n, p⟩) s = .next { s with blk := (s.blk.enterHold n sh 2 p) }) ∧
  (∀ (s : State) (n : Fin 24) (p : BandPlace),
     s.blk.shot n = none →
     exec (.hold1End ⟨n, p⟩) s = .next s) ∧
  (∀ (s : State) (n : Fin 24) (sh : Shot) (p : BandPlace),
     s.blk.shot n = some sh →
     (sh.quenchAt ≠ none ∨ s.blk.f .a F.INJ_STAT_PH n ≠ 1 ∨ s.blk.shotDue n sh.holdAt (s.blk.profW (injHalf n) (injSeq n) sh.prof 4) = false) →
     exec (.hold1End ⟨n, p⟩) s = .next s) ∧
  (∀ (s : State) (n : Fin 24) (sh : Shot) (fast : Bool),
     s.blk.shot n = some sh →
     sh.quenchAt = none →
     s.blk.shotDue n (some sh.start) sh.e = true →
     fast = (bits (s.blk.profW (injHalf n) (injSeq n) sh.prof 0) 7 6 == 0) →
     exec (.quenchStart n) s = .next { s with blk := (((((s.blk.lines n 3 sh.prof (!fast)).drive n (!fast) false false).bhsWithdraw n).setShot n (some
        { sh with quenchAt := some (s.blk.half (injHalf n)).tsc, pkmiss := sh.pkmiss || sh.gntAt.isNone })).seqState n 5) }) ∧
  (∀ (s : State) (n : Fin 24) (fast : Bool),
     s.blk.shot n = none →
     exec (.quenchStart n) s = .next s) ∧
  (∀ (s : State) (n : Fin 24) (sh : Shot),
     s.blk.shot n = some sh →
     (sh.quenchAt ≠ none ∨ s.blk.shotDue n (some sh.start) sh.e = false) →
     exec (.quenchStart n) s = .next s) ∧
  (∀ (s : State) (n : Fin 24) (sh : Shot) (x : ShotMeas),
     s.blk.shot n = some sh →
     sh.quenchAt ≠ none →
     exec (.shotEnd n x) s = .next { s with blk := ((s.blk.endShot n sh x false).shotSegments n sh x) }) ∧
  (∀ (s : State) (n : Fin 24) (x : ShotMeas),
     s.blk.shot n = none →
     exec (.shotEnd n x) s = .next s) ∧
  (∀ (s : State) (n : Fin 24) (sh : Shot) (x : ShotMeas),
     s.blk.shot n = some sh →
     sh.quenchAt = none →
     exec (.shotEnd n x) s = .next s) ∧
  (∀ (s : State) (n : Fin 24) (sh : Shot) (x : ShotMeas),
     s.blk.shot n = some sh →
     s.blk.shotDue n sh.quenchAt (s.blk.profW (injHalf n) (injSeq n) sh.prof 6) = true →
     exec (.quenchTimeout n x) s = .next { s with blk := ((s.blk.endShot n sh x true).shotSegments n sh x) }) ∧
  (∀ (s : State) (n : Fin 24) (x : ShotMeas),
     s.blk.shot n = none →
     exec (.quenchTimeout n x) s = .next s) ∧
  (∀ (s : State) (n : Fin 24) (sh : Shot) (x : ShotMeas),
     s.blk.shot n = some sh →
     s.blk.shotDue n sh.quenchAt (s.blk.profW (injHalf n) (injSeq n) sh.prof 6) = false →
     exec (.quenchTimeout n x) s = .next s) ∧
  (∀ (s : State) (n : Fin 24) (sh : Shot) (x : ShotMeas),
     s.blk.shot n = some sh →
     s.blk.latchSeen (.inj n) = true →
     exec (.shotTripEnd n x) s = .next { s with blk := ((s.blk.endShot n { sh with trip := true } x false).shotSegments n sh x) }) ∧
  (∀ (s : State) (n : Fin 24) (x : ShotMeas),
     s.blk.shot n = none →
     exec (.shotTripEnd n x) s = .next s) ∧
  (∀ (s : State) (n : Fin 24) (sh : Shot) (x : ShotMeas),
     s.blk.shot n = some sh →
     s.blk.latchSeen (.inj n) = false →
     exec (.shotTripEnd n x) s = .next s)

/-- The shared boost switch, chopping, learning, results and forced drive. A channel that requests its boost switch is
granted it where it is free and waits where it is not, the even channel first of two simultaneous requests; a channel
that requests nothing gets nothing; a holder whose shot is over releases it and the changeover grants the waiting
partner, or drops a request that no longer stands; GNT starts the boost; a band threshold turns the hold switch, or is
kept while a minimum time runs and ignored while the comparator is blanked; an expired minimum time acts on the
decision kept; a record is learned from once, and one without both events teaches nothing; POP, CLROVF and SEQ_FORCE
do what their registers say. What a row judges itself and what its operands carry is the model's form; the model's
choices in these rows are log entries 1, 11, 29, 32, 42, 43, 79, 88, 112. (Rules R191, R201, R203, R212, R213, R227.) -/
def Obligations.BoostAndChopRowsComplete : Prop :=
  (∀ (s : State) (n : Fin 24) (simul : Bool),
     s.blk.wantsBhs n = false →
     exec (.bhsRequest ⟨n, simul⟩) s = .next s) ∧
  (∀ (s : State) (n : Fin 24) (simul : Bool),
     s.blk.wantsBhs n = true →
     (s.blk.bhsOf (n / 2)).holder = none →
     (s.blk.bhsOf (n / 2)).change = false →
     (simul = false ∨ n.val % 2 = 0 ∨ s.blk.wantsBhs (n - 1) = false) →
     exec (.bhsRequest ⟨n, simul⟩) s = .next { s with blk := (s.blk.bhsGrant n) }) ∧
  (∀ (s : State) (n : Fin 24),
     s.blk.wantsBhs n = true →
     (s.blk.bhsOf (n / 2)).holder = none →
     (s.blk.bhsOf (n / 2)).change = false →
     n.val % 2 = 1 →
     s.blk.wantsBhs (n - 1) = true →
     exec (.bhsRequest ⟨n, true⟩) s = .next { s with blk := ((s.blk.bhsGrant (n - 1)).bhsWait n) }) ∧
  (∀ (s : State) (n : Fin 24) (simul : Bool),
     s.blk.wantsBhs n = true →
     (s.blk.bhsOf (n / 2)).holder = some (n % 2) →
     exec (.bhsRequest ⟨n, simul⟩) s = .next { s with blk := (s.blk.bhsGrant n) }) ∧
  (∀ (s : State) (n : Fin 24) (simul : Bool) (m : Nat),
     s.blk.wantsBhs n = true →
     (s.blk.bhsOf (n / 2)).holder = some m →
     m ≠ n % 2 →
     exec (.bhsRequest ⟨n, simul⟩) s = .next { s with blk := (s.blk.bhsWait n) }) ∧
  (∀ (s : State) (n : Fin 24) (simul : Bool),
     s.blk.wantsBhs n = true →
     (s.blk.bhsOf (n / 2)).holder = none →
     (s.blk.bhsOf (n / 2)).change = true →
     exec (.bhsRequest ⟨n, simul⟩) s = .next { s with blk := (s.blk.bhsWait n) }) ∧
  (∀ (s : State) (n : Fin 24),
     s.blk.shot n = none →
     s.blk.forced n = false →
     (s.blk.bhsOf (n / 2)).holder = some (n % 2) →
     exec (.bhsRelease n) s = .next { s with blk := ((s.blk.setBhs (n / 2) { s.blk.bhsOf (n / 2) with holder := none, change := true }).setF .a F.BHS_STAT_ON 0 (n / 2)) }) ∧
  (∀ (s : State) (n : Fin 24),
     (s.blk.splitBoost n = true ∨ s.blk.forced n = true) →
     s.blk.wantsBhs n = false →
     (s.blk.bhsOf (n / 2)).holder = some (n % 2) →
     exec (.bhsRelease n) s = .next { s with blk := ((s.blk.setBhs (n / 2) { s.blk.bhsOf (n / 2) with holder := none, change := true }).setF .a F.BHS_STAT_ON 0 (n / 2)) }) ∧
  (∀ (s : State) (n : Fin 24) (sh : Shot),
     s.blk.splitBoost n = false →
     s.blk.forced n = false →
     s.blk.shot n = some sh →
     exec (.bhsRelease n) s = .next s) ∧
  (∀ (s : State) (n : Fin 24),
     (s.blk.bhsOf (n / 2)).holder ≠ some (n % 2) →
     exec (.bhsRelease n) s = .next s) ∧
  (∀ (s : State) (k : Fin 12) (p : Nat) (b : Block),
     (s.blk.bhsOf k).change = true →
     (s.blk.bhsOf k).waiter = some p →
     b = s.blk.setBhs k { s.blk.bhsOf k with change := false } →
     b.wantsBhs (2 * k + p) = true →
     exec (.bhsChangeoverEnd k) s = .next { s with blk := (b.bhsGrant (2 * k + p)) }) ∧
  (∀ (s : State) (k : Fin 12) (p : Nat) (b : Block),
     (s.blk.bhsOf k).change = true →
     (s.blk.bhsOf k).waiter = some p →
     b = s.blk.setBhs k { s.blk.bhsOf k with change := false } →
     b.wantsBhs (2 * k + p) = false →
     exec (.bhsChangeoverEnd k) s = .next { s with blk := (b.bhsWithdraw (2 * k + p)) }) ∧
  (∀ (s : State) (k : Fin 12),
     (s.blk.bhsOf k).change = true →
     (s.blk.bhsOf k).waiter = none →
     exec (.bhsChangeoverEnd k) s = .next { s with blk := (s.blk.setBhs k { s.blk.bhsOf k with change := false }) }) ∧
  (∀ (s : State) (n : Fin 24) (sh : Shot),
     s.blk.shot n = some sh →
     sh.quenchAt = none →
     sh.gntAt = none →
     (s.blk.bhsOf (n / 2)).holder = some (n % 2) →
     exec (.grantSeen n) s = .next { s with blk := ((s.blk.setShot n (some { sh with gntAt := some (s.blk.half (injHalf n)).tsc })).seqState n 1) }) ∧
  (∀ (s : State) (n : Fin 24),
     (s.blk.shot n = none ∨ (s.blk.bhsOf (n / 2)).holder ≠ some (n % 2)) →
     exec (.grantSeen n) s = .next s) ∧
  (∀ (s : State) (n : Fin 24) (upper : Bool),
     s.blk.chopping n = true →
     (s.blk.chopOf n).blank = false →
     (s.blk.chopOf n).minRun = false →
     (s.blk.chopOf n).decay = false →
     s.blk.on .a F.INJ_STAT_HSB n = upper →
     exec (.chopThresholdCross n upper) s = .next { s with blk := (s.blk.hold n (!upper)) }) ∧
  (∀ (s : State) (n : Fin 24) (upper : Bool),
     s.blk.chopping n = true →
     (s.blk.chopOf n).blank = false →
     (s.blk.chopOf n).minRun = true →
     (s.blk.chopOf n).decay = false →
     exec (.chopThresholdCross n upper) s = .next { s with blk := (s.blk.setChop n { s.blk.chopOf n with want := some (!upper) }) }) ∧
  (∀ (s : State) (n : Fin 24) (upper : Bool) (b : Block),
     s.blk.chopping n = true →
     (s.blk.chopOf n).blank = false →
     (s.blk.chopOf n).decay = true →
     b = (s.blk.hold n false).setChop n { (s.blk.hold n false).chopOf n with decay := false } →
     (b.chopOf n).minRun = false →
     (s.blk.chopOf n).minRun = false →
     b.on .a F.INJ_STAT_HSB n = false →
     exec (.chopThresholdCross n upper) s = .next { s with blk := (if upper then b else b.hold n true) }) ∧
  (∀ (s : State) (n : Fin 24) (upper : Bool),
     (s.blk.chopping n = false ∨ (s.blk.chopOf n).blank = true) →
     exec (.chopThresholdCross n upper) s = .next s) ∧
  (∀ (s : State) (n : Fin 24) (v : Bool),
     (s.blk.chopOf n).want = some v →
     s.blk.chopping n = true →
     s.blk.on .a F.INJ_STAT_HSB n = !v →
     exec (.chopTimingExpiry n false) s = .next { s with blk := ((s.blk.setChop n { s.blk.chopOf n with minRun := false, want := none }).hold n v) }) ∧
  (∀ (s : State) (n : Fin 24),
     (s.blk.chopOf n).want = none →
     exec (.chopTimingExpiry n false) s = .next { s with blk := (s.blk.setChop n { s.blk.chopOf n with minRun := false, want := none }) }) ∧
  (∀ (s : State) (n : Fin 24),
     exec (.chopTimingExpiry n true) s = .next { s with blk := (s.blk.setChop n { s.blk.chopOf n with blank := false }) }) ∧
  (∀ (s : State) (h : HalfId) (k : Fin 12) (r : ShotRec) (b : Block),
     (nth [] (s.blk.half h).sq.results k).find? (fun r => !r.read) = some r →
     (b = s.blk.modHalf h (fun x => { x with sq := { x.sq with
          results := x.sq.results.set k ((nth [] (s.blk.half h).sq.results k).set ((nth [] (s.blk.half h).sq.results k).findIdx fun r => !r.read) { r with read := true }) } })) →
     (bits r.w0.toNat 3 2 ≠ 3 ∨ r.okNotice = false ∨ s.blk.on h F.SEQ_CFG_LRN k = false ∨ s.blk.phase h = phTEST ∨
        nth false (s.blk.half h).sq.restored k = false ∧ nth 0 (s.blk.half h).sq.count k < s.blk.f h F.SEQ_LCFG_MINSHOTS) →
     exec (.driftLearnUpdate h k) s = .next { s with blk := (b) }) ∧
  (∀ (s : State) (h : HalfId) (k : Fin 12) (r : ShotRec) (b : Block) (d : Int × Int),
     (nth [] (s.blk.half h).sq.results k).find? (fun r => !r.read) = some r →
     (b = s.blk.modHalf h (fun x => { x with sq := { x.sq with
          results := x.sq.results.set k ((nth [] (s.blk.half h).sq.results k).set ((nth [] (s.blk.half h).sq.results k).findIdx fun r => !r.read) { r with read := true }) } })) →
     bits r.w0.toNat 3 3 = 1 →
     bits r.w0.toNat 2 2 = 1 →
     r.okNotice = true →
     s.blk.on h F.SEQ_CFG_LRN k = true →
     s.blk.phase h ≠ phTEST →
     (nth false (s.blk.half h).sq.restored k = true ∨ s.blk.f h F.SEQ_LCFG_MINSHOTS ≤ nth 0 (s.blk.half h).sq.count k) →
     d = (learnStep (s.blk.f h F.SEQ_LCFG_RATE) (bits r.w2.toNat 23 12)
            (s.blk.f h F.SEQ_VREF_OPEN_REF (s.blk.f h F.SEQ_CFG_TYPE k)) (nth (0, 0) (s.blk.half h).sq.drift k).1,
          learnStep (s.blk.f h F.SEQ_LCFG_RATE) (bits r.w2.toNat 11 0)
            (s.blk.f h F.SEQ_VREF_CLOSE_REF (s.blk.f h F.SEQ_CFG_TYPE k)) (nth (0, 0) (s.blk.half h).sq.drift k).2) →
     exec (.driftLearnUpdate h k) s = .next { s with blk := ((b.setDrift h k d).writePairs h fun r => s.blk.f h F.EVC_CFG_OUT r.chan == k.val) }) ∧
  (∀ (s : State) (h : HalfId) (k : Fin 12),
     (nth [] (s.blk.half h).sq.results k).find? (fun r => !r.read) = none →
     exec (.driftLearnUpdate h k) s = .next s) ∧
  (∀ (s : State) (h : HalfId) (k : Fin 12),
     s.blk.powered .SEQ_POP h = true →
     exec (.seqResultPop h k) s = .next { s with blk := ({ s.blk.modHalf h (fun y => { y with sq := { y.sq with results := y.sq.results.set k ((nth [] y.sq.results k).drop 1) } }) with busErr := false }) }) ∧
  (∀ (s : State) (h : HalfId) (k : Fin 12),
     s.blk.powered .SEQ_POP h = true →
     exec (.seqClearOverflow h k) s = .next { s with blk := ({ (s.blk.setF h F.SEQ_STAT_OVF 0 k).setF h F.SEQ_STAT_LRNSAT 0 k with busErr := false }) }) ∧
  (∀ (s : State) (h : HalfId) (k : Fin 12) (v : Word) (b : Block),
     s.blk.phase h = phTEST →
     b = s.blk.setW h .SEQ_FORCE (wd (v.toNat / 2 ^ 20 * 2 ^ 20)) k →
     (s.blk.on h F.SEQ_FORCE_FEN k = true ∨ b.on h F.SEQ_FORCE_FEN k = true) →
     s.blk.powered .SEQ_FORCE h = true →
     exec (.seqForceWrite h k v) s = .next { s with blk := ({ b.applyForce h k with busErr := false }) }) ∧
  (∀ (s : State) (h : HalfId) (k : Fin 12) (v : Word) (b : Block),
     s.blk.phase h = phTEST →
     b = s.blk.setW h .SEQ_FORCE (wd (v.toNat / 2 ^ 20 * 2 ^ 20)) k →
     s.blk.on h F.SEQ_FORCE_FEN k = false →
     b.on h F.SEQ_FORCE_FEN k = false →
     s.blk.powered .SEQ_FORCE h = true →
     exec (.seqForceWrite h k v) s = .next { s with blk := ({ b with busErr := false }) }) ∧
  (∀ (s : State) (h : HalfId) (k : Fin 12) (v : Word),
     s.blk.phase h ≠ phTEST →
     s.blk.powered .SEQ_FORCE h = true →
     exec (.seqForceWrite h k v) s = .next { s with blk := ({ s.blk with busErr := true }) })

/-- Trips of the outputs, undervoltage and the clearing of a latch. Each trip row sets its cause and trips the output it
applies to, and does nothing where its cause or its guard does not apply; SWSET and a clear from the half not
entitled, and ALL from the half without the helm, end with a bus error; UV holds the stages off, is reported in class
1 by each half that holds the helm, and its release lets go (the report at its onset only is the model's choice, log
entry 40); a 1 written to LATCH clears the latch or, where a cause still holds, sets CLRREF. What a row judges itself
and what its operands carry is the model's form; the model's choices in these rows are log entries 1, 11, 41, 79, 88,
126. (Rules R207, R215, R216, R217, R218, R219, R220, R224, R417, R457.) -/
def Obligations.TripRowsComplete : Prop :=
  (∀ (s : State) (n : Fin 24) (amps : BitVec 10),
     s.blk.octh8 (.inj n) ≤ amps.toNat * 8 →
     exec (.tripOvercurrent ⟨.inj n, amps⟩) s = .next { s with blk := (s.blk.tripInj n caOC) }) ∧
  (∀ (s : State) (n : Fin 24) (amps : BitVec 10),
     amps.toNat * 8 < s.blk.octh8 (.inj n) →
     exec (.tripOvercurrent ⟨.inj n, amps⟩) s = .next s) ∧
  (∀ (s : State) (n : Fin 24),
     exec (.tripOvertemp (.inj n)) s = .next { s with blk := (s.blk.tripInj n caOT) }) ∧
  (∀ (s : State) (k : Fin 12) (amps : BitVec 10),
     s.blk.octh8 (.bhs k) ≤ amps.toNat * 8 →
     exec (.tripOvercurrent ⟨.bhs k, amps⟩) s = .next { s with blk := (((s.blk.latchOne (.bhs k) caOC).tripInj (2 * k) caBHS).tripInj (2 * k + 1) caBHS) }) ∧
  (∀ (s : State) (k : Fin 12) (amps : BitVec 10),
     amps.toNat * 8 < s.blk.octh8 (.bhs k) →
     exec (.tripOvercurrent ⟨.bhs k, amps⟩) s = .next s) ∧
  (∀ (s : State) (k : Fin 12),
     exec (.tripOvertemp (.bhs k)) s = .next { s with blk := (((s.blk.latchOne (.bhs k) caOT).tripInj (2 * k) caBHS).tripInj (2 * k + 1) caBHS) }) ∧
  (∀ (s : State) (b : Fin 8) (amps : BitVec 10),
     s.blk.octh8 (.hb b) ≤ amps.toNat * 8 →
     exec (.tripOvercurrent ⟨.hb b, amps⟩) s = .next { s with blk := (s.blk.latchOne (.hb b) caOC) }) ∧
  (∀ (s : State) (b : Fin 8) (amps : BitVec 10),
     amps.toNat * 8 < s.blk.octh8 (.hb b) →
     exec (.tripOvercurrent ⟨.hb b, amps⟩) s = .next s) ∧
  (∀ (s : State) (b : Fin 8),
     exec (.tripOvertemp (.hb b)) s = .next { s with blk := (s.blk.latchOne (.hb b) caOT) }) ∧
  (∀ (s : State) (j : Fin 2) (e : Fin 48) (amps : BitVec 10),
     exec (.tripOvercurrent ⟨.bst j, amps⟩) s = .next s ∧ exec (.tripOvercurrent ⟨.evo e, amps⟩) s = .next s) ∧
  (∀ (s : State) (j : Fin 2) (e : Fin 48),
     exec (.tripOvertemp (.bst j)) s = .next s ∧ exec (.tripOvertemp (.evo e)) s = .next s) ∧
  (∀ (s : State) (n : Fin 24),
     s.blk.on .a F.INJ_STAT_LS n = true →
     exec (.tripMaxon n) s = .next { s with blk := (s.blk.tripInj n caMAXON) }) ∧
  (∀ (s : State) (n : Fin 24),
     s.blk.on .a F.INJ_STAT_LS n = false →
     exec (.tripMaxon n) s = .next s) ∧
  (∀ (s : State) (o : Output) (tl : Fin 8),
     bits (s.blk.tmask o) tl tl = 1 →
     s.blk.tripLine o.owner tl = true →
     exec (.tripExternal o tl) s = .next { s with blk := (s.blk.trip o caEXT) }) ∧
  (∀ (s : State) (o : Output) (tl : Fin 8),
     (bits (s.blk.tmask o) tl tl = 0 ∨ s.blk.tripLine o.owner tl = false) →
     exec (.tripExternal o tl) s = .next s) ∧
  (∀ (s : State) (o : Output),
     s.blk.powered o.reg.1 o.owner = true →
     exec (.tripSoftware o.owner o) s = .next { s with blk := ({ s.blk.trip o caSW with busErr := false }) } ∧
        exec (.tripSoftware o.owner.peer o) s = .next { s with blk := ({ s.blk with busErr := true }) }) ∧
  (∀ (s : State) (h : HalfId),
     s.blk.holdsHelm h = true →
     s.blk.powered .DRV_SWTRIP h = true →
     exec (.drvSwtripAll h) s = .next { s with blk := ({ allOutputs.foldl (fun t o => t.trip o caSW) s.blk with busErr := false }) }) ∧
  (∀ (s : State) (h : HalfId),
     s.blk.holdsHelm h = false →
     s.blk.powered .DRV_SWTRIP h = true →
     exec (.drvSwtripAll h) s = .next { s with blk := ({ s.blk with busErr := true }) }) ∧
  (∀ (s : State) (j : Fin 2),
     exec (.tripOvervoltage j) s = .next { s with blk := (s.blk.latchOne (.bst j) caOV) }) ∧
  (∀ (s : State) (b : Fin 8),
     s.blk.f .a F.HB_GUARD_HOLDTO b ≠ 0 →
     ((s.blk.hbCommands b).1 = true ∨ (s.blk.hbCommands b).2 = true) →
     exec (.tripStuck b) s = .next { s with blk := (s.blk.latchOne (.hb b) caSTUCK) }) ∧
  (∀ (s : State) (b : Fin 8),
     (s.blk.f .a F.HB_GUARD_HOLDTO b = 0 ∨ ((s.blk.hbCommands b).1 = false ∧ (s.blk.hbCommands b).2 = false)) →
     exec (.tripStuck b) s = .next s) ∧
  (∀ (s : State) (b : Block) (c : Block),
     s.blk.on .a F.DRV_STAT_VBATUV = false →
     b = uvOutputs.foldl (fun t o => t.setLatch o caUV)
        (s.blk.setF .a F.DRV_STAT_VBATUV 1) →
     (c = if b.holdsHelm .a then b.report .a cOK 1 27 127 (bits (b.w .a .DRV_STAT).toNat 23 20) else b) →
     exec .vbatUndervoltage s = .next { s with blk := (if c.holdsHelm .b then c.report .b cOK 1 27 127 (bits (b.w .a .DRV_STAT).toNat 23 20) else c) }) ∧
  (∀ (s : State),
     s.blk.on .a F.DRV_STAT_VBATUV = true →
     exec .vbatUndervoltage s = .next s) ∧
  (∀ (s : State),
     s.blk.on .a F.DRV_STAT_VBATUV = false →
     exec .vbatUvRelease s = .next s) ∧
  (∀ (s : State),
     s.blk.on .a F.DRV_STAT_VBATUV = true →
     exec .vbatUvRelease s = .next { s with blk := (uvOutputs.foldl (fun t o =>
        if (t.setF .a (o.causeFld caUV) 0 o.reg.2).otherCause o then t.setF .a (o.causeFld caUV) 0 o.reg.2
        else (((t.setF .a (o.causeFld caUV) 0 o.reg.2).setF .a o.latchFld 0 o.reg.2)).follow o) (s.blk.setF .a F.DRV_STAT_VBATUV 0)) }) ∧
  (∀ (s : State) (o : Output) (holds : Bool),
     s.blk.clearRefused o holds = true →
     s.blk.powered o.reg.1 o.owner = true →
     exec (.tripLatchClear o.owner o holds) s = .next { s with blk := ({ (s.blk.setF .a o.clrrefFld 1 o.reg.2).report o.owner cOK 0 o.logBlock o.reg.2
        (bits ((s.blk.setF .a o.clrrefFld 1 o.reg.2).w .a o.reg.1 o.reg.2).toNat 8 0) with busErr := false }) }) ∧
  (∀ (s : State) (o : Output),
     s.blk.clearRefused o false = false →
     s.blk.uvHeld o = false →
     (∀ e : Fin 48, o ≠ .evo e) →
     s.blk.powered o.reg.1 o.owner = true →
     exec (.tripLatchClear o.owner o false) s = .next { s with blk := ({ ([caOV, caBHS, caOC, caOT, caMAXON, caEXT, caSW, caSTUCK].foldl
        (fun t c => t.setF .a (o.causeFld c) 0 o.reg.2) (s.blk.setF .a o.latchFld 0 o.reg.2)).follow o with busErr := false }) }) ∧
  (∀ (s : State) (o : Output),
     s.blk.clearRefused o false = false →
     s.blk.uvHeld o = true →
     (∀ e : Fin 48, o ≠ .evo e) →
     s.blk.powered o.reg.1 o.owner = true →
     exec (.tripLatchClear o.owner o false) s = .next { s with blk := ({ ([caOV, caBHS, caOC, caOT, caMAXON, caEXT, caSW, caSTUCK].foldl
        (fun t c => t.setF .a (o.causeFld c) 0 o.reg.2) s.blk).follow o with busErr := false }) }) ∧
  (∀ (s : State) (e : Fin 48) (o : Output) (b : Block),
     o = .evo e →
     s.blk.clearRefused o false = false →
     b = (s.blk.setF .a F.EVO_STAT_LATCH 0 e).setF .a (o.causeFld caEXT) 0 e →
     s.blk.powered o.reg.1 o.owner = true →
     exec (.tripLatchClear o.owner o false) s = .next { s with blk := ({ b.setF .a (o.causeFld caSW) 0 e with busErr := false }) }) ∧
  (∀ (s : State) (o : Output) (holds : Bool),
     s.blk.powered o.reg.1 o.owner.peer = true →
     exec (.tripLatchClear o.owner.peer o holds) s = .next { s with blk := ({ s.blk with busErr := true }) })

/-- Conversions, windows and the spare converter. A conversion of a running current converter updates its shot or its scan
list, and one of an empty slot does nothing; a passed point is queued in its window; a window sample is flagged,
counted and kept, and stored where STORE asks; WPOP, the stop and the counter clear do what their registers say; the
spare compares one converter a turn; FORCE replaces in TEST only. What a row judges itself and what its operands carry
is the model's form; the model's choices in these rows are log entries 1, 11, 17, 45, 48, 79, 88, 90, 138. (Rules
R229, R233, R235, R236, R237, R240, R243, R244, R246.) -/
def Obligations.ConverterRowsComplete : Prop :=
  (∀ (s : State) (h : HalfId) (k : Fin 2) (pos : Fin 16) (code : BitVec 16) (mon : BitVec 16) (r : Range) (n : Nat),
     s.blk.converts h (k + 2) = true →
     nth none (s.blk.conv h (k + 2)).shots (pos % 4) = some n →
     (pos.val < 4 ∨ 8 ≤ pos.val ∧ pos.val < 12) →
     s.blk.runsUnsampled h n = false →
     exec (.conversionResult h k pos code ⟨r, mon⟩) s = .next { s with blk := ((s.blk.convert h (k + 2) (pos % 4) pos r (fun a => (a + 1) % 16 == pos.val)).2.shuntSample n (clampCode false code.toNat r)) }) ∧
  (∀ (s : State) (h : HalfId) (k : Fin 2) (pos : Fin 16) (code : BitVec 16) (mon : BitVec 16) (r : Range) (n : Nat),
     s.blk.converts h (k + 2) = true →
     nth none (s.blk.conv h (k + 2)).shots (pos % 4) = some n →
     4 ≤ pos.val →
     pos.val < 8 →
     s.blk.runsUnsampled h n = false →
     exec (.conversionResult h k pos code ⟨r, mon⟩) s = .next { s with blk := ((s.blk.convert h (k + 2) (4 + pos % 4) pos r (fun a => (a + 1) % 16 == pos.val)).2) }) ∧
  (∀ (s : State) (h : HalfId) (k : Fin 2) (pos : Fin 16) (code : BitVec 16) (mon : BitVec 16) (r : Range) (n : Nat),
     s.blk.converts h (k + 2) = true →
     nth none (s.blk.conv h (k + 2)).shots (pos % 4) = some n →
     pos.val < 12 →
     s.blk.runsUnsampled h n = true →
     exec (.conversionResult h k pos code ⟨r, mon⟩) s = .next s) ∧
  (∀ (s : State) (h : HalfId) (k : Fin 2) (pos : Fin 16) (code : BitVec 16) (mon : BitVec 16) (r : Range),
     s.blk.converts h (k + 2) = true →
     pos.val < 12 →
     nth none (s.blk.conv h (k + 2)).shots (pos % 4) = none →
     exec (.conversionResult h k pos code ⟨r, mon⟩) s = .next s) ∧
  (∀ (s : State) (h : HalfId) (k : Fin 2) (pos : Fin 16) (code : BitVec 16) (mon : BitVec 16) (r : Range),
     s.blk.converts h (k + 2) = true →
     12 ≤ pos.val →
     exec (.conversionResult h k pos code ⟨r, mon⟩) s = .next { s with blk := (s.blk.scanSample h (k + 2) pos code.toNat mon.toNat r) }) ∧
  (∀ (s : State) (h : HalfId) (k : Fin 2) (pos : Fin 16) (code : BitVec 16) (mon : BitVec 16) (r : Range),
     s.blk.converts h (k + 2) = false →
     exec (.conversionResult h k pos code ⟨r, mon⟩) s = .next s) ∧
  (∀ (s : State) (h : HalfId) (k : Fin 2) (slot : Fin 4) (mv : Move) (w : Win) (w1 : Win) (b : Block),
     (s.blk.half h).clk.moved = some mv →
     nth none (s.blk.conv h k).wins slot = some w →
     w1 = queuePoints mv.jump mv.catchup (reachedBy mv (s.blk.cycleL h) w.g w.space) w.count w →
     b = s.blk.modConv h k (fun c => { c with wins := c.wins.set slot (some w1) }) →
     exec (.windowPointPass h k slot) s = .next { s with blk := ((if w1.queue.length - w.queue.length < w1.next - w.next then b.setF h F.PCV_ERR_DROP 1 k else b).settleWindow h k slot) }) ∧
  (∀ (s : State) (h : HalfId) (k : Fin 2) (slot : Fin 4),
     ((s.blk.half h).clk.moved = none ∨ nth none (s.blk.conv h k).wins slot = none) →
     exec (.windowPointPass h k slot) s = .next s) ∧
  (∀ (s : State) (h : HalfId) (k : Fin 2) (code : BitVec 16) (r : Range) (slot : Nat) (w : Win) (q : WPoint) (cv : Bool × Block) (w1 : Win) (b : Block),
     s.blk.convReady h k = true →
     firstQueued (s.blk.on h F.PCV_CFG_EN k) (s.blk.conv h k).wins = some (slot, w, q) →
     cv = s.blk.convert h k w.cp (s.blk.half h).tsc r (fun a => ticksTo a (s.blk.half h).tsc ≤ 3) →
     (w1 = { w with
          queue := w.queue.drop 1, jump := w.jump || q.jump, catchup := w.catchup || q.catchup, flags := w.flags + bitOf cv.1, taken := w.taken + 1,
          buf := if q.k = 0 then (w.storePlace h 0).getD 0 else w.buf,
          samples := if w.atu && q.k < 4096 then ⟨q.k, sext 16 (clampCode true code.toNat r), cv.1⟩ :: w.samples else w.samples }) →
     b = cv.2.modConv h k (fun c => { c with wins := c.wins.set slot (some w1) }) →
     exec (.windowPointSample h k code r) s = .next { s with
        blk := (if w.store.any fun p => decide (p.2 ≤ q.k) then b.setF h F.PCV_ERR_BUFOVF 1 k else b).settleWindow h k slot
        ram := match w.storePlace h q.k with
          | some a => memSet (ramReset a) s.ram a (aligned w.align (clampCode true code.toNat r))
          | none => s.ram }) ∧
  (∀ (s : State) (h : HalfId) (k : Fin 2) (code : BitVec 16) (r : Range),
     (s.blk.convReady h k = false ∨ firstQueued (s.blk.on h F.PCV_CFG_EN k) (s.blk.conv h k).wins = none) →
     exec (.windowPointSample h k code r) s = .next s) ∧
  (∀ (s : State) (h : HalfId) (k : Fin 2) (slot : Fin 4),
     s.blk.powered .PCV_CMD h = true →
     exec (.windowStop h k slot) s = .next { s with blk := ({ s.blk.endWindow h k slot 6 with busErr := false }) }) ∧
  (∀ (s : State) (h : HalfId) (k : Fin 4),
     s.blk.powered .PCV_CMD h = true →
     exec (.pcvClearCounters h k) s = .next { s with blk := ({ s.blk.clearW h .PCV_CNT k with busErr := false }) }) ∧
  (∀ (s : State) (h : HalfId) (k : Fin 2),
     s.blk.powered .PCV_WPOP h = true →
     exec (.windowRecordPop h k) s = .next { s with blk := ({ s.blk.modConv h k (fun c => { c with recs := c.recs.drop 1 }) with busErr := false }) }) ∧
  (∀ (s : State) (h : HalfId) (diff : BitVec 16) (k : Nat) (b : Block),
     s.blk.on h F.PCV_SPARE_USED = false →
     s.blk.on h F.PCV_SPARE_SPFAIL = false →
     s.blk.nextTurn h = some k →
     64 < diff.toNat →
     (s.blk.conv h k).miss < 7 →
     b = s.blk.modHalf h (fun x => { x with turn := (k + 1) % 4 }) →
     exec (.spareConverterCheck h diff) s = .next { s with blk := ((b.setConv h k
        { b.conv h k with miss := (s.blk.conv h k).miss + 1, other := if (s.blk.conv h k).miss = 0 then false else (s.blk.conv h k).other }).setW h .PCV_CHK
        (wd (((s.blk.conv h k).miss + 1) * 65536 + k * 8192 + capNat 8191 diff.toNat))) }) ∧
  (∀ (s : State) (h : HalfId) (diff : BitVec 16) (k : Nat) (b : Block) (c : Block),
     s.blk.on h F.PCV_SPARE_USED = false →
     s.blk.on h F.PCV_SPARE_SPFAIL = false →
     s.blk.nextTurn h = some k →
     diff.toNat ≤ 64 →
     b = s.blk.modHalf h (fun x => { x with turn := (k + 1) % 4 }) →
     c = b.setConv h k { b.conv h k with miss := 0, judged := false, other := false } →
     exec (.spareConverterCheck h diff) s = .next { s with blk := (((c.checkable h).foldl (fun t j => if j = k then t else t.modConv h j fun y => { y with other := y.miss != 0 }) c).setW h .PCV_CHK
        (wd (k * 8192 + diff.toNat))) }) ∧
  (∀ (s : State) (h : HalfId) (diff : BitVec 16),
     (s.blk.on h F.PCV_SPARE_USED = true ∨ s.blk.on h F.PCV_SPARE_SPFAIL = true ∨ s.blk.nextTurn h = none) →
     exec (.spareConverterCheck h diff) s = .next s) ∧
  (∀ (s : State) (h : HalfId) (k : Fin 8),
     s.blk.phase h = phTEST →
     k.val < 4 →
     s.blk.on h F.PCV_SPARE_USED = false →
     s.blk.on h F.PCV_SPARE_SPFAIL = false →
     s.blk.powered .PCV_SPARE h = true →
     exec (.converterForceReplace h k) s = .next { s with blk := ({ s.blk.replaceConv h k with busErr := false }) }) ∧
  (∀ (s : State) (h : HalfId) (k : Fin 8),
     s.blk.phase h = phTEST →
     (4 ≤ k.val ∨ s.blk.on h F.PCV_SPARE_USED = true ∨ s.blk.on h F.PCV_SPARE_SPFAIL = true) →
     s.blk.powered .PCV_SPARE h = true →
     exec (.converterForceReplace h k) s = .next { s with blk := ({ s.blk with busErr := false }) }) ∧
  (∀ (s : State) (h : HalfId) (k : Fin 8),
     s.blk.phase h ≠ phTEST →
     s.blk.powered .PCV_SPARE h = true →
     exec (.converterForceReplace h k) s = .next { s with blk := ({ s.blk with busErr := true }) })

/-- Combustion records, feedback, crank-speed misfire and reports. A finished context replaces its cylinder's record,
marks it fresh and keeps a VALID IMEP; a read of word 0 latches words 1 to 10 of the same record; a VALID record
without misfire becomes due for feedback, which in TEST only drops it and otherwise steps a_c and e_c toward their
targets, late after a passed trim latch; a crank-speed judgement notes its verdict, and none without tau, combustion
or a cycle time; a report marks its record considered and sends what is due; the clears clear. What a row judges
itself and what its operands carry is the model's form; the model's choices in these rows are log entries 1, 11, 5,
10, 29, 32, 47, 79, 88, 112. (Rules R254, R256, R258, R260, R263, R264.) -/
def Obligations.CombustionRowsComplete : Prop :=
  (∀ (s : State) (h : HalfId) (ctx : Fin 8) (j : AtuJob) (r : List Word × Block) (c : Nat) (valid : Bool) (fb : Bool) (due : FbDue) (b : Block) (d : Block),
     (s.blk.half h).atu.jobs.find? (fun j => j.ctx == ctx.val) = some j →
     r = s.blk.atuWords h j →
     c = j.win.frame →
     valid = (bits (nth 0 r.1 0).toNat 7 7 == 1) →
     fb = (valid && !(bits (nth 0 r.1 0).toNat 6 6 == 1) && (s.blk.on h F.ATU_CYL_CAFB c || s.blk.on h F.ATU_CYL_IMFB c)) →
     due = ⟨c, (nth 0 r.1 6).toNat, sext 24 (nth 0 r.1 3).toNat, s.blk.f h F.ATU_CA50T_TARGET c, s.blk.f h F.ATU_FBG_KCA, s.blk.f h F.ATU_FBG_KIM, j.win.late⟩ →
     (b = (r.2.putRec h c r.1).modAtu h (fun x => { x with
          jobs := x.jobs.erase j, fresh := x.fresh.set c true, fbHeld := x.fbHeld.set c none,
          imep := if valid then x.imep.set c (some (sext 24 (nth 0 r.1 3).toNat)) else x.imep,
          fbDue := if fb then x.fbDue ++ [due] else x.fbDue })) →
     d = (if bits (nth 0 r.1 0).toNat 1 1 = 1 then b.setF h F.ATU_ERR_PEGFAIL 1 else b) →
     exec (.atuRecordWrite h ctx) s = .next { s with blk := (if valid then d else d.setF h F.ATU_ERR_INVALID 1) }) ∧
  (∀ (s : State) (h : HalfId) (ctx : Fin 8),
     (s.blk.half h).atu.jobs.find? (fun j => j.ctx == ctx.val) = none →
     exec (.atuRecordWrite h ctx) s = .next s) ∧
  (∀ (s : State) (h : HalfId) (c : Fin 24),
     s.blk.powered .ATU_REC h = true →
     exec (.atuRecordRead h c) s = .next { s with blk := ({ s.blk.modAtu h (fun x => { x with latch := (c.val, (List.range 10).map fun i => s.blk.recWord h c (i + 1)) }) with
        busErr := false, busData := s.blk.recWord h c 0 }) }) ∧
  (∀ (s : State) (h : HalfId) (c : Fin 24),
     (s.blk.half h).atu.fbDue.find? (fun d => d.cyl == c.val) = none →
     exec (.combustionFeedback h c) s = .next s) ∧
  (∀ (s : State) (h : HalfId) (c : Fin 24) (d : FbDue),
     (s.blk.half h).atu.fbDue.find? (fun d => d.cyl == c.val) = some d →
     (s.blk.phase h = phTEST ∨ nth 0 (s.blk.half h).hip.roles 2 = 2) →
     exec (.combustionFeedback h c) s = .next { s with blk := (s.blk.modAtu h fun x => { x with fbDue := x.fbDue.erase d }) }) ∧
  (∀ (s : State) (h : HalfId) (c : Fin 24) (d : FbDue) (b : Block) (old : Int × Int) (a : Int) (e : Int) (f : Block),
     (s.blk.half h).atu.fbDue.find? (fun d => d.cyl == c.val) = some d →
     s.blk.phase h ≠ phTEST →
     nth 0 (s.blk.half h).hip.roles 2 ≠ 2 →
     b = s.blk.modAtu h (fun x => { x with fbDue := x.fbDue.erase d }) →
     old = corrOf (b.corr h c) →
     a = (if b.on h F.ATU_CYL_CAFB c then stepAngle (b.cycleL h) d old.1 else old.1) →
     (e = (if b.on h F.ATU_CYL_IMFB c ∧ 0 < (b.imepRef h).1 then ((b.mainParam h c).map fun n => stepEnergising (b.imepRef h) d n old.2).getD old.2 else old.2)) →
     f = (b.setCorr h c (corrWord (a, e))).writePairs h (fun r => r.frame == c.val) →
     exec (.combustionFeedback h c) s = .next { s with blk := (if d.late = none ∨ d.late = some (s.blk.half h).tsc then f else f.setF h F.ATU_ERR_LATEFB 1) }) ∧
  (∀ (s : State) (h : HalfId) (c : Fin 24),
     s.blk.f h F.ANG_CYL_N_CYL ≤ c.val →
     exec (.crankMisfireJudge h c) s = .next s) ∧
  (∀ (s : State) (h : HalfId) (c : Fin 24) (b : Block),
     c.val < s.blk.f h F.ANG_CYL_N_CYL →
     b = s.blk.modAtu h (fun x => { x with tau := x.tau.set c (s.blk.tauOf h c), fuel := x.fuel.set c false }) →
     s.blk.ownsCyl h c = false →
     exec (.crankMisfireJudge h c) s = .next { s with blk := (b) }) ∧
  (∀ (s : State) (h : HalfId) (c : Fin 24) (b : Block),
     c.val < s.blk.f h F.ANG_CYL_N_CYL →
     b = s.blk.modAtu h (fun x => { x with tau := x.tau.set c (s.blk.tauOf h c), fuel := x.fuel.set c false }) →
     s.blk.ownsCyl h c = true →
     (s.blk.tauOf h c = none ∨ (s.blk.firesBefore h c).bind (fun d => nth none (s.blk.half h).atu.tau d) = none ∨ s.blk.on h F.ATU_CFG_MFEN = false ∨ nth false (s.blk.half h).atu.fuel c = false ∨ (s.blk.half h).clk.cycLen = 0) →
     exec (.crankMisfireJudge h c) s = .next { s with blk := (b.modAtu h fun x => { x with crk := x.crk.set c (some (false, false, 0)) }) }) ∧
  (∀ (s : State) (h : HalfId) (c : Fin 24) (b : Block) (x : Frac) (p : Frac) (d : Frac),
     c.val < s.blk.f h F.ANG_CYL_N_CYL →
     b = s.blk.modAtu h (fun x => { x with tau := x.tau.set c (s.blk.tauOf h c), fuel := x.fuel.set c false }) →
     s.blk.ownsCyl h c = true →
     s.blk.tauOf h c = some x →
     (s.blk.firesBefore h c).bind (fun d => nth none (s.blk.half h).atu.tau d) = some p →
     s.blk.on h F.ATU_CFG_MFEN = true →
     nth false (s.blk.half h).atu.fuel c = true →
     (s.blk.half h).clk.cycLen ≠ 0 →
     d = fracSub (fracMul (fracDiv (fracSub x p) (frac ((s.blk.half h).clk.cycLen : Int) (s.blk.cycleL h))) ⟨65536, 1⟩) ⟨sext 16 (s.blk.f h F.ATU_MFS_BASE c), 1⟩ →
     fracLt (fracOf (s.blk.f h F.ATU_MFTH_TH)) d = true →
     exec (.crankMisfireJudge h c) s = .next { s with blk := ((b.count h F.ATU_MFS_MFCNT c).modAtu h fun y => { y with crk := y.crk.set c (some (true, true, fracFloor d)) }) }) ∧
  (∀ (s : State) (h : HalfId) (c : Fin 24) (b : Block) (x : Frac) (p : Frac) (d : Frac) (n : Int),
     c.val < s.blk.f h F.ANG_CYL_N_CYL →
     b = s.blk.modAtu h (fun x => { x with tau := x.tau.set c (s.blk.tauOf h c), fuel := x.fuel.set c false }) →
     s.blk.ownsCyl h c = true →
     s.blk.tauOf h c = some x →
     (s.blk.firesBefore h c).bind (fun d => nth none (s.blk.half h).atu.tau d) = some p →
     s.blk.on h F.ATU_CFG_MFEN = true →
     nth false (s.blk.half h).atu.fuel c = true →
     (s.blk.half h).clk.cycLen ≠ 0 →
     d = fracSub (fracMul (fracDiv (fracSub x p) (frac ((s.blk.half h).clk.cycLen : Int) (s.blk.cycleL h))) ⟨65536, 1⟩) ⟨sext 16 (s.blk.f h F.ATU_MFS_BASE c), 1⟩ →
     fracLt (fracOf (s.blk.f h F.ATU_MFTH_TH)) d = false →
     n = fracFloor (fracAdd ⟨sext 16 (s.blk.f h F.ATU_MFS_BASE c), 1⟩ (fracMul d ⟨1, 2 ^ s.blk.f h F.ATU_MFTH_RATE⟩)) →
     exec (.crankMisfireJudge h c) s = .next { s with blk := ((b.setF h F.ATU_MFS_BASE (field 16 (if n < -32768 then -32768 else if 32767 < n then 32767 else n)) c).modAtu h fun y =>
        { y with crk := y.crk.set c (some (true, false, fracFloor d)) }) }) ∧
  (∀ (s : State) (h : HalfId) (c : Fin 24),
     nth false (s.blk.half h).atu.fresh c = false →
     nth none (s.blk.half h).atu.crk c = none →
     exec (.combustionReportSend h c) s = .next s) ∧
  (∀ (s : State) (h : HalfId) (c : Fin 24) (fresh : Bool) (v : Bool × Bool × Int) (mf : Bool) (comb : Bool) (pay : List Word) (b : Block) (d : Block),
     nth false (s.blk.half h).atu.fresh c = fresh →
     (fresh = true ∨ nth none (s.blk.half h).atu.crk c ≠ none) →
     v = (nth none (s.blk.half h).atu.crk c).getD (false, false, 0) →
     mf = (bits (s.blk.recWord h c 0).toNat 6 6 == 1) →
     pay = (List.range 11).map (s.blk.recWord h c) ++
        [wd (c * 2 ^ 19 + bits (s.blk.recWord h c 0).toNat 15 8 * 2 ^ 11 + bitOf v.1 * 1024 + bitOf v.2.1 * 512 + bitOf mf * 256), wd (satS v.2.2)] →
     comb = (fresh && s.blk.on h F.ATU_CYL_EN c && s.blk.f h F.ATU_CFG_RDIV != 0 && decide (s.blk.f h F.ATU_CFG_RDIV ≤ nth 0 (s.blk.half h).atu.since c + 1)) →
     (b = s.blk.modAtu h (fun x => { x with
          fresh := x.fresh.set c false, crk := x.crk.set c none,
          since := if fresh then x.since.set c (if comb then 0 else nth 0 (s.blk.half h).atu.since c + 1) else x.since })) →
     d = (if comb then b.softNotice h 0xC7 pay 2 else b) →
     exec (.combustionReportSend h c) s = .next { s with blk := (if s.blk.on h F.ATU_CFG_MFNOTE ∧ (fresh ∧ mf ∨ v.2.1) then d.softNotice h 0xC8 pay 1 else d) }) ∧
  (∀ (s : State) (h : HalfId),
     s.blk.powered .ATU_CLR h = true →
     exec (.atuClearBaseline h) s = .next { s with blk := ({ (List.range 24).foldl (fun t c => t.setF h F.ATU_MFS_BASE 0 c) s.blk with busErr := false }) }) ∧
  (∀ (s : State) (h : HalfId),
     s.blk.powered .ATU_CLR h = true →
     exec (.atuClearCounts h) s = .next { s with blk := ({ (List.range 24).foldl (fun t c => t.setF h F.ATU_MFS_MFCNT 0 c) s.blk with busErr := false }) })

/-- Comparators: decisions, blanking, enable, thresholds, capture and spares. A voltage at an input is seen by every
comparator that selects it; of one alone on its input, a settled enabled comparator whose input reaches a decision
takes it, and its output follows unless blanking holds it; one whose edges were moved past its input, or that lies
inside a band, keeps its decision; one that is off, failed or unsettled inside a band only notes the input; an enable
of a comparator that was off makes the first decision; the end of blanking and its guard give the raw decision; a
disable forces LOW; a threshold write that breaks the window condition is refused; a read of CMP_CAPLO latches the
high half; a forced replacement is for TEST only. What a row judges itself and what its operands carry is the model's
form; the model's choices in these rows are log entries 1, 11, 49, 79, 88, 114. (Rules R266, R268, R269, R271, R273,
R274, R275.) -/
def Obligations.ComparatorRowsComplete : Prop :=
  (∀ (s : State) (h : HalfId) (k : Fin 32) (v : BitVec 12) (on : List Nat),
     on = (List.range 32).filter (fun j => s.blk.f h F.CMP_CFG_INSEL j == s.blk.f h F.CMP_CFG_INSEL k) →
     exec (.comparatorDecisionChange h k v) s = .next { s with blk := (on.foldl (Block.cmpJudge h) (s.blk.setCmpV h k v.toNat)) }) ∧
  (∀ (s : State) (h : HalfId) (k : Fin 32) (v : BitVec 12) (b : Block) (e : Block) (w : Bool) (d : Bool) (inv : Bool) (c : Block),
     (List.range 32).filter (fun j => s.blk.f h F.CMP_CFG_INSEL j == s.blk.f h F.CMP_CFG_INSEL k) = [k.val] →
     b = s.blk.setCmpV h k v.toNat →
     w = (match (b.cmp h k).heldAt with | some v0 => b.cmpSame h k v0 (b.cmpV h k) | none => false) →
     e = b.modCmp h k (fun c => { c with heldAt := none }) →
     b.cmpPowered h = true →
     b.on h F.CMP_CFG_EN k = true →
     b.on h F.CMP_STAT_FAILED k = false →
     false = w →
     e.cmpDecision h k (e.cmpV h k) = some d →
     inv = e.on h F.CMP_CFG_INV k →
     c = ((e.cmpSide h k (e.cmpV h k)).setF h F.CMP_STAT_RAW (bitOf (d != inv)) k).setF h F.CMP_STAT_UNSETTLED 0 k →
     exec (.comparatorDecisionChange h k v) s = .next { s with blk := (if e.blanked h k then c else c.cmpOut h k (d != inv) (!e.on h F.CMP_STAT_UNSETTLED k || (d && (d != inv)))) }) ∧
  (∀ (s : State) (h : HalfId) (k : Fin 32) (v : BitVec 12) (b : Block) (e : Block) (w : Bool),
     (List.range 32).filter (fun j => s.blk.f h F.CMP_CFG_INSEL j == s.blk.f h F.CMP_CFG_INSEL k) = [k.val] →
     b = s.blk.setCmpV h k v.toNat →
     w = (match (b.cmp h k).heldAt with | some v0 => b.cmpSame h k v0 (b.cmpV h k) | none => false) →
     e = b.modCmp h k (fun c => { c with heldAt := none }) →
     b.cmpPowered h = true →
     b.on h F.CMP_CFG_EN k = true →
     b.on h F.CMP_STAT_FAILED k = false →
     b.on h F.CMP_STAT_UNSETTLED k = true →
     (e.cmpDecision h k (e.cmpV h k) = none ∨ w = true) →
     exec (.comparatorDecisionChange h k v) s = .next { s with blk := (if w then b else e) }) ∧
  (∀ (s : State) (h : HalfId) (k : Fin 32) (v : BitVec 12) (b : Block) (e : Block) (w : Bool) (x : Block) (r : Bool) (y : Block),
     (List.range 32).filter (fun j => s.blk.f h F.CMP_CFG_INSEL j == s.blk.f h F.CMP_CFG_INSEL k) = [k.val] →
     b = s.blk.setCmpV h k v.toNat →
     w = (match (b.cmp h k).heldAt with | some v0 => b.cmpSame h k v0 (b.cmpV h k) | none => false) →
     e = b.modCmp h k (fun c => { c with heldAt := none }) →
     b.cmpPowered h = true →
     b.on h F.CMP_CFG_EN k = true →
     b.on h F.CMP_STAT_FAILED k = false →
     b.on h F.CMP_STAT_UNSETTLED k = false →
     (e.cmpDecision h k (e.cmpV h k) = none ∨ w = true) →
     x = (if w then b else e) →
     r = x.on h F.CMP_STAT_RAW k →
     y = x.setF h F.CMP_STAT_RAW (bitOf r) k →
     exec (.comparatorDecisionChange h k v) s = .next { s with blk := (if x.blanked h k then y else y.cmpOut h k r true) }) ∧
  (∀ (s : State) (h : HalfId) (k : Fin 32) (v : BitVec 12) (b : Block),
     (List.range 32).filter (fun j => s.blk.f h F.CMP_CFG_INSEL j == s.blk.f h F.CMP_CFG_INSEL k) = [k.val] →
     b = s.blk.setCmpV h k v.toNat →
     (b.cmpPowered h = false ∨ b.on h F.CMP_CFG_EN k = false ∨ b.on h F.CMP_STAT_FAILED k = true) →
     exec (.comparatorDecisionChange h k v) s = .next { s with blk := (b) }) ∧
  (∀ (s : State) (h : HalfId) (k : Fin 32),
     s.blk.blanked h k = true →
     exec (.blankingEnd h k) s = .next s) ∧
  (∀ (s : State) (h : HalfId) (k : Fin 32) (b : Block),
     s.blk.blanked h k = false →
     (b = (if s.blk.blankSource h k then s.blk else s.blk.modCmp h k fun c => { c with ovrd := false })) →
     s.blk.cmpPowered h = true →
     s.blk.on h F.CMP_CFG_EN k = true →
     s.blk.on h F.CMP_STAT_FAILED k = false →
     s.blk.on h F.CMP_STAT_UNSETTLED k = false →
     exec (.blankingEnd h k) s = .next { s with blk := (b.cmpOut h k (s.blk.on h F.CMP_STAT_RAW k) true) }) ∧
  (∀ (s : State) (h : HalfId) (k : Fin 32) (b : Block),
     s.blk.blanked h k = false →
     (b = (if s.blk.blankSource h k then s.blk else s.blk.modCmp h k fun c => { c with ovrd := false })) →
     (s.blk.cmpPowered h = false ∨ s.blk.on h F.CMP_CFG_EN k = false ∨ s.blk.on h F.CMP_STAT_UNSETTLED k = true ∨ s.blk.on h F.CMP_STAT_FAILED k = true) →
     exec (.blankingEnd h k) s = .next { s with blk := (b) }) ∧
  (∀ (s : State) (h : HalfId) (k : Fin 32) (b : Block),
     s.blk.blanked h k = true →
     s.blk.f h F.CMP_BLK_BLMAX k ≠ 0 →
     (b = (s.blk.modCmp h k fun c => { c with ovrd := true }).setF h F.CMP_EVT_BLERR 1 k) →
     exec (.blankingGuardTimeout h k) s = .next { s with blk := (if s.blk.on h F.CMP_STAT_UNSETTLED k ∨ s.blk.on h F.CMP_STAT_FAILED k then b else b.cmpOut h k (s.blk.on h F.CMP_STAT_RAW k) true) }) ∧
  (∀ (s : State) (h : HalfId) (k : Fin 32),
     (s.blk.blanked h k = false ∨ s.blk.f h F.CMP_BLK_BLMAX k = 0) →
     exec (.blankingGuardTimeout h k) s = .next s) ∧
  (∀ (s : State) (h : HalfId) (k : Fin 32) (v : BitVec 12),
     s.blk.on h F.CMP_CFG_EN k = false →
     s.blk.powered .CMP_CFG h = true →
     exec (.comparatorEnable h k v) s = .next { s with blk := ({ ((decisionChange h k v.toNat s.blk).setF h F.CMP_CFG_EN 1 k).cmpFirst h k with busErr := false }) }) ∧
  (∀ (s : State) (h : HalfId) (k : Fin 32) (v : BitVec 12),
     s.blk.on h F.CMP_CFG_EN k = true →
     s.blk.powered .CMP_CFG h = true →
     exec (.comparatorEnable h k v) s = .next { s with blk := ({ decisionChange h k v.toNat s.blk with busErr := false }) }) ∧
  (∀ (s : State) (h : HalfId) (k : Fin 32),
     s.blk.powered .CMP_CFG h = true →
     exec (.comparatorDisable h k) s = .next { s with blk := ({ ((((s.blk.setF h F.CMP_CFG_EN 0 k).setF h F.CMP_STAT_RAW 0 k).setF h F.CMP_STAT_UNSETTLED 0 k).modCmp h k
        (fun c => { c with ovrd := false, heldAt := none })).cmpOut h k false false with busErr := false }) }) ∧
  (∀ (s : State) (h : HalfId) (k : Fin 32) (v : Word),
     s.blk.f h F.CMP_CFG_MODE k ≠ 2 →
     s.blk.powered .CMP_TH h = true →
     exec (.comparatorThresholdWrite h k false v) s = .next { s with blk := ({ (s.blk.setW h .CMP_TH (wd (v.toNat &&& Reg.CMP_TH.info.rw)) k).cmpHold h k with busErr := false }) } ∧
        exec (.comparatorThresholdWrite h k true v) s = .next { s with blk := ({ (s.blk.setW h .CMP_HYS (wd (v.toNat &&& Reg.CMP_HYS.info.rw)) k).cmpHold h k with busErr := false }) }) ∧
  (∀ (s : State) (h : HalfId) (k : Fin 32) (v : Word),
     s.blk.f h F.CMP_CFG_MODE k = 2 →
     windowOk 2 (bits (v.toNat &&& Reg.CMP_TH.info.rw) F.CMP_TH_TH_HI.hi F.CMP_TH_TH_HI.lo) (bits (v.toNat &&& Reg.CMP_TH.info.rw) F.CMP_TH_TH_LO.hi F.CMP_TH_TH_LO.lo) (s.blk.f h F.CMP_HYS_HYS k) = false →
     s.blk.powered .CMP_TH h = true →
     exec (.comparatorThresholdWrite h k false v) s = .next { s with blk := ({ s.blk with busErr := true }) }) ∧
  (∀ (s : State) (h : HalfId) (k : Fin 32),
     s.blk.powered .CMP_CAPLO h = true →
     exec (.cmpCaploRead h k) s = .next { s with blk := ({ (s.blk.setW h .CMP_CAPHI (wd ((s.blk.cmp h k).cap / 2 ^ 24)) k).modCmp h k (fun c => { c with unread := false }) with
        busErr := false, busData := s.blk.w h .CMP_CAPLO k }) }) ∧
  (∀ (s : State) (h : HalfId) (k : Fin 32) (i : Nat) (used : Nat),
     s.blk.phase h = phTEST →
     (List.range 4).find? (fun i => bits (s.blk.f h F.CMP_SPARE_USED ||| s.blk.f h F.CMP_SPARE_SFAIL) i i = 0) = some i →
     used = putBits (s.blk.f h F.CMP_SPARE_USED) i i 1 →
     s.blk.powered .CMP_SPARE h = true →
     exec (.comparatorForceReplace h k) s = .next { s with blk := ({ ((s.blk.setF h F.CMP_SPARE_USED used).setF h F.CMP_STAT_SPARE 1 k).spareEvent h 4 true k
        ((List.range 4).filter fun j => bits (s.blk.f h F.CMP_SPARE_USED ||| s.blk.f h F.CMP_SPARE_SFAIL ||| used) j j = 0).length 0 7 k 0 with busErr := false }) }) ∧
  (∀ (s : State) (h : HalfId) (k : Fin 32),
     s.blk.phase h ≠ phTEST →
     s.blk.powered .CMP_SPARE h = true →
     exec (.comparatorForceReplace h k) s = .next { s with blk := ({ s.blk with busErr := true }) }) ∧
  (∀ (s : State) (h : HalfId) (k : Fin 32),
     s.blk.phase h = phTEST →
     (List.range 4).find? (fun i => bits (s.blk.f h F.CMP_SPARE_USED ||| s.blk.f h F.CMP_SPARE_SFAIL) i i = 0) = none →
     s.blk.powered .CMP_SPARE h = true →
     exec (.comparatorForceReplace h k) s = .next { s with blk := ({ ((s.blk.setF h F.CMP_STAT_FAILED 1 k).cmpOut h k false false).spareEvent h 4 false k 0 0 7 k 0 with busErr := false }) })

/-- PWM units: start, stop, update, wrap, match, filter, dead time, refresh, trip and freeze. Each PWM row does what
chapter 11 gives it under its condition: a start with a bad period is refused, a stop clears the stages, LOAD makes
the pending set, a wrap puts it in force, a match sets or clears its request, an edge leaves the filter in its time,
dead time and refresh end, a selected trip line or SWSET sets the latch, a clear waits for the lines, and one refused
sets CLRREF and is reported in class 0. What a row judges itself and what its operands carry is the model's form; the
model's choices in these rows are log entries 1, 11, 50, 79, 88. (Rules R279, R280, R281, R283, R284, R287, R288,
R289, R290, R291, R292.) -/
def Obligations.PwmRowsComplete : Prop :=
  (∀ (s : State) (h : HalfId) (u : Fin 16),
     (s.blk.f h F.PWM_PER_PER u < 4 ∨ s.blk.f h F.PWM_PER_PER u ≤ s.blk.f h F.PWM_INIT_INIT u) →
     s.blk.powered .PWM_CTRL h = true →
     exec (.pwmEnable h u) s = .next { s with blk := ({ s.blk with busErr := true }) }) ∧
  (∀ (s : State) (h : HalfId) (u : Fin 16),
     4 ≤ s.blk.f h F.PWM_PER_PER u →
     s.blk.f h F.PWM_INIT_INIT u < s.blk.f h F.PWM_PER_PER u →
     s.blk.on h F.PWM_CTRL_EN u = false →
     s.blk.on h F.PWM_CTRL_GSYNC u = false →
     s.blk.powered .PWM_CTRL h = true →
     exec (.pwmEnable h u) s = .next { s with blk := ({ (s.blk.setF h F.PWM_CTRL_EN 1 u).pwmStart h u with busErr := false }) }) ∧
  (∀ (s : State) (h : HalfId) (u : Fin 16),
     4 ≤ s.blk.f h F.PWM_PER_PER u →
     s.blk.f h F.PWM_INIT_INIT u < s.blk.f h F.PWM_PER_PER u →
     s.blk.on h F.PWM_CTRL_EN u = false →
     s.blk.on h F.PWM_CTRL_GSYNC u = true →
     s.blk.powered .PWM_CTRL h = true →
     exec (.pwmEnable h u) s = .next { s with blk := ({ ((s.blk.setF h F.PWM_CTRL_EN 1 u).modPwm h u fun x => { x with wait := true }).pwmShow h u with busErr := false }) }) ∧
  (∀ (s : State) (h : HalfId) (u : Fin 16),
     4 ≤ s.blk.f h F.PWM_PER_PER u →
     s.blk.f h F.PWM_INIT_INIT u < s.blk.f h F.PWM_PER_PER u →
     s.blk.on h F.PWM_CTRL_EN u = true →
     s.blk.powered .PWM_CTRL h = true →
     exec (.pwmEnable h u) s = .next { s with blk := ({ s.blk with busErr := false }) }) ∧
  (∀ (s : State) (h : HalfId) (u : Fin 16),
     s.blk.powered .PWM_CTRL h = true →
     exec (.pwmDisable h u) s = .next { s with blk := ({ (((s.blk.pwmOverlay h u).setF h F.PWM_CTRL_EN 0 u).modPwm h u fun x =>
        { Pwm.idle with act := x.act, pend := x.pend, pend2 := x.pend2, clear := x.clear }).pwmShow h u with busErr := false }) }) ∧
  (∀ (s : State) (h : HalfId) (mask : BitVec 16),
     s.blk.powered .PWM_GSTART h = true →
     exec (.pwmGstart h mask) s = .next { s with blk := ({ (List.range 16).foldl (fun t u => if bits mask.toNat u u == 1 && (t.pwm h u).wait then t.pwmStart h u else t) s.blk with busErr := false }) }) ∧
  (∀ (s : State) (h : HalfId) (u : Fin 16),
     s.blk.on h F.PWM_CTRL_UPD u = false →
     (s.blk.pwm h u).wrap = none →
     s.blk.powered .PWM_LOAD h = true →
     exec (.pwmLoad h u) s = .next { s with blk := ({ (s.blk.modPwm h u fun x => { x with pend := some (s.blk.pwmRegs h u) }).pwmShow h u with busErr := false }) }) ∧
  (∀ (s : State) (h : HalfId) (u : Fin 16) (run : Nat),
     s.blk.on h F.PWM_CTRL_UPD u = false →
     (s.blk.pwm h u).wrap = some run →
     s.blk.powered .PWM_LOAD h = true →
     exec (.pwmLoad h u) s = .next { s with blk := ({ (s.blk.modPwm h u fun x => { x with pend2 := some (s.blk.pwmRegs h u) }).pwmShow h u with busErr := false }) }) ∧
  (∀ (s : State) (h : HalfId) (u : Fin 16),
     s.blk.on h F.PWM_CTRL_UPD u = true →
     s.blk.powered .PWM_LOAD h = true →
     exec (.pwmLoad h u) s = .next { s with blk := ({ s.blk with busErr := false }) }) ∧
  (∀ (s : State) (h : HalfId) (u : Fin 16) (i : Fin 7) (v : Word) (new : Word) (b : Block),
     new = wd (v.toNat &&& (pwmReg i).info.rw) →
     b = s.blk.setW h (pwmReg i) new u →
     (s.blk.on h F.PWM_CTRL_UPD u = false ∨ (s.blk.pwm h u).run = none) →
     s.blk.powered .PWM_PER h = true →
     exec (.pwmUpdateWrite h u i v) s = .next { s with blk := ({ b with busErr := false }) }) ∧
  (∀ (s : State) (h : HalfId) (u : Fin 16) (i : Fin 7) (v : Word) (new : Word) (b : Block) (run : Nat),
     new = wd (v.toNat &&& (pwmReg i).info.rw) →
     b = s.blk.setW h (pwmReg i) new u →
     s.blk.on h F.PWM_CTRL_UPD u = true →
     (s.blk.pwm h u).run = some run →
     (1 ≤ i.val ∧ i.val ≤ 4) →
     s.blk.powered .PWM_PER h = true →
     exec (.pwmUpdateWrite h u i v) s = .next { s with blk := ({ b.modPwm h u (fun x => { x with pipe := x.pipe ++ [⟨run + 2, i - 1, new.toNat, new.toNat == (x.count + 1) % x.act.per⟩] }) with busErr := false }) }) ∧
  (∀ (s : State) (h : HalfId) (u : Fin 16) (i : Fin 7) (v : Word) (new : Word) (b : Block) (run : Nat),
     new = wd (v.toNat &&& (pwmReg i).info.rw) →
     b = s.blk.setW h (pwmReg i) new u →
     s.blk.on h F.PWM_CTRL_UPD u = true →
     (s.blk.pwm h u).run = some run →
     i.val = 0 →
     s.blk.powered .PWM_PER h = true →
     exec (.pwmUpdateWrite h u i v) s = .next { s with blk := ({ b.modPwm h u (fun x => { x with pipe := x.pipe ++ [⟨run + 2, 4, new.toNat, decide (new.toNat < x.count + 3)⟩] }) with busErr := false }) }) ∧
  (∀ (s : State) (h : HalfId) (u : Fin 16) (i : Fin 7) (v : Word) (new : Word) (b : Block) (run : Nat),
     new = wd (v.toNat &&& (pwmReg i).info.rw) →
     b = s.blk.setW h (pwmReg i) new u →
     s.blk.on h F.PWM_CTRL_UPD u = true →
     (s.blk.pwm h u).run = some run →
     i.val = 5 →
     s.blk.powered .PWM_PER h = true →
     exec (.pwmUpdateWrite h u i v) s = .next { s with blk := ({ b.modPwm h u (fun x => { x with act := { x.act with tap := new.toNat } }) with busErr := false }) }) ∧
  (∀ (s : State) (h : HalfId) (u : Fin 16) (i : Fin 7) (v : Word) (new : Word) (b : Block) (run : Nat),
     new = wd (v.toNat &&& (pwmReg i).info.rw) →
     b = s.blk.setW h (pwmReg i) new u →
     s.blk.on h F.PWM_CTRL_UPD u = true →
     (s.blk.pwm h u).run = some run →
     i.val = 6 →
     s.blk.powered .PWM_PER h = true →
     exec (.pwmUpdateWrite h u i v) s = .next { s with blk := ({ b.modPwm h u (fun x => { x with ovr := some new.toNat }) with busErr := false }) }) ∧
  (∀ (s : State) (h : HalfId) (u : Fin 16) (run : Nat) (set : PwmSet) (b : Block) (c : Block),
     (s.blk.pwm h u).wrap = some run →
     set = (s.blk.pwm h u).ovl.foldl (fun x o => x.overlay o.1 o.2)
        ((s.blk.pwm h u).pend.getD { (s.blk.pwm h u).act with ovr := (s.blk.pwm h u).ovr.getD (s.blk.pwm h u).act.ovr }) →
     b = (s.blk.pwmOverlay h u).modPwm h u (fun x => { x with
          act := set, pend := x.pend2, pend2 := none, ovr := none, wrap := none, ovl := [],
          hits := hitOrder ((s.blk.pwm h u).hits ++ set.hitsAt run 0) }) →
     (c = (if (s.blk.pwm h u).clear ∧ s.blk.on h F.PWM_TRIP_LATCH u = false then b.pwmStages h u (64 * run)
        else if b.on h F.PWM_CTRL_CMPL u ≠ s.blk.on h F.PWM_CTRL_CMPL u then (b.pwmRemode h u (64 * run)).pwmRequest h u (64 * run)
        else b.pwmRequest h u (64 * run))) →
     exec (.pwmWrap h u) s = .next { s with blk := (if c.on h F.PWM_CTRL_EN u then c.pwmShow h u else c.pwmStop h u) }) ∧
  (∀ (s : State) (h : HalfId) (u : Fin 16),
     (s.blk.pwm h u).wrap = none →
     exec (.pwmWrap h u) s = .next s) ∧
  (∀ (s : State) (h : HalfId) (u : Fin 16),
     (s.blk.pwm h u).hits = [] →
     exec (.pwmCompareMatch h u) s = .next s) ∧
  (∀ (s : State) (h : HalfId) (u : Fin 16) (k : PwmHit) (rest : List PwmHit),
     (s.blk.pwm h u).hits = k :: rest →
     exec (.pwmCompareMatch h u) s = .next { s with blk := (((s.blk.modPwm h u fun x => { x with hits := rest, reqA := if k.cmp = 0 then true else if k.cmp = 1 then false else x.reqA, reqB := if k.cmp = 2 then true else if k.cmp = 3 then false else x.reqB }).pwmRequest h u k.t).pwmShow h u) }) ∧
  (∀ (s : State) (h : HalfId) (u : Fin 16) (now : Nat) (e : PwmEdge) (rest : List PwmEdge),
     (s.blk.pwm h u).now = some now →
     leaving (s.blk.pwm h u).chA.edges = e :: rest →
     e.leave ≤ now →
     s.blk.pwmFrozen h = false →
     s.blk.on h F.PWM_CTRL_CMPL u = false →
     exec (.pwmFilterEdgeOut h u false) s = .next { s with blk := (((s.blk.modPwm h u fun x => { x with chA := { (s.blk.pwm h u).chA with edges := rest, out := some e.level } }).modPwm h u fun x =>
        { x with lvlA := e.level }).pwmShow h u) }) ∧
  (∀ (s : State) (h : HalfId) (u : Fin 16) (now : Nat) (e : PwmEdge) (rest : List PwmEdge),
     (s.blk.pwm h u).now = some now →
     leaving (s.blk.pwm h u).chA.edges = e :: rest →
     (now < e.leave ∨ s.blk.pwmFrozen h = true) →
     exec (.pwmFilterEdgeOut h u false) s = .next s) ∧
  (∀ (s : State) (h : HalfId) (u : Fin 16),
     ((s.blk.pwm h u).now = none ∨ leaving (s.blk.pwm h u).chA.edges = []) →
     exec (.pwmFilterEdgeOut h u false) s = .next s) ∧
  (∀ (s : State) (h : HalfId) (u : Fin 16) (now : Nat) (e : PwmEdge) (rest : List PwmEdge),
     (s.blk.pwm h u).now = some now →
     leaving (s.blk.pwm h u).chB.edges = e :: rest →
     e.leave ≤ now →
     s.blk.pwmFrozen h = false →
     s.blk.on h F.PWM_CTRL_CMPL u = false →
     exec (.pwmFilterEdgeOut h u true) s = .next { s with blk := (((s.blk.modPwm h u fun x => { x with chB := { (s.blk.pwm h u).chB with edges := rest, out := some e.level } }).modPwm h u fun x =>
        { x with lvlB := e.level }).pwmShow h u) }) ∧
  (∀ (s : State) (h : HalfId) (u : Fin 16) (now : Nat) (e : PwmEdge) (rest : List PwmEdge),
     (s.blk.pwm h u).now = some now →
     leaving (s.blk.pwm h u).chB.edges = e :: rest →
     (now < e.leave ∨ s.blk.pwmFrozen h = true) →
     exec (.pwmFilterEdgeOut h u true) s = .next s) ∧
  (∀ (s : State) (h : HalfId) (u : Fin 16),
     ((s.blk.pwm h u).now = none ∨ leaving (s.blk.pwm h u).chB.edges = []) →
     exec (.pwmFilterEdgeOut h u true) s = .next s) ∧
  (∀ (s : State) (h : HalfId) (u : Fin 16),
     s.blk.on h F.PWM_CTRL_CMPL u = true →
     exec (.pwmFilterEdgeOut h u true) s = .next s) ∧
  (∀ (s : State) (h : HalfId) (u : Fin 16) (now : Nat) (e : PwmEdge) (rest : List PwmEdge) (b : Block),
     (s.blk.pwm h u).now = some now →
     leaving (s.blk.pwm h u).chA.edges = e :: rest →
     e.leave ≤ now →
     s.blk.pwmFrozen h = false →
     s.blk.on h F.PWM_CTRL_CMPL u = true →
     b = s.blk.modPwm h u (fun x => { x with chA := { (s.blk.pwm h u).chA with edges := rest, out := some e.level } }) →
     (s.blk.pwm h u).chA.out ≠ some e.level →
     (s.blk.pwm h u).refAt = none →
     exec (.pwmFilterEdgeOut h u false) s = .next { s with blk := ((b.pwmS h u e.leave e.level).pwmShow h u) }) ∧
  (∀ (s : State) (h : HalfId) (u : Fin 16) (now : Nat) (e : PwmEdge) (rest : List PwmEdge) (b : Block) (t : Nat),
     (s.blk.pwm h u).now = some now →
     leaving (s.blk.pwm h u).chA.edges = e :: rest →
     e.leave ≤ now →
     s.blk.pwmFrozen h = false →
     s.blk.on h F.PWM_CTRL_CMPL u = true →
     b = s.blk.modPwm h u (fun x => { x with chA := { (s.blk.pwm h u).chA with edges := rest, out := some e.level } }) →
     (s.blk.pwm h u).chA.out ≠ some e.level →
     (s.blk.pwm h u).refAt = some t →
     exec (.pwmFilterEdgeOut h u false) s = .next { s with blk := ((if e.level then b else b.modPwm h u fun x => { x with refAt := none, riseAt := none }).pwmShow h u) }) ∧
  (∀ (s : State) (h : HalfId) (u : Fin 16) (now : Nat) (e : PwmEdge) (rest : List PwmEdge) (b : Block),
     (s.blk.pwm h u).now = some now →
     leaving (s.blk.pwm h u).chA.edges = e :: rest →
     e.leave ≤ now →
     s.blk.pwmFrozen h = false →
     s.blk.on h F.PWM_CTRL_CMPL u = true →
     b = s.blk.modPwm h u (fun x => { x with chA := { (s.blk.pwm h u).chA with edges := rest, out := some e.level } }) →
     (s.blk.pwm h u).chA.out = some e.level →
     exec (.pwmFilterEdgeOut h u false) s = .next { s with blk := (b.pwmShow h u) }) ∧
  (∀ (s : State) (h : HalfId) (u : Fin 16) (now : Nat) (t : Nat),
     (s.blk.pwm h u).now = some now →
     (s.blk.pwm h u).dtA = some t →
     t ≤ now →
     s.blk.pwmFrozen h = false →
     exec (.pwmDeadTimeEnd h u false) s = .next { s with blk := ((s.blk.modPwm h u fun x => { x with lvlA := true, dtA := none }).pwmShow h u) }) ∧
  (∀ (s : State) (h : HalfId) (u : Fin 16) (now : Nat) (t : Nat),
     (s.blk.pwm h u).now = some now →
     (s.blk.pwm h u).dtA = some t →
     (now < t ∨ s.blk.pwmFrozen h = true) →
     exec (.pwmDeadTimeEnd h u false) s = .next s) ∧
  (∀ (s : State) (h : HalfId) (u : Fin 16),
     ((s.blk.pwm h u).now = none ∨ (s.blk.pwm h u).dtA = none) →
     exec (.pwmDeadTimeEnd h u false) s = .next s) ∧
  (∀ (s : State) (h : HalfId) (u : Fin 16) (now : Nat) (t : Nat),
     (s.blk.pwm h u).now = some now →
     (s.blk.pwm h u).dtB = some t →
     t ≤ now →
     s.blk.pwmFrozen h = false →
     exec (.pwmDeadTimeEnd h u true) s = .next { s with blk := ((s.blk.modPwm h u fun x => { x with lvlB := true, dtB := none }).pwmShow h u) }) ∧
  (∀ (s : State) (h : HalfId) (u : Fin 16) (now : Nat) (t : Nat),
     (s.blk.pwm h u).now = some now →
     (s.blk.pwm h u).dtB = some t →
     (now < t ∨ s.blk.pwmFrozen h = true) →
     exec (.pwmDeadTimeEnd h u true) s = .next s) ∧
  (∀ (s : State) (h : HalfId) (u : Fin 16),
     ((s.blk.pwm h u).now = none ∨ (s.blk.pwm h u).dtB = none) →
     exec (.pwmDeadTimeEnd h u true) s = .next s) ∧
  (∀ (s : State) (h : HalfId) (u : Fin 16) (run : Nat) (t : Nat),
     (s.blk.pwm h u).run = some run →
     (s.blk.pwm h u).riseAt = some t →
     (s.blk.pwm h u).refAt = none →
     s.blk.on h F.PWM_BS_EN u = true →
     s.blk.on h F.PWM_CTRL_CMPL u = true →
     s.blk.pwmFrozen h = false →
     100 * t + 99 * (s.blk.f h F.PWM_BS_BSMAX u * 12800) ≤ 100 * (64 * run) →
     exec (.pwmRefreshStart h u) s = .next { s with blk := ((((s.blk.modPwm h u fun x => { x with refAt := some run }).pwmS h u (64 * run) false).pwmErr h u 2).pwmShow h u) }) ∧
  (∀ (s : State) (h : HalfId) (u : Fin 16),
     ((s.blk.pwm h u).run = none ∨ (s.blk.pwm h u).riseAt = none ∨ (s.blk.pwm h u).refAt ≠ none ∨ s.blk.on h F.PWM_BS_EN u = false ∨ s.blk.on h F.PWM_CTRL_CMPL u = false ∨
        s.blk.pwmFrozen h = true) →
     exec (.pwmRefreshStart h u) s = .next s) ∧
  (∀ (s : State) (h : HalfId) (u : Fin 16) (run : Nat) (t : Nat),
     (s.blk.pwm h u).run = some run →
     (s.blk.pwm h u).refAt = some t →
     t + s.blk.f h F.PWM_BS_BSW u ≤ run →
     s.blk.pwmFrozen h = false →
     exec (.pwmRefreshEnd h u) s = .next { s with blk := (((s.blk.modPwm h u fun x => { x with refAt := none }).pwmS h u (64 * (t + s.blk.f h F.PWM_BS_BSW u)) true).pwmShow h u) }) ∧
  (∀ (s : State) (h : HalfId) (u : Fin 16),
     ((s.blk.pwm h u).run = none ∨ (s.blk.pwm h u).refAt = none ∨ s.blk.pwmFrozen h = true) →
     exec (.pwmRefreshEnd h u) s = .next s) ∧
  (∀ (s : State) (h : HalfId) (u : Fin 16),
     (s.blk.pwmLines h u = 0 ∨ s.blk.on h F.PWM_TRIP_LATCH u = true) →
     exec (.pwmTripSet h u) s = .next s) ∧
  (∀ (s : State) (h : HalfId) (u : Fin 16),
     s.blk.pwmLines h u ≠ 0 →
     s.blk.on h F.PWM_TRIP_LATCH u = false →
     exec (.pwmTripSet h u) s = .next { s with blk := (s.blk.pwmTrip h u false) }) ∧
  (∀ (s : State) (h : HalfId) (u : Fin 16),
     s.blk.on h F.PWM_TRIP_LATCH u = true →
     s.blk.powered .PWM_TRIP h = true →
     exec (.pwmTripSwset h u) s = .next { s with blk := ({ ((s.blk.setF h F.PWM_TRIP_LATCH 1 u).setF h F.PWM_TRIP_SW 1 u).pwmShow h u with busErr := false }) }) ∧
  (∀ (s : State) (h : HalfId) (u : Fin 16) (b : Block),
     s.blk.on h F.PWM_TRIP_LATCH u = false →
     b = ((s.blk.setF h F.PWM_TRIP_LATCH 1 u).setF h F.PWM_TRIP_LINES (s.blk.pwmLines h u) u).setF h F.PWM_TRIP_SW 1 u →
     s.blk.powered .PWM_TRIP h = true →
     exec (.pwmTripSwset h u) s = .next { s with blk := ({ (b.pwmShow h u).report h cTRIP 2 8 u (b.w h .PWM_ERR u).toNat with busErr := false }) }) ∧
  (∀ (s : State) (h : HalfId) (u : Fin 16),
     s.blk.on h F.PWM_TRIP_LATCH u = true →
     s.blk.pwmLines h u = 0 →
     s.blk.powered .PWM_TRIP h = true →
     exec (.pwmTripClear h u) s = .next { s with blk := ({ ((s.blk.setF h F.PWM_TRIP_LATCH 0 u).modPwm h u fun x => { x with clear := true }).pwmShow h u with busErr := false }) }) ∧
  (∀ (s : State) (h : HalfId) (u : Fin 16),
     s.blk.on h F.PWM_TRIP_LATCH u = true →
     s.blk.pwmLines h u ≠ 0 →
     s.blk.powered .PWM_TRIP h = true →
     exec (.pwmTripClear h u) s = .next { s with blk := ({ (s.blk.setF h F.PWM_TRIP_CLRREF 1 u).report h cOK 0 8 u (s.blk.w h .PWM_ERR u).toNat with busErr := false }) }) ∧
  (∀ (s : State) (h : HalfId) (u : Fin 16),
     s.blk.on h F.PWM_TRIP_LATCH u = false →
     s.blk.powered .PWM_TRIP h = true →
     exec (.pwmTripClear h u) s = .next { s with blk := ({ s.blk with busErr := false }) }) ∧
  (∀ (s : State) (h : HalfId),
     exec (.pwmFreeze h) s = .next { s with blk := ((List.range 16).foldl (fun t u => t.setF h F.PWM_STAT_FROZEN 1 u) ((s.blk.modHalf h fun x => { x with halted := true }).setF h F.PWM_GFRZ_FRZ 1)) }) ∧
  (∀ (s : State) (h : HalfId) (v : Nat),
     v = bitOf (decide (2 ≤ s.blk.rung h)) →
     exec (.pwmUnfreeze h) s = .next { s with blk := ((List.range 16).foldl (fun t u => t.setF h F.PWM_STAT_FROZEN v u) ((s.blk.modHalf h fun x => { x with halted := false }).setF h F.PWM_GFRZ_FRZ v)) })

/-- Timers: match, overflow, link actions, control, compare writes, capture and ownership. A pending match sets MATCH,
ends a one-shot run and sends its link action; an overflow sets OVF; the control bits start, stop, reset and arm the
owner's timer, an ARM after the match of a one-shot run that it finds pending, do nothing on the high timer of a pair,
and are a bus error for any other half; a compare write enters its pipeline; an offered edge is captured with the
count less 2; ownership is the helm half's to write. What a row judges itself and what its operands carry is the
model's form; the model's choices in these rows are log entries 1, 11, 51, 52. (Rules R294, R295, R296, R297, R298,
R299, R300, R302, R304.) -/
def Obligations.TimerRowsComplete : Prop :=
  (∀ (s : State) (k : Fin 16) (b : Block) (c : Block) (d : Block),
     (s.blk.tmr1 k).hit = true →
     s.blk.tmrHigh k = false →
     (b = (s.blk.modTmr k fun y => { y with hit := false }).setF .a F.TMR_EVT_MATCH 1 k) →
     (c = (if s.blk.on .a F.TMR_CFG_ONESHOT k then ((b.setF .a F.TMR_STAT_RUN 0 k).setF .a F.TMR_STAT_DONE 1 k).modTmr k fun y => { y with stopped := true }
        else b)) →
     d = (if s.blk.f .a F.TMR_CFG_OUTM k = 2 then c.setF .a F.TMR_STAT_OUT (bitOf !(s.blk.on .a F.TMR_STAT_OUT k)) k else c.tmrOut k).tmrLink k
        (s.blk.f .a F.TMR_CFG_MLNK k) →
     exec (.timerMatch k) s = .next { s with blk := (if s.blk.on .a F.TMR_CFG_WAKEEN k then d.tmrWake k else d) }) ∧
  (∀ (s : State) (k : Fin 16),
     ((s.blk.tmr1 k).hit = false ∨ s.blk.tmrHigh k = true) →
     exec (.timerMatch k) s = .next s) ∧
  (∀ (s : State) (k : Fin 16),
     (s.blk.tmr1 k).ovf = true →
     s.blk.tmrHigh k = false →
     exec (.timerOverflow k) s = .next { s with blk := (((s.blk.modTmr k fun y => { y with ovf := false }).setF .a F.TMR_EVT_OVF 1 k).tmrLink k (s.blk.f .a F.TMR_CFG_OLNK k)) }) ∧
  (∀ (s : State) (k : Fin 16),
     ((s.blk.tmr1 k).ovf = false ∨ s.blk.tmrHigh k = true) →
     exec (.timerOverflow k) s = .next s) ∧
  (∀ (s : State) (k : Fin 16),
     (s.blk.tmr1 k).acts.1 = 0 →
     exec (.timerLinkAction k) s = .next s) ∧
  (∀ (s : State) (k : Fin 16) (act : Nat) (b : Block),
     (s.blk.tmr1 k).acts.1 = act →
     act ≠ 0 →
     b = s.blk.modTmr k (fun y => { y with acts := (0, y.acts.2) }) →
     s.blk.tmrHigh k = true →
     exec (.timerLinkAction k) s = .next { s with blk := (b) }) ∧
  (∀ (s : State) (k : Fin 16) (act : Nat) (b : Block),
     (s.blk.tmr1 k).acts.1 = act →
     act ≠ 0 →
     b = s.blk.modTmr k (fun y => { y with acts := (0, y.acts.2) }) →
     s.blk.tmrHigh k = false →
     s.blk.tmrEnded k = true →
     exec (.timerLinkAction k) s = .next { s with blk := (if act % 2 = 1 then b.setF .a F.TMR_EVT_NOSTART 1 k else b) }) ∧
  (∀ (s : State) (k : Fin 16) (act : Nat) (b : Block) (c : Block),
     (s.blk.tmr1 k).acts.1 = act →
     act ≠ 0 →
     b = s.blk.modTmr k (fun y => { y with acts := (0, y.acts.2) }) →
     s.blk.tmrHigh k = false →
     s.blk.tmrEnded k = false →
     c = (if 2 ≤ act then b.setTmrCount k 0 else b) →
     exec (.timerLinkAction k) s = .next { s with blk := (if act % 2 = 1 then c.tmrGo k else c) }) ∧
  (∀ (s : State) (h : HalfId) (k : Fin 16),
     s.blk.ownsTmr h k = true →
     s.blk.tmrHigh k = false →
     exec (.timerStart h k) s = .next { s with blk := ({ (s.blk.tmrGo k : Block) with busErr := false }) }) ∧
  (∀ (s : State) (h : HalfId) (k : Fin 16),
     s.blk.ownsTmr h k = true →
     s.blk.tmrHigh k = false →
     exec (.timerStop h k) s = .next { s with blk := ({ (((s.blk.setF .a F.TMR_STAT_RUN 0 k).tmrOut k).modTmr k fun y => { y with stopped := true } : Block) with busErr := false }) }) ∧
  (∀ (s : State) (h : HalfId) (k : Fin 16),
     s.blk.ownsTmr h k = true →
     s.blk.tmrHigh k = false →
     exec (.timerReset h k) s = .next { s with blk := ({ (s.blk.setTmrCount k 0 : Block) with busErr := false }) }) ∧
  (∀ (s : State) (h : HalfId) (k : Fin 16),
     s.blk.ownsTmr h k = true →
     s.blk.tmrHigh k = false →
     ((s.blk.tmr1 k).hit = false ∨ s.blk.on .a F.TMR_CFG_ONESHOT k = false) →
     exec (.timerArm h k) s = .next { s with blk := ({ ((s.blk.setF .a F.TMR_STAT_DONE 0 k).setTmrCount k 0 : Block) with busErr := false }) }) ∧
  (∀ (s : State) (h : HalfId) (k : Fin 16) (b : Block),
     s.blk.ownsTmr h k = true →
     s.blk.tmrHigh k = false →
     (s.blk.tmr1 k).hit = true →
     s.blk.on .a F.TMR_CFG_ONESHOT k = true →
     b = timerMatch k s.blk →
     exec (.timerArm h k) s = .next { s with blk := ({ ((b.setF .a F.TMR_STAT_DONE 0 k).setTmrCount k 0 : Block) with busErr := false }) }) ∧
  (∀ (s : State) (h : HalfId) (k : Fin 16),
     s.blk.ownsTmr h k = true →
     s.blk.tmrHigh k = true →
     exec (.timerStart h k) s = .next { s with blk := ({ s.blk with busErr := false }) }) ∧
  (∀ (s : State) (h : HalfId) (k : Fin 16),
     s.blk.ownsTmr h k = true →
     s.blk.tmrHigh k = true →
     exec (.timerStop h k) s = .next { s with blk := ({ s.blk with busErr := false }) }) ∧
  (∀ (s : State) (h : HalfId) (k : Fin 16),
     s.blk.ownsTmr h k = true →
     s.blk.tmrHigh k = true →
     exec (.timerReset h k) s = .next { s with blk := ({ s.blk with busErr := false }) }) ∧
  (∀ (s : State) (h : HalfId) (k : Fin 16),
     s.blk.ownsTmr h k = true →
     s.blk.tmrHigh k = true →
     exec (.timerArm h k) s = .next { s with blk := ({ s.blk with busErr := false }) }) ∧
  (∀ (s : State) (h : HalfId) (k : Fin 16),
     s.blk.ownsTmr h k = false →
     exec (.timerStart h k) s = .next { s with blk := ({ s.blk with busErr := true }) } ∧ exec (.timerStop h k) s = .next { s with blk := ({ s.blk with busErr := true }) } ∧
        exec (.timerReset h k) s = .next { s with blk := ({ s.blk with busErr := true }) } ∧ exec (.timerArm h k) s = .next { s with blk := ({ s.blk with busErr := true }) }) ∧
  (∀ (s : State) (h : HalfId) (k : Fin 16) (v : Word) (n : Nat),
     s.blk.ownsTmr h k = true →
     s.blk.tmrHigh k = false →
     n = (if s.blk.tmrPair k then v.toNat + (s.blk.w .a .TMR_CMP (k + 1)).toNat * 2 ^ 24 else v.toNat) →
     exec (.timerCompareWrite h k v) s = .next { s with blk := ({ (s.blk.setW .a .TMR_CMP v k).modTmr k (fun y => { y with
        pipe := y.pipe ++ [⟨n, 2, !s.blk.on .a F.TMR_STAT_RUN k, false⟩] }) with busErr := false }) }) ∧
  (∀ (s : State) (h : HalfId) (k : Fin 16) (v : Word),
     s.blk.ownsTmr h k = true →
     s.blk.tmrHigh k = true →
     exec (.timerCompareWrite h k v) s = .next { s with blk := ({ s.blk.setW .a .TMR_CMP v k with busErr := false }) }) ∧
  (∀ (s : State) (h : HalfId) (k : Fin 16) (v : Word),
     s.blk.ownsTmr h k = false →
     exec (.timerCompareWrite h k v) s = .next { s with blk := ({ s.blk with busErr := true }) }) ∧
  (∀ (s : State) (k : Fin 16) (n : Nat) (b : Block),
     (s.blk.tmr1 k).cap = true →
     s.blk.on .a F.TMR_CFG_CAPEN k = true →
     s.blk.tmrHigh k = false →
     n = (s.blk.w .a .TMR_CNT k).toNat →
     b = s.blk.setW .a .TMR_CAP (wd (if s.blk.on .a F.TMR_STAT_RUN k then n + 2 ^ 24 - 2 else n)) k →
     exec (.timerCapture k) s = .next { s with blk := ((if (s.blk.tmr1 k).unread then b.setF .a F.TMR_EVT_CAPOVF 1 k else b).modTmr k fun y => { y with cap := false, unread := true }) }) ∧
  (∀ (s : State) (k : Fin 16),
     ((s.blk.tmr1 k).cap = false ∨ s.blk.on .a F.TMR_CFG_CAPEN k = false ∨ s.blk.tmrHigh k = true) →
     exec (.timerCapture k) s = .next s) ∧
  (∀ (s : State) (k : Fin 16),
     s.blk.tmrPair k = true →
     exec (.tmrCntRead k) s = .next { s with blk := ({ s.blk.setW .a .TMR_HOLD (s.blk.w .a .TMR_CNT (k + 1)) (k + 1) with busErr := false, busData := s.blk.w .a .TMR_CNT k }) }) ∧
  (∀ (s : State) (k : Fin 16),
     s.blk.tmrPair k = false →
     exec (.tmrCntRead k) s = .next { s with blk := ({ s.blk with busErr := false, busData := s.blk.w .a .TMR_CNT k }) }) ∧
  (∀ (s : State) (h : HalfId) (high : Bool) (v : Word) (r : Reg) (b : Block),
     s.blk.holdsHelm h = true →
     r = (if high then Reg.TMR_OWNH else Reg.TMR_OWNL) →
     b = s.blk.setW .a r (wd (v.toNat &&& r.info.rw)) →
     (∀ k : Fin 16, s.blk.tmrRuns k = true → b.tmrOwner k = s.blk.tmrOwner k) →
     exec (.timerOwnershipWrite h high v) s = .next { s with blk := ({ b with busErr := false }) }) ∧
  (∀ (s : State) (h : HalfId) (high : Bool) (v : Word) (r : Reg) (b : Block) (k : Fin 16),
     r = (if high then Reg.TMR_OWNH else Reg.TMR_OWNL) →
     b = s.blk.setW .a r (wd (v.toNat &&& r.info.rw)) →
     (s.blk.holdsHelm h = false ∨ s.blk.tmrRuns k = true ∧ b.tmrOwner k ≠ s.blk.tmrOwner k) →
     exec (.timerOwnershipWrite h high v) s = .next { s with blk := ({ s.blk with busErr := true }) })

/-- Every instruction of a pin engine. An active engine whose word is a valid instruction of the opcode executes it as
rule R317 says: the register or flag it names takes its value, a wait or a queue whose condition does not hold stalls
with its kind, and otherwise the pin actions are applied and the engine goes on at the next address, or at the branch
address; an engine that is not at such an instruction is left as it was but for the pin levels that the row brings,
which a stalled engine takes with its completion only; a stalled instruction completes where its condition holds, and
a waiting TWAIT not before its time. What a row judges itself and what its operands carry is the model's form; the
model's choices in these rows are log entries 1, 11, 53, 83, 90, 115. (Rules R316, R317, R318, R319, R320, R321, R322,
R323.) -/
def Obligations.EngineInstructionsComplete : Prop :=
  (∀ (s : State) (h : HalfId) (e : Fin 8) (w : Nat),
     s.blk.peReady h e 0 = true →
     w = s.blk.peWord h e →
     exec (.peIdle h e) s = .next { s with blk := (s.blk.peDone h e w none) }) ∧
  (∀ (s : State) (h : HalfId) (e : Fin 8) (w : Nat) (pins : BitVec 4),
     s.blk.peReady h e 1 = true →
     w = s.blk.peWord h e →
     exec (.peBr h e pins) s = .next { s with blk := ((s.blk.pinsIn h e pins).peDone h e w (if (s.blk.pinsIn h e pins).peCond h e (bits w 11 0) then some (bits w 5 0) else none)) }) ∧
  (∀ (s : State) (h : HalfId) (e : Fin 8) (w : Nat),
     s.blk.peReady h e 2 = true →
     w = s.blk.peWord h e →
     exec (.peLoop h e) s = .next { s with blk := ((s.blk.setPeReg h e (bits w 11 11 == 1) ((s.blk.peReg h e (bits w 11 11 == 1) + 2 ^ 24 - 1) % 2 ^ 24)).peDone h e w
        (if (s.blk.peReg h e (bits w 11 11 == 1) + 2 ^ 24 - 1) % 2 ^ 24 = 0 then none else some (bits w 5 0))) }) ∧
  (∀ (s : State) (h : HalfId) (e : Fin 8) (w : Nat),
     s.blk.peReady h e 3 = true →
     w = s.blk.peWord h e →
     exec (.peLdi h e) s = .next { s with blk := ((s.blk.setPeReg h e (bits w 11 11 == 1) (bits w 10 0)).peDone h e w none) }) ∧
  (∀ (s : State) (h : HalfId) (e : Fin 8) (w : Nat),
     s.blk.peReady h e 4 = true →
     w = s.blk.peWord h e →
     exec (.peLdx h e) s = .next { s with blk := ((s.blk.setPeReg h e (bits w 11 11 == 1) ((s.blk.peReg h e (bits w 11 11 == 1) * 2048 + bits w 10 0) % 2 ^ 24)).peDone h e w none) }) ∧
  (∀ (s : State) (h : HalfId) (e : Fin 8) (w : Nat) (pins : BitVec 4),
     s.blk.peReady h e 5 = true →
     w = s.blk.peWord h e →
     exec (.peMovr h e pins) s = .next { s with blk := ((if bits w 11 8 = 0 then (s.blk.pinsIn h e pins).setPeReg h e false ((s.blk.pinsIn h e pins).movrSrc h e (bits w 7 4))
        else if bits w 11 8 = 1 then (s.blk.pinsIn h e pins).setPeReg h e true ((s.blk.pinsIn h e pins).movrSrc h e (bits w 7 4))
        else (s.blk.pinsIn h e pins).setSr h e ((s.blk.pinsIn h e pins).movrSrc h e (bits w 7 4)) 24).peDone h e w none) }) ∧
  (∀ (s : State) (h : HalfId) (e : Fin 8) (w : Nat),
     s.blk.peReady h e 6 = true →
     w = s.blk.peWord h e →
     bits w 11 10 = 0 →
     exec (.peTime h e) s = .next { s with blk := ((s.blk.modPe h e fun x => { x with t := (s.blk.half h).tsc % 2 ^ 48 }).peDone h e w none) }) ∧
  (∀ (s : State) (h : HalfId) (e : Fin 8) (w : Nat),
     s.blk.peReady h e 6 = true →
     w = s.blk.peWord h e →
     bits w 11 10 = 1 →
     exec (.peTime h e) s = .next { s with blk := ((s.blk.modPe h e fun x => { x with t := (x.t + s.blk.peReg h e false) % 2 ^ 48 }).peDone h e w none) }) ∧
  (∀ (s : State) (h : HalfId) (e : Fin 8) (w : Nat),
     s.blk.peReady h e 6 = true →
     w = s.blk.peWord h e →
     bits w 11 10 = 2 →
     exec (.peTime h e) s = .next { s with blk := ((s.blk.modPe h e fun x => { x with t := (x.t + s.blk.peReg h e true) % 2 ^ 48 }).peDone h e w none) }) ∧
  (∀ (s : State) (h : HalfId) (e : Fin 8) (w : Nat),
     s.blk.peReady h e 6 = true →
     w = s.blk.peWord h e →
     bits w 11 10 = 3 →
     exec (.peTime h e) s = .next { s with blk := ((s.blk.modPe h e fun x => { x with t := (x.t + bits w 9 0) % 2 ^ 48 }).peDone h e w none) }) ∧
  (∀ (s : State) (h : HalfId) (e : Fin 8) (w : Nat) (d : Nat) (late : Bool),
     s.blk.peReady h e 7 = true →
     w = s.blk.peWord h e →
     d = fwd (2 ^ 48) (s.blk.half h).tsc (s.blk.pe h e).t →
     (late = decide (d < 2 ∨ 2 ^ 48 - 2 ^ 46 < d)) →
     exec (.peTwait h e) s = .next { s with blk := ((s.blk.modPe h e fun x => { x with
        begun := (s.blk.half h).tsc, wake := ((s.blk.half h).tsc + if late then 1 else d) % 2 ^ 48, lateEnd := late }).peStalls h e 3) }) ∧
  (∀ (s : State) (h : HalfId) (e : Fin 8) (w : Nat) (pins : BitVec 4),
     s.blk.peReady h e 8 = true →
     w = s.blk.peWord h e →
     bits pins.toNat (bits w 1 0) (bits w 1 0) = bits w 2 2 →
     bits w 3 3 = 0 →
     exec (.pePwait h e pins) s = .next { s with blk := ((s.blk.pinsIn h e pins).pwaitDone h e w (s.blk.half h).tsc) }) ∧
  (∀ (s : State) (h : HalfId) (e : Fin 8) (w : Nat) (pins : BitVec 4),
     s.blk.peReady h e 8 = true →
     w = s.blk.peWord h e →
     (bits pins.toNat (bits w 1 0) (bits w 1 0) ≠ bits w 2 2 ∨ bits w 3 3 = 1) →
     exec (.pePwait h e pins) s = .next { s with blk := ((s.blk.pinsIn h e pins).peStalls h e 4) }) ∧
  (∀ (s : State) (h : HalfId) (e : Fin 8) (w : Nat),
     s.blk.peReady h e 9 = true →
     w = s.blk.peWord h e →
     s.blk.flagAtStart h (bits w 3 0) = (bits w 4 4 == 1) →
     (bits w 5 5 = 0 ∨ bits w 4 4 = 0) →
     exec (.peFwait h e) s = .next { s with blk := (s.blk.peDone h e w none) }) ∧
  (∀ (s : State) (h : HalfId) (e : Fin 8) (w : Nat) (b : Block),
     s.blk.peReady h e 9 = true →
     w = s.blk.peWord h e →
     s.blk.flagAtStart h (bits w 3 0) = (bits w 4 4 == 1) →
     bits w 4 4 = 1 →
     bits w 5 5 = 1 →
     (s.blk.flagClk h).consumed.contains (bits w 3 0) = false →
     s.blk.lowerConsumes h e (bits w 3 0) = false →
     b = s.blk.writeFlag h e (bits w 3 0) false →
     exec (.peFwait h e) s = .next { s with blk := ((b.modHalf h fun x => { x with flags := { x.flags with consumed := bits w 3 0 :: x.flags.consumed } }).peDone h e w none) }) ∧
  (∀ (s : State) (h : HalfId) (e : Fin 8) (w : Nat),
     s.blk.peReady h e 9 = true →
     w = s.blk.peWord h e →
     s.blk.flagAtStart h (bits w 3 0) = (bits w 4 4 == 1) →
     bits w 4 4 = 1 →
     bits w 5 5 = 1 →
     ((s.blk.flagClk h).consumed.contains (bits w 3 0) = true ∨ s.blk.lowerConsumes h e (bits w 3 0) = true) →
     exec (.peFwait h e) s = .next { s with blk := (s.blk.peStalls h e 5) }) ∧
  (∀ (s : State) (h : HalfId) (e : Fin 8) (w : Nat),
     s.blk.peReady h e 9 = true →
     w = s.blk.peWord h e →
     s.blk.flagAtStart h (bits w 3 0) ≠ (bits w 4 4 == 1) →
     exec (.peFwait h e) s = .next { s with blk := (s.blk.peStalls h e 5) }) ∧
  (∀ (s : State) (h : HalfId) (e : Fin 8) (w : Nat),
     s.blk.peReady h e 10 = true →
     w = s.blk.peWord h e →
     bits w 11 10 = 0 →
     exec (.peFlag h e) s = .next { s with blk := ((s.blk.writeFlag h e (bits w 3 0) false).peDone h e w none) }) ∧
  (∀ (s : State) (h : HalfId) (e : Fin 8) (w : Nat),
     s.blk.peReady h e 10 = true →
     w = s.blk.peWord h e →
     bits w 11 10 = 1 →
     exec (.peFlag h e) s = .next { s with blk := ((s.blk.writeFlag h e (bits w 3 0) true).peDone h e w none) }) ∧
  (∀ (s : State) (h : HalfId) (e : Fin 8) (w : Nat),
     s.blk.peReady h e 10 = true →
     w = s.blk.peWord h e →
     bits w 11 10 = 2 →
     exec (.peFlag h e) s = .next { s with blk := ((s.blk.writeFlag h e (bits w 3 0) (!s.blk.flagAtStart h (bits w 3 0))).peDone h e w none) }) ∧
  (∀ (s : State) (h : HalfId) (e : Fin 8) (w : Nat),
     s.blk.peReady h e 11 = true →
     w = s.blk.peWord h e →
     s.blk.on h F.PE_STAT_TRGPEND e = true →
     exec (.peTrgw h e) s = .next { s with blk := ((((s.blk.setPeReg h e false (s.blk.w h .PE_TRG e).toNat).modPe h e fun x => { x with t := x.trgAt }).setF h
        F.PE_STAT_TRGPEND 0 e).peDone h e w none) }) ∧
  (∀ (s : State) (h : HalfId) (e : Fin 8) (w : Nat),
     s.blk.peReady h e 11 = true →
     w = s.blk.peWord h e →
     s.blk.on h F.PE_STAT_TRGPEND e = false →
     exec (.peTrgw h e) s = .next { s with blk := (s.blk.peStalls h e 6) }) ∧
  (∀ (s : State) (h : HalfId) (e : Fin 8) (w : Nat) (r : Nat × Nat) (n : Nat) (sc : Nat),
     s.blk.peReady h e 12 = true →
     w = s.blk.peWord h e →
     n = bits w 4 0 →
     sc = s.blk.f h F.PE_STAT_SC e →
     n ≤ sc →
     r = shiftOut (s.blk.on h F.PE_CFG_SHDIR e) ((s.blk.w h .PE_SR e).toNat % 2 ^ sc) sc n →
     exec (.peSout h e) s = .next { s with blk := (((s.blk.setSr h e r.2 (sc - n)).soutTo h e (bits w 11 10) n r.1 (s.blk.on h F.PE_CFG_SHDIR e)).peDone h e w none) }) ∧
  (∀ (s : State) (h : HalfId) (e : Fin 8) (w : Nat) (n : Nat) (sc : Nat),
     s.blk.peReady h e 12 = true →
     w = s.blk.peWord h e →
     n = bits w 4 0 →
     sc = s.blk.f h F.PE_STAT_SC e →
     sc < n →
     s.blk.on h F.PE_CFG_CHAIN e = false →
     exec (.peSout h e) s = .next { s with blk := (((s.blk.setSr h e 0 0).soutTo h e (bits w 11 10) n (joinBits (s.blk.on h F.PE_CFG_SHDIR e) ((s.blk.w h .PE_SR e).toNat % 2 ^ sc) sc 0 (n - sc)) (s.blk.on h F.PE_CFG_SHDIR e)).peDone h e w none) }) ∧
  (∀ (s : State) (h : HalfId) (e : Fin 8) (w : Nat) (n : Nat) (sc : Nat) (q : Word) (r : Nat × Nat),
     s.blk.peReady h e 12 = true →
     w = s.blk.peWord h e →
     n = bits w 4 0 →
     sc = s.blk.f h F.PE_STAT_SC e →
     sc < n →
     s.blk.on h F.PE_CFG_CHAIN e = true →
     s.blk.sqHead h e = some q →
     r = shiftOut (s.blk.on h F.PE_CFG_SHDIR e) q.toNat 24 (n - sc) →
     exec (.peSout h e) s = .next { s with blk := ((((s.blk.modPe h e fun x => { x with sq := x.sq.drop 1 }).setSr h e r.2 (24 - (n - sc))).soutTo h e (bits w 11 10) n
        (joinBits (s.blk.on h F.PE_CFG_SHDIR e) ((s.blk.w h .PE_SR e).toNat % 2 ^ sc) sc r.1 (n - sc)) (s.blk.on h F.PE_CFG_SHDIR e)).peDone h e w none) }) ∧
  (∀ (s : State) (h : HalfId) (e : Fin 8) (w : Nat) (n : Nat) (sc : Nat),
     s.blk.peReady h e 12 = true →
     w = s.blk.peWord h e →
     n = bits w 4 0 →
     sc = s.blk.f h F.PE_STAT_SC e →
     sc < n →
     s.blk.on h F.PE_CFG_CHAIN e = true →
     s.blk.sqHead h e = none →
     exec (.peSout h e) s = .next { s with blk := (s.blk.peStalls h e 1) }) ∧
  (∀ (s : State) (h : HalfId) (e : Fin 8) (w : Nat) (pins : BitVec 4) (n : Nat) (sc : Nat) (b : Block) (v : Nat),
     s.blk.peReady h e 13 = true →
     w = s.blk.peWord h e →
     n = bits w 4 0 →
     sc = s.blk.f h F.PE_STAT_SC e →
     b = s.blk.pinsIn h e pins →
     v = (match bits w 11 10 with | 0 => pins.toNat | 1 => s.blk.peReg h e false | 2 => s.blk.peReg h e true | _ => 0) % 2 ^ n →
     sc + n ≤ 24 →
     exec (.peSin h e pins) s = .next { s with blk := ((b.setSr h e (joinBits (s.blk.on h F.PE_CFG_SHDIR e) ((s.blk.w h .PE_SR e).toNat % 2 ^ sc) sc v n) (sc + n)).peDone h e w none) }) ∧
  (∀ (s : State) (h : HalfId) (e : Fin 8) (w : Nat) (pins : BitVec 4) (n : Nat) (sc : Nat) (b : Block) (v : Nat),
     s.blk.peReady h e 13 = true →
     w = s.blk.peWord h e →
     n = bits w 4 0 →
     sc = s.blk.f h F.PE_STAT_SC e →
     b = s.blk.pinsIn h e pins →
     v = (match bits w 11 10 with | 0 => pins.toNat | 1 => s.blk.peReg h e false | 2 => s.blk.peReg h e true | _ => 0) % 2 ^ n →
     24 < sc + n →
     s.blk.on h F.PE_CFG_CHAIN e = false →
     exec (.peSin h e pins) s = .next { s with blk := ((b.setSr h e (if s.blk.on h F.PE_CFG_SHDIR e then joinBits true ((s.blk.w h .PE_SR e).toNat % 2 ^ sc) sc v n / 2 ^ (sc + n - 24) else joinBits false ((s.blk.w h .PE_SR e).toNat % 2 ^ sc) sc v n % 2 ^ 24) 24).peDone h e w none) }) ∧
  (∀ (s : State) (h : HalfId) (e : Fin 8) (w : Nat) (pins : BitVec 4) (n : Nat) (sc : Nat) (b : Block) (v : Nat) (m : Nat) (first : Nat) (other : Nat),
     s.blk.peReady h e 13 = true →
     w = s.blk.peWord h e →
     n = bits w 4 0 →
     sc = s.blk.f h F.PE_STAT_SC e →
     b = s.blk.pinsIn h e pins →
     v = (match bits w 11 10 with | 0 => pins.toNat | 1 => s.blk.peReg h e false | 2 => s.blk.peReg h e true | _ => 0) % 2 ^ n →
     24 < sc + n →
     s.blk.on h F.PE_CFG_CHAIN e = true →
     (s.blk.pe h e).rq.length < 12 →
     m = 24 - sc →
     first = (if s.blk.on h F.PE_CFG_SHDIR e then v % 2 ^ m else v / 2 ^ (n - m)) →
     other = (if s.blk.on h F.PE_CFG_SHDIR e then v / 2 ^ m else v % 2 ^ (n - m)) →
     exec (.peSin h e pins) s = .next { s with blk := (((b.modPe h e fun x => { x with rq := x.rq ++ [wd (joinBits (s.blk.on h F.PE_CFG_SHDIR e) ((s.blk.w h .PE_SR e).toNat % 2 ^ sc) sc first m)] }).setSr h e other (n - m)).peDone h e w none) }) ∧
  (∀ (s : State) (h : HalfId) (e : Fin 8) (w : Nat) (pins : BitVec 4) (n : Nat) (sc : Nat) (b : Block) (v : Nat),
     s.blk.peReady h e 13 = true →
     w = s.blk.peWord h e →
     n = bits w 4 0 →
     sc = s.blk.f h F.PE_STAT_SC e →
     b = s.blk.pinsIn h e pins →
     v = (match bits w 11 10 with | 0 => pins.toNat | 1 => s.blk.peReg h e false | 2 => s.blk.peReg h e true | _ => 0) % 2 ^ n →
     24 < sc + n →
     s.blk.on h F.PE_CFG_CHAIN e = true →
     12 ≤ (s.blk.pe h e).rq.length →
     exec (.peSin h e pins) s = .next { s with blk := (b.peStalls h e 2) }) ∧
  (∀ (s : State) (h : HalfId) (e : Fin 8) (w : Nat) (q : Word),
     s.blk.peReady h e 14 = true →
     w = s.blk.peWord h e →
     s.blk.sqHead h e = some q →
     exec (.peQget h e) s = .next { s with blk := (((s.blk.modPe h e fun x => { x with sq := x.sq.drop 1 }).setSr h e q.toNat 24).peDone h e w none) }) ∧
  (∀ (s : State) (h : HalfId) (e : Fin 8) (w : Nat),
     s.blk.peReady h e 14 = true →
     w = s.blk.peWord h e →
     s.blk.sqHead h e = none →
     exec (.peQget h e) s = .next { s with blk := (s.blk.peStalls h e 1) }) ∧
  (∀ (s : State) (h : HalfId) (e : Fin 8) (w : Nat),
     s.blk.peReady h e 15 = true →
     w = s.blk.peWord h e →
     (s.blk.pe h e).rq.length < 12 →
     exec (.peQput h e) s = .next { s with blk := (((s.blk.modPe h e fun x => { x with rq := x.rq ++ [wd ((s.blk.w h .PE_SR e).toNat % 2 ^ s.blk.f h F.PE_STAT_SC e)] }).setSr h e 0 0).peDone h e w none) }) ∧
  (∀ (s : State) (h : HalfId) (e : Fin 8) (w : Nat),
     s.blk.peReady h e 15 = true →
     w = s.blk.peWord h e →
     12 ≤ (s.blk.pe h e).rq.length →
     exec (.peQput h e) s = .next { s with blk := (s.blk.peStalls h e 2) }) ∧
  (∀ (s : State) (h : HalfId) (e : Fin 8),
     s.blk.peActive h e = true →
     peReserved (s.blk.peWord h e) = true →
     exec (.peIllegalInstruction h e) s = .next { s with blk := (((s.blk.setF h F.PE_STAT_RUN 0 e).setF h F.PE_CFG_EN 0 e).setF h F.PE_ERR_ILLEGAL 1 e) }) ∧
  (∀ (s : State) (h : HalfId) (e : Fin 8),
     (s.blk.peActive h e = false ∨ peReserved (s.blk.peWord h e) = false) →
     exec (.peIllegalInstruction h e) s = .next s) ∧
  (∀ (s : State) (h : HalfId) (e : Fin 8),
     s.blk.peReady h e 0 = false →
     exec (.peIdle h e) s = .next s) ∧
  (∀ (s : State) (h : HalfId) (e : Fin 8) (pins : BitVec 4),
     s.blk.peReady h e 1 = false →
     exec (.peBr h e pins) s = .next { s with blk := (s.blk.pinsSeen h e pins) }) ∧
  (∀ (s : State) (h : HalfId) (e : Fin 8),
     s.blk.peReady h e 2 = false →
     exec (.peLoop h e) s = .next s) ∧
  (∀ (s : State) (h : HalfId) (e : Fin 8),
     s.blk.peReady h e 3 = false →
     exec (.peLdi h e) s = .next s) ∧
  (∀ (s : State) (h : HalfId) (e : Fin 8),
     s.blk.peReady h e 4 = false →
     exec (.peLdx h e) s = .next s) ∧
  (∀ (s : State) (h : HalfId) (e : Fin 8) (pins : BitVec 4),
     s.blk.peReady h e 5 = false →
     exec (.peMovr h e pins) s = .next { s with blk := (s.blk.pinsSeen h e pins) }) ∧
  (∀ (s : State) (h : HalfId) (e : Fin 8),
     s.blk.peReady h e 6 = false →
     exec (.peTime h e) s = .next s) ∧
  (∀ (s : State) (h : HalfId) (e : Fin 8),
     s.blk.peReady h e 7 = false →
     exec (.peTwait h e) s = .next s) ∧
  (∀ (s : State) (h : HalfId) (e : Fin 8) (pins : BitVec 4),
     s.blk.peReady h e 8 = false →
     exec (.pePwait h e pins) s = .next { s with blk := (s.blk.pinsSeen h e pins) }) ∧
  (∀ (s : State) (h : HalfId) (e : Fin 8),
     s.blk.peReady h e 9 = false →
     exec (.peFwait h e) s = .next s) ∧
  (∀ (s : State) (h : HalfId) (e : Fin 8),
     s.blk.peReady h e 10 = false →
     exec (.peFlag h e) s = .next s) ∧
  (∀ (s : State) (h : HalfId) (e : Fin 8),
     s.blk.peReady h e 11 = false →
     exec (.peTrgw h e) s = .next s) ∧
  (∀ (s : State) (h : HalfId) (e : Fin 8),
     s.blk.peReady h e 12 = false →
     exec (.peSout h e) s = .next s) ∧
  (∀ (s : State) (h : HalfId) (e : Fin 8) (pins : BitVec 4),
     s.blk.peReady h e 13 = false →
     exec (.peSin h e pins) s = .next { s with blk := (s.blk.pinsSeen h e pins) }) ∧
  (∀ (s : State) (h : HalfId) (e : Fin 8),
     s.blk.peReady h e 14 = false →
     exec (.peQget h e) s = .next s) ∧
  (∀ (s : State) (h : HalfId) (e : Fin 8),
     s.blk.peReady h e 15 = false →
     exec (.peQput h e) s = .next s) ∧
  (∀ (s : State) (h : HalfId) (e : Fin 8) (pins : BitVec 4),
     s.blk.on h F.PE_STAT_STALL e = false →
     exec (.peStallComplete h e pins) s = .next { s with blk := (s.blk.pinsIn h e pins) }) ∧
  (∀ (s : State) (h : HalfId) (e : Fin 8) (pins : BitVec 4),
     s.blk.on h F.PE_STAT_STALL e = true →
     s.blk.peProgram h e = false →
     exec (.peStallComplete h e pins) s = .next s) ∧
  (∀ (s : State) (h : HalfId) (e : Fin 8) (w : Nat) (pins : BitVec 4) (b : Block),
     s.blk.peProgram h e = true →
     s.blk.on h F.PE_STAT_STALL e = true →
     w = s.blk.peWord h e →
     b = s.blk.pinsIn h e pins →
     bits w 23 20 = 7 →
     ticksTo (s.blk.pe h e).begun (s.blk.half h).tsc < ticksTo (s.blk.pe h e).begun (s.blk.pe h e).wake →
     exec (.peStallComplete h e pins) s = .next { s with blk := (b) }) ∧
  (∀ (s : State) (h : HalfId) (e : Fin 8) (w : Nat) (pins : BitVec 4) (b : Block),
     s.blk.peProgram h e = true →
     s.blk.on h F.PE_STAT_STALL e = true →
     w = s.blk.peWord h e →
     b = s.blk.pinsIn h e pins →
     bits w 23 20 = 7 →
     ticksTo (s.blk.pe h e).begun (s.blk.pe h e).wake ≤ ticksTo (s.blk.pe h e).begun (s.blk.half h).tsc →
     exec (.peStallComplete h e pins) s = .next { s with blk := ((if (s.blk.pe h e).lateEnd ∨ ticksTo (s.blk.pe h e).begun (s.blk.pe h e).wake < ticksTo (s.blk.pe h e).begun (s.blk.half h).tsc then b.setF h F.PE_ERR_LATE 1 e else b).peDone h e w none) }) ∧
  (∀ (s : State) (h : HalfId) (e : Fin 8) (w : Nat) (pins : BitVec 4) (b : Block),
     s.blk.peProgram h e = true →
     s.blk.on h F.PE_STAT_STALL e = true →
     w = s.blk.peWord h e →
     b = s.blk.pinsIn h e pins →
     bits w 23 20 = 8 →
     bits pins.toNat (bits w 1 0) (bits w 1 0) = bits w 2 2 →
     bits (s.blk.f h F.PE_PINS_IN e) (bits w 1 0) (bits w 1 0) ≠ bits w 2 2 →
     exec (.peStallComplete h e pins) s = .next { s with blk := (b.pwaitDone h e w (((s.blk.half h).tsc + 2 ^ 48 - 2) % 2 ^ 48)) }) ∧
  (∀ (s : State) (h : HalfId) (e : Fin 8) (w : Nat) (pins : BitVec 4) (b : Block),
     s.blk.peProgram h e = true →
     s.blk.on h F.PE_STAT_STALL e = true →
     w = s.blk.peWord h e →
     b = s.blk.pinsIn h e pins →
     bits w 23 20 = 8 →
     bits pins.toNat (bits w 1 0) (bits w 1 0) = bits w 2 2 →
     bits (s.blk.f h F.PE_PINS_IN e) (bits w 1 0) (bits w 1 0) = bits w 2 2 →
     bits w 3 3 = 0 →
     exec (.peStallComplete h e pins) s = .next { s with blk := (b.pwaitDone h e w (s.blk.half h).tsc) }) ∧
  (∀ (s : State) (h : HalfId) (e : Fin 8) (w : Nat) (pins : BitVec 4) (b : Block),
     s.blk.peProgram h e = true →
     s.blk.on h F.PE_STAT_STALL e = true →
     w = s.blk.peWord h e →
     b = s.blk.pinsIn h e pins →
     bits w 23 20 = 8 →
     (bits pins.toNat (bits w 1 0) (bits w 1 0) ≠ bits w 2 2 ∨ bits (s.blk.f h F.PE_PINS_IN e) (bits w 1 0) (bits w 1 0) = bits w 2 2 ∧ bits w 3 3 = 1) →
     exec (.peStallComplete h e pins) s = .next { s with blk := (b) }) ∧
  (∀ (s : State) (h : HalfId) (e : Fin 8) (w : Nat) (pins : BitVec 4) (b : Block),
     s.blk.peProgram h e = true →
     s.blk.on h F.PE_STAT_STALL e = true →
     w = s.blk.peWord h e →
     b = s.blk.pinsIn h e pins →
     bits w 23 20 = 9 →
     exec (.peStallComplete h e pins) s = .next { s with blk := ((b.fwaitTry h e w).getD b) }) ∧
  (∀ (s : State) (h : HalfId) (e : Fin 8) (w : Nat) (pins : BitVec 4) (b : Block),
     s.blk.peProgram h e = true →
     s.blk.on h F.PE_STAT_STALL e = true →
     w = s.blk.peWord h e →
     b = s.blk.pinsIn h e pins →
     bits w 23 20 = 12 →
     exec (.peStallComplete h e pins) s = .next { s with blk := ((b.soutTry h e w).getD b) }) ∧
  (∀ (s : State) (h : HalfId) (e : Fin 8) (w : Nat) (pins : BitVec 4) (b : Block),
     s.blk.peProgram h e = true →
     s.blk.on h F.PE_STAT_STALL e = true →
     w = s.blk.peWord h e →
     b = s.blk.pinsIn h e pins →
     bits w 23 20 = 13 →
     exec (.peStallComplete h e pins) s = .next { s with blk := ((b.sinTry h e w).getD b) }) ∧
  (∀ (s : State) (h : HalfId) (e : Fin 8) (w : Nat) (pins : BitVec 4) (b : Block),
     s.blk.peProgram h e = true →
     s.blk.on h F.PE_STAT_STALL e = true →
     w = s.blk.peWord h e →
     b = s.blk.pinsIn h e pins →
     bits w 23 20 = 14 →
     exec (.peStallComplete h e pins) s = .next { s with blk := ((b.qgetTry h e w).getD b) }) ∧
  (∀ (s : State) (h : HalfId) (e : Fin 8) (w : Nat) (pins : BitVec 4) (b : Block),
     s.blk.peProgram h e = true →
     s.blk.on h F.PE_STAT_STALL e = true →
     w = s.blk.peWord h e →
     b = s.blk.pinsIn h e pins →
     bits w 23 20 = 15 →
     exec (.peStallComplete h e pins) s = .next { s with blk := ((b.qputTry h e w).getD b) }) ∧
  (∀ (s : State) (h : HalfId) (e : Fin 8) (w : Nat) (pins : BitVec 4) (b : Block),
     s.blk.peProgram h e = true →
     s.blk.on h F.PE_STAT_STALL e = true →
     w = s.blk.peWord h e →
     b = s.blk.pinsIn h e pins →
     bits w 23 20 = 11 →
     s.blk.on h F.PE_STAT_TRGPEND e = true →
     (s.blk.pe h e).trgAt ≠ (s.blk.half h).tsc →
     exec (.peStallComplete h e pins) s = .next { s with blk := (b.trgwDone h e w) }) ∧
  (∀ (s : State) (h : HalfId) (e : Fin 8) (w : Nat) (pins : BitVec 4) (b : Block),
     s.blk.peProgram h e = true →
     s.blk.on h F.PE_STAT_STALL e = true →
     w = s.blk.peWord h e →
     b = s.blk.pinsIn h e pins →
     bits w 23 20 = 11 →
     (s.blk.on h F.PE_STAT_TRGPEND e = false ∨ (s.blk.pe h e).trgAt = (s.blk.half h).tsc) →
     exec (.peStallComplete h e pins) s = .next { s with blk := (b) })

/-- Pin engines: start, stop, program change, queues, flags and the receivers. EN and PE_GSTART start an engine at START,
EN 0 stops it, a program change is accepted only with EN 0 and clears the engine; a full send queue refuses a word;
PE_FSET and PE_FCLR write the named flags; a read of PE_TLO latches PE_THI; a SENT or PSI5 frame that passes its
checks is counted and recorded, with the serial message that its status bits complete, one that fails is rejected and
counted, a calibration pulse out of limits opens no frame, and a sync pulse drives SYNCPIN when it is due. What a row
judges itself and what its operands carry is the model's form; the model's choices in these rows are log entries 1,
11, 7, 87, 8, 53, 58, 79, 88, 90. (Rules R312, R313, R314, R319, R323, R325, R326, R327, R328.) -/
def Obligations.EngineRowsComplete : Prop :=
  (∀ (s : State) (h : HalfId) (e : Fin 8),
     s.blk.peRuns h e = false →
     s.blk.powered .PE_CFG h = true →
     exec (.peEnable h e) s = .next { s with blk := ({ (((((s.blk.modPe h e fun x => { x with busy := false }).setF h F.PE_CFG_EN 1 e).setF h F.PE_STAT_RUN 1 e).setF h F.PE_STAT_PC
        (s.blk.f h F.PE_CFG_START e) e).setF h F.PE_STAT_STALL 0 e).setF h F.PE_STAT_SKIND 0 e with busErr := false }) }) ∧
  (∀ (s : State) (h : HalfId) (e : Fin 8),
     s.blk.peRuns h e = true →
     s.blk.powered .PE_CFG h = true →
     exec (.peEnable h e) s = .next { s with blk := ({ s.blk with busErr := false }) }) ∧
  (∀ (s : State) (h : HalfId) (e : Fin 8) (b : Block),
     s.blk.peRuns h e = true →
     b = (if s.blk.on h F.PE_STAT_STALL e then (s.blk.setF h F.PE_CFG_EN 0 e).setF h F.PE_ERR_ABANDON 1 e else s.blk.setF h F.PE_CFG_EN 0 e) →
     s.blk.powered .PE_CFG h = true →
     exec (.peDisable h e) s = .next { s with blk := ({ ((b.setF h F.PE_STAT_RUN 0 e).setF h F.PE_STAT_STALL 0 e).setF h F.PE_STAT_SKIND 0 e with busErr := false }) }) ∧
  (∀ (s : State) (h : HalfId) (e : Fin 8),
     s.blk.peRuns h e = false →
     s.blk.powered .PE_CFG h = true →
     exec (.peDisable h e) s = .next { s with blk := ({ s.blk.setF h F.PE_CFG_EN 0 e with busErr := false }) }) ∧
  (∀ (s : State) (h : HalfId) (mask : BitVec 8),
     s.blk.powered .PE_GSTART h = true →
     exec (.peGstart h mask) s = .next { s with blk := ({ (List.range 8).foldl (fun t e => if bits mask.toNat e e == 1 then t.peStart h e else t) s.blk with busErr := false }) }) ∧
  (∀ (s : State) (h : HalfId) (e : Fin 8) (off : BitVec 7) (v : Word),
     off.toNat < 0x40 →
     s.blk.on h F.PE_CFG_EN e = false →
     s.blk.powered .PE_PROG h = true →
     exec (.peProgramChange h e off v) s = .next { s with blk := ({ (s.blk.setW h .PE_PROG (wd (v.toNat &&& Reg.PE_PROG.info.rw)) e off.toNat).peChanged h e with busErr := false }) }) ∧
  (∀ (s : State) (h : HalfId) (e : Fin 8) (off : BitVec 7) (v : Word),
     off.toNat < 0x40 →
     s.blk.on h F.PE_CFG_EN e = true →
     s.blk.powered .PE_PROG h = true →
     exec (.peProgramChange h e off v) s = .next { s with blk := ({ s.blk with busErr := true }) }) ∧
  (∀ (s : State) (h : HalfId) (e : Fin 8) (off : BitVec 7) (v : Word),
     progReg off.toNat = none →
     s.blk.powered .PE_PROG h = true →
     exec (.peProgramChange h e off v) s = .next { s with blk := ({ s.blk with busErr := true }) }) ∧
  (∀ (s : State) (h : HalfId) (e : Fin 8) (off : BitVec 7) (v : Word) (r : Reg) (j : Nat) (new : Word),
     progReg off.toNat = some (r, j) →
     new = wd (v.toNat &&& r.info.rw) →
     s.blk.on h F.PE_CFG_EN e = true →
     off.toNat ≠ 0x40 →
     s.blk.powered .PE_PROG h = true →
     exec (.peProgramChange h e off v) s = .next { s with blk := ({ s.blk with busErr := true }) }) ∧
  (∀ (s : State) (h : HalfId) (e : Fin 8) (off : BitVec 7) (v : Word) (r : Reg) (j : Nat) (new : Word),
     progReg off.toNat = some (r, j) →
     new = wd (v.toNat &&& r.info.rw) →
     s.blk.on h F.PE_CFG_EN e = false →
     0x44 ≤ off.toNat →
     s.blk.powered .PE_PROG h = true →
     exec (.peProgramChange h e off v) s = .next { s with blk := ({ (s.blk.setW h r new e j).peChanged h e with busErr := false }) }) ∧
  (∀ (s : State) (h : HalfId) (e : Fin 8) (off : BitVec 7) (v : Word) (r : Reg) (j : Nat) (new : Word),
     progReg off.toNat = some (r, j) →
     new = wd (v.toNat &&& r.info.rw) →
     s.blk.on h F.PE_CFG_EN e = false →
     (off.toNat = 0x42 ∨ off.toNat = 0x43) →
     s.blk.powered .PE_PROG h = true →
     exec (.peProgramChange h e off v) s = .next { s with blk := ({ ((s.blk.setW h r new e j).protoTrim h e).peChanged h e with busErr := false }) }) ∧
  (∀ (s : State) (h : HalfId) (e : Fin 8) (v : Word) (new : Word) (b : Block),
     new = wd (v.toNat &&& Reg.PE_CFG.info.rw) →
     bits new.toNat 22 0 = bits (s.blk.w h .PE_CFG e).toNat 22 0 →
     b = (if bits new.toNat 23 23 = 1 then s.blk.peStart h e else s.blk.peStop h e) →
     s.blk.powered .PE_PROG h = true →
     exec (.peProgramChange h e 0x40 v) s = .next { s with blk := ({ b with busErr := false }) }) ∧
  (∀ (s : State) (h : HalfId) (e : Fin 8) (v : Word) (new : Word) (b : Block),
     new = wd (v.toNat &&& Reg.PE_CFG.info.rw) →
     bits new.toNat 22 0 ≠ bits (s.blk.w h .PE_CFG e).toNat 22 0 →
     s.blk.on h F.PE_CFG_EN e = false →
     b = ((s.blk.setW h .PE_CFG (wd (bits new.toNat 22 0)) e).protoTrim h e).peChanged h e →
     s.blk.powered .PE_PROG h = true →
     exec (.peProgramChange h e 0x40 v) s = .next { s with blk := ({ if bits new.toNat 23 23 = 1 then b.peStart h e else b with busErr := false }) }) ∧
  (∀ (s : State) (h : HalfId) (e : Fin 8) (v : Word) (new : Word),
     new = wd (v.toNat &&& Reg.PE_CFG.info.rw) →
     bits new.toNat 22 0 ≠ bits (s.blk.w h .PE_CFG e).toNat 22 0 →
     s.blk.on h F.PE_CFG_EN e = true →
     s.blk.powered .PE_PROG h = true →
     exec (.peProgramChange h e 0x40 v) s = .next { s with blk := ({ s.blk with busErr := true }) }) ∧
  (∀ (s : State) (h : HalfId) (e : Fin 8) (v : Word),
     (s.blk.pe h e).sq.length < 6 →
     s.blk.powered .PE_SQ h = true →
     exec (.peSendQueueWrite h e v) s = .next { s with blk := ({ s.blk.modPe h e (fun x => { x with sq := x.sq ++ [(((s.blk.half h).tsc + 2) % 2 ^ 48, v)] }) with busErr := false }) }) ∧
  (∀ (s : State) (h : HalfId) (e : Fin 8) (v : Word),
     6 ≤ (s.blk.pe h e).sq.length →
     s.blk.powered .PE_SQ h = true →
     exec (.peSendQueueWrite h e v) s = .next { s with blk := ({ s.blk with busErr := true }) }) ∧
  (∀ (s : State) (h : HalfId) (e : Fin 8),
     s.blk.powered .PE_RQPOP h = true →
     exec (.peReceiveQueuePop h e) s = .next { s with blk := ({ (s.blk.modPe h e (fun x => { x with rq := x.rq.drop 1 })) with busErr := false }) }) ∧
  (∀ (s : State) (h : HalfId) (mask : BitVec 16),
     s.blk.powered .PE_FSET h = true →
     exec (.peFlagSet h mask) s = .next { s with blk := ({ (List.range 16).foldl (fun t i => if bits mask.toNat i i == 1 then t.writeFlag h 8 i true else t) s.blk with busErr := false }) }) ∧
  (∀ (s : State) (h : HalfId) (mask : BitVec 16),
     s.blk.powered .PE_FCLR h = true →
     exec (.peFlagClear h mask) s = .next { s with blk := ({ (List.range 16).foldl (fun t i => if bits mask.toNat i i == 1 then t.writeFlag h 9 i false else t) s.blk with busErr := false }) }) ∧
  (∀ (s : State) (h : HalfId) (e : Fin 8),
     s.blk.powered .PE_TLO h = true →
     exec (.peTloRead h e) s = .next { s with blk := ({ s.blk.setW h .PE_THI (wd ((s.blk.pe h e).t / 2 ^ 24)) e with busErr := false, busData := wd (s.blk.pe h e).t }) }) ∧
  (∀ (s : State) (h : HalfId) (e : Fin 8) (opens : Word) (cal : Word) (periods : List Word),
     (s.blk.peRuns h e = false ∨ s.blk.angRuns h = false ∨ s.blk.f h F.PE_CFG_PROTO e ≠ 1) →
     exec (.sentFrameReceive h e opens cal periods) s = .next s) ∧
  (∀ (s : State) (h : HalfId) (e : Fin 8) (opens : Word) (cal : Word) (periods : List Word),
     calOk (s.blk.f h F.PE_PROTO0_TICK e * 20) (s.blk.pe h e).prevCal cal.toNat = false →
     exec (.sentFrameReceive h e opens cal periods) s = .next s) ∧
  (∀ (s : State) (h : HalfId) (e : Fin 8) (opens : Word) (cal : Word) (periods : List Word) (ns : List Nat),
     s.blk.peRuns h e = true →
     s.blk.angRuns h = true →
     s.blk.f h F.PE_CFG_PROTO e = 1 →
     calOk (s.blk.f h F.PE_PROTO0_TICK e * 20) (s.blk.pe h e).prevCal cal.toNat = true →
     ns = ((periods.map BitVec.toNat).take (s.blk.f h F.PE_PROTO0_NIB e + 2)).filterMap (nibbleOf cal.toNat) →
     (periods.length ≠ s.blk.sentPeriods h e ∨ ns.length ≠ s.blk.f h F.PE_PROTO0_NIB e + 2 ∨
        nth 0 ns (s.blk.f h F.PE_PROTO0_NIB e + 1) ≠ sentCrc (s.blk.on h F.PE_PROTO0_CRCV e) ((ns.drop 1).take (s.blk.f h F.PE_PROTO0_NIB e))) →
     exec (.sentFrameReceive h e opens cal periods) s = .next { s with blk := ((((s.blk.setF h F.PE_ERR_FRMERR 1 e).count h F.PE_CNT_REJECTS e).modPe h e fun x => { x with serial := [] }).modPe h e fun x => { x with prevCal := cal.toNat }) }) ∧
  (∀ (s : State) (h : HalfId) (e : Fin 8) (opens : Word) (cal : Word) (periods : List Word) (ns : List Nat),
     s.blk.peRuns h e = true →
     s.blk.angRuns h = true →
     s.blk.f h F.PE_CFG_PROTO e = 1 →
     s.blk.on h F.PE_PROTO0_SERIAL e = false →
     ns = ((periods.map BitVec.toNat).take (s.blk.f h F.PE_PROTO0_NIB e + 2)).filterMap (nibbleOf cal.toNat) →
     ns.length = s.blk.f h F.PE_PROTO0_NIB e + 2 →
     periods.length = s.blk.sentPeriods h e →
     calOk (s.blk.f h F.PE_PROTO0_TICK e * 20) (s.blk.pe h e).prevCal cal.toNat = true →
     nth 0 ns (s.blk.f h F.PE_PROTO0_NIB e + 1) = sentCrc (s.blk.on h F.PE_PROTO0_CRCV e) ((ns.drop 1).take (s.blk.f h F.PE_PROTO0_NIB e)) →
     exec (.sentFrameReceive h e opens cal periods) s = .next { s with blk := (((s.blk.count h F.PE_CNT_FRAMES e).putRecord h e [wd (2 ^ 22 + nth 0 ns 0 * 2 ^ 18 + capNat 511 ((cal.toNat + 1120) / 2240)),
        wd (((((ns.drop 1).take (s.blk.f h F.PE_PROTO0_NIB e)) ++ List.replicate 6 0).take 6).foldl (fun n d => 16 * n + d) 0), opens]).modPe h e fun x =>
        { x with prevCal := cal.toNat, serial := [] }) }) ∧
  (∀ (s : State) (h : HalfId) (e : Fin 8) (opens : Word) (cal : Word) (periods : List Word) (ns : List Nat) (ms : List (Nat × Nat)) (b : Block),
     s.blk.peRuns h e = true →
     s.blk.angRuns h = true →
     s.blk.f h F.PE_CFG_PROTO e = 1 →
     s.blk.on h F.PE_PROTO0_SERIAL e = true →
     ns = ((periods.map BitVec.toNat).take (s.blk.f h F.PE_PROTO0_NIB e + 2)).filterMap (nibbleOf cal.toNat) →
     ns.length = s.blk.f h F.PE_PROTO0_NIB e + 2 →
     periods.length = s.blk.sentPeriods h e →
     calOk (s.blk.f h F.PE_PROTO0_TICK e * 20) (s.blk.pe h e).prevCal cal.toNat = true →
     nth 0 ns (s.blk.f h F.PE_PROTO0_NIB e + 1) = sentCrc (s.blk.on h F.PE_PROTO0_CRCV e) ((ns.drop 1).take (s.blk.f h F.PE_PROTO0_NIB e)) →
     ms = (((s.blk.pe h e).serial ++ [(bits (nth 0 ns 0) 3 3, bits (nth 0 ns 0) 2 2)]).reverse.take 18).reverse →
     b = ((s.blk.count h F.PE_CNT_FRAMES e).putRecord h e [wd (2 ^ 22 + nth 0 ns 0 * 2 ^ 18 + capNat 511 ((cal.toNat + 1120) / 2240)),
        wd (((((ns.drop 1).take (s.blk.f h F.PE_PROTO0_NIB e)) ++ List.replicate 6 0).take 6).foldl (fun n d => 16 * n + d) 0), opens]).modPe h e (fun x => { x with prevCal := cal.toNat, serial := ms }) →
     exec (.sentFrameReceive h e opens cal periods) s = .next { s with blk := (match serialMessage ms with
        | some m => (b.putRecord h e [wd (2 * 2 ^ 22 + m.1 * 2 ^ 17 + m.2.1 * 512), wd m.2.2, opens]).modPe h e fun x => { x with serial := [] }
        | none => b) }) ∧
  (∀ (s : State) (h : HalfId) (e : Fin 8) (opens : Word) (data : List Bool) (chk : BitVec 3) (line : PsiLine),
     (s.blk.peRuns h e = false ∨ s.blk.angRuns h = false ∨ s.blk.f h F.PE_CFG_PROTO e ≠ 2) →
     exec (.psi5FrameReceive h e opens data chk line) s = .next s) ∧
  (∀ (s : State) (h : HalfId) (e : Fin 8) (opens : Word) (data : List Bool) (chk : BitVec 3) (line : PsiLine) (k : Nat) (b : Block),
     s.blk.peRuns h e = true →
     s.blk.angRuns h = true →
     s.blk.f h F.PE_CFG_PROTO e = 2 →
     k = (if s.blk.f h F.PE_PROTO0_MODE e = 1 then (s.blk.pe h e).slot else 0) →
     b = (if s.blk.f h F.PE_PROTO0_MODE e = 1 then s.blk.modPe h e (fun x => { x with slot := (s.blk.pe h e).slot + 1 }) else s.blk) →
     (line.invalid = true ∨ psiBitOk (s.blk.on h F.PE_PROTO0_RATE e) line.bitNs.toNat = false ∨ data.length ≠ s.blk.f h F.PE_PROTO0_DLEN e ∨ (if s.blk.on h F.PE_PROTO0_CHK e then chk.toNat ≠ psiCrc data else (total bitOf data + chk.toNat) % 2 ≠ 0) ∨
        s.blk.f h F.PE_PROTO0_MODE e = 1 ∧ s.blk.f h F.PE_PROTO0_SLOTS e < (s.blk.pe h e).slot) →
     exec (.psi5FrameReceive h e opens data chk line) s = .next { s with blk := (((b.setF h F.PE_ERR_FRMERR 1 e).count h F.PE_CNT_REJECTS e).modPe h e fun x => { x with serial := [] }) }) ∧
  (∀ (s : State) (h : HalfId) (e : Fin 8) (opens : Word) (data : List Bool) (chk : BitVec 3) (line : PsiLine) (k : Nat) (b : Block),
     s.blk.peRuns h e = true →
     s.blk.angRuns h = true →
     s.blk.f h F.PE_CFG_PROTO e = 2 →
     k = (if s.blk.f h F.PE_PROTO0_MODE e = 1 then (s.blk.pe h e).slot else 0) →
     b = (if s.blk.f h F.PE_PROTO0_MODE e = 1 then s.blk.modPe h e (fun x => { x with slot := (s.blk.pe h e).slot + 1 }) else s.blk) →
     line.invalid = false →
     psiBitOk (s.blk.on h F.PE_PROTO0_RATE e) line.bitNs.toNat = true →
     data.length = s.blk.f h F.PE_PROTO0_DLEN e →
     (if s.blk.on h F.PE_PROTO0_CHK e then chk.toNat = psiCrc data else (total bitOf data + chk.toNat) % 2 = 0) →
     (s.blk.f h F.PE_PROTO0_MODE e = 1 → (s.blk.pe h e).slot ≤ s.blk.f h F.PE_PROTO0_SLOTS e) →
     exec (.psi5FrameReceive h e opens data chk line) s = .next { s with blk := ((b.count h F.PE_CNT_FRAMES e).putRecord h e [wd (3 * 2 ^ 22 + k * 2 ^ 20), wd (data.reverse.foldl (fun n b => 2 * n + bitOf b) 0), opens]) }) ∧
  (∀ (s : State) (h : HalfId) (e : Fin 8),
     s.blk.peRuns h e = true →
     s.blk.angRuns h = true →
     s.blk.f h F.PE_CFG_PROTO e = 2 →
     s.blk.f h F.PE_PROTO0_MODE e = 1 →
     s.blk.on h F.PE_PROTO0_SYNCSRC e = false →
     (s.blk.pe h e).syncAt = none →
     exec (.psi5SyncPulse h e true) s = .next { s with blk := ((s.blk.drivePin h e (s.blk.f h F.PE_PROTO0_SYNCPIN e) true).modPe h e fun x => { x with slot := 0, syncAt := some (s.blk.half h).tsc }) }) ∧
  (∀ (s : State) (h : HalfId) (e : Fin 8) (t : Nat),
     s.blk.peRuns h e = true →
     s.blk.angRuns h = true →
     s.blk.f h F.PE_CFG_PROTO e = 2 →
     s.blk.f h F.PE_PROTO0_MODE e = 1 →
     s.blk.on h F.PE_PROTO0_SYNCSRC e = false →
     (s.blk.pe h e).syncAt = some t →
     exec (.psi5SyncPulse h e true) s = .next { s with blk := (if s.blk.f h F.PE_PROTO1_SYNCPER e * 200 ≤ ticksTo t (s.blk.half h).tsc then (s.blk.drivePin h e (s.blk.f h F.PE_PROTO0_SYNCPIN e) true).modPe h e fun x => { x with slot := 0, syncAt := some (s.blk.half h).tsc }
        else s.blk) }) ∧
  (∀ (s : State) (h : HalfId) (e : Fin 8),
     s.blk.peRuns h e = true →
     s.blk.angRuns h = true →
     s.blk.f h F.PE_CFG_PROTO e = 2 →
     s.blk.f h F.PE_PROTO0_MODE e = 1 →
     s.blk.on h F.PE_PROTO0_SYNCSRC e = true →
     exec (.psi5SyncPulse h e true) s = .next { s with blk := (if s.blk.on h F.PE_STAT_TRGPEND e then ((s.blk.setF h F.PE_STAT_TRGPEND 0 e).drivePin h e (s.blk.f h F.PE_PROTO0_SYNCPIN e) true).modPe h e fun x => { x with slot := 0, syncAt := some (s.blk.half h).tsc }
        else s.blk) }) ∧
  (∀ (s : State) (h : HalfId) (e : Fin 8) (t : Nat),
     s.blk.peRuns h e = true →
     s.blk.angRuns h = true →
     s.blk.f h F.PE_CFG_PROTO e = 2 →
     s.blk.f h F.PE_PROTO0_MODE e = 1 →
     (s.blk.pe h e).syncAt = some t →
     exec (.psi5SyncPulse h e false) s = .next { s with blk := (if s.blk.f h F.PE_PROTO1_SYNCW e * 20 ≤ ticksTo t (s.blk.half h).tsc then s.blk.drivePin h e (s.blk.f h F.PE_PROTO0_SYNCPIN e) false
        else s.blk) }) ∧
  (∀ (s : State) (h : HalfId) (e : Fin 8),
     s.blk.peRuns h e = true →
     s.blk.angRuns h = true →
     s.blk.f h F.PE_CFG_PROTO e = 2 →
     s.blk.f h F.PE_PROTO0_MODE e = 1 →
     (s.blk.pe h e).syncAt = none →
     exec (.psi5SyncPulse h e false) s = .next { s with blk := (s.blk.drivePin h e (s.blk.f h F.PE_PROTO0_SYNCPIN e) false) }) ∧
  (∀ (s : State) (h : HalfId) (e : Fin 8) (begins : Bool),
     (s.blk.peRuns h e = false ∨ s.blk.angRuns h = false ∨ s.blk.f h F.PE_CFG_PROTO e ≠ 2 ∨ s.blk.f h F.PE_PROTO0_MODE e ≠ 1) →
     exec (.psi5SyncPulse h e begins) s = .next s)

/-- Mailboxes: post, take and crossing. A post by the sender of an empty mailbox stores the word and sets FULL; into a
full one, or by another master, it ends with a bus error and changes nothing; a take by the receiver of a full mailbox
answers the word, clears FULL and sets EMPTYEV; of an empty one it answers 0 and sets EMPTYRD; a word that HIP takes
from MBX0 or MBX4 joins the command of its pair, which runs once its payload is there; crossed full mailboxes set
CROSSED in both with one class 0 report. What a row judges itself and what its operands carry is the model's form; the
model's choices in these rows are log entries 1, 11, 21, 79, 82, 88, 89, 136. (Rules R336, R337, R340, R361.) -/
def Obligations.MailboxRowsComplete : Prop :=
  (∀ (s : State) (h : HalfId) (m : Fin 16) (who : Master) (v : Word),
     s.blk.roleOf h who = some (mbxTable m).2.1 →
     s.blk.mbxFull h m = false →
     m.val ≠ 15 →
     s.blk.powered .MBX_DATA h = true →
     exec (.mbxPost h m who v) s = .next { s with blk := ({ (s.blk.setW h .MBX_DATA v m).setF h F.MBX_STAT_FULL 1 m with busErr := false }) }) ∧
  (∀ (s : State) (h : HalfId) (m : Fin 16) (who : Master) (v : Word),
     (s.blk.roleOf h who ≠ some (mbxTable m).2.1 ∨ s.blk.mbxFull h m = true) →
     s.blk.powered .MBX_DATA h = true →
     exec (.mbxPost h m who v) s = .next { s with blk := ({ s.blk with busErr := true }) }) ∧
  (∀ (s : State) (h : HalfId) (who : Master) (v : Word),
     s.blk.roleOf h who = some (mbxTable 15).2.1 →
     s.blk.mbxFull h 15 = false →
     s.blk.bridgeUp h = true →
     s.blk.powered .MBX_DATA h = true →
     exec (.mbxPost h 15 who v) s = .next { s with blk := ({ ((s.blk.setW h .MBX_DATA v 15).setF h F.MBX_STAT_FULL 1 15).send h (.mbx v) with busErr := false }) }) ∧
  (∀ (s : State) (h : HalfId) (m : Fin 16) (who : Master) (t : State),
     s.blk.hipTakes h m who = true →
     t = ({ s with blk := s.blk.mbxTake h m who } : State).hipWord h (m.val == 0) (s.blk.w h .MBX_DATA m) →
     s.blk.powered .MBX_DATA h = true →
     exec (.mbxTake h m who) s = .next { t with blk := { t.blk with busErr := false, busData := s.blk.w h .MBX_DATA m } }) ∧
  (∀ (s : State) (h : HalfId) (m : Fin 16) (who : Master),
     s.blk.hipTakes h m who = false →
     m.val ≠ 15 →
     s.blk.roleOf h who = some (mbxTable m).2.2.1 →
     s.blk.mbxFull h m = true →
     s.blk.powered .MBX_DATA h = true →
     exec (.mbxTake h m who) s = .next { s with blk := ({ ((((s.blk.setF h F.MBX_STAT_FULL 0 m).setF h F.MBX_STAT_EMPTYEV 1 m).setF h F.MBX_STAT_ECAUSE 0 m).mbxAfter h m) with
        busErr := false, busData := s.blk.w h .MBX_DATA m }) }) ∧
  (∀ (s : State) (h : HalfId) (m : Fin 16) (who : Master),
     s.blk.hipTakes h m who = false →
     m.val ≠ 15 →
     s.blk.roleOf h who = some (mbxTable m).2.2.1 →
     s.blk.mbxFull h m = false →
     s.blk.powered .MBX_DATA h = true →
     exec (.mbxTake h m who) s = .next { s with blk := ({ s.blk.setF h F.MBX_STAT_EMPTYRD 1 m with busErr := false, busData := 0 }) }) ∧
  (∀ (s : State) (h : HalfId) (m : Fin 16) (p : Nat),
     (mbxTable m).2.2.2 = some p →
     s.blk.mbxFull h m = true →
     s.blk.mbxFull h p = true →
     s.blk.f h F.MBX_XTO_TIMEOUT ≠ 0 →
     exec (.mbxCrossed h m) s = .next { s with blk := (((s.blk.setF h F.MBX_STAT_CROSSED 1 m).setF h F.MBX_STAT_CROSSED 1 p).report h cOK 0 10 (if m.val < p then m.val else p) 0) }) ∧
  (∀ (s : State) (h : HalfId) (who : Master) (v : Word),
     s.blk.roleOf h who = some (mbxTable 15).2.1 →
     s.blk.mbxFull h 15 = false →
     s.blk.bridgeUp h = false →
     s.blk.powered .MBX_DATA h = true →
     exec (.mbxPost h 15 who v) s = .next { s with blk := ({ s.blk with busErr := true }) }) ∧
  (∀ (s : State) (h : HalfId) (m : Fin 16) (who : Master),
     s.blk.hipTakes h m who = false →
     (m.val = 15 ∨ s.blk.roleOf h who ≠ some (mbxTable m).2.2.1) →
     s.blk.powered .MBX_DATA h = true →
     exec (.mbxTake h m who) s = .next { s with blk := ({ s.blk with busErr := true }) }) ∧
  (∀ (s : State) (h : HalfId) (m : Fin 16),
     ((mbxTable m).2.2.2 = none ∨ s.blk.mbxFull h m = false ∨ s.blk.f h F.MBX_XTO_TIMEOUT = 0) →
     exec (.mbxCrossed h m) s = .next s)

/-- Link bring-up, violations, loss and the commands of QHL_CMD. At Run or Rest a host link with its clock locked, or a
port whose lanes hold, in TRAIN counts training sets and enters ALIGN at the 64th in a row; in ALIGN the 16th with
ACK, once it has sent its own 16, brings it UP with INIT sent; a set that is not as its sender sends it ends the run;
in Steep and Couch a set only wakes the half; 1 ms in training sets TRNFAIL of the host link, counts the failure of a
port, and restarts; the fourth violation within 64 symbols, a cause at the far end, LRST and RESET take a link in UP
down; CLRCNT clears the counters. A link that is not UP has nothing to lose. What a row judges itself and what its
operands carry is the model's form; the model's choices in these rows are log entries 1, 11, 21, 58, 79, 88. (Rules
R346, R347, R348, R359, R374.) -/
def Obligations.LinkTrainingRowsComplete : Prop :=
  (∀ (s : State) (l : HalfId) (ts : TrainSet) (sent : Bool),
     s.blk.rung l < 2 →
     s.blk.on l F.CRP_STAT_HLLOCK = true →
     ts.fromHost = true →
     s.blk.f l F.QHL_STAT_STATE = lkTRAIN →
     (s.blk.link l).ts < 63 →
     exec (.linkTrainingSetReceive l none ts sent) s = .next { s with blk := (s.blk.modLink l fun x => { x with ts := x.ts + 1 }) }) ∧
  (∀ (s : State) (l : HalfId) (ts : TrainSet) (sent : Bool),
     s.blk.rung l < 2 →
     s.blk.on l F.CRP_STAT_HLLOCK = true →
     ts.fromHost = true →
     s.blk.f l F.QHL_STAT_STATE = lkTRAIN →
     63 ≤ (s.blk.link l).ts →
     exec (.linkTrainingSetReceive l none ts sent) s = .next { s with blk := ((s.blk.setF l F.QHL_STAT_STATE lkALIGN).modLink l fun x => { x with ts := 0, tsAck := 0 }) }) ∧
  (∀ (s : State) (l : HalfId) (ts : TrainSet) (sent : Bool) (k : Nat),
     s.blk.rung l < 2 →
     s.blk.on l F.CRP_STAT_HLLOCK = true →
     ts.fromHost = true →
     s.blk.f l F.QHL_STAT_STATE = lkALIGN →
     k = (if ts.ack then capNat 16 ((s.blk.link l).tsAck + 1) else 0) →
     (¬(k = 16 ∧ sent = true)) →
     exec (.linkTrainingSetReceive l none ts sent) s = .next { s with blk := (s.blk.modLink l fun x => { x with tsAck := k }) }) ∧
  (∀ (s : State) (l : HalfId) (ts : TrainSet) (k : Nat),
     s.blk.rung l < 2 →
     s.blk.on l F.CRP_STAT_HLLOCK = true →
     ts.fromHost = true →
     s.blk.f l F.QHL_STAT_STATE = lkALIGN →
     k = (if ts.ack then capNat 16 ((s.blk.link l).tsAck + 1) else 0) →
     k = 16 →
     exec (.linkTrainingSetReceive l none ts true) s = .next { s with blk := (s.blk.linkRises l) }) ∧
  (∀ (s : State) (l : HalfId) (ts : TrainSet) (sent : Bool),
     2 ≤ s.blk.rung l →
     ts.fromHost = true →
     exec (.linkTrainingSetReceive l none ts sent) s = .next { s with blk := (if s.blk.on .a F.WAKE_CFG_QHLEN then s.blk.wakeHalf l (10 + l.num) 3 else s.blk) }) ∧
  (∀ (s : State) (l : HalfId) (ts : TrainSet) (sent : Bool),
     s.blk.rung l < 2 →
     ts.fromHost = true →
     (s.blk.on l F.CRP_STAT_HLLOCK = false ∨ s.blk.f l F.QHL_STAT_STATE = lkDOWN ∨ s.blk.f l F.QHL_STAT_STATE = lkUP) →
     exec (.linkTrainingSetReceive l none ts sent) s = .next s) ∧
  (∀ (s : State) (l : HalfId) (ts : TrainSet) (sent : Bool),
     ts.fromHost = false →
     exec (.linkTrainingSetReceive l none ts sent) s = .next { s with blk := (s.blk.modLink l fun x => { x with ts := 0, tsAck := 0 }) }) ∧
  (∀ (s : State) (l : HalfId),
     (s.blk.f l F.QHL_STAT_STATE = lkTRAIN ∨ s.blk.f l F.QHL_STAT_STATE = lkALIGN) →
     s.blk.rung l ≤ 1 →
     exec (.linkTrainTimeout l none) s = .next { s with blk := (((s.blk.setF l F.QHL_ERR_TRNFAIL 1).setF l F.QHL_STAT_STATE lkTRAIN).modLink l fun x => { x with ts := 0, tsAck := 0 }) }) ∧
  (∀ (s : State) (l : HalfId),
     (¬(s.blk.f l F.QHL_STAT_STATE = lkTRAIN ∨ s.blk.f l F.QHL_STAT_STATE = lkALIGN) ∨ 2 ≤ s.blk.rung l) →
     exec (.linkTrainTimeout l none) s = .next s) ∧
  (∀ (s : State) (l : HalfId) (since : BitVec 32) (near : List Nat) (b : Block),
     s.blk.f l F.QHL_STAT_STATE ≠ lkDOWN →
     near = (0 :: (s.blk.link l).viol.map (fun d => d + since.toNat)).filter (fun d => d < 64) →
     b = (s.blk.count l F.QHL_CNT1_CODEERRS).modLink l (fun x => { x with viol := near.take 4, ts := 0, tsAck := 0 }) →
     (near.length < 4 ∨ s.blk.linkUp l = false) →
     exec (.linkCodeViolation l none since) s = .next { s with blk := (b) }) ∧
  (∀ (s : State) (l : HalfId) (since : BitVec 32) (near : List Nat) (b : Block),
     s.blk.linkUp l = true →
     near = (0 :: (s.blk.link l).viol.map (fun d => d + since.toNat)).filter (fun d => d < 64) →
     b = (s.blk.count l F.QHL_CNT1_CODEERRS).modLink l (fun x => { x with viol := near.take 4, ts := 0, tsAck := 0 }) →
     4 ≤ near.length →
     exec (.linkCodeViolation l none since) s = .next { s with blk := ((b.setF l F.QHL_ERR_ALIGN 1).linkFalls l lkTRAIN) }) ∧
  (∀ (s : State) (l : HalfId) (since : BitVec 32),
     s.blk.f l F.QHL_STAT_STATE = lkDOWN →
     exec (.linkCodeViolation l none since) s = .next s) ∧
  (∀ (s : State) (l : HalfId) (p : Fin 2) (ts : TrainSet) (sent : Bool),
     s.blk.rung l < 2 →
     ts.fromUnit = true →
     s.blk.f l F.EUL_PSTAT_STATE p = lkTRAIN →
     s.blk.on l F.EUL_PSTAT_LANEFAIL p = false →
     (s.blk.eport l p).ts < 63 →
     exec (.linkTrainingSetReceive l (some p) ts sent) s = .next { s with blk := (s.blk.modPort l p fun y => { y with ts := y.ts + 1, sendLane := ts.lane }) }) ∧
  (∀ (s : State) (l : HalfId) (p : Fin 2) (ts : TrainSet) (sent : Bool),
     s.blk.rung l < 2 →
     ts.fromUnit = true →
     s.blk.f l F.EUL_PSTAT_STATE p = lkTRAIN →
     s.blk.on l F.EUL_PSTAT_LANEFAIL p = false →
     63 ≤ (s.blk.eport l p).ts →
     exec (.linkTrainingSetReceive l (some p) ts sent) s = .next { s with blk := ((s.blk.setF l F.EUL_PSTAT_STATE lkALIGN p).modPort l p fun y => { y with ts := 0, tsAck := 0, sendLane := ts.lane }) }) ∧
  (∀ (s : State) (l : HalfId) (p : Fin 2) (ts : TrainSet) (sent : Bool) (k : Nat),
     s.blk.rung l < 2 →
     ts.fromUnit = true →
     s.blk.f l F.EUL_PSTAT_STATE p = lkALIGN →
     k = (if ts.ack then capNat 16 ((s.blk.eport l p).tsAck + 1) else 0) →
     (¬(k = 16 ∧ sent = true)) →
     exec (.linkTrainingSetReceive l (some p) ts sent) s = .next { s with blk := (s.blk.modPort l p fun y => { y with tsAck := k, sendLane := ts.lane }) }) ∧
  (∀ (s : State) (l : HalfId) (p : Fin 2) (ts : TrainSet) (k : Nat),
     s.blk.rung l < 2 →
     ts.fromUnit = true →
     s.blk.f l F.EUL_PSTAT_STATE p = lkALIGN →
     k = (if ts.ack then capNat 16 ((s.blk.eport l p).tsAck + 1) else 0) →
     k = 16 →
     exec (.linkTrainingSetReceive l (some p) ts true) s = .next { s with blk := ((s.blk.setF l F.EUL_PSTAT_STATE lkUP p).modPort l p fun y => { y with ts := 0, tsAck := 0, trainF := 0, sendLane := ts.lane }) }) ∧
  (∀ (s : State) (l : HalfId) (p : Fin 2) (ts : TrainSet) (sent : Bool),
     2 ≤ s.blk.rung l →
     exec (.linkTrainingSetReceive l (some p) ts sent) s = .next { s with blk := (s.blk.eulWake l p) }) ∧
  (∀ (s : State) (l : HalfId) (p : Fin 2) (ts : TrainSet) (sent : Bool),
     s.blk.rung l < 2 →
     ts.fromUnit = true →
     ((s.blk.f l F.EUL_PSTAT_STATE p = lkTRAIN ∧ s.blk.on l F.EUL_PSTAT_LANEFAIL p = true) ∨ s.blk.f l F.EUL_PSTAT_STATE p = lkDOWN ∨ s.blk.f l F.EUL_PSTAT_STATE p = lkUP) →
     exec (.linkTrainingSetReceive l (some p) ts sent) s = .next s) ∧
  (∀ (s : State) (l : HalfId) (p : Fin 2) (ts : TrainSet) (sent : Bool),
     s.blk.rung l < 2 →
     ts.fromUnit = false →
     exec (.linkTrainingSetReceive l (some p) ts sent) s = .next { s with blk := (s.blk.modPort l p fun y => { y with ts := 0, tsAck := 0 }) }) ∧
  (∀ (s : State) (l : HalfId) (p : Fin 2),
     (s.blk.f l F.EUL_PSTAT_STATE p = lkTRAIN ∨ s.blk.f l F.EUL_PSTAT_STATE p = lkALIGN) →
     exec (.linkTrainTimeout l (some p)) s = .next { s with blk := ((s.blk.setF l F.EUL_PSTAT_STATE lkTRAIN p).modPort l p fun y =>
        { y with ts := 0, tsAck := 0, trainF := capNat 2 (y.trainF + 1) }) }) ∧
  (∀ (s : State) (l : HalfId) (p : Fin 2),
     (¬(s.blk.f l F.EUL_PSTAT_STATE p = lkTRAIN ∨ s.blk.f l F.EUL_PSTAT_STATE p = lkALIGN)) →
     exec (.linkTrainTimeout l (some p)) s = .next s) ∧
  (∀ (s : State) (l : HalfId) (p : Fin 2) (since : BitVec 32) (ages : List Nat) (b : Block),
     ages = ((0 :: (s.blk.eport l p).viol.map (fun d => d + since.toNat)).filter (fun d => d < 50000000)).take 16 →
     b = (s.blk.count l F.EUL_PCNT0_CODEERRS p).modPort l p (fun x => { x with viol := ages, ts := 0, tsAck := 0 }) →
     (s.blk.portUp (l, p) = false ∨ (ages.filter (fun d => d < 64)).length < 4) →
     exec (.linkCodeViolation l (some p) since) s = .next { s with blk := (b) }) ∧
  (∀ (s : State) (l : HalfId) (p : Fin 2) (since : BitVec 32) (ages : List Nat) (b : Block),
     ages = ((0 :: (s.blk.eport l p).viol.map (fun d => d + since.toNat)).filter (fun d => d < 50000000)).take 16 →
     b = (s.blk.count l F.EUL_PCNT0_CODEERRS p).modPort l p (fun x => { x with viol := ages, ts := 0, tsAck := 0 }) →
     s.blk.portUp (l, p) = true →
     4 ≤ (ages.filter (fun d => d < 64)).length →
     exec (.linkCodeViolation l (some p) since) s = .next { s with blk := (b.eulFalls l p lkTRAIN) }) ∧
  (∀ (s : State) (l : HalfId),
     s.blk.linkUp l = true →
     exec (.linkDown l) s = .next { s with blk := (s.blk.linkFalls l lkTRAIN) }) ∧
  (∀ (s : State) (l : HalfId),
     s.blk.linkUp l = false →
     exec (.linkDown l) s = .next s) ∧
  (∀ (s : State) (l : HalfId),
     s.blk.linkUp l = true →
     exec (.qhlReset l) s = .next { s with blk := (s.blk.linkFalls l lkTRAIN) }) ∧
  (∀ (s : State) (l : HalfId),
     s.blk.linkUp l = false →
     exec (.qhlReset l) s = .next s) ∧
  (∀ (s : State) (l : HalfId) (who : Master),
     s.blk.linkUp l = true →
     s.blk.linkMaster l who = true →
     s.blk.powered .QHL_CMD l = true →
     exec (.linkResetCommand l who) s = .next { s with blk := ({ s.blk.linkFalls l lkTRAIN with busErr := false }) }) ∧
  (∀ (s : State) (l : HalfId) (who : Master),
     s.blk.linkUp l = false →
     s.blk.linkMaster l who = true →
     s.blk.powered .QHL_CMD l = true →
     exec (.linkResetCommand l who) s = .next { s with blk := ({ s.blk with busErr := false }) }) ∧
  (∀ (s : State) (l : HalfId) (who : Master),
     s.blk.linkMaster l who = true →
     s.blk.powered .QHL_CMD l = true →
     exec (.qhlClearCounters l who) s = .next { s with blk := ({ ((s.blk.setW l .QHL_CNT0 0).setW l .QHL_CNT1 0).setW l .QHL_CNT2 0 with busErr := false }) }) ∧
  (∀ (s : State) (l : HalfId) (who : Master),
     s.blk.linkMaster l who = false →
     s.blk.powered .QHL_CMD l = true →
     exec (.linkResetCommand l who) s = .next { s with blk := ({ s.blk with busErr := true }) } ∧ exec (.qhlClearCounters l who) s = .next { s with blk := ({ s.blk with busErr := true }) })

/-- Frames from the host: acceptance, mailboxes, bulk data, registers and control frames. On a link in UP a frame in order
is accepted, a later one is dropped with one NAK and an earlier one acknowledged again, a damaged one counted and
discarded; the head frame's mailbox words wait and are posted, its bulk words enter their stream, its register request
is answered; ACK, NAK, CREDIT, INIT, BIND and REJECT act as rule R353 says. What a row judges itself and what its
operands carry is the model's form; the model's choices in these rows are log entries 1, 11, 57, 58, 89, 137. (Rules
R351, R353, R354, R355, R357, R358.) -/
def Obligations.HostFrameRowsComplete : Prop :=
  (∀ (s : State) (l : HalfId) (e : FrameEnd) (h0 : Word) (pay : List Word) (d : Nat),
     s.blk.linkUp l = true →
     e.good (h0 :: pay) = true →
     bits h0.toNat 7 0 = pay.length →
     bits h0.toNat 23 20 ≠ 0 →
     d = (bits h0.toNat 15 8 + 256 - (s.blk.link l).rxSeq) % 256 →
     d = 0 →
     exec (.qhlFrameReceive l e h0 pay) s = .next { s with blk := (s.blk.acceptFrame l ⟨h0, pay⟩) }) ∧
  (∀ (s : State) (l : HalfId) (e : FrameEnd) (h0 : Word) (pay : List Word) (d : Nat),
     s.blk.linkUp l = true →
     e.good (h0 :: pay) = true →
     bits h0.toNat 7 0 = pay.length →
     bits h0.toNat 23 20 ≠ 0 →
     d = (bits h0.toNat 15 8 + 256 - (s.blk.link l).rxSeq) % 256 →
     0 < d →
     d < 128 →
     exec (.qhlFrameReceive l e h0 pay) s = .next { s with blk := (((s.blk.setF l F.QHL_ERR_SEQ 1).count l F.QHL_CNT2_SEQDROPS).modLink l fun x =>
        { x with nakOk := false, ctl := if x.nakOk then [ctlFrame l 1 x.rxSeq []] else [] }) }) ∧
  (∀ (s : State) (l : HalfId) (e : FrameEnd) (h0 : Word) (pay : List Word) (d : Nat),
     s.blk.linkUp l = true →
     e.good (h0 :: pay) = true →
     bits h0.toNat 7 0 = pay.length →
     bits h0.toNat 23 20 ≠ 0 →
     d = (bits h0.toNat 15 8 + 256 - (s.blk.link l).rxSeq) % 256 →
     128 ≤ d →
     exec (.qhlFrameReceive l e h0 pay) s = .next { s with blk := (s.blk.modLink l fun x => { x with ctl := [ctlFrame l 0 ((x.rxSeq + 255) % 256) []] }) }) ∧
  (∀ (s : State) (l : HalfId) (e : FrameEnd) (h0 : Word) (pay : List Word),
     s.blk.linkUp l = true →
     (e.good (h0 :: pay) = false ∨ bits h0.toNat 7 0 ≠ pay.length) →
     exec (.qhlFrameReceive l e h0 pay) s = .next { s with blk := (((s.blk.setF l F.QHL_ERR_CRC 1).count l F.QHL_CNT0_CRCERRS).modLink l fun x =>
        { x with nakOk := x.nakOk || (e.clean && !e.crcOk (h0 :: pay)), ctl := [] }) }) ∧
  (∀ (s : State) (l : HalfId) (e : FrameEnd) (h0 : Word) (pay : List Word),
     s.blk.linkUp l = true →
     e.good (h0 :: pay) = true →
     bits h0.toNat 7 0 = pay.length →
     bits h0.toNat 23 20 = 0 →
     exec (.qhlFrameReceive l e h0 pay) s = .next { s with blk := (s.blk.modLink l fun x => { x with ctl := [] }) }) ∧
  (∀ (s : State) (l : HalfId) (e : FrameEnd) (h0 : Word) (pay : List Word),
     s.blk.linkUp l = false →
     exec (.qhlFrameReceive l e h0 pay) s = .next s) ∧
  (∀ (s : State) (l : HalfId) (f : QFrame) (rest : List QFrame),
     (s.blk.link l).inq = f :: rest →
     f.type = 1 →
     exec (.qhlMbxFrame l) s = .next { s with blk := ((s.blk.modLink l fun x => { x with inq := rest, ctl := [], hold := x.hold.set (2 * f.half.num + f.chan) (nth [] x.hold (2 * f.half.num + f.chan) ++ f.pay) }).linkFeed f.half (f.chan == 1)) }) ∧
  (∀ (s : State) (l : HalfId),
     (s.blk.link l).inq.head?.map QFrame.type ≠ some 1 →
     exec (.qhlMbxFrame l) s = .next s) ∧
  (∀ (s : State) (l : HalfId),
     (s.blk.link l).inq.head?.map QFrame.type ≠ some 3 →
     exec (.qhlBulkFrame l) s = .next s) ∧
  (∀ (s : State) (l : HalfId) (f : QFrame) (rest : List QFrame) (t : State) (b : Block),
     s.blk.regFrame l 3 = some f →
     t = s.crossing l f.half →
     (t.blk.link l).inq = f :: rest →
     b = t.blk.modLink l (fun x => { x with inq := rest, ctl := [], freed := x.freed.set (4 * f.half.num + 2) (nth 0 x.freed (4 * f.half.num + 2) + f.nw) }) →
     t.blk.inStream f.half (bits (nth 0 f.pay 0).toNat 23 20) = none →
     exec (.qhlBulkFrame l) s = .next { t with blk := b }) ∧
  (∀ (s : State) (l : HalfId) (f : QFrame) (rest : List QFrame) (t : State) (b : Block) (x : Stream) (id : Nat),
     s.blk.regFrame l 3 = some f →
     t = s.crossing l f.half →
     (t.blk.link l).inq = f :: rest →
     id = bits (nth 0 f.pay 0).toNat 23 20 →
     b = t.blk.modLink l (fun x => { x with inq := rest, ctl := [], freed := x.freed.set (4 * f.half.num + 2) (nth 0 x.freed (4 * f.half.num + 2) + f.nw) }) →
     t.blk.inStream f.half id = some x →
     exec (.qhlBulkFrame l) s = .next { t with blk := ((b.modHalf f.half fun y => { y with hip := { y.hip with streams := y.hip.streams.map fun z =>
        if z.incoming && z.id == id then { x with pieces := x.pieces ++ [(bits (nth 0 f.pay 0).toNat 19 0, f.pay.drop 1)] } else z } }).setF f.half F.QHL_BULK_FILL
        (fillOf (x.pieces ++ [(bits (nth 0 f.pay 0).toNat 19 0, f.pay.drop 1)])) id) }) ∧
  (∀ (s : State) (l : HalfId) (f : QFrame) (r : List Word × Bool × State),
     s.blk.regFrame l 4 = some f →
     r = State.readRun ⟨f.half, .link⟩ (bits (nth 0 f.pay 1).toNat 5 0 + 1) (nth 0 f.pay 0).toNat (s.crossing l f.half) →
     exec (.qhlRegRd l) s = .next { r.2.2 with blk := r.2.2.blk.regReply l f 5 (regStatus cOK (bits (nth 0 f.pay 1).toNat 23 16) r.2.1 r.1.length :: r.1) }) ∧
  (∀ (s : State) (l : HalfId) (f : QFrame) (t : State),
     s.blk.regFrame l 6 = some f →
     t = s.crossing l f.half →
     t.blk.phase f.half ≠ phTEST →
     exec (.qhlRegWr l) s = .next { t with blk := (t.blk.regReply l f 7 [regStatus cPHASE (bits (nth 0 f.pay 1).toNat 23 16) false 0]) }) ∧
  (∀ (s : State) (l : HalfId) (f : QFrame) (t : State) (r : Nat × Bool × State),
     s.blk.regFrame l 6 = some f →
     t = s.crossing l f.half →
     t.blk.phase f.half = phTEST →
     r = State.writeRun ⟨f.half, .link⟩ (nth 0 f.pay 0).toNat (f.pay.drop 2) t →
     exec (.qhlRegWr l) s = .next { r.2.2 with blk := r.2.2.blk.regReply l f 7 [regStatus cOK (bits (nth 0 f.pay 1).toNat 23 16) r.2.1 r.1] }) ∧
  (∀ (s : State) (l : HalfId),
     s.blk.regFrame l 4 = none →
     exec (.qhlRegRd l) s = .next s) ∧
  (∀ (s : State) (l : HalfId),
     s.blk.regFrame l 6 = none →
     exec (.qhlRegWr l) s = .next s) ∧
  (∀ (s : State) (l : HalfId) (lseq : BitVec 8),
     (s.blk.link l).unack.any (fun p => p.1.lseq == lseq.toNat) = false →
     exec (.qhlAck l lseq) s = .next { s with blk := (s.blk.modLink l fun x => { x with ctl := [] }) }) ∧
  (∀ (s : State) (l : HalfId) (lseq : BitVec 8),
     (s.blk.link l).unack.any (fun p => p.1.lseq == lseq.toNat) = true →
     exec (.qhlAck l lseq) s = .next { s with blk := ((s.blk.modLink l fun x => { x with ctl := [], unack := (x.unack.dropWhile fun p => p.1.lseq != lseq.toNat).drop 1 }).linkShow) }) ∧
  (∀ (s : State) (l : HalfId) (lseq : BitVec 8),
     s.blk.linkUp l = true →
     ((s.blk.link l).unack.dropWhile (fun p => p.1.lseq != lseq.toNat)).all (fun p => p.2 < 8) = true →
     exec (.qhlNak l lseq) s = .next { s with blk := ((((s.blk.link l).unack.dropWhile (fun p => p.1.lseq != lseq.toNat)).foldl (fun t _ => t.count l F.QHL_CNT0_RETX) s.blk).modLink l fun x =>
        { x with ctl := [], unack := (s.blk.link l).unack.takeWhile (fun p => p.1.lseq != lseq.toNat) ++ ((s.blk.link l).unack.dropWhile (fun p => p.1.lseq != lseq.toNat)).map fun p => (p.1, p.2 + 1) }) }) ∧
  (∀ (s : State) (l : HalfId) (lseq : BitVec 8),
     s.blk.linkUp l = true →
     ((s.blk.link l).unack.dropWhile (fun p => p.1.lseq != lseq.toNat)).any (fun p => 8 ≤ p.2) = true →
     exec (.qhlNak l lseq) s = .next { s with blk := ((s.blk.setF l F.QHL_ERR_RETXLIM 1).linkFalls l lkTRAIN) }) ∧
  (∀ (s : State) (l : HalfId),
     s.blk.linkUp l = true →
     ((s.blk.link l).unack.dropWhile (fun _ => false)).all (fun p => p.2 < 8) = true →
     exec (.qhlRetransmitTimeout l) s = .next { s with blk := ((((s.blk.link l).unack.dropWhile (fun _ => false)).foldl (fun t _ => t.count l F.QHL_CNT0_RETX) s.blk).modLink l fun x =>
        { x with ctl := [], unack := (s.blk.link l).unack.takeWhile (fun _ => false) ++ ((s.blk.link l).unack.dropWhile (fun _ => false)).map fun p => (p.1, p.2 + 1) }) }) ∧
  (∀ (s : State) (l : HalfId),
     s.blk.linkUp l = true →
     ((s.blk.link l).unack.dropWhile (fun _ => false)).any (fun p => 8 ≤ p.2) = true →
     exec (.qhlRetransmitTimeout l) s = .next { s with blk := ((s.blk.setF l F.QHL_ERR_RETXLIM 1).linkFalls l lkTRAIN) }) ∧
  (∀ (s : State) (l : HalfId) (lseq : BitVec 8),
     s.blk.linkUp l = false →
     exec (.qhlNak l lseq) s = .next s ∧ exec (.qhlRetransmitTimeout l) s = .next s) ∧
  (∀ (s : State) (l : HalfId) (half : HalfId) (cls : BitVec 3) (limit : BitVec 16),
     (s.blk.linkUp l = false ∨ cls.toNat < 4) →
     exec (.qhlCredit l half cls limit) s = .next s) ∧
  (∀ (s : State) (l : HalfId) (half : HalfId) (rev : BitVec 8) (served : BitVec 2) (reason : BitVec 4) (lseq : BitVec 8),
     s.blk.linkUp l = false →
     exec (.qhlInit l rev served) s = .next s ∧ exec (.qhlBind l half) s = .next s ∧ exec (.qhlReject l reason lseq) s = .next s) ∧
  (∀ (s : State) (l : HalfId) (half : HalfId),
     s.blk.linkUp l = true →
     s.blk.reaches l half = true →
     s.blk.servedBy half = l →
     exec (.qhlBind l half) s = .next { s with blk := (s.blk.modLink l fun x => { x with ctl := [ctlFrame l 5 0 [wd (half.num * 2 ^ 23 + 2 * 2 ^ 20)]] }) }) ∧
  (∀ (s : State) (l : HalfId) (half : HalfId) (cls : BitVec 3) (limit : BitVec 16),
     s.blk.linkUp l = true →
     4 ≤ cls.toNat →
     exec (.qhlCredit l half cls limit) s = .next { s with blk := (s.blk.modLink l fun x => { x with ctl := [], hostLim := x.hostLim.set (4 * half.num + (cls.toNat - 4)) limit.toNat }) }) ∧
  (∀ (s : State) (l : HalfId) (rev : BitVec 8) (served : BitVec 2),
     s.blk.linkUp l = true →
     exec (.qhlInit l rev served) s = .next { s with blk := (s.blk.modLink l fun x => { x with ctl := [], peer := some (rev.toNat, served.toNat) }) }) ∧
  (∀ (s : State) (l : HalfId) (half : HalfId),
     s.blk.linkUp l = true →
     s.blk.reaches l half = true →
     s.blk.servedBy half ≠ l →
     exec (.qhlBind l half) s = .next { s with blk := (((s.blk.hostReset half).moveServing half l).modLink l fun x => { x with ctl := [ctlFrame l 5 0 [wd (half.num * 2 ^ 23)]] }) }) ∧
  (∀ (s : State) (l : HalfId) (half : HalfId),
     s.blk.linkUp l = true →
     s.blk.reaches l half = false →
     exec (.qhlBind l half) s = .next { s with blk := (s.blk.modLink l fun x => { x with ctl := [ctlFrame l 5 0 [wd (half.num * 2 ^ 23 + 2 ^ 20)]] }) }) ∧
  (∀ (s : State) (l : HalfId) (reason : BitVec 4) (lseq : BitVec 8),
     s.blk.linkUp l = true →
     exec (.qhlReject l reason lseq) s = .next { s with blk := (s.blk.modLink l fun x => { x with ctl := [] }) })

/-- Credit and frames sent to the host. A link in UP tells the host the LIMIT that the words freed so far give; on a half
it reaches and serves it sends the words of MBX1, MBX5 or MBX6, a waiting register reply, or outgoing bulk data, as
one sequenced frame within the host's credit, and holds it until it is acknowledged; what crosses the bridge for it
does so within the command (the model's choice, log entry 89); on the link that does not serve the half only the
report of a firmware failure leaves. Otherwise nothing is sent. What a row judges itself and what its operands carry
is the model's form; the model's choices in these rows are log entries 1, 11, 89. (Rules R331, R349, R350, R354, R355,
R370.) -/
def Obligations.OutboundRowsComplete : Prop :=
  (∀ (s : State) (l : HalfId) (half : HalfId) (c : Fin 4) (n : Nat) (limit : Nat),
     s.blk.linkUp l = true →
     n = nth 0 (s.blk.link l).freed (4 * half.num + c) →
     limit = (n + nth 0 rooms c) % 65536 →
     exec (.qhlCreditSend l half c) s = .next { s with blk := (s.blk.modLink l fun x => { x with limit := x.limit.set (4 * half.num + c) limit, told := x.told.set (4 * half.num + c) n, ctl := [ctlFrame l 2 0 [wd (c * 2 ^ 21 + half.num * 2 ^ 20 + limit)]] }) }) ∧
  (∀ (s : State) (l : HalfId) (half : HalfId) (c : Fin 4),
     s.blk.linkUp l = false →
     exec (.qhlCreditSend l half c) s = .next s) ∧
  (∀ (s : State) (l : HalfId) (half : HalfId) (t : State) (c : Fin 4) (n : Fin 129),
     t = s.crossing l half →
     (t.blk.linkUp l = false ∨ 32 ≤ (t.blk.link l).unack.length ∨ t.blk.reaches l half = false) →
     exec (.qhlOutboundFrame l half c n) s = .next t) ∧
  (∀ (s : State) (l : HalfId) (half : HalfId) (t : State) (c : Fin 4) (n : Fin 129) (room : Nat) (r : List Word × Block),
     t = s.crossing l half →
     t.blk.linkUp l = true →
     (t.blk.link l).unack.length < 32 →
     t.blk.reaches l half = true →
     c.val < 3 →
     t.blk.servedBy half = l →
     room = (t.blk.link l).hostRoom half c →
     (r = takeWords half (if c.val = 0 then 1 else if c.val = 1 then 5 else 6) (capNat 64 (if room < n.val then room else n.val)) t.blk) →
     r.1 ≠ [] →
     exec (.qhlOutboundFrame l half c n) s = .next { t with blk := (r.2.sendFrame l half (if c.val = 2 then 2 else 1) (if c.val = 1 then 1 else 0) c r.1) }) ∧
  (∀ (s : State) (l : HalfId) (half : HalfId) (t : State) (c : Fin 4) (n : Fin 129) (room : Nat) (r : List Word × Block),
     t = s.crossing l half →
     t.blk.linkUp l = true →
     (t.blk.link l).unack.length < 32 →
     t.blk.reaches l half = true →
     c.val < 3 →
     t.blk.servedBy half = l →
     room = (t.blk.link l).hostRoom half c →
     (r = takeWords half (if c.val = 0 then 1 else if c.val = 1 then 5 else 6) (capNat 64 (if room < n.val then room else n.val)) t.blk) →
     r.1 = [] →
     exec (.qhlOutboundFrame l half c n) s = .next { t with blk := (r.2) }) ∧
  (∀ (s : State) (l : HalfId) (half : HalfId) (t : State) (n : Fin 129) (ws : List Word) (room : Nat),
     t = s.crossing l half →
     t.blk.linkUp l = true →
     (t.blk.link l).unack.length < 32 →
     t.blk.reaches l half = true →
     t.blk.servedBy half ≠ l →
     ws = (t.blk.half half).hip.bootReport →
     room = (t.blk.link l).hostRoom half 2 →
     ws ≠ [] →
     ws.length ≤ capNat room n.val →
     exec (.qhlOutboundFrame l half 2 n) s = .next { t with blk := ((t.blk.modHalf half fun y => { y with hip := { y.hip with bootReport := [] } }).sendFrame l half 2 0 2 ws) }) ∧
  (∀ (s : State) (l : HalfId) (half : HalfId) (t : State) (c : Fin 4) (n : Fin 129) (ws : List Word) (room : Nat),
     t = s.crossing l half →
     t.blk.linkUp l = true →
     (t.blk.link l).unack.length < 32 →
     t.blk.reaches l half = true →
     t.blk.servedBy half ≠ l →
     ws = (t.blk.half half).hip.bootReport →
     room = (t.blk.link l).hostRoom half c →
     c.val < 3 →
     (c.val ≠ 2 ∨ ws = [] ∨ capNat room n.val < ws.length) →
     exec (.qhlOutboundFrame l half c n) s = .next t) ∧
  (∀ (s : State) (l : HalfId) (half : HalfId) (t : State) (n : Fin 129) (f : QFrame) (rest : List QFrame),
     t = s.crossing l half →
     t.blk.linkUp l = true →
     (t.blk.link l).unack.length < 32 →
     t.blk.reaches l half = true →
     (t.blk.link l).regOut = f :: rest →
     f.pay.length ≤ (t.blk.link l).hostRoom f.half 3 →
     exec (.qhlOutboundFrame l half 3 n) s = .next { t with blk := ((t.blk.modLink l fun x => { x with regOut := rest }).sendFrame l f.half f.type 0 3 f.pay) }) ∧
  (∀ (s : State) (l : HalfId) (half : HalfId) (t : State) (n : Fin 129) (f : QFrame) (rest : List QFrame),
     t = s.crossing l half →
     t.blk.linkUp l = true →
     (t.blk.link l).unack.length < 32 →
     t.blk.reaches l half = true →
     (t.blk.link l).regOut = f :: rest →
     (t.blk.link l).hostRoom f.half 3 < f.pay.length →
     exec (.qhlOutboundFrame l half 3 n) s = .next t) ∧
  (∀ (s : State) (l : HalfId) (half : HalfId) (t : State) (n : Fin 129) (y : Stream) (ws : List Word) (room : Nat),
     t = s.crossing l half →
     t.blk.linkUp l = true →
     (t.blk.link l).unack.length < 32 →
     t.blk.reaches l half = true →
     t.blk.servedBy half = l →
     (t.blk.link l).regOut = [] →
     room = (t.blk.link l).hostRoom half 3 →
     2 ≤ room →
     t.blk.outStream half (if room - 1 < n.val then room - 1 else n.val) = some (y, ws) →
     exec (.qhlOutboundFrame l half 3 n) s = .next { t with blk := ((t.blk.modHalf half fun z => { z with hip := { z.hip with streams := z.hip.streams.map fun q =>
        if !q.incoming && q.id == y.id then { q with sent := q.sent + ws.length } else q } }).sendFrame l half 3 0 3 (wd (y.id * 2 ^ 20 + y.sent) :: ws)) }) ∧
  (∀ (s : State) (l : HalfId) (half : HalfId) (t : State) (n : Fin 129) (room : Nat),
     t = s.crossing l half →
     t.blk.linkUp l = true →
     (t.blk.link l).unack.length < 32 →
     t.blk.reaches l half = true →
     (t.blk.link l).regOut = [] →
     room = (t.blk.link l).hostRoom half 3 →
     (t.blk.servedBy half ≠ l ∨ room < 2 ∨ t.blk.outStream half (if room - 1 < n.val then room - 1 else n.val) = none) →
     exec (.qhlOutboundFrame l half 3 n) s = .next t)

/-- General commands, streams, notices, reset and the secure session. A command that comes while HIP does not act waits
(rule R361); an accepted command replies as rule R371 says and changes just what it names: NOP, IDENT, STATUS, TIME
and ECHO only reply; NOTICE_MASK stores the mask; STREAM_ABORT closes its stream and ends the command that sends on
it, with the words sent as its result; NOTICE_REPLAY queues the held notices from SEQ on; RESET orders the reset; a
challenge makes a fresh nonce of 33 bytes; an unlock uses the nonce, opens a session on two good checks and otherwise
counts a failure, the third locking out; SEC_CLOSE closes. What a row judges itself and what its operands carry is the
model's form; the model's choices in these rows are log entries 1, 11, 5, 6, 12, 20, 37, 56, 57, 58, 60, 61, 62, 64,
66, 133, 136, 138. (Rules R361, R363, R368, R369, R370, R371, R376.) -/
def Obligations.GeneralCommandsComplete : Prop :=
  (∀ (s : State) (h : HalfId) (secure : Bool) (seq : BitVec 10) (pay : List Word),
     s.blk.accepts h secure 0x00 seq pay = true →
     exec (.nop h secure seq pay) s = .next { s with blk := ((s.blk).reply h secure (header 0x00 pay.length seq.toNat)
        ([stOK])) }) ∧
  (∀ (s : State) (h : HalfId) (secure : Bool) (seq : BitVec 10) (pay : List Word),
     s.blk.accepts h secure 0x01 seq pay = true →
     ∃ f : Firm, f = s.firm h ∧ exec (.ident h secure seq pay) s = .next { s with blk := ((s.blk).reply h secure (header 0x01 pay.length seq.toNat)
        ([stOK, 6424, 0x4145, wd (0xC2 * 2 ^ 16 + h.num * 2 ^ 15 + bitOf (s.blk.holdsHelm h) * 2 ^ 14), Config.fwVersion f.running,
          wd ((Config.fwSecver f.running).toNat * 2 ^ 16 + f.active * 2 ^ 15 + (s.fuse h).keyPos * 2 ^ 13),
          wd (Config.serial.toNat / 2 ^ 24), wd Config.serial.toNat])) }) ∧
  (∀ (s : State) (h : HalfId) (secure : Bool) (seq : BitVec 10) (pay : List Word),
     s.blk.accepts h secure 0x02 seq pay = true →
     exec (.status h secure seq pay) s = .next { s with blk := ((s.blk).reply h secure (header 0x02 pay.length seq.toNat)
        ([stOK, s.blk.w h .ADM_STAT, s.blk.viewWord .WTK_STAT h (s.blk.src h) 0, s.blk.viewWord .ANG_STAT h 0 0,
          wd (bitOf (s.blk.half h).hl.lost * 2 ^ 23 + bitOf (nth 0 (s.blk.half h.peer).hip.roles 0 == 2) * 2 ^ 22 +
            bitOf (nth 0 (s.blk.half h).hip.roles 1 == 2) * 2 ^ 21 + bitOf (nth 0 (s.blk.half h).hip.roles 2 == 2) * 2 ^ 20 +
            bitOf (s.blk.half h).hip.session * 2 ^ 19)])) }) ∧
  (∀ (s : State) (h : HalfId) (secure : Bool) (seq : BitVec 10) (pay : List Word),
     s.blk.accepts h secure 0x03 seq pay = true →
     exec (.noticeMask h secure seq pay) s = .next { s with blk := ((s.blk.modHip h fun x => { x with mask := pw pay 1 }).reply h secure (header 0x03 pay.length seq.toNat)
        ([stOK])) }) ∧
  (∀ (s : State) (h : HalfId) (secure : Bool) (seq : BitVec 10) (pay : List Word),
     s.blk.accepts h secure 0x04 seq pay = true →
     exec (.time h secure seq pay) s = .next { s with blk := ((s.blk).reply h secure (header 0x04 pay.length seq.toNat)
        ([stOK, wd ((s.blk.half h).tsc / 2 ^ 24), wd ((s.blk.half h).tsc % 2 ^ 24)])) }) ∧
  (∀ (s : State) (h : HalfId) (secure : Bool) (seq : BitVec 10) (pay : List Word),
     s.blk.accepts h secure 0x05 seq pay = true →
     exec (.echo h secure seq pay) s = .next { s with blk := ((s.blk).reply h secure (header 0x05 pay.length seq.toNat)
        (stOK :: pay)) }) ∧
  (∀ (s : State) (h : HalfId) (secure : Bool) (seq : BitVec 10) (pay : List Word) (x : Stream),
     s.blk.accepts h secure 0x06 seq pay = true →
     bits (pw pay 1) 19 19 = 0 →
     s.blk.stream? h true (bits (pw pay 1) 23 20) = some x →
     exec (.streamAbort h secure seq pay) s = .next { s with blk := ((s.blk.closeStream h true (bits (pw pay 1) 23 20)).reply h secure (header 0x06 pay.length seq.toNat)
        ([stOK])) }) ∧
  (∀ (s : State) (h : HalfId) (secure : Bool) (seq : BitVec 10) (pay : List Word),
     s.blk.accepts h secure 0x06 seq pay = true →
     s.blk.stream? h (bits (pw pay 1) 19 19 == 0) (bits (pw pay 1) 23 20) = none →
     exec (.streamAbort h secure seq pay) s = .next { s with blk := ((s.blk).reply h secure (header 0x06 pay.length seq.toNat)
        ([statusWord cCONFIG_INVALID rsSTREAM 1])) }) ∧
  (∀ (s : State) (h : HalfId) (secure : Bool) (seq : BitVec 10) (pay : List Word) (x : Stream),
     s.blk.accepts h secure 0x06 seq pay = true →
     bits (pw pay 1) 19 19 = 1 →
     s.blk.stream? h false (bits (pw pay 1) 23 20) = some x →
     exec (.streamAbort h secure seq pay) s = .next { s with blk := (((s.blk.closeStream h false (bits (pw pay 1) 23 20)).modHip h fun p => { p with long := p.long.map fun c =>
          if c.code = x.code then { c with status := statusWord cCONFIG_INVALID rsSTREAM 0, result := [wd x.sent] } else c }).reply h secure (header 0x06 pay.length seq.toNat)
        ([stOK])) }) ∧
  (∀ (s : State) (h : HalfId) (secure : Bool) (seq : BitVec 10) (pay : List Word) (o : Notice) (again : List Notice),
     s.blk.accepts h secure 0x07 seq pay = true →
     (s.blk.half h).hip.replay.head? = some o →
     again = (s.blk.half h).hip.replay.dropWhile (fun n => n.seq != bits (pw pay 1) 9 0) →
     again ≠ [] →
     exec (.noticeReplay h secure seq pay) s = .next { s with blk := (((s.blk.modHip h fun x => { x with out6 := x.out6.filter (fun n => !again.contains n) ++ again }).hipPost h 6).reply h secure (header 0x07 pay.length seq.toNat)
        ([stOK, wd o.seq])) }) ∧
  (∀ (s : State) (h : HalfId) (secure : Bool) (seq : BitVec 10) (pay : List Word),
     s.blk.accepts h secure 0x08 seq pay = true →
     bits (pw pay 1) 0 0 = 0 →
     exec (.reset h secure seq pay) s = .next { s with blk := ((s.blk.modHip h fun x => { x with resetIn := some false }).reply h secure (header 0x08 pay.length seq.toNat)
        ([stOK])) }) ∧
  (∀ (s : State) (h : HalfId) (secure : Bool) (seq : BitVec 10) (pay : List Word),
     s.blk.accepts h secure 0x08 seq pay = true →
     bits (pw pay 1) 0 0 = 1 →
     s.blk.holdsHelm h = true →
     exec (.reset h secure seq pay) s = .next { s with blk := ((s.blk.modHip h fun x => { x with resetIn := some true }).reply h secure (header 0x08 pay.length seq.toNat)
        ([stOK])) }) ∧
  (∀ (s : State) (h : HalfId) (secure : Bool) (seq : BitVec 10) (pay : List Word),
     s.blk.accepts h secure 0x08 seq pay = true →
     bits (pw pay 1) 0 0 = 1 →
     s.blk.holdsHelm h = false →
     exec (.reset h secure seq pay) s = .next { s with blk := ((s.blk).reply h secure (header 0x08 pay.length seq.toNat)
        ([statusWord cNOT_HELM 0 0])) }) ∧
  (∀ (s : State) (h : HalfId) (secure : Bool) (seq : BitVec 10) (pay : List Word),
     s.blk.accepts h secure 0x0A seq pay = true →
     ∃ ws : List Word, ws.length = 11 ∧ (nth 0 ws 10).toNat % 256 = h.num ∧
        exec (.secChallenge h secure seq pay) s = .next { s with blk := (({ s.blk with fresh := s.blk.fresh + 1 }.modHip h fun x => { x with nonce := some ws }).reply h secure (header 0x0A pay.length seq.toNat)
        (stOK :: ws)) }) ∧
  (∀ (s : State) (h : HalfId) (secure : Bool) (seq : BitVec 10) (pay : List Word) (n : List Word) (ok : Bool) (b : Block),
     s.blk.accepts h secure 0x0B seq pay = true →
     nth false s.blk.lockout h.num = false →
     (s.blk.half h).hip.nonce = some n →
     b = s.blk.modHip h (fun x => { x with nonce := none }) →
     ok = (Config.keyHashOk (pay.take 22) && Config.signatureOk n (pay.take 22) (pay.drop 22)) →
     exec (.secUnlock h secure seq pay) s = if ok
        then .next { s with blk := (({ b.modHip h (fun x => { x with session := true }) with fails := b.fails.set h.num 0 }).reply h secure (header 0x0B pay.length seq.toNat)
        ([stOK])) }
        else .next { s with blk := (({ b with fails := b.fails.set h.num (nth 0 b.fails h.num + 1), lockout := b.lockout.set h.num (decide (3 ≤ nth 0 b.fails h.num + 1)) }).reply h secure (header 0x0B pay.length seq.toNat)
        ([statusWord cSECURE_REQUIRED rsSIGNATURE 0])) }) ∧
  (∀ (s : State) (h : HalfId) (secure : Bool) (seq : BitVec 10) (pay : List Word),
     s.blk.accepts h secure 0x0B seq pay = true →
     nth false s.blk.lockout h.num = true →
     exec (.secUnlock h secure seq pay) s = .next { s with blk := ((s.blk).reply h secure (header 0x0B pay.length seq.toNat)
        ([statusWord cSECURE_REQUIRED rsLOCKOUT 0])) }) ∧
  (∀ (s : State) (h : HalfId) (secure : Bool) (seq : BitVec 10) (pay : List Word),
     s.blk.accepts h secure 0x0C seq pay = true →
     exec (.secClose h secure seq pay) s = .next { s with blk := ((s.blk.modHip h fun x => { x with session := false }).reply h secure (header 0x0C pay.length seq.toNat)
        ([stOK])) }) ∧
  (∀ (s : State) (h : HalfId) (secure : Bool) (seq : BitVec 10) (pay : List Word) (parity : BitVec 15),
     s.blk.hipActs h = false →
     ∀ r ∈ [(0x00, exec (.nop h secure seq pay) s), (0x01, exec (.ident h secure seq pay) s), (0x02, exec (.status h secure seq pay) s),
     (0x03, exec (.noticeMask h secure seq pay) s), (0x04, exec (.time h secure seq pay) s), (0x05, exec (.echo h secure seq pay) s),
     (0x06, exec (.streamAbort h secure seq pay) s), (0x07, exec (.noticeReplay h secure seq pay) s), (0x08, exec (.reset h secure seq pay) s),
     (0x0A, exec (.secChallenge h secure seq pay) s), (0x0B, exec (.secUnlock h secure seq pay) s), (0x0C, exec (.secClose h secure seq pay) s),
     (0x0D, exec (.canTx h secure seq pay) s), (0x0E, exec (.canFilter h secure seq pay) s), (0x10, exec (.cfgOpen h secure seq pay) s),
     (0x11, exec (.cfgCommit h secure seq pay) s), (0x12, exec (.cfgAbort h secure seq pay) s), (0x13, exec (.cfgStatus h secure seq pay) s),
     (0x20, exec (.schedLoadBegin h secure seq pay) s), (0x21, exec (.schedLoadEnd h secure seq pay) s), (0x22, exec (.schedActivate h secure seq pay) s),
     (0x23, exec (.schedDeactivate h secure seq pay) s), (0x24, exec (.schedStatus h secure seq pay) s), (0x25, exec (.schedList h secure seq pay) s),
     (0x26, exec (.schedDelete h secure seq pay) s), (0x30, exec (.evtSubmit h secure seq pay parity) s), (0x31, exec (.evtCancel h secure seq pay) s),
     (0x32, exec (.trimSet h secure seq pay) s), (0x33, exec (.trimRead h secure seq pay) s), (0x34, exec (.creditRead h secure seq pay) s),
     (0x40, exec (.phaseSet h secure seq pay) s), (0x41, exec (.modeSet h secure seq pay) s), (0x50, exec (.regRead h secure seq pay) s),
     (0x51, exec (.regWrite h secure seq pay) s), (0x60, exec (.logRead h secure seq pay) s), (0x61, exec (.logClear h secure seq pay) s),
     (0x62, exec (.tallyRead h secure seq pay) s), (0x70, exec (.fwBegin h secure seq pay) s), (0x71, exec (.fwEnd h secure seq pay) s),
     (0x72, exec (.fwSelect h secure seq pay) s), (0x73, exec (.secverSet h secure seq pay) s), (0x74, exec (.keyAdvance h secure seq pay) s)],
     r.2 = .next { s with blk := (s.blk.keepCommand h secure (header r.1 pay.length seq.toNat) pay) }) ∧
  (∀ (s : State) (h : HalfId),
     nth false s.blk.lockout h.num = true →
     exec (.secLockoutEnd h) s = .next { s with blk := ({ s.blk with lockout := s.blk.lockout.set h.num false, fails := s.blk.fails.set h.num 0 }) }) ∧
  (∀ (s : State) (h : HalfId) (secure : Bool) (seq : BitVec 10) (pay : List Word),
     s.blk.accepts h secure 0x0D seq pay = true →
     pay.length = canTxWords (pw pay 1) →
     (nth ⟨[]⟩ (s.blk.half h).can (bits (pw pay 1) 23 23)).tx.length < 8 →
     s.blk.canState h (bits (pw pay 1) 23 23) ≠ 3 →
     exec (.canTx h secure seq pay) s = .next { s with blk := ((s.blk.modCan h (bits (pw pay 1) 23 23) fun c => { c with tx := c.tx ++ [pay] }).reply h secure (header 0x0D pay.length seq.toNat)
        ([stOK])) }) ∧
  (∀ (s : State) (h : HalfId) (secure : Bool) (seq : BitVec 10) (pay : List Word),
     s.blk.accepts h secure 0x0E seq pay = true →
     exec (.canFilter h secure seq pay) s = .next { s with blk := ((s.blk.modHip h fun x => { x with filters := (x.filters.filter fun f => f.1 != bits (pw pay 1) 23 23 * 16 + bits (pw pay 1) 19 16) ++
        [(bits (pw pay 1) 23 23 * 16 + bits (pw pay 1) 19 16, pay)] }).reply h secure (header 0x0E pay.length seq.toNat)
        ([stOK])) }) ∧
  (∀ (s : State) (h : HalfId) (secure : Bool) (seq : BitVec 10) (pay : List Word),
     s.blk.accepts h secure 0x07 seq pay = true →
     (s.blk.half h).hip.replay.dropWhile (fun n => n.seq != bits (pw pay 1) 9 0) = [] →
     bits (pw pay 1) 9 0 ≠ (s.blk.half h).hip.seq →
     exec (.noticeReplay h secure seq pay) s = .next { s with blk := ((s.blk.hipPost h 6).reply h secure (header 0x07 pay.length seq.toNat)
        ([statusWord cPAST 0 0, wd (((s.blk.half h).hip.replay.head?.map Notice.seq).getD (s.blk.half h).hip.seq)])) }) ∧
  (∀ (s : State) (h : HalfId) (secure : Bool) (seq : BitVec 10) (pay : List Word) (b : Block),
     s.blk.accepts h secure 0x0B seq pay = true →
     nth false s.blk.lockout h.num = false →
     (s.blk.half h).hip.nonce = none →
     b = s.blk.modHip h (fun x => { x with nonce := none }) →
     exec (.secUnlock h secure seq pay) s = .next { s with blk := (({ b with fails := b.fails.set h.num (nth 0 b.fails h.num + 1), lockout := b.lockout.set h.num (decide (3 ≤ nth 0 b.fails h.num + 1)) }).reply h secure (header 0x0B pay.length seq.toNat)
        ([statusWord cSECURE_REQUIRED rsSIGNATURE 0])) }) ∧
  (∀ (s : State) (h : HalfId),
     nth false s.blk.lockout h.num = false →
     exec (.secLockoutEnd h) s = .next s) ∧
  (∀ (s : State) (h : HalfId) (secure : Bool) (seq : BitVec 10) (pay : List Word),
     s.blk.accepts h secure 0x0D seq pay = true →
     pay.length ≠ canTxWords (pw pay 1) →
     exec (.canTx h secure seq pay) s = .next { s with blk := ((s.blk).reply h secure (header 0x0D pay.length seq.toNat)
        ([statusWord cCONFIG_INVALID rsCOUNT 0])) }) ∧
  (∀ (s : State) (h : HalfId) (secure : Bool) (seq : BitVec 10) (pay : List Word),
     s.blk.accepts h secure 0x0D seq pay = true →
     pay.length = canTxWords (pw pay 1) →
     8 ≤ (nth ⟨[]⟩ (s.blk.half h).can (bits (pw pay 1) 23 23)).tx.length →
     exec (.canTx h secure seq pay) s = .next { s with blk := ((s.blk).reply h secure (header 0x0D pay.length seq.toNat)
        ([statusWord cQUEUE_FULL 0 0])) }) ∧
  (∀ (s : State) (h : HalfId) (secure : Bool) (seq : BitVec 10) (pay : List Word),
     s.blk.accepts h secure 0x0D seq pay = true →
     pay.length = canTxWords (pw pay 1) →
     (nth ⟨[]⟩ (s.blk.half h).can (bits (pw pay 1) 23 23)).tx.length < 8 →
     s.blk.canState h (bits (pw pay 1) 23 23) = 3 →
     exec (.canTx h secure seq pay) s = .next { s with blk := ((s.blk).reply h secure (header 0x0D pay.length seq.toNat)
        ([statusWord cPHASE 0 0])) })

/-- Configuration, schedule, event, trim, phase and mode commands. CFG_OPEN opens the stream, the configuration and HOLD;
CFG_COMMIT and SCHED_LOAD_END close a whole stream and start their long command; CFG_ABORT leaves the previous
configuration; SCHED_ACTIVATE starts outside BOOT and SERVICE; a deletion never touches the active set; EVT_SUBMIT and
EVT_CANCEL take their entries in order; TRIM_SET writes all pairs or none; PHASE_SET makes only the moves of rule
R144; MODE_SET sets NEXTMODE in both halves. What a row judges itself and what its operands carry is the model's form;
the model's choices in these rows are log entries 1, 11, 5, 37, 58, 61, 62, 66, 89, 138. (Rules R144, R155, R186,
R188, R367, R370, R371, R373, R404, R406, R408.) -/
def Obligations.ScheduleCommandsComplete : Prop :=
  (∀ (s : State) (h : HalfId) (secure : Bool) (seq : BitVec 10) (pay : List Word),
     s.blk.accepts h secure 0x10 seq pay = true →
     s.blk.cfgIsOpen h = false →
     s.blk.stream? h true (bits (pw pay 1) 23 20) = none →
     pw pay 2 ≤ (if bits (pw pay 1) 19 16 = 0 then 98304 else 2048) →
     exec (.cfgOpen h secure seq pay) s = .next { s with blk := ((((s.blk.openStream h ⟨bits (pw pay 1) 23 20, true, 0x10, pw pay 2, bits (pw pay 1) 19 16, [], 0⟩).modHip h
        fun x => { x with cfg := 1 }).setPhase h phHOLD 0).reply h secure (header 0x10 pay.length seq.toNat)
        ([stOK])) }) ∧
  (∀ (s : State) (h : HalfId) (secure : Bool) (seq : BitVec 10) (pay : List Word) (x : Stream),
     s.blk.accepts h secure 0x11 seq pay = true →
     s.blk.cfgStream h = some x →
     x.complete = true →
     exec (.cfgCommit h secure seq pay) s = .next { s with blk := (((s.blk.closeStream h true x.id).modHip h fun y => { y with long := some ⟨0x11, secure, seq.toNat, false, 0, false, false, stOK, [wd x.id, wd x.len, wd x.arg] ++ pay ++ x.words⟩ }).reply h secure (header 0x11 pay.length seq.toNat)
        ([stPENDING])) }) ∧
  (∀ (s : State) (h : HalfId) (secure : Bool) (seq : BitVec 10) (pay : List Word) (x : Stream),
     s.blk.accepts h secure 0x11 seq pay = true →
     s.blk.cfgStream h = some x →
     x.complete = false →
     exec (.cfgCommit h secure seq pay) s = .next { s with blk := (((s.blk).modHip h fun y => { y with long := some ⟨0x11, secure, seq.toNat, false, 1, false, false, statusWord cCONFIG_INVALID rsINCOMPLETE 0, [1, 0, 0]⟩ }).reply h secure (header 0x11 pay.length seq.toNat)
        ([stPENDING])) }) ∧
  (∀ (s : State) (h : HalfId) (secure : Bool) (seq : BitVec 10) (pay : List Word) (x : Stream),
     s.blk.accepts h secure 0x12 seq pay = true →
     s.blk.cfgIsOpen h = true →
     (s.blk.half h).hip.long.all (fun c => c.code != 0x11 || c.arg != 0) = true →
     s.blk.cfgStream h = some x →
     exec (.cfgAbort h secure seq pay) s = .next { s with blk := (((s.blk.closeStream h true x.id).modHip h fun y => { y with cfg := if y.base.isEmpty then 0 else 2 }).reply h secure (header 0x12 pay.length seq.toNat)
        ([stOK])) }) ∧
  (∀ (s : State) (h : HalfId) (secure : Bool) (seq : BitVec 10) (pay : List Word),
     s.blk.accepts h secure 0x12 seq pay = true →
     s.blk.cfgIsOpen h = true →
     (s.blk.half h).hip.long.all (fun c => c.code != 0x11 || c.arg != 0) = true →
     s.blk.cfgStream h = none →
     exec (.cfgAbort h secure seq pay) s = .next { s with blk := ((s.blk.modHip h fun y => { y with cfg := if y.base.isEmpty then 0 else 2 }).reply h secure (header 0x12 pay.length seq.toNat)
        ([stOK])) }) ∧
  (∀ (s : State) (h : HalfId) (secure : Bool) (seq : BitVec 10) (pay : List Word),
     s.blk.accepts h secure 0x13 seq pay = true →
     exec (.cfgStatus h secure seq pay) s = .next { s with blk := ((s.blk).reply h secure (header 0x13 pay.length seq.toNat)
        ([stOK, wd (s.blk.half h).hip.cfgSeq, wd ((s.blk.half h).hip.cfgCrc / 2 ^ 24 * 2 ^ 8 + (s.blk.half h).hip.cfg), wd (s.blk.half h).hip.cfgCrc,
          wd (total (fun m => if (s.blk.half h).hip.overlays.any fun o => o.1 == m + 1 then 2 ^ m else 0) (List.range 15))])) }) ∧
  (∀ (s : State) (h : HalfId) (secure : Bool) (seq : BitVec 10) (pay : List Word),
     s.blk.accepts h secure 0x20 seq pay = true →
     s.blk.stream? h true (bits (pw pay 1) 23 20) = none →
     pw pay 2 ≤ 49152 →
     exec (.schedLoadBegin h secure seq pay) s = .next { s with blk := ((s.blk.openStream h ⟨bits (pw pay 1) 23 20, true, 0x20, pw pay 2, 0, [], 0⟩).reply h secure (header 0x20 pay.length seq.toNat)
        ([stOK])) }) ∧
  (∀ (s : State) (h : HalfId) (secure : Bool) (seq : BitVec 10) (pay : List Word) (x : Stream),
     s.blk.accepts h secure 0x21 seq pay = true →
     s.blk.stream? h true (bits (pw pay 1) 23 20) = some x →
     x.code = 0x20 →
     x.complete = true →
     exec (.schedLoadEnd h secure seq pay) s = .next { s with blk := (((s.blk.closeStream h true (bits (pw pay 1) 23 20)).modHip h fun y => { y with long := some ⟨0x21, secure, seq.toNat, false, 0, false, false, stOK, x.words⟩ }).reply h secure (header 0x21 pay.length seq.toNat)
        ([stPENDING])) }) ∧
  (∀ (s : State) (h : HalfId) (secure : Bool) (seq : BitVec 10) (pay : List Word) (x : Stream),
     s.blk.accepts h secure 0x21 seq pay = true →
     s.blk.stream? h true (bits (pw pay 1) 23 20) = some x →
     x.code = 0x20 →
     x.complete = false →
     exec (.schedLoadEnd h secure seq pay) s = .next { s with blk := ((s.blk).reply h secure (header 0x21 pay.length seq.toNat)
        ([statusWord cCONFIG_INVALID rsINCOMPLETE 1])) }) ∧
  (∀ (s : State) (h : HalfId) (secure : Bool) (seq : BitVec 10) (pay : List Word),
     s.blk.accepts h secure 0x22 seq pay = true →
     s.blk.phase h ≠ phSERVICE →
     s.blk.phase h ≠ phBOOT →
     s.blk.cfgIsOpen h = false →
     exec (.schedActivate h secure seq pay) s = .next { s with blk := (((s.blk).modHip h fun y => { y with long := some ⟨0x22, secure, seq.toNat, true, pw pay 1, false, false, stOK, []⟩ }).reply h secure (header 0x22 pay.length seq.toNat)
        ([stPENDING])) }) ∧
  (∀ (s : State) (h : HalfId) (secure : Bool) (seq : BitVec 10) (pay : List Word),
     s.blk.accepts h secure 0x22 seq pay = true →
     s.blk.phase h = phSERVICE →
     exec (.schedActivate h secure seq pay) s = .next { s with blk := ((s.blk).reply h secure (header 0x22 pay.length seq.toNat)
        ([statusWord cPHASE 0 0])) }) ∧
  (∀ (s : State) (h : HalfId) (secure : Bool) (seq : BitVec 10) (pay : List Word),
     s.blk.accepts h secure 0x23 seq pay = true →
     exec (.schedDeactivate h secure seq pay) s = .next { s with blk := ((Block.postDeactivation (Block.postDeactivation s.blk .a) .b).reply h secure (header 0x23 pay.length seq.toNat)
        ([stOK])) }) ∧
  (∀ (s : State) (h : HalfId) (secure : Bool) (seq : BitVec 10) (pay : List Word) (ws : List Word),
     s.blk.accepts h secure 0x24 seq pay = true →
     s.blk.inUse h = some ws →
     exec (.schedStatus h secure seq pay) s = .next { s with blk := ((s.blk).reply h secure (header 0x24 pay.length seq.toNat)
        ([stOK, wd (s.blk.half h).sched.active, wd (s.blk.f h F.ADM_STAT_SCHED * 2 ^ 23 + s.blk.f h F.ADM_STAT_CERT_OK * 2 ^ 22 + s.blk.mode h * 2 ^ 18)] ++
          (ws.drop 20).take 11 ++ [nth 0 ws 31])) }) ∧
  (∀ (s : State) (h : HalfId) (secure : Bool) (seq : BitVec 10) (pay : List Word),
     s.blk.accepts h secure 0x24 seq pay = true →
     s.blk.inUse h = none →
     ∃ ws : List Word, ws.length = 12 ∧ exec (.schedStatus h secure seq pay) s = .next { s with blk := (({ s.blk with fresh := s.blk.fresh + 12 }).reply h secure (header 0x24 pay.length seq.toNat)
        ([stOK, wd (s.blk.half h).sched.active, wd (s.blk.f h F.ADM_STAT_SCHED * 2 ^ 23 + s.blk.f h F.ADM_STAT_CERT_OK * 2 ^ 22 + s.blk.mode h * 2 ^ 18)] ++ ws)) }) ∧
  (∀ (s : State) (h : HalfId) (secure : Bool) (seq : BitVec 10) (pay : List Word) (l : List Image),
     s.blk.accepts h secure 0x25 seq pay = true →
     l = ((s.blk.half h).sched.store.drop (bits (pw pay 1) 4 0)).take 30 →
     exec (.schedList h secure seq pay) s = .next { s with blk := ((s.blk).reply h secure (header 0x25 pay.length seq.toNat)
        (stOK :: wd l.length :: l.flatMap fun i =>
          [wd i.setId, wd (i.mode * 2 ^ 20 + bitOf ((s.blk.half h).sched.active != 0 && (s.blk.half h).sched.active == i.setId) * 2 ^ 19 + i.words.length)])) }) ∧
  (∀ (s : State) (h : HalfId) (secure : Bool) (seq : BitVec 10) (pay : List Word),
     s.blk.accepts h secure 0x26 seq pay = true →
     (s.blk.half h).sched.store.any (fun i => (i.setId == pw pay 1 && (bits (pw pay 2) 19 19 == 1 || i.mode == bits (pw pay 2) 23 20))) = true →
     (s.blk.half h).sched.active ≠ pw pay 1 →
     exec (.schedDelete h secure seq pay) s = .next { s with blk := ((s.blk.modSched h fun y => { y with store := y.store.filter fun i => !(i.setId == pw pay 1 && (bits (pw pay 2) 19 19 == 1 || i.mode == bits (pw pay 2) 23 20)) }).reply h secure (header 0x26 pay.length seq.toNat)
        ([stOK])) }) ∧
  (∀ (s : State) (h : HalfId) (secure : Bool) (seq : BitVec 10) (pay : List Word),
     s.blk.accepts h secure 0x26 seq pay = true →
     (s.blk.half h).sched.store.any (fun i => (i.setId == pw pay 1 && (bits (pw pay 2) 19 19 == 1 || i.mode == bits (pw pay 2) 23 20))) = true →
     (s.blk.half h).sched.active = pw pay 1 →
     exec (.schedDelete h secure seq pay) s = .next { s with blk := ((s.blk).reply h secure (header 0x26 pay.length seq.toNat)
        ([statusWord cPHASE 0 0])) }) ∧
  (∀ (s : State) (h : HalfId) (secure : Bool) (seq : BitVec 10) (pay : List Word) (parity : BitVec 15),
     s.blk.accepts h secure 0x30 seq pay = true →
     exec (.evtSubmit h secure seq pay parity) s = .next { s with blk := (((submitAll h parity.toNat 0 pay s.blk).2).reply h secure (header 0x30 pay.length seq.toNat)
        (stOK :: (submitAll h parity.toNat 0 pay s.blk).1)) }) ∧
  (∀ (s : State) (h : HalfId) (secure : Bool) (seq : BitVec 10) (pay : List Word),
     s.blk.accepts h secure 0x31 seq pay = true →
     exec (.evtCancel h secure seq pay) s = .next { s with blk := (((cancelAll h pay s.blk).2).reply h secure (header 0x31 pay.length seq.toNat)
        (stOK :: (cancelAll h pay s.blk).1)) }) ∧
  (∀ (s : State) (h : HalfId) (secure : Bool) (seq : BitVec 10) (pay : List Word) (l : List Trim),
     s.blk.accepts h secure 0x32 seq pay = true →
     (s.blk.half h).sched.active ≠ 0 →
     trimPairs s.blk h (bits (pw pay 1) 23 20) 1 (s.blk.half h).sched.trims (pay.drop 1) = .inr l →
     exec (.trimSet h secure seq pay) s = .next { s with blk := (((s.blk.modSched h fun x => { x with trims := l }).relatch h).reply h secure (header 0x32 pay.length seq.toNat)
        ([stOK])) }) ∧
  (∀ (s : State) (h : HalfId) (secure : Bool) (seq : BitVec 10) (pay : List Word) (w : List Word),
     s.blk.accepts h secure 0x32 seq pay = true →
     (s.blk.half h).sched.active ≠ 0 →
     trimPairs s.blk h (bits (pw pay 1) 23 20) 1 (s.blk.half h).sched.trims (pay.drop 1) = .inl w →
     exec (.trimSet h secure seq pay) s = .next { s with blk := ((s.blk).reply h secure (header 0x32 pay.length seq.toNat)
        (w)) }) ∧
  (∀ (s : State) (h : HalfId) (secure : Bool) (seq : BitVec 10) (pay : List Word) (r : ERec) (t : Trim),
     s.blk.accepts h secure 0x33 seq pay = true →
     (s.blk.half h).sched.active ≠ 0 →
     s.blk.recordOf h (bits (pw pay 1) 23 20) (bits (pw pay 2) 21 16) (bits (pw pay 2) 9 0) = some r →
     r.trim = true →
     (s.blk.half h).sched.trims.find? (fun t => t.isFor (s.blk.half h).sched.active (bits (pw pay 1) 23 20) (bits (pw pay 2) 21 16) (bits (pw pay 2) 9 0)) = some t →
     exec (.trimRead h secure seq pay) s = .next { s with blk := ((s.blk).reply h secure (header 0x33 pay.length seq.toNat)
        ([stOK, pairWord t.hostP, pairWord t.hostA, pairWord t.anpA])) }) ∧
  (∀ (s : State) (h : HalfId) (secure : Bool) (seq : BitVec 10) (pay : List Word),
     s.blk.accepts h secure 0x34 seq pay = true →
     exec (.creditRead h secure seq pay) s = .next { s with blk := ((s.blk).reply h secure (header 0x34 pay.length seq.toNat)
        (stOK :: (List.range (pw pay 2)).map fun i => s.blk.viewWord .ADM_CRED h (pw pay 1 + i) 0)) }) ∧
  (∀ (s : State) (h : HalfId) (secure : Bool) (seq : BitVec 10) (pay : List Word),
     s.blk.accepts h secure 0x40 seq pay = true →
     s.blk.cfgIsOpen h = false →
     phaseMove (s.blk.phase h) (pw pay 1) = true →
     s.blk.phase h ≠ phHOLD →
     exec (.phaseSet h secure seq pay) s = .next { s with blk := ((s.blk.setPhase h (pw pay 1) 0).reply h secure (header 0x40 pay.length seq.toNat)
        ([stOK])) }) ∧
  (∀ (s : State) (h : HalfId) (secure : Bool) (seq : BitVec 10) (pay : List Word),
     s.blk.accepts h secure 0x40 seq pay = true →
     phaseMove (s.blk.phase h) (pw pay 1) = false →
     exec (.phaseSet h secure seq pay) s = .next { s with blk := ((s.blk).reply h secure (header 0x40 pay.length seq.toNat)
        ([statusWord cPHASE 0 0])) }) ∧
  (∀ (s : State) (h : HalfId) (secure : Bool) (seq : BitVec 10) (pay : List Word),
     s.blk.accepts h secure 0x41 seq pay = true →
     (s.blk.half h).hip.hasMode (pw pay 1) = true →
     exec (.modeSet h secure seq pay) s = .next { s with blk := ((((s.blk.setF h F.ADM_STAT_NEXTMODE (pw pay 1)).setF h F.ADM_STAT_MODEPEND (bitOf (pw pay 1 != s.blk.mode h))).send h
        (.nextMode (pw pay 1) (pw pay 1 != s.blk.mode h))).reply h secure (header 0x41 pay.length seq.toNat)
        ([stOK])) }) ∧
  (∀ (s : State) (h : HalfId) (secure : Bool) (seq : BitVec 10) (pay : List Word),
     s.blk.accepts h secure 0x10 seq pay = true →
     s.blk.cfgIsOpen h = true →
     exec (.cfgOpen h secure seq pay) s = .next { s with blk := ((s.blk).reply h secure (header 0x10 pay.length seq.toNat)
        ([statusWord cCONFIG_INVALID rsSTREAM 0])) }) ∧
  (∀ (s : State) (h : HalfId) (secure : Bool) (seq : BitVec 10) (pay : List Word),
     s.blk.accepts h secure 0x10 seq pay = true →
     s.blk.cfgIsOpen h = false →
     (s.blk.stream? h true (bits (pw pay 1) 23 20)).isSome = true →
     exec (.cfgOpen h secure seq pay) s = .next { s with blk := ((s.blk).reply h secure (header 0x10 pay.length seq.toNat)
        ([statusWord cCONFIG_INVALID rsSTREAM 1])) }) ∧
  (∀ (s : State) (h : HalfId) (secure : Bool) (seq : BitVec 10) (pay : List Word),
     s.blk.accepts h secure 0x10 seq pay = true →
     s.blk.cfgIsOpen h = false →
     (s.blk.stream? h true (bits (pw pay 1) 23 20)).isSome = false →
     (if bits (pw pay 1) 19 16 = 0 then 98304 else 2048) < pw pay 2 →
     exec (.cfgOpen h secure seq pay) s = .next { s with blk := ((s.blk).reply h secure (header 0x10 pay.length seq.toNat)
        ([statusWord cCONFIG_INVALID rsSTREAM 2])) }) ∧
  (∀ (s : State) (h : HalfId) (secure : Bool) (seq : BitVec 10) (pay : List Word) (c : LongCmd),
     s.blk.accepts h secure 0x12 seq pay = true →
     (s.blk.half h).hip.long = some c →
     c.code = 0x11 →
     c.arg = 0 →
     exec (.cfgAbort h secure seq pay) s = .next { s with blk := ((s.blk).reply h secure (header 0x12 pay.length seq.toNat)
        ([statusWord cCONFIG_INVALID rsSTREAM 0])) }) ∧
  (∀ (s : State) (h : HalfId) (secure : Bool) (seq : BitVec 10) (pay : List Word),
     s.blk.accepts h secure 0x11 seq pay = true →
     s.blk.cfgStream h = none →
     exec (.cfgCommit h secure seq pay) s = .next { s with blk := ((s.blk).reply h secure (header 0x11 pay.length seq.toNat)
        ([statusWord cCONFIG_INVALID rsSTREAM 0])) }) ∧
  (∀ (s : State) (h : HalfId) (secure : Bool) (seq : BitVec 10) (pay : List Word),
     s.blk.accepts h secure 0x12 seq pay = true →
     s.blk.cfgIsOpen h = false →
     exec (.cfgAbort h secure seq pay) s = .next { s with blk := ((s.blk).reply h secure (header 0x12 pay.length seq.toNat)
        ([statusWord cCONFIG_INVALID rsSTREAM 0])) }) ∧
  (∀ (s : State) (h : HalfId) (secure : Bool) (seq : BitVec 10) (pay : List Word),
     s.blk.accepts h secure 0x20 seq pay = true →
     (s.blk.stream? h true (bits (pw pay 1) 23 20)).isSome = true →
     exec (.schedLoadBegin h secure seq pay) s = .next { s with blk := ((s.blk).reply h secure (header 0x20 pay.length seq.toNat)
        ([statusWord cCONFIG_INVALID rsSTREAM 1])) }) ∧
  (∀ (s : State) (h : HalfId) (secure : Bool) (seq : BitVec 10) (pay : List Word),
     s.blk.accepts h secure 0x20 seq pay = true →
     (s.blk.stream? h true (bits (pw pay 1) 23 20)).isSome = false →
     49152 < pw pay 2 →
     exec (.schedLoadBegin h secure seq pay) s = .next { s with blk := ((s.blk).reply h secure (header 0x20 pay.length seq.toNat)
        ([statusWord cCONFIG_INVALID rsSTREAM 2])) }) ∧
  (∀ (s : State) (h : HalfId) (secure : Bool) (seq : BitVec 10) (pay : List Word),
     s.blk.accepts h secure 0x21 seq pay = true →
     (s.blk.stream? h true (bits (pw pay 1) 23 20)).map Stream.code ≠ some 0x20 →
     exec (.schedLoadEnd h secure seq pay) s = .next { s with blk := ((s.blk).reply h secure (header 0x21 pay.length seq.toNat)
        ([statusWord cCONFIG_INVALID rsSTREAM 1])) }) ∧
  (∀ (s : State) (h : HalfId) (secure : Bool) (seq : BitVec 10) (pay : List Word),
     s.blk.accepts h secure 0x22 seq pay = true →
     (s.blk.phase h = phBOOT ∨ s.blk.cfgIsOpen h = true) →
     exec (.schedActivate h secure seq pay) s = .next { s with blk := ((s.blk).reply h secure (header 0x22 pay.length seq.toNat)
        ([statusWord cPHASE 0 0])) }) ∧
  (∀ (s : State) (h : HalfId) (secure : Bool) (seq : BitVec 10) (pay : List Word),
     s.blk.accepts h secure 0x26 seq pay = true →
     (s.blk.half h).sched.store.any (fun i => i.setId == pw pay 1) = false →
     exec (.schedDelete h secure seq pay) s = .next { s with blk := ((s.blk).reply h secure (header 0x26 pay.length seq.toNat)
        ([statusWord cCONFIG_INVALID rsNOT_FOUND 1])) }) ∧
  (∀ (s : State) (h : HalfId) (secure : Bool) (seq : BitVec 10) (pay : List Word),
     s.blk.accepts h secure 0x26 seq pay = true →
     (s.blk.half h).sched.store.any (fun i => (i.setId == pw pay 1 && (bits (pw pay 2) 19 19 == 1 || i.mode == bits (pw pay 2) 23 20))) = false →
     (s.blk.half h).sched.store.any (fun i => i.setId == pw pay 1) = true →
     exec (.schedDelete h secure seq pay) s = .next { s with blk := ((s.blk).reply h secure (header 0x26 pay.length seq.toNat)
        ([statusWord cCONFIG_INVALID rsNOT_FOUND 2])) }) ∧
  (∀ (s : State) (h : HalfId) (secure : Bool) (seq : BitVec 10) (pay : List Word),
     s.blk.accepts h secure 0x32 seq pay = true →
     (s.blk.half h).sched.active = 0 →
     exec (.trimSet h secure seq pay) s = .next { s with blk := ((s.blk).reply h secure (header 0x32 pay.length seq.toNat)
        ([statusWord cPHASE 0 0])) }) ∧
  (∀ (s : State) (h : HalfId) (secure : Bool) (seq : BitVec 10) (pay : List Word),
     s.blk.accepts h secure 0x33 seq pay = true →
     (s.blk.half h).sched.active = 0 →
     exec (.trimRead h secure seq pay) s = .next { s with blk := ((s.blk).reply h secure (header 0x33 pay.length seq.toNat)
        ([statusWord cPHASE 0 0])) }) ∧
  (∀ (s : State) (h : HalfId) (secure : Bool) (seq : BitVec 10) (pay : List Word),
     s.blk.accepts h secure 0x33 seq pay = true →
     (s.blk.half h).sched.active ≠ 0 →
     s.blk.recordOf h (bits (pw pay 1) 23 20) (bits (pw pay 2) 21 16) (bits (pw pay 2) 9 0) = none →
     exec (.trimRead h secure seq pay) s = .next { s with blk := ((s.blk).reply h secure (header 0x33 pay.length seq.toNat)
        ([statusWord cCONFIG_INVALID rsNOT_FOUND 1])) }) ∧
  (∀ (s : State) (h : HalfId) (secure : Bool) (seq : BitVec 10) (pay : List Word) (r : ERec),
     s.blk.accepts h secure 0x33 seq pay = true →
     (s.blk.half h).sched.active ≠ 0 →
     s.blk.recordOf h (bits (pw pay 1) 23 20) (bits (pw pay 2) 21 16) (bits (pw pay 2) 9 0) = some r →
     r.trim = false →
     exec (.trimRead h secure seq pay) s = .next { s with blk := ((s.blk).reply h secure (header 0x33 pay.length seq.toNat)
        ([statusWord cCONFIG_INVALID rsNOT_TRIMMABLE 1])) }) ∧
  (∀ (s : State) (h : HalfId) (secure : Bool) (seq : BitVec 10) (pay : List Word),
     s.blk.accepts h secure 0x40 seq pay = true →
     s.blk.cfgIsOpen h = true →
     pw pay 1 ≠ phHOLD →
     exec (.phaseSet h secure seq pay) s = .next { s with blk := ((s.blk).reply h secure (header 0x40 pay.length seq.toNat)
        ([statusWord cPHASE 0 0])) }) ∧
  (∀ (s : State) (h : HalfId) (secure : Bool) (seq : BitVec 10) (pay : List Word),
     s.blk.accepts h secure 0x40 seq pay = true →
     s.blk.cfgIsOpen h = false →
     phaseMove (s.blk.phase h) (pw pay 1) = true →
     s.blk.phase h = phHOLD →
     s.blk.mayLeaveHold h = true →
     exec (.phaseSet h secure seq pay) s = .next { s with blk := ((s.blk.setPhase h (pw pay 1) 0).reply h secure (header 0x40 pay.length seq.toNat)
        ([stOK])) }) ∧
  (∀ (s : State) (h : HalfId) (secure : Bool) (seq : BitVec 10) (pay : List Word),
     s.blk.accepts h secure 0x40 seq pay = true →
     s.blk.cfgIsOpen h = false →
     phaseMove (s.blk.phase h) (pw pay 1) = true →
     s.blk.phase h = phHOLD →
     s.blk.mayLeaveHold h = false →
     exec (.phaseSet h secure seq pay) s = .next { s with blk := ((s.blk).reply h secure (header 0x40 pay.length seq.toNat)
        ([statusWord cCONFIG_INVALID 0 0])) }) ∧
  (∀ (s : State) (h : HalfId) (secure : Bool) (seq : BitVec 10) (pay : List Word),
     s.blk.accepts h secure 0x41 seq pay = true →
     (s.blk.half h).hip.hasMode (pw pay 1) = false →
     exec (.modeSet h secure seq pay) s = .next { s with blk := ((s.blk).reply h secure (header 0x41 pay.length seq.toNat)
        ([statusWord cCONFIG_INVALID rsNOT_FOUND 1])) })

/-- Register access, log, tally and firmware commands, and commands that are none. REG_READ reads and, in TEST only,
REG_WRITE writes consecutive registers as the HIP master; LOG_READ and TALLY_READ open an outgoing stream with their
words; FW_BEGIN and FW_END are for HOLD and TEST; FW_SELECT takes a verified slot; SECVER_SET and KEY_ADVANCE burn
their fuse when both slots verify; an unlisted code is refused UNKNOWN and a short payload TRUNCATED. What a row
judges itself and what its operands carry is the model's form; the model's choices in these rows are log entries 1,
11, 6, 20, 21, 38, 60, 65, 135, 136, 138. (Rules R331, R362, R371, R372, R431, R465, R490.) -/
def Obligations.RegisterAndFirmwareCommandsComplete : Prop :=
  (∀ (s : State) (h : HalfId) (secure : Bool) (seq : BitVec 10) (pay : List Word) (r : List Word × Bool × State),
     s.blk.accepts h secure 0x50 seq pay = true →
     r = State.readRun (s.blk.hipMaster h) (pw pay 2) (pw pay 1) s →
     exec (.regRead h secure seq pay) s =
        .next { r.2.2 with blk := r.2.2.blk.reply h secure (header 0x50 pay.length seq.toNat) (runStatus r.2.1 r.1.length :: r.1) }) ∧
  (∀ (s : State) (h : HalfId) (secure : Bool) (seq : BitVec 10) (pay : List Word) (r : Nat × Bool × State),
     s.blk.accepts h secure 0x51 seq pay = true →
     s.blk.phase h = phTEST →
     r = State.writeRun (s.blk.hipMaster h) (pw pay 1) (pay.drop 1) s →
     exec (.regWrite h secure seq pay) s =
        .next { r.2.2 with blk := r.2.2.blk.reply h secure (header 0x51 pay.length seq.toNat) [runStatus r.2.1 r.1] }) ∧
  (∀ (s : State) (h : HalfId) (secure : Bool) (seq : BitVec 10) (pay : List Word),
     s.blk.accepts h secure 0x51 seq pay = true →
     s.blk.phase h ≠ phTEST →
     exec (.regWrite h secure seq pay) s = .next { s with blk := ((s.blk).reply h secure (header 0x51 pay.length seq.toNat)
        ([statusWord cPHASE 0 0])) }) ∧
  (∀ (s : State) (h : HalfId) (secure : Bool) (seq : BitVec 10) (pay : List Word) (ws : List Word),
     s.blk.accepts h secure 0x60 seq pay = true →
     s.blk.stream? h false (bits (pw pay 1) 23 20) = none →
     ws = (List.range (pw pay 2)).flatMap (fun i => s.blk.logEntry h ((bits (pw pay 1) 7 0 + i) % 256)) →
     exec (.logRead h secure seq pay) s = .next { s with blk := (((s.blk.openStream h ⟨bits (pw pay 1) 23 20, false, 0x60, (ws).length, 0, [(0, ws)], 0⟩).modHip h fun y => { y with long := some ⟨0x60, secure, seq.toNat, false, (bits (pw pay 1) 23 20), false, false, stOK, [wd (ws).length]⟩ }).reply h secure (header 0x60 pay.length seq.toNat)
        ([stPENDING])) }) ∧
  (∀ (s : State) (h : HalfId) (secure : Bool) (seq : BitVec 10) (pay : List Word),
     s.blk.accepts h secure 0x61 seq pay = true →
     exec (.logClear h secure seq pay) s = .next { s with blk := (((((List.range 1024).foldl (fun t i => t.setW h .LOG_ENT 0 i) s.blk).setF h F.LOG_STAT_WPTR 0).setF h F.LOG_STAT_FULL 0).reply h secure (header 0x61 pay.length seq.toNat)
        ([stOK])) }) ∧
  (∀ (s : State) (h : HalfId) (secure : Bool) (seq : BitVec 10) (pay : List Word),
     s.blk.accepts h secure 0x62 seq pay = true →
     s.blk.stream? h false (bits (pw pay 1) 23 20) = none →
     exec (.tallyRead h secure seq pay) s = .next { s with blk := (((s.blk.openStream h ⟨bits (pw pay 1) 23 20, false, 0x62, ((tallyWords h s.blk)).length, 0, [(0, (tallyWords h s.blk))], 0⟩).modHip h fun y => { y with long := some ⟨0x62, secure, seq.toNat, false, (bits (pw pay 1) 23 20), false, false, stOK, [wd ((tallyWords h s.blk)).length]⟩ }).reply h secure (header 0x62 pay.length seq.toNat)
        ([stPENDING])) }) ∧
  (∀ (s : State) (h : HalfId) (secure : Bool) (seq : BitVec 10) (pay : List Word),
     s.blk.accepts h secure 0x70 seq pay = true →
     (s.blk.phase h = phHOLD ∨ s.blk.phase h = phTEST) →
     s.blk.stream? h true (bits (pw pay 1) 23 20) = none →
     pw pay 2 ≤ 196608 →
     exec (.fwBegin h secure seq pay) s = .next { s with blk := ((s.blk.openStream h ⟨bits (pw pay 1) 23 20, true, 0x70, pw pay 2, 0, [], 0⟩).reply h secure (header 0x70 pay.length seq.toNat)
        ([stOK])) }) ∧
  (∀ (s : State) (h : HalfId) (secure : Bool) (seq : BitVec 10) (pay : List Word) (x : Stream),
     s.blk.accepts h secure 0x71 seq pay = true →
     s.blk.stream? h true (bits (pw pay 1) 23 20) = some x →
     x.code = 0x70 →
     x.complete = true →
     exec (.fwEnd h secure seq pay) s = .next { s with blk := (((s.blk.closeStream h true (bits (pw pay 1) 23 20)).modHip h fun y => { y with long := some ⟨0x71, secure, seq.toNat, false, 0, false, false, stOK, x.words⟩ }).reply h secure (header 0x71 pay.length seq.toNat)
        ([stPENDING])) }) ∧
  (∀ (s : State) (h : HalfId) (secure : Bool) (seq : BitVec 10) (pay : List Word) (t : State),
     s.blk.accepts h secure 0x72 seq pay = true →
     (s.blk.phase h = phHOLD ∨ s.blk.phase h = phTEST) →
     (s.firm h).checked = true →
     t = s.setFirm h { s.firm h with active := 1 - (s.firm h).active } →
        exec (.fwSelect h secure seq pay) s = .next { t with blk := (t).blk.reply h secure (header 0x72 pay.length seq.toNat) [stOK] }) ∧
  (∀ (s : State) (h : HalfId) (secure : Bool) (seq : BitVec 10) (pay : List Word) (ok : Bool) (t : State),
     s.blk.accepts h secure 0x73 seq pay = true →
     ok = (decide ((s.fuse h).secver < pw pay 1) && [0, 1].all (fun i => fwGood (s.fuse h).keyPos (pw pay 1) ((s.firm h).slot i))) →
     t = s.setFuse h { s.fuse h with secver := pw pay 1 } →
     exec (.secverSet h secure seq pay) s = if ok then .next { t with blk := (t).blk.reply h secure (header 0x73 pay.length seq.toNat) [stOK] }
        else .next { s with blk := ((s).blk.reply h secure (header 0x73 pay.length seq.toNat) [statusWord cCONFIG_INVALID rsVERSION 1]) }) ∧
  (∀ (s : State) (h : HalfId) (secure : Bool) (seq : BitVec 10) (pay : List Word) (ok : Bool) (t : State),
     s.blk.accepts h secure 0x74 seq pay = true →
     ok = (decide ((s.fuse h).keyPos < 3) && [0, 1].all (fun i => Config.fwVerifies ((s.fuse h).keyPos + 1) ((s.firm h).slot i))) →
     t = s.setFuse h { s.fuse h with keyPos := (s.fuse h).keyPos + 1 } →
     exec (.keyAdvance h secure seq pay) s = if ok then .next { t with blk := (t).blk.reply h secure (header 0x74 pay.length seq.toNat) [stOK, wd ((s.fuse h).keyPos + 1)] }
        else .next { s with blk := ((s).blk.reply h secure (header 0x74 pay.length seq.toNat) [statusWord cCONFIG_INVALID rsVERSION 0]) }) ∧
  (∀ (s : State) (h : HalfId) (secure : Bool) (seq : BitVec 10) (pay : List Word),
     s.blk.accepts h secure 0x60 seq pay = true →
     (s.blk.stream? h false (bits (pw pay 1) 23 20)).isSome = true →
     exec (.logRead h secure seq pay) s = .next { s with blk := ((s.blk).reply h secure (header 0x60 pay.length seq.toNat)
        ([statusWord cCONFIG_INVALID rsSTREAM 1])) }) ∧
  (∀ (s : State) (h : HalfId) (secure : Bool) (seq : BitVec 10) (pay : List Word),
     s.blk.accepts h secure 0x62 seq pay = true →
     (s.blk.stream? h false (bits (pw pay 1) 23 20)).isSome = true →
     exec (.tallyRead h secure seq pay) s = .next { s with blk := ((s.blk).reply h secure (header 0x62 pay.length seq.toNat)
        ([statusWord cCONFIG_INVALID rsSTREAM 1])) }) ∧
  (∀ (s : State) (h : HalfId) (secure : Bool) (seq : BitVec 10) (pay : List Word),
     s.blk.accepts h secure 0x70 seq pay = true →
     (¬(s.blk.phase h = phHOLD ∨ s.blk.phase h = phTEST)) →
     exec (.fwBegin h secure seq pay) s = .next { s with blk := ((s.blk).reply h secure (header 0x70 pay.length seq.toNat)
        ([statusWord cPHASE 0 0])) }) ∧
  (∀ (s : State) (h : HalfId) (secure : Bool) (seq : BitVec 10) (pay : List Word),
     s.blk.accepts h secure 0x70 seq pay = true →
     (s.blk.phase h = phHOLD ∨ s.blk.phase h = phTEST) →
     (s.blk.stream? h true (bits (pw pay 1) 23 20)).isSome = true →
     exec (.fwBegin h secure seq pay) s = .next { s with blk := ((s.blk).reply h secure (header 0x70 pay.length seq.toNat)
        ([statusWord cCONFIG_INVALID rsSTREAM 1])) }) ∧
  (∀ (s : State) (h : HalfId) (secure : Bool) (seq : BitVec 10) (pay : List Word),
     s.blk.accepts h secure 0x70 seq pay = true →
     (s.blk.phase h = phHOLD ∨ s.blk.phase h = phTEST) →
     (s.blk.stream? h true (bits (pw pay 1) 23 20)).isSome = false →
     196608 < pw pay 2 →
     exec (.fwBegin h secure seq pay) s = .next { s with blk := ((s.blk).reply h secure (header 0x70 pay.length seq.toNat)
        ([statusWord cCONFIG_INVALID rsSTREAM 2])) }) ∧
  (∀ (s : State) (h : HalfId) (secure : Bool) (seq : BitVec 10) (pay : List Word),
     s.blk.accepts h secure 0x71 seq pay = true →
     (s.blk.stream? h true (bits (pw pay 1) 23 20)).map Stream.code ≠ some 0x70 →
     exec (.fwEnd h secure seq pay) s = .next { s with blk := ((s.blk).reply h secure (header 0x71 pay.length seq.toNat)
        ([statusWord cCONFIG_INVALID rsSTREAM 1])) }) ∧
  (∀ (s : State) (h : HalfId) (secure : Bool) (seq : BitVec 10) (pay : List Word) (x : Stream),
     s.blk.accepts h secure 0x71 seq pay = true →
     s.blk.stream? h true (bits (pw pay 1) 23 20) = some x →
     x.code = 0x70 →
     x.complete = false →
     exec (.fwEnd h secure seq pay) s = .next { s with blk := ((s.blk).reply h secure (header 0x71 pay.length seq.toNat)
        ([statusWord cCONFIG_INVALID rsINCOMPLETE 1])) }) ∧
  (∀ (s : State) (h : HalfId) (secure : Bool) (seq : BitVec 10) (pay : List Word),
     s.blk.accepts h secure 0x72 seq pay = true →
     (s.firm h).checked = true →
     (¬(s.blk.phase h = phHOLD ∨ s.blk.phase h = phTEST)) →
     exec (.fwSelect h secure seq pay) s = .next { s with blk := ((s.blk).reply h secure (header 0x72 pay.length seq.toNat)
        ([statusWord cPHASE 0 0])) }) ∧
  (∀ (s : State) (h : HalfId) (secure : Bool) (seq : BitVec 10) (pay : List Word),
     s.blk.accepts h secure 0x72 seq pay = true →
     (s.firm h).checked = false →
     exec (.fwSelect h secure seq pay) s = .next { s with blk := ((s.blk).reply h secure (header 0x72 pay.length seq.toNat)
        ([statusWord cCONFIG_INVALID rsNOT_FOUND 0])) }) ∧
  (∀ (s : State) (h : HalfId) (secure : Bool) (code : BitVec 7) (seq : BitVec 10) (pay : List Word),
     s.blk.hipActs h = true →
     (cmdForm code.toNat).isNone = true →
     pay.length ≤ 63 →
     s.blk.stored? h secure (header code.toNat pay.length seq.toNat) = none →
     exec (.commandUnknown h secure code seq pay) s = .next { s with blk := (s.blk.reply h secure (header code.toNat pay.length seq.toNat) [statusWord cCONFIG_INVALID rsUNKNOWN 0]) }) ∧
  (∀ (s : State) (h : HalfId) (secure : Bool) (hdr : Word) (pay : List Word) (b : Block),
     b = s.blk.setPart h secure [] →
     ((s.blk.half h).hip.pair secure).part = hdr :: pay →
     s.blk.hipActs h = true →
     bits hdr.toNat 23 23 = 0 →
     b.stored? h secure hdr = none →
     (match cmdForm (bits hdr.toNat 23 16) with | some f => f.counts (bits hdr.toNat 15 10) | none => false) = true →
     pay.length < bits hdr.toNat 15 10 →
     exec (.commandTruncated h secure hdr pay) s = .next { s with blk := (b.postReply h secure (replyWords hdr [statusWord cCONFIG_INVALID rsTRUNCATED 0])) }) ∧
  (∀ (s : State) (h : HalfId) (secure : Bool) (hdr : Word) (pay : List Word),
     ((s.blk.half h).hip.pair secure).part ≠ hdr :: pay →
     exec (.commandTruncated h secure hdr pay) s = .next s) ∧
  (∀ (s : State) (h : HalfId) (secure : Bool) (code : BitVec 7) (seq : BitVec 10) (pay : List Word),
     s.blk.hipActs h = false →
     exec (.commandUnknown h secure code seq pay) s = .next { s with blk := (if (cmdForm code.toNat).isSome then s.blk else s.blk.keepCommand h secure (header code.toNat pay.length seq.toNat) pay) })

/-- The end of a long command and the notices HIP sends. A finished long command leaves the half and its COMPLETION notice
carries code, pair, sequence number, status and result; once 15 records have gathered or the oldest is 20 µs old, and
no EVENT notice waits, records of the notice queue, at most 15, go into one EVENT notice, and otherwise nothing is
popped; the oldest waiting FAULT notice is sent with the number skipped. What a row judges itself and what its
operands carry is the model's form; the model's choices in these rows are log entries 1, 11, 57, 58, 63, 67, 138.
(Rules R367, R375, R434.) -/
def Obligations.CompletionAndNoticesComplete : Prop :=
  (∀ (s : State) (h : HalfId) (c : LongCmd) (t : State) (st : Word) (ws : List Word),
     s.blk.hipActs h = true →
     (s.blk.half h).hip.long = some c →
     s.longEnd h c = some (t, st, ws) →
     exec (.longCommandComplete h) s = .next { t with blk := ((t.blk.modHip h fun x => { x with long := none }).notice h 0xD0
        (wd (c.code * 2 ^ 16 + bitOf (!c.secure) * 2 ^ 15 + c.seq) :: st :: ws)).hipPost h 6 }) ∧
  (∀ (s : State) (h : HalfId) (c : LongCmd),
     s.blk.hipActs h = true →
     (s.blk.half h).hip.long = some c →
     c.helm = true →
     c.posted = false →
     (c.helmLost = true ∨ s.blk.holdsHelm h = false) →
     exec (.longCommandComplete h) s = .next { s with blk := (((s.blk.modHip h fun x => { x with long := none }).notice h 0xD0
        [wd (c.code * 2 ^ 16 + bitOf (!c.secure) * 2 ^ 15 + c.seq), statusWord cNOT_HELM 0 0]).hipPost h 6) }) ∧
  (∀ (s : State) (h : HalfId),
     s.blk.hipActs h = true →
     (s.blk.half h).batchDue = true →
     (s.blk.half h).hip.out6.any (fun n => n.code == 0xC3) = false →
     exec (.eventNoticeSend h) s = .next { s with blk := (((s.blk.modHalf h fun y => { y with evn := y.evn.drop 15 }).notice h 0xC3 (((s.blk.half h).evn.take 15).flatMap NRec.words)).hipPost h 6) }) ∧
  (∀ (s : State) (h : HalfId),
     (s.blk.hipActs h = false ∨ (s.blk.half h).batchDue = false ∨ (s.blk.half h).hip.out6.any (fun n => n.code == 0xC3) = true) →
     exec (.eventNoticeSend h) s = .next s) ∧
  (∀ (s : State) (h : HalfId),
     (s.blk.hipActs h = false ∨ (s.blk.half h).hip.faults = []) →
     exec (.faultNoticeSend h) s = .next s) ∧
  (∀ (s : State) (h : HalfId),
     (s.blk.hipActs h = false ∨ (s.blk.half h).hip.long = none) →
     exec (.longCommandComplete h) s = .next s) ∧
  (∀ (s : State) (h : HalfId) (d : FaultDue) (rest : List FaultDue) (b : Block),
     s.blk.hipActs h = true →
     (s.blk.half h).hip.faults = d :: rest →
     (b = (s.blk.modHip h fun x => { x with faults := rest, skipped := 0 }).notice h 0xC9
        (d.entry ++ [wd (bitOf d.peer * 2 ^ 23 + (s.blk.half h).hip.skipped * 2 ^ 15 + d.slot)])) →
     exec (.faultNoticeSend h) s = .next { s with blk := ((if d.wide = true ∧ b.linkUp (b.servedBy h).peer = true then
        b.modHip h fun x => { x with bootReport := x.bootReport ++ ((x.out6.getLast?).map Notice.post).getD [] } else b).hipPost h 6) })

/-- Power-on, resets and what each die keeps through them. Power-on leaves the reset state with the committed tally and
its repairs, and fails the timers and spares named; a supply, RESET_N, JTAG, REFCLK loss and a RESET command reset the
half or the module with their cause; a drive-die parity error is class 4 for the half that detects it; the module
stays reset until its release. What a row judges itself and what its operands carry is the model's form; the model's
choices in these rows are log entries 1, 11, 23, 44, 52, 74, 78, 80. (Rules R306, R428, R445, R448, R449, R462.) -/
def Obligations.ResetRowsComplete : Prop :=
  (∀ (s : State) (timers : List (Fin 16)) (spares : List (Fin 2)) (b : Block),
     (b = s.blk.aonReset.setF .a F.TMR_SPARE_SFAIL (total (fun i => if spares.any (fun j => j.val == i) then 2 ^ i else 0) [0, 1])) →
     exec (.aonPowerOn timers spares) s = .next { s with ram := [], blk := ((List.range 16).filter fun k => timers.any fun j => j.val == k).foldl Block.timerFails b }) ∧
  (∀ (s : State),
     exec (.supplyBelowThreshold 0) s = .next { s with blk := (s.blk.resetHalf .a 2) } ∧
        exec (.supplyBelowThreshold 1) s = .next { s with blk := (s.blk.resetHalf .b 2) } ∧
        exec (.supplyBelowThreshold 2) s = .next { s with blk := (((s.blk.resetHalf .a 2).resetHalf .b 2).resetDrv) }) ∧
  (∀ (s : State),
     exec .resetNLow s = .next { s with blk := (((s.blk.resetHalf .a 3).resetHalf .b 3).resetDrv) }) ∧
  (∀ (s : State) (h : HalfId),
     exec (.jtagReset h) s = .next { s with blk := (s.blk.resetHalf h 0x0B) }) ∧
  (∀ (s : State) (b : Block),
     (s.blk.rung .a < 4 ∨ s.blk.rung .b < 4) →
     s.blk.ha.live = true →
     s.blk.hb.live = true →
     b = (s.blk.report .a cOK 0 26 127 0x301).report .b cOK 0 26 127 0x301 →
     exec .refclkLoss s = .next { s with blk := ((b.resetHalf .a 0x0A).resetHalf .b 0x0A) }) ∧
  (∀ (s : State) (b : Block),
     (s.blk.rung .a < 4 ∨ s.blk.rung .b < 4) →
     (b = [HalfId.a, HalfId.b].foldl (fun t h => if (t.half h).live then t.report h cOK 0 26 127 0x301 else t) s.blk) →
     exec .refclkLoss s = .next { s with blk := ((b.resetHalf .a 0x0A).resetHalf .b 0x0A) }) ∧
  (∀ (s : State),
     4 ≤ s.blk.rung .a →
     4 ≤ s.blk.rung .b →
     exec .refclkLoss s = .next s) ∧
  (∀ (s : State) (h : HalfId),
     (s.blk.half h).hip.resetIn = some false →
     exec (.halfReset h) s = .next { s with blk := (s.blk.resetHalf h 4) }) ∧
  (∀ (s : State) (h : HalfId),
     (s.blk.half h).hip.resetIn = some true →
     exec (.halfReset h) s = .next { s with blk := (((s.blk.resetHalf .a 5).resetHalf .b 5).resetDrv) }) ∧
  (∀ (s : State) (h : HalfId),
     (s.blk.half h).hip.resetIn = none →
     exec (.halfReset h) s = .next s) ∧
  (∀ (s : State) (h : HalfId),
     (s.blk.half h).live = false →
     exec (.driveDieParityError h) s = .next s) ∧
  (∀ (s : State) (h : HalfId),
     (s.blk.half h).live = true →
     exec (.driveDieParityError h) s = .next { s with blk := (s.blk.fatalAs h 8 4 cOK 27 127 (bits (s.blk.w .a .DRV_STAT).toNat 23 20) true) })

/-- Release from reset, PLL lock, firmware, self-test and standalone start. A released half is live with its straps; a PLL
locks, and with HLCLK the host link trains; a lost SYSCLK or ANGCLK is class 3, a lost ADCCLK or HLCLK a class 1
report, ADCCLK starts the certificate recheck, and HLCLK takes the link down; an image that verifies starts with a
BOOT notice and HIP with the commands that wait, else the half stays in BOOT; with the timestamp difference measured,
or after the wait for the peer, BOOT ends in HOLD; AONCLK more than 5 % off is class 4; a standalone start with a bad
directory is a class 1 report. What a row judges itself and what its operands carry is the model's form; the model's
choices in these rows are log entries 1, 11, 6, 23, 44, 57, 71, 74, 78, 80, 81, 136, 138. (Rules R331, R413, R414,
R445, R446, R447, R450, R451, R452.) -/
def Obligations.StartRowsComplete : Prop :=
  (∀ (s : State) (h : HalfId) (helmpre : Bool) (sa : Bool) (b : Block),
     (s.blk.half h).live = false →
     s.blk.rung h = 0 →
     (b = (((s.blk.modHalf h fun x => { x with live := true, hip := { x.hip with standalone := sa && h == .a } }).setF h F.HLM_STAT_PREF (bitOf (helmpre == (h == .b)))).setF h F.CRP_STAT_REFOK 1).modHl h fun y => { y with straps := (helmpre, sa) }) →
     (b.holdsHelm h.peer && (b.half h.peer).live) = false →
     exec (.resetRelease h helmpre sa) s = .next { s with blk := ((b.setF .a F.PWR_STRAP_HELMPRE (bitOf helmpre)).setF .a F.PWR_STRAP_SASTART (bitOf sa)) }) ∧
  (∀ (s : State) (h : HalfId) (helmpre : Bool) (sa : Bool) (b : Block),
     (s.blk.half h).live = false →
     s.blk.rung h = 0 →
     (b = (((s.blk.modHalf h fun x => { x with live := true, hip := { x.hip with standalone := sa && h == .a } }).setF h F.HLM_STAT_PREF (bitOf (helmpre == (h == .b)))).setF h F.CRP_STAT_REFOK 1).modHl h fun y => { y with straps := (helmpre, sa) }) →
     (b.holdsHelm h.peer && (b.half h.peer).live) = true →
     exec (.resetRelease h helmpre sa) s = .next { s with blk := (b) }) ∧
  (∀ (s : State) (h : HalfId) (helmpre : Bool) (sa : Bool),
     ((s.blk.half h).live = true ∨ s.blk.rung h ≠ 0) →
     exec (.resetRelease h helmpre sa) s = .next s) ∧
  (∀ (s : State) (h : HalfId),
     (s.blk.half h).live = true →
     (s.blk.rung h < 2 ∨ (s.blk.half h).pwr.waking ≠ none) →
     exec (.pllLock h 0) s = .next { s with blk := (s.blk.setF h F.CRP_STAT_SYSLOCK 1) } ∧
        exec (.pllLock h 1) s = .next { s with blk := (s.blk.setF h F.CRP_STAT_ANGLOCK 1) } ∧
        exec (.pllLock h 2) s = .next { s with blk := (s.blk.setF h F.CRP_STAT_ADCLOCK 1) }) ∧
  (∀ (s : State) (h : HalfId),
     (s.blk.half h).live = true →
     (s.blk.rung h < 2 ∨ (s.blk.half h).pwr.waking ≠ none) →
     s.blk.f h F.QHL_STAT_STATE = lkDOWN →
     exec (.pllLock h 3) s = .next { s with blk := ((s.blk.setF h F.CRP_STAT_HLLOCK 1).setF h F.QHL_STAT_STATE lkTRAIN) }) ∧
  (∀ (s : State) (h : HalfId),
     (s.blk.half h).live = true →
     (s.blk.rung h < 2 ∨ (s.blk.half h).pwr.waking ≠ none) →
     s.blk.f h F.QHL_STAT_STATE ≠ lkDOWN →
     exec (.pllLock h 3) s = .next { s with blk := (s.blk.setF h F.CRP_STAT_HLLOCK 1) }) ∧
  (∀ (s : State) (h : HalfId) (i : Fin 4),
     ((s.blk.half h).live = false ∨ (2 ≤ s.blk.rung h ∧ (s.blk.half h).pwr.waking = none)) →
     exec (.pllLock h i) s = .next s) ∧
  (∀ (s : State) (h : HalfId) (i : Fin 4),
     s.blk.on h (lockFld i) = false →
     exec (.pllLockLoss h i) s = .next s) ∧
  (∀ (s : State) (h : HalfId) (i : Fin 4),
     s.blk.on h (lockFld i) = true →
     i.val < 2 →
     exec (.pllLockLoss h i) s = .next { s with blk := (s.blk.fatalAs h 6 3 cOK 26 127 (0x302 + i) false) }) ∧
  (∀ (s : State) (h : HalfId),
     s.blk.on h F.CRP_STAT_ADCLOCK = true →
     exec (.pllLockLoss h 2) s = .next { s with blk := (((s.blk.setF h F.CRP_STAT_ADCLOCK 0).report h cOK 1 26 127 0x304).modHalf h fun x => { x with sched := { x.sched with lossDue := true } }) }) ∧
  (∀ (s : State) (h : HalfId),
     s.blk.on h F.CRP_STAT_HLLOCK = true →
     exec (.pllLockLoss h 3) s = .next { s with blk := (((s.blk.setF h F.CRP_STAT_HLLOCK 0).report h cOK 1 26 127 0x305).linkFalls h lkTRAIN) }) ∧
  (∀ (s : State) (h : HalfId) (cause : Nat) (r : Option (Nat × Nat)) (b : Block),
     (s.blk.half h).live = true →
     s.blk.phase h = phBOOT →
     (s.blk.half h).hip.running = false →
     s.blk.allLocked h = true →
     cause = s.blk.f h F.CRP_STAT_RCAUSE →
     r = bootSlot (s.fuse h) (s.firm h) →
     (b = (match r with
        | some (i, res) => s.blk.modHalf h fun y => { y with hip := { y.hip with running := true } }.addNotice 0xC0 [wd (res * 2 ^ 16 + i * 2 ^ 15), Config.fwVersion ((s.firm h).slot i), wd cause]
        | none => s.blk.modHalf h fun y => { y.addNotice 0xC0 [wd (2 * 2 ^ 16 + (s.firm h).active * 2 ^ 15), 0, wd cause] with
            hip := { (y.addNotice 0xC0 [wd (2 * 2 ^ 16 + (s.firm h).active * 2 ^ 15), 0, wd cause]).hip with
              bootReport := (((y.addNotice 0xC0 [wd (2 * 2 ^ 16 + (s.firm h).active * 2 ^ 15), 0, wd cause]).hip.out6.getLast?).map Notice.post).getD [] } })) →
     exec (.firmwareVerify h) s = .next (match r with
          | some (i, _) => (({ s with blk := ((if causeLogged cause then b else b.report h cOK 0 26 127 cause).hipPost h 6) }).setFirm h { s.firm h with started := i }).runWaiting h
          | none => { s with blk := (b.hipPost h 6) })) ∧
  (∀ (s : State) (h : HalfId),
     ((s.blk.half h).live = false ∨ s.blk.phase h ≠ phBOOT ∨ (s.blk.half h).hip.running = true ∨ s.blk.allLocked h = false) →
     exec (.firmwareVerify h) s = .next s) ∧
  (∀ (s : State) (h : HalfId) (x : SelfTest),
     (s.blk.booting h = false ∨ s.blk.on h F.TSC_XSTAT_VALID = false) →
     exec (.bootSelfTestComplete h x) s = .next s) ∧
  (∀ (s : State) (h : HalfId) (x : SelfTest),
     (s.blk.booting h = false ∨ s.blk.on h F.HLM_STAT_PEERFW = true ∨ s.blk.on h F.TSC_XSTAT_VALID = true) →
     exec (.bootPeerWaitTimeout h x) s = .next s) ∧
  (∀ (s : State) (h : HalfId) (x : SelfTest),
     s.blk.booting h = true →
     s.blk.on h F.HLM_STAT_PEERFW = false →
     s.blk.on h F.TSC_XSTAT_VALID = false →
     exec (.bootPeerWaitTimeout h x) s = .next { s with blk := (((s.blk.restoreStages h).selfTest h x).setPhase h phHOLD 1) }) ∧
  (∀ (s : State) (h : HalfId) (x : SelfTest),
     s.blk.booting h = true →
     s.blk.on h F.TSC_XSTAT_VALID = true →
     exec (.bootSelfTestComplete h x) s = .next { s with blk := (((s.blk.restoreStages h).selfTest h x).setPhase h phHOLD 1) }) ∧
  (∀ (s : State) (flash : List (BitVec 8)),
     s.blk.saRuns .a = true →
     s.blk.hipActs .a = true →
     saDirOk (flashWords flash) = false →
     exec (.standaloneStart flash) s = .next { s with blk := ((s.blk.modHip .a fun x => { x with standalone := false }).reportAs true .a cCONFIG_INVALID 1 23 127 255) }) ∧
  (∀ (s : State) (flash : List (BitVec 8)) (r : State × Option (Nat × Nat × Nat)) (b : Block),
     s.blk.saRuns .a = true →
     s.blk.hipActs .a = true →
     r = s.saRun (flashWords flash) →
     b = r.1.blk.modHip .a (fun x => { x with standalone := false }) →
     exec (.standaloneStart flash) s = .next { r.1 with blk := (match r.2 with
        | some (e, order, code) => b.reportAs true .a code 1 23 127 (order % 256 * 256 + e)
        | none => b) }) ∧
  (∀ (s : State) (flash : List (BitVec 8)),
     (s.blk.saRuns .a = false ∨ s.blk.hipActs .a = false) →
     exec (.standaloneStart flash) s = .next s) ∧
  (∀ (s : State) (err : BitVec 16),
     ((s.blk.half .a).live && s.blk.holdsHelm .a && s.blk.rung .a == 0) = false →
     ((s.blk.half .b).live && s.blk.holdsHelm .b && s.blk.rung .b == 0) = false →
     exec (.aonclkMeasure err) s = .next s) ∧
  (∀ (s : State) (err : BitVec 16) (h : HalfId),
     (s.blk.half h).live = true →
     s.blk.holdsHelm h = true →
     s.blk.rung h = 0 →
     s.blk.holdsHelm h.peer = false →
     err.toInt.natAbs ≤ 500 →
     exec (.aonclkMeasure err) s = .next { s with blk := (s.blk.setW .a .AON_FREQ (wd err.toNat)) }) ∧
  (∀ (s : State) (err : BitVec 16) (h : HalfId),
     (s.blk.half h).live = true →
     s.blk.holdsHelm h = true →
     s.blk.rung h = 0 →
     s.blk.holdsHelm h.peer = false →
     500 < err.toInt.natAbs →
     exec (.aonclkMeasure err) s = .next { s with blk := ((s.blk.setW .a .AON_FREQ (wd err.toNat)).fatalAs h 8 4 cOK 26 127 0x306 false) })

/-- The ladder: descent, wake, KEY_IN and the drive die's power. While the descent conditions hold the half goes one rung
down, with its log entry at the first step, a wake event of the last step's AONCLK served from the new rung, the tally
committed before Kiln and its SRAM lost in Store; KEY_IN at its active level and enough edges on an enabled wake land
wake both halves; a wake that completes puts the half at Run, logs its source and runs the commands that wait; DRV at
power-up takes its reset values. What a row judges itself and what its operands carry is the model's form; the model's
choices in these rows are log entries 1, 11, 17, 77, 78, 79, 80, 136. (Rules R439, R440, R441, R442, R443, R444.) -/
def Obligations.LadderRowsComplete : Prop :=
  (∀ (s : State) (h : HalfId) (b : Block),
     s.blk.mayDescend h = true →
     s.blk.rung h < s.blk.f .a (targetFld h) →
     s.blk.lateWake h = none →
     s.blk.rung h = 0 →
     b = s.blk.report h cOK 0 26 127 (256 + s.blk.f .a (targetFld h)) →
     exec (.ladderDescent h) s = .next { s with blk := (((((b.setF .a (rungFld h) 1).setF h F.CRP_LADDER_DEEPEST 1).modPwr h fun x => { x with going := decide (1 < s.blk.f .a (targetFld h)) }).drvFollow)) }) ∧
  (∀ (s : State) (h : HalfId),
     s.blk.mayDescend h = true →
     s.blk.rung h < s.blk.f .a (targetFld h) →
     s.blk.lateWake h = none →
     s.blk.rung h = 1 →
     exec (.ladderDescent h) s = .next { s with blk := ((((((s.blk.setF .a (rungFld h) 2).enterRung h 2).setF h F.CRP_LADDER_DEEPEST 2).modPwr h fun x => { x with going := decide (2 < s.blk.f .a (targetFld h)) }).drvFollow)) }) ∧
  (∀ (s : State) (h : HalfId),
     s.blk.mayDescend h = true →
     s.blk.rung h < s.blk.f .a (targetFld h) →
     s.blk.lateWake h = none →
     s.blk.rung h = 2 →
     exec (.ladderDescent h) s = .next { s with blk := (((((s.blk.setF .a (rungFld h) 3).setF h F.CRP_LADDER_DEEPEST 3).modPwr h fun x => { x with going := decide (3 < s.blk.f .a (targetFld h)) }).drvFollow)) }) ∧
  (∀ (s : State) (h : HalfId),
     s.blk.mayDescend h = true →
     s.blk.rung h < s.blk.f .a (targetFld h) →
     s.blk.lateWake h = none →
     s.blk.rung h = 3 →
     exec (.ladderDescent h) s = .next { s with blk := ((((((((s.blk.tallyCommit h 0).setF .a (rungFld h) 4).enterRung h 4)).setF h F.CRP_LADDER_DEEPEST 4).modPwr h fun x => { x with going := decide (4 < s.blk.f .a (targetFld h)) }).drvFollow)) }) ∧
  (∀ (s : State) (h : HalfId),
     s.blk.mayDescend h = true →
     s.blk.rung h < s.blk.f .a (targetFld h) →
     s.blk.lateWake h = none →
     s.blk.rung h = 4 →
     exec (.ladderDescent h) s = .next { s with ram := dropSram h s.ram, blk := (((((s.blk.setF .a (rungFld h) 5).enterStore h).setF h F.CRP_LADDER_DEEPEST 5).modPwr h fun x => { x with going := decide (5 < s.blk.f .a (targetFld h)) }).drvFollow) }) ∧
  (∀ (s : State) (h : HalfId) (bit : Nat) (deepest : Nat) (b : Block),
     s.blk.mayDescend h = true →
     s.blk.rung h < s.blk.f .a (targetFld h) →
     s.blk.lateWake h = some (bit, deepest) →
     s.blk.rung h = 1 →
     (b = (((s.blk.setF .a (rungFld h) 2).enterRung h 2).setF h F.CRP_LADDER_DEEPEST 2).modPwr h fun x => { x with going := decide (2 < s.blk.f .a (targetFld h)) }) →
     exec (.ladderDescent h) s = .next { s with blk := (((b.wakeHalf h bit deepest).drvFollow)) }) ∧
  (∀ (s : State) (h : HalfId),
     s.blk.mayDescend h = true →
     s.blk.f .a (targetFld h) ≤ s.blk.rung h →
     exec (.ladderDescent h) s = .next { s with blk := (s.blk.modPwr h fun x => { x with going := false }) }) ∧
  (∀ (s : State) (h : HalfId),
     s.blk.mayDescend h = false →
     (s.blk.half h).pwr.going = true →
     exec (.ladderDescent h) s = .next { s with blk := (s.blk.modPwr h fun x => { x with waking := x.waking.or (some 31), going := false }) }) ∧
  (∀ (s : State) (h : HalfId),
     s.blk.mayDescend h = false →
     (s.blk.half h).pwr.going = false →
     exec (.ladderDescent h) s = .next s) ∧
  (∀ (s : State) (level : Bool),
     level = s.blk.on .a F.WAKE_CFG_KEYPOL →
     exec (.keyInChange level) s = .next { s with blk := ({ s.blk with keyIn := level }) }) ∧
  (∀ (s : State) (level : Bool),
     level ≠ s.blk.on .a F.WAKE_CFG_KEYPOL →
     s.blk.on .a F.WAKE_CFG_KEYEN = true →
     exec (.keyInChange level) s = .next { s with blk := (({ s.blk with keyIn := level }.wakeHalf .a 0 5).wakeHalf .b 0 5) }) ∧
  (∀ (s : State) (level : Bool),
     s.blk.on .a F.WAKE_CFG_KEYEN = false →
     exec (.keyInChange level) s = .next { s with blk := ({ s.blk with keyIn := level }) }) ∧
  (∀ (s : State) (n : Fin 6) (edges : BitVec 8),
     (bits (s.blk.f .a F.WAKE_CFG_CRKCAM) (5 - n) (5 - n) = 0 ∨ edges.toNat < s.blk.f .a F.WAKE_TH_CNT ∨ edges = 0) →
     exec (.wakeEdgeCount n edges) s = .next s) ∧
  (∀ (s : State) (n : Fin 6) (edges : BitVec 8),
     bits (s.blk.f .a F.WAKE_CFG_CRKCAM) (5 - n) (5 - n) = 1 →
     s.blk.f .a F.WAKE_TH_CNT ≤ edges.toNat →
     edges ≠ 0 →
     exec (.wakeEdgeCount n edges) s = .next { s with blk := ((s.blk.wakeHalf .a (1 + n) 5).wakeHalf .b (1 + n) 5) }) ∧
  (∀ (s : State) (h : HalfId) (bit : Nat),
     (s.blk.half h).pwr.waking = some bit →
     s.blk.rung h = 1 →
     exec (.ladderWakeComplete h) s = .next (State.runWaiting { s with blk := (((((s.blk.setF .a (rungFld h) 0).modPwr h fun _ => Pwr.run).drvFollow).setF h F.CRP_LADDER_WSRC bit).report h cOK 0 26 127 (512 + bit)) } h)) ∧
  (∀ (s : State) (h : HalfId) (bit : Nat),
     (s.blk.half h).pwr.waking = some bit →
     s.blk.rung h = 5 →
     exec (.ladderWakeComplete h) s = .next (State.runWaiting { s with blk := (((((s.blk.setF .a (rungFld h) 0).modPwr h fun _ => Pwr.run).drvFollow).setF h F.CRP_LADDER_WSRC bit).report h cOK 0 26 127 (512 + bit)) } h)) ∧
  (∀ (s : State) (h : HalfId) (bit : Nat) (r : Nat) (b : Block),
     (s.blk.half h).pwr.waking = some bit →
     r = s.blk.rung h →
     2 ≤ r →
     r ≤ 4 →
     s.blk.allLocked h = true →
     (b = (((s.blk.setF .a (rungFld h) 0).modPwr h fun _ => Pwr.run).drvFollow).resumes h r) →
     exec (.ladderWakeComplete h) s = .next (State.runWaiting { s with blk := ((b.setF h F.CRP_LADDER_WSRC bit).report h cOK 0 26 127 (512 + bit)) } h)) ∧
  (∀ (s : State) (h : HalfId),
     ((s.blk.half h).pwr.waking = none ∨ s.blk.rung h = 0 ∨ (2 ≤ s.blk.rung h ∧ s.blk.rung h ≤ 4 ∧ s.blk.allLocked h = false)) →
     exec (.ladderWakeComplete h) s = .next s) ∧
  (∀ (s : State),
     (s.blk.f .a F.PWR_STAT_DRV ≠ 2 ∨ s.blk.drvWanted = 2) →
     exec .drvPowerUp s = .next s) ∧
  (∀ (s : State) (b : Block),
     s.blk.f .a F.PWR_STAT_DRV = 2 →
     s.blk.drvWanted ≠ 2 →
     b = { s.blk with regs := s.blk.regs.filter (fun x => !(decide (0x800000 ≤ x.1) && decide (x.1 < 0x900000))), fe := List.replicate 6 ⟨false, 0, 0⟩, bhs := List.replicate 12 ⟨none, none, false⟩, chop := List.replicate 24 Chop.idle, segDue := [true, true] } →
     exec .drvPowerUp s = .next { s with blk := (b.setF .a F.PWR_STAT_DRV b.drvWanted) })

/-- Thermal samples, the commit of the tally and its latched reads. A sample raises the recorded peak, counts a thermal
cycle when the swing of DT completes sends the wear notices and shows the junction in DRV_TEMP, with OTW (a free bit
within 5 °C of 150 °C, log entry 131); a commit stores the live values and clears the increments; a read of word 1 or
4 of a wear record latches its word 2 or 5. What a row judges itself and what its operands carry is the model's form;
the model's choices in these rows are log entries 1, 11, 79, 80, 88, 131. (Rules R460, R461, R462, R465.) -/
def Obligations.TallyRowsComplete : Prop :=
  (∀ (s : State) (h : HalfId) (r : Fin 22) (t : BitVec 8) (uj : Word),
     (s.blk.wear h r).risen = true →
     t.toNat + s.blk.f h F.TAL_POL_DT ≤ (s.blk.wear h r).high →
     exec (.thermalSample h r t uj) s = .next { s with blk := (((s.blk.modWear h r fun w =>
        { w with en := w.en + uj.toNat, peak := (if w.peak < t.toNat then t.toNat else w.peak), tc := w.tc + 1, risen := false, low := t.toNat, high := t.toNat }).wearNotices h r).junctionRead h r t.toNat) }) ∧
  (∀ (s : State) (h : HalfId) (r : Fin 22) (t : BitVec 8) (uj : Word),
     (s.blk.wear h r).risen = true →
     (s.blk.wear h r).high < t.toNat + s.blk.f h F.TAL_POL_DT →
     exec (.thermalSample h r t uj) s = .next { s with blk := (((s.blk.modWear h r fun w =>
        { w with en := w.en + uj.toNat, peak := (if w.peak < t.toNat then t.toNat else w.peak), high := if w.high < t.toNat then t.toNat else w.high }).wearNotices h r).junctionRead h r t.toNat) }) ∧
  (∀ (s : State) (h : HalfId) (r : Fin 22) (t : BitVec 8) (uj : Word),
     (s.blk.wear h r).risen = false →
     t.toNat < (s.blk.wear h r).low →
     exec (.thermalSample h r t uj) s = .next { s with blk := (((s.blk.modWear h r fun w =>
        { w with en := w.en + uj.toNat, peak := (if w.peak < t.toNat then t.toNat else w.peak), low := t.toNat, high := t.toNat }).wearNotices h r).junctionRead h r t.toNat) }) ∧
  (∀ (s : State) (h : HalfId) (r : Fin 22) (t : BitVec 8) (uj : Word),
     (s.blk.wear h r).risen = false →
     (s.blk.wear h r).low ≤ t.toNat →
     exec (.thermalSample h r t uj) s = .next { s with blk := (((s.blk.modWear h r fun w =>
        { w with en := w.en + uj.toNat, peak := (if w.peak < t.toNat then t.toNat else w.peak), high := t.toNat, risen := decide (w.low + s.blk.f h F.TAL_POL_DT ≤ t.toNat) }).wearNotices h r).junctionRead h r t.toNat) }) ∧
  (∀ (s : State) (h : HalfId) (steps : BitVec 8),
     s.blk.fwRuns h = true →
     s.blk.powered .TAL_CMD h = true →
     exec (.tallyCommit h steps) s = .next { s with blk := ({ s.blk.tallyCommit h steps.toNat with busErr := false }) }) ∧
  (∀ (s : State) (h : HalfId) (steps : BitVec 8),
     s.blk.fwRuns h = false →
     s.blk.powered .TAL_CMD h = true →
     exec (.tallyCommit h steps) s = .next { s with blk := ({ s.blk with busErr := false }) }) ∧
  (∀ (s : State) (h : HalfId) (r : Fin 22) (energy : Bool) (l : Option Word × Option Word),
     l = nth (none, none) (s.blk.half h).tal.latch r →
     s.blk.powered .TAL_W1 h = true →
     exec (.tallyWordRead h r energy) s = .next { s with blk := ({ s.blk.modTal h (fun x => { x with latch := x.latch.set r (if energy then (l.1, some (wd (s.blk.joules h r / 2 ^ 24))) else (some (wd (s.blk.swCount h r / 2 ^ 24)), l.2)) }) with
        busErr := false, busData := s.blk.wearWord h r (if energy then 4 else 1) }) })

/-- Every step keeps RAM canonical and the key position legal. From every state whose RAM is in its canonical form and
whose key positions are among the four, a step that answers a next state answers one of which the same holds. (Rules
R372, R44.) -/
def Obligations.StepKeepsSound : Prop :=
  ∀ s t : State, s.Sound → step s = .next t → t.Sound

/-- SECVER_SET and KEY_ADVANCE succeed only as rule R372 lets them, and nothing turns them back. SECVER_SET raises the
minimum only where both slots verify and carry a security version at or above the new value, which lies above the
present minimum, and KEY_ADVANCE moves to the next of four positions only where both slots verify with its key;
otherwise each is refused with VERSION and leaves one-time-programmable memory as it was. No step lowers a minimum or
a key position. (Rules R372.) -/
def Obligations.OtpIsIrreversible : Prop :=
  (∀ (s : State) (h : HalfId) (secure : Bool) (seq : BitVec 10) (pay : List Word) (ok : Bool),
    s.blk.accepts h secure 0x73 seq pay = true →
    ok = (decide ((s.fuse h).secver < pw pay 1) && [0, 1].all (fun i => fwGood (s.fuse h).keyPos (pw pay 1) ((s.firm h).slot i))) →
    ∃ t, exec (.secverSet h secure seq pay) s = .next t ∧
      t.fuse h = (if ok then { s.fuse h with secver := pw pay 1 } else s.fuse h) ∧ t.fuse h.peer = s.fuse h.peer ∧
      t.blk = s.blk.reply h secure (header 0x73 pay.length seq.toNat)
        (if ok then [stOK] else [statusWord cCONFIG_INVALID rsVERSION 1])) ∧
  (∀ (s : State) (h : HalfId) (secure : Bool) (seq : BitVec 10) (pay : List Word) (ok : Bool),
    s.blk.accepts h secure 0x74 seq pay = true →
    ok = (decide ((s.fuse h).keyPos < 3) && [0, 1].all (fun i => Config.fwVerifies ((s.fuse h).keyPos + 1) ((s.firm h).slot i))) →
    ∃ t, exec (.keyAdvance h secure seq pay) s = .next t ∧
      t.fuse h = (if ok then { s.fuse h with keyPos := (s.fuse h).keyPos + 1 } else s.fuse h) ∧ t.fuse h.peer = s.fuse h.peer ∧
      t.blk = s.blk.reply h secure (header 0x74 pay.length seq.toNat)
        (if ok then [stOK, wd ((s.fuse h).keyPos + 1)] else [statusWord cCONFIG_INVALID rsVERSION 0])) ∧
  (∀ s t : State, step s = .next t → s.fusesRise t)

/-- A command does not touch the queue of waiting commands. Whatever command executes, the next state's queue is the queue
it was given (the queue is the model's form, log entry 1). (Rules R361.) -/
def Obligations.ExecKeepsQueue : Prop :=
  ∀ (c : Instr) (s t : State), exec c s = .next t → t.pending = s.pending

/-- Only the named commands change RAM, one-time-programmable memory and firmware slots. Every word of RAM, the
one-time-programmable memory and the firmware slots are as before after any command but those that write them. (Rules
R44, R241, R331, R367, R371, R372, R441, R448.) -/
def Obligations.MemoryFrame : Prop :=
  ∀ (c : Instr) (s t : State), exec c s = .next t →
    (writesRam c = false → ∀ a, memGet (ramReset a) t.ram a = memGet (ramReset a) s.ram a) ∧
    (writesOtp c = false → ∀ h, t.fuse h = s.fuse h) ∧
    (writesFirmware c = false → ∀ h, t.firm h = s.firm h)

/-- HELM is derived from the claims, the peer-down indication and the bridge. Deriving the helm leaves the half's own
claim, the peer's claim, the peer-down indication and the bridge state as they are, and gives HELM by the table of
rule R419. (Rules R419.) -/
def Obligations.HelmFollowsClaims : Prop :=
  ∀ (s t : Block) (h : HalfId) (cause : Nat), t = s.deriveHelm h cause →
    t.on h F.HLM_STAT_CLAIM = s.on h F.HLM_STAT_CLAIM ∧ t.on h F.HLM_STAT_PEERCLAIM = s.on h F.HLM_STAT_PEERCLAIM ∧
    t.on h F.HLM_STAT_PEERDOWN = s.on h F.HLM_STAT_PEERDOWN ∧ (t.half h).hl.lost = (s.half h).hl.lost ∧
    (let claim := s.on h F.HLM_STAT_CLAIM
     let peer := s.on h F.HLM_STAT_PEERCLAIM
     let down := s.on h F.HLM_STAT_PEERDOWN
     t.f h F.ADM_STAT_HELM =
       if (s.half h).hl.lost = true ∧ down = false then 3
       else if claim = true ∧ (peer = false ∨ down = true) then 0
       else if claim = false ∧ peer = true then 1
       else 2)

/-- A phase change cancels nothing, and entry to HOLD cancels everything and switches the outputs off. A change of the
service phase leaves every pending entry as it is, unless it enters HOLD: then every pending entry of the half is
cancelled with HOST_CANCEL, each with its record, and the half's outputs are off. (Rules R145.) -/
def Obligations.PhaseChangeCancels : Prop :=
  ∀ (s t : Block) (h : HalfId) (p cause : Nat), p < 8 → t = s.setPhase h p cause →
    t.phase h = p ∧
    (p ≠ phHOLD → (t.half h).cask = (s.half h).cask ∧ (t.half h).evn = (s.half h).evn) ∧
    (p = phHOLD → s.phase h ≠ phHOLD →
      (t.half h).cask = [] ∧
      (t.half h).evn = (s.inOrder h (s.half h).cask).foldl (fun l e => s.enterRec h (s.outcome h e cHOST_CANCEL 0 0) l) (s.half h).evn ∧
      ((t.half h).evn.Perm ((s.half h).evn ++ (s.half h).cask.map (fun e => s.outcome h e cHOST_CANCEL 0 0))) ∧
      (∀ k < 12, t.f .a F.INJ_STAT_LS (injBase h + k) = 0 ∧ t.f .a F.INJ_STAT_HSB (injBase h + k) = 0 ∧
        t.f .a F.INJ_STAT_BOOST (injBase h + k) = 0) ∧
      (∀ k < 6, t.f .a F.BHS_STAT_ON (bhsBase h + k) = 0) ∧
      (∀ k < 4, t.f .a F.HB_STAT_HS (hbBase h + k) = 0 ∧ t.f .a F.HB_STAT_LS (hbBase h + k) = 0) ∧
      (∀ k < 24, t.f .a F.EVO_STAT_LEVEL (evoBase h + k) = 0))

/-- A cancellation removes exactly the entries it names and writes one record for each. Cancelling the entries that a
condition names, where tags are unique in their channels (rule R119), keeps every other pending entry unchanged and in
its order, and puts exactly one record with the cancellation code for each entry named into the notice queue, in
channel and cask order among the records of its ANGCLK; of the records already there none is lost, those of earlier
ANGCLKs keep their order before those of this one, and at most the code of one of this same ANGCLK's cancellations
changes, to a cause that comes earlier in the order of rule R137. (Rules R119, R136, R137, R138, R139, R140.) -/
def Obligations.CancellationIsExact : Prop :=
  ∀ (s t : Block) (h : HalfId) (code : Nat) (p : Entry → Bool),
    (∀ x ∈ (s.half h).cask, ∀ y ∈ (s.half h).cask, x.chan = y.chan → x.tag = y.tag → x = y) →
    t = s.cancelWhere h code p → ∃ old : List NRec,
    (t.half h).cask = (s.half h).cask.filter (fun e => !p e) ∧
    (t.half h).evn = (s.inOrder h ((s.half h).cask.filter p)).foldl (fun l e => s.enterRec h (s.outcome h e code 0 0) l) old ∧
    (t.half h).evn.Perm (old ++ ((s.half h).cask.filter p).map (fun e => s.outcome h e code 0 0)) ∧
    (t.half h).evn.filter (fun r => r.stamp != (s.half h).tsc) = (s.half h).evn.filter (fun r => r.stamp != (s.half h).tsc) ∧
    old.length = (s.half h).evn.length ∧
    (∀ i (hi : i < (s.half h).evn.length) (ho : i < old.length), old[i] = (s.half h).evn[i] ∨
      ((s.half h).evn[i].stamp = (s.half h).tsc ∧ causeRank code < causeRank (s.half h).evn[i].code ∧ causeRank (s.half h).evn[i].code < 7 ∧
        old[i] = { (s.half h).evn[i] with code := code })) ∧
    ((s.inOrder h ((s.half h).cask.filter p)).map (fun e => (e.chan, e.tag))).Perm
      (((s.half h).cask.filter p).map (fun e => (e.chan, e.tag)))

/-- Notices are numbered modulo 1,024 and the last of them kept for replay. While HIP runs, a notice takes the half's SEQ,
which rises by 1 modulo 1,024, waits behind the earlier notices, and joins the replay buffer, which holds at most 512
notices and 4,096 words and loses only its oldest; before HIP runs nothing changes. (Rules R364, R376.) -/
def Obligations.NoticesAreNumbered : Prop :=
  ∀ (s t : Block) (h : HalfId) (code : Nat) (ws : List Word), t = s.notice h code ws →
    ((s.half h).hip.running = false → t = s) ∧
    ((s.half h).hip.running = true →
      (t.half h).hip.seq = ((s.half h).hip.seq + 1) % 1024 ∧
      (t.half h).hip.out6 = (s.half h).hip.out6 ++ [⟨code, (s.half h).hip.seq, ws⟩] ∧
      (t.half h).hip.replay <:+ (s.half h).hip.replay ++ [⟨code, (s.half h).hip.seq, ws⟩] ∧
      (t.half h).hip.replay.length ≤ 512 ∧ noticeWords (t.half h).hip.replay ≤ 4096 ∧
      ((s.half h).hip.replay.length < 512 → noticeWords ((s.half h).hip.replay ++ [⟨code, (s.half h).hip.seq, ws⟩]) ≤ 4096 →
        (t.half h).hip.replay = (s.half h).hip.replay ++ [⟨code, (s.half h).hip.seq, ws⟩]))

/-- The log engine's queue holds 32 reports, and a report that finds it full is counted as lost. A report enters the queue
behind the others while fewer than 32 wait, those of one timestamp, which is how the model reads made together (log
entry 132), in order of BLOCK, then INDEX; otherwise the queue is as it was, the loss counter of the report's block
goes up, or stays where it is greatest, and HLM_ERR.LOGLOSS is set. (Rules R433.) -/
def Obligations.ReportQueueCounts : Prop :=
  ∀ (s t : Block) (h : HalfId) (code cls block index detail : Nat), block < 28 → t = s.report h code cls block index detail →
    ((s.half h).hl.queue.length < 32 →
      ((t.half h).hl.queue.Perm ((s.half h).hl.queue ++ [⟨code, cls, block, index, detail % 65536, (s.half h).tsc, false⟩])) ∧
      (t.half h).hl.queue.filter (fun x => x.stamp != (s.half h).tsc) = (s.half h).hl.queue.filter (fun x => x.stamp != (s.half h).tsc) ∧
      ((s.half h).hl.queue.all (fun x => x.stamp != (s.half h).tsc) = true →
        (t.half h).hl.queue = (s.half h).hl.queue ++ [⟨code, cls, block, index, detail % 65536, (s.half h).tsc, false⟩]) ∧
      (((s.half h).hl.queue.filter (fun x => x.stamp == (s.half h).tsc)).Pairwise
          (fun x y => x.block * 128 + x.index ≤ y.block * 128 + y.index) →
        ((t.half h).hl.queue.filter (fun x => x.stamp == (s.half h).tsc)).Pairwise
          (fun x y => x.block * 128 + x.index ≤ y.block * 128 + y.index)) ∧ t.regs = s.regs) ∧
    (32 ≤ (s.half h).hl.queue.length →
      (t.half h).hl.queue = (s.half h).hl.queue ∧ t.on h F.HLM_ERR_LOGLOSS = true ∧
      t.f h F.LOG_LOSS_LOST block =
        (if s.f h F.LOG_LOSS_LOST block + 1 < 2 ^ (F.LOG_LOSS_LOST.hi + 1 - F.LOG_LOSS_LOST.lo) then s.f h F.LOG_LOSS_LOST block + 1
         else s.f h F.LOG_LOSS_LOST block))

/-- A command whose header repeats one of the last 16 gets its reply again and is not executed. Whatever the command, a
header equal to one stored in its pair posts the stored reply and does nothing else; a command executed stores its
reply as the newest of at most 16. (Rules R363.) -/
def Obligations.RepeatedHeaderAnswersAgain : Prop :=
  (∀ (s : State) (h : HalfId) (secure : Bool) (code : Nat) (seq : BitVec 10) (pay : List Word)
      (body : State → State × List Word) (out : List Word),
    s.blk.hipActs h = true → s.blk.stored? h secure (header code pay.length seq.toNat) = some out →
    s.cmd h secure code seq pay body = .next { s with blk := s.blk.postReply h secure out }) ∧
  (∀ (s : Block) (h : HalfId) (secure : Bool) (hdr : Word) (words : List Word) (t : Block),
    t = s.reply h secure hdr words →
    ((t.half h).hip.pair secure).done =
      ((hdr, header (bits hdr.toNat 23 16) words.length (bits hdr.toNat 9 0) :: words) :: ((s.half h).hip.pair secure).done).take 16 ∧
    ((t.half h).hip.pair (!secure)).done = ((s.half h).hip.pair (!secure)).done)

/-- Secure commands need MBX0 and a session, and module-wide commands need the helm. A command with flag S that arrives on
MBX4 is refused with SECURE_REQUIRED and WRONG_PAIR, on MBX0 without a session with NO_SESSION, and a module-wide
command that passes both at a half that does not hold the helm with NOT_HELM; a refused command does nothing but post
that reply. (Rules R368, R371, R490.) -/
def Obligations.SecureCommandsNeedSession : Prop :=
  ∀ (s : State) (h : HalfId) (secure : Bool) (code : Nat) (seq : BitVec 10) (pay : List Word)
      (body : State → State × List Word) (f : CmdForm),
    code < 256 → pay.length ≤ 63 → s.blk.hipActs h = true → s.blk.stored? h secure (header code pay.length seq.toNat) = none →
    cmdForm code = some f → f.counts pay.length = true → (s.blk.phase h ≠ phBOOT ∨ f.boot = true) →
    (f.sec = true → secure = false → s.cmd h secure code seq pay body =
      .next { s with blk := s.blk.reply h secure (header code pay.length seq.toNat) [statusWord cSECURE_REQUIRED rsWRONG_PAIR 0] }) ∧
    (f.sec = true → secure = true → (s.blk.half h).hip.session = false → s.cmd h secure code seq pay body =
      .next { s with blk := s.blk.reply h secure (header code pay.length seq.toNat) [statusWord cSECURE_REQUIRED rsNO_SESSION 0] }) ∧
    (f.helm = true → (f.sec = false ∨ (secure = true ∧ (s.blk.half h).hip.session = true)) → s.blk.holdsHelm h = false →
      s.cmd h secure code seq pay body =
        .next { s with blk := s.blk.reply h secure (header code pay.length seq.toNat) [statusWord cNOT_HELM 0 0] })

/-- A trip of a boost switch trips its two injector channels, and never the other way round. A trip of BHSk sets the
latches of INJ2k and INJ2k+1 with cause BHS; a trip of an INJ channel leaves its BHS latch as it is and releases any
grant the channel holds. (Rules R219.) -/
def Obligations.BhsTripReachesInjectors : Prop :=
  (∀ (s t : Block) (k : Fin 12) (c : Nat), t = s.trip (.bhs k) c →
    ∀ n : Fin 24, n.val / 2 = k.val → t.tripped (.inj n) = true ∧ t.cause (.inj n) caBHS = true) ∧
  (∀ (s t : Block) (n : Fin 24) (c : Nat) (k : Fin 12), c < 9 → k.val = n.val / 2 → t = s.trip (.inj n) c →
    t.tripped (.bhs k) = s.tripped (.bhs k) ∧ (t.bhsOf k).holder ≠ some (n.val % 2))

/-- A trip latch clears only when no condition holds it. A 1 written to a trip latch completes without a bus error: while
a condition of a cause still holds, or the BHS latch of an INJ channel is set, the latch and its causes stay as they
are and CLRREF is set; otherwise its cause bits are 0, and so is the latch unless UV, which is no latching cause,
holds it. (Rules R218.) -/
def Obligations.TripLatchClears : Prop :=
  ∀ (s : State) (o : Output) (holds : Bool), s.blk.powered o.reg.1 o.owner = true →
    ∃ t, exec (.tripLatchClear o.owner o holds) s = .next t ∧ t.blk.busErr = false ∧
      (if holds = true ∨ s.blk.extHolds o = true ∨ s.blk.permanent o = true ∨
          (∃ n : Fin 24, o = .inj n ∧ s.blk.on .a F.BHS_TRIP_LATCH (n.val / 2) = true) then
        t.blk.tripped o = s.blk.tripped o ∧ (∀ c < 9, t.blk.cause o c = s.blk.cause o c) ∧ t.blk.on .a o.clrrefFld o.reg.2 = true
      else
        t.blk.tripped o = (s.blk.uvHeld o && s.blk.tripped o) ∧ (∀ c < 9, c ≠ caUV → (∀ e, o = .evo e → c = caSW ∨ c = caEXT) → t.blk.cause o c = false))

/-- A PWM unit written EN 0 stops, and a set trip latch stays set. When EN is written to 0 the counter stops, both outputs
are LOW, and the filter, refresh and dead-time stages are cleared; a trip latch that is set stays set, and its HIGH-Z
takes precedence. (Rules R280.) -/
def Obligations.PwmDisableStops : Prop :=
  ∀ (s : State) (h : HalfId) (u : Fin 16), s.blk.powered .PWM_CTRL h = true →
    ∃ t, exec (.pwmDisable h u) s = .next t ∧ t.blk.busErr = false ∧
      (t.blk.pwm h u).run = none ∧ (t.blk.pwm h u).chA = Pwm.idle.chA ∧ (t.blk.pwm h u).chB = Pwm.idle.chB ∧
      (t.blk.pwm h u).riseAt = none ∧ (t.blk.pwm h u).refAt = none ∧ (t.blk.pwm h u).dtA = none ∧ (t.blk.pwm h u).dtB = none ∧
      t.blk.on h F.PWM_CTRL_EN u = false ∧ t.blk.on h F.PWM_STAT_RUN u = false ∧
      t.blk.on h F.PWM_STAT_OUTA u = false ∧ t.blk.on h F.PWM_STAT_OUTB u = false ∧
      t.blk.on h F.PWM_TRIP_LATCH u = s.blk.on h F.PWM_TRIP_LATCH u ∧
      (s.blk.on h F.PWM_TRIP_LATCH u = true → t.blk.on h F.PWM_STAT_HIZ u = true)

/-- The timestamp counter of each half whose ANGCLK runs goes up by one in an ANGCLK. In one ANGCLK with no command
waiting, the 48-bit timestamp counter of a half rises by one where its ANGCLK runs, and stands still where it is
stopped. That a step without a command is one ANGCLK is the model's choice (log entry 3). (Rules R38, R141, R441.) -/
def Obligations.TickAdvancesTimestamps : Prop :=
  ∀ (s t : State), s.pending = [] → step s = .next t →
    ∀ h : HalfId, (t.blk.half h).tsc = if s.blk.angRuns h = true then ((s.blk.half h).tsc + 1) % 2 ^ 48 else (s.blk.half h).tsc

/-- An instruction of a pin engine touches nothing of the other half. Whatever instruction a pin engine of a half
executes, the private state of the other half, the bridge and every register of the other half are as before. (Rules
R308, R309.) -/
def Obligations.EnginesStayInTheirHalf : Prop :=
  ∀ (s t : State) (h : HalfId) (e : Fin 8) (pins : BitVec 4) (c : Instr),
    c ∈ ([.peIdle h e, .peBr h e pins, .peLoop h e, .peLdi h e, .peLdx h e,
      .peMovr h e pins, .peTime h e, .peTwait h e, .pePwait h e pins, .peFwait h e,
      .peFlag h e, .peTrgw h e, .peSout h e, .peSin h e pins, .peQget h e,
      .peQput h e] : List Instr) →
    exec c s = .next t →
    t.blk.half h.peer = s.blk.half h.peer ∧ (∀ k, t.blk.lane k = s.blk.lane k) ∧
    (∀ (r : Reg) (i j : Nat), r.has h.peer i j = true → r.info.perHalf = true → t.blk.w h.peer r i j = s.blk.w h.peer r i j)

/-- Every register is found at its address, in its region, and nowhere else. The address of every register of the map lies
in the region of rule R44 it belongs to, half B's at the same offset as half A's, and the address decoder finds there
that register with those indices, so no two registers share an address; at 0xA0_0000 and above it finds nothing.
(Rules R44, R46.) -/
def Obligations.AddressMapRoundTrips : Prop :=
  (∀ (r : Reg) (h : HalfId) (i j : Nat), r.has h i j = true →
    placeOf (r.addr h i j) = .reg r h i j ∧
    (if r.info.perHalf = true then r.addr .a i j < 0x400000 ∧ r.addr .b i j = r.addr .a i j + 0x400000
     else 0x800000 ≤ r.addr h i j ∧ r.addr h i j < 0xA00000)) ∧
  (∀ a : Nat, 0xA00000 ≤ a → placeOf a = .none)

/-- An enabled flag raises the interrupt line it names. The interrupt line of a half toward a role is raised by a
comparator event, a timer event of a timer the half owns (of a pair, the low one), a pin engine with a waiting record,
and a full mailbox that the role receives, each where its enable is set and names the role. (Rules R271, R305, R319,
R338.) -/
def Obligations.InterruptLinesFollowFlags : Prop :=
  (∀ (s : Block) (h : HalfId) (role : Nat) (k : Fin 32), s.on h F.CMP_CFG_IRQEN k = true → s.f h F.CMP_CFG_IRQDST k = role →
    s.on h F.CMP_EVT_RISE k = true → s.irq h role = true) ∧
  (∀ (s : Block) (h : HalfId) (role : Nat) (k : Fin 16), s.ownsTmr h k = true → s.tmrHigh k = false → s.on .a F.TMR_CFG_IRQEN k = true →
    s.f .a F.TMR_CFG_IRQDST k = role → s.on .a F.TMR_EVT_MATCH k = true → s.irq h role = true) ∧
  (∀ (s : Block) (h : HalfId) (role : Nat) (e : Fin 8), s.on h F.PE_IRQ_IRQEN e = true → s.f h F.PE_IRQ_IRQDST e = role →
    (s.pe h e).rq ≠ [] → s.irq h role = true) ∧
  (∀ (s : Block) (h : HalfId) (role : Nat) (m : Fin 16), (mbxTable m).2.2.1 = role → s.on h F.MBX_STAT_FULL m = true →
    s.on h F.MBX_IEN_FULLIE m = true → s.irq h role = true)

/-- A command on a register of a block without power ends in a bus error and does nothing else. Every row that reads or
writes one register, where the power domain of that register's block is off, answers the state with the bus error set
and nothing else changed. Which rows stand for an access, and to which register, is their own rules' doing. What a row
judges itself and what its operands carry is the model's form; the model's choices in these rows are log entries 1,
11, 50, 79, 80, 82, 88. (Rules R47.) -/
def Obligations.UnpoweredAccessIsBusError : Prop :=
  (∀ (s : State) (h : HalfId) (e : Fin 8),
     s.blk.powered .PE_CFG h = false →
     exec (.peEnable h e) s = .next { s with blk := ({ s.blk with busErr := true }) }) ∧
  (∀ (s : State) (h : HalfId) (e : Fin 8),
     s.blk.powered .PE_CFG h = false →
     exec (.peDisable h e) s = .next { s with blk := ({ s.blk with busErr := true }) }) ∧
  (∀ (s : State) (h : HalfId) (mask : BitVec 8),
     s.blk.powered .PE_GSTART h = false →
     exec (.peGstart h mask) s = .next { s with blk := ({ s.blk with busErr := true }) }) ∧
  (∀ (s : State) (h : HalfId) (e : Fin 8) (off : BitVec 7) (v : Word),
     s.blk.powered .PE_PROG h = false →
     exec (.peProgramChange h e off v) s = .next { s with blk := ({ s.blk with busErr := true }) }) ∧
  (∀ (s : State) (h : HalfId) (e : Fin 8) (v : Word),
     s.blk.powered .PE_SQ h = false →
     exec (.peSendQueueWrite h e v) s = .next { s with blk := ({ s.blk with busErr := true }) }) ∧
  (∀ (s : State) (h : HalfId) (e : Fin 8),
     s.blk.powered .PE_RQPOP h = false →
     exec (.peReceiveQueuePop h e) s = .next { s with blk := ({ s.blk with busErr := true }) }) ∧
  (∀ (s : State) (h : HalfId) (mask : BitVec 16),
     s.blk.powered .PE_FSET h = false →
     exec (.peFlagSet h mask) s = .next { s with blk := ({ s.blk with busErr := true }) }) ∧
  (∀ (s : State) (h : HalfId) (mask : BitVec 16),
     s.blk.powered .PE_FCLR h = false →
     exec (.peFlagClear h mask) s = .next { s with blk := ({ s.blk with busErr := true }) }) ∧
  (∀ (s : State) (h : HalfId) (e : Fin 8),
     s.blk.powered .PE_TLO h = false →
     exec (.peTloRead h e) s = .next { s with blk := ({ s.blk with busErr := true }) }) ∧
  (∀ (s : State) (h : HalfId) (c : Fin 24),
     s.blk.powered .ATU_REC h = false →
     exec (.atuRecordRead h c) s = .next { s with blk := ({ s.blk with busErr := true }) }) ∧
  (∀ (s : State) (h : HalfId),
     s.blk.powered .ATU_CLR h = false →
     exec (.atuClearBaseline h) s = .next { s with blk := ({ s.blk with busErr := true }) }) ∧
  (∀ (s : State) (h : HalfId),
     s.blk.powered .ATU_CLR h = false →
     exec (.atuClearCounts h) s = .next { s with blk := ({ s.blk with busErr := true }) }) ∧
  (∀ (s : State) (h : HalfId) (who : Master),
     s.blk.powered .CRP_WDOG h = false →
     exec (.supervisorWatchdogKick h who) s = .next { s with blk := ({ s.blk with busErr := true }) }) ∧
  (∀ (s : State) (h : HalfId) (who : Master),
     s.blk.powered .HLM_CLR h = false →
     exec (.hlmClearCounters h who) s = .next { s with blk := ({ s.blk with busErr := true }) }) ∧
  (∀ (s : State) (h : HalfId) (who : Master),
     s.blk.powered .LOG_CMD h = false →
     exec (.logCmdClear h who) s = .next { s with blk := ({ s.blk with busErr := true }) }) ∧
  (∀ (s : State) (h : HalfId) (o : Output),
     s.blk.powered o.reg.1 h = false →
     exec (.tripSoftware h o) s = .next { s with blk := ({ s.blk with busErr := true }) }) ∧
  (∀ (s : State) (h : HalfId),
     s.blk.powered .DRV_SWTRIP h = false →
     exec (.drvSwtripAll h) s = .next { s with blk := ({ s.blk with busErr := true }) }) ∧
  (∀ (s : State) (h : HalfId) (o : Output) (holds : Bool),
     s.blk.powered o.reg.1 h = false →
     exec (.tripLatchClear h o holds) s = .next { s with blk := ({ s.blk with busErr := true }) }) ∧
  (∀ (s : State) (h : HalfId) (k : Fin 12),
     s.blk.powered .SEQ_POP h = false →
     exec (.seqResultPop h k) s = .next { s with blk := ({ s.blk with busErr := true }) }) ∧
  (∀ (s : State) (h : HalfId) (k : Fin 12),
     s.blk.powered .SEQ_POP h = false →
     exec (.seqClearOverflow h k) s = .next { s with blk := ({ s.blk with busErr := true }) }) ∧
  (∀ (s : State) (h : HalfId) (k : Fin 12) (v : Word),
     s.blk.powered .SEQ_FORCE h = false →
     exec (.seqForceWrite h k v) s = .next { s with blk := ({ s.blk with busErr := true }) }) ∧
  (∀ (s : State) (h : HalfId) (m : Fin 16) (who : Master) (v : Word),
     s.blk.powered .MBX_DATA h = false →
     exec (.mbxPost h m who v) s = .next { s with blk := ({ s.blk with busErr := true }) }) ∧
  (∀ (s : State) (h : HalfId) (k : Fin 32) (v : BitVec 12),
     s.blk.powered .CMP_CFG h = false →
     exec (.comparatorEnable h k v) s = .next { s with blk := ({ s.blk with busErr := true }) }) ∧
  (∀ (s : State) (h : HalfId) (k : Fin 32),
     s.blk.powered .CMP_CFG h = false →
     exec (.comparatorDisable h k) s = .next { s with blk := ({ s.blk with busErr := true }) }) ∧
  (∀ (s : State) (h : HalfId) (k : Fin 32) (hys : Bool) (v : Word),
     s.blk.powered .CMP_TH h = false →
     exec (.comparatorThresholdWrite h k hys v) s = .next { s with blk := ({ s.blk with busErr := true }) }) ∧
  (∀ (s : State) (h : HalfId) (k : Fin 32),
     s.blk.powered .CMP_CAPLO h = false →
     exec (.cmpCaploRead h k) s = .next { s with blk := ({ s.blk with busErr := true }) }) ∧
  (∀ (s : State) (h : HalfId) (k : Fin 32),
     s.blk.powered .CMP_SPARE h = false →
     exec (.comparatorForceReplace h k) s = .next { s with blk := ({ s.blk with busErr := true }) }) ∧
  (∀ (s : State) (h : HalfId) (p : Fin 2) (chan : Fin 64) (tag : BitVec 10),
     s.blk.powered .EVI_GO h = false →
     exec (.eviGo h p chan tag) s = .next { s with blk := ({ s.blk with busErr := true }) }) ∧
  (∀ (s : State) (h : HalfId) (chan : Fin 64) (tag : BitVec 10),
     s.blk.powered .EVC_CMD h = false →
     exec (.cancelTag h chan tag) s = .next { s with blk := ({ s.blk with busErr := true }) }) ∧
  (∀ (s : State) (h : HalfId) (chan : Fin 64),
     s.blk.powered .EVC_CMD h = false →
     exec (.cancelAll h chan) s = .next { s with blk := ({ s.blk with busErr := true }) }) ∧
  (∀ (s : State) (h : HalfId) (chan : Fin 64),
     s.blk.powered .EVC_CMD h = false →
     exec (.evcClearCounters h chan) s = .next { s with blk := ({ s.blk with busErr := true }) }) ∧
  (∀ (s : State) (h : HalfId) (chan : Fin 64),
     s.blk.powered .EVC_CFG h = false →
     exec (.channelDisable h chan) s = .next { s with blk := ({ s.blk with busErr := true }) }) ∧
  (∀ (s : State) (h : HalfId),
     s.blk.powered .EVN_POP h = false →
     exec (.noticePop h) s = .next { s with blk := ({ s.blk with busErr := true }) }) ∧
  (∀ (s : State) (h : HalfId),
     s.blk.powered .TSC_LO h = false →
     exec (.tscLoRead h) s = .next { s with blk := ({ s.blk with busErr := true }) }) ∧
  (∀ (s : State) (h : HalfId),
     s.blk.powered .TSC_XDIFF h = false →
     exec (.tscXdiffRead h) s = .next { s with blk := ({ s.blk with busErr := true }) }) ∧
  (∀ (s : State) (h : HalfId) (chan : Fin 64),
     s.blk.powered .EVC_HEADT_LO h = false →
     exec (.evcHeadtLoRead h chan) s = .next { s with blk := ({ s.blk with busErr := true }) }) ∧
  (∀ (s : State) (h : HalfId),
     s.blk.powered .EUL_CLR h = false →
     exec (.eulClearCounters h) s = .next { s with blk := ({ s.blk with busErr := true }) }) ∧
  (∀ (s : State) (h : HalfId),
     s.blk.powered .EUL_FTLO h = false →
     exec (.eulFtloRead h) s = .next { s with blk := ({ s.blk with busErr := true }) }) ∧
  (∀ (s : State) (h : HalfId) (chan : Fin 64) (tag : BitVec 10),
     s.blk.powered .ADM_GO h = false →
     exec (.admGo h chan tag) s = .next { s with blk := ({ s.blk with busErr := true }) }) ∧
  (∀ (s : State) (h : HalfId),
     s.blk.powered .ADM_CLR h = false →
     exec (.admClearCounters h) s = .next { s with blk := ({ s.blk with busErr := true }) }) ∧
  (∀ (s : State) (h : HalfId) (who : Master),
     s.blk.powered .QHL_CMD h = false →
     exec (.linkResetCommand h who) s = .next { s with blk := ({ s.blk with busErr := true }) }) ∧
  (∀ (s : State) (h : HalfId) (who : Master),
     s.blk.powered .QHL_CMD h = false →
     exec (.qhlClearCounters h who) s = .next { s with blk := ({ s.blk with busErr := true }) }) ∧
  (∀ (s : State) (h : HalfId) (r : Fin 22) (energy : Bool),
     s.blk.powered .TAL_W1 h = false →
     exec (.tallyWordRead h r energy) s = .next { s with blk := ({ s.blk with busErr := true }) }) ∧
  (∀ (s : State) (h : HalfId) (steps : BitVec 8),
     s.blk.powered .TAL_CMD h = false →
     exec (.tallyCommit h steps) s = .next { s with blk := ({ s.blk with busErr := true }) }) ∧
  (∀ (s : State) (h : HalfId) (t : Fin 2),
     s.blk.powered .WTK_CTRL h = false →
     exec (.wtkEnable h t) s = .next { s with blk := ({ s.blk with busErr := true }) }) ∧
  (∀ (s : State) (h : HalfId) (t : Fin 2),
     s.blk.powered .WTK_CTRL h = false →
     exec (.wtkDisable h t) s = .next { s with blk := ({ s.blk with busErr := true }) }) ∧
  (∀ (s : State) (h : HalfId) (t : Fin 2),
     s.blk.powered .WTK_CLR h = false →
     exec (.wtkClearCounters h t) s = .next { s with blk := ({ s.blk with busErr := true }) }) ∧
  (∀ (s : State) (h : HalfId) (t : Fin 2),
     s.blk.powered .WTK_ASEL h = false →
     exec (.angleSourceSelect h t) s = .next { s with blk := ({ s.blk with busErr := true }) }) ∧
  (∀ (s : State) (h : HalfId),
     s.blk.powered .ANG_CTRL h = false →
     exec (.angleClockEnable h) s = .next { s with blk := ({ s.blk with busErr := true }) }) ∧
  (∀ (s : State) (h : HalfId),
     s.blk.powered .ANG_CTRL h = false →
     exec (.angleClockDisable h) s = .next { s with blk := ({ s.blk with busErr := true }) }) ∧
  (∀ (s : State) (h : HalfId),
     s.blk.powered .ANG_CLR h = false →
     exec (.angleClearCounters h) s = .next { s with blk := ({ s.blk with busErr := true }) }) ∧
  (∀ (s : State) (h : HalfId),
     s.blk.powered .ANG_NOW h = false →
     exec (.angNowRead h) s = .next { s with blk := ({ s.blk with busErr := true }) }) ∧
  (∀ (s : State) (h : HalfId) (i : BitVec 8),
     s.blk.powered .LOG_ENT h = false →
     exec (.logEntryRead h i) s = .next { s with blk := ({ s.blk with busErr := true }) }) ∧
  (∀ (s : State) (h : HalfId) (k : Fin 2) (slot : Fin 4),
     s.blk.powered .PCV_CMD h = false →
     exec (.windowStop h k slot) s = .next { s with blk := ({ s.blk with busErr := true }) }) ∧
  (∀ (s : State) (h : HalfId) (k : Fin 4),
     s.blk.powered .PCV_CMD h = false →
     exec (.pcvClearCounters h k) s = .next { s with blk := ({ s.blk with busErr := true }) }) ∧
  (∀ (s : State) (h : HalfId) (k : Fin 2),
     s.blk.powered .PCV_WPOP h = false →
     exec (.windowRecordPop h k) s = .next { s with blk := ({ s.blk with busErr := true }) }) ∧
  (∀ (s : State) (h : HalfId) (k : Fin 8),
     s.blk.powered .PCV_SPARE h = false →
     exec (.converterForceReplace h k) s = .next { s with blk := ({ s.blk with busErr := true }) }) ∧
  (∀ (s : State) (h : HalfId) (m : Fin 16) (who : Master),
     s.blk.powered .MBX_DATA h = false →
     exec (.mbxTake h m who) s = .next { s with blk := ({ s.blk with busErr := true }) }) ∧
  (∀ (s : State) (h : HalfId) (u : Fin 16),
     s.blk.powered .PWM_CTRL h = false →
     exec (.pwmEnable h u) s = .next { s with blk := ({ s.blk with busErr := true }) }) ∧
  (∀ (s : State) (h : HalfId) (u : Fin 16),
     s.blk.powered .PWM_CTRL h = false →
     exec (.pwmDisable h u) s = .next { s with blk := ({ s.blk with busErr := true }) }) ∧
  (∀ (s : State) (h : HalfId) (mask : BitVec 16),
     s.blk.powered .PWM_GSTART h = false →
     exec (.pwmGstart h mask) s = .next { s with blk := ({ s.blk with busErr := true }) }) ∧
  (∀ (s : State) (h : HalfId) (u : Fin 16),
     s.blk.powered .PWM_LOAD h = false →
     exec (.pwmLoad h u) s = .next { s with blk := ({ s.blk with busErr := true }) }) ∧
  (∀ (s : State) (h : HalfId) (u : Fin 16) (which : Fin 7) (v : Word),
     s.blk.powered .PWM_PER h = false →
     exec (.pwmUpdateWrite h u which v) s = .next { s with blk := ({ s.blk with busErr := true }) }) ∧
  (∀ (s : State) (h : HalfId) (u : Fin 16),
     s.blk.powered .PWM_TRIP h = false →
     exec (.pwmTripSwset h u) s = .next { s with blk := ({ s.blk with busErr := true }) }) ∧
  (∀ (s : State) (h : HalfId) (u : Fin 16),
     s.blk.powered .PWM_TRIP h = false →
     exec (.pwmTripClear h u) s = .next { s with blk := ({ s.blk with busErr := true }) })

/-- Every command completes in every state. Whatever command executes in whatever state, the block answers a next state:
no row ends in a fault or a refusal. What the spec turns away (a bus error, a refusal code in a reply, an event that
is not due) is an effect on the state. (Rules R20, R47.) -/
def Obligations.AllCommandsComplete : Prop :=
  ∀ (c : Instr) (s : State), ∃ t : State, exec c s = .next t
end

