-- ==== Sys2Proof/Laws/Bits.lean ====
section
/-!
SUPPORT. Laws of bit fields: what reading a field gives after it, or another one, was replaced.
-/

namespace Sys2Proof.Machine

theorem bits_lt (v hi lo : Nat) : bits v hi lo < 2 ^ (hi + 1 - lo) := Nat.mod_lt _ (by positivity)

/-- A number is its part above a field, the field, and its part below. -/
theorem bits_split (v lo w : Nat) :
    v = v / 2 ^ (lo + w) * 2 ^ (lo + w) + (v / 2 ^ lo % 2 ^ w) * 2 ^ lo + v % 2 ^ lo := by
  have h1 := Nat.div_add_mod (v / 2 ^ lo) (2 ^ w)
  have h2 := Nat.div_add_mod v (2 ^ lo)
  have h3 : v / 2 ^ (lo + w) = v / 2 ^ lo / 2 ^ w := by rw [pow_add, Nat.div_div_eq_div_mul]
  rw [h3, pow_add]
  calc v = 2 ^ lo * (v / 2 ^ lo) + v % 2 ^ lo := h2.symm
    _ = 2 ^ lo * (2 ^ w * (v / 2 ^ lo / 2 ^ w) + v / 2 ^ lo % 2 ^ w) + v % 2 ^ lo := by rw [h1]
    _ = _ := by ring

/-- `putBits` as the same three parts. -/
theorem putBits_eq (v hi lo x : Nat) (h : lo ≤ hi) :
    putBits v hi lo x = v / 2 ^ (hi + 1) * 2 ^ (hi + 1) + (x % 2 ^ (hi + 1 - lo)) * 2 ^ lo + v % 2 ^ lo := by
  have hs := bits_split v lo (hi + 1 - lo)
  have he : lo + (hi + 1 - lo) = hi + 1 := by omega
  rw [he] at hs
  unfold putBits bits
  omega

theorem putBits_div_lo (v hi lo x : Nat) (h : lo ≤ hi) :
    putBits v hi lo x / 2 ^ lo = v / 2 ^ (hi + 1) * 2 ^ (hi + 1 - lo) + x % 2 ^ (hi + 1 - lo) := by
  rw [putBits_eq v hi lo x h]
  have he : 2 ^ (hi + 1) = 2 ^ (hi + 1 - lo) * 2 ^ lo := by rw [← pow_add]; congr 1; omega
  rw [he, ← mul_assoc, ← add_mul, add_comm, Nat.add_mul_div_right _ _ (by positivity),
    Nat.div_eq_of_lt (Nat.mod_lt _ (by positivity)), zero_add]

/-- The field just replaced reads as the value put in, modulo the field's width. -/
@[simp] theorem bits_putBits_same (v hi lo x : Nat) (h : lo ≤ hi) : bits (putBits v hi lo x) hi lo = x % 2 ^ (hi + 1 - lo) := by
  unfold bits
  rw [putBits_div_lo v hi lo x h, Nat.add_mod, Nat.mul_mod_left, zero_add, Nat.mod_mod, Nat.mod_mod]

/-- A field that lies above the replaced one is unchanged. -/
theorem bits_putBits_above (v hi lo x hi2 lo2 : Nat) (h : lo ≤ hi) (h2 : hi < lo2) :
    bits (putBits v hi lo x) hi2 lo2 = bits v hi2 lo2 := by
  unfold bits
  have hd : putBits v hi lo x / 2 ^ (hi + 1) = v / 2 ^ (hi + 1) := by
    have := putBits_div_lo v hi lo x h
    have he : 2 ^ (hi + 1) = 2 ^ lo * 2 ^ (hi + 1 - lo) := by rw [← pow_add]; congr 1; omega
    conv_lhs => rw [he, ← Nat.div_div_eq_div_mul, this]
    rw [add_comm, Nat.add_mul_div_right _ _ (by positivity), Nat.div_eq_of_lt (Nat.mod_lt _ (by positivity)), zero_add]
  have e2 : 2 ^ lo2 = 2 ^ (hi + 1) * 2 ^ (lo2 - (hi + 1)) := by rw [← pow_add]; congr 1; omega
  rw [e2, ← Nat.div_div_eq_div_mul, ← Nat.div_div_eq_div_mul, hd]

/-- A field that lies below the replaced one is unchanged. -/
theorem bits_putBits_below (v hi lo x hi2 lo2 : Nat) (h : lo ≤ hi) (h2 : hi2 < lo) :
    bits (putBits v hi lo x) hi2 lo2 = bits v hi2 lo2 := by
  by_cases hw : lo2 ≤ hi2
  · have hm : putBits v hi lo x % 2 ^ (hi2 + 1) = v % 2 ^ (hi2 + 1) := by
      rw [putBits_eq v hi lo x h]
      have e1 : 2 ^ (hi + 1) = 2 ^ (hi + 1 - (hi2 + 1)) * 2 ^ (hi2 + 1) := by rw [← pow_add]; congr 1; omega
      have e2 : 2 ^ lo = 2 ^ (lo - (hi2 + 1)) * 2 ^ (hi2 + 1) := by rw [← pow_add]; congr 1; omega
      conv_lhs => rw [e1]; rw [show x % 2 ^ (hi + 1 - lo) * 2 ^ lo = x % 2 ^ (hi + 1 - lo) * 2 ^ (lo - (hi2 + 1)) * 2 ^ (hi2 + 1) by
        rw [mul_assoc, ← e2]]
      rw [← mul_assoc, ← add_mul, add_comm, Nat.add_mul_mod_self_right]
      exact Nat.mod_mod_of_dvd v (pow_dvd_pow 2 (by omega))
    have key : ∀ n : Nat, n / 2 ^ lo2 % 2 ^ (hi2 + 1 - lo2) = n % 2 ^ (hi2 + 1) / 2 ^ lo2 := by
      intro n
      have e : 2 ^ (hi2 + 1) = 2 ^ lo2 * 2 ^ (hi2 + 1 - lo2) := by rw [← pow_add]; congr 1; omega
      rw [e, Nat.mod_mul_right_div_self]
    unfold bits
    rw [key, key, hm]
  · unfold bits
    have : hi2 + 1 - lo2 = 0 := by omega
    rw [this, pow_zero, Nat.mod_one, Nat.mod_one]

theorem bits_le_self (v hi lo : Nat) : bits v hi lo ≤ v := (Nat.mod_le _ _).trans (Nat.div_le_self _ _)

/-- Replacing a field of an `n`-bit number gives an `n`-bit number. -/
theorem putBits_lt (v hi lo x n : Nat) (h : lo ≤ hi) (hn : hi < n) (hv : v < 2 ^ n) : putBits v hi lo x < 2 ^ n := by
  rw [putBits_eq v hi lo x h]
  have e1 : 2 ^ n = 2 ^ (n - (hi + 1)) * 2 ^ (hi + 1) := by rw [← pow_add]; congr 1; omega
  have hq : v / 2 ^ (hi + 1) + 1 ≤ 2 ^ (n - (hi + 1)) := by
    apply Nat.div_lt_of_lt_mul
    rw [mul_comm, ← e1]
    exact hv
  have e2 : 2 ^ (hi + 1) = 2 ^ (hi + 1 - lo) * 2 ^ lo := by rw [← pow_add]; congr 1; omega
  have hx : x % 2 ^ (hi + 1 - lo) + 1 ≤ 2 ^ (hi + 1 - lo) := Nat.mod_lt _ (by positivity)
  have hr : v % 2 ^ lo < 2 ^ lo := Nat.mod_lt _ (by positivity)
  have m1 := Nat.mul_le_mul_right (2 ^ (hi + 1)) hq
  have m2 := Nat.mul_le_mul_right (2 ^ lo) hx
  rw [← e1, add_mul, one_mul] at m1
  rw [← e2, add_mul, one_mul] at m2
  omega

@[simp] theorem wd_toNat (n : Nat) (h : n < 2 ^ 24) : (wd n).toNat = n := by
  rw [wd, BitVec.toNat_ofNat, Nat.mod_eq_of_lt h]

/-- A bit, read back as a number. -/
@[simp] theorem bitOf_mod_two (b : Bool) : bitOf b % 2 = bitOf b := by cases b <;> rfl

@[simp] theorem bitOf_eq_one (b : Bool) : (bitOf b == 1) = b := by cases b <;> rfl

end Sys2Proof.Machine
end

