-- ==== Sys2Proof/Laws/Commands.lean ====
section
/-!
SUPPORT. What the taking of a command does, once: an accepted command's body runs and its words are the reply.
-/

namespace Sys2Proof.Machine

theorem header_code (code n seq : Nat) (hc : code < 256) (hn : n ≤ 63) (hs : seq < 1024) :
    bits (header code n seq).toNat 23 16 = code := by
  simp [header, wd, bits, BitVec.toNat_ofNat]; omega

theorem header_count (code n seq : Nat) (hn : n ≤ 63) (hs : seq < 1024) :
    bits (header code n seq).toNat 15 10 = n := by
  simp [header, wd, bits, BitVec.toNat_ofNat]; omega

/-- An accepted command runs its body, and the words that the body answers are its reply. -/
theorem cmd_of_accepts {s : State} {h : HalfId} {secure : Bool} {code : Nat} {seq : BitVec 10} {pay : List Word}
    (body : State → State × List Word) (hc : code < 256) (ha : s.blk.accepts h secure code seq pay = true) :
    s.cmd h secure code seq pay body =
      .next { (body s).1 with blk := (body s).1.blk.reply h secure (header code pay.length seq.toNat) (body s).2 } := by
  have hs : seq.toNat < 1024 := seq.isLt
  unfold Block.accepts at ha
  simp only [Bool.and_eq_true, decide_eq_true_eq, Option.isNone_iff_eq_none] at ha
  obtain ⟨⟨⟨h1, h2⟩, h3⟩, h4⟩ := ha
  unfold State.cmd State.command
  simp only [header_code code _ _ hc h3 hs, header_count code _ _ h3 hs, h1, h2, h4, Bool.not_true, Bool.false_eq_true, if_false]

/-- A command that comes while HIP does not act is kept, whatever it is (rule R361). -/
theorem cmd_of_waiting {s : State} {h : HalfId} (secure : Bool) (code : Nat) (seq : BitVec 10) (pay : List Word)
    (body : State → State × List Word) (hw : s.blk.hipActs h = false) :
    s.cmd h secure code seq pay body =
      .next { s with blk := s.blk.keepCommand h secure (header code pay.length seq.toNat) pay } := by
  simp [State.cmd, State.command, hw]

end Sys2Proof.Machine
end

