-- ==== Sys2Proof/Laws/State.lean ====
section
/-!
SUPPORT. What each update of the block leaves alone: one lemma per field and update, so that no proof unfolds a record.
-/

namespace Sys2Proof.Machine

variable (s : Block) (h k : HalfId)

/-! ## Register writes change the register file only -/

@[simp] theorem Block.setW_ha (r : Reg) (v : Word) (i j : Nat) : (s.setW h r v i j).ha = s.ha := rfl
@[simp] theorem Block.setW_hb (r : Reg) (v : Word) (i j : Nat) : (s.setW h r v i j).hb = s.hb := rfl
@[simp] theorem Block.setW_ab (r : Reg) (v : Word) (i j : Nat) : (s.setW h r v i j).ab = s.ab := rfl
@[simp] theorem Block.setW_ba (r : Reg) (v : Word) (i j : Nat) : (s.setW h r v i j).ba = s.ba := rfl
@[simp] theorem Block.setW_fe (r : Reg) (v : Word) (i j : Nat) : (s.setW h r v i j).fe = s.fe := rfl
@[simp] theorem Block.setW_bhs (r : Reg) (v : Word) (i j : Nat) : (s.setW h r v i j).bhs = s.bhs := rfl
@[simp] theorem Block.setW_chop (r : Reg) (v : Word) (i j : Nat) : (s.setW h r v i j).chop = s.chop := rfl
@[simp] theorem Block.setW_tmr (r : Reg) (v : Word) (i j : Nat) : (s.setW h r v i j).tmr = s.tmr := rfl
@[simp] theorem Block.setW_fails (r : Reg) (v : Word) (i j : Nat) : (s.setW h r v i j).fails = s.fails := rfl
@[simp] theorem Block.setW_lockout (r : Reg) (v : Word) (i j : Nat) : (s.setW h r v i j).lockout = s.lockout := rfl
@[simp] theorem Block.setW_own (r : Reg) (v : Word) (i j : Nat) : (s.setW h r v i j).own = s.own := rfl
@[simp] theorem Block.setW_latchAt (r : Reg) (v : Word) (i j : Nat) : (s.setW h r v i j).latchAt = s.latchAt := rfl
@[simp] theorem Block.setW_segNew (r : Reg) (v : Word) (i j : Nat) : (s.setW h r v i j).segNew = s.segNew := rfl
@[simp] theorem Block.setW_segDrift (r : Reg) (v : Word) (i j : Nat) : (s.setW h r v i j).segDrift = s.segDrift := rfl
@[simp] theorem Block.setW_junction (r : Reg) (v : Word) (i j : Nat) : (s.setW h r v i j).junction = s.junction := rfl
@[simp] theorem Block.setW_keyIn (r : Reg) (v : Word) (i j : Nat) : (s.setW h r v i j).keyIn = s.keyIn := rfl
@[simp] theorem Block.setW_segDue (r : Reg) (v : Word) (i j : Nat) : (s.setW h r v i j).segDue = s.segDue := rfl
@[simp] theorem Block.setW_busErr (r : Reg) (v : Word) (i j : Nat) : (s.setW h r v i j).busErr = s.busErr := rfl
@[simp] theorem Block.setW_busData (r : Reg) (v : Word) (i j : Nat) : (s.setW h r v i j).busData = s.busData := rfl
@[simp] theorem Block.setW_fresh (r : Reg) (v : Word) (i j : Nat) : (s.setW h r v i j).fresh = s.fresh := rfl
@[simp] theorem Block.setW_half (r : Reg) (v : Word) (i j : Nat) : (s.setW h r v i j).half k = s.half k := by cases k <;> rfl
@[simp] theorem Block.setW_lane (r : Reg) (v : Word) (i j : Nat) : (s.setW h r v i j).lane k = s.lane k := by cases k <;> rfl

@[simp] theorem Block.setF_ha (x : Fld) (v i j : Nat) : (s.setF h x v i j).ha = s.ha := rfl
@[simp] theorem Block.setF_hb (x : Fld) (v i j : Nat) : (s.setF h x v i j).hb = s.hb := rfl
@[simp] theorem Block.setF_ab (x : Fld) (v i j : Nat) : (s.setF h x v i j).ab = s.ab := rfl
@[simp] theorem Block.setF_ba (x : Fld) (v i j : Nat) : (s.setF h x v i j).ba = s.ba := rfl
@[simp] theorem Block.setF_fe (x : Fld) (v i j : Nat) : (s.setF h x v i j).fe = s.fe := rfl
@[simp] theorem Block.setF_bhs (x : Fld) (v i j : Nat) : (s.setF h x v i j).bhs = s.bhs := rfl
@[simp] theorem Block.setF_chop (x : Fld) (v i j : Nat) : (s.setF h x v i j).chop = s.chop := rfl
@[simp] theorem Block.setF_tmr (x : Fld) (v i j : Nat) : (s.setF h x v i j).tmr = s.tmr := rfl
@[simp] theorem Block.setF_fails (x : Fld) (v i j : Nat) : (s.setF h x v i j).fails = s.fails := rfl
@[simp] theorem Block.setF_lockout (x : Fld) (v i j : Nat) : (s.setF h x v i j).lockout = s.lockout := rfl
@[simp] theorem Block.setF_own (x : Fld) (v i j : Nat) : (s.setF h x v i j).own = s.own := rfl
@[simp] theorem Block.setF_latchAt (x : Fld) (v i j : Nat) : (s.setF h x v i j).latchAt = s.latchAt := rfl
@[simp] theorem Block.setF_segNew (x : Fld) (v i j : Nat) : (s.setF h x v i j).segNew = s.segNew := rfl
@[simp] theorem Block.setF_segDrift (x : Fld) (v i j : Nat) : (s.setF h x v i j).segDrift = s.segDrift := rfl
@[simp] theorem Block.setF_junction (x : Fld) (v i j : Nat) : (s.setF h x v i j).junction = s.junction := rfl
@[simp] theorem Block.setF_keyIn (x : Fld) (v i j : Nat) : (s.setF h x v i j).keyIn = s.keyIn := rfl
@[simp] theorem Block.setF_segDue (x : Fld) (v i j : Nat) : (s.setF h x v i j).segDue = s.segDue := rfl
@[simp] theorem Block.setF_busErr (x : Fld) (v i j : Nat) : (s.setF h x v i j).busErr = s.busErr := rfl
@[simp] theorem Block.setF_busData (x : Fld) (v i j : Nat) : (s.setF h x v i j).busData = s.busData := rfl
@[simp] theorem Block.setF_fresh (x : Fld) (v i j : Nat) : (s.setF h x v i j).fresh = s.fresh := rfl
@[simp] theorem Block.setF_half (x : Fld) (v i j : Nat) : (s.setF h x v i j).half k = s.half k := by cases k <;> rfl
@[simp] theorem Block.setF_lane (x : Fld) (v i j : Nat) : (s.setF h x v i j).lane k = s.lane k := by cases k <;> rfl

@[simp] theorem Block.clearW_ha (r : Reg) (i j : Nat) : (s.clearW h r i j).ha = s.ha := rfl
@[simp] theorem Block.clearW_hb (r : Reg) (i j : Nat) : (s.clearW h r i j).hb = s.hb := rfl
@[simp] theorem Block.clearW_ab (r : Reg) (i j : Nat) : (s.clearW h r i j).ab = s.ab := rfl
@[simp] theorem Block.clearW_ba (r : Reg) (i j : Nat) : (s.clearW h r i j).ba = s.ba := rfl
@[simp] theorem Block.clearW_fe (r : Reg) (i j : Nat) : (s.clearW h r i j).fe = s.fe := rfl
@[simp] theorem Block.clearW_bhs (r : Reg) (i j : Nat) : (s.clearW h r i j).bhs = s.bhs := rfl
@[simp] theorem Block.clearW_chop (r : Reg) (i j : Nat) : (s.clearW h r i j).chop = s.chop := rfl
@[simp] theorem Block.clearW_tmr (r : Reg) (i j : Nat) : (s.clearW h r i j).tmr = s.tmr := rfl
@[simp] theorem Block.clearW_fails (r : Reg) (i j : Nat) : (s.clearW h r i j).fails = s.fails := rfl
@[simp] theorem Block.clearW_lockout (r : Reg) (i j : Nat) : (s.clearW h r i j).lockout = s.lockout := rfl
@[simp] theorem Block.clearW_own (r : Reg) (i j : Nat) : (s.clearW h r i j).own = s.own := rfl
@[simp] theorem Block.clearW_latchAt (r : Reg) (i j : Nat) : (s.clearW h r i j).latchAt = s.latchAt := rfl
@[simp] theorem Block.clearW_segNew (r : Reg) (i j : Nat) : (s.clearW h r i j).segNew = s.segNew := rfl
@[simp] theorem Block.clearW_segDrift (r : Reg) (i j : Nat) : (s.clearW h r i j).segDrift = s.segDrift := rfl
@[simp] theorem Block.clearW_junction (r : Reg) (i j : Nat) : (s.clearW h r i j).junction = s.junction := rfl
@[simp] theorem Block.clearW_keyIn (r : Reg) (i j : Nat) : (s.clearW h r i j).keyIn = s.keyIn := rfl
@[simp] theorem Block.clearW_segDue (r : Reg) (i j : Nat) : (s.clearW h r i j).segDue = s.segDue := rfl
@[simp] theorem Block.clearW_busErr (r : Reg) (i j : Nat) : (s.clearW h r i j).busErr = s.busErr := rfl
@[simp] theorem Block.clearW_busData (r : Reg) (i j : Nat) : (s.clearW h r i j).busData = s.busData := rfl
@[simp] theorem Block.clearW_fresh (r : Reg) (i j : Nat) : (s.clearW h r i j).fresh = s.fresh := rfl
@[simp] theorem Block.clearW_half (r : Reg) (i j : Nat) : (s.clearW h r i j).half k = s.half k := by cases k <;> rfl
@[simp] theorem Block.clearW_lane (r : Reg) (i j : Nat) : (s.clearW h r i j).lane k = s.lane k := by cases k <;> rfl

@[simp] theorem Block.count_ha (x : Fld) (i j : Nat) : (s.count h x i j).ha = s.ha := by
  unfold Block.count; dsimp only; split <;> rfl
@[simp] theorem Block.count_hb (x : Fld) (i j : Nat) : (s.count h x i j).hb = s.hb := by
  unfold Block.count; dsimp only; split <;> rfl
@[simp] theorem Block.count_ab (x : Fld) (i j : Nat) : (s.count h x i j).ab = s.ab := by
  unfold Block.count; dsimp only; split <;> rfl
@[simp] theorem Block.count_ba (x : Fld) (i j : Nat) : (s.count h x i j).ba = s.ba := by
  unfold Block.count; dsimp only; split <;> rfl
@[simp] theorem Block.count_fe (x : Fld) (i j : Nat) : (s.count h x i j).fe = s.fe := by
  unfold Block.count; dsimp only; split <;> rfl
@[simp] theorem Block.count_bhs (x : Fld) (i j : Nat) : (s.count h x i j).bhs = s.bhs := by
  unfold Block.count; dsimp only; split <;> rfl
@[simp] theorem Block.count_chop (x : Fld) (i j : Nat) : (s.count h x i j).chop = s.chop := by
  unfold Block.count; dsimp only; split <;> rfl
@[simp] theorem Block.count_tmr (x : Fld) (i j : Nat) : (s.count h x i j).tmr = s.tmr := by
  unfold Block.count; dsimp only; split <;> rfl
@[simp] theorem Block.count_fails (x : Fld) (i j : Nat) : (s.count h x i j).fails = s.fails := by
  unfold Block.count; dsimp only; split <;> rfl
@[simp] theorem Block.count_lockout (x : Fld) (i j : Nat) : (s.count h x i j).lockout = s.lockout := by
  unfold Block.count; dsimp only; split <;> rfl
@[simp] theorem Block.count_own (x : Fld) (i j : Nat) : (s.count h x i j).own = s.own := by
  unfold Block.count; dsimp only; split <;> rfl
@[simp] theorem Block.count_latchAt (x : Fld) (i j : Nat) : (s.count h x i j).latchAt = s.latchAt := by
  unfold Block.count; dsimp only; split <;> rfl
@[simp] theorem Block.count_segNew (x : Fld) (i j : Nat) : (s.count h x i j).segNew = s.segNew := by
  unfold Block.count; dsimp only; split <;> rfl
@[simp] theorem Block.count_segDrift (x : Fld) (i j : Nat) : (s.count h x i j).segDrift = s.segDrift := by
  unfold Block.count; dsimp only; split <;> rfl
@[simp] theorem Block.count_junction (x : Fld) (i j : Nat) : (s.count h x i j).junction = s.junction := by
  unfold Block.count; dsimp only; split <;> rfl
@[simp] theorem Block.count_keyIn (x : Fld) (i j : Nat) : (s.count h x i j).keyIn = s.keyIn := by
  unfold Block.count; dsimp only; split <;> rfl
@[simp] theorem Block.count_segDue (x : Fld) (i j : Nat) : (s.count h x i j).segDue = s.segDue := by
  unfold Block.count; dsimp only; split <;> rfl
@[simp] theorem Block.count_busErr (x : Fld) (i j : Nat) : (s.count h x i j).busErr = s.busErr := by
  unfold Block.count; dsimp only; split <;> rfl
@[simp] theorem Block.count_busData (x : Fld) (i j : Nat) : (s.count h x i j).busData = s.busData := by
  unfold Block.count; dsimp only; split <;> rfl
@[simp] theorem Block.count_fresh (x : Fld) (i j : Nat) : (s.count h x i j).fresh = s.fresh := by
  unfold Block.count; dsimp only; split <;> rfl
@[simp] theorem Block.count_half (x : Fld) (i j : Nat) : (s.count h x i j).half k = s.half k := by
  cases k <;> simp [Block.half]
@[simp] theorem Block.count_lane (x : Fld) (i j : Nat) : (s.count h x i j).lane k = s.lane k := by
  cases k <;> simp [Block.lane]

/-! ## Changes of a half leave the registers and the rest alone -/

@[simp] theorem Block.setHalf_regs (x : Half) : (s.setHalf h x).regs = s.regs := by cases h <;> rfl
@[simp] theorem Block.setHalf_ab (x : Half) : (s.setHalf h x).ab = s.ab := by cases h <;> rfl
@[simp] theorem Block.setHalf_ba (x : Half) : (s.setHalf h x).ba = s.ba := by cases h <;> rfl
@[simp] theorem Block.setHalf_fe (x : Half) : (s.setHalf h x).fe = s.fe := by cases h <;> rfl
@[simp] theorem Block.setHalf_bhs (x : Half) : (s.setHalf h x).bhs = s.bhs := by cases h <;> rfl
@[simp] theorem Block.setHalf_chop (x : Half) : (s.setHalf h x).chop = s.chop := by cases h <;> rfl
@[simp] theorem Block.setHalf_tmr (x : Half) : (s.setHalf h x).tmr = s.tmr := by cases h <;> rfl
@[simp] theorem Block.setHalf_fails (x : Half) : (s.setHalf h x).fails = s.fails := by cases h <;> rfl
@[simp] theorem Block.setHalf_lockout (x : Half) : (s.setHalf h x).lockout = s.lockout := by cases h <;> rfl
@[simp] theorem Block.setHalf_own (x : Half) : (s.setHalf h x).own = s.own := by cases h <;> rfl
@[simp] theorem Block.setHalf_latchAt (x : Half) : (s.setHalf h x).latchAt = s.latchAt := by cases h <;> rfl
@[simp] theorem Block.setHalf_segNew (x : Half) : (s.setHalf h x).segNew = s.segNew := by cases h <;> rfl
@[simp] theorem Block.setHalf_segDrift (x : Half) : (s.setHalf h x).segDrift = s.segDrift := by cases h <;> rfl
@[simp] theorem Block.setHalf_junction (x : Half) : (s.setHalf h x).junction = s.junction := by cases h <;> rfl
@[simp] theorem Block.setHalf_keyIn (x : Half) : (s.setHalf h x).keyIn = s.keyIn := by cases h <;> rfl
@[simp] theorem Block.setHalf_segDue (x : Half) : (s.setHalf h x).segDue = s.segDue := by cases h <;> rfl
@[simp] theorem Block.setHalf_busErr (x : Half) : (s.setHalf h x).busErr = s.busErr := by cases h <;> rfl
@[simp] theorem Block.setHalf_busData (x : Half) : (s.setHalf h x).busData = s.busData := by cases h <;> rfl
@[simp] theorem Block.setHalf_fresh (x : Half) : (s.setHalf h x).fresh = s.fresh := by cases h <;> rfl
@[simp] theorem Block.setHalf_w (x : Half) (r : Reg) (i j : Nat) : (s.setHalf h x).w k r i j = s.w k r i j := by cases h <;> rfl
@[simp] theorem Block.setHalf_f (x : Half) (y : Fld) (i j : Nat) : (s.setHalf h x).f k y i j = s.f k y i j := by cases h <;> rfl
@[simp] theorem Block.setHalf_on (x : Half) (y : Fld) (i j : Nat) : (s.setHalf h x).on k y i j = s.on k y i j := by cases h <;> rfl
@[simp] theorem Block.setHalf_lane (x : Half) : (s.setHalf h x).lane k = s.lane k := by cases h <;> cases k <;> rfl

@[simp] theorem Block.modHalf_regs (f : Half → Half) : (s.modHalf h f).regs = s.regs := by cases h <;> rfl
@[simp] theorem Block.modHalf_ab (f : Half → Half) : (s.modHalf h f).ab = s.ab := by cases h <;> rfl
@[simp] theorem Block.modHalf_ba (f : Half → Half) : (s.modHalf h f).ba = s.ba := by cases h <;> rfl
@[simp] theorem Block.modHalf_fe (f : Half → Half) : (s.modHalf h f).fe = s.fe := by cases h <;> rfl
@[simp] theorem Block.modHalf_bhs (f : Half → Half) : (s.modHalf h f).bhs = s.bhs := by cases h <;> rfl
@[simp] theorem Block.modHalf_chop (f : Half → Half) : (s.modHalf h f).chop = s.chop := by cases h <;> rfl
@[simp] theorem Block.modHalf_tmr (f : Half → Half) : (s.modHalf h f).tmr = s.tmr := by cases h <;> rfl
@[simp] theorem Block.modHalf_fails (f : Half → Half) : (s.modHalf h f).fails = s.fails := by cases h <;> rfl
@[simp] theorem Block.modHalf_lockout (f : Half → Half) : (s.modHalf h f).lockout = s.lockout := by cases h <;> rfl
@[simp] theorem Block.modHalf_own (f : Half → Half) : (s.modHalf h f).own = s.own := by cases h <;> rfl
@[simp] theorem Block.modHalf_latchAt (f : Half → Half) : (s.modHalf h f).latchAt = s.latchAt := by cases h <;> rfl
@[simp] theorem Block.modHalf_segNew (f : Half → Half) : (s.modHalf h f).segNew = s.segNew := by cases h <;> rfl
@[simp] theorem Block.modHalf_segDrift (f : Half → Half) : (s.modHalf h f).segDrift = s.segDrift := by cases h <;> rfl
@[simp] theorem Block.modHalf_junction (f : Half → Half) : (s.modHalf h f).junction = s.junction := by cases h <;> rfl
@[simp] theorem Block.modHalf_keyIn (f : Half → Half) : (s.modHalf h f).keyIn = s.keyIn := by cases h <;> rfl
@[simp] theorem Block.modHalf_segDue (f : Half → Half) : (s.modHalf h f).segDue = s.segDue := by cases h <;> rfl
@[simp] theorem Block.modHalf_busErr (f : Half → Half) : (s.modHalf h f).busErr = s.busErr := by cases h <;> rfl
@[simp] theorem Block.modHalf_busData (f : Half → Half) : (s.modHalf h f).busData = s.busData := by cases h <;> rfl
@[simp] theorem Block.modHalf_fresh (f : Half → Half) : (s.modHalf h f).fresh = s.fresh := by cases h <;> rfl
@[simp] theorem Block.modHalf_w (f : Half → Half) (r : Reg) (i j : Nat) : (s.modHalf h f).w k r i j = s.w k r i j := by cases h <;> rfl
@[simp] theorem Block.modHalf_f (f : Half → Half) (y : Fld) (i j : Nat) : (s.modHalf h f).f k y i j = s.f k y i j := by cases h <;> rfl
@[simp] theorem Block.modHalf_on (f : Half → Half) (y : Fld) (i j : Nat) : (s.modHalf h f).on k y i j = s.on k y i j := by cases h <;> rfl
@[simp] theorem Block.modHalf_lane (f : Half → Half) : (s.modHalf h f).lane k = s.lane k := by cases h <;> cases k <;> rfl

@[simp] theorem Block.setHalf_half (x : Half) : (s.setHalf h x).half h = x := by cases h <;> rfl
@[simp] theorem Block.setHalf_half_peer (x : Half) : (s.setHalf h x).half h.peer = s.half h.peer := by cases h <;> rfl
@[simp] theorem Block.setHalf_self : s.setHalf h (s.half h) = s := by cases h <;> rfl
@[simp] theorem Block.modHalf_half (f : Half → Half) : (s.modHalf h f).half h = f (s.half h) := by cases h <;> rfl
@[simp] theorem Block.modHalf_half_peer (f : Half → Half) : (s.modHalf h f).half h.peer = s.half h.peer := by cases h <;> rfl

theorem Block.setHalf_half_ne (x : Half) (hk : k ≠ h) : (s.setHalf h x).half k = s.half k := by
  cases h <;> cases k <;> first | rfl | exact absurd rfl hk

theorem Block.modHalf_half_ne (f : Half → Half) (hk : k ≠ h) : (s.modHalf h f).half k = s.half k := by
  cases h <;> cases k <;> first | rfl | exact absurd rfl hk

@[simp] theorem HalfId.peer_peer : h.peer.peer = h := by cases h <;> rfl

theorem HalfId.peer_ne : h.peer ≠ h := by cases h <;> exact HalfId.noConfusion

/-! ## The bridge lanes -/

@[simp] theorem Block.setLane_regs (l : Lane) : (s.setLane h l).regs = s.regs := by cases h <;> rfl
@[simp] theorem Block.setLane_ha (l : Lane) : (s.setLane h l).ha = s.ha := by cases h <;> rfl
@[simp] theorem Block.setLane_hb (l : Lane) : (s.setLane h l).hb = s.hb := by cases h <;> rfl
@[simp] theorem Block.setLane_fe (l : Lane) : (s.setLane h l).fe = s.fe := by cases h <;> rfl
@[simp] theorem Block.setLane_bhs (l : Lane) : (s.setLane h l).bhs = s.bhs := by cases h <;> rfl
@[simp] theorem Block.setLane_chop (l : Lane) : (s.setLane h l).chop = s.chop := by cases h <;> rfl
@[simp] theorem Block.setLane_tmr (l : Lane) : (s.setLane h l).tmr = s.tmr := by cases h <;> rfl
@[simp] theorem Block.setLane_fails (l : Lane) : (s.setLane h l).fails = s.fails := by cases h <;> rfl
@[simp] theorem Block.setLane_lockout (l : Lane) : (s.setLane h l).lockout = s.lockout := by cases h <;> rfl
@[simp] theorem Block.setLane_own (l : Lane) : (s.setLane h l).own = s.own := by cases h <;> rfl
@[simp] theorem Block.setLane_latchAt (l : Lane) : (s.setLane h l).latchAt = s.latchAt := by cases h <;> rfl
@[simp] theorem Block.setLane_segNew (l : Lane) : (s.setLane h l).segNew = s.segNew := by cases h <;> rfl
@[simp] theorem Block.setLane_segDrift (l : Lane) : (s.setLane h l).segDrift = s.segDrift := by cases h <;> rfl
@[simp] theorem Block.setLane_junction (l : Lane) : (s.setLane h l).junction = s.junction := by cases h <;> rfl
@[simp] theorem Block.setLane_keyIn (l : Lane) : (s.setLane h l).keyIn = s.keyIn := by cases h <;> rfl
@[simp] theorem Block.setLane_segDue (l : Lane) : (s.setLane h l).segDue = s.segDue := by cases h <;> rfl
@[simp] theorem Block.setLane_busErr (l : Lane) : (s.setLane h l).busErr = s.busErr := by cases h <;> rfl
@[simp] theorem Block.setLane_busData (l : Lane) : (s.setLane h l).busData = s.busData := by cases h <;> rfl
@[simp] theorem Block.setLane_fresh (l : Lane) : (s.setLane h l).fresh = s.fresh := by cases h <;> rfl
@[simp] theorem Block.setLane_half (l : Lane) : (s.setLane h l).half k = s.half k := by cases h <;> cases k <;> rfl
@[simp] theorem Block.setLane_w (l : Lane) (r : Reg) (i j : Nat) : (s.setLane h l).w k r i j = s.w k r i j := by cases h <;> rfl
@[simp] theorem Block.setLane_f (l : Lane) (x : Fld) (i j : Nat) : (s.setLane h l).f k x i j = s.f k x i j := by cases h <;> rfl
@[simp] theorem Block.setLane_on (l : Lane) (x : Fld) (i j : Nat) : (s.setLane h l).on k x i j = s.on k x i j := by cases h <;> rfl
@[simp] theorem Block.setLane_setLane (l m : Lane) : (s.setLane h l).setLane h m = s.setLane h m := by cases h <;> rfl
@[simp] theorem Block.modHalf_modHalf (f g : Half → Half) : (s.modHalf h f).modHalf h g = s.modHalf h fun x => g (f x) := by cases h <;> rfl
@[simp] theorem Block.setLane_lane (l : Lane) : (s.setLane h l).lane h = l := by cases h <;> rfl

/-! ## Notices touch the notice queues of one half only -/

theorem Block.notice_eq (code : Nat) (ws : List Word) (hr : (s.half h).hip.running = true) :
    s.notice h code ws = s.modHalf h fun x => x.addNotice code ws := by
  cases h <;> simp_all [Block.notice, Block.modHalf, Block.half, Block.setHalf]

@[simp] theorem Block.notice_regs (code : Nat) (ws : List Word) : (s.notice h code ws).regs = s.regs := by simp [Block.notice]
@[simp] theorem Block.notice_w (code : Nat) (ws : List Word) (r : Reg) (i j : Nat) :
    (s.notice h code ws).w k r i j = s.w k r i j := by simp [Block.notice]
@[simp] theorem Block.notice_f (code : Nat) (ws : List Word) (x : Fld) (i j : Nat) :
    (s.notice h code ws).f k x i j = s.f k x i j := by simp [Block.notice]
@[simp] theorem Block.notice_on (code : Nat) (ws : List Word) (x : Fld) (i j : Nat) :
    (s.notice h code ws).on k x i j = s.on k x i j := by simp [Block.notice]
@[simp] theorem Half.addNotice_out6 (x : Half) (code : Nat) (ws : List Word) :
    (x.addNotice code ws).hip.out6 = x.hip.out6 ++ [⟨code, x.hip.seq, ws⟩] := rfl
@[simp] theorem Half.addNotice_seq (x : Half) (code : Nat) (ws : List Word) :
    (x.addNotice code ws).hip.seq = (x.hip.seq + 1) % 1024 := rfl

/-! ## What a command leaves beside the block -/

@[simp] theorem State.put_next (t : State) (b : Block) : t.put b = .next { t with blk := b } := rfl

end Sys2Proof.Machine
end

