-- ==== Sys2Proof/Laws/Halves.lean ====
section
/-!
SUPPORT. What the change of one unit of a half leaves: the half as that change makes it, the peer half and every register as before.
-/

namespace Sys2Proof.Machine

variable (s : Block) (h : HalfId)

@[simp] theorem Block.modClk_half (g : Clock → Clock) : (s.modClk h g).half h = { s.half h with clk := g (s.half h).clk } :=
  Block.modHalf_half s h _
@[simp] theorem Block.modClk_peer (g : Clock → Clock) : (s.modClk h g).half h.peer = s.half h.peer := Block.modHalf_half_peer s h _
@[simp] theorem Block.modClk_regs (g : Clock → Clock) : (s.modClk h g).regs = s.regs := Block.modHalf_regs s h _
@[simp] theorem Block.modClk_w (g : Clock → Clock) (k : HalfId) (r : Reg) (i j : Nat) : (s.modClk h g).w k r i j = s.w k r i j :=
  Block.modHalf_w s h k _ r i j
@[simp] theorem Block.modClk_f (g : Clock → Clock) (k : HalfId) (y : Fld) (i j : Nat) : (s.modClk h g).f k y i j = s.f k y i j :=
  Block.modHalf_f s h k _ y i j
@[simp] theorem Block.modClk_lane (g : Clock → Clock) (k : HalfId) : (s.modClk h g).lane k = s.lane k := Block.modHalf_lane s h k _

@[simp] theorem Block.modSched_half (g : Sched → Sched) : (s.modSched h g).half h = { s.half h with sched := g (s.half h).sched } :=
  Block.modHalf_half s h _
@[simp] theorem Block.modSched_peer (g : Sched → Sched) : (s.modSched h g).half h.peer = s.half h.peer := Block.modHalf_half_peer s h _
@[simp] theorem Block.modSched_regs (g : Sched → Sched) : (s.modSched h g).regs = s.regs := Block.modHalf_regs s h _
@[simp] theorem Block.modSched_w (g : Sched → Sched) (k : HalfId) (r : Reg) (i j : Nat) : (s.modSched h g).w k r i j = s.w k r i j :=
  Block.modHalf_w s h k _ r i j
@[simp] theorem Block.modSched_f (g : Sched → Sched) (k : HalfId) (y : Fld) (i j : Nat) : (s.modSched h g).f k y i j = s.f k y i j :=
  Block.modHalf_f s h k _ y i j
@[simp] theorem Block.modSched_lane (g : Sched → Sched) (k : HalfId) : (s.modSched h g).lane k = s.lane k := Block.modHalf_lane s h k _

@[simp] theorem Block.modHip_half (g : Hip → Hip) : (s.modHip h g).half h = { s.half h with hip := g (s.half h).hip } :=
  Block.modHalf_half s h _
@[simp] theorem Block.modHip_peer (g : Hip → Hip) : (s.modHip h g).half h.peer = s.half h.peer := Block.modHalf_half_peer s h _
@[simp] theorem Block.modHip_regs (g : Hip → Hip) : (s.modHip h g).regs = s.regs := Block.modHalf_regs s h _
@[simp] theorem Block.modHip_w (g : Hip → Hip) (k : HalfId) (r : Reg) (i j : Nat) : (s.modHip h g).w k r i j = s.w k r i j :=
  Block.modHalf_w s h k _ r i j
@[simp] theorem Block.modHip_f (g : Hip → Hip) (k : HalfId) (y : Fld) (i j : Nat) : (s.modHip h g).f k y i j = s.f k y i j :=
  Block.modHalf_f s h k _ y i j
@[simp] theorem Block.modHip_lane (g : Hip → Hip) (k : HalfId) : (s.modHip h g).lane k = s.lane k := Block.modHalf_lane s h k _

@[simp] theorem Block.modHl_half (g : HelmLog → HelmLog) : (s.modHl h g).half h = { s.half h with hl := g (s.half h).hl } :=
  Block.modHalf_half s h _
@[simp] theorem Block.modHl_peer (g : HelmLog → HelmLog) : (s.modHl h g).half h.peer = s.half h.peer := Block.modHalf_half_peer s h _
@[simp] theorem Block.modHl_regs (g : HelmLog → HelmLog) : (s.modHl h g).regs = s.regs := Block.modHalf_regs s h _
@[simp] theorem Block.modHl_w (g : HelmLog → HelmLog) (k : HalfId) (r : Reg) (i j : Nat) : (s.modHl h g).w k r i j = s.w k r i j :=
  Block.modHalf_w s h k _ r i j
@[simp] theorem Block.modHl_f (g : HelmLog → HelmLog) (k : HalfId) (y : Fld) (i j : Nat) : (s.modHl h g).f k y i j = s.f k y i j :=
  Block.modHalf_f s h k _ y i j
@[simp] theorem Block.modHl_lane (g : HelmLog → HelmLog) (k : HalfId) : (s.modHl h g).lane k = s.lane k := Block.modHalf_lane s h k _

@[simp] theorem Block.modAtu_half (g : Atu → Atu) : (s.modAtu h g).half h = { s.half h with atu := g (s.half h).atu } :=
  Block.modHalf_half s h _
@[simp] theorem Block.modAtu_peer (g : Atu → Atu) : (s.modAtu h g).half h.peer = s.half h.peer := Block.modHalf_half_peer s h _
@[simp] theorem Block.modAtu_regs (g : Atu → Atu) : (s.modAtu h g).regs = s.regs := Block.modHalf_regs s h _
@[simp] theorem Block.modAtu_w (g : Atu → Atu) (k : HalfId) (r : Reg) (i j : Nat) : (s.modAtu h g).w k r i j = s.w k r i j :=
  Block.modHalf_w s h k _ r i j
@[simp] theorem Block.modAtu_f (g : Atu → Atu) (k : HalfId) (y : Fld) (i j : Nat) : (s.modAtu h g).f k y i j = s.f k y i j :=
  Block.modHalf_f s h k _ y i j
@[simp] theorem Block.modAtu_lane (g : Atu → Atu) (k : HalfId) : (s.modAtu h g).lane k = s.lane k := Block.modHalf_lane s h k _

@[simp] theorem Block.modFab_half (g : Fabric → Fabric) : (s.modFab h g).half h = { s.half h with fab := g (s.half h).fab } :=
  Block.modHalf_half s h _
@[simp] theorem Block.modFab_peer (g : Fabric → Fabric) : (s.modFab h g).half h.peer = s.half h.peer := Block.modHalf_half_peer s h _
@[simp] theorem Block.modFab_regs (g : Fabric → Fabric) : (s.modFab h g).regs = s.regs := Block.modHalf_regs s h _
@[simp] theorem Block.modFab_w (g : Fabric → Fabric) (k : HalfId) (r : Reg) (i j : Nat) : (s.modFab h g).w k r i j = s.w k r i j :=
  Block.modHalf_w s h k _ r i j
@[simp] theorem Block.modFab_f (g : Fabric → Fabric) (k : HalfId) (y : Fld) (i j : Nat) : (s.modFab h g).f k y i j = s.f k y i j :=
  Block.modHalf_f s h k _ y i j
@[simp] theorem Block.modFab_lane (g : Fabric → Fabric) (k : HalfId) : (s.modFab h g).lane k = s.lane k := Block.modHalf_lane s h k _

@[simp] theorem Block.modLink_half (g : Link → Link) : (s.modLink h g).half h = { s.half h with link := g (s.half h).link } :=
  Block.modHalf_half s h _
@[simp] theorem Block.modLink_peer (g : Link → Link) : (s.modLink h g).half h.peer = s.half h.peer := Block.modHalf_half_peer s h _
@[simp] theorem Block.modLink_regs (g : Link → Link) : (s.modLink h g).regs = s.regs := Block.modHalf_regs s h _
@[simp] theorem Block.modLink_w (g : Link → Link) (k : HalfId) (r : Reg) (i j : Nat) : (s.modLink h g).w k r i j = s.w k r i j :=
  Block.modHalf_w s h k _ r i j
@[simp] theorem Block.modLink_f (g : Link → Link) (k : HalfId) (y : Fld) (i j : Nat) : (s.modLink h g).f k y i j = s.f k y i j :=
  Block.modHalf_f s h k _ y i j
@[simp] theorem Block.modLink_lane (g : Link → Link) (k : HalfId) : (s.modLink h g).lane k = s.lane k := Block.modHalf_lane s h k _

@[simp] theorem Block.modPwr_half (g : Pwr → Pwr) : (s.modPwr h g).half h = { s.half h with pwr := g (s.half h).pwr } :=
  Block.modHalf_half s h _
@[simp] theorem Block.modPwr_peer (g : Pwr → Pwr) : (s.modPwr h g).half h.peer = s.half h.peer := Block.modHalf_half_peer s h _
@[simp] theorem Block.modPwr_regs (g : Pwr → Pwr) : (s.modPwr h g).regs = s.regs := Block.modHalf_regs s h _
@[simp] theorem Block.modPwr_w (g : Pwr → Pwr) (k : HalfId) (r : Reg) (i j : Nat) : (s.modPwr h g).w k r i j = s.w k r i j :=
  Block.modHalf_w s h k _ r i j
@[simp] theorem Block.modPwr_f (g : Pwr → Pwr) (k : HalfId) (y : Fld) (i j : Nat) : (s.modPwr h g).f k y i j = s.f k y i j :=
  Block.modHalf_f s h k _ y i j
@[simp] theorem Block.modPwr_lane (g : Pwr → Pwr) (k : HalfId) : (s.modPwr h g).lane k = s.lane k := Block.modHalf_lane s h k _

@[simp] theorem Block.modCores_half (g : Cores → Cores) : (s.modCores h g).half h = { s.half h with cores := g (s.half h).cores } :=
  Block.modHalf_half s h _
@[simp] theorem Block.modCores_peer (g : Cores → Cores) : (s.modCores h g).half h.peer = s.half h.peer := Block.modHalf_half_peer s h _
@[simp] theorem Block.modCores_regs (g : Cores → Cores) : (s.modCores h g).regs = s.regs := Block.modHalf_regs s h _
@[simp] theorem Block.modCores_w (g : Cores → Cores) (k : HalfId) (r : Reg) (i j : Nat) : (s.modCores h g).w k r i j = s.w k r i j :=
  Block.modHalf_w s h k _ r i j
@[simp] theorem Block.modCores_f (g : Cores → Cores) (k : HalfId) (y : Fld) (i j : Nat) : (s.modCores h g).f k y i j = s.f k y i j :=
  Block.modHalf_f s h k _ y i j
@[simp] theorem Block.modCores_lane (g : Cores → Cores) (k : HalfId) : (s.modCores h g).lane k = s.lane k := Block.modHalf_lane s h k _

@[simp] theorem Block.modTal_half (g : Tally → Tally) : (s.modTal h g).half h = { s.half h with tal := g (s.half h).tal } :=
  Block.modHalf_half s h _
@[simp] theorem Block.modTal_peer (g : Tally → Tally) : (s.modTal h g).half h.peer = s.half h.peer := Block.modHalf_half_peer s h _
@[simp] theorem Block.modTal_regs (g : Tally → Tally) : (s.modTal h g).regs = s.regs := Block.modHalf_regs s h _
@[simp] theorem Block.modTal_w (g : Tally → Tally) (k : HalfId) (r : Reg) (i j : Nat) : (s.modTal h g).w k r i j = s.w k r i j :=
  Block.modHalf_w s h k _ r i j
@[simp] theorem Block.modTal_f (g : Tally → Tally) (k : HalfId) (y : Fld) (i j : Nat) : (s.modTal h g).f k y i j = s.f k y i j :=
  Block.modHalf_f s h k _ y i j
@[simp] theorem Block.modTal_lane (g : Tally → Tally) (k : HalfId) : (s.modTal h g).lane k = s.lane k := Block.modHalf_lane s h k _

end Sys2Proof.Machine
end

