-- ==== Sys2Proof/Laws/Memory.lean ====
section
/-!
SUPPORT. Laws of the word memory: a read after a write, the words a write leaves alone, and the canonical form.
-/

namespace Sys2Proof.Machine

@[simp] theorem memGet_nil (d : Word) (a : Nat) : memGet d [] a = d := rfl

theorem memGet_memPut_same (d : Word) (m : Mem) (a : Nat) (v : Word) : memGet d (memPut m a v) a = v := by
  induction m with
  | nil => simp [memPut, memGet]
  | cons c rest ih =>
    unfold memPut
    split
    · simp [memGet]
    · split
      · simp [memGet]
      · simp [memGet, ih]; omega

theorem memGet_memPut_ne (d : Word) (m : Mem) {a c : Nat} (v : Word) (h : c ≠ a) :
    memGet d (memPut m a v) c = memGet d m c := by
  induction m with
  | nil => simp [memPut, memGet]; omega
  | cons e rest ih =>
    unfold memPut
    split
    · simp only [memGet]; rw [if_neg (by omega)]
    · split
      · rename_i h2; simp only [memGet]; rw [if_neg (by omega), if_neg (by omega)]
      · simp [memGet, ih]

theorem memGet_memDrop_same (d : Word) (m : Mem) (a : Nat) : memGet d (memDrop m a) a = d := by
  induction m with
  | nil => rfl
  | cons e rest ih =>
    unfold memDrop
    split
    · exact ih
    · rename_i h; simp [memGet, h, ih]

theorem memGet_memDrop_ne (d : Word) (m : Mem) {a c : Nat} (h : c ≠ a) : memGet d (memDrop m a) c = memGet d m c := by
  induction m with
  | nil => rfl
  | cons e rest ih =>
    unfold memDrop
    split
    · simp only [memGet, ih]; rw [if_neg (by omega)]
    · simp [memGet, ih]

/-- A read at the address just written gives the word written. -/
@[simp] theorem memGet_memSet_same (d : Word) (m : Mem) (a : Nat) (v : Word) : memGet d (memSet d m a v) a = v := by
  unfold memSet
  split
  · rename_i h; rw [memGet_memDrop_same, h]
  · exact memGet_memPut_same d m a v

/-- A write leaves every other word as it was, whatever an unlisted address reads as. -/
theorem memGet_memSet_ne (d e : Word) (m : Mem) {a c : Nat} (v : Word) (h : c ≠ a) :
    memGet d (memSet e m a v) c = memGet d m c := by
  unfold memSet
  split
  · exact memGet_memDrop_ne d m h
  · exact memGet_memPut_ne d m v h

theorem memWfFrom_mono (f : Nat → Word) {lo lo' : Nat} (m : Mem) (hle : lo' ≤ lo) (h : memWfFrom f lo m = true) :
    memWfFrom f lo' m = true := by
  cases m with
  | nil => rfl
  | cons e rest =>
    simp only [memWfFrom, Bool.and_eq_true, decide_eq_true_eq] at h ⊢
    exact ⟨⟨by omega, h.1.2⟩, h.2⟩

theorem memWfFrom_memDrop (f : Nat → Word) (m : Mem) (a lo : Nat) (h : memWfFrom f lo m = true) :
    memWfFrom f lo (memDrop m a) = true := by
  induction m generalizing lo with
  | nil => rfl
  | cons e rest ih =>
    simp only [memWfFrom, Bool.and_eq_true, decide_eq_true_eq] at h
    unfold memDrop
    split
    · exact memWfFrom_mono f _ (by omega) (ih _ h.2)
    · simp only [memWfFrom, Bool.and_eq_true, decide_eq_true_eq]
      exact ⟨h.1, ih _ h.2⟩

theorem memWfFrom_memPut (f : Nat → Word) (m : Mem) (a : Nat) (v : Word) (lo : Nat) (hv : v ≠ f a) (hlo : lo ≤ a)
    (h : memWfFrom f lo m = true) : memWfFrom f lo (memPut m a v) = true := by
  induction m generalizing lo with
  | nil => simp [memPut, memWfFrom, hv, hlo]
  | cons e rest ih =>
    obtain ⟨b, w⟩ := e
    simp only [memWfFrom, Bool.and_eq_true, decide_eq_true_eq] at h
    unfold memPut
    split
    · simp only [memWfFrom, Bool.and_eq_true, decide_eq_true_eq]
      exact ⟨⟨hlo, hv⟩, ⟨by omega, h.1.2⟩, h.2⟩
    · split
      · rename_i h2
        subst h2
        simp only [memWfFrom, Bool.and_eq_true, decide_eq_true_eq]
        exact ⟨⟨hlo, hv⟩, h.2⟩
      · simp only [memWfFrom, Bool.and_eq_true, decide_eq_true_eq]
        exact ⟨h.1, ih _ (by omega) h.2⟩

/-- Every write of a word keeps the canonical form. -/
theorem memSet_wf (f : Nat → Word) (m : Mem) (a : Nat) (v : Word) (h : Memory.wf f m = true) :
    Memory.wf f (memSet (f a) m a v) = true := by
  unfold memSet
  split
  · exact memWfFrom_memDrop f m a 0 h
  · rename_i hv; exact memWfFrom_memPut f m a v 0 hv (Nat.zero_le a) h

end Sys2Proof.Machine
end

