-- ==== Sys2Proof/Laws/Order.lean ====
section
/-!
SUPPORT. What the ordered insertions keep: the notice queue, the log queue and the sorts behind them lose and make nothing.
-/

namespace Sys2Proof.Machine

theorem insertBy_perm {α : Type} (key : α → Nat) (x : α) (l : List α) : (insertBy key x l).Perm (x :: l) := by
  induction l with
  | nil => exact List.Perm.refl _
  | cons y ys ih =>
    simp only [insertBy]
    split
    · exact List.Perm.refl _
    · exact (ih.cons y).trans (List.Perm.swap x y ys)

theorem insertBy_pairwise {α : Type} (key : α → Nat) (x : α) (l : List α) (h : l.Pairwise fun a b => key a ≤ key b) :
    (insertBy key x l).Pairwise fun a b => key a ≤ key b := by
  induction l with
  | nil => simp [insertBy]
  | cons y ys ih =>
    obtain ⟨hy, hs⟩ := List.pairwise_cons.1 h
    simp only [insertBy]
    split
    · rename_i hlt
      refine List.pairwise_cons.2 ⟨fun z hz => ?_, h⟩
      obtain rfl | hz := List.mem_cons.1 hz
      · omega
      · have := hy z hz; omega
    · refine List.pairwise_cons.2 ⟨fun z hz => ?_, ih hs⟩
      obtain rfl | hz := List.mem_cons.1 ((insertBy_perm key x ys).mem_iff.1 hz)
      · omega
      · exact hy z hz

theorem foldl_insertBy_perm {α : Type} (key : α → Nat) (l acc : List α) :
    (l.foldl (fun a x => insertBy key x a) acc).Perm (acc ++ l) := by
  induction l generalizing acc with
  | nil => simp
  | cons x xs ih =>
    refine (ih _).trans (((insertBy_perm key x acc).append_right xs).trans ?_)
    simpa using (List.perm_middle (a := x) (l₁ := acc) (l₂ := xs)).symm

theorem sortBy_perm {α : Type} (key : α → Nat) (l : List α) : (sortBy key l).Perm l := by
  simpa [sortBy] using foldl_insertBy_perm key l []

theorem filter_not_append_perm {α : Type} (p : α → Bool) (l : List α) : (l.filter (fun x => !p x) ++ l.filter p).Perm l := by
  induction l with
  | nil => exact List.Perm.refl _
  | cons x xs ih =>
    cases hp : p x
    · simpa [hp] using ih
    · simpa [hp] using List.perm_middle.trans (ih.cons x)

/-- The order of one ANGCLK's records loses none of the queue (rule R140). -/
theorem Block.sortRecs_perm (s : Block) (h : HalfId) (l : List NRec) : (s.sortRecs h l).Perm l :=
  ((((sortBy_perm _ _).trans (sortBy_perm _ _)).trans (sortBy_perm _ _)).append_left _).trans
    (filter_not_append_perm (fun r : NRec => r.stamp == (s.half h).tsc) l)

theorem Block.enterRec_perm (s : Block) (h : HalfId) (r : NRec) (l : List NRec) : (s.enterRec h r l).Perm (l ++ [r]) :=
  s.sortRecs_perm h _

/-- The order of the reports of one instant loses none of the queue (rule R433). -/
theorem queueReport_perm (r : Report) (l : List Report) : (queueReport r l).Perm (l ++ [r]) := by
  have h1 := (insertBy_perm (fun x : Report => x.block * 128 + x.index) r (l.filter fun x => x.stamp == r.stamp)).append_left
    (l.filter fun x => x.stamp != r.stamp)
  have h2 := filter_not_append_perm (fun x : Report => x.stamp == r.stamp) l
  exact h1.trans (List.perm_middle.trans ((h2.cons r).trans (List.perm_append_singleton r l).symm))

end Sys2Proof.Machine
end

