-- ==== Sys2Proof/Laws/Registers.lean ====
section
/-!
SUPPORT. Laws of the register file: a field reads as it was written, and every other register and field as before.
-/

namespace Sys2Proof.Machine

variable (s : Block) (h k : HalfId)

@[simp] theorem Block.setW_w_same (r : Reg) (v : Word) (i j : Nat) : (s.setW h r v i j).w h r i j = v := by
  simp [Block.setW, Block.w]

/-- A write to one register leaves every register at another address as it was. -/
theorem Block.setW_w_ne (r q : Reg) (v : Word) (i j i' j' : Nat) (hne : q.addr k i' j' ≠ r.addr h i j) :
    (s.setW h r v i j).w k q i' j' = s.w k q i' j' := by
  simp only [Block.setW, Block.w]
  exact memGet_memSet_ne _ _ _ _ hne

/-- A field's place makes sense within a word: what every field of the register map satisfies. -/
abbrev Fld.ok (x : Fld) : Prop := x.lo ≤ x.hi ∧ x.hi < 24

/-- A field reads as the value just put into it, modulo its width. -/
theorem Block.setF_f_same (x : Fld) (v i j : Nat) (hx : x.ok) : (s.setF h x v i j).f h x i j = v % 2 ^ (x.hi + 1 - x.lo) := by
  simp only [Block.setF, Block.f, Block.setW_w_same]
  rw [wd_toNat _ (putBits_lt _ _ _ _ 24 hx.1 hx.2 (BitVec.isLt _)), bits_putBits_same _ _ _ _ hx.1]

/-- Another field of the same register is unchanged. -/
theorem Block.setF_f_disjoint (x y : Fld) (v i j : Nat) (hx : x.ok) (hr : y.reg = x.reg) (hd : x.hi < y.lo ∨ y.hi < x.lo) :
    (s.setF h x v i j).f h y i j = s.f h y i j := by
  simp only [Block.setF, Block.f, hr, Block.setW_w_same]
  rw [wd_toNat _ (putBits_lt _ _ _ _ 24 hx.1 hx.2 (BitVec.isLt _))]
  rcases hd with hd | hd
  · exact bits_putBits_above _ _ _ _ _ _ hx.1 hd
  · exact bits_putBits_below _ _ _ _ _ _ hx.1 hd

/-- A field of a register at another address is unchanged. -/
theorem Block.setF_f_ne (x y : Fld) (v i j i' j' : Nat) (hne : y.reg.addr k i' j' ≠ x.reg.addr h i j) :
    (s.setF h x v i j).f k y i' j' = s.f k y i' j' := by
  simp only [Block.setF, Block.f]
  rw [Block.setW_w_ne s h k x.reg y.reg _ i j i' j' hne]

/-- A register word at another address is unchanged by a field write. -/
theorem Block.setF_w_ne (x : Fld) (q : Reg) (v i j i' j' : Nat) (hne : q.addr k i' j' ≠ x.reg.addr h i j) :
    (s.setF h x v i j).w k q i' j' = s.w k q i' j' :=
  Block.setW_w_ne s h k x.reg q _ i j i' j' hne

/-- A stepped counter gained one or stood at its greatest value. -/
theorem Block.count_f_same (x : Fld) (i j : Nat) (hx : x.ok) :
    (s.count h x i j).f h x i j = if s.f h x i j + 1 < 2 ^ (x.hi + 1 - x.lo) then s.f h x i j + 1 else s.f h x i j := by
  unfold Block.count
  dsimp only
  split
  · rename_i hlt
    rw [Block.setF_f_same s h x _ i j hx, Nat.mod_eq_of_lt hlt]
  · rfl

/-- Counting leaves every register at another address as it was. -/
theorem Block.count_w_ne (x : Fld) (q : Reg) (i j i' j' : Nat) (hne : q.addr k i' j' ≠ x.reg.addr h i j) :
    (s.count h x i j).w k q i' j' = s.w k q i' j' := by
  unfold Block.count
  dsimp only
  split
  · exact Block.setF_w_ne s h k x q _ i j i' j' hne
  · rfl

end Sys2Proof.Machine
end

