-- ==== Sys2Proof/WellFormed.lean ====
section
/-!
DEFINITION. Well-formed commands: the lengths that a protocol gives the lists among a command's operands. Every other operand
has the width of its type.
-/

namespace Sys2Proof

open Sys2Proof.Machine

/-- The payload of a command of the host, where the command is one (rules R360, R371). -/
def Instr.payload : Instr → Option (List Word)
  | .nop _ _ _ p | .ident _ _ _ p | .status _ _ _ p | .noticeMask _ _ _ p | .time _ _ _ p | .echo _ _ _ p
  | .streamAbort _ _ _ p | .noticeReplay _ _ _ p | .reset _ _ _ p | .secChallenge _ _ _ p | .secUnlock _ _ _ p
  | .secClose _ _ _ p | .canTx _ _ _ p | .canFilter _ _ _ p | .cfgOpen _ _ _ p | .cfgCommit _ _ _ p | .cfgAbort _ _ _ p
  | .cfgStatus _ _ _ p | .schedLoadBegin _ _ _ p | .schedLoadEnd _ _ _ p | .schedActivate _ _ _ p
  | .schedDeactivate _ _ _ p | .schedStatus _ _ _ p | .schedList _ _ _ p | .schedDelete _ _ _ p | .evtSubmit _ _ _ p _
  | .evtCancel _ _ _ p | .trimSet _ _ _ p | .trimRead _ _ _ p | .creditRead _ _ _ p | .phaseSet _ _ _ p | .modeSet _ _ _ p
  | .regRead _ _ _ p | .regWrite _ _ _ p | .logRead _ _ _ p | .logClear _ _ _ p | .tallyRead _ _ _ p | .fwBegin _ _ _ p
  | .fwEnd _ _ _ p | .fwSelect _ _ _ p | .secverSet _ _ _ p | .keyAdvance _ _ _ p | .commandUnknown _ _ _ _ p
  | .commandTruncated _ _ _ p => some p
  | _ => none

/-- At most 63 payload words in a command (COUNT, rule R360), 31 in a fabric frame, whose NW has five bits (rule R382), 255 in a host
frame (rule R349), 22 words in a CAN FD frame (rule R371), 9 SENT periods (rules R324, R325), 24 PSI5 data bits (rule R326), and a flash
within the directory's word addresses (rule R414). -/
def Instr.wf (i : Instr) : Bool :=
  match i with
  | .qhlFrameReceive _ _ _ p => decide (p.length ≤ 255)
  | .canFrameReceive _ _ _ _ d => decide (d.length ≤ 22)
  | .sentFrameReceive _ _ _ _ p => decide (p.length ≤ 9)
  | .psi5FrameReceive _ _ _ d _ _ => decide (d.length ≤ 24)
  | .eulFrameReceive _ _ _ _ _ _ p _ _ => decide (p.length ≤ 31)
  | .standaloneStart f => decide (f.length ≤ 3 * 2 ^ 24)
  | _ => match i.payload with
    | some p => decide (p.length ≤ 63)
    | none => true

end Sys2Proof
end

