-- ==== Sys2Proof/Tests/Slice0.lean ====
section
/-!
SUPPORT. Small states, the smoke tests of well-formedness, a few single steps whose results are read off the spec, and for every
statement with hypotheses a state and operands that meet them.
-/

open Sys2Proof Sys2Proof.Machine

/-! ## States -/

/-- A module in service: both halves live at Run with firmware, in SERVICE, the bridge holding and the helm agreed on A. -/
def upBlk : Block :=
  let half (s : Block) (h : HalfId) : Block :=
    (((s.modHalf h fun x => { x with live := true, hip := { x.hip with running := true } }).setF h F.ADM_STAT_PHASE 3).setF h
      F.ADM_STAT_HELM h.num).setF h F.HLM_STAT_BRIDGE 1
  (half (half Block.reset .a) .b).setF .a F.HLM_STAT_CLAIM 1

def upW (f : Block → Block) : State := { State.reset with blk := f upBlk }
def up : State := upW id
/-- Half A in Store and the drive die without power. -/
def upOff : State := upW fun b => (b.setF .a F.PWR_STAT_STA 5).setF .a F.PWR_STAT_DRV 2
/-- `up` with a crank table of four teeth and a wide one, cam edges in both revolutions. -/
def upTable : State := upW fun b =>
  let t : Nat := 1
  let c (b : Block) (e a cls : Nat) : Block := (b.setW .a .WTK_CRK0 (wd a) t e).setF .a F.WTK_CRK1_CLASS cls t e
  let b1 := c (c (c (b.setF .a F.WTK_TABN_CRK_N 3 t) 0 0 0) 1 1000000 0) 2 2000000 1
  let b2 := ((b1.setF .a F.WTK_TABN_CAM_N 1 t).setW .a .WTK_CAM 500000 t 0).setF .a F.WTK_CTRL_MATCH_M 1 t
  b2
/-- A MARK insertion at channel 3, tag 9, target 5,000,000 in FRAME 31, and the entry it makes. -/
def insI : Insertion := ⟨0, 3, 9, 5000000, 0x4000F8, 0, none⟩
def insE : Entry :=
  { chan := 3, tag := 9, w0 := 5000000, w1 := 0x4000F8, w2 := 0, g := 5000000, order := 0, written := true, fwdArm := false,
    armed := false, armAt := 0, frozen := 0, cmp := 0, tap := 0, late := false, deferral := none }
/-- `up` with a valid clock at angle 0 in FULL sync and channel 3 enabled; `insI` waits on port 0. -/
def upIns : State := upW fun b =>
  (((((b.setF .a F.ANG_STAT_VALID 1).setF .a F.ANG_STAT_FULLRANGE 1).setF .a F.EVC_CFG_EN 1 3).setF .a F.EVC_CFG_KIND 5 3).setF .a
    F.EVC_LEAD_LEAD 1 3).modHalf .a fun x => { x with ports := [insI] }
/-- The clock has passed the arm point of `insE`. -/
def upArm : State := upW fun b =>
  ((((b.setF .a F.ANG_STAT_VALID 1).setF .a F.ANG_STAT_FULLRANGE 1).setF .a F.EVC_LEAD_LEAD 1 3)).modHalf .a fun x =>
    { x with cask := [insE], clk := { x.clk with moved := some ⟨0, 5000000, 11796480, false, false, false⟩ } }
/-- A schedule image of one cylinder and one record, as the reader of its tables sees it. -/
def tImg : Image :=
  ⟨7, 0, [0, 0, 0, 7, 0, 0, 0, 0, 0, 0, 0, 0x001001, 0, 0, 0, 32, 35, 35, 39, 0, 0, 0, 0, 0, 0, 0, 0, 0, 0, 0, 0, 0,
    0, 0, 100, 0, 0, 0x0F8, 0, 0, 0, 0, 0, 0, 0, 0]⟩
/-- An image of set 7 without cylinders, channels and records. -/
def eImg (half : Nat) : Image :=
  ⟨7, 0, [0, wd (half * 4096), 0, 7, 0, 0, 0, 0, 0, 0, 0, 0, 0, 0, 0, 32, 32, 32, 32, 0, 0, 0, 0, 0, 0, 0, 0, 0, 0, 0, 0, 0, 1, 0x070000, 20000, 0, 0]⟩
def actLong : LongCmd := ⟨0x22, false, 0, true, 7, false, false, 0, []⟩
/-- `up` with those images in both halves and SCHED_ACTIVATE running in half A. -/
def upAct : State := upW fun b =>
  let f (k : Nat) (x : Half) : Half := { x with sched := { x.sched with store := [eImg k] }, hip := { x.hip with base := [0] } }
  ((b.modHalf .a (f 0)).modHalf .b (f 1)).modHalf .a fun x => { x with hip := { x.hip with long := some actLong } }
/-- A shot of channel 0, tag 9, started at 0 with 1 ms of energising time. -/
def shot0 : Shot :=
  { chan := 3, tag := 9, prof := 0, dyn := false, start := 0, e := 200000, gntAt := none, busy0 := false, pkrAt := none, holdAt := none,
    quenchAt := none, pkmiss := false, openld := false, trip := false, okNotice := false, sampled := false }
def meas0 : ShotMeas := ⟨none, none, 0, 0, none⟩
/-- `up` with `sh` running on channel 0. -/
def upShot (sh : Shot) (f : Block → Block) : State := upW fun b => f ((b.setShot 0 (some sh)).setF .a (oeFld .a) 1)
/-- A window of ten points with its first point queued. -/
def win0 : Win :=
  { tag := 0, frame := 31, static := false, store := none, align := 0, late := none, g := 0, count := 10, cp := 0, space := 1, next := 1, queue := [⟨0, false, false⟩], jump := false, catchup := false,
    drop := false, flags := 0, taken := 0, time := 0, buf := 0, atu := false, snap := [], samples := [], held := false }
/-- Engine 0 of half A runs with the word `w` at address 0, its input pins LOW. -/
def upPe (w : Word) (f : Block → Block) : State := upW fun b => f ((b.setF .a F.PE_STAT_RUN 1 0).setW .a .PE_PROG w 0 0)
/-- Engine 0 of half A runs as a SENT receiver (1) or a PSI5 receiver (2). -/
def upRx (proto : Nat) (f : Block → Block) : State := upW fun b => f ((b.setF .a F.PE_STAT_RUN 1 0).setF .a F.PE_CFG_PROTO proto 0)
/-- `up` with link A in UP. -/
def upLink (f : Block → Block) : State := upW fun b => f (b.setF .a F.QHL_STAT_STATE 3)
def upSt (x : Stream) : Block → Block := fun b => b.modHalf .a fun y => { y with hip := { y.hip with streams := [x] } }
/-- An open incoming stream, and an outgoing one with a word to send. -/
def st0 : Stream := ⟨1, true, 0x20, 100, 0, [], 0⟩
def st1 : Stream := ⟨0, false, 0x51, 1, 0, [(0, [7])], 0⟩
/-- `up` with a secure session, set 7 active with `tImg`, and CAN controller 0 of half A joined. -/
def upCmd (f : Block → Block) : State := upW fun b => f (b.modHip .a fun x => { x with session := true })
/-- `tImg` with its record trimmable. -/
def tImgT : Image := { tImg with words := tImg.words.set 38 0x0C0901 }
def trim0 : Trim := ⟨7, 0, 3, 9, 0, (0, 0), (0, 0), (0, 0), (0, 0)⟩
def upSet : State := upCmd fun b => b.modSched .a fun x => { x with active := 7, store := [tImgT], trims := [trim0] }
/-- The same record not trimmable. -/
def tImgN : Image := { tImg with words := tImg.words.set 38 0x0C0900 }
def upSetN : State := upCmd fun b => b.modSched .a fun x => { x with active := 7, store := [tImgN] }
def rec0 : NRec := ⟨0, 3, 9, 0, 0, 0, 0, 0, 0⟩
/-- Half B in HOLD at rung `r` with Store as its target, half A in Rest. -/
def upDesc (r : Nat) : State := upW fun b =>
  (((b.setF .b F.ADM_STAT_PHASE 1).setF .a F.PWR_STAT_STB r).setF .a F.PWR_POL_TGTB 5).setF .a F.PWR_STAT_STA 1
/-- `up` in CRANK with a valid clock past its mode latch, and a SERVICE decision sent at count 3; no half owns a schedule. -/
def upServe : State := upW fun b =>
  { (((((b.setF .a F.ANG_STAT_VALID 1).setF .a F.ANG_STAT_FULLRANGE 1).setF .a F.ADM_STAT_PHASE 2).setF .a F.ADM_STAT_SCHED 1).setF .a
      F.ADM_STAT_CERT_OK 1).modClk .a (fun c =>
      { c with a := 11796479 * 65536 }) with ba := ⟨[], [], [.service 3]⟩ }
/-- `up` with a ring entry of tracker 1 at 1,000,000 AU in the segment of cylinder 0, the cylinder before with τ `p`. -/
def upMf (p : Frac) : State :=
  upW fun b =>
    let b1 := (((b.setF .a F.ANG_CYL_N_CYL 2).setF .a F.ATU_CFG_MFEN 1).setF .a F.ATU_MFTH_TH 1).setF .a F.ATU_MFSEG_LEN 300
    let b2 := ((b1.setF .a F.WTK_TABN_CRK_N 3 1).setW .a .WTK_CRK0 1000000 1 1).setF .a F.WTK_ASEL_CURSRC 1
    ((b2.setW .a .WTK_RNG0 1000 1 1023).setW .a .WTK_RNG1 0x600001 1 1023).modHalf .a fun x =>
      { x with clk := { x.clk with cycLen := 9 }, atu := { x.atu with fuel := x.atu.fuel.set 0 true, tau := x.atu.tau.set 1 (some p) } }

/-! ## Well-formedness and single steps -/

theorem test_wf_qhl_frame : Instr.wf (.qhlFrameReceive .a ⟨true, 0⟩ 0 (List.replicate 256 0)) = false := by
  simp only [Instr.wf, List.length_replicate]; decide
theorem test_wf_can_frame : Instr.wf (.canFrameReceive .a 0 0 0 (List.replicate 23 0)) = false := by decide
theorem test_wf_sent_frame : Instr.wf (.sentFrameReceive .a 0 0 0 (List.replicate 10 0)) = false := by decide
theorem test_wf_psi5_frame : Instr.wf (.psi5FrameReceive .a 0 0 (List.replicate 25 false) 0 ⟨8000, false⟩) = false := by decide
theorem test_wf_eul_frame : Instr.wf (.eulFrameReceive .a 0 ⟨true, 0⟩ 0 0 0 (List.replicate 32 0) 0 []) = false := by decide
theorem test_wf_command : Instr.wf (.echo .a false 0 (List.replicate 64 0)) = false := by decide
theorem test_wf_standalone : Instr.wf (.standaloneStart (List.replicate (3 * 2 ^ 24 + 1) 0)) = false := by
  simp only [Instr.wf, List.length_replicate, decide_eq_false_iff_not]; omega
theorem test_wf_accepts : Instr.wf (.echo .a false 0 (List.replicate 63 0)) = true := by decide

/-- What `p` says of the next state that a command answers. -/
def after (c : Instr) (s : State) (p : Block → Bool) : Bool :=
  match exec c s with
  | .next t => p t.blk
  | _ => false

/-- R44, R46 and the map of chapter 13: PE_A of engine 2 of half B. -/
theorem test_pe_address : Reg.PE_A.addr .b 2 0 = 0x69024F := by decide
/-- R317: LDI of register B loads IMM and leaves A. -/
theorem test_pe_ldi :
    after (.peLdi .a 0) (upPe 0x300805 fun b => b.setW .a .PE_A 9 0) (fun t => t.w .a .PE_B 0 == 5 && t.w .a .PE_A 0 == 9) = true := by decide
/-- R317: LOOP counts 0 down to 0xFF_FFFF and branches. -/
theorem test_pe_loop_wraps :
    after (.peLoop .a 0) (upPe 0x200007 id) (fun t => t.w .a .PE_A 0 == 0xFFFFFF && t.f .a F.PE_STAT_PC 0 == 7) = true := by decide
/-- R141: a read of TSC_LO latches the high half. -/
theorem test_tsc_latch :
    after (.tscLoRead .a) (upW fun b => b.modHalf .a fun x => { x with tsc := 0x000001FFFFFE }) (fun t =>
      t.busData == 0xFFFFFE && t.w .a .TSC_HI == 1) = true := by decide
/-- R337: a word posted into a full mailbox is refused with a bus error and the stored word stays. -/
theorem test_mbx_full :
    after (.mbxPost .a 8 .hip 7) (upW fun b => (b.setF .a F.MBX_STAT_FULL 1 8).setW .a .MBX_DATA 3 8)
      (fun t => t.busErr && t.w .a .MBX_DATA 8 == 3) = true := by decide
/-- R47: a write to a reserved address ends with a bus error. -/
theorem test_reserved_address : after (.registerWrite .a .hip 0xF00000 1) up (fun t => t.busErr) = true := by decide
/-- R419: the half without the claim whose peer claims reads HELM 0b01. -/
theorem test_helm_b : up.blk.f .b F.ADM_STAT_HELM = 1 := by decide

/-! ## Witnesses -/

theorem sent_nibbles : ∀ c : Fin 16,
    (([(240 : Word), 240, BitVec.ofNat 24 ((12 + c) * 20)].map BitVec.toNat).take 3).filterMap (nibbleOf (1120 : Word).toNat) = [0, 0, c.val] := by
  decide
/-- Engine 0 of half A as a SENT receiver of one data nibble, with or without serial messages. -/
def upSent (serial : Nat) : State :=
  upRx 1 fun b => ((b.setF .a F.PE_PROTO0_NIB 1 0).setF .a F.PE_PROTO0_TICK 1 0).setF .a F.PE_PROTO0_SERIAL serial 0
def sentPeriods : List Word := [240, 240, BitVec.ofNat 24 ((12 + sentCrc false [0]) * 20)]
/-- A whole SENT frame whose last nibble is the checksum that the configuration's function gives. -/
theorem sent_good (serial : Fin 2) : [0, 0, sentCrc false [0]] = 
      ((sentPeriods.map BitVec.toNat).take ((upSent serial).blk.f .a F.PE_PROTO0_NIB (0 : Fin 8) + 2)).filterMap (nibbleOf (1120 : Word).toNat) ∧
    ([0, 0, sentCrc false [0]] : List Nat).length = (upSent serial).blk.f .a F.PE_PROTO0_NIB (0 : Fin 8) + 2 ∧
    sentPeriods.length = (upSent serial).blk.sentPeriods .a (0 : Fin 8) ∧
    calOk ((upSent serial).blk.f .a F.PE_PROTO0_TICK (0 : Fin 8) * 20) ((upSent serial).blk.pe .a (0 : Fin 8)).prevCal (1120 : Word).toNat = true ∧
    nth 0 [0, 0, sentCrc false [0]] ((upSent serial).blk.f .a F.PE_PROTO0_NIB (0 : Fin 8) + 1) =
      sentCrc ((upSent serial).blk.on .a F.PE_PROTO0_CRCV (0 : Fin 8))
        ((([0, 0, sentCrc false [0]] : List Nat).drop 1).take ((upSent serial).blk.f .a F.PE_PROTO0_NIB (0 : Fin 8))) := by
  have hn : ∀ x : Fin 2, (upSent x).blk.f .a F.PE_PROTO0_NIB (0 : Fin 8) = 1 := by decide
  have hc : ∀ x : Fin 2, (upSent x).blk.on .a F.PE_PROTO0_CRCV (0 : Fin 8) = false := by decide
  have hp : ∀ x : Fin 2, (upSent x).blk.sentPeriods .a (0 : Fin 8) = 3 := by decide
  have hq : ∀ x : Fin 2, calOk ((upSent x).blk.f .a F.PE_PROTO0_TICK (0 : Fin 8) * 20) ((upSent x).blk.pe .a (0 : Fin 8)).prevCal
      (1120 : Word).toNat = true := by decide
  refine ⟨?_, ?_, ?_, hq serial, ?_⟩
  · rw [hn]; exact (sent_nibbles ⟨sentCrc false [0], Nat.mod_lt _ (by decide)⟩).symm
  · rw [hn]; rfl
  · rw [hp]; rfl
  · rw [hn, hc]; rfl
theorem witness_sent_frame :
    (∃ (s : State) (h : HalfId) (e : Fin 8) (cal : Word) (periods : List Word) (ns : List Nat), s.blk.peRuns h e = true ∧
      s.blk.angRuns h = true ∧ s.blk.f h F.PE_CFG_PROTO e = 1 ∧ s.blk.on h F.PE_PROTO0_SERIAL e = false ∧
      ns = ((periods.map BitVec.toNat).take (s.blk.f h F.PE_PROTO0_NIB e + 2)).filterMap (nibbleOf cal.toNat) ∧
      ns.length = s.blk.f h F.PE_PROTO0_NIB e + 2 ∧ periods.length = s.blk.sentPeriods h e ∧
      calOk (s.blk.f h F.PE_PROTO0_TICK e * 20) (s.blk.pe h e).prevCal cal.toNat = true ∧
      nth 0 ns (s.blk.f h F.PE_PROTO0_NIB e + 1) =
        sentCrc (s.blk.on h F.PE_PROTO0_CRCV e) ((ns.drop 1).take (s.blk.f h F.PE_PROTO0_NIB e))) ∧
    (∃ (s : State) (h : HalfId) (e : Fin 8) (cal : Word) (periods : List Word) (ns : List Nat), s.blk.peRuns h e = true ∧
      s.blk.angRuns h = true ∧ s.blk.f h F.PE_CFG_PROTO e = 1 ∧ s.blk.on h F.PE_PROTO0_SERIAL e = true ∧
      ns = ((periods.map BitVec.toNat).take (s.blk.f h F.PE_PROTO0_NIB e + 2)).filterMap (nibbleOf cal.toNat) ∧
      ns.length = s.blk.f h F.PE_PROTO0_NIB e + 2 ∧ periods.length = s.blk.sentPeriods h e ∧
      calOk (s.blk.f h F.PE_PROTO0_TICK e * 20) (s.blk.pe h e).prevCal cal.toNat = true ∧
      nth 0 ns (s.blk.f h F.PE_PROTO0_NIB e + 1) =
        sentCrc (s.blk.on h F.PE_PROTO0_CRCV e) ((ns.drop 1).take (s.blk.f h F.PE_PROTO0_NIB e))) :=
  ⟨⟨upSent 0, .a, 0, 1120, sentPeriods, _, by decide, by decide, by decide, by decide, sent_good 0⟩,
   ⟨upSent 1, .a, 0, 1120, sentPeriods, _, by decide, by decide, by decide, by decide, sent_good 1⟩⟩
/-- A tracker whose stall time is long over, whatever the phase of its timer. -/
theorem stalls_of_late (s : Block) (h : HalfId) (t : Nat) (he : (s.trk h t).lastEdge = some 0) (hT : s.stallTicks h t = 200000)
    (hg : s.f h F.WTK_CTRL_GLITCH t ≤ 4095) (hn : (s.half h).tsc = 1000000) (hr : (s.trk h t).raw ++ (s.trk h t).passed = []) :
    s.stalls h t = true := by
  have hp : Config.stallPhase (h == .b) t 0 % 200 < 200 := Nat.mod_lt _ (by decide)
  simp only [Block.stalls, Block.stallAt, he, Option.map_some, hT, hn, hr, List.all_nil, Bool.and_true, reached, ticksTo, fwd,
    decide_eq_true_eq]
  omega
/-- A tracker 1 of half A in a sync state, its last edge at 0 and the count at 1,000,000. -/
def upStall (st src : Nat) (f : Block → Block) : State := upW fun b =>
  f (((((b.setF .a F.WTK_STAT_SYNC st 1).setF .a F.WTK_ASEL_CURSRC src).setF .a F.WTK_AUX_STALL_MULT 0 1).modTrk .a 1 fun y =>
    { y with lastEdge := some 0, stallTime := 1000 }).modHalf .a fun x => { x with tsc := 1000000 })
set_option maxRecDepth 4000 in
theorem witness_TrackerRowsComplete_stalls :
    (∃ (s : State) (h : HalfId) (t : Fin 2) (b : Block), (s.blk.sync h t = syTooth ∨ s.blk.placed h t = true) ∧
      s.blk.stalls h t = true ∧ b = (s.blk.unplace h t syLost).setF h F.WTK_ERR_LOSTSEEN 1 t ∧
      (s.blk.src h ≠ t ∨ s.blk.placed h t = false)) ∧
    (∃ (s : State) (h : HalfId) (t : Fin 2) (b : Block), (s.blk.sync h t = syTooth ∨ s.blk.placed h t = true) ∧
      s.blk.stalls h t = true ∧ b = (s.blk.unplace h t syLost).setF h F.WTK_ERR_LOSTSEEN 1 t ∧ s.blk.src h = t ∧ s.blk.drives h t = false ∧
      s.blk.placed h t = true) ∧
    (∃ (s : State) (h : HalfId) (t : Fin 2) (b : Block), (s.blk.sync h t = syTooth ∨ s.blk.placed h t = true) ∧
      s.blk.stalls h t = true ∧ b = (s.blk.unplace h t syLost).setF h F.WTK_ERR_LOSTSEEN 1 t ∧ s.blk.src h = t ∧ s.blk.drives h t = true ∧
      s.blk.placed h t = true ∧ b.failoverTo h t = false) ∧
    (∃ (s : State) (h : HalfId) (t : Fin 2) (b c : Block), (s.blk.sync h t = syTooth ∨ s.blk.placed h t = true) ∧
      s.blk.stalls h t = true ∧ b = (s.blk.unplace h t syLost).setF h F.WTK_ERR_LOSTSEEN 1 t ∧ s.blk.src h = t ∧ s.blk.drives h t = true ∧
      s.blk.placed h t = true ∧ b.failoverTo h t = true ∧ c = b.takeSource h (1 - t.val)) :=
  ⟨⟨upStall 1 0 id, .a, 1, _, by decide, stalls_of_late _ _ _ (by decide) (by decide) (by decide) (by decide) (by decide), rfl, by decide⟩,
   ⟨upStall 3 1 (fun b => b.setF .a F.ANG_CTRL_SRC 1), .a, 1, _, by decide,
    stalls_of_late _ _ _ (by decide) (by decide) (by decide) (by decide) (by decide), rfl, by decide, by decide, by decide⟩,
   ⟨upStall 3 1 id, .a, 1, _, by decide, stalls_of_late _ _ _ (by decide) (by decide) (by decide) (by decide) (by decide), rfl, by decide,
    by decide, by decide, by decide⟩,
   ⟨upStall 3 1 (fun b => ((b.setF .a F.WTK_ASEL_FAILOVER_EN 1).setF .a F.WTK_STAT_SYNC 3 0).modTrk .a 0 fun y =>
      { y with fullTravel := 2 * revAU, agreed := true }), .a, 1, _, _, by decide,
    stalls_of_late _ _ _ (by decide) (by decide) (by decide) (by decide) (by decide), rfl, by decide, by decide, by decide, by decide, rfl⟩⟩

theorem witness_IdleStepIsOneAngclk : ∃ s : State, s.pending = [] :=
  ⟨up, by decide⟩

theorem witness_BusAccessesComplete :
    (∃ (s : State) (h k : HalfId) (m : Master) (a v : Word), (s.blk.masterRuns ⟨h, m⟩ = true) ∧ (m ≠ .link) ∧ (regionOf a.toNat ≠ some h.peer) ∧ (placeOf a.toNat = .sram k) ∧ (s.blk.pageOn k 0 = true)) ∧
    (∃ (s : State) (h : HalfId) (m : Master) (a v : Word), (s.blk.masterRuns ⟨h, m⟩ = true) ∧ (m ≠ .link) ∧ (regionOf a.toNat ≠ some h.peer) ∧ (placeOf a.toNat = .none)) ∧
    (∃ (s : State) (h : HalfId) (m : Master) (t : Fin 2) (v : Word), (s.blk.masterRuns ⟨h, m⟩ = true) ∧ (m ≠ .link) ∧ ((Reg.WTK_STALL.addr h t 0) < 2 ^ 24) ∧ (s.blk.pageOn h 0x20 = true)) ∧
    (∃ (s : State) (h : HalfId) (m : Master) (off : BitVec 22) (v : Word), (s.blk.masterRuns ⟨h, m⟩ = true) ∧ (m ≠ .link) ∧ (s.blk.bridgeCarries h = true)) ∧
    (∃ (s : State) (h : HalfId) (m : Master) (off : BitVec 22) (v : Word), (s.blk.masterRuns ⟨h, m⟩ = true) ∧ (s.blk.bridgeReads h = true) ∧ ((s.blk.lane h).fifo = []) ∧ ((s.blk.lane h).wait = []) ∧ ((s.blk.lane h.peer).fifo = []) ∧ ((s.blk.lane h.peer).wait = []) ∧ (off.toNat < 0x080000) ∧ (s.blk.pageOn h.peer 0 = true)) :=
  ⟨⟨up, .a, .a, .scp, 0x000010, 5, by decide, by decide, by decide, by decide, by decide⟩,
   ⟨up, .a, .scp, 0x0F0000, 5, by decide, by decide, by decide, by decide⟩,
   ⟨up, .a, .scp, 1, 5, by decide, by decide, by decide, by decide⟩,
   ⟨up, .a, .scp, 3, 5, by decide, by decide, by decide⟩,
   ⟨up, .a, .scp, 3, 0, by decide, by decide, by decide, by decide, by decide, by decide, by decide, by decide⟩⟩

theorem witness_BridgeRowsComplete :
    (∃ (s : State) (h : HalfId) (x : Word) (rest : List BMsg), ((s.blk.lane h.peer).fifo = .beat x :: rest) ∧ (s.blk.supRuns h = true) ∧ ((s.blk.half h).hl.lost = false)) ∧
    (∃ (s : State) (h : HalfId) (second : Bool) (x : Word) (rest : List BMsg), ((s.blk.lane h.peer).fifo = .host second x :: rest) ∧ (s.blk.supRuns h = true) ∧ ((s.blk.half h).hl.lost = false)) ∧
    (∃ (s : State) (h : HalfId), ((s.blk.lane h).wait ≠ [])) ∧
    (∃ (s : State) (h : HalfId), (s.blk.supRuns h = true) ∧ ((s.blk.half h).hl.lost = false) ∧ ((s.blk.half h).hl.fwBeats = true ∨ s.blk.fwRuns h = false)) ∧
    (∃ (s : State) (h : HalfId) (w : Word) (rest : List BMsg), (takeBeat (s.blk.lane h.peer).rx = some (w, rest)) ∧ ((s.blk.half h).hl.lost = false) ∧ ((s.blk.half h).hl.yielding = false)) ∧
    (∃ (s : State) (h : HalfId) (b : Block) (c : Block), (s.blk.supRuns h = true) ∧ (s.blk.on h F.HLM_STAT_PEERDOWN = false) ∧ ((s.blk.half h).hl.lost = false) ∧ (b = (((s.blk.setF h F.HLM_STAT_BRIDGE 0).setLane h (s.blk.lane h).cut).modHl h (fun y => { y with lost := true })).claim h 6) ∧ (c = ((((b.enterIsland h).setF h F.WTK_XCHK_PEER_VALID 0 0).setF h F.WTK_XCHK_PEER_VALID 0 1).peerMbxReset h).islandWrap h)) ∧
    (∃ (s : State), (s.blk.supRuns .a = true) ∧ (s.blk.supRuns .b = true) ∧ ((s.blk.half .a).hl.lost = true)) ∧
    (∃ (s : State) (h : HalfId) (e : Fin 5), (s.blk.bridgeUp h = true) ∧ ((s.blk.half h).live = true) ∧ ((s.blk.half h.peer).live = true) ∧ (s.blk.on h F.HLM_STAT_PEERFW = true) ∧ ((s.blk.half h).tsc < 2 ^ 40) ∧ ((s.blk.half h.peer).tsc < 2 ^ 40)) :=
  ⟨⟨upW (fun b => { b with ba := ⟨[.beat 7], [], []⟩ }), .a, 7, [], by decide, by decide, by decide⟩,
   ⟨upW (fun b => { b with ba := ⟨[.host true 7], [], []⟩ }), .a, true, 7, [], by decide, by decide, by decide⟩,
   ⟨upW (fun b => { b with ab := ⟨[], [.class4], []⟩ }), .a, by decide⟩,
   ⟨upW (fun b => b.modHalf .a fun x => { x with hl := { x.hl with fwBeats := true } }), .a, by decide, by decide, by decide⟩,
   ⟨upW (fun b => { b with ba := ⟨[], [], [.class4, .beat 0x800000]⟩ }), .a, 0x800000, [.class4], by decide, by decide, by decide⟩,
   ⟨up, .a, _, _, by decide, by decide, by decide, rfl, rfl⟩,
   ⟨upW (fun b => b.modHalf .a fun x => { x with hl := { x.hl with lost := true } }), by decide, by decide, by decide⟩,
   ⟨upW (fun b => b.setF .a F.HLM_STAT_PEERFW 1), .a, 4, by decide, by decide, by decide, by decide, by decide, by decide⟩⟩

theorem witness_HelmRowsComplete :
    (∃ (s : State) (h : HalfId) (t : Nat), ((s.blk.half h).hl.claimAt = some t) ∧ (198000 ≤ ticksGone t (s.blk.half h).tsc) ∧ (s.blk.on h F.HLM_STAT_PEERCLAIM = false) ∧ (s.blk.on h F.HLM_STAT_CLAIM = false) ∧ (s.blk.fwRuns h = true)) ∧
    (∃ (s : State) (h : HalfId) (t : Nat), ((s.blk.half h).hl.claimAt = some t) ∧ (198000 ≤ ticksGone t (s.blk.half h).tsc) ∧ (s.blk.on h F.HLM_STAT_PEERCLAIM = true ∨ s.blk.on h F.HLM_STAT_CLAIM = true)) ∧
    (∃ (s : State) (h : HalfId), ((s.blk.half h).live = true) ∧ (s.blk.supRuns h.peer = false) ∧ (s.blk.on h F.HLM_STAT_PEERDOWN = false)) ∧
    (∃ (s : State) (h : HalfId) (t : Block), ((s.blk.half h).live = true) ∧ (s.blk.supRuns h.peer = true) ∧ (s.blk.on h F.HLM_STAT_PEERDOWN = true) ∧ (t = (s.blk.setF h F.HLM_STAT_PEERDOWN 0).deriveHelm h 2)) ∧
    (∃ (s : State) (h : HalfId), (s.blk.helm h = 2) ∧ (s.blk.fwRuns h = true) ∧ (s.blk.evalPoint h = true) ∧ (s.blk.f h F.HLM_DISP_EVALS = 0)) ∧
    (∃ (s : State) (h : HalfId) (q : Nat), (s.blk.helm h = 2) ∧ (s.blk.fwRuns h = true) ∧ (s.blk.evalPoint h = true) ∧ (s.blk.f h F.HLM_DISP_EVALS = 1) ∧ ((s.blk.half h).hl.qmin = some q)) ∧
    (∃ (s : State) (h : HalfId) (q : Nat) (rest : List BMsg), (takeQmin (s.blk.lane h.peer).rx = some (q, rest)) ∧ (s.blk.helm h = 2)) ∧
    (∃ (s : State) (h : HalfId) (rest : List BMsg), (takeClass4 (s.blk.lane h.peer).rx = some rest)) ∧
    (∃ (s : State) (h : HalfId), (s.blk.supRuns h = true) ∧ ((s.blk.half h).hl.wdogRun = true)) ∧
    (∃ (s : State) (h : HalfId) (who : Master), (s.blk.powered .CRP_WDOG h = true) ∧ (s.blk.roleOf h who = some 3)) ∧
    (∃ (s : State) (h : HalfId) (who : Master), (s.blk.powered .HLM_CLR h = true) ∧ (s.blk.hlmMaster h who = true)) ∧
    (∃ (s : State) (h : HalfId) (who : Master), (s.blk.powered .LOG_CMD h = true) ∧ (s.blk.hlmMaster h who = true)) ∧
    (∃ (s : State) (h : HalfId) (r : Report) (rest : List Report), (s.blk.memOn h = true) ∧ ((s.blk.half h).hl.queue = r :: rest)) ∧
    (∃ (s : State) (h : HalfId) (i : BitVec 8), (s.blk.powered .LOG_ENT h = true)) :=
  ⟨⟨upW (fun b => (b.modHalf .a fun x => { x with tsc := 200000, hl := { x.hl with claimAt := some 1 } }).setF .a F.HLM_STAT_CLAIM 0), .a, 1, by decide, by decide, by decide, by decide, by decide⟩,
   ⟨upW (fun b => b.modHalf .a fun x => { x with tsc := 200000, hl := { x.hl with claimAt := some 1 } }), .a, 1, by decide, by decide, by decide⟩,
   ⟨upW (fun b => b.modHalf .b fun x => { x with live := false }), .a, by decide, by decide, by decide⟩,
   ⟨upW (fun b => b.setF .a F.HLM_STAT_PEERDOWN 1), .a, _, by decide, by decide, by decide, rfl⟩,
   ⟨upW (fun b => (b.setF .a F.ADM_STAT_HELM 2).modHalf .a fun x => { x with tsc := 20000000 }), .a, by decide, by decide, by decide, by decide⟩,
   ⟨upW (fun b => ((b.setF .a F.ADM_STAT_HELM 2).setF .a F.HLM_DISP_EVALS 1).modHalf .a fun x => { x with tsc := 20000000, hl := { x.hl with qmin := some 9 } }), .a, 9, by decide, by decide, by decide, by decide, by decide⟩,
   ⟨upW (fun b => { b.setF .a F.ADM_STAT_HELM 2 with ba := ⟨[], [], [.qmin 9]⟩ }), .a, 9, [], by decide, by decide⟩,
   ⟨upW (fun b => { b with ba := ⟨[], [], [.class4]⟩ }), .a, [], by decide⟩,
   ⟨upW (fun b => b.modHl .a fun y => { y with wdogRun := true }), .a, by decide, by decide⟩,
   ⟨up, .b, .sup, by decide, by decide⟩,
   ⟨up, .b, .hip, by decide, by decide⟩,
   ⟨up, .b, .sup, by decide, by decide⟩,
   ⟨upW (fun b => b.report .a 0 1 15 3 3), .a, ⟨0, 1, 15, 3, 3, 0, false⟩, [], by decide, by decide⟩,
   ⟨up, .a, 9, by decide⟩⟩

theorem witness_ProcessorRowsComplete :
    (∃ (s : State) (h : HalfId) (r : Fin 3), (nth 2 (s.blk.half h).hip.roles r ≠ 2)) ∧
    (∃ (s : State) (h : HalfId) (r : Fin 3) (q : CoreFail) (rest : List CoreFail), ((s.blk.half h).cores.failing = q :: rest) ∧ (q.role = r) ∧ (s.blk.spcFree h = true)) ∧
    (∃ (s : State) (h : HalfId) (r : Fin 3), ((s.blk.half h).cores.failing.find? (fun x => x.role == r.val) = none)) ∧
    (∃ (s : State) (h : HalfId), ((s.blk.half h).hl.lastSup = none)) ∧
    (∃ (s : State) (h : HalfId) (b : Fin 8) (row : BitVec 16), (s.blk.f h F.TAL_POL_SRAMTH = 1) ∧ (nth 0 (s.blk.half h).sram.spare b < 8) ∧ ((3, b.val * 65536 + row.toNat) ∉ (s.blk.half h).tal.replaced)) ∧
    (∃ (s : State) (h : HalfId) (b : Fin 8) (row : BitVec 16), (s.blk.f h F.TAL_POL_SRAMTH = 0) ∧ ((s.blk.half h).sram.corr = [])) ∧
    (∃ (s : State) (h : HalfId) (n : Fin 2) (w1 w2 : Word) (data : List Word), (s.blk.canRuns h = true) ∧ (s.blk.canState h n < 2) ∧ (bits w1.toNat 21 21 = 0) ∧ (s.blk.f h F.CAN_STAT_REC n ≤ 127) ∧ (canPasses (s.blk.half h).hip.filters n w1 w2 = false)) ∧
    (∃ (s : State) (h : HalfId) (n : Fin 2) (w1 w2 : Word) (data : List Word), (s.blk.canRuns h = true) ∧ (s.blk.canState h n < 2) ∧ (bits w1.toNat 21 21 = 0) ∧ (s.blk.f h F.CAN_STAT_REC n ≤ 127) ∧ (canPasses (s.blk.half h).hip.filters n w1 w2 = true)) ∧
    (∃ (s : State) (h : HalfId) (n : Fin 2), (s.blk.canRuns h = true) ∧ (s.blk.canState h n < 2) ∧ ((nth ⟨[]⟩ (s.blk.half h).can n).tx ≠ []) ∧ (s.blk.on h F.CAN_CTRL_LISTEN n = false) ∧ (s.blk.fdWaits h n = false)) ∧
    (∃ (s : State) (h : HalfId) (n : Fin 2) (heavy : Bool), (s.blk.canRuns h = true) ∧ (s.blk.canState h n < 2) ∧ (255 < s.blk.f h F.CAN_STAT_TEC n + 8)) ∧
    (∃ (s : State) (h : HalfId) (n : Fin 2) (heavy : Bool), (s.blk.canRuns h = true) ∧ (s.blk.canState h n < 2) ∧ (s.blk.f h F.CAN_STAT_REC n < 240)) ∧
    (∃ (s : State) (h : HalfId) (n : Fin 2), (s.blk.canRuns h = true) ∧ (s.blk.canState h n = 2)) :=
  ⟨⟨up, .a, 0, by decide⟩,
   ⟨upW (fun b => b.coreFails .a 1 0), .a, 1, ⟨1, 0, 0⟩, [], by decide, by decide, by decide⟩,
   ⟨up, .a, 1, by decide⟩,
   ⟨up, .a, by decide⟩,
   ⟨upW (fun b => b.setF .a F.TAL_POL_SRAMTH 1), .a, 3, 77, by decide, by decide, by decide⟩,
   ⟨upW (fun b => b.setF .a F.TAL_POL_SRAMTH 0), .a, 3, 77, by decide, by decide⟩,
   ⟨upW (fun b => b.canJoin .a 1 true), .a, 1, 0, 0, [], by decide, by decide, by decide, by decide, by decide⟩,
   ⟨upW (fun b => (b.canJoin .a 1 true).modHip .a fun p => { p with filters := [(16, [0x8000, 0, 0, 0])] }), .a, 1, 0, 0, [], by decide, by decide, by decide, by decide, by decide⟩,
   ⟨upW (fun b => (b.canJoin .a 1 true).modCan .a 1 fun _ => ⟨[[0, 0]]⟩), .a, 1, by decide, by decide, by decide, by decide, by decide⟩,
   ⟨upW (fun b => (b.canJoin .a 1 true).setF .a F.CAN_STAT_TEC 248 1), .a, 1, false, by decide, by decide, by decide⟩,
   ⟨upW (fun b => b.canJoin .a 1 true), .a, 1, true, by decide, by decide, by decide⟩,
   ⟨upW (fun b => (b.canJoin .a 1 true).setF .a F.CAN_STAT_STATE 2 1), .a, 1, by decide, by decide⟩⟩

theorem witness_FrontEndRowsComplete :
    (∃ (s : State) (n : Fin 6) (up : Bool), (s.blk.drvOn = true) ∧ (s.blk.f .a F.FE_CFG_MODE n = 0)) ∧
    (∃ (s : State) (n : Fin 6) (up : Bool), (s.blk.drvOn = true) ∧ (2 ≤ s.blk.f .a F.FE_CFG_MODE n) ∧ (up = !s.blk.on .a F.FE_CFG_INV n)) ∧
    (∃ (s : State) (n : Fin 6) (up : Bool), (s.blk.drvOn = true) ∧ (2 ≤ s.blk.f .a F.FE_CFG_MODE n) ∧ (up = s.blk.on .a F.FE_CFG_INV n)) ∧
    (∃ (s : State) (n : Fin 6) (up : Bool), (s.blk.drvOn = true) ∧ (s.blk.f .a F.FE_CFG_MODE n = 1) ∧ ((s.blk.feOf n).armed = true) ∧ (up = s.blk.on .a F.FE_CFG_INV n)) ∧
    (∃ (s : State) (n : Fin 6) (up : Bool), (s.blk.drvOn = true) ∧ (s.blk.f .a F.FE_CFG_MODE n = 1) ∧ ((s.blk.feOf n).armed = false ∨ up = !s.blk.on .a F.FE_CFG_INV n)) ∧
    (∃ (s : State) (n : Fin 6) (v : BitVec 16), (s.blk.drvOn = true) ∧ (s.blk.f .a F.FE_CFG_MODE n = 1)) ∧
    (∃ (s : State) (n : Fin 6), (s.blk.drvOn = true)) ∧
    (∃ (s : State) (n : Fin 6), (s.blk.drvOn = true) ∧ (s.blk.on .a F.FE_STAT_ACTIVE n = false)) ∧
    (∃ (s : State) (n : Fin 6), (s.blk.drvOn = true) ∧ (s.blk.on .a F.FE_STAT_ACTIVE n = false) ∧ (s.blk.f .a F.FE_CFG_MODE n = 1)) ∧
    (∃ (s : State) (n : Fin 6) (up : Bool), (s.blk.drvOn = false)) ∧
    (∃ (s : State) (n : Fin 6) (v : BitVec 16), (s.blk.drvOn = false)) ∧
    (∃ (s : State) (n : Fin 6), (s.blk.drvOn = false)) ∧
    (∃ (s : State) (n : Fin 6) (b : Bool), (s.blk.drvOn = false)) :=
  ⟨⟨up, 4, true, by decide, by decide⟩,
   ⟨upW (fun b => b.setF .a F.FE_CFG_MODE 2 4), 4, true, by decide, by decide, by decide⟩,
   ⟨upW (fun b => b.setF .a F.FE_CFG_MODE 2 4), 4, false, by decide, by decide, by decide⟩,
   ⟨upW (fun b => (b.setF .a F.FE_CFG_MODE 1 0).setFe 0 ⟨true, 0, 9⟩), 0, false, by decide, by decide, by decide, by decide⟩,
   ⟨upW (fun b => b.setF .a F.FE_CFG_MODE 1 0), 0, false, by decide, by decide, by decide⟩,
   ⟨upW (fun b => b.setF .a F.FE_CFG_MODE 1 0), 0, 200, by decide, by decide⟩,
   ⟨up, 3, by decide⟩,
   ⟨up, 5, by decide, by decide⟩,
   ⟨upW (fun b => b.setF .a F.FE_CFG_MODE 1 0), 0, by decide, by decide, by decide⟩,
   ⟨upW (fun b => b.setF .a F.PWR_STAT_DRV 1), 4, true, by decide⟩,
   ⟨upW (fun b => b.setF .a F.PWR_STAT_DRV 1), 0, 200, by decide⟩,
   ⟨upW (fun b => b.setF .a F.PWR_STAT_DRV 1), 3, by decide⟩,
   ⟨upW (fun b => b.setF .a F.PWR_STAT_DRV 1), 3, true, by decide⟩⟩

theorem witness_EdgeRowsComplete :
    (∃ (s : State) (h : HalfId) (t : Fin 2) (cam : Bool) (st : Nat) (rest : List (Bool × Nat)), (takeEdge cam (s.blk.trk h t).raw = some (st, rest)) ∧ (reached ((st + s.blk.f h F.WTK_CTRL_GLITCH t) % 2 ^ 48) (s.blk.half h).tsc = true)) ∧
    (∃ (s : State) (h : HalfId) (t : Fin 2) (cam : Bool) (st : Nat) (rest : List (Bool × Nat)), (takeEdge cam (s.blk.trk h t).raw = some (st, rest))) ∧
    (∃ (s : State) (h : HalfId) (t : Fin 2) (tr : Bool) (st : Nat) (wid : Nat) (d : Bool) (b : Block), ((s.blk.trk h t).dirOpen = some st) ∧ (s.blk.f h F.WTK_CTRL_REV_MODE t = 1) ∧ (s.blk.f .a F.FE_CFG_MODE (s.blk.f h F.WTK_CTRL_CRK_SEL t) = 3) ∧ (wid = s.blk.f h F.WTK_DIRW_DIR_WIDTH t) ∧ (d = (if tr = false ∨ ((s.blk.trk h t).lastP ≠ 0 ∧ (s.blk.trk h t).lastP < 3 * wid) then (s.blk.trk h t).dirLast
        else decide (wid ≤ ticksTo st (s.blk.half h).tsc))) ∧ (b = (if tr then s.blk else s.blk.setF h F.WTK_ERR_DIRERR 1 t)) ∧ (d = s.blk.trkRev h t)) ∧
    (∃ (s : State) (h : HalfId) (t : Fin 2) (tr : Bool) (st : Nat) (wid : Nat) (d : Bool) (b : Block) (k : Nat), ((s.blk.trk h t).dirOpen = some st) ∧ (s.blk.f h F.WTK_CTRL_REV_MODE t = 1) ∧ (s.blk.f .a F.FE_CFG_MODE (s.blk.f h F.WTK_CTRL_CRK_SEL t) = 3) ∧ (wid = s.blk.f h F.WTK_DIRW_DIR_WIDTH t) ∧ (d = (if tr = false ∨ ((s.blk.trk h t).lastP ≠ 0 ∧ (s.blk.trk h t).lastP < 3 * wid) then (s.blk.trk h t).dirLast
        else decide (wid ≤ ticksTo st (s.blk.half h).tsc))) ∧ (b = (if tr then s.blk else s.blk.setF h F.WTK_ERR_DIRERR 1 t)) ∧ (d ≠ s.blk.trkRev h t) ∧ (k = (s.blk.trk h t).dirSteps + (if (s.blk.trk h t).lastEdge = some st then (if (s.blk.trk h t).lastSkip then 2 else 1) else 0)) ∧ ((s.blk.trk h t).dirRun + 1 < s.blk.f h F.WTK_AUX_DIR_CONFIRM t)) ∧
    (∃ (s : State) (h : HalfId) (t : Fin 2) (tr : Bool) (st : Nat) (wid : Nat) (d : Bool) (b : Block) (k : Nat) (c : Block), ((s.blk.trk h t).dirOpen = some st) ∧ (s.blk.f h F.WTK_CTRL_REV_MODE t = 1) ∧ (s.blk.f .a F.FE_CFG_MODE (s.blk.f h F.WTK_CTRL_CRK_SEL t) = 3) ∧ (wid = s.blk.f h F.WTK_DIRW_DIR_WIDTH t) ∧ (d = (if tr = false ∨ ((s.blk.trk h t).lastP ≠ 0 ∧ (s.blk.trk h t).lastP < 3 * wid) then (s.blk.trk h t).dirLast
        else decide (wid ≤ ticksTo st (s.blk.half h).tsc))) ∧ (b = (if tr then s.blk else s.blk.setF h F.WTK_ERR_DIRERR 1 t)) ∧ (d ≠ s.blk.trkRev h t) ∧ (k = (s.blk.trk h t).dirSteps + (if (s.blk.trk h t).lastEdge = some st then (if (s.blk.trk h t).lastSkip then 2 else 1) else 0)) ∧ (s.blk.f h F.WTK_AUX_DIR_CONFIRM t ≤ (s.blk.trk h t).dirRun + 1) ∧ (c = b.modTrk h t (fun y => { y with dirOpen := none, dirLast := d, dirRun := y.dirRun + 1, dirSteps := k }))) ∧
    (∃ (s : State) (h : HalfId) (t : Fin 2) (te : Nat) (rest : List (Bool × Nat)) (b : Block), (takeEdge false (s.blk.trk h t).passed = some (te, rest)) ∧ (reached ((te + s.blk.f h F.WTK_CTRL_GLITCH t + 6) % 2 ^ 48) (s.blk.half h).tsc = true) ∧ (b = s.blk.modTrk h t (fun y => { y with passed := rest })) ∧ (s.blk.on h F.WTK_CTRL_EN t = false)) ∧
    (∃ (s : State) (h : HalfId) (t : Fin 2) (te : Nat) (rest : List (Bool × Nat)) (b : Block), (takeEdge false (s.blk.trk h t).passed = some (te, rest)) ∧ (reached ((te + s.blk.f h F.WTK_CTRL_GLITCH t + 6) % 2 ^ 48) (s.blk.half h).tsc = true) ∧ (b = s.blk.modTrk h t (fun y => { y with passed := rest })) ∧ (s.blk.on h F.WTK_CTRL_EN t = true) ∧ (b.sync h t = syLost) ∧ (b.on h F.WTK_CTRL_AUTO_RESYNC t = false)) ∧
    (∃ (s : State) (h : HalfId) (t : Fin 2) (te : Nat) (rest : List (Bool × Nat)) (b : Block), (takeEdge false (s.blk.trk h t).passed = some (te, rest)) ∧ (reached ((te + s.blk.f h F.WTK_CTRL_GLITCH t + 6) % 2 ^ 48) (s.blk.half h).tsc = true) ∧ (b = s.blk.modTrk h t (fun y => { y with passed := rest })) ∧ (s.blk.on h F.WTK_CTRL_EN t = true) ∧ (b.sync h t = syLost) ∧ (b.on h F.WTK_CTRL_AUTO_RESYNC t = true)) ∧
    (∃ (s : State) (h : HalfId) (t : Fin 2) (te : Nat) (rest : List (Bool × Nat)) (b : Block), (takeEdge false (s.blk.trk h t).passed = some (te, rest)) ∧ (reached ((te + s.blk.f h F.WTK_CTRL_GLITCH t + 6) % 2 ^ 48) (s.blk.half h).tsc = true) ∧ (b = s.blk.modTrk h t (fun y => { y with passed := rest })) ∧ (s.blk.on h F.WTK_CTRL_EN t = true) ∧ (b.sync h t = syNone) ∧ ((b.trk h t).lastEdge = none)) ∧
    (∃ (s : State) (h : HalfId) (t : Fin 2) (te : Nat) (rest : List (Bool × Nat)) (b : Block) (e0 : Nat) (p : Nat), (takeEdge false (s.blk.trk h t).passed = some (te, rest)) ∧ (reached ((te + s.blk.f h F.WTK_CTRL_GLITCH t + 6) % 2 ^ 48) (s.blk.half h).tsc = true) ∧ (b = s.blk.modTrk h t (fun y => { y with passed := rest })) ∧ (s.blk.on h F.WTK_CTRL_EN t = true) ∧ (b.sync h t = syNone) ∧ ((b.trk h t).lastEdge = some e0) ∧ (p = ticksTo e0 te)) ∧
    (∃ (s : State) (h : HalfId) (t : Fin 2) (te : Nat) (rest : List (Bool × Nat)) (b : Block) (e0 : Nat), (takeEdge false (s.blk.trk h t).passed = some (te, rest)) ∧ (reached ((te + s.blk.f h F.WTK_CTRL_GLITCH t + 6) % 2 ^ 48) (s.blk.half h).tsc = true) ∧ (b = s.blk.modTrk h t (fun y => { y with passed := rest })) ∧ (s.blk.on h F.WTK_CTRL_EN t = true) ∧ (b.sync h t = syTooth) ∧ ((b.trk h t).lastEdge = some e0)) ∧
    (∃ (s : State) (h : HalfId) (t : Fin 2) (te : Nat) (rest : List (Bool × Nat)) (b : Block), (takeEdge false (s.blk.trk h t).passed = some (te, rest)) ∧ (reached ((te + s.blk.f h F.WTK_CTRL_GLITCH t + 6) % 2 ^ 48) (s.blk.half h).tsc = true) ∧ (b = s.blk.modTrk h t (fun y => { y with passed := rest })) ∧ (s.blk.on h F.WTK_CTRL_EN t = true) ∧ (b.placed h t = true) ∧ (b.on h F.WTK_STAT_BLOCKED t = true)) ∧
    (∃ (s : State) (h : HalfId) (t : Fin 2) (te : Nat) (rest : List (Bool × Nat)) (b : Block) (e0 : Nat) (k : Nat), (takeEdge false (s.blk.trk h t).passed = some (te, rest)) ∧ (reached ((te + s.blk.f h F.WTK_CTRL_GLITCH t + 6) % 2 ^ 48) (s.blk.half h).tsc = true) ∧ (b = s.blk.modTrk h t (fun y => { y with passed := rest })) ∧ (s.blk.on h F.WTK_CTRL_EN t = true) ∧ (b.placed h t = true) ∧ (b.on h F.WTK_STAT_BLOCKED t = false) ∧ ((b.trk h t).lastEdge = some e0) ∧ (b.lauter h t (ticksTo e0 te) = some k)) ∧
    (∃ (s : State) (h : HalfId) (t : Fin 2) (te : Nat) (rest : List (Bool × Nat)) (b : Block) (e0 : Nat), (takeEdge false (s.blk.trk h t).passed = some (te, rest)) ∧ (reached ((te + s.blk.f h F.WTK_CTRL_GLITCH t + 6) % 2 ^ 48) (s.blk.half h).tsc = true) ∧ (b = s.blk.modTrk h t (fun y => { y with passed := rest })) ∧ (s.blk.on h F.WTK_CTRL_EN t = true) ∧ (b.placed h t = true) ∧ (b.on h F.WTK_STAT_BLOCKED t = false) ∧ ((b.trk h t).lastEdge = some e0) ∧ (b.lauter h t (ticksTo e0 te) = none)) ∧
    (∃ (s : State) (h : HalfId) (t : Fin 2) (te : Nat) (rest : List (Bool × Nat)) (b : Block), (takeEdge true (s.blk.trk h t).passed = some (te, rest)) ∧ (b = s.blk.modTrk h t (fun y => { y with passed := rest })) ∧ (b.placed h t = false ∨ b.trkRev h t = true)) ∧
    (∃ (s : State) (h : HalfId) (t : Fin 2) (te : Nat) (rest : List (Bool × Nat)) (b : Block) (cs : List Nat), (takeEdge true (s.blk.trk h t).passed = some (te, rest)) ∧ (b = s.blk.modTrk h t (fun y => { y with passed := rest })) ∧ (b.sync h t = syCrank) ∧ (b.trkRev h t = false) ∧ (cs = (((List.range (b.f h F.WTK_TABN_CAM_N t)).map (b.camAng h t)).filter (fun c => decide (circDist revAU (c % revAU) (b.placedAt h t te revAU) ≤ b.camTol h t)))) ∧ ([] = cs)) ∧
    (∃ (s : State) (h : HalfId) (t : Fin 2) (te : Nat) (rest : List (Bool × Nat)) (b : Block) (cs : List Nat), (takeEdge true (s.blk.trk h t).passed = some (te, rest)) ∧ (b = s.blk.modTrk h t (fun y => { y with passed := rest })) ∧ (b.sync h t = syCrank) ∧ (b.trkRev h t = false) ∧ (cs = (((List.range (b.f h F.WTK_TABN_CAM_N t)).map (b.camAng h t)).filter (fun c => decide (circDist revAU (c % revAU) (b.placedAt h t te revAU) ≤ b.camTol h t)))) ∧ (2 ≤ cs.length)) ∧
    (∃ (s : State) (h : HalfId) (t : Fin 2) (te : Nat) (rest : List (Bool × Nat)) (b : Block) (cs : List Nat) (a : Nat) (rv : Nat) (k : Nat) (c : Block), (takeEdge true (s.blk.trk h t).passed = some (te, rest)) ∧ (b = s.blk.modTrk h t (fun y => { y with passed := rest })) ∧ (b.sync h t = syCrank) ∧ (b.trkRev h t = false) ∧ (cs = (((List.range (b.f h F.WTK_TABN_CAM_N t)).map (b.camAng h t)).filter (fun c => decide (circDist revAU (c % revAU) (b.placedAt h t te revAU) ≤ b.camTol h t)))) ∧ ([a] = cs) ∧ (rv = (if a < revAU then 0 else 1)) ∧ (k = (match (b.trk h t).camNamed with | some (r, m) => if r = rv then m + 1 else 1 | none => 1)) ∧ (c = (b.modTrk h t fun y => { y with camHist := (false :: y.camHist).take 8 }).modTrk h t (fun y => { y with camNamed := some (rv, k) }))) ∧
    (∃ (s : State) (h : HalfId) (t : Fin 2) (te : Nat) (rest : List (Bool × Nat)) (b : Block), (takeEdge true (s.blk.trk h t).passed = some (te, rest)) ∧ (b = s.blk.modTrk h t (fun y => { y with passed := rest })) ∧ (b.sync h t = syFull) ∧ (b.trkRev h t = false) ∧ (((List.range (b.f h F.WTK_TABN_CAM_N t)).map (b.camAng h t)).any (fun c => decide (circDist (b.cycleL h) c (b.placedAt h t te (b.cycleL h)) ≤ b.camTol h t)) = true)) ∧
    (∃ (s : State) (h : HalfId) (t : Fin 2) (te : Nat) (rest : List (Bool × Nat)) (b : Block), (takeEdge true (s.blk.trk h t).passed = some (te, rest)) ∧ (b = s.blk.modTrk h t (fun y => { y with passed := rest })) ∧ (b.sync h t = syFull) ∧ (b.trkRev h t = false) ∧ (((List.range (b.f h F.WTK_TABN_CAM_N t)).map (b.camAng h t)).any (fun c => decide (circDist (b.cycleL h) c (b.placedAt h t te (b.cycleL h)) ≤ b.camTol h t)) = false)) :=
  ⟨⟨upW (fun b => (b.modTrk .a 1 fun y => { y with raw := [(true, 3), (false, 5)] }).modHalf .a fun x => { x with tsc := 1000 }), .a, 1, false, 5, [(true, 3)], by decide, by decide⟩,
   ⟨upW (fun b => b.modTrk .a 1 fun y => { y with raw := [(true, 3), (false, 5)] }), .a, 1, true, 3, [(false, 5)], by decide⟩,
   ⟨upW (fun b => (((b.setF .a F.WTK_CTRL_REV_MODE 1 1).setF .a F.FE_CFG_MODE 3 0).setF .a F.WTK_DIRW_DIR_WIDTH 100 1).modTrk .a 1 fun y => { y with dirOpen := some 0 }), .a, 1, true, 0, _, _, _, by decide, by decide, by decide, rfl, rfl, rfl, rfl⟩,
   ⟨upW (fun b => ((((b.setF .a F.WTK_CTRL_REV_MODE 1 1).setF .a F.WTK_AUX_DIR_CONFIRM 3 1).setF .a F.FE_CFG_MODE 3 0).setF .a F.WTK_DIRW_DIR_WIDTH 0 1).modTrk .a 1 fun y => { y with dirOpen := some 0 }), .a, 1, true, 0, _, _, _, _, by decide, by decide, by decide, rfl, rfl, rfl, by decide, rfl, by decide⟩,
   ⟨upW (fun b => ((((b.setF .a F.WTK_CTRL_REV_MODE 1 1).setF .a F.WTK_AUX_DIR_CONFIRM 1 1).setF .a F.FE_CFG_MODE 3 0).setF .a F.WTK_DIRW_DIR_WIDTH 0 1).modTrk .a 1 fun y => { y with dirOpen := some 0 }), .a, 1, true, 0, _, _, _, _, _, by decide, by decide, by decide, rfl, rfl, rfl, by decide, rfl, by decide, rfl⟩,
   ⟨upW (fun b => ((b).modTrk .a 1 fun y => { y with passed := [(false, 5)] }).modHalf .a fun x => { x with tsc := 1000 }), .a, 1, 5, [], _, by decide, by decide, rfl, by decide⟩,
   ⟨upW (fun b => ((((b.setF .a F.WTK_CTRL_EN 1 1).setF .a F.WTK_STAT_SYNC 4 1).setF .a F.WTK_CTRL_AUTO_RESYNC 0 1).modTrk .a 1 fun y => { y with passed := [(false, 5)] }).modHalf .a fun x => { x with tsc := 1000 }), .a, 1, 5, [], _, by decide, by decide, rfl, by decide, by decide, by decide⟩,
   ⟨upW (fun b => ((((b.setF .a F.WTK_CTRL_EN 1 1).setF .a F.WTK_STAT_SYNC 4 1).setF .a F.WTK_CTRL_AUTO_RESYNC 1 1).modTrk .a 1 fun y => { y with passed := [(false, 5)] }).modHalf .a fun x => { x with tsc := 1000 }), .a, 1, 5, [], _, by decide, by decide, rfl, by decide, by decide, by decide⟩,
   ⟨upW (fun b => ((b.setF .a F.WTK_CTRL_EN 1 1).modTrk .a 1 fun y => { y with passed := [(false, 5)] }).modHalf .a fun x => { x with tsc := 1000 }), .a, 1, 5, [], _, by decide, by decide, rfl, by decide, by decide, by decide⟩,
   ⟨upW (fun b => ((b.setF .a F.WTK_CTRL_EN 1 1).modTrk .a 1 fun y => { y with passed := [(false, 5)], lastEdge := some 2 }).modHalf .a fun x => { x with tsc := 1000 }), .a, 1, 5, [], _, 2, _, by decide, by decide, rfl, by decide, by decide, by decide, rfl⟩,
   ⟨upW (fun b => (((b.setF .a F.WTK_CTRL_EN 1 1).setF .a F.WTK_STAT_SYNC 1 1).modTrk .a 1 fun y => { y with passed := [(false, 5)], lastEdge := some 2 }).modHalf .a fun x => { x with tsc := 1000 }), .a, 1, 5, [], _, 2, by decide, by decide, rfl, by decide, by decide, by decide⟩,
   ⟨upW (fun b => ((((b.setF .a F.WTK_CTRL_EN 1 1).setF .a F.WTK_STAT_SYNC 2 1).setF .a F.WTK_STAT_BLOCKED 1 1).modTrk .a 1 fun y => { y with passed := [(false, 5)] }).modHalf .a fun x => { x with tsc := 1000 }), .a, 1, 5, [], _, by decide, by decide, rfl, by decide, by decide, by decide⟩,
   ⟨upW (fun b => (((((((b.setF .a F.WTK_CTRL_EN 1 1).setF .a F.WTK_STAT_SYNC 3 1).setF .a F.WTK_TABN_CRK_N 1 1).setF .a F.WTK_WIN_WIN_LO 1000 1).setF .a F.WTK_WIN_WIN_HI 1000 1)).modTrk .a 1 fun y => { y with passed := [(false, 5)], lastEdge := some 2, lastP := 3, lastS := revAU }).modHalf .a fun x => { x with tsc := 1000 }), .a, 1, 5, [], _, 2, 1, by decide, by decide, rfl, by decide, by decide, by decide, by decide, by decide⟩,
   ⟨upW (fun b => (((b.setF .a F.WTK_CTRL_EN 1 1).setF .a F.WTK_STAT_SYNC 3 1).modTrk .a 1 fun y => { y with passed := [(false, 5)], lastEdge := some 2 }).modHalf .a fun x => { x with tsc := 1000 }), .a, 1, 5, [], _, 2, by decide, by decide, rfl, by decide, by decide, by decide, by decide, by decide⟩,
   ⟨upW (fun b => ((((b.setF .a F.WTK_STAT_SYNC 1 1).setF .a F.WTK_TABN_CAM_N 0 1).setW .a .WTK_CAM 0 1 0)).modTrk .a 1 fun y => { y with passed := [(true, 5)] }), .a, 1, 5, [], _, by decide, rfl, by decide⟩,
   ⟨upW (fun b => ((((b.setF .a F.WTK_STAT_SYNC 2 1).setF .a F.WTK_TABN_CAM_N 0 1).setW .a .WTK_CAM 0 1 0)).modTrk .a 1 fun y => { y with passed := [(true, 5)] }), .a, 1, 5, [], _, _, by decide, rfl, by decide, by decide, rfl, by decide⟩,
   ⟨upW (fun b => ((((b.setF .a F.WTK_STAT_SYNC 2 1).setF .a F.WTK_TABN_CAM_N 2 1).setW .a .WTK_CAM 0 1 0)).modTrk .a 1 fun y => { y with passed := [(true, 5)] }), .a, 1, 5, [], _, _, by decide, rfl, by decide, by decide, rfl, by decide⟩,
   ⟨upW (fun b => ((((b.setF .a F.WTK_STAT_SYNC 2 1).setF .a F.WTK_TABN_CAM_N 1 1).setW .a .WTK_CAM 0 1 0)).modTrk .a 1 fun y => { y with passed := [(true, 5)] }), .a, 1, 5, [], _, _, 0, _, _, _, by decide, rfl, by decide, by decide, rfl, by decide, rfl, rfl, rfl⟩,
   ⟨upW (fun b => ((((b.setF .a F.WTK_STAT_SYNC 3 1).setF .a F.WTK_TABN_CAM_N 1 1).setW .a .WTK_CAM 0 1 0)).modTrk .a 1 fun y => { y with passed := [(true, 5)] }), .a, 1, 5, [], _, by decide, rfl, by decide, by decide, by decide⟩,
   ⟨upW (fun b => ((((b.setF .a F.WTK_STAT_SYNC 3 1).setF .a F.WTK_TABN_CAM_N 0 1).setW .a .WTK_CAM 0 1 0)).modTrk .a 1 fun y => { y with passed := [(true, 5)] }), .a, 1, 5, [], _, by decide, rfl, by decide, by decide, by decide⟩⟩

set_option maxRecDepth 20000 in
theorem witness_TrackerRowsComplete :
    (∃ (s : State) (h : HalfId) (t : Fin 2), (s.blk.powered .WTK_CTRL h = true) ∧ (s.blk.on h F.WTK_CTRL_EN t = true)) ∧
    (∃ (s : State) (h : HalfId) (t : Fin 2), (s.blk.powered .WTK_CTRL h = true) ∧ (s.blk.on h F.WTK_CTRL_EN t = false) ∧ (s.blk.tablesValid h t = false)) ∧
    (∃ (s : State) (h : HalfId) (t : Fin 2) (b : Block) (c : Block), (s.blk.powered .WTK_CTRL h = true) ∧ (s.blk.on h F.WTK_CTRL_EN t = false) ∧ (s.blk.tablesValid h t = true) ∧ (b = (if s.blk.on h F.WTK_CTRL_EN (1 - t.val) then s.blk
        else (s.blk.setF h F.WTK_ASEL_CURSRC (s.blk.f h F.WTK_ASEL_PRIMARY)).modHalf h fun x => { x with srcAsked := false })) ∧ (c = (if s.blk.f h F.WTK_CTRL_REV_MODE t = 1 then b else b.setF h F.WTK_STAT_REV 0 t))) ∧
    (∃ (s : State) (h : HalfId) (t : Fin 2), (s.blk.powered .WTK_CTRL h = true) ∧ (s.blk.on h F.WTK_CTRL_EN t = true) ∧ (s.blk.src h ≠ t ∨ s.blk.placed h t = false)) ∧
    (∃ (s : State) (h : HalfId) (t : Fin 2) (b : Block), (s.blk.powered .WTK_CTRL h = true) ∧ (s.blk.on h F.WTK_CTRL_EN t = true) ∧ (s.blk.src h = t) ∧ (s.blk.placed h t = true) ∧ (b = ((s.blk.setF h F.WTK_CTRL_EN 0 t).unplace h t syNone).modTrk h t (fun y => { y with raw := [], passed := [], dirOpen := none }))) ∧
    (∃ (s : State) (h : HalfId) (t : Fin 2), (s.blk.powered .WTK_CTRL h = true) ∧ (s.blk.on h F.WTK_CTRL_EN t = false)) ∧
    (∃ (s : State) (h : HalfId) (t : Fin 2), (s.blk.powered .WTK_CLR h = true)) ∧
    (∃ (s : State) (h : HalfId) (t : Fin 2), (s.blk.powered .WTK_ASEL h = true)) ∧
    (∃ (s : State) (h : HalfId) (st : Nat) (a : Nat) (f : Bool) (rest : List BMsg) (b : Block) (t : Nat), (takeAngle (s.blk.lane h.peer).rx = some (st, a, f, rest)) ∧ (b = s.blk.setLane h.peer { s.blk.lane h.peer with rx := rest }) ∧ (t = b.src h) ∧ (b.placed h t = false ∨ b.placed h.peer (b.src h.peer) = false ∨ b.bridgeUp h = false ∨ b.on h F.TSC_XSTAT_VALID = false)) ∧
    (∃ (s : State) (h : HalfId) (st : Nat) (a : Nat) (f : Bool) (rest : List BMsg) (b : Block) (t : Nat) (m : Nat) (own : Nat) (d : Int) (c : Block), (takeAngle (s.blk.lane h.peer).rx = some (st, a, f, rest)) ∧ (b = s.blk.setLane h.peer { s.blk.lane h.peer with rx := rest }) ∧ (t = b.src h) ∧ (b.placed h t = true) ∧ (b.placed h.peer (b.src h.peer) = true) ∧ (b.bridgeUp h = true) ∧ (b.on h F.TSC_XSTAT_VALID = true) ∧ (m = (if f = true ∧ b.sync h t = syFull then b.cycleL h else revAU)) ∧ (own = b.placedAt h t (((st : Int) + (b.half h).xdiff) % 2 ^ 48).toNat m) ∧ (d = (if 2 * fwd m own (a % m) < m then (fwd m own (a % m) : Int) else (fwd m own (a % m) : Int) - m)) ∧ (c = (b.setF h F.WTK_XCHK_PEER_VALID 1 t).setF h F.WTK_XCHK_DIFF (field 15 (clampInt 16383 (if d < 0 then -((-d) / 64) else d / 64))) t) ∧ (d.natAbs ≤ (b.trk h t).xTol * 64)) ∧
    (∃ (s : State) (h : HalfId) (st : Nat) (a : Nat) (f : Bool) (rest : List BMsg) (b : Block) (t : Nat) (m : Nat) (own : Nat) (d : Int) (c : Block) (e : Block), (takeAngle (s.blk.lane h.peer).rx = some (st, a, f, rest)) ∧ (b = s.blk.setLane h.peer { s.blk.lane h.peer with rx := rest }) ∧ (t = b.src h) ∧ (b.placed h t = true) ∧ (b.placed h.peer (b.src h.peer) = true) ∧ (b.bridgeUp h = true) ∧ (b.on h F.TSC_XSTAT_VALID = true) ∧ (m = (if f = true ∧ b.sync h t = syFull then b.cycleL h else revAU)) ∧ (own = b.placedAt h t (((st : Int) + (b.half h).xdiff) % 2 ^ 48).toNat m) ∧ (d = (if 2 * fwd m own (a % m) < m then (fwd m own (a % m) : Int) else (fwd m own (a % m) : Int) - m)) ∧ (c = (b.setF h F.WTK_XCHK_PEER_VALID 1 t).setF h F.WTK_XCHK_DIFF (field 15 (clampInt 16383 (if d < 0 then -((-d) / 64) else d / 64))) t) ∧ ((b.trk h t).xTol * 64 < d.natAbs) ∧ (e = (c.setF h F.WTK_ERR_XCHK 1 t).modTrk h t (fun y => { y with xMismatch := true }))) :=
  ⟨⟨upW (fun b => b.setF .a F.WTK_CTRL_EN 1 1), .a, 1, by decide, by decide⟩,
   ⟨up, .a, 1, by decide, by decide, by decide⟩,
   ⟨upTable, .a, 1, _, _, by decide, by decide, by decide, rfl, rfl⟩,
   ⟨upW (fun b => b.setF .a F.WTK_CTRL_EN 1 1), .a, 1, by decide, by decide, by decide⟩,
   ⟨upW (fun b => (b.setF .a F.WTK_CTRL_EN 1 0).setF .a F.WTK_STAT_SYNC 3 0), .a, 0, _, by decide, by decide, by decide, by decide, rfl⟩,
   ⟨up, .a, 1, by decide, by decide⟩,
   ⟨up, .a, 1, by decide⟩,
   ⟨up, .a, 1, by decide⟩,
   ⟨upW (fun b => { b with ba := ⟨[], [], [.angle 5 6 true]⟩ }), .a, 5, 6, true, [], _, _, by decide, rfl, rfl, by decide⟩,
   ⟨upW (fun b => { ((b.setF .a F.WTK_STAT_SYNC 3 0).setF .b F.WTK_STAT_SYNC 3 0).setF .a F.TSC_XSTAT_VALID 1 with ba := ⟨[], [], [.angle 5 0 true]⟩ }), .a, 5, 0, true, [], _, _, _, _, _, _, by decide, rfl, rfl, by decide, by decide, by decide, by decide, rfl, rfl, rfl, rfl, by decide⟩,
   ⟨upW (fun b => { ((b.setF .a F.WTK_STAT_SYNC 3 0).setF .b F.WTK_STAT_SYNC 3 0).setF .a F.TSC_XSTAT_VALID 1 with ba := ⟨[], [], [.angle 5 5000000 true]⟩ }), .a, 5, 5000000, true, [], _, _, _, _, _, _, _, by decide, rfl, rfl, by decide, by decide, by decide, by decide, rfl, rfl, rfl, rfl, by decide, rfl⟩⟩

theorem witness_AngleClockRowsComplete :
    (∃ (s : State) (h : HalfId), (s.blk.clockValid h = true) ∧ ((s.blk.half h).clk.mode ≠ .halted) ∧ ((s.blk.half h).clk.a = (s.blk.half h).clk.halt) ∧ (fracLe (s.blk.half h).clk.haltRun ((s.blk.half h).clk.run (s.blk.half h).tsc) = true)) ∧
    (∃ (s : State) (h : HalfId) (m : Nat), (s.blk.clockValid h = true) ∧ ((s.blk.half h).clk.mode = .hold) ∧ (m = s.blk.modM h) ∧ ((s.blk.half h).clk.holdOver m (s.blk.clockRev h) ((s.blk.half h).clk.qHeld m (s.blk.clockRev h) (s.blk.half h).tsc) = true)) ∧
    (∃ (s : State) (h : HalfId), (s.blk.clockValid h = true) ∧ ((s.blk.half h).clk.mode = .catchup) ∧ ((s.blk.half h).clk.a = (s.blk.half h).clk.qHeld (s.blk.modM h) (s.blk.clockRev h) (s.blk.half h).tsc)) ∧
    (∃ (s : State) (h : HalfId), (s.blk.powered .ANG_CTRL h = true) ∧ (s.blk.on h F.ANG_CTRL_EN = false)) ∧
    (∃ (s : State) (h : HalfId), (s.blk.powered .ANG_CTRL h = true) ∧ (s.blk.on h F.ANG_CTRL_EN = true)) ∧
    (∃ (s : State) (h : HalfId), (s.blk.powered .ANG_CTRL h = true)) ∧
    (∃ (s : State) (h : HalfId), (s.blk.powered .ANG_CLR h = true)) ∧
    (∃ (s : State) (h : HalfId), (s.blk.powered .ANG_NOW h = true)) ∧
    (∃ (s : State) (h : HalfId) (pay : List Word) (src : Nat) (q : Nat) (rest : List (List Word × Nat × Nat)) (b : Block), ((s.blk.fab h).queue = (pay, src, q) :: rest) ∧ (b = s.blk.modFab h (fun x => { x with queue := rest, usedAt := (s.blk.half h).tsc }))) ∧
    (∃ (s : State) (h : HalfId), (s.blk.on h F.ANG_CTRL_EN = true) ∧ (s.blk.on h F.ANG_CTRL_SRC = true) ∧ ((if s.blk.f h F.ANG_FSTALL_FSTALL < 1000 then 1000 else s.blk.f h F.ANG_FSTALL_FSTALL) * 200 ≤ ticksTo (s.blk.fab h).usedAt (s.blk.half h).tsc)) :=
  ⟨⟨upW (fun b => b.setF .a F.ANG_STAT_VALID 1), .a, by decide, by decide, by decide, by decide⟩,
   ⟨upW (fun b => (b.setF .a F.ANG_STAT_VALID 1).modClk .a fun c => { c with mode := .hold }), .a, _, by decide, by decide, rfl, by decide⟩,
   ⟨upW (fun b => (b.setF .a F.ANG_STAT_VALID 1).modClk .a fun c => { c with mode := .catchup }), .a, by decide, by decide, by decide⟩,
   ⟨up, .a, by decide, by decide⟩,
   ⟨upW (fun b => b.setF .a F.ANG_CTRL_EN 1), .a, by decide, by decide⟩,
   ⟨up, .a, by decide⟩,
   ⟨up, .a, by decide⟩,
   ⟨up, .a, by decide⟩,
   ⟨upW (fun b => ((b.setF .a F.ANG_CTRL_EN 1).setF .a F.ANG_CTRL_SRC 1).modFab .a fun x => { x with queue := [([], 1, 2)] }), .a, [], 1, 2, [], _, by decide, rfl⟩,
   ⟨upW (fun b => (((b.setF .a F.ANG_CTRL_SRC 1).setF .a F.ANG_CTRL_EN 1).setF .a F.ANG_FSTALL_FSTALL 0).modHalf .a fun x => { x with tsc := 300000 }), .a, by decide, by decide, by decide⟩⟩

set_option maxRecDepth 20000 in
theorem witness_FabricPortRowsComplete :
    (∃ (s : State) (h : HalfId) (p : Fin 2) (b : Block), (s.blk.on h F.EUL_PSTAT_LANEFAIL p = false) ∧ ((16 ≤ (s.blk.eport h p).viol.length ∨ 2 ≤ (s.blk.eport h p).trainF) ∨ nth false (s.blk.eport h p).laneBad (s.blk.f h F.EUL_PSTAT_LANE p) = true) ∧ (b = s.blk.modPort h p (fun y => { y with laneBad := y.laneBad.set (s.blk.f h F.EUL_PSTAT_LANE p) true, viol := [], trainF := 0 })) ∧ (nth false (s.blk.eport h p).laneBad (1 - s.blk.f h F.EUL_PSTAT_LANE p) = false) ∧ (s.blk.on h F.EUL_PCFG_LANE_AUTO p = false) ∧ (nth false (s.blk.eport h p).laneBad (s.blk.f h F.EUL_PSTAT_LANE p) = false)) ∧
    (∃ (s : State) (h : HalfId) (p : Fin 2) (b : Block) (c : Block) (d : Block), (s.blk.on h F.EUL_PSTAT_LANEFAIL p = false) ∧ ((16 ≤ (s.blk.eport h p).viol.length ∨ 2 ≤ (s.blk.eport h p).trainF) ∨ nth false (s.blk.eport h p).laneBad (s.blk.f h F.EUL_PSTAT_LANE p) = true) ∧ (b = s.blk.modPort h p (fun y => { y with laneBad := y.laneBad.set (s.blk.f h F.EUL_PSTAT_LANE p) true, viol := [], trainF := 0 })) ∧ (nth false (s.blk.eport h p).laneBad (1 - s.blk.f h F.EUL_PSTAT_LANE p) = false) ∧ (s.blk.on h F.EUL_PCFG_LANE_AUTO p = true) ∧ (c = b.retrain h p) ∧ (d = ((c.setF h F.EUL_PSTAT_LANE (1 - s.blk.f h F.EUL_PSTAT_LANE p) p).setF h F.EUL_PSTAT_SPAREUSE 1 p).setF h F.EUL_ERR_LANESW 1)) ∧
    (∃ (s : State) (h : HalfId) (p : Fin 2) (b : Block) (c : Block) (d : Block), (s.blk.on h F.EUL_PSTAT_LANEFAIL p = false) ∧ ((16 ≤ (s.blk.eport h p).viol.length ∨ 2 ≤ (s.blk.eport h p).trainF) ∨ nth false (s.blk.eport h p).laneBad (s.blk.f h F.EUL_PSTAT_LANE p) = true) ∧ (b = s.blk.modPort h p (fun y => { y with laneBad := y.laneBad.set (s.blk.f h F.EUL_PSTAT_LANE p) true, viol := [], trainF := 0 })) ∧ (nth false (s.blk.eport h p).laneBad (1 - s.blk.f h F.EUL_PSTAT_LANE p) = true) ∧ (c = b.retrain h p) ∧ (d = c.setF h F.EUL_PSTAT_LANEFAIL 1 p)) ∧
    (∃ (s : State) (h : HalfId) (p : Fin 2), (s.blk.portUp (h, p.val) = true)) ∧
    (∃ (s : State) (h : HalfId) (p : Fin 2), (s.blk.on h F.EUL_PSTAT_WRAP p = true) ∧ (s.blk.portUp (h, p.val) = true) ∧ (s.blk.islandPort h ≠ some p.val ∨ s.blk.bridgeUp h = true)) ∧
    (∃ (s : State) (h : HalfId) (p : Fin 2), (s.blk.on h F.EUL_PSTAT_WRAP p = true) ∧ (s.blk.portUp (h, p.val) = true) ∧ (s.blk.islandPort h = some p.val) ∧ (s.blk.bridgeUp h = false)) ∧
    (∃ (s : State) (h : HalfId) (p : Fin 2) (e : FrameEnd) (w0 : Word) (w1 : Word) (w2 : Word) (pay : List Word) (tap : BitVec 6) (res : List (BitVec 24)) (f : EFrame), (f = ⟨w0, w1, w2, pay⟩) ∧ (2 ≤ s.blk.rung h)) ∧
    (∃ (s : State) (h : HalfId) (p : Fin 2) (e : FrameEnd) (w0 : Word) (w1 : Word) (w2 : Word) (pay : List Word) (tap : BitVec 6) (res : List (BitVec 24)) (f : EFrame), (f = ⟨w0, w1, w2, pay⟩) ∧ (s.blk.rung h < 2) ∧ (s.blk.portUp (h, p.val) = true) ∧ (s.blk.portInUse h p = true) ∧ (e.good f.words = false ∨ f.nw ≠ pay.length ∨ 16 < f.nw)) ∧
    (∃ (s : State) (h : HalfId) (p : Fin 2) (e : FrameEnd) (w0 : Word) (w1 : Word) (w2 : Word) (pay : List Word) (tap : BitVec 6) (res : List (BitVec 24)) (f : EFrame), (f = ⟨w0, w1, w2, pay⟩) ∧ (s.blk.rung h < 2) ∧ (s.blk.portUp (h, p.val) = true) ∧ (s.blk.portInUse h p = true) ∧ (e.good f.words = true) ∧ (f.nw = pay.length) ∧ (f.nw ≤ 16) ∧ (f.type = ftPDREQ ∨ f.type = ftPDRESP)) ∧
    (∃ (s : State) (h : HalfId) (p : Fin 2) (e : FrameEnd) (w0 : Word) (w1 : Word) (w2 : Word) (pay : List Word) (tap : BitVec 6) (res : List (BitVec 24)) (f : EFrame) (b : Block), (f = ⟨w0, w1, w2, pay⟩) ∧ (s.blk.rung h < 2) ∧ (s.blk.portUp (h, p.val) = true) ∧ (s.blk.portInUse h p = true) ∧ (e.good f.words = true) ∧ (f.nw = pay.length) ∧ (f.nw ≤ 16) ∧ (f.type ≠ ftPDREQ) ∧ (f.type ≠ ftPDRESP) ∧ (f.src ≠ s.blk.f h F.EUL_NODE_NODE ∨ (s.blk.f h F.EUL_NODE_TOPO ≠ 2 ∧ s.blk.bridgeUp h = false ∧ s.blk.sawIt h f = false)) ∧ (b = s.blk.forward h p f (fun i => (nth 0 res i).toNat))) ∧
    (∃ (s : State) (h : HalfId) (p : Fin 2) (e : FrameEnd) (w0 : Word) (w1 : Word) (w2 : Word) (pay : List Word) (tap : BitVec 6) (res : List (BitVec 24)) (f : EFrame) (west : Bool) (ring : Bool) (b : Block), (f = ⟨w0, w1, w2, pay⟩) ∧ (s.blk.rung h < 2) ∧ (s.blk.portUp (h, p.val) = true) ∧ (s.blk.portInUse h p = true) ∧ (e.good f.words = true) ∧ (f.nw = pay.length) ∧ (f.nw ≤ 16) ∧ (f.type ≠ ftPDREQ) ∧ (f.type ≠ ftPDRESP) ∧ (f.src = s.blk.f h F.EUL_NODE_NODE) ∧ (s.blk.f h F.EUL_NODE_TOPO = 2 ∨ s.blk.bridgeUp h = true ∨ s.blk.sawIt h f = true) ∧ (west = (s.blk.f h F.EUL_PCFG_ROLE p == 1)) ∧ (ring = (s.blk.f h F.EUL_NODE_TOPO != 2)) ∧ (b = (if ring && (west || f.wrapped) && s.blk.sawIt h f then s.blk else s.blk.setF h F.EUL_ERR_DUPID 1))) ∧
    (∃ (s : State) (h : HalfId), (s.blk.powered .EUL_CLR h = true)) ∧
    (∃ (s : State) (h : HalfId), (s.blk.powered .EUL_FTLO h = true)) :=
  ⟨⟨upW (fun b => (b.setF .a F.EUL_PCFG_LANE_AUTO 0 1).modPort .a 1 fun x => { x with viol := [0,0,0,0,0,0,0,0,0,0,0,0,0,0,0,0] }), .a, 1, _, by decide, by decide, rfl, by decide, by decide, by decide⟩,
   ⟨upW (fun b => (b.setF .a F.EUL_PCFG_LANE_AUTO 1 1).modPort .a 1 fun x => { x with viol := [0,0,0,0,0,0,0,0,0,0,0,0,0,0,0,0] }), .a, 1, _, _, _, by decide, by decide, rfl, by decide, by decide, rfl, rfl⟩,
   ⟨upW (fun b => b.modPort .a 1 fun x => { x with viol := [0,0,0,0,0,0,0,0,0,0,0,0,0,0,0,0], laneBad := [true, true] }), .a, 1, _, _, _, by decide, by decide, rfl, by decide, rfl, rfl⟩,
   ⟨upW (fun b => b.setF .a F.EUL_PSTAT_STATE 3 1), .a, 1, by decide⟩,
   ⟨upW (fun b => ((b.setF .a F.EUL_PSTAT_STATE 3 1).setF .a F.EUL_PSTAT_WRAP 1 1).modPort .a 1 fun x => { x with wrap := true }), .a, 1, by decide, by decide, by decide⟩,
   ⟨upW (fun b => ([HalfId.a, .b].foldl (fun b h => ((b.setF h F.EUL_NODE_EN 1).setF h F.EUL_NODE_TOPO 1).setF h F.EUL_PCFG_ROLE 1 1) ((b.setF .a F.EUL_PSTAT_STATE 3 1).setF .a F.EUL_PSTAT_WRAP 1 1)).setF .a F.HLM_STAT_BRIDGE 0), .a, 1, by decide, by decide, by decide, by decide⟩,
   ⟨upW (fun b => (b.setF .a F.EUL_NODE_EN 1).setF .a F.PWR_STAT_STA 2), .a, 1, ⟨true, 0⟩, 0, 0, 0, [], 0, [], _, rfl, by decide⟩,
   ⟨upW (fun b => ((b.setF .a F.EUL_PSTAT_STATE 3 1).setF .a F.EUL_NODE_EN 1).setF .a F.EUL_PCFG_ROLE 1 1), .a, 1, ⟨false, 0⟩, 0, 0, 0, [], 0, [], _, rfl, by decide, by decide, by decide, by decide⟩,
   ⟨upW (fun b => ((b.setF .a F.EUL_PSTAT_STATE 3 1).setF .a F.EUL_NODE_EN 1).setF .a F.EUL_PCFG_ROLE 1 1), .a, 1, frameEnd [0x200001, 0, 0], 0x200001, 0, 0, [], 0, [], _, rfl, by decide, by decide, by decide, by decide, by decide, by decide, by decide⟩,
   ⟨upW (fun b => ((b.setF .a F.EUL_PSTAT_STATE 3 1).setF .a F.EUL_NODE_EN 1).setF .a F.EUL_PCFG_ROLE 1 1), .a, 1, frameEnd [0x100001, 0x8000, 0], 0x100001, 0x8000, 0, [], 0, [], _, _, rfl, by decide, by decide, by decide, by decide, by decide, by decide, by decide, by decide, by decide, rfl⟩,
   ⟨upW (fun b => (((b.setF .a F.EUL_PSTAT_STATE 3 1).setF .a F.EUL_NODE_EN 1).setF .a F.EUL_PCFG_ROLE 1 1).setF .a F.HLM_STAT_BRIDGE 1), .a, 1, frameEnd [0x100000, 0x8000, 0], 0x100000, 0x8000, 0, [], 0, [], _, _, _, _, rfl, by decide, by decide, by decide, by decide, by decide, by decide, by decide, by decide, by decide, by decide, rfl, rfl, rfl⟩,
   ⟨up, .a, by decide⟩,
   ⟨up, .a, by decide⟩⟩

theorem witness_FabricTimeRowsComplete :
    (∃ (s : State) (h : HalfId) (p : Nat) (q : Nat) (f : EFrame) (rest : List (Nat × Nat × EFrame)), (takeFrame ftSYNC (s.blk.fab h).pend = some ((p, q, f), rest)) ∧ ((s.blk.on h F.EUL_TSTAT_TMASTER && s.blk.speaks h) = true)) ∧
    (∃ (s : State) (h : HalfId) (p : Nat) (q : Nat) (f : EFrame) (rest : List (Nat × Nat × EFrame)) (x : Fabric) (t : Int) (err : Int) (good : Nat) (rate : Frac) (b : Block) (c : Block) (d : Block), (takeFrame ftSYNC (s.blk.fab h).pend = some ((p, q, f), rest)) ∧ ((s.blk.on h F.EUL_TSTAT_TMASTER && s.blk.speaks h) = false) ∧ (x = s.blk.fab h) ∧ (t = syncTime f.pay) ∧ (err = (if x.synced then stepsTo (s.blk.fabTime h q) t else 0)) ∧ (good = (if x.synced && decide (err.natAbs ≤ 51) then capNat 64 (x.good + 1) else 0)) ∧ (rate = (if x.synced && decide (0 < stepsTo x.base t) && decide (0 < stepsTo x.at0 q) then frac (stepsTo x.base t) (stepsTo x.at0 q).toNat else ⟨1, 1⟩)) ∧ (b = (((s.blk.modFab h fun x => { x with pend := rest }).modFab h fun x =>
        { x with base := t, at0 := q, rate := rate, synced := true, good := good }).setF h F.EUL_OFFERR_ERR (field 16 (clampInt 32767 err))).setF h
          F.EUL_TSTAT_HOLDOVER 0) ∧ (c = (if good = 64 then b.setF h F.EUL_TSTAT_LOCK 1 else b)) ∧ (d = (if x.synced && s.blk.f h F.EUL_TSTAT_TM_ID != f.src then c.setF h F.EUL_ERR_TMCHG 1 else c))) ∧
    (∃ (s : State) (h : HalfId) (p : Nat) (q : Nat) (f : EFrame) (rest : List (Nat × Nat × EFrame)) (gap : BitVec 23), (takeFrame ftPDREQ (s.blk.fab h).pend = some ((p, q, f), rest))) ∧
    (∃ (s : State) (h : HalfId) (p : Nat) (q : Nat) (f : EFrame) (rest : List (Nat × Nat × EFrame)) (sent : Int) (d : Int) (ds : List Int), (takeFrame ftPDRESP (s.blk.fab h).pend = some ((p, q, f), rest)) ∧ ((s.blk.eport h p).pdAt = some sent) ∧ (d = (stepsTo sent q + sext 24 (nth 0 f.pay 0).toNat) / 2 + sext 16 (s.blk.f h F.EUL_PCFG_ASYM p)) ∧ (ds = (d :: (s.blk.eport h p).delays).take 16)) ∧
    (∃ (s : State) (h : HalfId) (p : Nat) (q : Nat) (f : EFrame) (rest : List (Nat × Nat × EFrame)) (v : Nat) (rank : Nat), (takeFrame ftANNOUNCE (s.blk.fab h).pend = some ((p, q, f), rest)) ∧ (v = (nth 0 f.pay 0).toNat) ∧ (bits v 19 19 = 0) ∧ (rank = rankOf false (bits v 23 20) (bits v 18 16)) ∧ (s.blk.candidate h false = false ∨ better rank f.src (s.blk.ownRank h false) (s.blk.f h F.EUL_NODE_NODE) = true)) ∧
    (∃ (s : State) (h : HalfId) (p : Nat) (q : Nat) (f : EFrame) (rest : List (Nat × Nat × EFrame)) (v : Nat) (rank : Nat), (takeFrame ftANNOUNCE (s.blk.fab h).pend = some ((p, q, f), rest)) ∧ (v = (nth 0 f.pay 0).toNat) ∧ (bits v 19 19 = 1) ∧ (rank = rankOf true (bits v 23 20) (bits v 18 16)) ∧ (f.group = s.blk.f h F.EUL_NODE_GROUP) ∧ (s.blk.candidate h true = false ∨ better rank f.src (s.blk.ownRank h true) (s.blk.f h F.EUL_NODE_NODE) = true)) ∧
    (∃ (s : State) (h : HalfId) (p : Nat) (q : Nat) (f : EFrame) (rest : List (Nat × Nat × EFrame)) (v : Nat) (rank : Nat) (k : Bool), (takeFrame ftANNOUNCE (s.blk.fab h).pend = some ((p, q, f), rest)) ∧ (v = (nth 0 f.pay 0).toNat) ∧ (k = (bits v 19 19 == 1)) ∧ (rank = rankOf k (bits v 23 20) (bits v 18 16)) ∧ (f.group = s.blk.f h F.EUL_NODE_GROUP ∨ k = false) ∧ (s.blk.candidate h k = true) ∧ (better rank f.src (s.blk.ownRank h k) (s.blk.f h F.EUL_NODE_NODE) = false)) ∧
    (∃ (s : State) (h : HalfId) (p : Nat) (q : Nat) (f : EFrame) (rest : List (Nat × Nat × EFrame)) (v : Nat), (takeFrame ftANNOUNCE (s.blk.fab h).pend = some ((p, q, f), rest)) ∧ (v = (nth 0 f.pay 0).toNat) ∧ (bits v 19 19 = 1) ∧ (f.group ≠ s.blk.f h F.EUL_NODE_GROUP)) ∧
    (∃ (s : State) (h : HalfId) (p : Nat) (q : Nat) (f : EFrame) (rest : List (Nat × Nat × EFrame)) (b : Block), (takeFrame ftANGLE (s.blk.fab h).pend = some ((p, q, f), rest)) ∧ (b = (if s.blk.on h F.EUL_PHCFG_EN && f.group == s.blk.f h F.EUL_PHCFG_REFGRP then
        (s.blk.modFab h fun x => { x with pend := rest }).modFab h fun x => { x with ref := some (f.pay, (s.blk.half h).tsc) }
        else s.blk.modFab h fun x => { x with pend := rest })) ∧ (f.group ≠ s.blk.f h F.EUL_NODE_GROUP)) ∧
    (∃ (s : State) (h : HalfId) (p : Nat) (q : Nat) (f : EFrame) (rest : List (Nat × Nat × EFrame)) (b : Block) (c : Block), (takeFrame ftANGLE (s.blk.fab h).pend = some ((p, q, f), rest)) ∧ (b = (if s.blk.on h F.EUL_PHCFG_EN && f.group == s.blk.f h F.EUL_PHCFG_REFGRP then
        (s.blk.modFab h fun x => { x with pend := rest }).modFab h fun x => { x with ref := some (f.pay, (s.blk.half h).tsc) }
        else s.blk.modFab h fun x => { x with pend := rest })) ∧ (f.group = s.blk.f h F.EUL_NODE_GROUP) ∧ (c = ((if s.blk.f h F.EUL_ASTAT_AM_ID != f.src && s.blk.on h F.EUL_ASTAT_AVALID then b.setF h F.EUL_ERR_AMCHG 1 else b).setF h
        F.EUL_ASTAT_AVALID 1).setF h F.EUL_ASTAT_AM_ID f.src) ∧ (s.blk.on h F.ANG_CTRL_SRC = false)) ∧
    (∃ (s : State) (h : HalfId) (p : Nat) (q : Nat) (f : EFrame) (rest : List (Nat × Nat × EFrame)) (b : Block) (c : Block), (takeFrame ftANGLE (s.blk.fab h).pend = some ((p, q, f), rest)) ∧ (b = (if s.blk.on h F.EUL_PHCFG_EN && f.group == s.blk.f h F.EUL_PHCFG_REFGRP then
        (s.blk.modFab h fun x => { x with pend := rest }).modFab h fun x => { x with ref := some (f.pay, (s.blk.half h).tsc) }
        else s.blk.modFab h fun x => { x with pend := rest })) ∧ (f.group = s.blk.f h F.EUL_NODE_GROUP) ∧ (c = ((if s.blk.f h F.EUL_ASTAT_AM_ID != f.src && s.blk.on h F.EUL_ASTAT_AVALID then b.setF h F.EUL_ERR_AMCHG 1 else b).setF h
        F.EUL_ASTAT_AVALID 1).setF h F.EUL_ASTAT_AM_ID f.src) ∧ (s.blk.on h F.ANG_CTRL_SRC = true) ∧ (bits (nth 0 f.pay 0).toNat 18 18 ≠ s.blk.f h F.ANG_CTRL_CYCLE)) ∧
    (∃ (s : State) (h : HalfId) (p : Nat) (q : Nat) (f : EFrame) (rest : List (Nat × Nat × EFrame)) (b : Block) (c : Block), (takeFrame ftANGLE (s.blk.fab h).pend = some ((p, q, f), rest)) ∧ (b = (if s.blk.on h F.EUL_PHCFG_EN && f.group == s.blk.f h F.EUL_PHCFG_REFGRP then
        (s.blk.modFab h fun x => { x with pend := rest }).modFab h fun x => { x with ref := some (f.pay, (s.blk.half h).tsc) }
        else s.blk.modFab h fun x => { x with pend := rest })) ∧ (f.group = s.blk.f h F.EUL_NODE_GROUP) ∧ (c = ((if s.blk.f h F.EUL_ASTAT_AM_ID != f.src && s.blk.on h F.EUL_ASTAT_AVALID then b.setF h F.EUL_ERR_AMCHG 1 else b).setF h
        F.EUL_ASTAT_AVALID 1).setF h F.EUL_ASTAT_AM_ID f.src) ∧ (s.blk.on h F.ANG_CTRL_SRC = true) ∧ (bits (nth 0 f.pay 0).toNat 18 18 = s.blk.f h F.ANG_CTRL_CYCLE)) ∧
    (∃ (s : State) (h : HalfId) (tap : BitVec 6) (r : Block × EFrame), (s.blk.fabRuns h = true) ∧ (s.blk.on h F.EUL_TSTAT_TMASTER = true) ∧ (s.blk.speaks h = true) ∧ (r = s.blk.fabSend h ftSYNC 0 none (fabWords (s.blk.fabTime h (s.blk.stepsAt h tap.toNat)) ++ [0, 0]))) ∧
    (∃ (s : State) (h : HalfId) (p : Fin 2) (tap : BitVec 6), (s.blk.portUp (h, p.val) = true)) ∧
    (∃ (s : State) (h : HalfId), (s.blk.candidate h false = true) ∧ (s.blk.speaks h = true)) ∧
    (∃ (s : State) (h : HalfId), (s.blk.candidate h true = true) ∧ (s.blk.speaks h = true)) ∧
    (∃ (s : State) (h : HalfId), (s.blk.candidate h true = true) ∧ (s.blk.speaks h = true) ∧ (s.blk.unopposed h true = true) ∧ (s.blk.on h F.EUL_ASTAT_AMASTER = false)) ∧
    (∃ (s : State) (h : HalfId), (s.blk.candidate h false = true) ∧ (s.blk.speaks h = true) ∧ (s.blk.unopposed h false = true) ∧ (s.blk.on h F.EUL_TSTAT_TMASTER = false)) ∧
    (∃ (s : State) (h : HalfId), (s.blk.fabRuns h = true) ∧ ((s.blk.on h F.EUL_TSTAT_TMASTER && s.blk.speaks h) = false) ∧ (s.blk.on h F.EUL_TSTAT_HOLDOVER = false) ∧ ((s.blk.fab h).synced = false ∨ (12800000 : Int) ≤ stepsTo (s.blk.fab h).at0 (s.blk.stepsAt h 0))) :=
  ⟨⟨upW (fun b => ((b.setF .a F.EUL_TSTAT_TMASTER 1).modHl .a fun y => { y with holder := some 0 }).modFab .a fun x => { x with pend := [(0, 9, ⟨0x100002, 0, 5, [0,0,0,0,0]⟩)] }), .a, 0, 9, ⟨0x100002, 0, 5, [0,0,0,0,0]⟩, [], by decide, by decide⟩,
   ⟨upW (fun b => (b).modFab .a fun x => { x with pend := [(0, 9, ⟨0x100002, 0, 5, [0,0,0,0,0]⟩)] }), .a, 0, 9, ⟨0x100002, 0, 5, [0,0,0,0,0]⟩, [], _, _, _, _, _, _, _, _, by decide, by decide, rfl, rfl, rfl, rfl, rfl, rfl, rfl, rfl⟩,
   ⟨upW (fun b => (b).modFab .a fun x => { x with pend := [(0, 9, ⟨0x200002, 0, 0, []⟩)] }), .a, 0, 9, ⟨0x200002, 0, 0, []⟩, [], 3, by decide⟩,
   ⟨upW (fun b => (b.modFab .a fun x => { x with pend := [(0, 9, ⟨0x300002, 0, 2, [0, 0]⟩)] }).modPort .a 0 fun x => { x with pdAt := some 1 }), .a, 0, 9, ⟨0x300002, 0, 2, [0, 0]⟩, [], 1, _, _, by decide, by decide, rfl, rfl⟩,
   ⟨upW (fun b => (b).modFab .a fun x => { x with pend := [(0, 9, ⟨0x400002, 0, 1, [0x300000]⟩)] }), .a, 0, 9, ⟨0x400002, 0, 1, [0x300000]⟩, [], _, _, by decide, rfl, by decide, rfl, by decide⟩,
   ⟨upW (fun b => (b).modFab .a fun x => { x with pend := [(0, 9, ⟨0x400002, 0, 1, [0x380000]⟩)] }), .a, 0, 9, ⟨0x400002, 0, 1, [0x380000]⟩, [], _, _, by decide, rfl, by decide, rfl, by decide, by decide⟩,
   ⟨upW (fun b => ((b.setF .a F.EUL_NODE_EN 1).setF .a F.EUL_PRI_TPRI 3).modFab .a fun x => { x with pend := [(0, 9, ⟨0x410002, 0, 1, [0]⟩)] }), .a, 0, 9, ⟨0x410002, 0, 1, [0]⟩, [], _, _, _, by decide, rfl, rfl, rfl, by decide, by decide, by decide⟩,
   ⟨upW (fun b => (b).modFab .a fun x => { x with pend := [(0, 9, ⟨0x410002, 0, 1, [0x380000]⟩)] }), .a, 0, 9, ⟨0x410002, 0, 1, [0x380000]⟩, [], _, by decide, rfl, by decide, by decide⟩,
   ⟨upW (fun b => (b).modFab .a fun x => { x with pend := [(0, 9, ⟨0x510002, 0, 1, [0]⟩)] }), .a, 0, 9, ⟨0x510002, 0, 1, [0]⟩, [], _, by decide, rfl, by decide⟩,
   ⟨upW (fun b => (b).modFab .a fun x => { x with pend := [(0, 9, ⟨0x500002, 0, 1, [0]⟩)] }), .a, 0, 9, ⟨0x500002, 0, 1, [0]⟩, [], _, _, by decide, rfl, by decide, rfl, by decide⟩,
   ⟨upW (fun b => (b.setF .a F.ANG_CTRL_SRC 1).modFab .a fun x => { x with pend := [(0, 9, ⟨0x500002, 0, 1, [0x040000]⟩)] }), .a, 0, 9, ⟨0x500002, 0, 1, [0x040000]⟩, [], _, _, by decide, rfl, by decide, rfl, by decide, by decide⟩,
   ⟨upW (fun b => (b.setF .a F.ANG_CTRL_SRC 1).modFab .a fun x => { x with pend := [(0, 9, ⟨0x500002, 0, 1, [0]⟩)] }), .a, 0, 9, ⟨0x500002, 0, 1, [0]⟩, [], _, _, by decide, rfl, by decide, rfl, by decide, by decide⟩,
   ⟨upW (fun b => (((b.setF .a F.EUL_NODE_EN 1).setF .a F.EUL_TSTAT_TMASTER 1).setF .a F.HLM_STAT_BRIDGE 0).modHl .a fun y => { y with holder := some 0 }), .a, 3, _, by decide, by decide, by decide, rfl⟩,
   ⟨upW (fun b => b.setF .a F.EUL_PSTAT_STATE 3 1), .a, 1, 3, by decide⟩,
   ⟨upW (fun b => ((b.setF .a F.EUL_NODE_EN 1).setF .a F.EUL_PRI_TPRI 3).modHl .a fun y => { y with holder := some 0 }), .a, by decide, by decide⟩,
   ⟨upW (fun b => ((((b.setF .a F.EUL_NODE_EN 1).setF .a F.EUL_PRI_APRI 3).setF .a F.EUL_PRI_ABCAST 1).setF .a F.ANG_STAT_VALID 1).modHl .a fun y => { y with holder := some 0 }), .a, by decide, by decide⟩,
   ⟨upW (fun b => (((((b.setF .a F.EUL_NODE_EN 1).setF .a F.EUL_PRI_APRI 3).setF .a F.EUL_PRI_ABCAST 1).setF .a F.ANG_STAT_VALID 1).setF .a F.HLM_STAT_BRIDGE 0).modHl .a fun y => { y with holder := some 0 }), .a, by decide, by decide, by decide, by decide⟩,
   ⟨upW (fun b => (((b.setF .a F.EUL_NODE_EN 1).setF .a F.EUL_PRI_TPRI 3).setF .a F.HLM_STAT_BRIDGE 0).modHl .a fun y => { y with holder := some 0 }), .a, by decide, by decide, by decide, by decide⟩,
   ⟨upW (fun b => ((b.setF .a F.EUL_NODE_EN 1).modFab .a fun x => { x with synced := true }).modHalf .a fun x => { x with tsc := 300000 }), .a, by decide, by decide, by decide, by decide⟩⟩

theorem witness_CycleRowsComplete :
    (∃ (s : State) (h : HalfId), (s.blk.fullSync h = false ∨ s.blk.passed h 0 false = false)) ∧
    (∃ (s : State) (h : HalfId) (b1 : Block) (b2 : Block) (b3 : Block) (b4 : Block) (b5 : Block), (s.blk.fullSync h = true) ∧ (s.blk.passed h 0 false = true) ∧ ((s.blk.half h).clk.cycAt ≠ some (s.blk.half h).tsc) ∧ (b1 = (if s.blk.drives h (s.blk.src h) then
        (s.blk.count h F.WTK_STAT_FULL_CYCLES (s.blk.src h)).modTrk h (s.blk.src h) fun y => { y with xMismatch := false } else s.blk)) ∧ (b2 = b1.modClk h (fun c => { c with
          cycLen := (c.cycAt.map fun a => ticksTo a (s.blk.half h).tsc).getD 0, cycAt := some (s.blk.half h).tsc,
          cycPrevClean := c.cycClean, cycClean := true })) ∧ (b3 = b2.modSched h (fun x => { x with
          prevSrc := x.curSrc, curSrc := x.nextSrc, revRest := false, svcLate := false,
          suspCount := if x.suspended || x.revSusp then capNat 8388607 (x.suspCount + 1) else x.suspCount })) ∧ (b4 = b3.cyclePhase h) ∧ (b5 = (match (b4.half h).sched.staged with
        | some m => if (b4.half h).sched.shadowDone then b4.modeEffect h m else b4.modSched h fun x => { x with shadowLate := true }
        | none => b4))) ∧
    (∃ (s : State) (h : HalfId), (s.blk.fullSync h = false ∨ activePhase (s.blk.phase h) = false ∨ s.blk.passedAt h (s.blk.latchAngle h) = none)) ∧
    (∃ (s : State) (h : HalfId) (dl : Nat) (b1 : Block) (mine : Bool) (late : Bool) (b2 : Block) (b3 : Block), (s.blk.fullSync h = true) ∧ (activePhase (s.blk.phase h) = true) ∧ (s.blk.passedAt h (s.blk.latchAngle h) = some dl) ∧ (b1 = (s.blk.resumeStatic h).exchange h) ∧ (mine = b1.decidesService h) ∧ (late = ((s.blk.half h).sched.svcLate && b1.mayServe h && (b1.phase h == phCRANK || b1.phase h == phRECOVERY))) ∧ (b2 = (if mine && s.blk.bridgeUp h then b1.send h (.service (s.blk.half h.peer).tsc) else b1).modSched h (fun x => { x with svcLate := false })) ∧ (b3 = (if s.blk.on h F.ADM_STAT_MODEPEND then b2.modSched h fun x =>
        { x with staged := some (s.blk.f h F.ADM_STAT_NEXTMODE), shadowDone := false, shadowLate := false } else b2))) ∧
    (∃ (s : State) (h : HalfId) (sent : Nat) (rest : List BMsg) (b : Block) (t : Nat), (takeService (s.blk.lane h.peer).rx = some (sent, rest)) ∧ (b = s.blk.setLane h.peer { s.blk.lane h.peer with rx := rest }) ∧ ((s.blk.half h).clk.cycAt = some t) ∧ (reached sent t = true)) ∧
    (∃ (s : State) (h : HalfId) (sent : Nat) (rest : List BMsg) (b : Block), (takeService (s.blk.lane h.peer).rx = some (sent, rest)) ∧ (b = s.blk.setLane h.peer { s.blk.lane h.peer with rx := rest }) ∧ (b.fullSync h = false)) ∧
    (∃ (s : State) (h : HalfId) (sent : Nat) (rest : List BMsg) (b : Block), (takeService (s.blk.lane h.peer).rx = some (sent, rest)) ∧ (b = s.blk.setLane h.peer { s.blk.lane h.peer with rx := rest }) ∧ ((s.blk.half h).clk.cycAt = none) ∧ (b.fullSync h = true) ∧ (b.mayServe h = true) ∧ (b.phase h = phCRANK ∨ b.phase h = phRECOVERY) ∧ (b.latchAngle h ≤ b.ang h) ∧ (b.ang h < b.cycleL h)) ∧
    (∃ (s : State) (h : HalfId) (sent : Nat) (rest : List BMsg) (b : Block) (t : Nat), (takeService (s.blk.lane h.peer).rx = some (sent, rest)) ∧ (b = s.blk.setLane h.peer { s.blk.lane h.peer with rx := rest }) ∧ ((s.blk.half h).clk.cycAt = some t) ∧ (reached sent t = false) ∧ (b.fullSync h = true) ∧ (b.mayServe h = true) ∧ (b.phase h = phCRANK ∨ b.phase h = phRECOVERY) ∧ (b.latchAngle h ≤ b.ang h) ∧ (b.ang h < b.cycleL h)) ∧
    (∃ (s : State) (h : HalfId) (sent : Nat) (rest : List BMsg) (b : Block), (takeService (s.blk.lane h.peer).rx = some (sent, rest)) ∧ (b = s.blk.setLane h.peer { s.blk.lane h.peer with rx := rest }) ∧ ((s.blk.half h).clk.cycAt = none) ∧ (b.fullSync h = true) ∧ (b.ang h < b.latchAngle h)) ∧
    (∃ (s : State) (h : HalfId) (m : Nat), ((s.blk.half h).sched.staged = some m) ∧ ((s.blk.half h).sched.shadowLate = false)) ∧
    (∃ (s : State) (h : HalfId) (m : Nat), ((s.blk.half h).sched.staged = some m) ∧ ((s.blk.half h).sched.shadowLate = true)) ∧
    (∃ (s : State) (h : HalfId) (c : Fin 24) (hit : List Image) (b : Block) (t : Nat), (s.blk.fullSync h = true) ∧ (t = (s.blk.half h).tsc) ∧ (hit = (s.blk.half h).sched.store.filter (fun i => i.setId == (s.blk.half h).sched.active &&
        (imgCyls i.words).any fun e => e.cyl == c.val && s.blk.passed h e.latch false)) ∧ (hit ≠ []) ∧ (b = (if hit.any (fun i => i.mode == s.blk.mode h) && nth 0 (s.blk.half h).hip.roles 2 != 2 then s.blk.writePairs h fun r => r.frame == c.val else s.blk))) ∧
    (∃ (s : State) (h : HalfId) (d : (Nat × Nat) × Nat) (r : ERec) (tr : Int × Int) (w0 : Word) (w2 : Word) (b : Block), (s.blk.on h F.EVI_RES_BUSY 0 = false) ∧ (nth 0 (s.blk.half h).hip.roles 1 ≠ 2) ∧ ((s.blk.half h).sched.due.find? (fun d => !s.blk.heldDue h d) = some d) ∧ ((s.blk.half h).sched.dueRec d = some r) ∧ (tr = (if r.trim then (s.blk.half h).sched.trimOf d r else (0, 0))) ∧ (w0 = wd ((((r.w0.toNat : Int) + tr.1) % (s.blk.cycleL h : Int)).toNat)) ∧ (w2 = wd ((r.w2.toNat : Int) + tr.2).toNat) ∧ (b = (((s.blk.modSched h fun x => { x with due := x.due.erase d }).setW h .EVI_W w0 0 0).setW h .EVI_W r.w1 0 1).setW h .EVI_W w2 0 2)) ∧
    (∃ (s : State) (h : HalfId) (c : LongCmd), ((s.blk.half h).hip.long = some c) ∧ (c.code = 0x22) ∧ (c.posted = false) ∧ (s.blk.holdsHelm h = true) ∧ ((s.blk.activationCheck c.arg).1.code = cOK)) ∧
    (∃ (s : State) (h : HalfId) (set : Nat) (rest : List BMsg), (takeDeactivate (s.blk.lane h.peer).rx = some (set, rest)) ∧ (s.blk.deactivates h set = true)) ∧
    (∃ (s : State) (h : HalfId) (set : Nat) (rest : List BMsg), (takeDeactivate (s.blk.lane h.peer).rx = some (set, rest)) ∧ (s.blk.deactivates h set = false)) ∧
    (∃ (s : State) (h : HalfId), ((s.blk.half h).sched.lossDue = true) ∧ ((s.blk.half h).sched.active = 0 ∨ (s.blk.recheckOf h).1 = cOK)) ∧
    (∃ (s : State) (h : HalfId) (b : Block) (c : Block), ((s.blk.half h).sched.lossDue = true) ∧ ((s.blk.half h).sched.active ≠ 0) ∧ ((s.blk.recheckOf h).1 ≠ cOK) ∧ (b = (((s.blk.modSched h fun x => { x with lossDue := false }).setF h F.ADM_ERR_RECHECK 1).setF h F.ADM_STAT_CERT_OK 0).modSched h (fun x => { x with recheck := true })) ∧ (c = (b.withdrawService h).report h (s.blk.recheckOf h).1 1 24 127 (7 * 256 + (s.blk.recheckOf h).2 % 256))) ∧
    (∃ (s : State) (h : HalfId) (t : Nat), ((s.blk.half h).clk.invalidSince = some t) ∧ (s.blk.phase h = phRECOVERY) ∧ (s.blk.clockValid h = false) ∧ (s.blk.f h F.ADM_STOP_STOP_TIME * 200 ≤ ticksTo t (s.blk.half h).tsc)) :=
  ⟨⟨up, .a, by decide⟩,
   ⟨upW (fun b => (((b.setF .a F.ANG_STAT_VALID 1).setF .a F.ANG_STAT_FULLRANGE 1).setF .a F.ANG_CTRL_SRC 1).modClk .a fun c => { c with moved := some ⟨11796479, 3, 11796480, false, false, false⟩ }), .a, _, _, _, _, _, by decide, by decide, by decide, rfl, rfl, rfl, rfl, rfl⟩,
   ⟨up, .a, by decide⟩,
   ⟨upW (fun b => (((b.setF .a F.ANG_STAT_VALID 1).setF .a F.ANG_STAT_FULLRANGE 1).setF .a F.ADM_STAT_PHASE 2).modClk .a fun c => { c with moved := some ⟨11796479, 11796479, 11796480, false, false, false⟩ }), .a, (fwd 11796480 11796479 ((upW id).blk.latchAngle .a % 11796480)), _, _, _, _, _, by decide, by decide, by decide, rfl, rfl, rfl, rfl, rfl⟩,
   ⟨upW (fun b => { b.modClk .a (fun c => { c with cycAt := some 9 }) with ba := ⟨[], [], [.service 3]⟩ }), .a, 3, [], _, 9, by decide, rfl, by decide, by decide⟩,
   ⟨upW (fun b => { b with ba := ⟨[], [], [.service 3]⟩ }), .a, 3, [], _, by decide, rfl, by decide⟩,
   ⟨upServe, .a, 3, [], _, by decide, rfl, by decide, by decide, by decide, by decide, by decide, by decide⟩,
   ⟨{ upServe with blk := (upServe.blk.modClk .a fun c => { c with cycAt := some 2 }) }, .a, 3, [], _, 2, by decide, rfl, by decide, by decide, by decide, by decide, by decide, by decide, by decide⟩,
   ⟨upW (fun b => { ((b.setF .a F.ANG_STAT_VALID 1).setF .a F.ANG_STAT_FULLRANGE 1).setF .a F.ADM_MODEH_HORIZON 100 with ba := ⟨[], [], [.service 3]⟩ }), .a, 3, [], _, by decide, rfl, by decide, by decide, by decide⟩,
   ⟨upW (fun b => b.modSched .a fun x => { x with staged := some 2 }), .a, 2, by decide, by decide⟩,
   ⟨upW (fun b => b.modSched .a fun x => { x with staged := some 2, shadowLate := true }), .a, 2, by decide, by decide⟩,
   ⟨upW (fun b => ((b.setF .a F.ANG_STAT_VALID 1).setF .a F.ANG_STAT_FULLRANGE 1).modHalf .a fun x => { x with clk := { x.clk with moved := some ⟨5, 11796479, 11796480, false, false, false⟩ }, sched := { x.sched with active := 7, store := [tImg] } }), .a, 0, [tImg], _, _, by decide, rfl, by decide, by decide, rfl⟩,
   ⟨upW (fun b => b.modSched .a fun x => { x with active := 7, store := [tImg], due := [((7, 0), 0)] }), .a, ((7, 0), 0), imgRec tImg.words 0, _, _, _, _, by decide, by decide, by decide, by decide, rfl, rfl, rfl, rfl⟩,
   ⟨upAct, .a, actLong, by decide, by decide, by decide, by decide, by decide⟩,
   ⟨upW (fun b => { b.modSched .a (fun x => { x with active := 7 }) with ba := ⟨[], [], [.deactivate 7]⟩ }), .a, 7, [], by decide, by decide⟩,
   ⟨upW (fun b => { b.modSched .a (fun x => { x with active := 7 }) with ba := ⟨[], [], [.deactivate 6]⟩ }), .a, 6, [], by decide, by decide⟩,
   ⟨upW (fun b => b.modSched .a fun x => { x with lossDue := true }), .a, by decide, by decide⟩,
   ⟨upW (fun b => b.modHalf .a fun x => { x with sched := { x.sched with lossDue := true, active := 7, store := [{ eImg 0 with words := (eImg 0).words.set 34 19999 }] }, hip := { x.hip with base := [0] } }), .a, _, _, by decide, by decide, by decide, rfl, rfl⟩,
   ⟨upW (fun b => ((b.setF .a F.ADM_STAT_PHASE 4).setF .a F.ADM_STOP_STOP_TIME 1).modHalf .a fun x => { x with tsc := 500 }), .a, 0, by decide, by decide, by decide, by decide⟩⟩

theorem witness_InsertionRowsComplete :
    (∃ (s : State) (h : HalfId) (p : Fin 2) (chan : Fin 64) (tag : BitVec 10), (s.blk.on h F.EVI_RES_BUSY p = false) ∧ (p = 0 ∨ activePhase (s.blk.phase h) = false) ∧ (s.blk.powered .EVI_GO h = true)) ∧
    (∃ (s : State) (h : HalfId) (p : Fin 2) (chan : Fin 64) (tag : BitVec 10), (s.blk.on h F.EVI_RES_BUSY p = true ∨ (p = 1 ∧ activePhase (s.blk.phase h) = true)) ∧ (s.blk.powered .EVI_GO h = true)) ∧
    (∃ (s : State) (h : HalfId) (p : Fin 2) (parity : Bool) (i : Insertion) (b : Block) (c : Nat), ((s.blk.half h).ports.find? (fun i => i.port == p.val) = some i) ∧ (b = s.blk.modHalf h (fun x => { x with ports := x.ports.filter fun y => y.port != p.val })) ∧ (b.channelChecks h i.port (b.mkEntry h i) = c) ∧ (c ≠ cOK) ∧ (i.static = none)) ∧
    (∃ (s : State) (h : HalfId) (p : Fin 2) (parity : Bool) (i : Insertion) (b : Block) (c : Nat) (m : Nat) (k : Nat), ((s.blk.half h).ports.find? (fun i => i.port == p.val) = some i) ∧ (b = s.blk.modHalf h (fun x => { x with ports := x.ports.filter fun y => y.port != p.val })) ∧ (b.channelChecks h i.port (b.mkEntry h i) = c) ∧ (c ≠ cOK) ∧ (i.static = some (m, k))) ∧
    (∃ (s : State) (h : HalfId) (p : Fin 2) (i : Insertion) (b : Block) (e : Entry) (d : Block), ((s.blk.half h).ports.find? (fun i => i.port == p.val) = some i) ∧ (b = s.blk.modHalf h (fun x => { x with ports := x.ports.filter fun y => y.port != p.val })) ∧ (b.channelChecks h i.port (b.mkEntry h i) = cOK) ∧ (e = (if b.withinLead h (b.mkEntry h i) && !b.clockRev h then b.armed h (b.mkEntry h i) else b.mkEntry h i)) ∧ (d = b.modHalf h (fun x => { x with cask := x.cask ++ [e], nextOrd := x.nextOrd + 1 }))) ∧
    (∃ (s : State) (h : HalfId) (p : Fin 2) (i : Insertion) (b : Block) (e : Entry) (d : Block), ((s.blk.half h).ports.find? (fun i => i.port == p.val) = some i) ∧ (i.static = none) ∧ (b = s.blk.modHalf h (fun x => { x with ports := x.ports.filter fun y => y.port != p.val })) ∧ (b.channelChecks h i.port (b.mkEntry h i) = cOK) ∧ (e = (if b.withinLead h (b.mkEntry h i) && !b.clockRev h then b.armed h (b.mkEntry h i) else b.mkEntry h i)) ∧ (d = b.slotFault h e.chan)) ∧
    (∃ (s : State) (h : HalfId) (chan : Fin 64) (tag : BitVec 10) (e : Entry), (s.blk.findEntry h chan tag.toNat = some e) ∧ (e.armed = false) ∧ (e.deferral = none) ∧ (s.blk.clockValid h = true) ∧ (s.blk.clockRev h = false) ∧ (s.blk.passed h (s.blk.armPoint h e) false = true)) ∧
    (∃ (s : State) (h : HalfId) (chan : Fin 64) (tag : BitVec 10) (e : Entry) (b : Block) (code : Nat), (s.blk.findEntry h chan tag.toNat = some e) ∧ (s.blk.due h e = true) ∧ ((s.blk.dueOrder h chan).takeWhile (fun y => y.tag != tag.toNat) = []) ∧ (e.chan = chan.val) ∧ (e.tag = tag.toNat) ∧ (s.blk.execCancel h e = none) ∧ (b = s.blk.returnsFirst h e.chan) ∧ (b.outputBusy h e = false) ∧ (code = (if e.late = true ∨ e.matchAt ≠ (s.blk.half h).tsc then cLATE else cOK))) ∧
    (∃ (s : State) (h : HalfId) (chan : Fin 64) (tag : BitVec 10) (e : Entry) (b : Block) (code : Nat), (s.blk.findEntry h chan tag.toNat = some e) ∧ (s.blk.due h e = true) ∧ ((s.blk.dueOrder h chan).takeWhile (fun y => y.tag != tag.toNat) = []) ∧ (e.chan = chan.val) ∧ (e.tag = tag.toNat) ∧ (s.blk.execCancel h e = none) ∧ (b = s.blk.returnsFirst h e.chan) ∧ (b.outputBusy h e = true) ∧ (code = (if e.late = true ∨ e.matchAt ≠ (s.blk.half h).tsc then cLATE else cOK))) ∧
    (∃ (s : State) (h : HalfId) (chan : Fin 64) (tag : BitVec 10) (e : Entry) (cause : Nat), (s.blk.findEntry h chan tag.toNat = some e) ∧ (s.blk.due h e = true) ∧ ((s.blk.dueOrder h chan).takeWhile (fun y => y.tag != tag.toNat) = []) ∧ (e.chan = chan.val) ∧ (e.tag = tag.toNat) ∧ (s.blk.execCancel h e = some cause)) ∧
    (∃ (s : State) (h : HalfId) (line : Fin 24) (p : Pulse), ((s.blk.half h).pulses.find? (fun p => p.line == line.val && reached p.due (s.blk.half h).tsc) = some p)) ∧
    (∃ (s : State) (h : HalfId) (chan : Fin 64) (tag : BitVec 10) (e : Entry) (since : Nat) (code : Word) (b : Block), (s.blk.findEntry h chan tag.toNat = some e) ∧ (e.deferral = some (since, code)) ∧ (s.blk.execCancel h e = none) ∧ (b = s.blk.returnsFirst h chan) ∧ (b.outputBusy h e = false) ∧ (code.toNat = cJUMPED)) ∧
    (∃ (s : State) (h : HalfId) (chan : Fin 64) (tag : BitVec 10) (e : Entry) (since : Nat) (code : Word) (b : Block), (s.blk.findEntry h chan tag.toNat = some e) ∧ (e.deferral = some (since, code)) ∧ (s.blk.execCancel h e = none) ∧ (b = s.blk.returnsFirst h chan) ∧ (b.outputBusy h e = false) ∧ (code.toNat ≠ cJUMPED)) ∧
    (∃ (s : State) (h : HalfId) (chan : Fin 64) (tag : BitVec 10) (e : Entry) (since : Nat) (code : Word) (cause : Nat), (s.blk.findEntry h chan tag.toNat = some e) ∧ (e.deferral = some (since, code)) ∧ (s.blk.execCancel h e = some cause)) :=
  ⟨⟨up, .a, 0, 3, 9, by decide, by decide, by decide⟩,
   ⟨upW (fun b => b.setF .a F.EVI_RES_BUSY 1 1), .a, 1, 3, 9, by decide, by decide⟩,
   ⟨upW (fun b => b.modHalf .a fun x => { x with ports := [⟨1, 3, 9, 0, 0, 0, none⟩] }), .a, 1, false, ⟨1, 3, 9, 0, 0, 0, none⟩, _, 0x0D, by decide, rfl, by decide, by decide, by decide⟩,
   ⟨upW (fun b => b.modHalf .a fun x => { x with ports := [⟨0, 3, 9, 0, 0, 0, some (0, 5)⟩] }), .a, 0, false, ⟨0, 3, 9, 0, 0, 0, some (0, 5)⟩, _, 0x0D, 0, 5, by decide, rfl, by decide, by decide, by decide⟩,
   ⟨upIns, .a, 0, insI, _, _, _, by decide, rfl, by decide, rfl, rfl⟩,
   ⟨upIns, .a, 0, insI, _, _, _, by decide, by decide, rfl, by decide, rfl, rfl⟩,
   ⟨upArm, .a, 3, 9, insE, by decide, by decide, by decide, by decide, by decide, by decide⟩,
   ⟨upW (fun b => (b.setF .a F.EVC_CFG_KIND 5 3).modHalf .a fun x => { x with cask := [{ insE with armed := true }] }), .a, 3, 9, { insE with armed := true }, _, _, by decide, by decide, by decide, by decide, by decide, by decide, rfl, by decide, rfl⟩,
   ⟨upW (fun b => (b.setF .a F.EVC_CFG_KIND 2 3).modHalf .a fun x => { x with pulses := [⟨0, 5, 0⟩], cask := [{ insE with w1 := 0x120000, armed := true }] }), .a, 3, 9, { insE with w1 := 0x120000, armed := true }, _, _, by decide, by decide, by decide, by decide, by decide, by decide, rfl, by decide, rfl⟩,
   ⟨upW (fun b => ((b.setF .a F.EVC_CFG_KIND 1 3).setF .a F.ANG_STAT_REV 1).modHalf .a fun x => { x with cask := [{ insE with armed := true, late := true }], tsc := 1000 }), .a, 3, 9, { insE with armed := true, late := true }, 0x21, by decide, by decide, by decide, by decide, by decide, by decide⟩,
   ⟨upW (fun b => b.modHalf .a fun x => { x with pulses := [⟨4, 0, 0⟩] }), .a, 4, ⟨4, 0, 0⟩, by decide⟩,
   ⟨upW (fun b => (b.setF .a F.EVC_CFG_KIND 5 3).modHalf .a fun x => { x with cask := [{ insE with deferral := some (0, 0x31) }] }), .a, 3, 9, { insE with deferral := some (0, 0x31) }, 0, 0x31, _, by decide, by decide, by decide, rfl, by decide, by decide⟩,
   ⟨upW (fun b => (b.setF .a F.EVC_CFG_KIND 5 3).modHalf .a fun x => { x with cask := [{ insE with deferral := some (0, 0) }] }), .a, 3, 9, { insE with deferral := some (0, 0) }, 0, 0, _, by decide, by decide, by decide, rfl, by decide, by decide⟩,
   ⟨upW (fun b => ((b.setF .a F.EVC_CFG_KIND 1 3).setF .a F.ANG_STAT_REV 1).modHalf .a fun x => { x with cask := [{ insE with deferral := some (0, 0) }] }), .a, 3, 9, { insE with deferral := some (0, 0) }, 0, 0, 0x21, by decide, by decide, by decide⟩⟩

theorem witness_ChannelRowsComplete :
    (∃ (s : State) (h : HalfId) (chan : Fin 64) (tag : BitVec 10) (hit : List Entry), (s.blk.cmdBusy h chan = false) ∧ ((s.blk.half h).cask.filter (fun e => e.chan == chan.val && e.tag == tag.toNat && s.blk.reachable h e) = hit) ∧ (s.blk.powered .EVC_CMD h = true)) ∧
    (∃ (s : State) (h : HalfId) (chan : Fin 64) (hit : List Entry), (s.blk.cmdBusy h chan = false) ∧ ((s.blk.half h).cask.filter (fun e => e.chan == chan.val && true && s.blk.reachable h e) = hit) ∧ (s.blk.powered .EVC_CMD h = true)) ∧
    (∃ (s : State) (h : HalfId) (chan : Fin 64), (s.blk.cmdBusy h chan = false) ∧ (s.blk.powered .EVC_CMD h = true)) ∧
    (∃ (s : State) (h : HalfId) (chan : Fin 64) (tag : BitVec 10), (s.blk.cmdBusy h chan = true) ∧ (s.blk.powered .EVC_CMD h = true)) ∧
    (∃ (s : State) (h : HalfId) (chan : Fin 64), (s.blk.cmdBusy h chan = true) ∧ (s.blk.powered .EVC_CMD h = true)) ∧
    (∃ (s : State) (h : HalfId) (chan : Fin 64), (s.blk.cmdBusy h chan = true) ∧ (s.blk.powered .EVC_CMD h = true)) ∧
    (∃ (s : State) (h : HalfId) (chan : Fin 64), (s.blk.powered .EVC_CFG h = true)) ∧
    (∃ (s : State) (h : HalfId), (s.blk.powered .EVN_POP h = true)) ∧
    (∃ (s : State) (h : HalfId), (s.blk.powered .TSC_LO h = true)) ∧
    (∃ (s : State) (h : HalfId), (s.blk.powered .TSC_XDIFF h = true)) ∧
    (∃ (s : State) (h : HalfId) (chan : Fin 64), (s.blk.powered .EVC_HEADT_LO h = true)) :=
  ⟨⟨upW (fun b => b.modHalf .a fun x => { x with cask := [insE] }), .a, 3, 9, [insE], by decide, by decide, by decide⟩,
   ⟨upW (fun b => b.modHalf .a fun x => { x with cask := [insE] }), .a, 3, [insE], by decide, by decide, by decide⟩,
   ⟨up, .a, 3, by decide, by decide⟩,
   ⟨upW (fun b => b.modHalf .a fun x => { x with cmdDone := x.cmdDone.set 3 (some 2) }), .a, 3, 9, by decide, by decide⟩,
   ⟨upW (fun b => b.modHalf .a fun x => { x with cmdDone := x.cmdDone.set 3 (some 2) }), .a, 3, by decide, by decide⟩,
   ⟨upW (fun b => b.modHalf .a fun x => { x with cmdDone := x.cmdDone.set 3 (some 2) }), .a, 3, by decide, by decide⟩,
   ⟨up, .a, 0, by decide⟩,
   ⟨up, .a, by decide⟩,
   ⟨up, .a, by decide⟩,
   ⟨up, .a, by decide⟩,
   ⟨up, .a, 0, by decide⟩⟩

theorem witness_AdmissionRowsComplete :
    (∃ (s : State) (h : HalfId) (chan : Fin 64) (tag : BitVec 10), (s.blk.on h F.ADM_RES_BUSY = false) ∧ (s.blk.powered .ADM_GO h = true)) ∧
    (∃ (s : State) (h : HalfId) (chan : Fin 64) (tag : BitVec 10), (s.blk.on h F.ADM_RES_BUSY = true) ∧ (s.blk.powered .ADM_GO h = true)) ∧
    (∃ (s : State) (h : HalfId) (i : Insertion) (b : Block) (c : Nat), ((s.blk.half h).sub = some i) ∧ (b = s.blk.modHalf h (fun x => { x with sub := none })) ∧ (c = (b.atLatch h (b.mkEntry h i)).admission h (b.mkEntry h i)) ∧ (c ≠ cOK)) ∧
    (∃ (s : State) (h : HalfId) (i : Insertion) (b : Block) (d : Block), ((s.blk.half h).sub = some i) ∧ (b = s.blk.modHalf h (fun x => { x with sub := none })) ∧ ((b.atLatch h (b.mkEntry h i)).admission h (b.mkEntry h i) = cOK) ∧ (d = b.modHalf h (fun x => { x with
        cask := x.cask ++ [{ b.mkEntry h i with written := false, fwdArm := b.withinLead h (b.mkEntry h i) }], nextOrd := x.nextOrd + 1 }))) ∧
    (∃ (s : State) (h : HalfId) (e : Entry) (b : Block), (s.blk.on h F.ADM_RES_BUSY = true) ∧ ((s.blk.half h).sub = none) ∧ ((s.blk.half h).cask.find? (fun e => !e.written) = some e) ∧ (b = s.blk.replaceEntry h (if e.fwdArm && !s.blk.clockRev h && s.blk.clockValid h then s.blk.armed h { e with written := true } else { e with written := true }))) ∧
    (∃ (s : State) (h : HalfId) (parity : Bool), (s.blk.on h F.ADM_RES_BUSY = true) ∧ ((s.blk.half h).sub = none) ∧ ((s.blk.half h).cask.find? (fun e => !e.written) = none)) ∧
    (∃ (s : State) (h : HalfId), (s.blk.powered .ADM_CLR h = true)) :=
  ⟨⟨up, .a, 3, 9, by decide, by decide⟩,
   ⟨upW (fun b => b.setF .a F.ADM_RES_BUSY 1), .a, 3, 9, by decide, by decide⟩,
   ⟨upW (fun b => b.modHalf .a fun x => { x with sub := some insI }), .a, insI, _, _, by decide, rfl, rfl, by decide⟩,
   ⟨{ upIns with blk := upIns.blk.modHalf .a fun x => { x with sub := some insI } }, .a, insI, _, _, by decide, rfl, by decide, rfl⟩,
   ⟨upW (fun b => (b.setF .a F.ADM_RES_BUSY 1).modHalf .a fun x => { x with cask := [{ insE with written := false }] }), .a, { insE with written := false }, _, by decide, by decide, by decide, rfl⟩,
   ⟨upW (fun b => b.setF .a F.ADM_RES_BUSY 1), .a, false, by decide, by decide, by decide⟩,
   ⟨up, .a, by decide⟩⟩

theorem witness_ShotRowsComplete :
    (∃ (s : State) (n : Fin 24) (sh : Shot), (s.blk.shot n = some sh) ∧ (sh.quenchAt = none) ∧ (sh.pkrAt = none) ∧ (s.blk.f .a F.INJ_STAT_PH n = 0) ∧ ((s.blk.chopOf n).blank = false)) ∧
    (∃ (s : State) (n : Fin 24), (s.blk.shot n = none)) ∧
    (∃ (s : State) (n : Fin 24) (sh : Shot), (s.blk.shot n = some sh) ∧ (sh.quenchAt ≠ none ∨ sh.pkrAt ≠ none ∨ s.blk.f .a F.INJ_STAT_PH n ≠ 0 ∨ (s.blk.chopOf n).blank = true)) ∧
    (∃ (s : State) (n : Fin 24) (sh : Shot) (below : Bool) (p : BandPlace), (s.blk.shot n = some sh) ∧ (sh.quenchAt = none) ∧ (sh.pkrAt = none) ∧ (s.blk.f .a F.INJ_STAT_PH n = 0) ∧ (s.blk.shotDue n sh.gntAt (s.blk.profW (injHalf n) (injSeq n) sh.prof 1) = true)) ∧
    (∃ (s : State) (n : Fin 24) (below : Bool) (p : BandPlace), (s.blk.shot n = none)) ∧
    (∃ (s : State) (n : Fin 24) (sh : Shot) (below : Bool) (p : BandPlace), (s.blk.shot n = some sh) ∧ (sh.quenchAt ≠ none ∨ sh.pkrAt ≠ none ∨ s.blk.f .a F.INJ_STAT_PH n ≠ 0 ∨ s.blk.shotDue n sh.gntAt (s.blk.profW (injHalf n) (injSeq n) sh.prof 1) = false)) ∧
    (∃ (s : State) (n : Fin 24) (sh : Shot) (p : BandPlace), (s.blk.shot n = some sh) ∧ (sh.quenchAt = none) ∧ (s.blk.f .a F.INJ_STAT_PH n = 0) ∧ (s.blk.shotDue n sh.pkrAt (s.blk.profW (injHalf n) (injSeq n) sh.prof 2) = true)) ∧
    (∃ (s : State) (n : Fin 24) (p : BandPlace), (s.blk.shot n = none)) ∧
    (∃ (s : State) (n : Fin 24) (sh : Shot) (p : BandPlace), (s.blk.shot n = some sh) ∧ (sh.quenchAt ≠ none ∨ s.blk.f .a F.INJ_STAT_PH n ≠ 0 ∨ s.blk.shotDue n sh.pkrAt (s.blk.profW (injHalf n) (injSeq n) sh.prof 2) = false)) ∧
    (∃ (s : State) (n : Fin 24) (sh : Shot) (p : BandPlace), (s.blk.shot n = some sh) ∧ (sh.quenchAt = none) ∧ (s.blk.f .a F.INJ_STAT_PH n = 1) ∧ (s.blk.shotDue n sh.holdAt (s.blk.profW (injHalf n) (injSeq n) sh.prof 4) = true)) ∧
    (∃ (s : State) (n : Fin 24) (p : BandPlace), (s.blk.shot n = none)) ∧
    (∃ (s : State) (n : Fin 24) (sh : Shot) (p : BandPlace), (s.blk.shot n = some sh) ∧ (sh.quenchAt ≠ none ∨ s.blk.f .a F.INJ_STAT_PH n ≠ 1 ∨ s.blk.shotDue n sh.holdAt (s.blk.profW (injHalf n) (injSeq n) sh.prof 4) = false)) ∧
    (∃ (s : State) (n : Fin 24) (sh : Shot) (fast : Bool), (s.blk.shot n = some sh) ∧ (sh.quenchAt = none) ∧ (s.blk.shotDue n (some sh.start) sh.e = true) ∧ (fast = (bits (s.blk.profW (injHalf n) (injSeq n) sh.prof 0) 7 6 == 0))) ∧
    (∃ (s : State) (n : Fin 24) (fast : Bool), (s.blk.shot n = none)) ∧
    (∃ (s : State) (n : Fin 24) (sh : Shot), (s.blk.shot n = some sh) ∧ (sh.quenchAt ≠ none ∨ s.blk.shotDue n (some sh.start) sh.e = false)) ∧
    (∃ (s : State) (n : Fin 24) (sh : Shot) (x : ShotMeas), (s.blk.shot n = some sh) ∧ (sh.quenchAt ≠ none)) ∧
    (∃ (s : State) (n : Fin 24) (x : ShotMeas), (s.blk.shot n = none)) ∧
    (∃ (s : State) (n : Fin 24) (sh : Shot) (x : ShotMeas), (s.blk.shot n = some sh) ∧ (sh.quenchAt = none)) ∧
    (∃ (s : State) (n : Fin 24) (sh : Shot) (x : ShotMeas), (s.blk.shot n = some sh) ∧ (s.blk.shotDue n sh.quenchAt (s.blk.profW (injHalf n) (injSeq n) sh.prof 6) = true)) ∧
    (∃ (s : State) (n : Fin 24) (x : ShotMeas), (s.blk.shot n = none)) ∧
    (∃ (s : State) (n : Fin 24) (sh : Shot) (x : ShotMeas), (s.blk.shot n = some sh) ∧ (s.blk.shotDue n sh.quenchAt (s.blk.profW (injHalf n) (injSeq n) sh.prof 6) = false)) ∧
    (∃ (s : State) (n : Fin 24) (sh : Shot) (x : ShotMeas), (s.blk.shot n = some sh) ∧ (s.blk.latchSeen (.inj n) = true)) ∧
    (∃ (s : State) (n : Fin 24) (x : ShotMeas), (s.blk.shot n = none)) ∧
    (∃ (s : State) (n : Fin 24) (sh : Shot) (x : ShotMeas), (s.blk.shot n = some sh) ∧ (s.blk.latchSeen (.inj n) = false)) :=
  ⟨⟨upShot shot0 (id), 0, shot0, by decide, by decide, by decide, by decide, by decide⟩,
   ⟨up, 0, by decide⟩,
   ⟨upShot { shot0 with pkrAt := some 0 } (id), 0, { shot0 with pkrAt := some 0 }, by decide, by decide⟩,
   ⟨upShot { shot0 with gntAt := some 0 } (id), 0, { shot0 with gntAt := some 0 }, true, .above, by decide, by decide, by decide, by decide, by decide⟩,
   ⟨up, 0, true, .above, by decide⟩,
   ⟨upShot shot0 (id), 0, shot0, true, .within, by decide, by decide⟩,
   ⟨upShot { shot0 with pkrAt := some 0 } (id), 0, { shot0 with pkrAt := some 0 }, .below, by decide, by decide, by decide, by decide⟩,
   ⟨up, 0, .above, by decide⟩,
   ⟨upShot shot0 (id), 0, shot0, .above, by decide, by decide⟩,
   ⟨upShot { shot0 with holdAt := some 0 } (fun b => b.setF .a F.INJ_STAT_PH 1 0), 0, { shot0 with holdAt := some 0 }, .within, by decide, by decide, by decide, by decide⟩,
   ⟨up, 0, .above, by decide⟩,
   ⟨upShot shot0 (id), 0, shot0, .above, by decide, by decide⟩,
   ⟨upShot { shot0 with e := 0 } (id), 0, { shot0 with e := 0 }, _, by decide, by decide, by decide, rfl⟩,
   ⟨up, 0, false, by decide⟩,
   ⟨upShot shot0 (id), 0, shot0, by decide, by decide⟩,
   ⟨upShot { shot0 with quenchAt := some 0 } (id), 0, { shot0 with quenchAt := some 0 }, meas0, by decide, by decide⟩,
   ⟨up, 0, meas0, by decide⟩,
   ⟨upShot shot0 (id), 0, shot0, meas0, by decide, by decide⟩,
   ⟨upShot { shot0 with quenchAt := some 0 } (id), 0, { shot0 with quenchAt := some 0 }, meas0, by decide, by decide⟩,
   ⟨up, 0, meas0, by decide⟩,
   ⟨upShot shot0 (id), 0, shot0, meas0, by decide, by decide⟩,
   ⟨upShot shot0 (fun b => b.setF .a F.INJ_TRIP_LATCH 1 0), 0, shot0, meas0, by decide, by decide⟩,
   ⟨up, 0, meas0, by decide⟩,
   ⟨upShot shot0 (id), 0, shot0, meas0, by decide, by decide⟩⟩

theorem witness_BoostAndChopRowsComplete :
    (∃ (s : State) (n : Fin 24) (simul : Bool), (s.blk.wantsBhs n = false)) ∧
    (∃ (s : State) (n : Fin 24) (simul : Bool), (s.blk.wantsBhs n = true) ∧ ((s.blk.bhsOf (n / 2)).holder = none) ∧ ((s.blk.bhsOf (n / 2)).change = false) ∧ (simul = false ∨ n.val % 2 = 0 ∨ s.blk.wantsBhs (n - 1) = false)) ∧
    (∃ (s : State) (n : Fin 24), (s.blk.wantsBhs n = true) ∧ ((s.blk.bhsOf (n / 2)).holder = none) ∧ ((s.blk.bhsOf (n / 2)).change = false) ∧ (n.val % 2 = 1) ∧ (s.blk.wantsBhs (n - 1) = true)) ∧
    (∃ (s : State) (n : Fin 24) (simul : Bool), (s.blk.wantsBhs n = true) ∧ ((s.blk.bhsOf (n / 2)).holder = some (n % 2))) ∧
    (∃ (s : State) (n : Fin 24) (simul : Bool) (m : Nat), (s.blk.wantsBhs n = true) ∧ ((s.blk.bhsOf (n / 2)).holder = some m) ∧ (m ≠ n % 2)) ∧
    (∃ (s : State) (n : Fin 24) (simul : Bool), (s.blk.wantsBhs n = true) ∧ ((s.blk.bhsOf (n / 2)).holder = none) ∧ ((s.blk.bhsOf (n / 2)).change = true)) ∧
    (∃ (s : State) (n : Fin 24), (s.blk.shot n = none) ∧ (s.blk.forced n = false) ∧ ((s.blk.bhsOf (n / 2)).holder = some (n % 2))) ∧
    (∃ (s : State) (n : Fin 24), (s.blk.splitBoost n = true ∨ s.blk.forced n = true) ∧ (s.blk.wantsBhs n = false) ∧ ((s.blk.bhsOf (n / 2)).holder = some (n % 2))) ∧
    (∃ (s : State) (n : Fin 24) (sh : Shot), (s.blk.splitBoost n = false) ∧ (s.blk.forced n = false) ∧ (s.blk.shot n = some sh)) ∧
    (∃ (s : State) (n : Fin 24), ((s.blk.bhsOf (n / 2)).holder ≠ some (n % 2))) ∧
    (∃ (s : State) (k : Fin 12) (p : Nat) (b : Block), ((s.blk.bhsOf k).change = true) ∧ ((s.blk.bhsOf k).waiter = some p) ∧ (b = s.blk.setBhs k { s.blk.bhsOf k with change := false }) ∧ (b.wantsBhs (2 * k + p) = true)) ∧
    (∃ (s : State) (k : Fin 12) (p : Nat) (b : Block), ((s.blk.bhsOf k).change = true) ∧ ((s.blk.bhsOf k).waiter = some p) ∧ (b = s.blk.setBhs k { s.blk.bhsOf k with change := false }) ∧ (b.wantsBhs (2 * k + p) = false)) ∧
    (∃ (s : State) (k : Fin 12), ((s.blk.bhsOf k).change = true) ∧ ((s.blk.bhsOf k).waiter = none)) ∧
    (∃ (s : State) (n : Fin 24) (sh : Shot), (s.blk.shot n = some sh) ∧ (sh.quenchAt = none) ∧ (sh.gntAt = none) ∧ ((s.blk.bhsOf (n / 2)).holder = some (n % 2))) ∧
    (∃ (s : State) (n : Fin 24), (s.blk.shot n = none ∨ (s.blk.bhsOf (n / 2)).holder ≠ some (n % 2))) ∧
    (∃ (s : State) (n : Fin 24) (upper : Bool), (s.blk.chopping n = true) ∧ ((s.blk.chopOf n).blank = false) ∧ ((s.blk.chopOf n).minRun = false) ∧ ((s.blk.chopOf n).decay = false) ∧ (s.blk.on .a F.INJ_STAT_HSB n = upper)) ∧
    (∃ (s : State) (n : Fin 24) (upper : Bool), (s.blk.chopping n = true) ∧ ((s.blk.chopOf n).blank = false) ∧ ((s.blk.chopOf n).minRun = true) ∧ ((s.blk.chopOf n).decay = false)) ∧
    (∃ (s : State) (n : Fin 24) (upper : Bool) (b : Block), (s.blk.chopping n = true) ∧ ((s.blk.chopOf n).blank = false) ∧ ((s.blk.chopOf n).decay = true) ∧ (b = (s.blk.hold n false).setChop n { (s.blk.hold n false).chopOf n with decay := false }) ∧ ((b.chopOf n).minRun = false) ∧ ((s.blk.chopOf n).minRun = false) ∧ (b.on .a F.INJ_STAT_HSB n = false)) ∧
    (∃ (s : State) (n : Fin 24) (upper : Bool), (s.blk.chopping n = false ∨ (s.blk.chopOf n).blank = true)) ∧
    (∃ (s : State) (n : Fin 24) (v : Bool), ((s.blk.chopOf n).want = some v) ∧ (s.blk.chopping n = true) ∧ (s.blk.on .a F.INJ_STAT_HSB n = !v)) ∧
    (∃ (s : State) (n : Fin 24), ((s.blk.chopOf n).want = none)) ∧
    (∃ (s : State) (h : HalfId) (k : Fin 12) (r : ShotRec) (b : Block), ((nth [] (s.blk.half h).sq.results k).find? (fun r => !r.read) = some r) ∧ (b = s.blk.modHalf h (fun x => { x with sq := { x.sq with
          results := x.sq.results.set k ((nth [] (s.blk.half h).sq.results k).set ((nth [] (s.blk.half h).sq.results k).findIdx fun r => !r.read) { r with read := true }) } })) ∧ (bits r.w0.toNat 3 2 ≠ 3 ∨ r.okNotice = false ∨ s.blk.on h F.SEQ_CFG_LRN k = false ∨ s.blk.phase h = phTEST ∨
        nth false (s.blk.half h).sq.restored k = false ∧ nth 0 (s.blk.half h).sq.count k < s.blk.f h F.SEQ_LCFG_MINSHOTS)) ∧
    (∃ (s : State) (h : HalfId) (k : Fin 12) (r : ShotRec) (b : Block) (d : Int × Int), ((nth [] (s.blk.half h).sq.results k).find? (fun r => !r.read) = some r) ∧ (b = s.blk.modHalf h (fun x => { x with sq := { x.sq with
          results := x.sq.results.set k ((nth [] (s.blk.half h).sq.results k).set ((nth [] (s.blk.half h).sq.results k).findIdx fun r => !r.read) { r with read := true }) } })) ∧ (bits r.w0.toNat 3 3 = 1) ∧ (bits r.w0.toNat 2 2 = 1) ∧ (r.okNotice = true) ∧ (s.blk.on h F.SEQ_CFG_LRN k = true) ∧ (s.blk.phase h ≠ phTEST) ∧ (nth false (s.blk.half h).sq.restored k = true ∨ s.blk.f h F.SEQ_LCFG_MINSHOTS ≤ nth 0 (s.blk.half h).sq.count k) ∧ (d = (learnStep (s.blk.f h F.SEQ_LCFG_RATE) (bits r.w2.toNat 23 12)
            (s.blk.f h F.SEQ_VREF_OPEN_REF (s.blk.f h F.SEQ_CFG_TYPE k)) (nth (0, 0) (s.blk.half h).sq.drift k).1,
          learnStep (s.blk.f h F.SEQ_LCFG_RATE) (bits r.w2.toNat 11 0)
            (s.blk.f h F.SEQ_VREF_CLOSE_REF (s.blk.f h F.SEQ_CFG_TYPE k)) (nth (0, 0) (s.blk.half h).sq.drift k).2))) ∧
    (∃ (s : State) (h : HalfId) (k : Fin 12), ((nth [] (s.blk.half h).sq.results k).find? (fun r => !r.read) = none)) ∧
    (∃ (s : State) (h : HalfId) (k : Fin 12), (s.blk.powered .SEQ_POP h = true)) ∧
    (∃ (s : State) (h : HalfId) (k : Fin 12), (s.blk.powered .SEQ_POP h = true)) ∧
    (∃ (s : State) (h : HalfId) (k : Fin 12) (v : Word) (b : Block), (s.blk.phase h = phTEST) ∧ (b = s.blk.setW h .SEQ_FORCE (wd (v.toNat / 2 ^ 20 * 2 ^ 20)) k) ∧ (s.blk.on h F.SEQ_FORCE_FEN k = true ∨ b.on h F.SEQ_FORCE_FEN k = true) ∧ (s.blk.powered .SEQ_FORCE h = true)) ∧
    (∃ (s : State) (h : HalfId) (k : Fin 12) (v : Word) (b : Block), (s.blk.phase h = phTEST) ∧ (b = s.blk.setW h .SEQ_FORCE (wd (v.toNat / 2 ^ 20 * 2 ^ 20)) k) ∧ (s.blk.on h F.SEQ_FORCE_FEN k = false) ∧ (b.on h F.SEQ_FORCE_FEN k = false) ∧ (s.blk.powered .SEQ_FORCE h = true)) ∧
    (∃ (s : State) (h : HalfId) (k : Fin 12) (v : Word), (s.blk.phase h ≠ phTEST) ∧ (s.blk.powered .SEQ_FORCE h = true)) :=
  ⟨⟨up, 0, false, by decide⟩,
   ⟨upShot shot0 (id), 0, true, by decide, by decide, by decide, by decide⟩,
   ⟨upShot shot0 (fun b => b.setShot 1 (some shot0)), 1, by decide, by decide, by decide, by decide, by decide⟩,
   ⟨upShot shot0 (fun b => b.setBhs 0 ⟨some 0, none, false⟩), 0, false, by decide, by decide⟩,
   ⟨upShot shot0 (fun b => b.setBhs 0 ⟨some 1, none, false⟩), 0, false, 1, by decide, by decide, by decide⟩,
   ⟨upShot shot0 (fun b => b.setBhs 0 ⟨none, none, true⟩), 0, false, by decide, by decide, by decide⟩,
   ⟨upW (fun b => b.setBhs 0 ⟨some 0, none, false⟩), 0, by decide, by decide, by decide⟩,
   ⟨upW (fun b => (b.setBhs 0 ⟨some 0, none, false⟩).setF .a F.SEQ_CFG_SPLIT 1 0), 0, by decide, by decide, by decide⟩,
   ⟨upShot shot0 (id), 0, shot0, by decide, by decide, by decide⟩,
   ⟨up, 0, by decide⟩,
   ⟨upShot shot0 (fun b => (b.setShot 1 (some shot0)).setBhs 0 ⟨none, some 1, true⟩), 0, 1, _, by decide, by decide, rfl, by decide⟩,
   ⟨upW (fun b => b.setBhs 0 ⟨none, some 1, true⟩), 0, 1, _, by decide, by decide, rfl, by decide⟩,
   ⟨upW (fun b => b.setBhs 0 ⟨none, none, true⟩), 0, by decide, by decide⟩,
   ⟨upShot shot0 (fun b => b.setBhs 0 ⟨some 0, none, false⟩), 0, shot0, by decide, by decide, by decide, by decide⟩,
   ⟨upShot shot0 (id), 0, by decide⟩,
   ⟨upShot shot0 (fun b => b.setF .a F.INJ_STAT_HSB 1 0), 0, true, by decide, by decide, by decide, by decide, by decide⟩,
   ⟨upShot shot0 (fun b => b.setChop 0 ⟨false, true, none, false⟩), 0, true, by decide, by decide, by decide, by decide⟩,
   ⟨upShot shot0 (fun b => (b.setChop 0 ⟨false, false, none, true⟩)), 0, false, _, by decide, by decide, by decide, rfl, by decide, by decide, by decide⟩,
   ⟨up, 0, true, by decide⟩,
   ⟨upShot shot0 (fun b => b.setChop 0 ⟨false, true, some true, false⟩), 0, true, by decide, by decide, by decide⟩,
   ⟨up, 0, by decide⟩,
   ⟨upW (fun b => b.modHalf .a fun x => { x with sq := { x.sq with results := x.sq.results.set 0 [⟨0, 0, 0, 0, false, false⟩] } }), .a, 0, ⟨0, 0, 0, 0, false, false⟩, _, by decide, rfl, by decide⟩,
   ⟨(upW (fun b => (b.setF .a F.SEQ_CFG_LRN 1 0).modHalf .a fun x => { x with sq := { x.sq with results := x.sq.results.set 0 [⟨12, 0, 0, 0, true, false⟩], count := x.sq.count.set 0 5000 } })), .a, 0, ⟨12, 0, 0, 0, true, false⟩, _, _, by decide, rfl, by decide, by decide, by decide, by decide, by decide, by decide, rfl⟩,
   ⟨up, .a, 0, by decide⟩,
   ⟨up, .a, 0, by decide⟩,
   ⟨up, .a, 0, by decide⟩,
   ⟨upW (fun b => b.setF .a F.ADM_STAT_PHASE 5), .a, 0, 0xF00000, _, by decide, rfl, by decide, by decide⟩,
   ⟨upW (fun b => b.setF .a F.ADM_STAT_PHASE 5), .a, 0, 0x000000, _, by decide, rfl, by decide, by decide, by decide⟩,
   ⟨up, .a, 0, 0xF00000, by decide, by decide⟩⟩

theorem witness_TripRowsComplete :
    (∃ (s : State) (n : Fin 24) (amps : BitVec 10), (s.blk.octh8 (.inj n) ≤ amps.toNat * 8)) ∧
    (∃ (s : State) (n : Fin 24) (amps : BitVec 10), (amps.toNat * 8 < s.blk.octh8 (.inj n))) ∧
    (∃ (s : State) (k : Fin 12) (amps : BitVec 10), (s.blk.octh8 (.bhs k) ≤ amps.toNat * 8)) ∧
    (∃ (s : State) (k : Fin 12) (amps : BitVec 10), (amps.toNat * 8 < s.blk.octh8 (.bhs k))) ∧
    (∃ (s : State) (b : Fin 8) (amps : BitVec 10), (s.blk.octh8 (.hb b) ≤ amps.toNat * 8)) ∧
    (∃ (s : State) (b : Fin 8) (amps : BitVec 10), (amps.toNat * 8 < s.blk.octh8 (.hb b))) ∧
    (∃ (s : State) (n : Fin 24), (s.blk.on .a F.INJ_STAT_LS n = true)) ∧
    (∃ (s : State) (n : Fin 24), (s.blk.on .a F.INJ_STAT_LS n = false)) ∧
    (∃ (s : State) (o : Output) (tl : Fin 8), (bits (s.blk.tmask o) tl tl = 1) ∧ (s.blk.tripLine o.owner tl = true)) ∧
    (∃ (s : State) (o : Output) (tl : Fin 8), (bits (s.blk.tmask o) tl tl = 0 ∨ s.blk.tripLine o.owner tl = false)) ∧
    (∃ (s : State) (o : Output), (s.blk.powered o.reg.1 o.owner = true)) ∧
    (∃ (s : State) (h : HalfId), (s.blk.holdsHelm h = true) ∧ (s.blk.powered .DRV_SWTRIP h = true)) ∧
    (∃ (s : State) (h : HalfId), (s.blk.holdsHelm h = false) ∧ (s.blk.powered .DRV_SWTRIP h = true)) ∧
    (∃ (s : State) (b : Fin 8), (s.blk.f .a F.HB_GUARD_HOLDTO b ≠ 0) ∧ ((s.blk.hbCommands b).1 = true ∨ (s.blk.hbCommands b).2 = true)) ∧
    (∃ (s : State) (b : Fin 8), (s.blk.f .a F.HB_GUARD_HOLDTO b = 0 ∨ ((s.blk.hbCommands b).1 = false ∧ (s.blk.hbCommands b).2 = false))) ∧
    (∃ (s : State) (b : Block) (c : Block), (s.blk.on .a F.DRV_STAT_VBATUV = false) ∧ (b = uvOutputs.foldl (fun t o => t.setLatch o caUV)
        (s.blk.setF .a F.DRV_STAT_VBATUV 1)) ∧ (c = if b.holdsHelm .a then b.report .a cOK 1 27 127 (bits (b.w .a .DRV_STAT).toNat 23 20) else b)) ∧
    (∃ (s : State), (s.blk.on .a F.DRV_STAT_VBATUV = true)) ∧
    (∃ (s : State), (s.blk.on .a F.DRV_STAT_VBATUV = false)) ∧
    (∃ (s : State), (s.blk.on .a F.DRV_STAT_VBATUV = true)) ∧
    (∃ (s : State) (o : Output) (holds : Bool), (s.blk.clearRefused o holds = true) ∧ (s.blk.powered o.reg.1 o.owner = true)) ∧
    (∃ (s : State) (o : Output), (s.blk.clearRefused o false = false) ∧ (s.blk.uvHeld o = false) ∧ (∀ e : Fin 48, o ≠ .evo e) ∧ (s.blk.powered o.reg.1 o.owner = true)) ∧
    (∃ (s : State) (o : Output), (s.blk.clearRefused o false = false) ∧ (s.blk.uvHeld o = true) ∧ (∀ e : Fin 48, o ≠ .evo e) ∧ (s.blk.powered o.reg.1 o.owner = true)) ∧
    (∃ (s : State) (e : Fin 48) (o : Output) (b : Block), (o = .evo e) ∧ (s.blk.clearRefused o false = false) ∧ (b = (s.blk.setF .a F.EVO_STAT_LATCH 0 e).setF .a (o.causeFld caEXT) 0 e) ∧ (s.blk.powered o.reg.1 o.owner = true)) ∧
    (∃ (s : State) (o : Output) (holds : Bool), (s.blk.powered o.reg.1 o.owner.peer = true)) :=
  ⟨⟨up, 0, 1023, by decide⟩,
   ⟨upW (fun b => (b.setF .a F.INJ_CFG_OCTH 9 0).setW .a .INJ_SEG 0xFF8000 0), 0, 1, by decide⟩,
   ⟨up, 0, 1023, by decide⟩,
   ⟨upW (fun b => (b.setF .a F.BHS_CFG_OCTH 9 0).setW .a .BHS_SEG 0xFF8000 0), 0, 1, by decide⟩,
   ⟨up, 0, 1023, by decide⟩,
   ⟨upW (fun b => b.setF .a F.HB_CFG_OCTH 9 0), 0, 1, by decide⟩,
   ⟨upW (fun b => b.setF .a F.INJ_STAT_LS 1 0), 0, by decide⟩,
   ⟨up, 0, by decide⟩,
   ⟨upW (fun b => (b.setF .a F.HB_CFG_TMASK 1 0).setW .a .CMP_TLSTAT 1), .hb 0, 0, by decide, by decide⟩,
   ⟨up, .hb 0, 0, by decide⟩,
   ⟨up, .inj 3, by decide⟩,
   ⟨up, .a, by decide, by decide⟩,
   ⟨up, .b, by decide, by decide⟩,
   ⟨upW (fun b => ((b.setF .a F.HB_GUARD_HOLDTO 1 0).setF .a F.HB_CFG_EN 1 0).setF .a F.PWM_STAT_OUTA 1 0), 0, by decide, by decide⟩,
   ⟨up, 0, by decide⟩,
   ⟨up, _, _, by decide, rfl, rfl⟩,
   ⟨upW (fun b => b.setF .a F.DRV_STAT_VBATUV 1), by decide⟩,
   ⟨up, by decide⟩,
   ⟨upW (fun b => b.setF .a F.DRV_STAT_VBATUV 1), by decide⟩,
   ⟨up, .inj 0, true, by decide, by decide⟩,
   ⟨up, .hb 0, by decide, by decide, by decide, by decide⟩,
   ⟨upW (fun b => b.setF .a (Output.causeFld (.hb 0) caUV) 1 0), .hb 0, by decide, by decide, by decide, by decide⟩,
   ⟨up, 0, _, _, rfl, by decide, rfl, by decide⟩,
   ⟨up, .inj 3, true, by decide⟩⟩

theorem witness_ConverterRowsComplete :
    (∃ (s : State) (h : HalfId) (k : Fin 2) (pos : Fin 16) (code : BitVec 16) (mon : BitVec 16) (r : Range) (n : Nat), (s.blk.converts h (k + 2) = true) ∧ (nth none (s.blk.conv h (k + 2)).shots (pos % 4) = some n) ∧ (pos.val < 4 ∨ 8 ≤ pos.val ∧ pos.val < 12) ∧ (s.blk.runsUnsampled h n = false)) ∧
    (∃ (s : State) (h : HalfId) (k : Fin 2) (pos : Fin 16) (code : BitVec 16) (mon : BitVec 16) (r : Range) (n : Nat), (s.blk.converts h (k + 2) = true) ∧ (nth none (s.blk.conv h (k + 2)).shots (pos % 4) = some n) ∧ (4 ≤ pos.val) ∧ (pos.val < 8) ∧ (s.blk.runsUnsampled h n = false)) ∧
    (∃ (s : State) (h : HalfId) (k : Fin 2) (pos : Fin 16) (code : BitVec 16) (mon : BitVec 16) (r : Range) (n : Nat), (s.blk.converts h (k + 2) = true) ∧ (nth none (s.blk.conv h (k + 2)).shots (pos % 4) = some n) ∧ (pos.val < 12) ∧ (s.blk.runsUnsampled h n = true)) ∧
    (∃ (s : State) (h : HalfId) (k : Fin 2) (pos : Fin 16) (code : BitVec 16) (mon : BitVec 16) (r : Range), (s.blk.converts h (k + 2) = true) ∧ (pos.val < 12) ∧ (nth none (s.blk.conv h (k + 2)).shots (pos % 4) = none)) ∧
    (∃ (s : State) (h : HalfId) (k : Fin 2) (pos : Fin 16) (code : BitVec 16) (mon : BitVec 16) (r : Range), (s.blk.converts h (k + 2) = true) ∧ (12 ≤ pos.val)) ∧
    (∃ (s : State) (h : HalfId) (k : Fin 2) (pos : Fin 16) (code : BitVec 16) (mon : BitVec 16) (r : Range), (s.blk.converts h (k + 2) = false)) ∧
    (∃ (s : State) (h : HalfId) (k : Fin 2) (slot : Fin 4) (mv : Move) (w : Win) (w1 : Win) (b : Block), ((s.blk.half h).clk.moved = some mv) ∧ (nth none (s.blk.conv h k).wins slot = some w) ∧ (w1 = queuePoints mv.jump mv.catchup (reachedBy mv (s.blk.cycleL h) w.g w.space) w.count w) ∧ (b = s.blk.modConv h k (fun c => { c with wins := c.wins.set slot (some w1) }))) ∧
    (∃ (s : State) (h : HalfId) (k : Fin 2) (slot : Fin 4), ((s.blk.half h).clk.moved = none ∨ nth none (s.blk.conv h k).wins slot = none)) ∧
    (∃ (s : State) (h : HalfId) (k : Fin 2) (code : BitVec 16) (r : Range) (slot : Nat) (w : Win) (q : WPoint) (cv : Bool × Block) (w1 : Win) (b : Block), (s.blk.convReady h k = true) ∧ (firstQueued (s.blk.on h F.PCV_CFG_EN k) (s.blk.conv h k).wins = some (slot, w, q)) ∧ (cv = s.blk.convert h k w.cp (s.blk.half h).tsc r (fun a => ticksTo a (s.blk.half h).tsc ≤ 3)) ∧ (w1 = { w with
          queue := w.queue.drop 1, jump := w.jump || q.jump, catchup := w.catchup || q.catchup, flags := w.flags + bitOf cv.1, taken := w.taken + 1,
          buf := if q.k = 0 then (w.storePlace h 0).getD 0 else w.buf,
          samples := if w.atu && q.k < 4096 then ⟨q.k, sext 16 (clampCode true code.toNat r), cv.1⟩ :: w.samples else w.samples }) ∧ (b = cv.2.modConv h k (fun c => { c with wins := c.wins.set slot (some w1) }))) ∧
    (∃ (s : State) (h : HalfId) (k : Fin 2) (code : BitVec 16) (r : Range), (s.blk.convReady h k = false ∨ firstQueued (s.blk.on h F.PCV_CFG_EN k) (s.blk.conv h k).wins = none)) ∧
    (∃ (s : State) (h : HalfId) (k : Fin 2) (slot : Fin 4), (s.blk.powered .PCV_CMD h = true)) ∧
    (∃ (s : State) (h : HalfId) (k : Fin 4), (s.blk.powered .PCV_CMD h = true)) ∧
    (∃ (s : State) (h : HalfId) (k : Fin 2), (s.blk.powered .PCV_WPOP h = true)) ∧
    (∃ (s : State) (h : HalfId) (diff : BitVec 16) (k : Nat) (b : Block), (s.blk.on h F.PCV_SPARE_USED = false) ∧ (s.blk.on h F.PCV_SPARE_SPFAIL = false) ∧ (s.blk.nextTurn h = some k) ∧ (64 < diff.toNat) ∧ ((s.blk.conv h k).miss < 7) ∧ (b = s.blk.modHalf h (fun x => { x with turn := (k + 1) % 4 }))) ∧
    (∃ (s : State) (h : HalfId) (diff : BitVec 16) (k : Nat) (b : Block) (c : Block), (s.blk.on h F.PCV_SPARE_USED = false) ∧ (s.blk.on h F.PCV_SPARE_SPFAIL = false) ∧ (s.blk.nextTurn h = some k) ∧ (diff.toNat ≤ 64) ∧ (b = s.blk.modHalf h (fun x => { x with turn := (k + 1) % 4 })) ∧ (c = b.setConv h k { b.conv h k with miss := 0, judged := false, other := false })) ∧
    (∃ (s : State) (h : HalfId) (diff : BitVec 16), (s.blk.on h F.PCV_SPARE_USED = true ∨ s.blk.on h F.PCV_SPARE_SPFAIL = true ∨ s.blk.nextTurn h = none)) ∧
    (∃ (s : State) (h : HalfId) (k : Fin 8), (s.blk.phase h = phTEST) ∧ (k.val < 4) ∧ (s.blk.on h F.PCV_SPARE_USED = false) ∧ (s.blk.on h F.PCV_SPARE_SPFAIL = false) ∧ (s.blk.powered .PCV_SPARE h = true)) ∧
    (∃ (s : State) (h : HalfId) (k : Fin 8), (s.blk.phase h = phTEST) ∧ (4 ≤ k.val ∨ s.blk.on h F.PCV_SPARE_USED = true ∨ s.blk.on h F.PCV_SPARE_SPFAIL = true) ∧ (s.blk.powered .PCV_SPARE h = true)) ∧
    (∃ (s : State) (h : HalfId) (k : Fin 8), (s.blk.phase h ≠ phTEST) ∧ (s.blk.powered .PCV_SPARE h = true)) :=
  ⟨⟨upW (fun b => ((b.setF .a F.PCV_CFG_EN 1 2).setF .a F.CRP_STAT_ADCLOCK 1).modConv .a 2 fun c => { c with shots := c.shots.set 0 (some 0) }), .a, 0, 0, 0, 0, .inside, 0, by decide, by decide, by decide, by decide⟩,
   ⟨upW (fun b => ((b.setF .a F.PCV_CFG_EN 1 2).setF .a F.CRP_STAT_ADCLOCK 1).modConv .a 2 fun c => { c with shots := c.shots.set 0 (some 0) }), .a, 0, 4, 0, 0, .inside, 0, by decide, by decide, by decide, by decide, by decide⟩,
   ⟨(upShot { shot0 with sampled := false } fun b => (((b.setF .a F.PCV_CFG_EN 1 2).setF .a F.CRP_STAT_ADCLOCK 1).modConv .a 2 fun c => { c with shots := c.shots.set 0 (some 0) })), .a, 0, 0, 0, 0, .inside, 0, by decide, by decide, by decide, by decide⟩,
   ⟨upW (fun b => ((b.setF .a F.PCV_CFG_EN 1 2).setF .a F.CRP_STAT_ADCLOCK 1)), .a, 0, 0, 0, 0, .inside, by decide, by decide, by decide⟩,
   ⟨upW (fun b => ((b.setF .a F.PCV_CFG_EN 1 2).setF .a F.CRP_STAT_ADCLOCK 1)), .a, 0, 12, 0, 0, .inside, by decide, by decide⟩,
   ⟨up, .a, 0, 12, 0, 0, .inside, by decide⟩,
   ⟨upW (fun b => (b.modConv .a 0 fun c => { c with wins := c.wins.set 0 (some win0) }).modClk .a fun c => { c with moved := some ⟨0, 0, 11796480, false, false, false⟩ }), .a, 0, 0, ⟨0, 0, 11796480, false, false, false⟩, win0, _, _, by decide, by decide, rfl, rfl⟩,
   ⟨up, .a, 0, 0, by decide⟩,
   ⟨upW (fun b => ((b.setF .a F.PCV_CFG_EN 1 0).setF .a F.CRP_STAT_ADCLOCK 1).modConv .a 0 fun c => { c with wins := c.wins.set 0 (some win0) }), .a, 0, 0, .inside, 0, win0, ⟨0, false, false⟩, _, _, _, by decide, by decide, rfl, rfl, rfl⟩,
   ⟨up, .a, 0, 0, .inside, by decide⟩,
   ⟨up, .a, 0, 0, by decide⟩,
   ⟨up, .a, 0, by decide⟩,
   ⟨up, .a, 0, by decide⟩,
   ⟨upW (fun b => ((b.setF .a F.PCV_CFG_EN 1 0).setF .a F.CRP_STAT_ADCLOCK 1)), .a, 65, 0, _, by decide, by decide, by decide, by decide, by decide, rfl⟩,
   ⟨upW (fun b => ((b.setF .a F.PCV_CFG_EN 1 0).setF .a F.CRP_STAT_ADCLOCK 1)), .a, 64, 0, _, _, by decide, by decide, by decide, by decide, rfl, rfl⟩,
   ⟨up, .a, 65, by decide⟩,
   ⟨upW (fun b => b.setF .a F.ADM_STAT_PHASE 5), .a, 0, by decide, by decide, by decide, by decide, by decide⟩,
   ⟨upW (fun b => b.setF .a F.ADM_STAT_PHASE 5), .a, 7, by decide, by decide, by decide⟩,
   ⟨up, .a, 0, by decide, by decide⟩⟩

set_option maxRecDepth 20000 in
theorem witness_CombustionRowsComplete :
    (∃ (s : State) (h : HalfId) (ctx : Fin 8) (j : AtuJob) (r : List Word × Block) (c : Nat) (valid : Bool) (fb : Bool) (due : FbDue) (b : Block) (d : Block), ((s.blk.half h).atu.jobs.find? (fun j => j.ctx == ctx.val) = some j) ∧ (r = s.blk.atuWords h j) ∧ (c = j.win.frame) ∧ (valid = (bits (nth 0 r.1 0).toNat 7 7 == 1)) ∧ (fb = (valid && !(bits (nth 0 r.1 0).toNat 6 6 == 1) && (s.blk.on h F.ATU_CYL_CAFB c || s.blk.on h F.ATU_CYL_IMFB c))) ∧ (due = ⟨c, (nth 0 r.1 6).toNat, sext 24 (nth 0 r.1 3).toNat, s.blk.f h F.ATU_CA50T_TARGET c, s.blk.f h F.ATU_FBG_KCA, s.blk.f h F.ATU_FBG_KIM, j.win.late⟩) ∧ (b = (r.2.putRec h c r.1).modAtu h (fun x => { x with
          jobs := x.jobs.erase j, fresh := x.fresh.set c true, fbHeld := x.fbHeld.set c none,
          imep := if valid then x.imep.set c (some (sext 24 (nth 0 r.1 3).toNat)) else x.imep,
          fbDue := if fb then x.fbDue ++ [due] else x.fbDue })) ∧ (d = (if bits (nth 0 r.1 0).toNat 1 1 = 1 then b.setF h F.ATU_ERR_PEGFAIL 1 else b))) ∧
    (∃ (s : State) (h : HalfId) (ctx : Fin 8), ((s.blk.half h).atu.jobs.find? (fun j => j.ctx == ctx.val) = none)) ∧
    (∃ (s : State) (h : HalfId) (c : Fin 24), (s.blk.powered .ATU_REC h = true)) ∧
    (∃ (s : State) (h : HalfId) (c : Fin 24), ((s.blk.half h).atu.fbDue.find? (fun d => d.cyl == c.val) = none)) ∧
    (∃ (s : State) (h : HalfId) (c : Fin 24) (d : FbDue), ((s.blk.half h).atu.fbDue.find? (fun d => d.cyl == c.val) = some d) ∧ (s.blk.phase h = phTEST ∨ nth 0 (s.blk.half h).hip.roles 2 = 2)) ∧
    (∃ (s : State) (h : HalfId) (c : Fin 24) (d : FbDue) (b : Block) (old : Int × Int) (a : Int) (e : Int) (f : Block), ((s.blk.half h).atu.fbDue.find? (fun d => d.cyl == c.val) = some d) ∧ (s.blk.phase h ≠ phTEST) ∧ (nth 0 (s.blk.half h).hip.roles 2 ≠ 2) ∧ (b = s.blk.modAtu h (fun x => { x with fbDue := x.fbDue.erase d })) ∧ (old = corrOf (b.corr h c)) ∧ (a = (if b.on h F.ATU_CYL_CAFB c then stepAngle (b.cycleL h) d old.1 else old.1)) ∧ (e = (if b.on h F.ATU_CYL_IMFB c ∧ 0 < (b.imepRef h).1 then ((b.mainParam h c).map fun n => stepEnergising (b.imepRef h) d n old.2).getD old.2 else old.2)) ∧ (f = (b.setCorr h c (corrWord (a, e))).writePairs h (fun r => r.frame == c.val))) ∧
    (∃ (s : State) (h : HalfId) (c : Fin 24), (s.blk.f h F.ANG_CYL_N_CYL ≤ c.val)) ∧
    (∃ (s : State) (h : HalfId) (c : Fin 24) (b : Block), (c.val < s.blk.f h F.ANG_CYL_N_CYL) ∧ (b = s.blk.modAtu h (fun x => { x with tau := x.tau.set c (s.blk.tauOf h c), fuel := x.fuel.set c false })) ∧ (s.blk.ownsCyl h c = false)) ∧
    (∃ (s : State) (h : HalfId) (c : Fin 24) (b : Block), (c.val < s.blk.f h F.ANG_CYL_N_CYL) ∧ (b = s.blk.modAtu h (fun x => { x with tau := x.tau.set c (s.blk.tauOf h c), fuel := x.fuel.set c false })) ∧ (s.blk.ownsCyl h c = true) ∧ (s.blk.tauOf h c = none ∨ (s.blk.firesBefore h c).bind (fun d => nth none (s.blk.half h).atu.tau d) = none ∨ s.blk.on h F.ATU_CFG_MFEN = false ∨ nth false (s.blk.half h).atu.fuel c = false ∨ (s.blk.half h).clk.cycLen = 0)) ∧
    (∃ (s : State) (h : HalfId) (c : Fin 24) (b : Block) (x : Frac) (p : Frac) (d : Frac), (c.val < s.blk.f h F.ANG_CYL_N_CYL) ∧ (b = s.blk.modAtu h (fun x => { x with tau := x.tau.set c (s.blk.tauOf h c), fuel := x.fuel.set c false })) ∧ (s.blk.ownsCyl h c = true) ∧ (s.blk.tauOf h c = some x) ∧ ((s.blk.firesBefore h c).bind (fun d => nth none (s.blk.half h).atu.tau d) = some p) ∧ (s.blk.on h F.ATU_CFG_MFEN = true) ∧ (nth false (s.blk.half h).atu.fuel c = true) ∧ ((s.blk.half h).clk.cycLen ≠ 0) ∧ (d = fracSub (fracMul (fracDiv (fracSub x p) (frac ((s.blk.half h).clk.cycLen : Int) (s.blk.cycleL h))) ⟨65536, 1⟩) ⟨sext 16 (s.blk.f h F.ATU_MFS_BASE c), 1⟩) ∧ (fracLt (fracOf (s.blk.f h F.ATU_MFTH_TH)) d = true)) ∧
    (∃ (s : State) (h : HalfId) (c : Fin 24) (b : Block) (x : Frac) (p : Frac) (d : Frac) (n : Int), (c.val < s.blk.f h F.ANG_CYL_N_CYL) ∧ (b = s.blk.modAtu h (fun x => { x with tau := x.tau.set c (s.blk.tauOf h c), fuel := x.fuel.set c false })) ∧ (s.blk.ownsCyl h c = true) ∧ (s.blk.tauOf h c = some x) ∧ ((s.blk.firesBefore h c).bind (fun d => nth none (s.blk.half h).atu.tau d) = some p) ∧ (s.blk.on h F.ATU_CFG_MFEN = true) ∧ (nth false (s.blk.half h).atu.fuel c = true) ∧ ((s.blk.half h).clk.cycLen ≠ 0) ∧ (d = fracSub (fracMul (fracDiv (fracSub x p) (frac ((s.blk.half h).clk.cycLen : Int) (s.blk.cycleL h))) ⟨65536, 1⟩) ⟨sext 16 (s.blk.f h F.ATU_MFS_BASE c), 1⟩) ∧ (fracLt (fracOf (s.blk.f h F.ATU_MFTH_TH)) d = false) ∧ (n = fracFloor (fracAdd ⟨sext 16 (s.blk.f h F.ATU_MFS_BASE c), 1⟩ (fracMul d ⟨1, 2 ^ s.blk.f h F.ATU_MFTH_RATE⟩)))) ∧
    (∃ (s : State) (h : HalfId) (c : Fin 24), (nth false (s.blk.half h).atu.fresh c = false) ∧ (nth none (s.blk.half h).atu.crk c = none)) ∧
    (∃ (s : State) (h : HalfId) (c : Fin 24) (fresh : Bool) (v : Bool × Bool × Int) (mf : Bool) (comb : Bool) (pay : List Word) (b : Block) (d : Block), (nth false (s.blk.half h).atu.fresh c = fresh) ∧ (fresh = true ∨ nth none (s.blk.half h).atu.crk c ≠ none) ∧ (v = (nth none (s.blk.half h).atu.crk c).getD (false, false, 0)) ∧ (mf = (bits (s.blk.recWord h c 0).toNat 6 6 == 1)) ∧ (pay = (List.range 11).map (s.blk.recWord h c) ++
        [wd (c * 2 ^ 19 + bits (s.blk.recWord h c 0).toNat 15 8 * 2 ^ 11 + bitOf v.1 * 1024 + bitOf v.2.1 * 512 + bitOf mf * 256), wd (satS v.2.2)]) ∧ (comb = (fresh && s.blk.on h F.ATU_CYL_EN c && s.blk.f h F.ATU_CFG_RDIV != 0 && decide (s.blk.f h F.ATU_CFG_RDIV ≤ nth 0 (s.blk.half h).atu.since c + 1))) ∧ (b = s.blk.modAtu h (fun x => { x with
          fresh := x.fresh.set c false, crk := x.crk.set c none,
          since := if fresh then x.since.set c (if comb then 0 else nth 0 (s.blk.half h).atu.since c + 1) else x.since })) ∧ (d = (if comb then b.softNotice h 0xC7 pay 2 else b))) ∧
    (∃ (s : State) (h : HalfId), (s.blk.powered .ATU_CLR h = true)) ∧
    (∃ (s : State) (h : HalfId), (s.blk.powered .ATU_CLR h = true)) :=
  ⟨⟨upW (fun b => b.modAtu .a fun x => { x with jobs := [⟨0, { win0 with frame := 0, atu := true }, 6⟩] }), .a, 0, ⟨0, { win0 with frame := 0, atu := true }, 6⟩, _, _, _, _, _, _, _, by decide, rfl, rfl, rfl, rfl, rfl, rfl, rfl⟩,
   ⟨up, .a, 0, by decide⟩,
   ⟨up, .a, 0, by decide⟩,
   ⟨up, .a, 0, by decide⟩,
   ⟨upW (fun b => ((fun b => b.setF .a F.ADM_STAT_PHASE 5 : Block → Block) b).modAtu .a fun x => { x with fbDue := [⟨0, 5, 6, 7, 8, 9, none⟩] }), .a, 0, ⟨0, 5, 6, 7, 8, 9, none⟩, by decide, by decide⟩,
   ⟨upW (fun b => ((fun b => b.setF .a F.ATU_CYL_CAFB 1 0 : Block → Block) b).modAtu .a fun x => { x with fbDue := [⟨0, 5, 6, 7, 8, 9, none⟩] }), .a, 0, ⟨0, 5, 6, 7, 8, 9, none⟩, _, _, _, _, _, by decide, by decide, by decide, rfl, rfl, rfl, rfl, rfl⟩,
   ⟨up, .a, 1, by decide⟩,
   ⟨upW (fun b => b.setF .b F.ANG_CYL_N_CYL 1), .b, 0, _, by decide, rfl, by decide⟩,
   ⟨upW (fun b => b.setF .a F.ANG_CYL_N_CYL 1), .a, 0, _, by decide, rfl, by decide, by decide⟩,
   ⟨upMf ⟨0, 1⟩, .a, 0, _, ⟨1, 1000⟩, ⟨0, 1⟩, _, by decide, rfl, by decide, by decide, by decide, by decide, by decide, by decide, rfl, by decide⟩,
   ⟨upMf ⟨1, 1⟩, .a, 0, _, ⟨1, 1000⟩, ⟨1, 1⟩, _, _, by decide, rfl, by decide, by decide, by decide, by decide, by decide, by decide, rfl, by decide, rfl⟩,
   ⟨up, .a, 0, by decide, by decide⟩,
   ⟨upW (fun b => (((b.setF .a F.ATU_CFG_MFNOTE 0).setF .a F.ATU_CFG_RDIV 1).setF .a F.ATU_CYL_EN 1 0).modAtu .a fun x => { x with fresh := x.fresh.set 0 true }), .a, 0, true, _, _, _, _, _, _, by decide, by decide, rfl, rfl, rfl, rfl, rfl, rfl⟩,
   ⟨up, .a, by decide⟩,
   ⟨up, .a, by decide⟩⟩

theorem witness_ComparatorRowsComplete :
    (∃ (s : State) (h : HalfId) (k : Fin 32) (v : BitVec 12) (on : List Nat), (on = (List.range 32).filter (fun j => s.blk.f h F.CMP_CFG_INSEL j == s.blk.f h F.CMP_CFG_INSEL k))) ∧
    (∃ (s : State) (h : HalfId) (k : Fin 32) (v : BitVec 12) (b : Block) (e : Block) (w : Bool) (d : Bool) (inv : Bool) (c : Block), ((List.range 32).filter (fun j => s.blk.f h F.CMP_CFG_INSEL j == s.blk.f h F.CMP_CFG_INSEL k) = [k.val]) ∧ (b = s.blk.setCmpV h k v.toNat) ∧ (w = (match (b.cmp h k).heldAt with | some v0 => b.cmpSame h k v0 (b.cmpV h k) | none => false)) ∧ (e = b.modCmp h k (fun c => { c with heldAt := none })) ∧ (b.cmpPowered h = true) ∧ (b.on h F.CMP_CFG_EN k = true) ∧ (b.on h F.CMP_STAT_FAILED k = false) ∧ (false = w) ∧ (e.cmpDecision h k (e.cmpV h k) = some d) ∧ (inv = e.on h F.CMP_CFG_INV k) ∧ (c = ((e.cmpSide h k (e.cmpV h k)).setF h F.CMP_STAT_RAW (bitOf (d != inv)) k).setF h F.CMP_STAT_UNSETTLED 0 k)) ∧
    (∃ (s : State) (h : HalfId) (k : Fin 32) (v : BitVec 12) (b : Block) (e : Block) (w : Bool), ((List.range 32).filter (fun j => s.blk.f h F.CMP_CFG_INSEL j == s.blk.f h F.CMP_CFG_INSEL k) = [k.val]) ∧ (b = s.blk.setCmpV h k v.toNat) ∧ (w = (match (b.cmp h k).heldAt with | some v0 => b.cmpSame h k v0 (b.cmpV h k) | none => false)) ∧ (e = b.modCmp h k (fun c => { c with heldAt := none })) ∧ (b.cmpPowered h = true) ∧ (b.on h F.CMP_CFG_EN k = true) ∧ (b.on h F.CMP_STAT_FAILED k = false) ∧ (b.on h F.CMP_STAT_UNSETTLED k = true) ∧ (e.cmpDecision h k (e.cmpV h k) = none ∨ w = true)) ∧
    (∃ (s : State) (h : HalfId) (k : Fin 32) (v : BitVec 12) (b : Block) (e : Block) (w : Bool) (x : Block) (r : Bool) (y : Block), ((List.range 32).filter (fun j => s.blk.f h F.CMP_CFG_INSEL j == s.blk.f h F.CMP_CFG_INSEL k) = [k.val]) ∧ (b = s.blk.setCmpV h k v.toNat) ∧ (w = (match (b.cmp h k).heldAt with | some v0 => b.cmpSame h k v0 (b.cmpV h k) | none => false)) ∧ (e = b.modCmp h k (fun c => { c with heldAt := none })) ∧ (b.cmpPowered h = true) ∧ (b.on h F.CMP_CFG_EN k = true) ∧ (b.on h F.CMP_STAT_FAILED k = false) ∧ (b.on h F.CMP_STAT_UNSETTLED k = false) ∧ (e.cmpDecision h k (e.cmpV h k) = none ∨ w = true) ∧ (x = (if w then b else e)) ∧ (r = x.on h F.CMP_STAT_RAW k) ∧ (y = x.setF h F.CMP_STAT_RAW (bitOf r) k)) ∧
    (∃ (s : State) (h : HalfId) (k : Fin 32) (v : BitVec 12) (b : Block), ((List.range 32).filter (fun j => s.blk.f h F.CMP_CFG_INSEL j == s.blk.f h F.CMP_CFG_INSEL k) = [k.val]) ∧ (b = s.blk.setCmpV h k v.toNat) ∧ (b.cmpPowered h = false ∨ b.on h F.CMP_CFG_EN k = false ∨ b.on h F.CMP_STAT_FAILED k = true)) ∧
    (∃ (s : State) (h : HalfId) (k : Fin 32), (s.blk.blanked h k = true)) ∧
    (∃ (s : State) (h : HalfId) (k : Fin 32) (b : Block), (s.blk.blanked h k = false) ∧ (b = (if s.blk.blankSource h k then s.blk else s.blk.modCmp h k fun c => { c with ovrd := false })) ∧ (s.blk.cmpPowered h = true) ∧ (s.blk.on h F.CMP_CFG_EN k = true) ∧ (s.blk.on h F.CMP_STAT_FAILED k = false) ∧ (s.blk.on h F.CMP_STAT_UNSETTLED k = false)) ∧
    (∃ (s : State) (h : HalfId) (k : Fin 32) (b : Block), (s.blk.blanked h k = false) ∧ (b = (if s.blk.blankSource h k then s.blk else s.blk.modCmp h k fun c => { c with ovrd := false })) ∧ (s.blk.cmpPowered h = false ∨ s.blk.on h F.CMP_CFG_EN k = false ∨ s.blk.on h F.CMP_STAT_UNSETTLED k = true ∨ s.blk.on h F.CMP_STAT_FAILED k = true)) ∧
    (∃ (s : State) (h : HalfId) (k : Fin 32) (b : Block), (s.blk.blanked h k = true) ∧ (s.blk.f h F.CMP_BLK_BLMAX k ≠ 0) ∧ (b = (s.blk.modCmp h k fun c => { c with ovrd := true }).setF h F.CMP_EVT_BLERR 1 k)) ∧
    (∃ (s : State) (h : HalfId) (k : Fin 32), (s.blk.blanked h k = false ∨ s.blk.f h F.CMP_BLK_BLMAX k = 0)) ∧
    (∃ (s : State) (h : HalfId) (k : Fin 32) (v : BitVec 12), (s.blk.on h F.CMP_CFG_EN k = false) ∧ (s.blk.powered .CMP_CFG h = true)) ∧
    (∃ (s : State) (h : HalfId) (k : Fin 32) (v : BitVec 12), (s.blk.on h F.CMP_CFG_EN k = true) ∧ (s.blk.powered .CMP_CFG h = true)) ∧
    (∃ (s : State) (h : HalfId) (k : Fin 32), (s.blk.powered .CMP_CFG h = true)) ∧
    (∃ (s : State) (h : HalfId) (k : Fin 32) (v : Word), (s.blk.f h F.CMP_CFG_MODE k ≠ 2) ∧ (s.blk.powered .CMP_TH h = true)) ∧
    (∃ (s : State) (h : HalfId) (k : Fin 32) (v : Word), (s.blk.f h F.CMP_CFG_MODE k = 2) ∧ (windowOk 2 (bits (v.toNat &&& Reg.CMP_TH.info.rw) F.CMP_TH_TH_HI.hi F.CMP_TH_TH_HI.lo) (bits (v.toNat &&& Reg.CMP_TH.info.rw) F.CMP_TH_TH_LO.hi F.CMP_TH_TH_LO.lo) (s.blk.f h F.CMP_HYS_HYS k) = false) ∧ (s.blk.powered .CMP_TH h = true)) ∧
    (∃ (s : State) (h : HalfId) (k : Fin 32), (s.blk.powered .CMP_CAPLO h = true)) ∧
    (∃ (s : State) (h : HalfId) (k : Fin 32) (i : Nat) (used : Nat), (s.blk.phase h = phTEST) ∧ ((List.range 4).find? (fun i => bits (s.blk.f h F.CMP_SPARE_USED ||| s.blk.f h F.CMP_SPARE_SFAIL) i i = 0) = some i) ∧ (used = putBits (s.blk.f h F.CMP_SPARE_USED) i i 1) ∧ (s.blk.powered .CMP_SPARE h = true)) ∧
    (∃ (s : State) (h : HalfId) (k : Fin 32), (s.blk.phase h ≠ phTEST) ∧ (s.blk.powered .CMP_SPARE h = true)) ∧
    (∃ (s : State) (h : HalfId) (k : Fin 32), (s.blk.phase h = phTEST) ∧ ((List.range 4).find? (fun i => bits (s.blk.f h F.CMP_SPARE_USED ||| s.blk.f h F.CMP_SPARE_SFAIL) i i = 0) = none) ∧ (s.blk.powered .CMP_SPARE h = true)) :=
  ⟨⟨up, .a, 0, 200, _, rfl⟩,
   ⟨upW (fun b => ((b.setF .a F.CMP_CFG_EN 1 0).setF .a F.CMP_TH_TH_HI 100 0).setF .a F.CMP_CFG_INSEL 5 0), .a, 0, 200, _, _, _, true, _, _, by decide, rfl, rfl, rfl, by decide, by decide, by decide, by decide, by decide, rfl, rfl⟩,
   ⟨upW (fun b => (((b.setF .a F.CMP_CFG_EN 1 0).setF .a F.CMP_STAT_UNSETTLED 1 0).setW .a .CMP_TH 0 0 |>.setF .a F.CMP_TH_TH_HI 100 0 |>.setF .a F.CMP_HYS_HYS 50 0).setF .a F.CMP_CFG_INSEL 5 0), .a, 0, 80, _, _, _, by decide, rfl, rfl, rfl, by decide, by decide, by decide, by decide, by decide⟩,
   ⟨upW (fun b => (((b.setF .a F.CMP_CFG_EN 1 0).setF .a F.CMP_TH_TH_HI 100 0).modCmp .a 0 fun c => { c with heldAt := some 100 }).setF .a F.CMP_CFG_INSEL 5 0), .a, 0, 100, _, _, _, _, _, _, by decide, rfl, rfl, rfl, by decide, by decide, by decide, by decide, by decide, rfl, rfl, rfl⟩,
   ⟨upW (fun b => (b).setF .a F.CMP_CFG_INSEL 5 0), .a, 0, 200, _, by decide, rfl, by decide⟩,
   ⟨upW (fun b => (((b.setF .a F.CMP_CFG_EN 1 0).setF .a F.CMP_BLK_BLPOL (if b.blankSource .a 0 then 0 else 1) 0).setF .a F.CMP_BLK_BLEN 1 0)), .a, 0, by decide⟩,
   ⟨upW (fun b => (b.setF .a F.CMP_CFG_EN 1 0).setF .a F.CMP_BLK_BLPOL (if b.blankSource .a 0 then 1 else 0) 0), .a, 0, _, by decide, rfl, by decide, by decide, by decide, by decide⟩,
   ⟨up, .a, 0, _, by decide, rfl, by decide⟩,
   ⟨upW (fun b => (((b.setF .a F.CMP_CFG_EN 1 0).setF .a F.CMP_BLK_BLPOL (if b.blankSource .a 0 then 0 else 1) 0).setF .a F.CMP_BLK_BLEN 1 0).setF .a F.CMP_BLK_BLMAX 9 0), .a, 0, _, by decide, by decide, rfl⟩,
   ⟨up, .a, 0, by decide⟩,
   ⟨up, .a, 0, 9, by decide, by decide⟩,
   ⟨upW (fun b => b.setF .a F.CMP_CFG_EN 1 0), .a, 0, 9, by decide, by decide⟩,
   ⟨up, .a, 0, by decide⟩,
   ⟨up, .a, 0, 5, by decide, by decide⟩,
   ⟨upW (fun b => b.setF .a F.CMP_CFG_MODE 2 0), .a, 0, 0, by decide, by decide, by decide⟩,
   ⟨up, .a, 0, by decide⟩,
   ⟨upW (fun b => b.setF .a F.ADM_STAT_PHASE 5), .a, 0, 0, 1, by decide, by decide, by decide, by decide⟩,
   ⟨up, .a, 0, by decide, by decide⟩,
   ⟨upW (fun b => (b.setF .a F.ADM_STAT_PHASE 5).setF .a F.CMP_SPARE_SFAIL 15), .a, 0, by decide, by decide, by decide⟩⟩

theorem witness_PwmRowsComplete :
    (∃ (s : State) (h : HalfId) (u : Fin 16), (s.blk.f h F.PWM_PER_PER u < 4 ∨ s.blk.f h F.PWM_PER_PER u ≤ s.blk.f h F.PWM_INIT_INIT u) ∧ (s.blk.powered .PWM_CTRL h = true)) ∧
    (∃ (s : State) (h : HalfId) (u : Fin 16), (4 ≤ s.blk.f h F.PWM_PER_PER u) ∧ (s.blk.f h F.PWM_INIT_INIT u < s.blk.f h F.PWM_PER_PER u) ∧ (s.blk.on h F.PWM_CTRL_EN u = false) ∧ (s.blk.on h F.PWM_CTRL_GSYNC u = false) ∧ (s.blk.powered .PWM_CTRL h = true)) ∧
    (∃ (s : State) (h : HalfId) (u : Fin 16), (4 ≤ s.blk.f h F.PWM_PER_PER u) ∧ (s.blk.f h F.PWM_INIT_INIT u < s.blk.f h F.PWM_PER_PER u) ∧ (s.blk.on h F.PWM_CTRL_EN u = false) ∧ (s.blk.on h F.PWM_CTRL_GSYNC u = true) ∧ (s.blk.powered .PWM_CTRL h = true)) ∧
    (∃ (s : State) (h : HalfId) (u : Fin 16), (4 ≤ s.blk.f h F.PWM_PER_PER u) ∧ (s.blk.f h F.PWM_INIT_INIT u < s.blk.f h F.PWM_PER_PER u) ∧ (s.blk.on h F.PWM_CTRL_EN u = true) ∧ (s.blk.powered .PWM_CTRL h = true)) ∧
    (∃ (s : State) (h : HalfId) (u : Fin 16), (s.blk.powered .PWM_CTRL h = true)) ∧
    (∃ (s : State) (h : HalfId) (mask : BitVec 16), (s.blk.powered .PWM_GSTART h = true)) ∧
    (∃ (s : State) (h : HalfId) (u : Fin 16), (s.blk.on h F.PWM_CTRL_UPD u = false) ∧ ((s.blk.pwm h u).wrap = none) ∧ (s.blk.powered .PWM_LOAD h = true)) ∧
    (∃ (s : State) (h : HalfId) (u : Fin 16) (run : Nat), (s.blk.on h F.PWM_CTRL_UPD u = false) ∧ ((s.blk.pwm h u).wrap = some run) ∧ (s.blk.powered .PWM_LOAD h = true)) ∧
    (∃ (s : State) (h : HalfId) (u : Fin 16), (s.blk.on h F.PWM_CTRL_UPD u = true) ∧ (s.blk.powered .PWM_LOAD h = true)) ∧
    (∃ (s : State) (h : HalfId) (u : Fin 16) (i : Fin 7) (v : Word) (new : Word) (b : Block), (new = wd (v.toNat &&& (pwmReg i).info.rw)) ∧ (b = s.blk.setW h (pwmReg i) new u) ∧ (s.blk.on h F.PWM_CTRL_UPD u = false ∨ (s.blk.pwm h u).run = none) ∧ (s.blk.powered .PWM_PER h = true)) ∧
    (∃ (s : State) (h : HalfId) (u : Fin 16) (i : Fin 7) (v : Word) (new : Word) (b : Block) (run : Nat), (new = wd (v.toNat &&& (pwmReg i).info.rw)) ∧ (b = s.blk.setW h (pwmReg i) new u) ∧ (s.blk.on h F.PWM_CTRL_UPD u = true) ∧ ((s.blk.pwm h u).run = some run) ∧ (1 ≤ i.val ∧ i.val ≤ 4) ∧ (s.blk.powered .PWM_PER h = true)) ∧
    (∃ (s : State) (h : HalfId) (u : Fin 16) (i : Fin 7) (v : Word) (new : Word) (b : Block) (run : Nat), (new = wd (v.toNat &&& (pwmReg i).info.rw)) ∧ (b = s.blk.setW h (pwmReg i) new u) ∧ (s.blk.on h F.PWM_CTRL_UPD u = true) ∧ ((s.blk.pwm h u).run = some run) ∧ (i.val = 0) ∧ (s.blk.powered .PWM_PER h = true)) ∧
    (∃ (s : State) (h : HalfId) (u : Fin 16) (i : Fin 7) (v : Word) (new : Word) (b : Block) (run : Nat), (new = wd (v.toNat &&& (pwmReg i).info.rw)) ∧ (b = s.blk.setW h (pwmReg i) new u) ∧ (s.blk.on h F.PWM_CTRL_UPD u = true) ∧ ((s.blk.pwm h u).run = some run) ∧ (i.val = 5) ∧ (s.blk.powered .PWM_PER h = true)) ∧
    (∃ (s : State) (h : HalfId) (u : Fin 16) (i : Fin 7) (v : Word) (new : Word) (b : Block) (run : Nat), (new = wd (v.toNat &&& (pwmReg i).info.rw)) ∧ (b = s.blk.setW h (pwmReg i) new u) ∧ (s.blk.on h F.PWM_CTRL_UPD u = true) ∧ ((s.blk.pwm h u).run = some run) ∧ (i.val = 6) ∧ (s.blk.powered .PWM_PER h = true)) ∧
    (∃ (s : State) (h : HalfId) (u : Fin 16) (run : Nat) (set : PwmSet) (b : Block) (c : Block), ((s.blk.pwm h u).wrap = some run) ∧ (set = (s.blk.pwm h u).ovl.foldl (fun x o => x.overlay o.1 o.2)
        ((s.blk.pwm h u).pend.getD { (s.blk.pwm h u).act with ovr := (s.blk.pwm h u).ovr.getD (s.blk.pwm h u).act.ovr })) ∧ (b = (s.blk.pwmOverlay h u).modPwm h u (fun x => { x with
          act := set, pend := x.pend2, pend2 := none, ovr := none, wrap := none, ovl := [],
          hits := hitOrder ((s.blk.pwm h u).hits ++ set.hitsAt run 0) })) ∧ (c = (if (s.blk.pwm h u).clear ∧ s.blk.on h F.PWM_TRIP_LATCH u = false then b.pwmStages h u (64 * run)
        else if b.on h F.PWM_CTRL_CMPL u ≠ s.blk.on h F.PWM_CTRL_CMPL u then (b.pwmRemode h u (64 * run)).pwmRequest h u (64 * run)
        else b.pwmRequest h u (64 * run)))) ∧
    (∃ (s : State) (h : HalfId) (u : Fin 16), ((s.blk.pwm h u).wrap = none)) ∧
    (∃ (s : State) (h : HalfId) (u : Fin 16), ((s.blk.pwm h u).hits = [])) ∧
    (∃ (s : State) (h : HalfId) (u : Fin 16) (k : PwmHit) (rest : List PwmHit), ((s.blk.pwm h u).hits = k :: rest)) ∧
    (∃ (s : State) (h : HalfId) (u : Fin 16) (now : Nat) (e : PwmEdge) (rest : List PwmEdge), ((s.blk.pwm h u).now = some now) ∧ (leaving (s.blk.pwm h u).chA.edges = e :: rest) ∧ (e.leave ≤ now) ∧ (s.blk.pwmFrozen h = false) ∧ (s.blk.on h F.PWM_CTRL_CMPL u = false)) ∧
    (∃ (s : State) (h : HalfId) (u : Fin 16) (now : Nat) (e : PwmEdge) (rest : List PwmEdge), ((s.blk.pwm h u).now = some now) ∧ (leaving (s.blk.pwm h u).chA.edges = e :: rest) ∧ (now < e.leave ∨ s.blk.pwmFrozen h = true)) ∧
    (∃ (s : State) (h : HalfId) (u : Fin 16), ((s.blk.pwm h u).now = none ∨ leaving (s.blk.pwm h u).chA.edges = [])) ∧
    (∃ (s : State) (h : HalfId) (u : Fin 16) (now : Nat) (e : PwmEdge) (rest : List PwmEdge), ((s.blk.pwm h u).now = some now) ∧ (leaving (s.blk.pwm h u).chB.edges = e :: rest) ∧ (e.leave ≤ now) ∧ (s.blk.pwmFrozen h = false) ∧ (s.blk.on h F.PWM_CTRL_CMPL u = false)) ∧
    (∃ (s : State) (h : HalfId) (u : Fin 16) (now : Nat) (e : PwmEdge) (rest : List PwmEdge), ((s.blk.pwm h u).now = some now) ∧ (leaving (s.blk.pwm h u).chB.edges = e :: rest) ∧ (now < e.leave ∨ s.blk.pwmFrozen h = true)) ∧
    (∃ (s : State) (h : HalfId) (u : Fin 16), ((s.blk.pwm h u).now = none ∨ leaving (s.blk.pwm h u).chB.edges = [])) ∧
    (∃ (s : State) (h : HalfId) (u : Fin 16), (s.blk.on h F.PWM_CTRL_CMPL u = true)) ∧
    (∃ (s : State) (h : HalfId) (u : Fin 16) (now : Nat) (e : PwmEdge) (rest : List PwmEdge) (b : Block), ((s.blk.pwm h u).now = some now) ∧ (leaving (s.blk.pwm h u).chA.edges = e :: rest) ∧ (e.leave ≤ now) ∧ (s.blk.pwmFrozen h = false) ∧ (s.blk.on h F.PWM_CTRL_CMPL u = true) ∧ (b = s.blk.modPwm h u (fun x => { x with chA := { (s.blk.pwm h u).chA with edges := rest, out := some e.level } })) ∧ ((s.blk.pwm h u).chA.out ≠ some e.level) ∧ ((s.blk.pwm h u).refAt = none)) ∧
    (∃ (s : State) (h : HalfId) (u : Fin 16) (now : Nat) (e : PwmEdge) (rest : List PwmEdge) (b : Block) (t : Nat), ((s.blk.pwm h u).now = some now) ∧ (leaving (s.blk.pwm h u).chA.edges = e :: rest) ∧ (e.leave ≤ now) ∧ (s.blk.pwmFrozen h = false) ∧ (s.blk.on h F.PWM_CTRL_CMPL u = true) ∧ (b = s.blk.modPwm h u (fun x => { x with chA := { (s.blk.pwm h u).chA with edges := rest, out := some e.level } })) ∧ ((s.blk.pwm h u).chA.out ≠ some e.level) ∧ ((s.blk.pwm h u).refAt = some t)) ∧
    (∃ (s : State) (h : HalfId) (u : Fin 16) (now : Nat) (e : PwmEdge) (rest : List PwmEdge) (b : Block), ((s.blk.pwm h u).now = some now) ∧ (leaving (s.blk.pwm h u).chA.edges = e :: rest) ∧ (e.leave ≤ now) ∧ (s.blk.pwmFrozen h = false) ∧ (s.blk.on h F.PWM_CTRL_CMPL u = true) ∧ (b = s.blk.modPwm h u (fun x => { x with chA := { (s.blk.pwm h u).chA with edges := rest, out := some e.level } })) ∧ ((s.blk.pwm h u).chA.out = some e.level)) ∧
    (∃ (s : State) (h : HalfId) (u : Fin 16) (now : Nat) (t : Nat), ((s.blk.pwm h u).now = some now) ∧ ((s.blk.pwm h u).dtA = some t) ∧ (t ≤ now) ∧ (s.blk.pwmFrozen h = false)) ∧
    (∃ (s : State) (h : HalfId) (u : Fin 16) (now : Nat) (t : Nat), ((s.blk.pwm h u).now = some now) ∧ ((s.blk.pwm h u).dtA = some t) ∧ (now < t ∨ s.blk.pwmFrozen h = true)) ∧
    (∃ (s : State) (h : HalfId) (u : Fin 16), ((s.blk.pwm h u).now = none ∨ (s.blk.pwm h u).dtA = none)) ∧
    (∃ (s : State) (h : HalfId) (u : Fin 16) (now : Nat) (t : Nat), ((s.blk.pwm h u).now = some now) ∧ ((s.blk.pwm h u).dtB = some t) ∧ (t ≤ now) ∧ (s.blk.pwmFrozen h = false)) ∧
    (∃ (s : State) (h : HalfId) (u : Fin 16) (now : Nat) (t : Nat), ((s.blk.pwm h u).now = some now) ∧ ((s.blk.pwm h u).dtB = some t) ∧ (now < t ∨ s.blk.pwmFrozen h = true)) ∧
    (∃ (s : State) (h : HalfId) (u : Fin 16), ((s.blk.pwm h u).now = none ∨ (s.blk.pwm h u).dtB = none)) ∧
    (∃ (s : State) (h : HalfId) (u : Fin 16) (run : Nat) (t : Nat), ((s.blk.pwm h u).run = some run) ∧ ((s.blk.pwm h u).riseAt = some t) ∧ ((s.blk.pwm h u).refAt = none) ∧ (s.blk.on h F.PWM_BS_EN u = true) ∧ (s.blk.on h F.PWM_CTRL_CMPL u = true) ∧ (s.blk.pwmFrozen h = false) ∧ (100 * t + 99 * (s.blk.f h F.PWM_BS_BSMAX u * 12800) ≤ 100 * (64 * run))) ∧
    (∃ (s : State) (h : HalfId) (u : Fin 16), ((s.blk.pwm h u).run = none ∨ (s.blk.pwm h u).riseAt = none ∨ (s.blk.pwm h u).refAt ≠ none ∨ s.blk.on h F.PWM_BS_EN u = false ∨ s.blk.on h F.PWM_CTRL_CMPL u = false ∨
        s.blk.pwmFrozen h = true)) ∧
    (∃ (s : State) (h : HalfId) (u : Fin 16) (run : Nat) (t : Nat), ((s.blk.pwm h u).run = some run) ∧ ((s.blk.pwm h u).refAt = some t) ∧ (t + s.blk.f h F.PWM_BS_BSW u ≤ run) ∧ (s.blk.pwmFrozen h = false)) ∧
    (∃ (s : State) (h : HalfId) (u : Fin 16), ((s.blk.pwm h u).run = none ∨ (s.blk.pwm h u).refAt = none ∨ s.blk.pwmFrozen h = true)) ∧
    (∃ (s : State) (h : HalfId) (u : Fin 16), (s.blk.pwmLines h u = 0 ∨ s.blk.on h F.PWM_TRIP_LATCH u = true)) ∧
    (∃ (s : State) (h : HalfId) (u : Fin 16), (s.blk.pwmLines h u ≠ 0) ∧ (s.blk.on h F.PWM_TRIP_LATCH u = false)) ∧
    (∃ (s : State) (h : HalfId) (u : Fin 16), (s.blk.on h F.PWM_TRIP_LATCH u = true) ∧ (s.blk.powered .PWM_TRIP h = true)) ∧
    (∃ (s : State) (h : HalfId) (u : Fin 16) (b : Block), (s.blk.on h F.PWM_TRIP_LATCH u = false) ∧ (b = ((s.blk.setF h F.PWM_TRIP_LATCH 1 u).setF h F.PWM_TRIP_LINES (s.blk.pwmLines h u) u).setF h F.PWM_TRIP_SW 1 u) ∧ (s.blk.powered .PWM_TRIP h = true)) ∧
    (∃ (s : State) (h : HalfId) (u : Fin 16), (s.blk.on h F.PWM_TRIP_LATCH u = true) ∧ (s.blk.pwmLines h u = 0) ∧ (s.blk.powered .PWM_TRIP h = true)) ∧
    (∃ (s : State) (h : HalfId) (u : Fin 16), (s.blk.on h F.PWM_TRIP_LATCH u = true) ∧ (s.blk.pwmLines h u ≠ 0) ∧ (s.blk.powered .PWM_TRIP h = true)) ∧
    (∃ (s : State) (h : HalfId) (u : Fin 16), (s.blk.on h F.PWM_TRIP_LATCH u = false) ∧ (s.blk.powered .PWM_TRIP h = true)) ∧
    (∃ (s : State) (h : HalfId) (v : Nat), (v = bitOf (decide (2 ≤ s.blk.rung h)))) :=
  ⟨⟨up, .a, 0, by decide, by decide⟩,
   ⟨upW (fun b => b.setF .a F.PWM_PER_PER 8 0), .a, 0, by decide, by decide, by decide, by decide, by decide⟩,
   ⟨upW (fun b => (b.setF .a F.PWM_PER_PER 8 0).setF .a F.PWM_CTRL_GSYNC 1 0), .a, 0, by decide, by decide, by decide, by decide, by decide⟩,
   ⟨upW (fun b => (b.setF .a F.PWM_PER_PER 8 0).setF .a F.PWM_CTRL_EN 1 0), .a, 0, by decide, by decide, by decide, by decide⟩,
   ⟨up, .a, 0, by decide⟩,
   ⟨up, .a, 0, by decide⟩,
   ⟨up, .a, 0, by decide, by decide, by decide⟩,
   ⟨upW (fun b => b.modPwm .a 0 fun x => { x with wrap := some 0 }), .a, 0, 0, by decide, by decide, by decide⟩,
   ⟨upW (fun b => b.setF .a F.PWM_CTRL_UPD 1 0), .a, 0, by decide, by decide⟩,
   ⟨up, .a, 0, 1, 7, _, _, rfl, rfl, by decide, by decide⟩,
   ⟨upW (fun b => (b.setF .a F.PWM_CTRL_UPD 1 0).modPwm .a 0 fun x => { x with run := some 0 }), .a, 0, 1, 7, _, _, 0, rfl, rfl, by decide, by decide, by decide, by decide⟩,
   ⟨upW (fun b => (b.setF .a F.PWM_CTRL_UPD 1 0).modPwm .a 0 fun x => { x with run := some 0 }), .a, 0, 0, 7, _, _, 0, rfl, rfl, by decide, by decide, by decide, by decide⟩,
   ⟨upW (fun b => (b.setF .a F.PWM_CTRL_UPD 1 0).modPwm .a 0 fun x => { x with run := some 0 }), .a, 0, 5, 7, _, _, 0, rfl, rfl, by decide, by decide, by decide, by decide⟩,
   ⟨upW (fun b => (b.setF .a F.PWM_CTRL_UPD 1 0).modPwm .a 0 fun x => { x with run := some 0 }), .a, 0, 6, 7, _, _, 0, rfl, rfl, by decide, by decide, by decide, by decide⟩,
   ⟨upW (fun b => (b.setF .a F.PWM_CTRL_EN 1 0).modPwm .a 0 fun x => { x with wrap := some 0, pend := some x.act }), .a, 0, 0, _, _, _, by decide, rfl, rfl, rfl⟩,
   ⟨up, .a, 0, by decide⟩,
   ⟨up, .a, 0, by decide⟩,
   ⟨upW (fun b => b.modPwm .a 0 fun x => { x with hits := [⟨0, 0⟩] }), .a, 0, ⟨0, 0⟩, [], by decide⟩,
   ⟨upW (fun b => (b).modPwm .a 0 fun x => { x with run := some 0, chA := ⟨true, [⟨0, 0, true, false, false⟩], none⟩ }), .a, 0, 63, ⟨0, 0, true, false, false⟩, [], by decide, by decide, by decide, by decide, by decide⟩,
   ⟨upW (fun b => (b.setF .a F.PWM_GFRZ_FRZ 1).modPwm .a 0 fun x => { x with run := some 0, chA := ⟨true, [⟨0, 0, true, false, false⟩], none⟩ }), .a, 0, 63, ⟨0, 0, true, false, false⟩, [], by decide, by decide, by decide⟩,
   ⟨up, .a, 0, by decide⟩,
   ⟨upW (fun b => (b).modPwm .a 0 fun x => { x with run := some 0, chB := ⟨true, [⟨0, 0, true, false, false⟩], none⟩ }), .a, 0, 63, ⟨0, 0, true, false, false⟩, [], by decide, by decide, by decide, by decide, by decide⟩,
   ⟨upW (fun b => (b.setF .a F.PWM_GFRZ_FRZ 1).modPwm .a 0 fun x => { x with run := some 0, chB := ⟨true, [⟨0, 0, true, false, false⟩], none⟩ }), .a, 0, 63, ⟨0, 0, true, false, false⟩, [], by decide, by decide, by decide⟩,
   ⟨up, .a, 0, by decide⟩,
   ⟨upW (fun b => b.setF .a F.PWM_CTRL_CMPL 1 0), .a, 0, by decide⟩,
   ⟨upW (fun b => (b.setF .a F.PWM_CTRL_CMPL 1 0).modPwm .a 0 fun x => { x with run := some 0, chA := ⟨true, [⟨0, 0, true, false, false⟩], none⟩ }), .a, 0, 63, ⟨0, 0, true, false, false⟩, [], _, by decide, by decide, by decide, by decide, by decide, rfl, by decide, by decide⟩,
   ⟨upW (fun b => (b.setF .a F.PWM_CTRL_CMPL 1 0).modPwm .a 0 fun x => { x with run := some 0, chA := ⟨true, [⟨0, 0, true, false, false⟩], none⟩, refAt := some 0 }), .a, 0, 63, ⟨0, 0, true, false, false⟩, [], _, 0, by decide, by decide, by decide, by decide, by decide, rfl, by decide, by decide⟩,
   ⟨upW (fun b => (b.setF .a F.PWM_CTRL_CMPL 1 0).modPwm .a 0 fun x => { x with run := some 0, chA := ⟨true, [⟨0, 0, true, false, false⟩], some true⟩ }), .a, 0, 63, ⟨0, 0, true, false, false⟩, [], _, by decide, by decide, by decide, by decide, by decide, rfl, by decide⟩,
   ⟨upW (fun b => b.modPwm .a 0 fun x => { x with run := some 0, dtA := some 5 }), .a, 0, 63, 5, by decide, by decide, by decide, by decide⟩,
   ⟨upW (fun b => b.modPwm .a 0 fun x => { x with run := some 0, dtA := some 500 }), .a, 0, 63, 500, by decide, by decide, by decide⟩,
   ⟨up, .a, 0, by decide⟩,
   ⟨upW (fun b => b.modPwm .a 0 fun x => { x with run := some 0, dtB := some 5 }), .a, 0, 63, 5, by decide, by decide, by decide, by decide⟩,
   ⟨upW (fun b => b.modPwm .a 0 fun x => { x with run := some 0, dtB := some 500 }), .a, 0, 63, 500, by decide, by decide, by decide⟩,
   ⟨up, .a, 0, by decide⟩,
   ⟨upW (fun b => ((b.setF .a F.PWM_CTRL_CMPL 1 0).setF .a F.PWM_BS_EN 1 0).modPwm .a 0 fun x => { x with run := some 999000, riseAt := some 0 }), .a, 0, 999000, 0, by decide, by decide, by decide, by decide, by decide, by decide, by decide⟩,
   ⟨up, .a, 0, by decide⟩,
   ⟨upW (fun b => b.modPwm .a 0 fun x => { x with run := some 9000, refAt := some 0 }), .a, 0, 9000, 0, by decide, by decide, by decide, by decide⟩,
   ⟨up, .a, 0, by decide⟩,
   ⟨up, .a, 0, by decide⟩,
   ⟨upW (fun b => (b.setF .a F.PWM_TRIP_TMASK 1 0).setW .a .CMP_TLSTAT 1), .a, 0, by decide, by decide⟩,
   ⟨upW (fun b => b.setF .a F.PWM_TRIP_LATCH 1 0), .a, 0, by decide, by decide⟩,
   ⟨up, .a, 0, _, by decide, rfl, by decide⟩,
   ⟨upW (fun b => b.setF .a F.PWM_TRIP_LATCH 1 0), .a, 0, by decide, by decide, by decide⟩,
   ⟨upW (fun b => ((b.setF .a F.PWM_TRIP_LATCH 1 0).setF .a F.PWM_TRIP_TMASK 1 0).setW .a .CMP_TLSTAT 1), .a, 0, by decide, by decide, by decide⟩,
   ⟨up, .a, 0, by decide, by decide⟩,
   ⟨up, .a, _, rfl⟩⟩

theorem witness_TimerRowsComplete :
    (∃ (s : State) (k : Fin 16) (b : Block) (c : Block) (d : Block), ((s.blk.tmr1 k).hit = true) ∧ (s.blk.tmrHigh k = false) ∧ (b = (s.blk.modTmr k fun y => { y with hit := false }).setF .a F.TMR_EVT_MATCH 1 k) ∧ (c = (if s.blk.on .a F.TMR_CFG_ONESHOT k then ((b.setF .a F.TMR_STAT_RUN 0 k).setF .a F.TMR_STAT_DONE 1 k).modTmr k fun y => { y with stopped := true }
        else b)) ∧ (d = (if s.blk.f .a F.TMR_CFG_OUTM k = 2 then c.setF .a F.TMR_STAT_OUT (bitOf !(s.blk.on .a F.TMR_STAT_OUT k)) k else c.tmrOut k).tmrLink k
        (s.blk.f .a F.TMR_CFG_MLNK k))) ∧
    (∃ (s : State) (k : Fin 16), ((s.blk.tmr1 k).hit = false ∨ s.blk.tmrHigh k = true)) ∧
    (∃ (s : State) (k : Fin 16), ((s.blk.tmr1 k).ovf = true) ∧ (s.blk.tmrHigh k = false)) ∧
    (∃ (s : State) (k : Fin 16), ((s.blk.tmr1 k).ovf = false ∨ s.blk.tmrHigh k = true)) ∧
    (∃ (s : State) (k : Fin 16), ((s.blk.tmr1 k).acts.1 = 0)) ∧
    (∃ (s : State) (k : Fin 16) (act : Nat) (b : Block), ((s.blk.tmr1 k).acts.1 = act) ∧ (act ≠ 0) ∧ (b = s.blk.modTmr k (fun y => { y with acts := (0, y.acts.2) })) ∧ (s.blk.tmrHigh k = true)) ∧
    (∃ (s : State) (k : Fin 16) (act : Nat) (b : Block), ((s.blk.tmr1 k).acts.1 = act) ∧ (act ≠ 0) ∧ (b = s.blk.modTmr k (fun y => { y with acts := (0, y.acts.2) })) ∧ (s.blk.tmrHigh k = false) ∧ (s.blk.tmrEnded k = true)) ∧
    (∃ (s : State) (k : Fin 16) (act : Nat) (b : Block) (c : Block), ((s.blk.tmr1 k).acts.1 = act) ∧ (act ≠ 0) ∧ (b = s.blk.modTmr k (fun y => { y with acts := (0, y.acts.2) })) ∧ (s.blk.tmrHigh k = false) ∧ (s.blk.tmrEnded k = false) ∧ (c = (if 2 ≤ act then b.setTmrCount k 0 else b))) ∧
    (∃ (s : State) (h : HalfId) (k : Fin 16), (s.blk.ownsTmr h k = true) ∧ (s.blk.tmrHigh k = false)) ∧
    (∃ (s : State) (h : HalfId) (k : Fin 16), (s.blk.ownsTmr h k = true) ∧ (s.blk.tmrHigh k = false)) ∧
    (∃ (s : State) (h : HalfId) (k : Fin 16), (s.blk.ownsTmr h k = true) ∧ (s.blk.tmrHigh k = false)) ∧
    (∃ (s : State) (h : HalfId) (k : Fin 16), (s.blk.ownsTmr h k = true) ∧ (s.blk.tmrHigh k = false) ∧ ((s.blk.tmr1 k).hit = false ∨ s.blk.on .a F.TMR_CFG_ONESHOT k = false)) ∧
    (∃ (s : State) (h : HalfId) (k : Fin 16) (b : Block), (s.blk.ownsTmr h k = true) ∧ (s.blk.tmrHigh k = false) ∧ ((s.blk.tmr1 k).hit = true) ∧ (s.blk.on .a F.TMR_CFG_ONESHOT k = true) ∧ (b = timerMatch k s.blk)) ∧
    (∃ (s : State) (h : HalfId) (k : Fin 16), (s.blk.ownsTmr h k = true) ∧ (s.blk.tmrHigh k = true)) ∧
    (∃ (s : State) (h : HalfId) (k : Fin 16), (s.blk.ownsTmr h k = true) ∧ (s.blk.tmrHigh k = true)) ∧
    (∃ (s : State) (h : HalfId) (k : Fin 16), (s.blk.ownsTmr h k = true) ∧ (s.blk.tmrHigh k = true)) ∧
    (∃ (s : State) (h : HalfId) (k : Fin 16), (s.blk.ownsTmr h k = true) ∧ (s.blk.tmrHigh k = true)) ∧
    (∃ (s : State) (h : HalfId) (k : Fin 16), (s.blk.ownsTmr h k = false)) ∧
    (∃ (s : State) (h : HalfId) (k : Fin 16) (v : Word) (n : Nat), (s.blk.ownsTmr h k = true) ∧ (s.blk.tmrHigh k = false) ∧ (n = (if s.blk.tmrPair k then v.toNat + (s.blk.w .a .TMR_CMP (k + 1)).toNat * 2 ^ 24 else v.toNat))) ∧
    (∃ (s : State) (h : HalfId) (k : Fin 16) (v : Word), (s.blk.ownsTmr h k = true) ∧ (s.blk.tmrHigh k = true)) ∧
    (∃ (s : State) (h : HalfId) (k : Fin 16) (v : Word), (s.blk.ownsTmr h k = false)) ∧
    (∃ (s : State) (k : Fin 16) (n : Nat) (b : Block), ((s.blk.tmr1 k).cap = true) ∧ (s.blk.on .a F.TMR_CFG_CAPEN k = true) ∧ (s.blk.tmrHigh k = false) ∧ (n = (s.blk.w .a .TMR_CNT k).toNat) ∧ (b = s.blk.setW .a .TMR_CAP (wd (if s.blk.on .a F.TMR_STAT_RUN k then n + 2 ^ 24 - 2 else n)) k)) ∧
    (∃ (s : State) (k : Fin 16), ((s.blk.tmr1 k).cap = false ∨ s.blk.on .a F.TMR_CFG_CAPEN k = false ∨ s.blk.tmrHigh k = true)) ∧
    (∃ (s : State) (k : Fin 16), (s.blk.tmrPair k = true)) ∧
    (∃ (s : State) (k : Fin 16), (s.blk.tmrPair k = false)) ∧
    (∃ (s : State) (h : HalfId) (high : Bool) (v : Word) (r : Reg) (b : Block), (s.blk.holdsHelm h = true) ∧ (r = (if high then Reg.TMR_OWNH else Reg.TMR_OWNL)) ∧ (b = s.blk.setW .a r (wd (v.toNat &&& r.info.rw))) ∧ (∀ k : Fin 16, s.blk.tmrRuns k = true → b.tmrOwner k = s.blk.tmrOwner k)) ∧
    (∃ (s : State) (h : HalfId) (high : Bool) (v : Word) (r : Reg) (b : Block) (k : Fin 16), (r = (if high then Reg.TMR_OWNH else Reg.TMR_OWNL)) ∧ (b = s.blk.setW .a r (wd (v.toNat &&& r.info.rw))) ∧ (s.blk.holdsHelm h = false ∨ s.blk.tmrRuns k = true ∧ b.tmrOwner k ≠ s.blk.tmrOwner k)) :=
  ⟨⟨upW (fun b => (b.setF .a F.TMR_CFG_ONESHOT 1 0).modTmr 0 fun y => { y with hit := true }), 0, _, _, _, by decide, by decide, rfl, rfl, rfl⟩,
   ⟨up, 0, by decide⟩,
   ⟨upW (fun b => b.modTmr 0 fun y => { y with ovf := true }), 0, by decide, by decide⟩,
   ⟨up, 0, by decide⟩,
   ⟨up, 0, by decide⟩,
   ⟨upW (fun b => (b.setF .a F.TMR_CFG_LINK 1 0).modTmr 1 fun y => { y with acts := (1, 0) }), 1, 1, _, by decide, by decide, rfl, by decide⟩,
   ⟨upW (fun b => (b.setF .a F.TMR_STAT_DONE 1 0).modTmr 0 fun y => { y with acts := (1, 0) }), 0, 1, _, by decide, by decide, rfl, by decide, by decide⟩,
   ⟨upW (fun b => b.modTmr 0 fun y => { y with acts := (2, 0) }), 0, 2, _, _, by decide, by decide, rfl, by decide, by decide, rfl⟩,
   ⟨upW (fun b => b.setW .a .TMR_OWNL 1), .a, 0, by decide, by decide⟩,
   ⟨upW (fun b => b.setW .a .TMR_OWNL 1), .a, 0, by decide, by decide⟩,
   ⟨upW (fun b => b.setW .a .TMR_OWNL 1), .a, 0, by decide, by decide⟩,
   ⟨upW (fun b => b.setW .a .TMR_OWNL 1), .a, 0, by decide, by decide, by decide⟩,
   ⟨upW (fun b => ((b.setW .a .TMR_OWNL 1).setF .a F.TMR_CFG_ONESHOT 1 0).modTmr 0 fun y => { y with hit := true }), .a, 0, _, by decide, by decide, by decide, by decide, rfl⟩,
   ⟨upW (fun b => (b.setW .a .TMR_OWNL 5).setF .a F.TMR_CFG_LINK 1 0), .a, 1, by decide, by decide⟩,
   ⟨upW (fun b => (b.setW .a .TMR_OWNL 5).setF .a F.TMR_CFG_LINK 1 0), .a, 1, by decide, by decide⟩,
   ⟨upW (fun b => (b.setW .a .TMR_OWNL 5).setF .a F.TMR_CFG_LINK 1 0), .a, 1, by decide, by decide⟩,
   ⟨upW (fun b => (b.setW .a .TMR_OWNL 5).setF .a F.TMR_CFG_LINK 1 0), .a, 1, by decide, by decide⟩,
   ⟨up, .a, 0, by decide⟩,
   ⟨upW (fun b => b.setW .a .TMR_OWNL 1), .a, 0, 9, _, by decide, by decide, rfl⟩,
   ⟨upW (fun b => (b.setW .a .TMR_OWNL 5).setF .a F.TMR_CFG_LINK 1 0), .a, 1, 9, by decide, by decide⟩,
   ⟨up, .a, 0, 9, by decide⟩,
   ⟨upW (fun b => ((b.setF .a F.TMR_CFG_CAPEN 1 0).setF .a F.TMR_STAT_RUN 1 0).modTmr 0 fun y => { y with cap := true }), 0, _, _, by decide, by decide, by decide, rfl, rfl⟩,
   ⟨up, 0, by decide⟩,
   ⟨upW (fun b => b.setF .a F.TMR_CFG_LINK 1 0), 0, by decide⟩,
   ⟨up, 0, by decide⟩,
   ⟨up, .a, false, 1, _, _, by decide, rfl, rfl, by decide⟩,
   ⟨up, .b, false, 1, _, _, 0, rfl, rfl, by decide⟩⟩

theorem witness_EngineInstructionsComplete :
    (∃ (s : State) (h : HalfId) (e : Fin 8) (w : Nat), (s.blk.peReady h e 0 = true) ∧ (w = s.blk.peWord h e)) ∧
    (∃ (s : State) (h : HalfId) (e : Fin 8) (w : Nat) (pins : BitVec 4), (s.blk.peReady h e 1 = true) ∧ (w = s.blk.peWord h e)) ∧
    (∃ (s : State) (h : HalfId) (e : Fin 8) (w : Nat), (s.blk.peReady h e 2 = true) ∧ (w = s.blk.peWord h e)) ∧
    (∃ (s : State) (h : HalfId) (e : Fin 8) (w : Nat), (s.blk.peReady h e 3 = true) ∧ (w = s.blk.peWord h e)) ∧
    (∃ (s : State) (h : HalfId) (e : Fin 8) (w : Nat), (s.blk.peReady h e 4 = true) ∧ (w = s.blk.peWord h e)) ∧
    (∃ (s : State) (h : HalfId) (e : Fin 8) (w : Nat) (pins : BitVec 4), (s.blk.peReady h e 5 = true) ∧ (w = s.blk.peWord h e)) ∧
    (∃ (s : State) (h : HalfId) (e : Fin 8) (w : Nat), (s.blk.peReady h e 6 = true) ∧ (w = s.blk.peWord h e) ∧ (bits w 11 10 = 0)) ∧
    (∃ (s : State) (h : HalfId) (e : Fin 8) (w : Nat), (s.blk.peReady h e 6 = true) ∧ (w = s.blk.peWord h e) ∧ (bits w 11 10 = 1)) ∧
    (∃ (s : State) (h : HalfId) (e : Fin 8) (w : Nat), (s.blk.peReady h e 6 = true) ∧ (w = s.blk.peWord h e) ∧ (bits w 11 10 = 2)) ∧
    (∃ (s : State) (h : HalfId) (e : Fin 8) (w : Nat), (s.blk.peReady h e 6 = true) ∧ (w = s.blk.peWord h e) ∧ (bits w 11 10 = 3)) ∧
    (∃ (s : State) (h : HalfId) (e : Fin 8) (w : Nat) (d : Nat) (late : Bool), (s.blk.peReady h e 7 = true) ∧ (w = s.blk.peWord h e) ∧ (d = fwd (2 ^ 48) (s.blk.half h).tsc (s.blk.pe h e).t) ∧ (late = decide (d < 2 ∨ 2 ^ 48 - 2 ^ 46 < d))) ∧
    (∃ (s : State) (h : HalfId) (e : Fin 8) (w : Nat) (pins : BitVec 4), (s.blk.peReady h e 8 = true) ∧ (w = s.blk.peWord h e) ∧ (bits pins.toNat (bits w 1 0) (bits w 1 0) = bits w 2 2) ∧ (bits w 3 3 = 0)) ∧
    (∃ (s : State) (h : HalfId) (e : Fin 8) (w : Nat) (pins : BitVec 4), (s.blk.peReady h e 8 = true) ∧ (w = s.blk.peWord h e) ∧ (bits pins.toNat (bits w 1 0) (bits w 1 0) ≠ bits w 2 2 ∨ bits w 3 3 = 1)) ∧
    (∃ (s : State) (h : HalfId) (e : Fin 8) (w : Nat), (s.blk.peReady h e 9 = true) ∧ (w = s.blk.peWord h e) ∧ (s.blk.flagAtStart h (bits w 3 0) = (bits w 4 4 == 1)) ∧ (bits w 5 5 = 0 ∨ bits w 4 4 = 0)) ∧
    (∃ (s : State) (h : HalfId) (e : Fin 8) (w : Nat) (b : Block), (s.blk.peReady h e 9 = true) ∧ (w = s.blk.peWord h e) ∧ (s.blk.flagAtStart h (bits w 3 0) = (bits w 4 4 == 1)) ∧ (bits w 4 4 = 1) ∧ (bits w 5 5 = 1) ∧ ((s.blk.flagClk h).consumed.contains (bits w 3 0) = false) ∧ (s.blk.lowerConsumes h e (bits w 3 0) = false) ∧ (b = s.blk.writeFlag h e (bits w 3 0) false)) ∧
    (∃ (s : State) (h : HalfId) (e : Fin 8) (w : Nat), (s.blk.peReady h e 9 = true) ∧ (w = s.blk.peWord h e) ∧ (s.blk.flagAtStart h (bits w 3 0) = (bits w 4 4 == 1)) ∧ (bits w 4 4 = 1) ∧ (bits w 5 5 = 1) ∧ ((s.blk.flagClk h).consumed.contains (bits w 3 0) = true ∨ s.blk.lowerConsumes h e (bits w 3 0) = true)) ∧
    (∃ (s : State) (h : HalfId) (e : Fin 8) (w : Nat), (s.blk.peReady h e 9 = true) ∧ (w = s.blk.peWord h e) ∧ (s.blk.flagAtStart h (bits w 3 0) ≠ (bits w 4 4 == 1))) ∧
    (∃ (s : State) (h : HalfId) (e : Fin 8) (w : Nat), (s.blk.peReady h e 10 = true) ∧ (w = s.blk.peWord h e) ∧ (bits w 11 10 = 0)) ∧
    (∃ (s : State) (h : HalfId) (e : Fin 8) (w : Nat), (s.blk.peReady h e 10 = true) ∧ (w = s.blk.peWord h e) ∧ (bits w 11 10 = 1)) ∧
    (∃ (s : State) (h : HalfId) (e : Fin 8) (w : Nat), (s.blk.peReady h e 10 = true) ∧ (w = s.blk.peWord h e) ∧ (bits w 11 10 = 2)) ∧
    (∃ (s : State) (h : HalfId) (e : Fin 8) (w : Nat), (s.blk.peReady h e 11 = true) ∧ (w = s.blk.peWord h e) ∧ (s.blk.on h F.PE_STAT_TRGPEND e = true)) ∧
    (∃ (s : State) (h : HalfId) (e : Fin 8) (w : Nat), (s.blk.peReady h e 11 = true) ∧ (w = s.blk.peWord h e) ∧ (s.blk.on h F.PE_STAT_TRGPEND e = false)) ∧
    (∃ (s : State) (h : HalfId) (e : Fin 8) (w : Nat) (r : Nat × Nat) (n : Nat) (sc : Nat), (s.blk.peReady h e 12 = true) ∧ (w = s.blk.peWord h e) ∧ (n = bits w 4 0) ∧ (sc = s.blk.f h F.PE_STAT_SC e) ∧ (n ≤ sc) ∧ (r = shiftOut (s.blk.on h F.PE_CFG_SHDIR e) ((s.blk.w h .PE_SR e).toNat % 2 ^ sc) sc n)) ∧
    (∃ (s : State) (h : HalfId) (e : Fin 8) (w : Nat) (n : Nat) (sc : Nat), (s.blk.peReady h e 12 = true) ∧ (w = s.blk.peWord h e) ∧ (n = bits w 4 0) ∧ (sc = s.blk.f h F.PE_STAT_SC e) ∧ (sc < n) ∧ (s.blk.on h F.PE_CFG_CHAIN e = false)) ∧
    (∃ (s : State) (h : HalfId) (e : Fin 8) (w : Nat) (n : Nat) (sc : Nat) (q : Word) (r : Nat × Nat), (s.blk.peReady h e 12 = true) ∧ (w = s.blk.peWord h e) ∧ (n = bits w 4 0) ∧ (sc = s.blk.f h F.PE_STAT_SC e) ∧ (sc < n) ∧ (s.blk.on h F.PE_CFG_CHAIN e = true) ∧ (s.blk.sqHead h e = some q) ∧ (r = shiftOut (s.blk.on h F.PE_CFG_SHDIR e) q.toNat 24 (n - sc))) ∧
    (∃ (s : State) (h : HalfId) (e : Fin 8) (w : Nat) (n : Nat) (sc : Nat), (s.blk.peReady h e 12 = true) ∧ (w = s.blk.peWord h e) ∧ (n = bits w 4 0) ∧ (sc = s.blk.f h F.PE_STAT_SC e) ∧ (sc < n) ∧ (s.blk.on h F.PE_CFG_CHAIN e = true) ∧ (s.blk.sqHead h e = none)) ∧
    (∃ (s : State) (h : HalfId) (e : Fin 8) (w : Nat) (pins : BitVec 4) (n : Nat) (sc : Nat) (b : Block) (v : Nat), (s.blk.peReady h e 13 = true) ∧ (w = s.blk.peWord h e) ∧ (n = bits w 4 0) ∧ (sc = s.blk.f h F.PE_STAT_SC e) ∧ (b = s.blk.pinsIn h e pins) ∧ (v = (match bits w 11 10 with | 0 => pins.toNat | 1 => s.blk.peReg h e false | 2 => s.blk.peReg h e true | _ => 0) % 2 ^ n) ∧ (sc + n ≤ 24)) ∧
    (∃ (s : State) (h : HalfId) (e : Fin 8) (w : Nat) (pins : BitVec 4) (n : Nat) (sc : Nat) (b : Block) (v : Nat), (s.blk.peReady h e 13 = true) ∧ (w = s.blk.peWord h e) ∧ (n = bits w 4 0) ∧ (sc = s.blk.f h F.PE_STAT_SC e) ∧ (b = s.blk.pinsIn h e pins) ∧ (v = (match bits w 11 10 with | 0 => pins.toNat | 1 => s.blk.peReg h e false | 2 => s.blk.peReg h e true | _ => 0) % 2 ^ n) ∧ (24 < sc + n) ∧ (s.blk.on h F.PE_CFG_CHAIN e = false)) ∧
    (∃ (s : State) (h : HalfId) (e : Fin 8) (w : Nat) (pins : BitVec 4) (n : Nat) (sc : Nat) (b : Block) (v : Nat) (m : Nat) (first : Nat) (other : Nat), (s.blk.peReady h e 13 = true) ∧ (w = s.blk.peWord h e) ∧ (n = bits w 4 0) ∧ (sc = s.blk.f h F.PE_STAT_SC e) ∧ (b = s.blk.pinsIn h e pins) ∧ (v = (match bits w 11 10 with | 0 => pins.toNat | 1 => s.blk.peReg h e false | 2 => s.blk.peReg h e true | _ => 0) % 2 ^ n) ∧ (24 < sc + n) ∧ (s.blk.on h F.PE_CFG_CHAIN e = true) ∧ ((s.blk.pe h e).rq.length < 12) ∧ (m = 24 - sc) ∧ (first = (if s.blk.on h F.PE_CFG_SHDIR e then v % 2 ^ m else v / 2 ^ (n - m))) ∧ (other = (if s.blk.on h F.PE_CFG_SHDIR e then v / 2 ^ m else v % 2 ^ (n - m)))) ∧
    (∃ (s : State) (h : HalfId) (e : Fin 8) (w : Nat) (pins : BitVec 4) (n : Nat) (sc : Nat) (b : Block) (v : Nat), (s.blk.peReady h e 13 = true) ∧ (w = s.blk.peWord h e) ∧ (n = bits w 4 0) ∧ (sc = s.blk.f h F.PE_STAT_SC e) ∧ (b = s.blk.pinsIn h e pins) ∧ (v = (match bits w 11 10 with | 0 => pins.toNat | 1 => s.blk.peReg h e false | 2 => s.blk.peReg h e true | _ => 0) % 2 ^ n) ∧ (24 < sc + n) ∧ (s.blk.on h F.PE_CFG_CHAIN e = true) ∧ (12 ≤ (s.blk.pe h e).rq.length)) ∧
    (∃ (s : State) (h : HalfId) (e : Fin 8) (w : Nat) (q : Word), (s.blk.peReady h e 14 = true) ∧ (w = s.blk.peWord h e) ∧ (s.blk.sqHead h e = some q)) ∧
    (∃ (s : State) (h : HalfId) (e : Fin 8) (w : Nat), (s.blk.peReady h e 14 = true) ∧ (w = s.blk.peWord h e) ∧ (s.blk.sqHead h e = none)) ∧
    (∃ (s : State) (h : HalfId) (e : Fin 8) (w : Nat), (s.blk.peReady h e 15 = true) ∧ (w = s.blk.peWord h e) ∧ ((s.blk.pe h e).rq.length < 12)) ∧
    (∃ (s : State) (h : HalfId) (e : Fin 8) (w : Nat), (s.blk.peReady h e 15 = true) ∧ (w = s.blk.peWord h e) ∧ (12 ≤ (s.blk.pe h e).rq.length)) ∧
    (∃ (s : State) (h : HalfId) (e : Fin 8), (s.blk.peActive h e = true) ∧ (peReserved (s.blk.peWord h e) = true)) ∧
    (∃ (s : State) (h : HalfId) (e : Fin 8), (s.blk.peActive h e = false ∨ peReserved (s.blk.peWord h e) = false)) ∧
    (∃ (s : State) (h : HalfId) (e : Fin 8), (s.blk.peReady h e 0 = false)) ∧
    (∃ (s : State) (h : HalfId) (e : Fin 8) (pins : BitVec 4), (s.blk.peReady h e 1 = false)) ∧
    (∃ (s : State) (h : HalfId) (e : Fin 8), (s.blk.peReady h e 2 = false)) ∧
    (∃ (s : State) (h : HalfId) (e : Fin 8), (s.blk.peReady h e 3 = false)) ∧
    (∃ (s : State) (h : HalfId) (e : Fin 8), (s.blk.peReady h e 4 = false)) ∧
    (∃ (s : State) (h : HalfId) (e : Fin 8) (pins : BitVec 4), (s.blk.peReady h e 5 = false)) ∧
    (∃ (s : State) (h : HalfId) (e : Fin 8), (s.blk.peReady h e 6 = false)) ∧
    (∃ (s : State) (h : HalfId) (e : Fin 8), (s.blk.peReady h e 7 = false)) ∧
    (∃ (s : State) (h : HalfId) (e : Fin 8) (pins : BitVec 4), (s.blk.peReady h e 8 = false)) ∧
    (∃ (s : State) (h : HalfId) (e : Fin 8), (s.blk.peReady h e 9 = false)) ∧
    (∃ (s : State) (h : HalfId) (e : Fin 8), (s.blk.peReady h e 10 = false)) ∧
    (∃ (s : State) (h : HalfId) (e : Fin 8), (s.blk.peReady h e 11 = false)) ∧
    (∃ (s : State) (h : HalfId) (e : Fin 8), (s.blk.peReady h e 12 = false)) ∧
    (∃ (s : State) (h : HalfId) (e : Fin 8) (pins : BitVec 4), (s.blk.peReady h e 13 = false)) ∧
    (∃ (s : State) (h : HalfId) (e : Fin 8), (s.blk.peReady h e 14 = false)) ∧
    (∃ (s : State) (h : HalfId) (e : Fin 8), (s.blk.peReady h e 15 = false)) ∧
    (∃ (s : State) (h : HalfId) (e : Fin 8) (pins : BitVec 4), (s.blk.on h F.PE_STAT_STALL e = false)) ∧
    (∃ (s : State) (h : HalfId) (e : Fin 8) (pins : BitVec 4), (s.blk.on h F.PE_STAT_STALL e = true) ∧ (s.blk.peProgram h e = false)) ∧
    (∃ (s : State) (h : HalfId) (e : Fin 8) (w : Nat) (pins : BitVec 4) (b : Block), (s.blk.peProgram h e = true) ∧ (s.blk.on h F.PE_STAT_STALL e = true) ∧ (w = s.blk.peWord h e) ∧ (b = s.blk.pinsIn h e pins) ∧ (bits w 23 20 = 7) ∧ (ticksTo (s.blk.pe h e).begun (s.blk.half h).tsc < ticksTo (s.blk.pe h e).begun (s.blk.pe h e).wake)) ∧
    (∃ (s : State) (h : HalfId) (e : Fin 8) (w : Nat) (pins : BitVec 4) (b : Block), (s.blk.peProgram h e = true) ∧ (s.blk.on h F.PE_STAT_STALL e = true) ∧ (w = s.blk.peWord h e) ∧ (b = s.blk.pinsIn h e pins) ∧ (bits w 23 20 = 7) ∧ (ticksTo (s.blk.pe h e).begun (s.blk.pe h e).wake ≤ ticksTo (s.blk.pe h e).begun (s.blk.half h).tsc)) ∧
    (∃ (s : State) (h : HalfId) (e : Fin 8) (w : Nat) (pins : BitVec 4) (b : Block), (s.blk.peProgram h e = true) ∧ (s.blk.on h F.PE_STAT_STALL e = true) ∧ (w = s.blk.peWord h e) ∧ (b = s.blk.pinsIn h e pins) ∧ (bits w 23 20 = 8) ∧ (bits pins.toNat (bits w 1 0) (bits w 1 0) = bits w 2 2) ∧ (bits (s.blk.f h F.PE_PINS_IN e) (bits w 1 0) (bits w 1 0) ≠ bits w 2 2)) ∧
    (∃ (s : State) (h : HalfId) (e : Fin 8) (w : Nat) (pins : BitVec 4) (b : Block), (s.blk.peProgram h e = true) ∧ (s.blk.on h F.PE_STAT_STALL e = true) ∧ (w = s.blk.peWord h e) ∧ (b = s.blk.pinsIn h e pins) ∧ (bits w 23 20 = 8) ∧ (bits pins.toNat (bits w 1 0) (bits w 1 0) = bits w 2 2) ∧ (bits (s.blk.f h F.PE_PINS_IN e) (bits w 1 0) (bits w 1 0) = bits w 2 2) ∧ (bits w 3 3 = 0)) ∧
    (∃ (s : State) (h : HalfId) (e : Fin 8) (w : Nat) (pins : BitVec 4) (b : Block), (s.blk.peProgram h e = true) ∧ (s.blk.on h F.PE_STAT_STALL e = true) ∧ (w = s.blk.peWord h e) ∧ (b = s.blk.pinsIn h e pins) ∧ (bits w 23 20 = 8) ∧ (bits pins.toNat (bits w 1 0) (bits w 1 0) ≠ bits w 2 2 ∨ bits (s.blk.f h F.PE_PINS_IN e) (bits w 1 0) (bits w 1 0) = bits w 2 2 ∧ bits w 3 3 = 1)) ∧
    (∃ (s : State) (h : HalfId) (e : Fin 8) (w : Nat) (pins : BitVec 4) (b : Block), (s.blk.peProgram h e = true) ∧ (s.blk.on h F.PE_STAT_STALL e = true) ∧ (w = s.blk.peWord h e) ∧ (b = s.blk.pinsIn h e pins) ∧ (bits w 23 20 = 9)) ∧
    (∃ (s : State) (h : HalfId) (e : Fin 8) (w : Nat) (pins : BitVec 4) (b : Block), (s.blk.peProgram h e = true) ∧ (s.blk.on h F.PE_STAT_STALL e = true) ∧ (w = s.blk.peWord h e) ∧ (b = s.blk.pinsIn h e pins) ∧ (bits w 23 20 = 12)) ∧
    (∃ (s : State) (h : HalfId) (e : Fin 8) (w : Nat) (pins : BitVec 4) (b : Block), (s.blk.peProgram h e = true) ∧ (s.blk.on h F.PE_STAT_STALL e = true) ∧ (w = s.blk.peWord h e) ∧ (b = s.blk.pinsIn h e pins) ∧ (bits w 23 20 = 13)) ∧
    (∃ (s : State) (h : HalfId) (e : Fin 8) (w : Nat) (pins : BitVec 4) (b : Block), (s.blk.peProgram h e = true) ∧ (s.blk.on h F.PE_STAT_STALL e = true) ∧ (w = s.blk.peWord h e) ∧ (b = s.blk.pinsIn h e pins) ∧ (bits w 23 20 = 14)) ∧
    (∃ (s : State) (h : HalfId) (e : Fin 8) (w : Nat) (pins : BitVec 4) (b : Block), (s.blk.peProgram h e = true) ∧ (s.blk.on h F.PE_STAT_STALL e = true) ∧ (w = s.blk.peWord h e) ∧ (b = s.blk.pinsIn h e pins) ∧ (bits w 23 20 = 15)) ∧
    (∃ (s : State) (h : HalfId) (e : Fin 8) (w : Nat) (pins : BitVec 4) (b : Block), (s.blk.peProgram h e = true) ∧ (s.blk.on h F.PE_STAT_STALL e = true) ∧ (w = s.blk.peWord h e) ∧ (b = s.blk.pinsIn h e pins) ∧ (bits w 23 20 = 11) ∧ (s.blk.on h F.PE_STAT_TRGPEND e = true) ∧ ((s.blk.pe h e).trgAt ≠ (s.blk.half h).tsc)) ∧
    (∃ (s : State) (h : HalfId) (e : Fin 8) (w : Nat) (pins : BitVec 4) (b : Block), (s.blk.peProgram h e = true) ∧ (s.blk.on h F.PE_STAT_STALL e = true) ∧ (w = s.blk.peWord h e) ∧ (b = s.blk.pinsIn h e pins) ∧ (bits w 23 20 = 11) ∧ (s.blk.on h F.PE_STAT_TRGPEND e = false ∨ (s.blk.pe h e).trgAt = (s.blk.half h).tsc)) :=
  ⟨⟨upPe 0x000000 (id), .a, 0, _, by decide, rfl⟩,
   ⟨upPe 0x100000 (id), .a, 0, _, 0, by decide, rfl⟩,
   ⟨upPe 0x200003 (id), .a, 0, _, by decide, rfl⟩,
   ⟨upPe 0x3007FF (id), .a, 0, _, by decide, rfl⟩,
   ⟨upPe 0x4007FF (id), .a, 0, _, by decide, rfl⟩,
   ⟨upPe 0x500170 (id), .a, 0, _, 3, by decide, rfl⟩,
   ⟨upPe 0x600000 (id), .a, 0, _, by decide, rfl, by decide⟩,
   ⟨upPe 0x600400 (id), .a, 0, _, by decide, rfl, by decide⟩,
   ⟨upPe 0x600800 (id), .a, 0, _, by decide, rfl, by decide⟩,
   ⟨upPe 0x600C05 (id), .a, 0, _, by decide, rfl, by decide⟩,
   ⟨upPe 0x700000 (fun b => b.modPe .a 0 fun x => { x with t := 500 }), .a, 0, _, _, _, by decide, rfl, rfl, rfl⟩,
   ⟨upPe 0x800000 (id), .a, 0, _, 0, by decide, rfl, by decide, by decide⟩,
   ⟨upPe 0x800004 (id), .a, 0, _, 0, by decide, rfl, by decide⟩,
   ⟨upPe 0x900000 (id), .a, 0, _, by decide, rfl, by decide, by decide⟩,
   ⟨upPe 0x900030 (fun b => (b.setF .a F.PE_FLAGS_FLAGS 1).modHalf .a fun x => { x with tsc := 5 }), .a, 0, _, _, by decide, rfl, by decide, by decide, by decide, by decide, by decide, rfl⟩,
   ⟨upPe 0x900030 (fun b => (b.setF .a F.PE_FLAGS_FLAGS 1).modHalf .a fun x => { x with flags := ⟨0, 1, [], [0]⟩ }), .a, 0, _, by decide, rfl, by decide, by decide, by decide, by decide⟩,
   ⟨upPe 0x900010 (id), .a, 0, _, by decide, rfl, by decide⟩,
   ⟨upPe 0xA00003 (id), .a, 0, _, by decide, rfl, by decide⟩,
   ⟨upPe 0xA00403 (id), .a, 0, _, by decide, rfl, by decide⟩,
   ⟨upPe 0xA00803 (id), .a, 0, _, by decide, rfl, by decide⟩,
   ⟨upPe 0xB00000 (fun b => b.setF .a F.PE_STAT_TRGPEND 1 0), .a, 0, _, by decide, rfl, by decide⟩,
   ⟨upPe 0xB00000 (id), .a, 0, _, by decide, rfl, by decide⟩,
   ⟨upPe 0xC00401 (fun b => b.setF .a F.PE_STAT_SC 8 0), .a, 0, _, _, _, _, by decide, rfl, rfl, rfl, by decide, rfl⟩,
   ⟨upPe 0xC00401 (id), .a, 0, _, _, _, by decide, rfl, rfl, rfl, by decide, by decide⟩,
   ⟨upPe 0xC00401 (fun b => (b.setF .a F.PE_CFG_CHAIN 1 0).modPe .a 0 fun x => { x with sq := [(0, 7)] }), .a, 0, _, _, _, 7, _, by decide, rfl, rfl, rfl, by decide, by decide, by decide, rfl⟩,
   ⟨upPe 0xC00401 (fun b => b.setF .a F.PE_CFG_CHAIN 1 0), .a, 0, _, _, _, by decide, rfl, rfl, rfl, by decide, by decide, by decide⟩,
   ⟨upPe 0xD00404 (id), .a, 0, _, 0, _, _, _, _, by decide, rfl, rfl, rfl, rfl, rfl, by decide⟩,
   ⟨upPe 0xD00404 (fun b => b.setF .a F.PE_STAT_SC 24 0), .a, 0, _, 0, _, _, _, _, by decide, rfl, rfl, rfl, rfl, rfl, by decide, by decide⟩,
   ⟨upPe 0xD00404 (fun b => (b.setF .a F.PE_STAT_SC 24 0).setF .a F.PE_CFG_CHAIN 1 0), .a, 0, _, 0, _, _, _, _, _, _, _, by decide, rfl, rfl, rfl, rfl, rfl, by decide, by decide, by decide, rfl, rfl, rfl⟩,
   ⟨upPe 0xD00404 (fun b => ((b.setF .a F.PE_STAT_SC 24 0).setF .a F.PE_CFG_CHAIN 1 0).modPe .a 0 fun x => { x with rq := List.replicate 12 0 }), .a, 0, _, 0, _, _, _, _, by decide, rfl, rfl, rfl, rfl, rfl, by decide, by decide, by decide⟩,
   ⟨upPe 0xE00000 (fun b => b.modPe .a 0 fun x => { x with sq := [(0, 7)] }), .a, 0, _, 7, by decide, rfl, by decide⟩,
   ⟨upPe 0xE00000 (id), .a, 0, _, by decide, rfl, by decide⟩,
   ⟨upPe 0xF00000 (id), .a, 0, _, by decide, rfl, by decide⟩,
   ⟨upPe 0xF00000 (fun b => b.modPe .a 0 fun x => { x with rq := List.replicate 12 0 }), .a, 0, _, by decide, rfl, by decide⟩,
   ⟨upPe 0x000001 id, .a, 0, by decide, by decide⟩,
   ⟨up, .a, 0, by decide⟩,
   ⟨up, .a, 0, by decide⟩,
   ⟨up, .a, 0, 3, by decide⟩,
   ⟨up, .a, 0, by decide⟩,
   ⟨up, .a, 0, by decide⟩,
   ⟨up, .a, 0, by decide⟩,
   ⟨up, .a, 0, 3, by decide⟩,
   ⟨up, .a, 0, by decide⟩,
   ⟨up, .a, 0, by decide⟩,
   ⟨up, .a, 0, 3, by decide⟩,
   ⟨up, .a, 0, by decide⟩,
   ⟨up, .a, 0, by decide⟩,
   ⟨up, .a, 0, by decide⟩,
   ⟨up, .a, 0, by decide⟩,
   ⟨up, .a, 0, 3, by decide⟩,
   ⟨up, .a, 0, by decide⟩,
   ⟨up, .a, 0, by decide⟩,
   ⟨up, .a, 0, 3, by decide⟩,
   ⟨upW (fun b => b.setF .a F.PE_STAT_STALL 1 0), .a, 0, 3, by decide, by decide⟩,
   ⟨upPe 0x700000 (fun b => (fun b => b.modPe .a 0 fun x => { x with wake := 9 } : Block → Block) (b.setF .a F.PE_STAT_STALL 1 0)), .a, 0, _, 0, _, by decide, by decide, rfl, rfl, by decide, by decide⟩,
   ⟨upPe 0x700000 (fun b => (id : Block → Block) (b.setF .a F.PE_STAT_STALL 1 0)), .a, 0, _, 0, _, by decide, by decide, rfl, rfl, by decide, by decide⟩,
   ⟨upPe 0x800000 (fun b => (fun b => b.setF .a F.PE_PINS_IN 1 0 : Block → Block) (b.setF .a F.PE_STAT_STALL 1 0)), .a, 0, _, 0, _, by decide, by decide, rfl, rfl, by decide, by decide, by decide⟩,
   ⟨upPe 0x800000 (fun b => (id : Block → Block) (b.setF .a F.PE_STAT_STALL 1 0)), .a, 0, _, 0, _, by decide, by decide, rfl, rfl, by decide, by decide, by decide, by decide⟩,
   ⟨upPe 0x800008 (fun b => (id : Block → Block) (b.setF .a F.PE_STAT_STALL 1 0)), .a, 0, _, 0, _, by decide, by decide, rfl, rfl, by decide, by decide⟩,
   ⟨upPe 0x900001 (fun b => (id : Block → Block) (b.setF .a F.PE_STAT_STALL 1 0)), .a, 0, _, 0, _, by decide, by decide, rfl, rfl, by decide⟩,
   ⟨upPe 0xC00001 (fun b => (id : Block → Block) (b.setF .a F.PE_STAT_STALL 1 0)), .a, 0, _, 0, _, by decide, by decide, rfl, rfl, by decide⟩,
   ⟨upPe 0xD00001 (fun b => (id : Block → Block) (b.setF .a F.PE_STAT_STALL 1 0)), .a, 0, _, 0, _, by decide, by decide, rfl, rfl, by decide⟩,
   ⟨upPe 0xE00001 (fun b => (id : Block → Block) (b.setF .a F.PE_STAT_STALL 1 0)), .a, 0, _, 0, _, by decide, by decide, rfl, rfl, by decide⟩,
   ⟨upPe 0xF00001 (fun b => (id : Block → Block) (b.setF .a F.PE_STAT_STALL 1 0)), .a, 0, _, 0, _, by decide, by decide, rfl, rfl, by decide⟩,
   ⟨upPe 0xB00000 (fun b => (fun b => (b.setF .a F.PE_STAT_TRGPEND 1 0).modPe .a 0 fun x => { x with trgAt := 5 } : Block → Block) (b.setF .a F.PE_STAT_STALL 1 0)), .a, 0, _, 0, _, by decide, by decide, rfl, rfl, by decide, by decide, by decide⟩,
   ⟨upPe 0xB00000 (fun b => (id : Block → Block) (b.setF .a F.PE_STAT_STALL 1 0)), .a, 0, _, 0, _, by decide, by decide, rfl, rfl, by decide, by decide⟩⟩

theorem witness_EngineRowsComplete :
    (∃ (s : State) (h : HalfId) (e : Fin 8), (s.blk.peRuns h e = false) ∧ (s.blk.powered .PE_CFG h = true)) ∧
    (∃ (s : State) (h : HalfId) (e : Fin 8), (s.blk.peRuns h e = true) ∧ (s.blk.powered .PE_CFG h = true)) ∧
    (∃ (s : State) (h : HalfId) (e : Fin 8) (b : Block), (s.blk.peRuns h e = true) ∧ (b = (if s.blk.on h F.PE_STAT_STALL e then (s.blk.setF h F.PE_CFG_EN 0 e).setF h F.PE_ERR_ABANDON 1 e else s.blk.setF h F.PE_CFG_EN 0 e)) ∧ (s.blk.powered .PE_CFG h = true)) ∧
    (∃ (s : State) (h : HalfId) (e : Fin 8), (s.blk.peRuns h e = false) ∧ (s.blk.powered .PE_CFG h = true)) ∧
    (∃ (s : State) (h : HalfId) (mask : BitVec 8), (s.blk.powered .PE_GSTART h = true)) ∧
    (∃ (s : State) (h : HalfId) (e : Fin 8) (off : BitVec 7) (v : Word), (off.toNat < 0x40) ∧ (s.blk.on h F.PE_CFG_EN e = false) ∧ (s.blk.powered .PE_PROG h = true)) ∧
    (∃ (s : State) (h : HalfId) (e : Fin 8) (off : BitVec 7) (v : Word), (off.toNat < 0x40) ∧ (s.blk.on h F.PE_CFG_EN e = true) ∧ (s.blk.powered .PE_PROG h = true)) ∧
    (∃ (s : State) (h : HalfId) (e : Fin 8) (off : BitVec 7) (v : Word), (progReg off.toNat = none) ∧ (s.blk.powered .PE_PROG h = true)) ∧
    (∃ (s : State) (h : HalfId) (e : Fin 8) (off : BitVec 7) (v : Word) (r : Reg) (j : Nat) (new : Word), (progReg off.toNat = some (r, j)) ∧ (new = wd (v.toNat &&& r.info.rw)) ∧ (s.blk.on h F.PE_CFG_EN e = true) ∧ (off.toNat ≠ 0x40) ∧ (s.blk.powered .PE_PROG h = true)) ∧
    (∃ (s : State) (h : HalfId) (e : Fin 8) (off : BitVec 7) (v : Word) (r : Reg) (j : Nat) (new : Word), (progReg off.toNat = some (r, j)) ∧ (new = wd (v.toNat &&& r.info.rw)) ∧ (s.blk.on h F.PE_CFG_EN e = false) ∧ (0x44 ≤ off.toNat) ∧ (s.blk.powered .PE_PROG h = true)) ∧
    (∃ (s : State) (h : HalfId) (e : Fin 8) (off : BitVec 7) (v : Word) (r : Reg) (j : Nat) (new : Word), (progReg off.toNat = some (r, j)) ∧ (new = wd (v.toNat &&& r.info.rw)) ∧ (s.blk.on h F.PE_CFG_EN e = false) ∧ (off.toNat = 0x42 ∨ off.toNat = 0x43) ∧ (s.blk.powered .PE_PROG h = true)) ∧
    (∃ (s : State) (h : HalfId) (e : Fin 8) (v : Word) (new : Word) (b : Block), (new = wd (v.toNat &&& Reg.PE_CFG.info.rw)) ∧ (bits new.toNat 22 0 = bits (s.blk.w h .PE_CFG e).toNat 22 0) ∧ (b = (if bits new.toNat 23 23 = 1 then s.blk.peStart h e else s.blk.peStop h e)) ∧ (s.blk.powered .PE_PROG h = true)) ∧
    (∃ (s : State) (h : HalfId) (e : Fin 8) (v : Word) (new : Word) (b : Block), (new = wd (v.toNat &&& Reg.PE_CFG.info.rw)) ∧ (bits new.toNat 22 0 ≠ bits (s.blk.w h .PE_CFG e).toNat 22 0) ∧ (s.blk.on h F.PE_CFG_EN e = false) ∧ (b = ((s.blk.setW h .PE_CFG (wd (bits new.toNat 22 0)) e).protoTrim h e).peChanged h e) ∧ (s.blk.powered .PE_PROG h = true)) ∧
    (∃ (s : State) (h : HalfId) (e : Fin 8) (v : Word) (new : Word), (new = wd (v.toNat &&& Reg.PE_CFG.info.rw)) ∧ (bits new.toNat 22 0 ≠ bits (s.blk.w h .PE_CFG e).toNat 22 0) ∧ (s.blk.on h F.PE_CFG_EN e = true) ∧ (s.blk.powered .PE_PROG h = true)) ∧
    (∃ (s : State) (h : HalfId) (e : Fin 8) (v : Word), ((s.blk.pe h e).sq.length < 6) ∧ (s.blk.powered .PE_SQ h = true)) ∧
    (∃ (s : State) (h : HalfId) (e : Fin 8) (v : Word), (6 ≤ (s.blk.pe h e).sq.length) ∧ (s.blk.powered .PE_SQ h = true)) ∧
    (∃ (s : State) (h : HalfId) (e : Fin 8), (s.blk.powered .PE_RQPOP h = true)) ∧
    (∃ (s : State) (h : HalfId) (mask : BitVec 16), (s.blk.powered .PE_FSET h = true)) ∧
    (∃ (s : State) (h : HalfId) (mask : BitVec 16), (s.blk.powered .PE_FCLR h = true)) ∧
    (∃ (s : State) (h : HalfId) (e : Fin 8), (s.blk.powered .PE_TLO h = true)) ∧
    (∃ (s : State) (h : HalfId) (e : Fin 8) (opens : Word) (cal : Word) (periods : List Word), (s.blk.peRuns h e = false ∨ s.blk.angRuns h = false ∨ s.blk.f h F.PE_CFG_PROTO e ≠ 1)) ∧
    (∃ (s : State) (h : HalfId) (e : Fin 8) (opens : Word) (cal : Word) (periods : List Word), (calOk (s.blk.f h F.PE_PROTO0_TICK e * 20) (s.blk.pe h e).prevCal cal.toNat = false)) ∧
    (∃ (s : State) (h : HalfId) (e : Fin 8) (opens : Word) (cal : Word) (periods : List Word) (ns : List Nat), (s.blk.peRuns h e = true) ∧ (s.blk.angRuns h = true) ∧ (s.blk.f h F.PE_CFG_PROTO e = 1) ∧ (calOk (s.blk.f h F.PE_PROTO0_TICK e * 20) (s.blk.pe h e).prevCal cal.toNat = true) ∧ (ns = ((periods.map BitVec.toNat).take (s.blk.f h F.PE_PROTO0_NIB e + 2)).filterMap (nibbleOf cal.toNat)) ∧ (periods.length ≠ s.blk.sentPeriods h e ∨ ns.length ≠ s.blk.f h F.PE_PROTO0_NIB e + 2 ∨
        nth 0 ns (s.blk.f h F.PE_PROTO0_NIB e + 1) ≠ sentCrc (s.blk.on h F.PE_PROTO0_CRCV e) ((ns.drop 1).take (s.blk.f h F.PE_PROTO0_NIB e)))) ∧
    (∃ (s : State) (h : HalfId) (e : Fin 8) (opens : Word) (data : List Bool) (chk : BitVec 3) (line : PsiLine), (s.blk.peRuns h e = false ∨ s.blk.angRuns h = false ∨ s.blk.f h F.PE_CFG_PROTO e ≠ 2)) ∧
    (∃ (s : State) (h : HalfId) (e : Fin 8) (opens : Word) (data : List Bool) (chk : BitVec 3) (line : PsiLine) (k : Nat) (b : Block), (s.blk.peRuns h e = true) ∧ (s.blk.angRuns h = true) ∧ (s.blk.f h F.PE_CFG_PROTO e = 2) ∧ (k = (if s.blk.f h F.PE_PROTO0_MODE e = 1 then (s.blk.pe h e).slot else 0)) ∧ (b = (if s.blk.f h F.PE_PROTO0_MODE e = 1 then s.blk.modPe h e (fun x => { x with slot := (s.blk.pe h e).slot + 1 }) else s.blk)) ∧ (line.invalid = true ∨ psiBitOk (s.blk.on h F.PE_PROTO0_RATE e) line.bitNs.toNat = false ∨ data.length ≠ s.blk.f h F.PE_PROTO0_DLEN e ∨ (if s.blk.on h F.PE_PROTO0_CHK e then chk.toNat ≠ psiCrc data else (total bitOf data + chk.toNat) % 2 ≠ 0) ∨
        s.blk.f h F.PE_PROTO0_MODE e = 1 ∧ s.blk.f h F.PE_PROTO0_SLOTS e < (s.blk.pe h e).slot)) ∧
    (∃ (s : State) (h : HalfId) (e : Fin 8) (opens : Word) (data : List Bool) (chk : BitVec 3) (line : PsiLine) (k : Nat) (b : Block), (s.blk.peRuns h e = true) ∧ (s.blk.angRuns h = true) ∧ (s.blk.f h F.PE_CFG_PROTO e = 2) ∧ (k = (if s.blk.f h F.PE_PROTO0_MODE e = 1 then (s.blk.pe h e).slot else 0)) ∧ (b = (if s.blk.f h F.PE_PROTO0_MODE e = 1 then s.blk.modPe h e (fun x => { x with slot := (s.blk.pe h e).slot + 1 }) else s.blk)) ∧ (line.invalid = false) ∧ (psiBitOk (s.blk.on h F.PE_PROTO0_RATE e) line.bitNs.toNat = true) ∧ (data.length = s.blk.f h F.PE_PROTO0_DLEN e) ∧ (if s.blk.on h F.PE_PROTO0_CHK e then chk.toNat = psiCrc data else (total bitOf data + chk.toNat) % 2 = 0) ∧ (s.blk.f h F.PE_PROTO0_MODE e = 1 → (s.blk.pe h e).slot ≤ s.blk.f h F.PE_PROTO0_SLOTS e)) ∧
    (∃ (s : State) (h : HalfId) (e : Fin 8), (s.blk.peRuns h e = true) ∧ (s.blk.angRuns h = true) ∧ (s.blk.f h F.PE_CFG_PROTO e = 2) ∧ (s.blk.f h F.PE_PROTO0_MODE e = 1) ∧ (s.blk.on h F.PE_PROTO0_SYNCSRC e = false) ∧ ((s.blk.pe h e).syncAt = none)) ∧
    (∃ (s : State) (h : HalfId) (e : Fin 8) (t : Nat), (s.blk.peRuns h e = true) ∧ (s.blk.angRuns h = true) ∧ (s.blk.f h F.PE_CFG_PROTO e = 2) ∧ (s.blk.f h F.PE_PROTO0_MODE e = 1) ∧ (s.blk.on h F.PE_PROTO0_SYNCSRC e = false) ∧ ((s.blk.pe h e).syncAt = some t)) ∧
    (∃ (s : State) (h : HalfId) (e : Fin 8), (s.blk.peRuns h e = true) ∧ (s.blk.angRuns h = true) ∧ (s.blk.f h F.PE_CFG_PROTO e = 2) ∧ (s.blk.f h F.PE_PROTO0_MODE e = 1) ∧ (s.blk.on h F.PE_PROTO0_SYNCSRC e = true)) ∧
    (∃ (s : State) (h : HalfId) (e : Fin 8) (t : Nat), (s.blk.peRuns h e = true) ∧ (s.blk.angRuns h = true) ∧ (s.blk.f h F.PE_CFG_PROTO e = 2) ∧ (s.blk.f h F.PE_PROTO0_MODE e = 1) ∧ ((s.blk.pe h e).syncAt = some t)) ∧
    (∃ (s : State) (h : HalfId) (e : Fin 8), (s.blk.peRuns h e = true) ∧ (s.blk.angRuns h = true) ∧ (s.blk.f h F.PE_CFG_PROTO e = 2) ∧ (s.blk.f h F.PE_PROTO0_MODE e = 1) ∧ ((s.blk.pe h e).syncAt = none)) ∧
    (∃ (s : State) (h : HalfId) (e : Fin 8) (begins : Bool), (s.blk.peRuns h e = false ∨ s.blk.angRuns h = false ∨ s.blk.f h F.PE_CFG_PROTO e ≠ 2 ∨ s.blk.f h F.PE_PROTO0_MODE e ≠ 1)) :=
  ⟨⟨up, .a, 0, by decide, by decide⟩,
   ⟨upPe 0 id, .a, 0, by decide, by decide⟩,
   ⟨upPe 0 (fun b => b.setF .a F.PE_STAT_STALL 1 0), .a, 0, _, by decide, rfl, by decide⟩,
   ⟨up, .a, 0, by decide, by decide⟩,
   ⟨up, .a, 0, by decide⟩,
   ⟨up, .a, 0, 5, 0x3000FF, by decide, by decide, by decide⟩,
   ⟨upW (fun b => b.setF .a F.PE_CFG_EN 1 0), .a, 0, 5, 0x3000FF, by decide, by decide, by decide⟩,
   ⟨up, .a, 0, 0x41, 0x3000FF, by decide, by decide⟩,
   ⟨upW (fun b => b.setF .a F.PE_CFG_EN 1 0), .a, 0, 0x44, 0, .PE_PIN, 0, _, by decide, rfl, by decide, by decide, by decide⟩,
   ⟨up, .a, 0, 0x44, 0, .PE_PIN, 0, _, by decide, rfl, by decide, by decide, by decide⟩,
   ⟨up, .a, 0, 0x42, 7, .PE_PROTO0, 0, _, by decide, rfl, by decide, by decide, by decide⟩,
   ⟨up, .a, 0, 0x800000, _, _, rfl, by decide, rfl, by decide⟩,
   ⟨up, .a, 0, 0xFFFFFF, _, _, rfl, by decide, by decide, rfl, by decide⟩,
   ⟨upW (fun b => b.setF .a F.PE_CFG_EN 1 0), .a, 0, 0xFFFFFF, _, rfl, by decide, by decide, by decide⟩,
   ⟨up, .a, 0, 7, by decide, by decide⟩,
   ⟨upW (fun b => b.modPe .a 0 fun x => { x with sq := List.replicate 6 (0, 0) }), .a, 0, 7, by decide, by decide⟩,
   ⟨up, .a, 0, by decide⟩,
   ⟨up, .a, 0, by decide⟩,
   ⟨up, .a, 0, by decide⟩,
   ⟨up, .a, 0, by decide⟩,
   ⟨up, .a, 0, 0, 0, [], by decide⟩,
   ⟨up, .a, 0, 0, 7, [], by decide⟩,
   ⟨upRx 1 id, .a, 0, 0, 0, [], _, by decide, by decide, by decide, by decide, rfl, by decide⟩,
   ⟨up, .a, 0, 0, [], 0, ⟨8000, false⟩, by decide⟩,
   ⟨upRx 2 id, .a, 0, 0, [], 0, ⟨8000, true⟩, _, _, by decide, by decide, by decide, rfl, rfl, by decide⟩,
   ⟨upRx 2 (fun b => (b.setF .a F.PE_PROTO0_CHK 1 0).setF .a F.PE_PROTO0_DLEN 10 0), .a, 0, 0, [true, false, false, false, false, false, false, false, false, false], BitVec.ofNat 3 (psiCrc [true, false, false, false, false, false, false, false, false, false]), ⟨8000, false⟩, _, _, by decide, by decide, by decide, rfl, rfl, by decide, by decide, by decide, by decide, by decide⟩,
   ⟨upRx 2 (fun b => (id : Block → Block) (b.setF .a F.PE_PROTO0_MODE 1 0)), .a, 0, by decide, by decide, by decide, by decide, by decide, by decide⟩,
   ⟨upRx 2 (fun b => (fun b => b.modPe .a 0 fun x => { x with syncAt := some 0 } : Block → Block) (b.setF .a F.PE_PROTO0_MODE 1 0)), .a, 0, 0, by decide, by decide, by decide, by decide, by decide, by decide⟩,
   ⟨upRx 2 (fun b => (fun b => b.setF .a F.PE_PROTO0_SYNCSRC 1 0 : Block → Block) (b.setF .a F.PE_PROTO0_MODE 1 0)), .a, 0, by decide, by decide, by decide, by decide, by decide⟩,
   ⟨upRx 2 (fun b => (fun b => b.modPe .a 0 fun x => { x with syncAt := some 0 } : Block → Block) (b.setF .a F.PE_PROTO0_MODE 1 0)), .a, 0, 0, by decide, by decide, by decide, by decide, by decide⟩,
   ⟨upRx 2 (fun b => (id : Block → Block) (b.setF .a F.PE_PROTO0_MODE 1 0)), .a, 0, by decide, by decide, by decide, by decide, by decide⟩,
   ⟨up, .a, 0, true, by decide⟩⟩

theorem witness_MailboxRowsComplete :
    (∃ (s : State) (h : HalfId) (m : Fin 16) (who : Master) (v : Word), (s.blk.roleOf h who = some (mbxTable m).2.1) ∧ (s.blk.mbxFull h m = false) ∧ (m.val ≠ 15) ∧ (s.blk.powered .MBX_DATA h = true)) ∧
    (∃ (s : State) (h : HalfId) (m : Fin 16) (who : Master) (v : Word), (s.blk.roleOf h who ≠ some (mbxTable m).2.1 ∨ s.blk.mbxFull h m = true) ∧ (s.blk.powered .MBX_DATA h = true)) ∧
    (∃ (s : State) (h : HalfId) (who : Master) (v : Word), (s.blk.roleOf h who = some (mbxTable 15).2.1) ∧ (s.blk.mbxFull h 15 = false) ∧ (s.blk.bridgeUp h = true) ∧ (s.blk.powered .MBX_DATA h = true)) ∧
    (∃ (s : State) (h : HalfId) (m : Fin 16) (who : Master) (t : State), (s.blk.hipTakes h m who = true) ∧ (t = ({ s with blk := s.blk.mbxTake h m who } : State).hipWord h (m.val == 0) (s.blk.w h .MBX_DATA m)) ∧ (s.blk.powered .MBX_DATA h = true)) ∧
    (∃ (s : State) (h : HalfId) (m : Fin 16) (who : Master), (s.blk.hipTakes h m who = false) ∧ (m.val ≠ 15) ∧ (s.blk.roleOf h who = some (mbxTable m).2.2.1) ∧ (s.blk.mbxFull h m = true) ∧ (s.blk.powered .MBX_DATA h = true)) ∧
    (∃ (s : State) (h : HalfId) (m : Fin 16) (who : Master), (s.blk.hipTakes h m who = false) ∧ (m.val ≠ 15) ∧ (s.blk.roleOf h who = some (mbxTable m).2.2.1) ∧ (s.blk.mbxFull h m = false) ∧ (s.blk.powered .MBX_DATA h = true)) ∧
    (∃ (s : State) (h : HalfId) (m : Fin 16) (p : Nat), ((mbxTable m).2.2.2 = some p) ∧ (s.blk.mbxFull h m = true) ∧ (s.blk.mbxFull h p = true) ∧ (s.blk.f h F.MBX_XTO_TIMEOUT ≠ 0)) ∧
    (∃ (s : State) (h : HalfId) (who : Master) (v : Word), (s.blk.roleOf h who = some (mbxTable 15).2.1) ∧ (s.blk.mbxFull h 15 = false) ∧ (s.blk.bridgeUp h = false) ∧ (s.blk.powered .MBX_DATA h = true)) ∧
    (∃ (s : State) (h : HalfId) (m : Fin 16) (who : Master), (s.blk.hipTakes h m who = false) ∧ (m.val = 15 ∨ s.blk.roleOf h who ≠ some (mbxTable m).2.2.1) ∧ (s.blk.powered .MBX_DATA h = true)) ∧
    (∃ (s : State) (h : HalfId) (m : Fin 16), ((mbxTable m).2.2.2 = none ∨ s.blk.mbxFull h m = false ∨ s.blk.f h F.MBX_XTO_TIMEOUT = 0)) :=
  ⟨⟨up, .a, 8, ((List.map (fun p => p) [Master.hip, .scp, .anp, .sup]).find? fun w => up.blk.roleOf .a w == some (mbxTable 8).2.1).getD .link, 7, by decide, by decide, by decide, by decide⟩,
   ⟨upW (fun b => b.setF .a F.MBX_STAT_FULL 1 8), .a, 8, .hip, 7, by decide, by decide⟩,
   ⟨up, .a, ((List.map (fun p => p) [Master.hip, .scp, .anp, .sup]).find? fun w => up.blk.roleOf .a w == some (mbxTable 15).2.1).getD .link, 7, by decide, by decide, by decide, by decide⟩,
   ⟨upW (fun b => (b.setF .a F.MBX_STAT_FULL 1 0).modHip .a fun x => { x with running := true }), .a, 0, ((List.map (fun p => p) [Master.hip, .scp, .anp, .sup]).find? fun w => up.blk.roleOf .a w == some 0).getD .link, _, by decide, rfl, by decide⟩,
   ⟨upW (fun b => b.setF .a F.MBX_STAT_FULL 1 8), .a, 8, ((List.map (fun p => p) [Master.hip, .scp, .anp, .sup]).find? fun w => up.blk.roleOf .a w == some (mbxTable 8).2.2.1).getD .link, by decide, by decide, by decide, by decide, by decide⟩,
   ⟨up, .a, 8, ((List.map (fun p => p) [Master.hip, .scp, .anp, .sup]).find? fun w => up.blk.roleOf .a w == some (mbxTable 8).2.2.1).getD .link, by decide, by decide, by decide, by decide, by decide⟩,
   ⟨upW (fun b => ((b.setF .a F.MBX_STAT_FULL 1 2).setF .a F.MBX_STAT_FULL 1 (((mbxTable 2).2.2.2).getD 0)).setF .a F.MBX_XTO_TIMEOUT 9), .a, 2, ((mbxTable 2).2.2.2).getD 0, by decide, by decide, by decide, by decide⟩,
   ⟨upW (fun b => b.setF .a F.HLM_STAT_BRIDGE 0), .a, ((List.map (fun p => p) [Master.hip, .scp, .anp, .sup]).find? fun w => up.blk.roleOf .a w == some (mbxTable 15).2.1).getD .link, 7, by decide, by decide, by decide, by decide⟩,
   ⟨up, .a, 15, .hip, by decide, by decide, by decide⟩,
   ⟨up, .a, 2, by decide⟩⟩

theorem witness_LinkTrainingRowsComplete :
    (∃ (s : State) (l : HalfId) (ts : TrainSet) (sent : Bool), (s.blk.rung l < 2) ∧ (s.blk.on l F.CRP_STAT_HLLOCK = true) ∧ (ts.fromHost = true) ∧ (s.blk.f l F.QHL_STAT_STATE = lkTRAIN) ∧ ((s.blk.link l).ts < 63)) ∧
    (∃ (s : State) (l : HalfId) (ts : TrainSet) (sent : Bool), (s.blk.rung l < 2) ∧ (s.blk.on l F.CRP_STAT_HLLOCK = true) ∧ (ts.fromHost = true) ∧ (s.blk.f l F.QHL_STAT_STATE = lkTRAIN) ∧ (63 ≤ (s.blk.link l).ts)) ∧
    (∃ (s : State) (l : HalfId) (ts : TrainSet) (sent : Bool) (k : Nat), (s.blk.rung l < 2) ∧ (s.blk.on l F.CRP_STAT_HLLOCK = true) ∧ (ts.fromHost = true) ∧ (s.blk.f l F.QHL_STAT_STATE = lkALIGN) ∧ (k = (if ts.ack then capNat 16 ((s.blk.link l).tsAck + 1) else 0)) ∧ (¬(k = 16 ∧ sent = true))) ∧
    (∃ (s : State) (l : HalfId) (ts : TrainSet) (k : Nat), (s.blk.rung l < 2) ∧ (s.blk.on l F.CRP_STAT_HLLOCK = true) ∧ (ts.fromHost = true) ∧ (s.blk.f l F.QHL_STAT_STATE = lkALIGN) ∧ (k = (if ts.ack then capNat 16 ((s.blk.link l).tsAck + 1) else 0)) ∧ (k = 16)) ∧
    (∃ (s : State) (l : HalfId) (ts : TrainSet) (sent : Bool), (2 ≤ s.blk.rung l) ∧ (ts.fromHost = true)) ∧
    (∃ (s : State) (l : HalfId) (ts : TrainSet) (sent : Bool), (s.blk.rung l < 2) ∧ (ts.fromHost = true) ∧ (s.blk.on l F.CRP_STAT_HLLOCK = false ∨ s.blk.f l F.QHL_STAT_STATE = lkDOWN ∨ s.blk.f l F.QHL_STAT_STATE = lkUP)) ∧
    (∃ (s : State) (l : HalfId) (ts : TrainSet) (sent : Bool), (ts.fromHost = false)) ∧
    (∃ (s : State) (l : HalfId), (s.blk.f l F.QHL_STAT_STATE = lkTRAIN ∨ s.blk.f l F.QHL_STAT_STATE = lkALIGN) ∧ (s.blk.rung l ≤ 1)) ∧
    (∃ (s : State) (l : HalfId), (¬(s.blk.f l F.QHL_STAT_STATE = lkTRAIN ∨ s.blk.f l F.QHL_STAT_STATE = lkALIGN) ∨ 2 ≤ s.blk.rung l)) ∧
    (∃ (s : State) (l : HalfId) (since : BitVec 32) (near : List Nat) (b : Block), (s.blk.f l F.QHL_STAT_STATE ≠ lkDOWN) ∧ (near = (0 :: (s.blk.link l).viol.map (fun d => d + since.toNat)).filter (fun d => d < 64)) ∧ (b = (s.blk.count l F.QHL_CNT1_CODEERRS).modLink l (fun x => { x with viol := near.take 4, ts := 0, tsAck := 0 })) ∧ (near.length < 4 ∨ s.blk.linkUp l = false)) ∧
    (∃ (s : State) (l : HalfId) (since : BitVec 32) (near : List Nat) (b : Block), (s.blk.linkUp l = true) ∧ (near = (0 :: (s.blk.link l).viol.map (fun d => d + since.toNat)).filter (fun d => d < 64)) ∧ (b = (s.blk.count l F.QHL_CNT1_CODEERRS).modLink l (fun x => { x with viol := near.take 4, ts := 0, tsAck := 0 })) ∧ (4 ≤ near.length)) ∧
    (∃ (s : State) (l : HalfId) (since : BitVec 32), (s.blk.f l F.QHL_STAT_STATE = lkDOWN)) ∧
    (∃ (s : State) (l : HalfId) (p : Fin 2) (ts : TrainSet) (sent : Bool), (s.blk.rung l < 2) ∧ (ts.fromUnit = true) ∧ (s.blk.f l F.EUL_PSTAT_STATE p = lkTRAIN) ∧ (s.blk.on l F.EUL_PSTAT_LANEFAIL p = false) ∧ ((s.blk.eport l p).ts < 63)) ∧
    (∃ (s : State) (l : HalfId) (p : Fin 2) (ts : TrainSet) (sent : Bool), (s.blk.rung l < 2) ∧ (ts.fromUnit = true) ∧ (s.blk.f l F.EUL_PSTAT_STATE p = lkTRAIN) ∧ (s.blk.on l F.EUL_PSTAT_LANEFAIL p = false) ∧ (63 ≤ (s.blk.eport l p).ts)) ∧
    (∃ (s : State) (l : HalfId) (p : Fin 2) (ts : TrainSet) (sent : Bool) (k : Nat), (s.blk.rung l < 2) ∧ (ts.fromUnit = true) ∧ (s.blk.f l F.EUL_PSTAT_STATE p = lkALIGN) ∧ (k = (if ts.ack then capNat 16 ((s.blk.eport l p).tsAck + 1) else 0)) ∧ (¬(k = 16 ∧ sent = true))) ∧
    (∃ (s : State) (l : HalfId) (p : Fin 2) (ts : TrainSet) (k : Nat), (s.blk.rung l < 2) ∧ (ts.fromUnit = true) ∧ (s.blk.f l F.EUL_PSTAT_STATE p = lkALIGN) ∧ (k = (if ts.ack then capNat 16 ((s.blk.eport l p).tsAck + 1) else 0)) ∧ (k = 16)) ∧
    (∃ (s : State) (l : HalfId) (p : Fin 2) (ts : TrainSet) (sent : Bool), (2 ≤ s.blk.rung l)) ∧
    (∃ (s : State) (l : HalfId) (p : Fin 2) (ts : TrainSet) (sent : Bool), (s.blk.rung l < 2) ∧ (ts.fromUnit = true) ∧ ((s.blk.f l F.EUL_PSTAT_STATE p = lkTRAIN ∧ s.blk.on l F.EUL_PSTAT_LANEFAIL p = true) ∨ s.blk.f l F.EUL_PSTAT_STATE p = lkDOWN ∨ s.blk.f l F.EUL_PSTAT_STATE p = lkUP)) ∧
    (∃ (s : State) (l : HalfId) (p : Fin 2) (ts : TrainSet) (sent : Bool), (s.blk.rung l < 2) ∧ (ts.fromUnit = false)) ∧
    (∃ (s : State) (l : HalfId) (p : Fin 2), (s.blk.f l F.EUL_PSTAT_STATE p = lkTRAIN ∨ s.blk.f l F.EUL_PSTAT_STATE p = lkALIGN)) ∧
    (∃ (s : State) (l : HalfId) (p : Fin 2), (¬(s.blk.f l F.EUL_PSTAT_STATE p = lkTRAIN ∨ s.blk.f l F.EUL_PSTAT_STATE p = lkALIGN))) ∧
    (∃ (s : State) (l : HalfId) (p : Fin 2) (since : BitVec 32) (ages : List Nat) (b : Block), (ages = ((0 :: (s.blk.eport l p).viol.map (fun d => d + since.toNat)).filter (fun d => d < 50000000)).take 16) ∧ (b = (s.blk.count l F.EUL_PCNT0_CODEERRS p).modPort l p (fun x => { x with viol := ages, ts := 0, tsAck := 0 })) ∧ (s.blk.portUp (l, p) = false ∨ (ages.filter (fun d => d < 64)).length < 4)) ∧
    (∃ (s : State) (l : HalfId) (p : Fin 2) (since : BitVec 32) (ages : List Nat) (b : Block), (ages = ((0 :: (s.blk.eport l p).viol.map (fun d => d + since.toNat)).filter (fun d => d < 50000000)).take 16) ∧ (b = (s.blk.count l F.EUL_PCNT0_CODEERRS p).modPort l p (fun x => { x with viol := ages, ts := 0, tsAck := 0 })) ∧ (s.blk.portUp (l, p) = true) ∧ (4 ≤ (ages.filter (fun d => d < 64)).length)) ∧
    (∃ (s : State) (l : HalfId), (s.blk.linkUp l = true)) ∧
    (∃ (s : State) (l : HalfId), (s.blk.linkUp l = false)) ∧
    (∃ (s : State) (l : HalfId), (s.blk.linkUp l = true)) ∧
    (∃ (s : State) (l : HalfId), (s.blk.linkUp l = false)) ∧
    (∃ (s : State) (l : HalfId) (who : Master), (s.blk.linkUp l = true) ∧ (s.blk.linkMaster l who = true) ∧ (s.blk.powered .QHL_CMD l = true)) ∧
    (∃ (s : State) (l : HalfId) (who : Master), (s.blk.linkUp l = false) ∧ (s.blk.linkMaster l who = true) ∧ (s.blk.powered .QHL_CMD l = true)) ∧
    (∃ (s : State) (l : HalfId) (who : Master), (s.blk.linkMaster l who = true) ∧ (s.blk.powered .QHL_CMD l = true)) ∧
    (∃ (s : State) (l : HalfId) (who : Master), (s.blk.linkMaster l who = false) ∧ (s.blk.powered .QHL_CMD l = true)) :=
  ⟨⟨upW (fun b => (b.setF .a F.CRP_STAT_HLLOCK 1).setF .a F.QHL_STAT_STATE 1), .a, ⟨1, 0⟩, true, by decide, by decide, by decide, by decide, by decide⟩,
   ⟨upW (fun b => ((b.setF .a F.CRP_STAT_HLLOCK 1).setF .a F.QHL_STAT_STATE 1).modLink .a fun x => { x with ts := 63 }), .a, ⟨1, 0⟩, true, by decide, by decide, by decide, by decide, by decide⟩,
   ⟨upW (fun b => (b.setF .a F.CRP_STAT_HLLOCK 1).setF .a F.QHL_STAT_STATE 2), .a, ⟨1, 0⟩, true, _, by decide, by decide, by decide, by decide, rfl, by decide⟩,
   ⟨upW (fun b => ((b.setF .a F.CRP_STAT_HLLOCK 1).setF .a F.QHL_STAT_STATE 2).modLink .a fun x => { x with tsAck := 15 }), .a, ⟨1, 0⟩, _, by decide, by decide, by decide, by decide, rfl, rfl⟩,
   ⟨upW (fun b => (b.setF .a F.PWR_STAT_STA 2).setF .a F.WAKE_CFG_QHLEN 1), .a, ⟨1, 0⟩, true, by decide, by decide⟩,
   ⟨up, .a, ⟨1, 0⟩, true, by decide, by decide, by decide⟩,
   ⟨up, .a, ⟨4, 0⟩, true, by decide⟩,
   ⟨upW (fun b => b.setF .a F.QHL_STAT_STATE 1), .a, by decide, by decide⟩,
   ⟨up, .a, by decide⟩,
   ⟨upLink id, .a, 5, _, _, by decide, rfl, rfl, by decide⟩,
   ⟨upLink fun b => b.modLink .a fun x => { x with viol := [0, 3, 9] }, .a, 5, _, _, by decide, rfl, rfl, by decide⟩,
   ⟨up, .a, 5, by decide⟩,
   ⟨upW (fun b => (b.setF .a F.EUL_PSTAT_STATE 1 0)), .a, 0, ⟨3, 0xC2⟩, true, by decide, by decide, by decide, by decide, by decide⟩,
   ⟨upW (fun b => (b.setF .a F.EUL_PSTAT_STATE 1 0).modPort .a 0 fun x => { x with ts := 63 }), .a, 0, ⟨3, 0xC2⟩, true, by decide, by decide, by decide, by decide, by decide⟩,
   ⟨upW (fun b => (b.setF .a F.EUL_PSTAT_STATE 2 0)), .a, 0, ⟨3, 0xC2⟩, true, _, by decide, by decide, by decide, rfl, by decide⟩,
   ⟨upW (fun b => (b.setF .a F.EUL_PSTAT_STATE 2 0).modPort .a 0 fun x => { x with tsAck := 15 }), .a, 0, ⟨3, 0xC2⟩, _, by decide, by decide, by decide, rfl, rfl⟩,
   ⟨upW (fun b => b.setF .a F.PWR_STAT_STA 2), .a, 0, ⟨3, 0xC2⟩, true, by decide⟩,
   ⟨up, .a, 0, ⟨3, 0xC2⟩, true, by decide, by decide, by decide⟩,
   ⟨up, .a, 0, ⟨0, 0⟩, true, by decide, by decide⟩,
   ⟨upW (fun b => (b.setF .a F.EUL_PSTAT_STATE 2 0)), .a, 0, by decide⟩,
   ⟨up, .a, 0, by decide⟩,
   ⟨up, .a, 0, 5, _, _, rfl, rfl, by decide⟩,
   ⟨upW (fun b => (b.setF .a F.EUL_PSTAT_STATE 3 0).modPort .a 0 fun x => { x with viol := [0, 3, 9] }), .a, 0, 5, _, _, rfl, rfl, by decide, by decide⟩,
   ⟨upLink id, .a, by decide⟩,
   ⟨up, .a, by decide⟩,
   ⟨upLink id, .a, by decide⟩,
   ⟨up, .a, by decide⟩,
   ⟨upLink id, .a, .sup, by decide, by decide, by decide⟩,
   ⟨up, .a, .sup, by decide, by decide, by decide⟩,
   ⟨up, .a, .sup, by decide, by decide⟩,
   ⟨up, .a, .anp, by decide, by decide⟩⟩

set_option maxRecDepth 20000 in
theorem witness_HostFrameRowsComplete :
    (∃ (s : State) (l : HalfId) (e : FrameEnd) (h0 : Word) (pay : List Word) (d : Nat), (s.blk.linkUp l = true) ∧ (e.good (h0 :: pay) = true) ∧ (bits h0.toNat 7 0 = pay.length) ∧ (bits h0.toNat 23 20 ≠ 0) ∧ (d = (bits h0.toNat 15 8 + 256 - (s.blk.link l).rxSeq) % 256) ∧ (d = 0)) ∧
    (∃ (s : State) (l : HalfId) (e : FrameEnd) (h0 : Word) (pay : List Word) (d : Nat), (s.blk.linkUp l = true) ∧ (e.good (h0 :: pay) = true) ∧ (bits h0.toNat 7 0 = pay.length) ∧ (bits h0.toNat 23 20 ≠ 0) ∧ (d = (bits h0.toNat 15 8 + 256 - (s.blk.link l).rxSeq) % 256) ∧ (0 < d) ∧ (d < 128)) ∧
    (∃ (s : State) (l : HalfId) (e : FrameEnd) (h0 : Word) (pay : List Word) (d : Nat), (s.blk.linkUp l = true) ∧ (e.good (h0 :: pay) = true) ∧ (bits h0.toNat 7 0 = pay.length) ∧ (bits h0.toNat 23 20 ≠ 0) ∧ (d = (bits h0.toNat 15 8 + 256 - (s.blk.link l).rxSeq) % 256) ∧ (128 ≤ d)) ∧
    (∃ (s : State) (l : HalfId) (e : FrameEnd) (h0 : Word) (pay : List Word), (s.blk.linkUp l = true) ∧ (e.good (h0 :: pay) = false ∨ bits h0.toNat 7 0 ≠ pay.length)) ∧
    (∃ (s : State) (l : HalfId) (e : FrameEnd) (h0 : Word) (pay : List Word), (s.blk.linkUp l = true) ∧ (e.good (h0 :: pay) = true) ∧ (bits h0.toNat 7 0 = pay.length) ∧ (bits h0.toNat 23 20 = 0)) ∧
    (∃ (s : State) (l : HalfId) (e : FrameEnd) (h0 : Word) (pay : List Word), (s.blk.linkUp l = false)) ∧
    (∃ (s : State) (l : HalfId) (f : QFrame) (rest : List QFrame), ((s.blk.link l).inq = f :: rest) ∧ (f.type = 1)) ∧
    (∃ (s : State) (l : HalfId), ((s.blk.link l).inq.head?.map QFrame.type ≠ some 1)) ∧
    (∃ (s : State) (l : HalfId), ((s.blk.link l).inq.head?.map QFrame.type ≠ some 3)) ∧
    (∃ (s : State) (l : HalfId) (f : QFrame) (rest : List QFrame) (t : State) (b : Block), (s.blk.regFrame l 3 = some f) ∧ (t = s.crossing l f.half) ∧ ((t.blk.link l).inq = f :: rest) ∧ (b = t.blk.modLink l (fun x => { x with inq := rest, ctl := [], freed := x.freed.set (4 * f.half.num + 2) (nth 0 x.freed (4 * f.half.num + 2) + f.nw) })) ∧ (t.blk.inStream f.half (bits (nth 0 f.pay 0).toNat 23 20) = none)) ∧
    (∃ (s : State) (l : HalfId) (f : QFrame) (rest : List QFrame) (t : State) (b : Block) (x : Stream) (id : Nat), (s.blk.regFrame l 3 = some f) ∧ (t = s.crossing l f.half) ∧ ((t.blk.link l).inq = f :: rest) ∧ (id = bits (nth 0 f.pay 0).toNat 23 20) ∧ (b = t.blk.modLink l (fun x => { x with inq := rest, ctl := [], freed := x.freed.set (4 * f.half.num + 2) (nth 0 x.freed (4 * f.half.num + 2) + f.nw) })) ∧ (t.blk.inStream f.half id = some x)) ∧
    (∃ (s : State) (l : HalfId) (f : QFrame) (r : List Word × Bool × State), (s.blk.regFrame l 4 = some f) ∧ (r = State.readRun ⟨f.half, .link⟩ (bits (nth 0 f.pay 1).toNat 5 0 + 1) (nth 0 f.pay 0).toNat (s.crossing l f.half))) ∧
    (∃ (s : State) (l : HalfId) (f : QFrame) (t : State), (s.blk.regFrame l 6 = some f) ∧ (t = s.crossing l f.half) ∧ (t.blk.phase f.half ≠ phTEST)) ∧
    (∃ (s : State) (l : HalfId) (f : QFrame) (t : State) (r : Nat × Bool × State), (s.blk.regFrame l 6 = some f) ∧ (t = s.crossing l f.half) ∧ (t.blk.phase f.half = phTEST) ∧ (r = State.writeRun ⟨f.half, .link⟩ (nth 0 f.pay 0).toNat (f.pay.drop 2) t)) ∧
    (∃ (s : State) (l : HalfId), (s.blk.regFrame l 4 = none)) ∧
    (∃ (s : State) (l : HalfId), (s.blk.regFrame l 6 = none)) ∧
    (∃ (s : State) (l : HalfId) (lseq : BitVec 8), ((s.blk.link l).unack.any (fun p => p.1.lseq == lseq.toNat) = false)) ∧
    (∃ (s : State) (l : HalfId) (lseq : BitVec 8), ((s.blk.link l).unack.any (fun p => p.1.lseq == lseq.toNat) = true)) ∧
    (∃ (s : State) (l : HalfId) (lseq : BitVec 8), (s.blk.linkUp l = true) ∧ (((s.blk.link l).unack.dropWhile (fun p => p.1.lseq != lseq.toNat)).all (fun p => p.2 < 8) = true)) ∧
    (∃ (s : State) (l : HalfId) (lseq : BitVec 8), (s.blk.linkUp l = true) ∧ (((s.blk.link l).unack.dropWhile (fun p => p.1.lseq != lseq.toNat)).any (fun p => 8 ≤ p.2) = true)) ∧
    (∃ (s : State) (l : HalfId), (s.blk.linkUp l = true) ∧ (((s.blk.link l).unack.dropWhile (fun _ => false)).all (fun p => p.2 < 8) = true)) ∧
    (∃ (s : State) (l : HalfId), (s.blk.linkUp l = true) ∧ (((s.blk.link l).unack.dropWhile (fun _ => false)).any (fun p => 8 ≤ p.2) = true)) ∧
    (∃ (s : State) (l : HalfId) (lseq : BitVec 8), (s.blk.linkUp l = false)) ∧
    (∃ (s : State) (l : HalfId) (half : HalfId) (cls : BitVec 3) (limit : BitVec 16), (s.blk.linkUp l = false ∨ cls.toNat < 4)) ∧
    (∃ (s : State) (l : HalfId) (half : HalfId) (rev : BitVec 8) (served : BitVec 2) (reason : BitVec 4) (lseq : BitVec 8), (s.blk.linkUp l = false)) ∧
    (∃ (s : State) (l : HalfId) (half : HalfId), (s.blk.linkUp l = true) ∧ (s.blk.reaches l half = true) ∧ (s.blk.servedBy half = l)) ∧
    (∃ (s : State) (l : HalfId) (half : HalfId) (cls : BitVec 3) (limit : BitVec 16), (s.blk.linkUp l = true) ∧ (4 ≤ cls.toNat)) ∧
    (∃ (s : State) (l : HalfId) (rev : BitVec 8) (served : BitVec 2), (s.blk.linkUp l = true)) ∧
    (∃ (s : State) (l : HalfId) (half : HalfId), (s.blk.linkUp l = true) ∧ (s.blk.reaches l half = true) ∧ (s.blk.servedBy half ≠ l)) ∧
    (∃ (s : State) (l : HalfId) (half : HalfId), (s.blk.linkUp l = true) ∧ (s.blk.reaches l half = false)) ∧
    (∃ (s : State) (l : HalfId) (reason : BitVec 4) (lseq : BitVec 8), (s.blk.linkUp l = true)) :=
  ⟨⟨upLink id, .a, frameEnd [0x100001, 7], 0x100001, [7], _, by decide, by decide, by decide, by decide, rfl, rfl⟩,
   ⟨upLink id, .a, frameEnd [0x100101, 7], 0x100101, [7], _, by decide, by decide, by decide, by decide, rfl, by decide, by decide⟩,
   ⟨upLink id, .a, frameEnd [0x10FF01, 7], 0x10FF01, [7], _, by decide, by decide, by decide, by decide, rfl, by decide⟩,
   ⟨upLink id, .a, ⟨true, 5⟩, 0x10FF01, [7], by decide, by decide⟩,
   ⟨upLink id, .a, frameEnd [0x000001, 7], 0x000001, [7], by decide, by decide, by decide, by decide⟩,
   ⟨up, .a, ⟨true, 0⟩, 0x000001, [7], by decide⟩,
   ⟨upLink fun b => b.modLink .a fun x => { x with inq := [⟨0x100001, [7]⟩] }, .a, ⟨0x100001, [7]⟩, [], by decide, by decide⟩,
   ⟨up, .a, by decide⟩,
   ⟨up, .a, by decide⟩,
   ⟨upLink fun b => b.modLink .a fun x => { x with inq := [⟨0x300002, [0x100000, 7]⟩] }, .a, ⟨0x300002, [0x100000, 7]⟩, [], _, _, by decide, rfl, by decide, rfl, by decide⟩,
   ⟨upLink fun b => (upSt st0 b).modLink .a fun x => { x with inq := [⟨0x300002, [0x100000, 7]⟩] }, .a, ⟨0x300002, [0x100000, 7]⟩, [], _, _, st0, 1, by decide, rfl, by decide, by decide, rfl, by decide⟩,
   ⟨upLink fun b => b.modLink .a fun x => { x with inq := [⟨0x400002, [0, 0]⟩] }, .a, ⟨0x400002, [0, 0]⟩, _, by decide, rfl⟩,
   ⟨upLink fun b => b.modLink .a fun x => { x with inq := [⟨0x600003, [0, 0, 7]⟩] }, .a, ⟨0x600003, [0, 0, 7]⟩, _, by decide, rfl, by decide⟩,
   ⟨upLink fun b => (b.setF .a F.ADM_STAT_PHASE 5).modLink .a fun x => { x with inq := [⟨0x600003, [0, 0, 7]⟩] }, .a, ⟨0x600003, [0, 0, 7]⟩, _, _, by decide, rfl, by decide, rfl⟩,
   ⟨up, .a, by decide⟩,
   ⟨up, .a, by decide⟩,
   ⟨up, .a, 0, by decide⟩,
   ⟨upLink fun b => b.modLink .a fun x => { x with unack := [(⟨0x200001, [7]⟩, 1)] }, .a, 0, by decide⟩,
   ⟨upLink fun b => b.modLink .a fun x => { x with unack := [(⟨0x200001, [7]⟩, 1)] }, .a, 0, by decide, by decide⟩,
   ⟨upLink fun b => b.modLink .a fun x => { x with unack := [(⟨0x200001, [7]⟩, 8)] }, .a, 0, by decide, by decide⟩,
   ⟨upLink fun b => b.modLink .a fun x => { x with unack := [(⟨0x200001, [7]⟩, 1)] }, .a, by decide, by decide⟩,
   ⟨upLink fun b => b.modLink .a fun x => { x with unack := [(⟨0x200001, [7]⟩, 8)] }, .a, by decide, by decide⟩,
   ⟨up, .a, 0, by decide⟩,
   ⟨up, .a, .a, 4, 9, by decide⟩,
   ⟨up, .a, .b, 0xC2, 1, 1, 0, by decide⟩,
   ⟨upLink id, .a, .a, by decide, by decide, by decide⟩,
   ⟨upLink id, .a, .a, 4, 9, by decide, by decide⟩,
   ⟨upLink id, .a, 0xC2, 1, by decide⟩,
   ⟨upLink id, .a, .b, by decide, by decide, by decide⟩,
   ⟨upLink fun b => b.setF .a F.HLM_STAT_BRIDGE 0, .a, .b, by decide, by decide⟩,
   ⟨upLink id, .a, 1, 0, by decide⟩⟩

theorem witness_OutboundRowsComplete :
    (∃ (s : State) (l : HalfId) (half : HalfId) (c : Fin 4) (n : Nat) (limit : Nat), (s.blk.linkUp l = true) ∧ (n = nth 0 (s.blk.link l).freed (4 * half.num + c)) ∧ (limit = (n + nth 0 rooms c) % 65536)) ∧
    (∃ (s : State) (l : HalfId) (half : HalfId) (c : Fin 4), (s.blk.linkUp l = false)) ∧
    (∃ (s : State) (l : HalfId) (half : HalfId) (t : State) (c : Fin 4) (n : Fin 129), (t = s.crossing l half) ∧ (t.blk.linkUp l = false ∨ 32 ≤ (t.blk.link l).unack.length ∨ t.blk.reaches l half = false)) ∧
    (∃ (s : State) (l : HalfId) (half : HalfId) (t : State) (c : Fin 4) (n : Fin 129) (room : Nat) (r : List Word × Block), (t = s.crossing l half) ∧ (t.blk.linkUp l = true) ∧ ((t.blk.link l).unack.length < 32) ∧ (t.blk.reaches l half = true) ∧ (c.val < 3) ∧ (t.blk.servedBy half = l) ∧ (room = (t.blk.link l).hostRoom half c) ∧ (r = takeWords half (if c.val = 0 then 1 else if c.val = 1 then 5 else 6) (capNat 64 (if room < n.val then room else n.val)) t.blk) ∧ (r.1 ≠ [])) ∧
    (∃ (s : State) (l : HalfId) (half : HalfId) (t : State) (c : Fin 4) (n : Fin 129) (room : Nat) (r : List Word × Block), (t = s.crossing l half) ∧ (t.blk.linkUp l = true) ∧ ((t.blk.link l).unack.length < 32) ∧ (t.blk.reaches l half = true) ∧ (c.val < 3) ∧ (t.blk.servedBy half = l) ∧ (room = (t.blk.link l).hostRoom half c) ∧ (r = takeWords half (if c.val = 0 then 1 else if c.val = 1 then 5 else 6) (capNat 64 (if room < n.val then room else n.val)) t.blk) ∧ (r.1 = [])) ∧
    (∃ (s : State) (l : HalfId) (half : HalfId) (t : State) (n : Fin 129) (ws : List Word) (room : Nat), (t = s.crossing l half) ∧ (t.blk.linkUp l = true) ∧ ((t.blk.link l).unack.length < 32) ∧ (t.blk.reaches l half = true) ∧ (t.blk.servedBy half ≠ l) ∧ (ws = (t.blk.half half).hip.bootReport) ∧ (room = (t.blk.link l).hostRoom half 2) ∧ (ws ≠ []) ∧ (ws.length ≤ capNat room n.val)) ∧
    (∃ (s : State) (l : HalfId) (half : HalfId) (t : State) (c : Fin 4) (n : Fin 129) (ws : List Word) (room : Nat), (t = s.crossing l half) ∧ (t.blk.linkUp l = true) ∧ ((t.blk.link l).unack.length < 32) ∧ (t.blk.reaches l half = true) ∧ (t.blk.servedBy half ≠ l) ∧ (ws = (t.blk.half half).hip.bootReport) ∧ (room = (t.blk.link l).hostRoom half c) ∧ (c.val < 3) ∧ (c.val ≠ 2 ∨ ws = [] ∨ capNat room n.val < ws.length)) ∧
    (∃ (s : State) (l : HalfId) (half : HalfId) (t : State) (n : Fin 129) (f : QFrame) (rest : List QFrame), (t = s.crossing l half) ∧ (t.blk.linkUp l = true) ∧ ((t.blk.link l).unack.length < 32) ∧ (t.blk.reaches l half = true) ∧ ((t.blk.link l).regOut = f :: rest) ∧ (f.pay.length ≤ (t.blk.link l).hostRoom f.half 3)) ∧
    (∃ (s : State) (l : HalfId) (half : HalfId) (t : State) (n : Fin 129) (f : QFrame) (rest : List QFrame), (t = s.crossing l half) ∧ (t.blk.linkUp l = true) ∧ ((t.blk.link l).unack.length < 32) ∧ (t.blk.reaches l half = true) ∧ ((t.blk.link l).regOut = f :: rest) ∧ ((t.blk.link l).hostRoom f.half 3 < f.pay.length)) ∧
    (∃ (s : State) (l : HalfId) (half : HalfId) (t : State) (n : Fin 129) (y : Stream) (ws : List Word) (room : Nat), (t = s.crossing l half) ∧ (t.blk.linkUp l = true) ∧ ((t.blk.link l).unack.length < 32) ∧ (t.blk.reaches l half = true) ∧ (t.blk.servedBy half = l) ∧ ((t.blk.link l).regOut = []) ∧ (room = (t.blk.link l).hostRoom half 3) ∧ (2 ≤ room) ∧ (t.blk.outStream half (if room - 1 < n.val then room - 1 else n.val) = some (y, ws))) ∧
    (∃ (s : State) (l : HalfId) (half : HalfId) (t : State) (n : Fin 129) (room : Nat), (t = s.crossing l half) ∧ (t.blk.linkUp l = true) ∧ ((t.blk.link l).unack.length < 32) ∧ (t.blk.reaches l half = true) ∧ ((t.blk.link l).regOut = []) ∧ (room = (t.blk.link l).hostRoom half 3) ∧ (t.blk.servedBy half ≠ l ∨ room < 2 ∨ t.blk.outStream half (if room - 1 < n.val then room - 1 else n.val) = none)) :=
  ⟨⟨upLink id, .a, .a, 2, _, _, by decide, rfl, rfl⟩,
   ⟨up, .a, .a, 2, by decide⟩,
   ⟨up, .a, .a, _, 0, 5, rfl, by decide⟩,
   ⟨upLink fun b => (b.modLink .a fun x => { x with hostLim := x.hostLim.set 0 64 }).mbxStore .a 1 7, .a, .a, _, 0, 5, _, _, rfl, by decide, by decide, by decide, by decide, by decide, rfl, rfl, by decide⟩,
   ⟨upLink id, .a, .a, _, 0, 5, _, _, rfl, by decide, by decide, by decide, by decide, by decide, rfl, rfl, by decide⟩,
   ⟨upLink fun b => (b.modLink .a fun x => { x with hostLim := x.hostLim.set 6 64 }).modHalf .b fun y => { y with hip := { y.hip with bootReport := [7] } }, .a, .b, _, 5, _, _, rfl, by decide, by decide, by decide, by decide, rfl, rfl, by decide, by decide⟩,
   ⟨upLink id, .a, .b, _, 0, 5, _, _, rfl, by decide, by decide, by decide, by decide, rfl, rfl, by decide, by decide⟩,
   ⟨upLink fun b => b.modLink .a fun x => { x with hostLim := x.hostLim.set 3 64, regOut := [⟨0x700001, [7]⟩] }, .a, .a, _, 5, ⟨0x700001, [7]⟩, [], rfl, by decide, by decide, by decide, by decide, by decide⟩,
   ⟨upLink fun b => b.modLink .a fun x => { x with regOut := [⟨0x700001, [7]⟩] }, .a, .a, _, 5, ⟨0x700001, [7]⟩, [], rfl, by decide, by decide, by decide, by decide, by decide⟩,
   ⟨upLink fun b => (upSt st1 b).modLink .a fun x => { x with hostLim := x.hostLim.set 3 64 }, .a, .a, _, 5, st1, [7], 64, rfl, by decide, by decide, by decide, by decide, by decide, by decide, by decide, by decide⟩,
   ⟨upLink id, .a, .a, _, 5, 0, rfl, by decide, by decide, by decide, by decide, by decide, by decide⟩⟩

theorem witness_GeneralCommandsComplete :
    (∃ (s : State) (h : HalfId) (secure : Bool) (seq : BitVec 10) (pay : List Word), (s.blk.accepts h secure 0x00 seq pay = true)) ∧
    (∃ (s : State) (h : HalfId) (secure : Bool) (seq : BitVec 10) (pay : List Word), (s.blk.accepts h secure 0x01 seq pay = true)) ∧
    (∃ (s : State) (h : HalfId) (secure : Bool) (seq : BitVec 10) (pay : List Word), (s.blk.accepts h secure 0x02 seq pay = true)) ∧
    (∃ (s : State) (h : HalfId) (secure : Bool) (seq : BitVec 10) (pay : List Word), (s.blk.accepts h secure 0x03 seq pay = true)) ∧
    (∃ (s : State) (h : HalfId) (secure : Bool) (seq : BitVec 10) (pay : List Word), (s.blk.accepts h secure 0x04 seq pay = true)) ∧
    (∃ (s : State) (h : HalfId) (secure : Bool) (seq : BitVec 10) (pay : List Word), (s.blk.accepts h secure 0x05 seq pay = true)) ∧
    (∃ (s : State) (h : HalfId) (secure : Bool) (seq : BitVec 10) (pay : List Word) (x : Stream), (s.blk.accepts h secure 0x06 seq pay = true) ∧ (bits (pw pay 1) 19 19 = 0) ∧ (s.blk.stream? h true (bits (pw pay 1) 23 20) = some x)) ∧
    (∃ (s : State) (h : HalfId) (secure : Bool) (seq : BitVec 10) (pay : List Word), (s.blk.accepts h secure 0x06 seq pay = true) ∧ (s.blk.stream? h (bits (pw pay 1) 19 19 == 0) (bits (pw pay 1) 23 20) = none)) ∧
    (∃ (s : State) (h : HalfId) (secure : Bool) (seq : BitVec 10) (pay : List Word) (x : Stream), (s.blk.accepts h secure 0x06 seq pay = true) ∧ (bits (pw pay 1) 19 19 = 1) ∧ (s.blk.stream? h false (bits (pw pay 1) 23 20) = some x)) ∧
    (∃ (s : State) (h : HalfId) (secure : Bool) (seq : BitVec 10) (pay : List Word) (o : Notice) (again : List Notice), (s.blk.accepts h secure 0x07 seq pay = true) ∧ ((s.blk.half h).hip.replay.head? = some o) ∧ (again = (s.blk.half h).hip.replay.dropWhile (fun n => n.seq != bits (pw pay 1) 9 0)) ∧ (again ≠ [])) ∧
    (∃ (s : State) (h : HalfId) (secure : Bool) (seq : BitVec 10) (pay : List Word), (s.blk.accepts h secure 0x08 seq pay = true) ∧ (bits (pw pay 1) 0 0 = 0)) ∧
    (∃ (s : State) (h : HalfId) (secure : Bool) (seq : BitVec 10) (pay : List Word), (s.blk.accepts h secure 0x08 seq pay = true) ∧ (bits (pw pay 1) 0 0 = 1) ∧ (s.blk.holdsHelm h = true)) ∧
    (∃ (s : State) (h : HalfId) (secure : Bool) (seq : BitVec 10) (pay : List Word), (s.blk.accepts h secure 0x08 seq pay = true) ∧ (bits (pw pay 1) 0 0 = 1) ∧ (s.blk.holdsHelm h = false)) ∧
    (∃ (s : State) (h : HalfId) (secure : Bool) (seq : BitVec 10) (pay : List Word), (s.blk.accepts h secure 0x0A seq pay = true)) ∧
    (∃ (s : State) (h : HalfId) (secure : Bool) (seq : BitVec 10) (pay : List Word) (n : List Word) (ok : Bool) (b : Block), (s.blk.accepts h secure 0x0B seq pay = true) ∧ (nth false s.blk.lockout h.num = false) ∧ ((s.blk.half h).hip.nonce = some n) ∧ (b = s.blk.modHip h (fun x => { x with nonce := none })) ∧ (ok = (Config.keyHashOk (pay.take 22) && Config.signatureOk n (pay.take 22) (pay.drop 22)))) ∧
    (∃ (s : State) (h : HalfId) (secure : Bool) (seq : BitVec 10) (pay : List Word), (s.blk.accepts h secure 0x0B seq pay = true) ∧ (nth false s.blk.lockout h.num = true)) ∧
    (∃ (s : State) (h : HalfId) (secure : Bool) (seq : BitVec 10) (pay : List Word), (s.blk.accepts h secure 0x0C seq pay = true)) ∧
    (∃ (s : State) (h : HalfId) (secure : Bool) (seq : BitVec 10) (pay : List Word) (parity : BitVec 15), (s.blk.hipActs h = false)) ∧
    (∃ (s : State) (h : HalfId), (nth false s.blk.lockout h.num = true)) ∧
    (∃ (s : State) (h : HalfId) (secure : Bool) (seq : BitVec 10) (pay : List Word), (s.blk.accepts h secure 0x0D seq pay = true) ∧ (pay.length = canTxWords (pw pay 1)) ∧ ((nth ⟨[]⟩ (s.blk.half h).can (bits (pw pay 1) 23 23)).tx.length < 8) ∧ (s.blk.canState h (bits (pw pay 1) 23 23) ≠ 3)) ∧
    (∃ (s : State) (h : HalfId) (secure : Bool) (seq : BitVec 10) (pay : List Word), (s.blk.accepts h secure 0x0E seq pay = true)) ∧
    (∃ (s : State) (h : HalfId) (secure : Bool) (seq : BitVec 10) (pay : List Word), (s.blk.accepts h secure 0x07 seq pay = true) ∧ ((s.blk.half h).hip.replay.dropWhile (fun n => n.seq != bits (pw pay 1) 9 0) = []) ∧ (bits (pw pay 1) 9 0 ≠ (s.blk.half h).hip.seq)) ∧
    (∃ (s : State) (h : HalfId) (secure : Bool) (seq : BitVec 10) (pay : List Word) (b : Block), (s.blk.accepts h secure 0x0B seq pay = true) ∧ (nth false s.blk.lockout h.num = false) ∧ ((s.blk.half h).hip.nonce = none) ∧ (b = s.blk.modHip h (fun x => { x with nonce := none }))) ∧
    (∃ (s : State) (h : HalfId), (nth false s.blk.lockout h.num = false)) ∧
    (∃ (s : State) (h : HalfId) (secure : Bool) (seq : BitVec 10) (pay : List Word), (s.blk.accepts h secure 0x0D seq pay = true) ∧ (pay.length ≠ canTxWords (pw pay 1))) ∧
    (∃ (s : State) (h : HalfId) (secure : Bool) (seq : BitVec 10) (pay : List Word), (s.blk.accepts h secure 0x0D seq pay = true) ∧ (pay.length = canTxWords (pw pay 1)) ∧ (8 ≤ (nth ⟨[]⟩ (s.blk.half h).can (bits (pw pay 1) 23 23)).tx.length)) ∧
    (∃ (s : State) (h : HalfId) (secure : Bool) (seq : BitVec 10) (pay : List Word), (s.blk.accepts h secure 0x0D seq pay = true) ∧ (pay.length = canTxWords (pw pay 1)) ∧ ((nth ⟨[]⟩ (s.blk.half h).can (bits (pw pay 1) 23 23)).tx.length < 8) ∧ (s.blk.canState h (bits (pw pay 1) 23 23) = 3)) :=
  ⟨⟨up, .a, false, 5, [], by decide⟩,
   ⟨up, .a, false, 5, [], by decide⟩,
   ⟨up, .a, false, 5, [], by decide⟩,
   ⟨up, .a, false, 5, [5], by decide⟩,
   ⟨up, .a, false, 5, [], by decide⟩,
   ⟨up, .a, false, 5, [1, 2], by decide⟩,
   ⟨upW (upSt st0), .a, false, 5, [0x100000], st0, by decide, by decide, by decide⟩,
   ⟨up, .a, false, 5, [0x100000], by decide, by decide⟩,
   ⟨upW fun b => (upSt ⟨0, false, 0x60, 1, 0, [(0, [7])], 0⟩ b).modHip .a fun x => { x with long := some ⟨0x60, false, 5, false, 0, false, false, stOK, [1]⟩ }, .a, false, 5, [0x080000], ⟨0, false, 0x60, 1, 0, [(0, [7])], 0⟩, by decide, by decide, by decide⟩,
   ⟨upW (fun b => b.modHip .a fun x => { x with replay := [⟨0xC0, 0, []⟩, ⟨0xC1, 1, []⟩] }), .a, false, 5, [1], ⟨0xC0, 0, []⟩, [⟨0xC1, 1, []⟩], by decide, by decide, by decide, by decide⟩,
   ⟨upCmd id, .a, true, 5, [0], by decide, by decide⟩,
   ⟨upCmd id, .a, true, 5, [1], by decide, by decide, by decide⟩,
   ⟨upW fun b => b.modHip .b fun x => { x with session := true }, .b, true, 5, [1], by decide, by decide, by decide⟩,
   ⟨up, .a, false, 5, [], by decide⟩,
   ⟨upW fun b => b.modHip .a fun x => { x with nonce := some [7] }, .a, false, 5, List.replicate 44 0, [7], _, _, by decide, by decide, by decide, rfl, rfl⟩,
   ⟨upW fun b => { b with lockout := [true, false] }, .a, false, 5, List.replicate 44 0, by decide, by decide⟩,
   ⟨upCmd id, .a, true, 5, [], by decide⟩,
   ⟨State.reset, .a, false, 5, [], 0, by decide⟩,
   ⟨upW fun b => { b with lockout := [true, false] }, .a, by decide⟩,
   ⟨upW fun b => b.setF .a F.CAN_STAT_STATE 0 0, .a, false, 5, [0, 0], by decide, by decide, by decide, by decide⟩,
   ⟨up, .a, false, 5, [0, 0, 0, 0], by decide⟩,
   ⟨up, .a, false, 5, [9], by decide, by decide, by decide⟩,
   ⟨up, .a, false, 5, List.replicate 44 0, _, by decide, by decide, by decide, rfl⟩,
   ⟨up, .a, by decide⟩,
   ⟨up, .a, false, 5, [0, 0, 0], by decide, by decide⟩,
   ⟨upW fun b => b.modCan .a 0 fun c => { c with tx := List.replicate 8 [0, 0] }, .a, false, 5, [0, 0], by decide, by decide, by decide⟩,
   ⟨upW fun b => b.setF .a F.CAN_STAT_STATE 3 0, .a, false, 5, [0, 0], by decide, by decide, by decide, by decide⟩⟩

theorem witness_ScheduleCommandsComplete :
    (∃ (s : State) (h : HalfId) (secure : Bool) (seq : BitVec 10) (pay : List Word), (s.blk.accepts h secure 0x10 seq pay = true) ∧ (s.blk.cfgIsOpen h = false) ∧ (s.blk.stream? h true (bits (pw pay 1) 23 20) = none) ∧ (pw pay 2 ≤ (if bits (pw pay 1) 19 16 = 0 then 98304 else 2048))) ∧
    (∃ (s : State) (h : HalfId) (secure : Bool) (seq : BitVec 10) (pay : List Word) (x : Stream), (s.blk.accepts h secure 0x11 seq pay = true) ∧ (s.blk.cfgStream h = some x) ∧ (x.complete = true)) ∧
    (∃ (s : State) (h : HalfId) (secure : Bool) (seq : BitVec 10) (pay : List Word) (x : Stream), (s.blk.accepts h secure 0x11 seq pay = true) ∧ (s.blk.cfgStream h = some x) ∧ (x.complete = false)) ∧
    (∃ (s : State) (h : HalfId) (secure : Bool) (seq : BitVec 10) (pay : List Word) (x : Stream), (s.blk.accepts h secure 0x12 seq pay = true) ∧ (s.blk.cfgIsOpen h = true) ∧ ((s.blk.half h).hip.long.all (fun c => c.code != 0x11 || c.arg != 0) = true) ∧ (s.blk.cfgStream h = some x)) ∧
    (∃ (s : State) (h : HalfId) (secure : Bool) (seq : BitVec 10) (pay : List Word), (s.blk.accepts h secure 0x12 seq pay = true) ∧ (s.blk.cfgIsOpen h = true) ∧ ((s.blk.half h).hip.long.all (fun c => c.code != 0x11 || c.arg != 0) = true) ∧ (s.blk.cfgStream h = none)) ∧
    (∃ (s : State) (h : HalfId) (secure : Bool) (seq : BitVec 10) (pay : List Word), (s.blk.accepts h secure 0x13 seq pay = true)) ∧
    (∃ (s : State) (h : HalfId) (secure : Bool) (seq : BitVec 10) (pay : List Word), (s.blk.accepts h secure 0x20 seq pay = true) ∧ (s.blk.stream? h true (bits (pw pay 1) 23 20) = none) ∧ (pw pay 2 ≤ 49152)) ∧
    (∃ (s : State) (h : HalfId) (secure : Bool) (seq : BitVec 10) (pay : List Word) (x : Stream), (s.blk.accepts h secure 0x21 seq pay = true) ∧ (s.blk.stream? h true (bits (pw pay 1) 23 20) = some x) ∧ (x.code = 0x20) ∧ (x.complete = true)) ∧
    (∃ (s : State) (h : HalfId) (secure : Bool) (seq : BitVec 10) (pay : List Word) (x : Stream), (s.blk.accepts h secure 0x21 seq pay = true) ∧ (s.blk.stream? h true (bits (pw pay 1) 23 20) = some x) ∧ (x.code = 0x20) ∧ (x.complete = false)) ∧
    (∃ (s : State) (h : HalfId) (secure : Bool) (seq : BitVec 10) (pay : List Word), (s.blk.accepts h secure 0x22 seq pay = true) ∧ (s.blk.phase h ≠ phSERVICE) ∧ (s.blk.phase h ≠ phBOOT) ∧ (s.blk.cfgIsOpen h = false)) ∧
    (∃ (s : State) (h : HalfId) (secure : Bool) (seq : BitVec 10) (pay : List Word), (s.blk.accepts h secure 0x22 seq pay = true) ∧ (s.blk.phase h = phSERVICE)) ∧
    (∃ (s : State) (h : HalfId) (secure : Bool) (seq : BitVec 10) (pay : List Word), (s.blk.accepts h secure 0x23 seq pay = true)) ∧
    (∃ (s : State) (h : HalfId) (secure : Bool) (seq : BitVec 10) (pay : List Word) (ws : List Word), (s.blk.accepts h secure 0x24 seq pay = true) ∧ (s.blk.inUse h = some ws)) ∧
    (∃ (s : State) (h : HalfId) (secure : Bool) (seq : BitVec 10) (pay : List Word), (s.blk.accepts h secure 0x24 seq pay = true) ∧ (s.blk.inUse h = none)) ∧
    (∃ (s : State) (h : HalfId) (secure : Bool) (seq : BitVec 10) (pay : List Word) (l : List Image), (s.blk.accepts h secure 0x25 seq pay = true) ∧ (l = ((s.blk.half h).sched.store.drop (bits (pw pay 1) 4 0)).take 30)) ∧
    (∃ (s : State) (h : HalfId) (secure : Bool) (seq : BitVec 10) (pay : List Word), (s.blk.accepts h secure 0x26 seq pay = true) ∧ ((s.blk.half h).sched.store.any (fun i => (i.setId == pw pay 1 && (bits (pw pay 2) 19 19 == 1 || i.mode == bits (pw pay 2) 23 20))) = true) ∧ ((s.blk.half h).sched.active ≠ pw pay 1)) ∧
    (∃ (s : State) (h : HalfId) (secure : Bool) (seq : BitVec 10) (pay : List Word), (s.blk.accepts h secure 0x26 seq pay = true) ∧ ((s.blk.half h).sched.store.any (fun i => (i.setId == pw pay 1 && (bits (pw pay 2) 19 19 == 1 || i.mode == bits (pw pay 2) 23 20))) = true) ∧ ((s.blk.half h).sched.active = pw pay 1)) ∧
    (∃ (s : State) (h : HalfId) (secure : Bool) (seq : BitVec 10) (pay : List Word) (parity : BitVec 15), (s.blk.accepts h secure 0x30 seq pay = true)) ∧
    (∃ (s : State) (h : HalfId) (secure : Bool) (seq : BitVec 10) (pay : List Word), (s.blk.accepts h secure 0x31 seq pay = true)) ∧
    (∃ (s : State) (h : HalfId) (secure : Bool) (seq : BitVec 10) (pay : List Word) (l : List Trim), (s.blk.accepts h secure 0x32 seq pay = true) ∧ ((s.blk.half h).sched.active ≠ 0) ∧ (trimPairs s.blk h (bits (pw pay 1) 23 20) 1 (s.blk.half h).sched.trims (pay.drop 1) = .inr l)) ∧
    (∃ (s : State) (h : HalfId) (secure : Bool) (seq : BitVec 10) (pay : List Word) (w : List Word), (s.blk.accepts h secure 0x32 seq pay = true) ∧ ((s.blk.half h).sched.active ≠ 0) ∧ (trimPairs s.blk h (bits (pw pay 1) 23 20) 1 (s.blk.half h).sched.trims (pay.drop 1) = .inl w)) ∧
    (∃ (s : State) (h : HalfId) (secure : Bool) (seq : BitVec 10) (pay : List Word) (r : ERec) (t : Trim), (s.blk.accepts h secure 0x33 seq pay = true) ∧ ((s.blk.half h).sched.active ≠ 0) ∧ (s.blk.recordOf h (bits (pw pay 1) 23 20) (bits (pw pay 2) 21 16) (bits (pw pay 2) 9 0) = some r) ∧ (r.trim = true) ∧ ((s.blk.half h).sched.trims.find? (fun t => t.isFor (s.blk.half h).sched.active (bits (pw pay 1) 23 20) (bits (pw pay 2) 21 16) (bits (pw pay 2) 9 0)) = some t)) ∧
    (∃ (s : State) (h : HalfId) (secure : Bool) (seq : BitVec 10) (pay : List Word), (s.blk.accepts h secure 0x34 seq pay = true)) ∧
    (∃ (s : State) (h : HalfId) (secure : Bool) (seq : BitVec 10) (pay : List Word), (s.blk.accepts h secure 0x40 seq pay = true) ∧ (s.blk.cfgIsOpen h = false) ∧ (phaseMove (s.blk.phase h) (pw pay 1) = true) ∧ (s.blk.phase h ≠ phHOLD)) ∧
    (∃ (s : State) (h : HalfId) (secure : Bool) (seq : BitVec 10) (pay : List Word), (s.blk.accepts h secure 0x40 seq pay = true) ∧ (phaseMove (s.blk.phase h) (pw pay 1) = false)) ∧
    (∃ (s : State) (h : HalfId) (secure : Bool) (seq : BitVec 10) (pay : List Word), (s.blk.accepts h secure 0x41 seq pay = true) ∧ ((s.blk.half h).hip.hasMode (pw pay 1) = true)) ∧
    (∃ (s : State) (h : HalfId) (secure : Bool) (seq : BitVec 10) (pay : List Word), (s.blk.accepts h secure 0x10 seq pay = true) ∧ (s.blk.cfgIsOpen h = true)) ∧
    (∃ (s : State) (h : HalfId) (secure : Bool) (seq : BitVec 10) (pay : List Word), (s.blk.accepts h secure 0x10 seq pay = true) ∧ (s.blk.cfgIsOpen h = false) ∧ ((s.blk.stream? h true (bits (pw pay 1) 23 20)).isSome = true)) ∧
    (∃ (s : State) (h : HalfId) (secure : Bool) (seq : BitVec 10) (pay : List Word), (s.blk.accepts h secure 0x10 seq pay = true) ∧ (s.blk.cfgIsOpen h = false) ∧ ((s.blk.stream? h true (bits (pw pay 1) 23 20)).isSome = false) ∧ ((if bits (pw pay 1) 19 16 = 0 then 98304 else 2048) < pw pay 2)) ∧
    (∃ (s : State) (h : HalfId) (secure : Bool) (seq : BitVec 10) (pay : List Word) (c : LongCmd), (s.blk.accepts h secure 0x12 seq pay = true) ∧ ((s.blk.half h).hip.long = some c) ∧ (c.code = 0x11) ∧ (c.arg = 0)) ∧
    (∃ (s : State) (h : HalfId) (secure : Bool) (seq : BitVec 10) (pay : List Word), (s.blk.accepts h secure 0x11 seq pay = true) ∧ (s.blk.cfgStream h = none)) ∧
    (∃ (s : State) (h : HalfId) (secure : Bool) (seq : BitVec 10) (pay : List Word), (s.blk.accepts h secure 0x12 seq pay = true) ∧ (s.blk.cfgIsOpen h = false)) ∧
    (∃ (s : State) (h : HalfId) (secure : Bool) (seq : BitVec 10) (pay : List Word), (s.blk.accepts h secure 0x20 seq pay = true) ∧ ((s.blk.stream? h true (bits (pw pay 1) 23 20)).isSome = true)) ∧
    (∃ (s : State) (h : HalfId) (secure : Bool) (seq : BitVec 10) (pay : List Word), (s.blk.accepts h secure 0x20 seq pay = true) ∧ ((s.blk.stream? h true (bits (pw pay 1) 23 20)).isSome = false) ∧ (49152 < pw pay 2)) ∧
    (∃ (s : State) (h : HalfId) (secure : Bool) (seq : BitVec 10) (pay : List Word), (s.blk.accepts h secure 0x21 seq pay = true) ∧ ((s.blk.stream? h true (bits (pw pay 1) 23 20)).map Stream.code ≠ some 0x20)) ∧
    (∃ (s : State) (h : HalfId) (secure : Bool) (seq : BitVec 10) (pay : List Word), (s.blk.accepts h secure 0x22 seq pay = true) ∧ (s.blk.phase h = phBOOT ∨ s.blk.cfgIsOpen h = true)) ∧
    (∃ (s : State) (h : HalfId) (secure : Bool) (seq : BitVec 10) (pay : List Word), (s.blk.accepts h secure 0x26 seq pay = true) ∧ ((s.blk.half h).sched.store.any (fun i => i.setId == pw pay 1) = false)) ∧
    (∃ (s : State) (h : HalfId) (secure : Bool) (seq : BitVec 10) (pay : List Word), (s.blk.accepts h secure 0x26 seq pay = true) ∧ ((s.blk.half h).sched.store.any (fun i => (i.setId == pw pay 1 && (bits (pw pay 2) 19 19 == 1 || i.mode == bits (pw pay 2) 23 20))) = false) ∧ ((s.blk.half h).sched.store.any (fun i => i.setId == pw pay 1) = true)) ∧
    (∃ (s : State) (h : HalfId) (secure : Bool) (seq : BitVec 10) (pay : List Word), (s.blk.accepts h secure 0x32 seq pay = true) ∧ ((s.blk.half h).sched.active = 0)) ∧
    (∃ (s : State) (h : HalfId) (secure : Bool) (seq : BitVec 10) (pay : List Word), (s.blk.accepts h secure 0x33 seq pay = true) ∧ ((s.blk.half h).sched.active = 0)) ∧
    (∃ (s : State) (h : HalfId) (secure : Bool) (seq : BitVec 10) (pay : List Word), (s.blk.accepts h secure 0x33 seq pay = true) ∧ ((s.blk.half h).sched.active ≠ 0) ∧ (s.blk.recordOf h (bits (pw pay 1) 23 20) (bits (pw pay 2) 21 16) (bits (pw pay 2) 9 0) = none)) ∧
    (∃ (s : State) (h : HalfId) (secure : Bool) (seq : BitVec 10) (pay : List Word) (r : ERec), (s.blk.accepts h secure 0x33 seq pay = true) ∧ ((s.blk.half h).sched.active ≠ 0) ∧ (s.blk.recordOf h (bits (pw pay 1) 23 20) (bits (pw pay 2) 21 16) (bits (pw pay 2) 9 0) = some r) ∧ (r.trim = false)) ∧
    (∃ (s : State) (h : HalfId) (secure : Bool) (seq : BitVec 10) (pay : List Word), (s.blk.accepts h secure 0x40 seq pay = true) ∧ (s.blk.cfgIsOpen h = true) ∧ (pw pay 1 ≠ phHOLD)) ∧
    (∃ (s : State) (h : HalfId) (secure : Bool) (seq : BitVec 10) (pay : List Word), (s.blk.accepts h secure 0x40 seq pay = true) ∧ (s.blk.cfgIsOpen h = false) ∧ (phaseMove (s.blk.phase h) (pw pay 1) = true) ∧ (s.blk.phase h = phHOLD) ∧ (s.blk.mayLeaveHold h = true)) ∧
    (∃ (s : State) (h : HalfId) (secure : Bool) (seq : BitVec 10) (pay : List Word), (s.blk.accepts h secure 0x40 seq pay = true) ∧ (s.blk.cfgIsOpen h = false) ∧ (phaseMove (s.blk.phase h) (pw pay 1) = true) ∧ (s.blk.phase h = phHOLD) ∧ (s.blk.mayLeaveHold h = false)) ∧
    (∃ (s : State) (h : HalfId) (secure : Bool) (seq : BitVec 10) (pay : List Word), (s.blk.accepts h secure 0x41 seq pay = true) ∧ ((s.blk.half h).hip.hasMode (pw pay 1) = false)) :=
  ⟨⟨upCmd id, .a, true, 5, [0, 100], by decide, by decide, by decide, by decide⟩,
   ⟨upCmd (upSt ⟨0, true, 0x10, 1, 0, [(0, [7])], 0⟩), .a, true, 5, [0, 0, 0, 0, 0], ⟨0, true, 0x10, 1, 0, [(0, [7])], 0⟩, by decide, by decide, by decide⟩,
   ⟨upCmd (upSt ⟨0, true, 0x10, 1, 0, [], 0⟩), .a, true, 5, [0, 0, 0, 0, 0], ⟨0, true, 0x10, 1, 0, [], 0⟩, by decide, by decide, by decide⟩,
   ⟨upCmd fun b => (upSt ⟨0, true, 0x10, 1, 0, [], 0⟩ b).modHip .a fun y => { y with cfg := 1 }, .a, true, 5, [], ⟨0, true, 0x10, 1, 0, [], 0⟩, by decide, by decide, by decide, by decide⟩,
   ⟨upCmd fun b => b.modHip .a fun y => { y with cfg := 1 }, .a, true, 5, [], by decide, by decide, by decide, by decide⟩,
   ⟨up, .a, false, 5, [], by decide⟩,
   ⟨up, .a, false, 5, [0, 100], by decide, by decide, by decide⟩,
   ⟨upW (upSt ⟨0, true, 0x20, 1, 0, [(0, [7])], 0⟩), .a, false, 5, [0], ⟨0, true, 0x20, 1, 0, [(0, [7])], 0⟩, by decide, by decide, by decide, by decide⟩,
   ⟨upW (upSt ⟨0, true, 0x20, 1, 0, [], 0⟩), .a, false, 5, [0], ⟨0, true, 0x20, 1, 0, [], 0⟩, by decide, by decide, by decide, by decide⟩,
   ⟨upW fun b => b.setF .a F.ADM_STAT_PHASE 1, .a, false, 5, [7], by decide, by decide, by decide, by decide⟩,
   ⟨up, .a, false, 5, [7], by decide, by decide⟩,
   ⟨up, .a, false, 5, [], by decide⟩,
   ⟨upSet, .a, false, 5, [], tImgT.words, by decide, by decide⟩,
   ⟨up, .a, false, 5, [], by decide, by decide⟩,
   ⟨upSet, .a, false, 5, [0], [tImgT], by decide, by decide⟩,
   ⟨upW fun b => b.modSched .a fun x => { x with store := [tImg] }, .a, false, 5, [7, 0x080000], by decide, by decide, by decide⟩,
   ⟨upSet, .a, false, 5, [7, 0x080000], by decide, by decide, by decide⟩,
   ⟨up, .a, false, 5, [0, 0, 0, 0], 0, by decide⟩,
   ⟨up, .a, false, 5, [0x400000], by decide⟩,
   ⟨upSet, .a, false, 5, [0, 0x030009, 0], (upSet.blk.half .a).sched.trims, by decide, by decide, by decide⟩,
   ⟨upSet, .a, false, 5, [0, 0x030008, 0], [statusWord cCONFIG_INVALID rsNOT_FOUND 1], by decide, by decide, by decide⟩,
   ⟨upSet, .a, false, 5, [0, 0x030009], imgRec tImgT.words 0, trim0, by decide, by decide, by decide, by decide, by decide⟩,
   ⟨up, .a, false, 5, [0, 3], by decide⟩,
   ⟨up, .a, false, 5, [4], by decide, by decide, by decide, by decide⟩,
   ⟨up, .a, false, 5, [2], by decide, by decide⟩,
   ⟨up, .a, false, 5, [0], by decide, by decide⟩,
   ⟨upCmd fun b => b.modHip .a fun x => { x with cfg := 1 }, .a, true, 5, [0, 100], by decide, by decide⟩,
   ⟨upCmd (upSt ⟨0, true, 0x20, 1, 0, [], 0⟩), .a, true, 5, [0, 100], by decide, by decide, by decide⟩,
   ⟨upCmd id, .a, true, 5, [0x010000, 2049], by decide, by decide, by decide, by decide⟩,
   ⟨upCmd fun b => b.modHip .a fun x => { x with cfg := 1, long := some ⟨0x11, true, 5, false, 0, false, false, stOK, []⟩ }, .a, true, 5, [], ⟨0x11, true, 5, false, 0, false, false, stOK, []⟩, by decide, by decide, by decide, by decide⟩,
   ⟨upCmd id, .a, true, 5, [0, 0, 0, 0, 0], by decide, by decide⟩,
   ⟨upCmd id, .a, true, 5, [], by decide, by decide⟩,
   ⟨upW (upSt ⟨0, true, 0x20, 1, 0, [], 0⟩), .a, false, 5, [0, 49153], by decide, by decide⟩,
   ⟨up, .a, false, 5, [0, 49153], by decide, by decide, by decide⟩,
   ⟨up, .a, false, 5, [0], by decide, by decide⟩,
   ⟨upW fun b => (b.setF .a F.ADM_STAT_PHASE 1).modHip .a fun x => { x with cfg := 1 }, .a, false, 5, [7], by decide, by decide⟩,
   ⟨up, .a, false, 5, [7, 0x080000], by decide, by decide⟩,
   ⟨upSet, .a, false, 5, [7, 0x500000], by decide, by decide, by decide⟩,
   ⟨up, .a, false, 5, [0, 0x030009, 0], by decide, by decide⟩,
   ⟨up, .a, false, 5, [0, 0x030009], by decide, by decide⟩,
   ⟨upSet, .a, false, 5, [0, 0x030008], by decide, by decide, by decide⟩,
   ⟨upSetN, .a, false, 5, [0, 0x030009], imgRec tImgN.words 0, by decide, by decide, by decide, by decide⟩,
   ⟨upW fun b => b.modHip .a fun x => { x with cfg := 1 }, .a, false, 5, [4], by decide, by decide, by decide⟩,
   ⟨upW fun b => ((b.setF .a F.ADM_STAT_PHASE 1).setF .a F.HLM_STAT_BRIDGE 0).modHip .a fun x => { x with cfg := 2, base := [0], cfgSeq := 5 }, .a, false, 5, [2], by decide, by decide, by decide, by decide, by decide⟩,
   ⟨upW fun b => b.setF .a F.ADM_STAT_PHASE 1, .a, false, 5, [2], by decide, by decide, by decide, by decide, by decide⟩,
   ⟨up, .a, false, 5, [3], by decide, by decide⟩⟩

theorem witness_RegisterAndFirmwareCommandsComplete :
    (∃ (s : State) (h : HalfId) (secure : Bool) (seq : BitVec 10) (pay : List Word) (r : List Word × Bool × State), (s.blk.accepts h secure 0x50 seq pay = true) ∧ (r = State.readRun (s.blk.hipMaster h) (pw pay 2) (pw pay 1) s)) ∧
    (∃ (s : State) (h : HalfId) (secure : Bool) (seq : BitVec 10) (pay : List Word) (r : Nat × Bool × State), (s.blk.accepts h secure 0x51 seq pay = true) ∧ (s.blk.phase h = phTEST) ∧ (r = State.writeRun (s.blk.hipMaster h) (pw pay 1) (pay.drop 1) s)) ∧
    (∃ (s : State) (h : HalfId) (secure : Bool) (seq : BitVec 10) (pay : List Word), (s.blk.accepts h secure 0x51 seq pay = true) ∧ (s.blk.phase h ≠ phTEST)) ∧
    (∃ (s : State) (h : HalfId) (secure : Bool) (seq : BitVec 10) (pay : List Word) (ws : List Word), (s.blk.accepts h secure 0x60 seq pay = true) ∧ (s.blk.stream? h false (bits (pw pay 1) 23 20) = none) ∧ (ws = (List.range (pw pay 2)).flatMap (fun i => s.blk.logEntry h ((bits (pw pay 1) 7 0 + i) % 256)))) ∧
    (∃ (s : State) (h : HalfId) (secure : Bool) (seq : BitVec 10) (pay : List Word), (s.blk.accepts h secure 0x61 seq pay = true)) ∧
    (∃ (s : State) (h : HalfId) (secure : Bool) (seq : BitVec 10) (pay : List Word), (s.blk.accepts h secure 0x62 seq pay = true) ∧ (s.blk.stream? h false (bits (pw pay 1) 23 20) = none)) ∧
    (∃ (s : State) (h : HalfId) (secure : Bool) (seq : BitVec 10) (pay : List Word), (s.blk.accepts h secure 0x70 seq pay = true) ∧ (s.blk.phase h = phHOLD ∨ s.blk.phase h = phTEST) ∧ (s.blk.stream? h true (bits (pw pay 1) 23 20) = none) ∧ (pw pay 2 ≤ 196608)) ∧
    (∃ (s : State) (h : HalfId) (secure : Bool) (seq : BitVec 10) (pay : List Word) (x : Stream), (s.blk.accepts h secure 0x71 seq pay = true) ∧ (s.blk.stream? h true (bits (pw pay 1) 23 20) = some x) ∧ (x.code = 0x70) ∧ (x.complete = true)) ∧
    (∃ (s : State) (h : HalfId) (secure : Bool) (seq : BitVec 10) (pay : List Word) (t : State), (s.blk.accepts h secure 0x72 seq pay = true) ∧ (s.blk.phase h = phHOLD ∨ s.blk.phase h = phTEST) ∧ ((s.firm h).checked = true)) ∧
    (∃ (s : State) (h : HalfId) (secure : Bool) (seq : BitVec 10) (pay : List Word) (ok : Bool) (t : State), (s.blk.accepts h secure 0x73 seq pay = true) ∧ (ok = (decide ((s.fuse h).secver < pw pay 1) && [0, 1].all (fun i => fwGood (s.fuse h).keyPos (pw pay 1) ((s.firm h).slot i)))) ∧ (t = s.setFuse h { s.fuse h with secver := pw pay 1 })) ∧
    (∃ (s : State) (h : HalfId) (secure : Bool) (seq : BitVec 10) (pay : List Word) (ok : Bool) (t : State), (s.blk.accepts h secure 0x74 seq pay = true) ∧ (ok = (decide ((s.fuse h).keyPos < 3) && [0, 1].all (fun i => Config.fwVerifies ((s.fuse h).keyPos + 1) ((s.firm h).slot i)))) ∧ (t = s.setFuse h { s.fuse h with keyPos := (s.fuse h).keyPos + 1 })) ∧
    (∃ (s : State) (h : HalfId) (secure : Bool) (seq : BitVec 10) (pay : List Word), (s.blk.accepts h secure 0x60 seq pay = true) ∧ ((s.blk.stream? h false (bits (pw pay 1) 23 20)).isSome = true)) ∧
    (∃ (s : State) (h : HalfId) (secure : Bool) (seq : BitVec 10) (pay : List Word), (s.blk.accepts h secure 0x62 seq pay = true) ∧ ((s.blk.stream? h false (bits (pw pay 1) 23 20)).isSome = true)) ∧
    (∃ (s : State) (h : HalfId) (secure : Bool) (seq : BitVec 10) (pay : List Word), (s.blk.accepts h secure 0x70 seq pay = true) ∧ (¬(s.blk.phase h = phHOLD ∨ s.blk.phase h = phTEST))) ∧
    (∃ (s : State) (h : HalfId) (secure : Bool) (seq : BitVec 10) (pay : List Word), (s.blk.accepts h secure 0x70 seq pay = true) ∧ (s.blk.phase h = phHOLD ∨ s.blk.phase h = phTEST) ∧ ((s.blk.stream? h true (bits (pw pay 1) 23 20)).isSome = true)) ∧
    (∃ (s : State) (h : HalfId) (secure : Bool) (seq : BitVec 10) (pay : List Word), (s.blk.accepts h secure 0x70 seq pay = true) ∧ (s.blk.phase h = phHOLD ∨ s.blk.phase h = phTEST) ∧ ((s.blk.stream? h true (bits (pw pay 1) 23 20)).isSome = false) ∧ (196608 < pw pay 2)) ∧
    (∃ (s : State) (h : HalfId) (secure : Bool) (seq : BitVec 10) (pay : List Word), (s.blk.accepts h secure 0x71 seq pay = true) ∧ ((s.blk.stream? h true (bits (pw pay 1) 23 20)).map Stream.code ≠ some 0x70)) ∧
    (∃ (s : State) (h : HalfId) (secure : Bool) (seq : BitVec 10) (pay : List Word) (x : Stream), (s.blk.accepts h secure 0x71 seq pay = true) ∧ (s.blk.stream? h true (bits (pw pay 1) 23 20) = some x) ∧ (x.code = 0x70) ∧ (x.complete = false)) ∧
    (∃ (s : State) (h : HalfId) (secure : Bool) (seq : BitVec 10) (pay : List Word), (s.blk.accepts h secure 0x72 seq pay = true) ∧ ((s.firm h).checked = true) ∧ (¬(s.blk.phase h = phHOLD ∨ s.blk.phase h = phTEST))) ∧
    (∃ (s : State) (h : HalfId) (secure : Bool) (seq : BitVec 10) (pay : List Word), (s.blk.accepts h secure 0x72 seq pay = true) ∧ ((s.firm h).checked = false)) ∧
    (∃ (s : State) (h : HalfId) (secure : Bool) (code : BitVec 7) (seq : BitVec 10) (pay : List Word), (s.blk.hipActs h = true) ∧ ((cmdForm code.toNat).isNone = true) ∧ (pay.length ≤ 63) ∧ (s.blk.stored? h secure (header code.toNat pay.length seq.toNat) = none)) ∧
    (∃ (s : State) (h : HalfId) (secure : Bool) (hdr : Word) (pay : List Word) (b : Block), (b = s.blk.setPart h secure []) ∧ (((s.blk.half h).hip.pair secure).part = hdr :: pay) ∧ (s.blk.hipActs h = true) ∧ (bits hdr.toNat 23 23 = 0) ∧ (b.stored? h secure hdr = none) ∧ ((match cmdForm (bits hdr.toNat 23 16) with | some f => f.counts (bits hdr.toNat 15 10) | none => false) = true) ∧ (pay.length < bits hdr.toNat 15 10)) ∧
    (∃ (s : State) (h : HalfId) (secure : Bool) (hdr : Word) (pay : List Word), (((s.blk.half h).hip.pair secure).part ≠ hdr :: pay)) ∧
    (∃ (s : State) (h : HalfId) (secure : Bool) (code : BitVec 7) (seq : BitVec 10) (pay : List Word), (s.blk.hipActs h = false)) :=
  ⟨⟨up, .a, false, 5, [0, 2], _, by decide, rfl⟩,
   ⟨upW fun b => b.setF .a F.ADM_STAT_PHASE 5, .a, false, 5, [0, 2], _, by decide, by decide, rfl⟩,
   ⟨up, .a, false, 5, [0, 2], by decide, by decide⟩,
   ⟨up, .a, false, 5, [0, 1], _, by decide, by decide, rfl⟩,
   ⟨up, .a, false, 5, [], by decide⟩,
   ⟨up, .a, false, 5, [0], by decide, by decide⟩,
   ⟨upCmd fun b => b.setF .a F.ADM_STAT_PHASE 1, .a, true, 5, [0, 100], by decide, by decide, by decide, by decide⟩,
   ⟨upCmd (upSt ⟨0, true, 0x70, 1, 0, [(0, [7])], 0⟩), .a, true, 5, [0], ⟨0, true, 0x70, 1, 0, [(0, [7])], 0⟩, by decide, by decide, by decide, by decide⟩,
   ⟨{ upCmd (fun b => b.setF .a F.ADM_STAT_PHASE 1) with firmA := { (upCmd id).firmA with checked := true } }, .a, true, 5, [], up, by decide, by decide, by decide⟩,
   ⟨upCmd id, .a, true, 5, [1], _, _, by decide, rfl, rfl⟩,
   ⟨upCmd id, .a, true, 5, [], _, _, by decide, rfl, rfl⟩,
   ⟨upW (upSt ⟨0, false, 0x51, 1, 0, [(0, [7])], 0⟩), .a, false, 5, [0, 1], by decide, by decide⟩,
   ⟨upW (upSt ⟨0, false, 0x51, 1, 0, [(0, [7])], 0⟩), .a, false, 5, [0], by decide, by decide⟩,
   ⟨upCmd id, .a, true, 5, [0, 100], by decide, by decide⟩,
   ⟨upCmd fun b => upSt ⟨0, true, 0x70, 1, 0, [], 0⟩ (b.setF .a F.ADM_STAT_PHASE 1), .a, true, 5, [0, 196609], by decide, by decide, by decide⟩,
   ⟨upCmd fun b => b.setF .a F.ADM_STAT_PHASE 1, .a, true, 5, [0, 196609], by decide, by decide, by decide, by decide⟩,
   ⟨upCmd id, .a, true, 5, [0], by decide, by decide⟩,
   ⟨upCmd (upSt ⟨0, true, 0x70, 1, 0, [], 0⟩), .a, true, 5, [0], ⟨0, true, 0x70, 1, 0, [], 0⟩, by decide, by decide, by decide, by decide⟩,
   ⟨{ upCmd id with firmA := { (upCmd id).firmA with checked := true } }, .a, true, 5, [], by decide, by decide, by decide⟩,
   ⟨upCmd fun b => b, .a, true, 5, [], by decide, by decide⟩,
   ⟨up, .a, false, 0x7F, 5, [], by decide, by decide, by decide, by decide⟩,
   ⟨upW fun b => b.setPart .a false [0x030405], .a, false, 0x030405, [], _, rfl, by decide, by decide, by decide, by decide, by decide, by decide⟩,
   ⟨up, .a, false, 0x030405, [], by decide⟩,
   ⟨State.reset, .a, false, 0x7F, 5, [], by decide⟩⟩

theorem witness_CompletionAndNoticesComplete :
    (∃ (s : State) (h : HalfId) (c : LongCmd) (t : State) (st : Word) (ws : List Word), (s.blk.hipActs h = true) ∧ ((s.blk.half h).hip.long = some c) ∧ (s.longEnd h c = some (t, st, ws))) ∧
    (∃ (s : State) (h : HalfId) (c : LongCmd), (s.blk.hipActs h = true) ∧ ((s.blk.half h).hip.long = some c) ∧ (c.helm = true) ∧ (c.posted = false) ∧ (c.helmLost = true ∨ s.blk.holdsHelm h = false)) ∧
    (∃ (s : State) (h : HalfId), (s.blk.hipActs h = true) ∧ ((s.blk.half h).batchDue = true) ∧ ((s.blk.half h).hip.out6.any (fun n => n.code == 0xC3) = false)) ∧
    (∃ (s : State) (h : HalfId), (s.blk.hipActs h = false ∨ (s.blk.half h).batchDue = false ∨ (s.blk.half h).hip.out6.any (fun n => n.code == 0xC3) = true)) ∧
    (∃ (s : State) (h : HalfId), (s.blk.hipActs h = false ∨ (s.blk.half h).hip.faults = [])) ∧
    (∃ (s : State) (h : HalfId), (s.blk.hipActs h = false ∨ (s.blk.half h).hip.long = none)) ∧
    (∃ (s : State) (h : HalfId) (d : FaultDue) (rest : List FaultDue) (b : Block), (s.blk.hipActs h = true) ∧ ((s.blk.half h).hip.faults = d :: rest) ∧ (b = (s.blk.modHip h fun x => { x with faults := rest, skipped := 0 }).notice h 0xC9
        (d.entry ++ [wd (bitOf d.peer * 2 ^ 23 + (s.blk.half h).hip.skipped * 2 ^ 15 + d.slot)]))) :=
  ⟨⟨upW fun b => b.modHip .a fun x => { x with long := some ⟨0x60, false, 5, false, 1, false, false, stOK, [4]⟩ }, .a, ⟨0x60, false, 5, false, 1, false, false, stOK, [4]⟩, upW fun b => b.modHip .a fun x => { x with long := some ⟨0x60, false, 5, false, 1, false, false, stOK, [4]⟩ }, stOK, [4], by decide, by decide, by decide⟩,
   ⟨upW fun b => b.modHip .a fun x => { x with long := some ⟨0x22, false, 5, true, 1, false, true, stOK, []⟩ }, .a, ⟨0x22, false, 5, true, 1, false, true, stOK, []⟩, by decide, by decide, by decide, by decide, by decide⟩,
   ⟨upW fun b => b.modHalf .a fun x => { x with evn := List.replicate 15 rec0 }, .a, by decide, by decide, by decide⟩,
   ⟨up, .a, by decide⟩,
   ⟨up, .a, by decide⟩,
   ⟨up, .a, by decide⟩,
   ⟨upW fun b => b.modHip .a fun x => { x with faults := [⟨0, [1, 2, 3, 4], false, false⟩] }, .a, ⟨0, [1, 2, 3, 4], false, false⟩, [], _, by decide, by decide, rfl⟩⟩

theorem witness_ResetRowsComplete :
    (∃ (s : State) (timers : List (Fin 16)) (spares : List (Fin 2)) (b : Block), (b = s.blk.aonReset.setF .a F.TMR_SPARE_SFAIL (total (fun i => if spares.any (fun j => j.val == i) then 2 ^ i else 0) [0, 1]))) ∧
    (∃ (s : State) (b : Block), (s.blk.rung .a < 4 ∨ s.blk.rung .b < 4) ∧ (s.blk.ha.live = true) ∧ (s.blk.hb.live = true) ∧ (b = (s.blk.report .a cOK 0 26 127 0x301).report .b cOK 0 26 127 0x301)) ∧
    (∃ (s : State) (b : Block), (s.blk.rung .a < 4 ∨ s.blk.rung .b < 4) ∧ (b = [HalfId.a, HalfId.b].foldl (fun t h => if (t.half h).live then t.report h cOK 0 26 127 0x301 else t) s.blk)) ∧
    (∃ (s : State), (4 ≤ s.blk.rung .a) ∧ (4 ≤ s.blk.rung .b)) ∧
    (∃ (s : State) (h : HalfId), ((s.blk.half h).hip.resetIn = some false)) ∧
    (∃ (s : State) (h : HalfId), ((s.blk.half h).hip.resetIn = some true)) ∧
    (∃ (s : State) (h : HalfId), ((s.blk.half h).hip.resetIn = none)) ∧
    (∃ (s : State) (h : HalfId), ((s.blk.half h).live = false)) ∧
    (∃ (s : State) (h : HalfId), ((s.blk.half h).live = true)) :=
  ⟨⟨up, [3], [], _, rfl⟩,
   ⟨up, _, by decide, by decide, by decide, rfl⟩,
   ⟨State.reset, _, by decide, rfl⟩,
   ⟨upW fun b => (b.setF .a F.PWR_STAT_STA 4).setF .a F.PWR_STAT_STB 4, by decide, by decide⟩,
   ⟨upW fun b => b.modHip .a fun x => { x with resetIn := some false }, .a, by decide⟩,
   ⟨upW fun b => b.modHip .a fun x => { x with resetIn := some true }, .a, by decide⟩,
   ⟨up, .a, by decide⟩,
   ⟨State.reset, .a, by decide⟩,
   ⟨up, .a, by decide⟩⟩

theorem witness_StartRowsComplete :
    (∃ (s : State) (h : HalfId) (helmpre : Bool) (sa : Bool) (b : Block), ((s.blk.half h).live = false) ∧ (s.blk.rung h = 0) ∧ (b = (((s.blk.modHalf h fun x => { x with live := true, hip := { x.hip with standalone := sa && h == .a } }).setF h F.HLM_STAT_PREF (bitOf (helmpre == (h == .b)))).setF h F.CRP_STAT_REFOK 1).modHl h fun y => { y with straps := (helmpre, sa) }) ∧ ((b.holdsHelm h.peer && (b.half h.peer).live) = false)) ∧
    (∃ (s : State) (h : HalfId) (helmpre : Bool) (sa : Bool) (b : Block), ((s.blk.half h).live = false) ∧ (s.blk.rung h = 0) ∧ (b = (((s.blk.modHalf h fun x => { x with live := true, hip := { x.hip with standalone := sa && h == .a } }).setF h F.HLM_STAT_PREF (bitOf (helmpre == (h == .b)))).setF h F.CRP_STAT_REFOK 1).modHl h fun y => { y with straps := (helmpre, sa) }) ∧ ((b.holdsHelm h.peer && (b.half h.peer).live) = true)) ∧
    (∃ (s : State) (h : HalfId) (helmpre : Bool) (sa : Bool), ((s.blk.half h).live = true ∨ s.blk.rung h ≠ 0)) ∧
    (∃ (s : State) (h : HalfId), ((s.blk.half h).live = true) ∧ (s.blk.rung h < 2 ∨ (s.blk.half h).pwr.waking ≠ none)) ∧
    (∃ (s : State) (h : HalfId), ((s.blk.half h).live = true) ∧ (s.blk.rung h < 2 ∨ (s.blk.half h).pwr.waking ≠ none) ∧ (s.blk.f h F.QHL_STAT_STATE = lkDOWN)) ∧
    (∃ (s : State) (h : HalfId), ((s.blk.half h).live = true) ∧ (s.blk.rung h < 2 ∨ (s.blk.half h).pwr.waking ≠ none) ∧ (s.blk.f h F.QHL_STAT_STATE ≠ lkDOWN)) ∧
    (∃ (s : State) (h : HalfId) (i : Fin 4), ((s.blk.half h).live = false ∨ (2 ≤ s.blk.rung h ∧ (s.blk.half h).pwr.waking = none))) ∧
    (∃ (s : State) (h : HalfId) (i : Fin 4), (s.blk.on h (lockFld i) = false)) ∧
    (∃ (s : State) (h : HalfId) (i : Fin 4), (s.blk.on h (lockFld i) = true) ∧ (i.val < 2)) ∧
    (∃ (s : State) (h : HalfId), (s.blk.on h F.CRP_STAT_ADCLOCK = true)) ∧
    (∃ (s : State) (h : HalfId), (s.blk.on h F.CRP_STAT_HLLOCK = true)) ∧
    (∃ (s : State) (h : HalfId) (cause : Nat) (r : Option (Nat × Nat)) (b : Block), ((s.blk.half h).live = true) ∧ (s.blk.phase h = phBOOT) ∧ ((s.blk.half h).hip.running = false) ∧ (s.blk.allLocked h = true) ∧ (cause = s.blk.f h F.CRP_STAT_RCAUSE) ∧ (r = bootSlot (s.fuse h) (s.firm h)) ∧ (b = (match r with
        | some (i, res) => s.blk.modHalf h fun y => { y with hip := { y.hip with running := true } }.addNotice 0xC0 [wd (res * 2 ^ 16 + i * 2 ^ 15), Config.fwVersion ((s.firm h).slot i), wd cause]
        | none => s.blk.modHalf h fun y => { y.addNotice 0xC0 [wd (2 * 2 ^ 16 + (s.firm h).active * 2 ^ 15), 0, wd cause] with
            hip := { (y.addNotice 0xC0 [wd (2 * 2 ^ 16 + (s.firm h).active * 2 ^ 15), 0, wd cause]).hip with
              bootReport := (((y.addNotice 0xC0 [wd (2 * 2 ^ 16 + (s.firm h).active * 2 ^ 15), 0, wd cause]).hip.out6.getLast?).map Notice.post).getD [] } }))) ∧
    (∃ (s : State) (h : HalfId), ((s.blk.half h).live = false ∨ s.blk.phase h ≠ phBOOT ∨ (s.blk.half h).hip.running = true ∨ s.blk.allLocked h = false)) ∧
    (∃ (s : State) (h : HalfId) (x : SelfTest), (s.blk.booting h = false ∨ s.blk.on h F.TSC_XSTAT_VALID = false)) ∧
    (∃ (s : State) (h : HalfId) (x : SelfTest), (s.blk.booting h = false ∨ s.blk.on h F.HLM_STAT_PEERFW = true ∨ s.blk.on h F.TSC_XSTAT_VALID = true)) ∧
    (∃ (s : State) (h : HalfId) (x : SelfTest), (s.blk.booting h = true) ∧ (s.blk.on h F.HLM_STAT_PEERFW = false) ∧ (s.blk.on h F.TSC_XSTAT_VALID = false)) ∧
    (∃ (s : State) (h : HalfId) (x : SelfTest), (s.blk.booting h = true) ∧ (s.blk.on h F.TSC_XSTAT_VALID = true)) ∧
    (∃ (s : State) (flash : List (BitVec 8)), (s.blk.saRuns .a = true) ∧ (s.blk.hipActs .a = true) ∧ (saDirOk (flashWords flash) = false)) ∧
    (∃ (s : State) (flash : List (BitVec 8)) (r : State × Option (Nat × Nat × Nat)) (b : Block), (s.blk.saRuns .a = true) ∧ (s.blk.hipActs .a = true) ∧ (r = s.saRun (flashWords flash)) ∧ (b = r.1.blk.modHip .a (fun x => { x with standalone := false }))) ∧
    (∃ (s : State) (flash : List (BitVec 8)), (s.blk.saRuns .a = false ∨ s.blk.hipActs .a = false)) ∧
    (∃ (s : State) (err : BitVec 16), (((s.blk.half .a).live && s.blk.holdsHelm .a && s.blk.rung .a == 0) = false) ∧ (((s.blk.half .b).live && s.blk.holdsHelm .b && s.blk.rung .b == 0) = false)) ∧
    (∃ (s : State) (err : BitVec 16) (h : HalfId), ((s.blk.half h).live = true) ∧ (s.blk.holdsHelm h = true) ∧ (s.blk.rung h = 0) ∧ (s.blk.holdsHelm h.peer = false) ∧ (err.toInt.natAbs ≤ 500)) ∧
    (∃ (s : State) (err : BitVec 16) (h : HalfId), ((s.blk.half h).live = true) ∧ (s.blk.holdsHelm h = true) ∧ (s.blk.rung h = 0) ∧ (s.blk.holdsHelm h.peer = false) ∧ (500 < err.toInt.natAbs)) :=
  ⟨⟨State.reset, .a, false, false, _, by decide, by decide, rfl, by decide⟩,
   ⟨upW fun b => b.modHalf .b fun x => { x with live := false }, .b, false, false, _, by decide, by decide, rfl, by decide⟩,
   ⟨up, .a, false, false, by decide⟩,
   ⟨up, .a, by decide, by decide⟩,
   ⟨up, .a, by decide, by decide, by decide⟩,
   ⟨upLink id, .a, by decide, by decide, by decide⟩,
   ⟨State.reset, .a, 0, by decide⟩,
   ⟨up, .a, 0, by decide⟩,
   ⟨upW fun b => b.setF .a F.CRP_STAT_SYSLOCK 1, .a, 0, by decide, by decide⟩,
   ⟨upW fun b => b.setF .a F.CRP_STAT_ADCLOCK 1, .a, by decide⟩,
   ⟨upW fun b => b.setF .a F.CRP_STAT_HLLOCK 1, .a, by decide⟩,
   ⟨upW fun b => (((((b.setF .a F.ADM_STAT_PHASE 0).setF .a F.CRP_STAT_SYSLOCK 1).setF .a F.CRP_STAT_ANGLOCK 1).setF .a F.CRP_STAT_ADCLOCK 1).setF .a F.CRP_STAT_HLLOCK 1).modHip .a (fun x => { x with running := false }) |>.setF .a F.CRP_STAT_RCAUSE 6, .a, 6, _, _, by decide, by decide, by decide, by decide, by decide, rfl, rfl⟩,
   ⟨up, .a, by decide⟩,
   ⟨up, .a, ⟨[], [], [], [], []⟩, by decide⟩,
   ⟨up, .a, ⟨[], [], [], [], []⟩, by decide⟩,
   ⟨upW fun b => b.setF .a F.ADM_STAT_PHASE 0, .a, ⟨[], [], [], [], []⟩, by decide, by decide, by decide⟩,
   ⟨upW fun b => (b.setF .a F.ADM_STAT_PHASE 0).setF .a F.TSC_XSTAT_VALID 1, .a, ⟨[], [], [], [], []⟩, by decide, by decide⟩,
   ⟨upW fun b => ((b.setF .a F.ADM_STAT_PHASE 1).setF .b F.ADM_STAT_PHASE 1).modHip .a fun x => { x with standalone := true }, [0], by decide, by decide, by decide⟩,
   ⟨upW fun b => ((b.setF .a F.ADM_STAT_PHASE 1).setF .b F.ADM_STAT_PHASE 1).modHip .a fun x => { x with standalone := true }, [0], _, _, by decide, by decide, rfl, rfl⟩,
   ⟨up, [0], by decide⟩,
   ⟨State.reset, 7, by decide, by decide⟩,
   ⟨up, 7, .a, by decide, by decide, by decide, by decide, by decide⟩,
   ⟨up, 501, .a, by decide, by decide, by decide, by decide, by decide⟩⟩

theorem witness_LadderRowsComplete :
    (∃ (s : State) (h : HalfId) (b : Block), (s.blk.mayDescend h = true) ∧ (s.blk.rung h < s.blk.f .a (targetFld h)) ∧ (s.blk.lateWake h = none) ∧ (s.blk.rung h = 0) ∧ (b = s.blk.report h cOK 0 26 127 (256 + s.blk.f .a (targetFld h)))) ∧
    (∃ (s : State) (h : HalfId), (s.blk.mayDescend h = true) ∧ (s.blk.rung h < s.blk.f .a (targetFld h)) ∧ (s.blk.lateWake h = none) ∧ (s.blk.rung h = 1)) ∧
    (∃ (s : State) (h : HalfId), (s.blk.mayDescend h = true) ∧ (s.blk.rung h < s.blk.f .a (targetFld h)) ∧ (s.blk.lateWake h = none) ∧ (s.blk.rung h = 2)) ∧
    (∃ (s : State) (h : HalfId), (s.blk.mayDescend h = true) ∧ (s.blk.rung h < s.blk.f .a (targetFld h)) ∧ (s.blk.lateWake h = none) ∧ (s.blk.rung h = 3)) ∧
    (∃ (s : State) (h : HalfId), (s.blk.mayDescend h = true) ∧ (s.blk.rung h < s.blk.f .a (targetFld h)) ∧ (s.blk.lateWake h = none) ∧ (s.blk.rung h = 4)) ∧
    (∃ (s : State) (h : HalfId) (bit : Nat) (deepest : Nat) (b : Block), (s.blk.mayDescend h = true) ∧ (s.blk.rung h < s.blk.f .a (targetFld h)) ∧ (s.blk.lateWake h = some (bit, deepest)) ∧ (s.blk.rung h = 1) ∧ (b = (((s.blk.setF .a (rungFld h) 2).enterRung h 2).setF h F.CRP_LADDER_DEEPEST 2).modPwr h fun x => { x with going := decide (2 < s.blk.f .a (targetFld h)) })) ∧
    (∃ (s : State) (h : HalfId), (s.blk.mayDescend h = true) ∧ (s.blk.f .a (targetFld h) ≤ s.blk.rung h)) ∧
    (∃ (s : State) (h : HalfId), (s.blk.mayDescend h = false) ∧ ((s.blk.half h).pwr.going = true)) ∧
    (∃ (s : State) (h : HalfId), (s.blk.mayDescend h = false) ∧ ((s.blk.half h).pwr.going = false)) ∧
    (∃ (s : State) (level : Bool), (level = s.blk.on .a F.WAKE_CFG_KEYPOL)) ∧
    (∃ (s : State) (level : Bool), (level ≠ s.blk.on .a F.WAKE_CFG_KEYPOL) ∧ (s.blk.on .a F.WAKE_CFG_KEYEN = true)) ∧
    (∃ (s : State) (level : Bool), (s.blk.on .a F.WAKE_CFG_KEYEN = false)) ∧
    (∃ (s : State) (n : Fin 6) (edges : BitVec 8), (bits (s.blk.f .a F.WAKE_CFG_CRKCAM) (5 - n) (5 - n) = 0 ∨ edges.toNat < s.blk.f .a F.WAKE_TH_CNT ∨ edges = 0)) ∧
    (∃ (s : State) (n : Fin 6) (edges : BitVec 8), (bits (s.blk.f .a F.WAKE_CFG_CRKCAM) (5 - n) (5 - n) = 1) ∧ (s.blk.f .a F.WAKE_TH_CNT ≤ edges.toNat) ∧ (edges ≠ 0)) ∧
    (∃ (s : State) (h : HalfId) (bit : Nat), ((s.blk.half h).pwr.waking = some bit) ∧ (s.blk.rung h = 1)) ∧
    (∃ (s : State) (h : HalfId) (bit : Nat), ((s.blk.half h).pwr.waking = some bit) ∧ (s.blk.rung h = 5)) ∧
    (∃ (s : State) (h : HalfId) (bit : Nat) (r : Nat) (b : Block), ((s.blk.half h).pwr.waking = some bit) ∧ (r = s.blk.rung h) ∧ (2 ≤ r) ∧ (r ≤ 4) ∧ (s.blk.allLocked h = true) ∧ (b = (((s.blk.setF .a (rungFld h) 0).modPwr h fun _ => Pwr.run).drvFollow).resumes h r)) ∧
    (∃ (s : State) (h : HalfId), ((s.blk.half h).pwr.waking = none ∨ s.blk.rung h = 0 ∨ (2 ≤ s.blk.rung h ∧ s.blk.rung h ≤ 4 ∧ s.blk.allLocked h = false))) ∧
    (∃ (s : State), (s.blk.f .a F.PWR_STAT_DRV ≠ 2 ∨ s.blk.drvWanted = 2)) ∧
    (∃ (s : State) (b : Block), (s.blk.f .a F.PWR_STAT_DRV = 2) ∧ (s.blk.drvWanted ≠ 2) ∧ (b = { s.blk with regs := s.blk.regs.filter (fun x => !(decide (0x800000 ≤ x.1) && decide (x.1 < 0x900000))), fe := List.replicate 6 ⟨false, 0, 0⟩, bhs := List.replicate 12 ⟨none, none, false⟩, chop := List.replicate 24 Chop.idle, segDue := [true, true] })) :=
  ⟨⟨upDesc 0, .b, _, by decide, by decide, by decide, by decide, rfl⟩,
   ⟨upDesc 1, .b, by decide, by decide, by decide, by decide⟩,
   ⟨upDesc 2, .b, by decide, by decide, by decide, by decide⟩,
   ⟨upDesc 3, .b, by decide, by decide, by decide, by decide⟩,
   ⟨upDesc 4, .b, by decide, by decide, by decide, by decide⟩,
   ⟨{ upDesc 1 with blk := ((upDesc 1).blk.setF .a F.PWR_POL_TGTB 2).modPwr .b fun x => { x with waking := some 3, now := some (3, 5) } }, .b, 3, 5, _, by decide, by decide, by decide, by decide, rfl⟩,
   ⟨upDesc 5, .b, by decide, by decide⟩,
   ⟨upW fun b => b.modPwr .a fun _ => ⟨none, true, none⟩, .a, by decide, by decide⟩,
   ⟨up, .a, by decide, by decide⟩,
   ⟨up, up.blk.on .a F.WAKE_CFG_KEYPOL, by decide⟩,
   ⟨upW fun b => b.setF .a F.WAKE_CFG_KEYEN 1, !up.blk.on .a F.WAKE_CFG_KEYPOL, by decide, by decide⟩,
   ⟨upW fun b => b.setF .a F.WAKE_CFG_KEYEN 0, true, by decide⟩,
   ⟨up, 0, 200, by decide⟩,
   ⟨upW fun b => b.setF .a F.WAKE_CFG_CRKCAM 63, 0, 200, by decide, by decide, by decide⟩,
   ⟨upW fun b => (b.setF .a F.PWR_STAT_STA 1).modPwr .a fun _ => ⟨some 0, false, none⟩, .a, 0, by decide, by decide⟩,
   ⟨upW fun b => (b.setF .a F.PWR_STAT_STA 5).modPwr .a fun _ => ⟨some 0, false, none⟩, .a, 0, by decide, by decide⟩,
   ⟨upW fun b => (((((b.setF .a F.PWR_STAT_STA 2).setF .a F.CRP_STAT_SYSLOCK 1).setF .a F.CRP_STAT_ANGLOCK 1).setF .a F.CRP_STAT_ADCLOCK 1).setF .a F.CRP_STAT_HLLOCK 1).modPwr .a fun _ => ⟨some 0, false, none⟩, .a, 0, 2, _, by decide, by decide, by decide, by decide, by decide, rfl⟩,
   ⟨up, .a, by decide⟩,
   ⟨up, by decide⟩,
   ⟨upW fun b => b.setF .a F.PWR_STAT_DRV 2, _, by decide, by decide, rfl⟩⟩

theorem witness_TallyRowsComplete :
    (∃ (s : State) (h : HalfId) (r : Fin 22) (t : BitVec 8) (uj : Word), ((s.blk.wear h r).risen = true) ∧ (t.toNat + s.blk.f h F.TAL_POL_DT ≤ (s.blk.wear h r).high)) ∧
    (∃ (s : State) (h : HalfId) (r : Fin 22) (t : BitVec 8) (uj : Word), ((s.blk.wear h r).risen = true) ∧ ((s.blk.wear h r).high < t.toNat + s.blk.f h F.TAL_POL_DT)) ∧
    (∃ (s : State) (h : HalfId) (r : Fin 22) (t : BitVec 8) (uj : Word), ((s.blk.wear h r).risen = false) ∧ (t.toNat < (s.blk.wear h r).low)) ∧
    (∃ (s : State) (h : HalfId) (r : Fin 22) (t : BitVec 8) (uj : Word), ((s.blk.wear h r).risen = false) ∧ ((s.blk.wear h r).low ≤ t.toNat)) ∧
    (∃ (s : State) (h : HalfId) (steps : BitVec 8), (s.blk.fwRuns h = true) ∧ (s.blk.powered .TAL_CMD h = true)) ∧
    (∃ (s : State) (h : HalfId) (steps : BitVec 8), (s.blk.fwRuns h = false) ∧ (s.blk.powered .TAL_CMD h = true)) ∧
    (∃ (s : State) (h : HalfId) (r : Fin 22) (energy : Bool) (l : Option Word × Option Word), (l = nth (none, none) (s.blk.half h).tal.latch r) ∧ (s.blk.powered .TAL_W1 h = true)) :=
  ⟨⟨upW fun b => b.modWear .a 0 fun w => { w with risen := true, high := 200 }, .a, 0, 5, 0, by decide, by decide⟩,
   ⟨upW fun b => b.modWear .a 0 fun w => { w with risen := true }, .a, 0, 5, 0, by decide, by decide⟩,
   ⟨upW fun b => b.modWear .a 0 fun w => { w with low := 200 }, .a, 0, 5, 0, by decide, by decide⟩,
   ⟨upW fun b => b.modWear .a 0 fun w => { w with low := 2 }, .a, 0, 5, 0, by decide, by decide⟩,
   ⟨up, .a, 0, by decide, by decide⟩,
   ⟨upW fun b => b.modHip .a fun x => { x with running := false }, .a, 0, by decide, by decide⟩,
   ⟨up, .a, 0, true, _, rfl, by decide⟩⟩

theorem witness_StepKeepsSound : ∃ s t : State, s.Sound ∧ step s = .next t :=
  ⟨State.reset, _, by refine ⟨rfl, ?_⟩; unfold State.keysOk; decide, rfl⟩

theorem witness_OtpIsIrreversible :
    (∃ (s : State) (h : HalfId) (secure : Bool) (seq : BitVec 10) (pay : List Word) (ok : Bool),
      s.blk.accepts h secure 0x73 seq pay = true ∧
      ok = (decide ((s.fuse h).secver < pw pay 1) && [0, 1].all (fun i => fwGood (s.fuse h).keyPos (pw pay 1) ((s.firm h).slot i)))) ∧
    (∃ (s : State) (h : HalfId) (secure : Bool) (seq : BitVec 10) (pay : List Word) (ok : Bool),
      s.blk.accepts h secure 0x74 seq pay = true ∧
      ok = (decide ((s.fuse h).keyPos < 3) && [0, 1].all (fun i => Config.fwVerifies ((s.fuse h).keyPos + 1) ((s.firm h).slot i)))) ∧
    (∃ s t : State, step s = .next t) :=
  ⟨⟨upCmd id, .a, true, 5, [1], _, by decide, rfl⟩, ⟨upCmd id, .a, true, 5, [], _, by decide, rfl⟩, ⟨State.reset, _, rfl⟩⟩

theorem witness_ExecKeepsQueue : ∃ (c : Instr) (s t : State), exec c s = .next t :=
  ⟨.refclkLoss, up, _, rfl⟩

theorem witness_MemoryFrame : ∃ (c : Instr) (s t : State), exec c s = .next t ∧ writesRam c = false ∧ writesOtp c = false ∧
    writesFirmware c = false :=
  ⟨.peIdle .a 0, up, _, rfl, rfl, rfl, rfl⟩

theorem witness_HelmFollowsClaims : ∃ (s t : Block) (h : HalfId) (cause : Nat), t = s.deriveHelm h cause :=
  ⟨upBlk, _, .b, 1, rfl⟩

theorem witness_PhaseChangeCancels :
    (∃ (s t : Block) (h : HalfId) (p cause : Nat), p < 8 ∧ t = s.setPhase h p cause ∧ p ≠ phHOLD) ∧
    (∃ (s t : Block) (h : HalfId) (p cause : Nat), p < 8 ∧ t = s.setPhase h p cause ∧ p = phHOLD ∧ s.phase h ≠ phHOLD) :=
  ⟨⟨upBlk, _, .a, phRECOVERY, 2, by decide, rfl, by decide⟩, ⟨upArm.blk, _, .a, phHOLD, 0, by decide, rfl, by decide, by decide⟩⟩

theorem witness_CancellationIsExact :
    ∃ (s t : Block) (h : HalfId) (code : Nat) (p : Entry → Bool),
      (∀ x ∈ (s.half h).cask, ∀ y ∈ (s.half h).cask, x.chan = y.chan → x.tag = y.tag → x = y) ∧ t = s.cancelWhere h code p :=
  ⟨upArm.blk, _, .a, cHELM_LOSS, fun e => e.chan == 3, by decide, rfl⟩

theorem witness_NoticesAreNumbered :
    (∃ (s t : Block) (h : HalfId) (code : Nat) (ws : List Word), t = s.notice h code ws ∧ (s.half h).hip.running = true ∧
      (s.half h).hip.replay.length < 512 ∧ noticeWords ((s.half h).hip.replay ++ [⟨code, (s.half h).hip.seq, ws⟩]) ≤ 4096) ∧
    (∃ (s t : Block) (h : HalfId) (code : Nat) (ws : List Word), t = s.notice h code ws ∧ (s.half h).hip.running = false) :=
  ⟨⟨upBlk, _, .a, 0xC1, [7], rfl, by decide, by decide, by decide⟩, ⟨Block.reset, _, .a, 0xC1, [7], rfl, by decide⟩⟩

theorem witness_ReportQueueCounts :
    (∃ (s t : Block) (h : HalfId) (code cls block index detail : Nat), block < 28 ∧ t = s.report h code cls block index detail ∧
      (s.half h).hl.queue.length < 32) ∧
    (∃ (s t : Block) (h : HalfId) (code cls block index detail : Nat), block < 28 ∧ t = s.report h code cls block index detail ∧
      32 ≤ (s.half h).hl.queue.length) :=
  ⟨⟨upBlk, _, .a, 0, 1, 27, 3, 5, by decide, rfl, by decide⟩,
   ⟨upBlk.modHalf .a (fun x => { x with hl := { x.hl with queue := List.replicate 32 ⟨0, 0, 0, 0, 0, 0, false⟩ } }), _, .a, 0, 1, 27, 3, 5, by decide, rfl, by decide⟩⟩

theorem witness_RepeatedHeaderAnswersAgain :
    (∃ (s : State) (h : HalfId) (secure : Bool) (code : Nat) (seq : BitVec 10) (pay : List Word) (out : List Word),
      s.blk.hipActs h = true ∧ s.blk.stored? h secure (header code pay.length seq.toNat) = some out) ∧
    (∃ (s : Block) (h : HalfId) (secure : Bool) (hdr : Word) (words : List Word) (t : Block), t = s.reply h secure hdr words) :=
  ⟨⟨upW (fun b => b.reply .a true (header 0 0 5) [stOK]), .a, true, 0, 5, [], _, by decide, rfl⟩, ⟨upBlk, .a, true, 0, [stOK], _, rfl⟩⟩

theorem witness_SecureCommandsNeedSession :
    (∃ (s : State) (h : HalfId) (secure : Bool) (code : Nat) (seq : BitVec 10) (pay : List Word) (f : CmdForm),
      code < 256 ∧ pay.length ≤ 63 ∧ s.blk.hipActs h = true ∧ s.blk.stored? h secure (header code pay.length seq.toNat) = none ∧
      cmdForm code = some f ∧ f.counts pay.length = true ∧ (s.blk.phase h ≠ phBOOT ∨ f.boot = true) ∧ f.sec = true ∧ secure = false) ∧
    (∃ (s : State) (h : HalfId) (secure : Bool) (code : Nat) (seq : BitVec 10) (pay : List Word) (f : CmdForm),
      code < 256 ∧ pay.length ≤ 63 ∧ s.blk.hipActs h = true ∧ s.blk.stored? h secure (header code pay.length seq.toNat) = none ∧
      cmdForm code = some f ∧ f.counts pay.length = true ∧ (s.blk.phase h ≠ phBOOT ∨ f.boot = true) ∧ f.sec = true ∧ secure = true ∧
      (s.blk.half h).hip.session = false) ∧
    (∃ (s : State) (h : HalfId) (secure : Bool) (code : Nat) (seq : BitVec 10) (pay : List Word) (f : CmdForm),
      code < 256 ∧ pay.length ≤ 63 ∧ s.blk.hipActs h = true ∧ s.blk.stored? h secure (header code pay.length seq.toNat) = none ∧
      cmdForm code = some f ∧ f.counts pay.length = true ∧ (s.blk.phase h ≠ phBOOT ∨ f.boot = true) ∧ f.helm = true ∧
      (f.sec = false ∨ (secure = true ∧ (s.blk.half h).hip.session = true)) ∧ s.blk.holdsHelm h = false) :=
  ⟨⟨up, .a, false, 0x73, 5, [1], _, by decide, by decide, by decide, by decide, rfl, rfl, by decide, rfl, rfl⟩,
   ⟨up, .a, true, 0x73, 5, [1], _, by decide, by decide, by decide, by decide, rfl, rfl, by decide, rfl, rfl, by decide⟩,
   ⟨up, .b, false, 0x22, 5, [7], _, by decide, by decide, by decide, by decide, rfl, rfl, by decide, rfl, .inl rfl, by decide⟩⟩

theorem witness_BhsTripReachesInjectors :
    (∃ (s t : Block) (k : Fin 12) (c : Nat), t = s.trip (.bhs k) c ∧ ∃ n : Fin 24, n.val / 2 = k.val) ∧
    (∃ (s t : Block) (n : Fin 24) (c : Nat) (k : Fin 12), c < 9 ∧ k.val = n.val / 2 ∧ t = s.trip (.inj n) c) :=
  ⟨⟨upBlk, _, 3, caOC, rfl, 7, rfl⟩, ⟨upBlk, _, 7, caOC, 3, by decide, rfl, rfl⟩⟩

theorem witness_TripLatchClears :
    (∃ (s : State) (o : Output) (holds : Bool), s.blk.powered o.reg.1 o.owner = true ∧ holds = true) ∧
    (∃ (s : State) (o : Output) (holds : Bool), s.blk.powered o.reg.1 o.owner = true ∧ ¬(holds = true ∨ s.blk.extHolds o = true ∨
      s.blk.permanent o = true ∨ (∃ n : Fin 24, o = .inj n ∧ s.blk.on .a F.BHS_TRIP_LATCH (n.val / 2) = true))) :=
  ⟨⟨up, .inj 3, true, by decide, rfl⟩, ⟨up, .evo 3, false, by decide, by decide⟩⟩

theorem witness_PwmDisableStops : ∃ (s : State) (h : HalfId) (u : Fin 16), s.blk.powered .PWM_CTRL h = true :=
  ⟨up, .b, 3, by decide⟩

theorem witness_TickAdvancesTimestamps : ∃ s t : State, s.pending = [] ∧ step s = .next t ∧ s.blk.angRuns .a = true :=
  ⟨up, _, rfl, rfl, by decide⟩

theorem witness_EnginesStayInTheirHalf :
    ∃ (s t : State) (h : HalfId) (e : Fin 8) (pins : BitVec 4) (c : Instr), c ∈ ([.peIdle h e, .peBr h e pins, .peLoop h e, .peLdi h e, .peLdx h e, .peMovr h e pins, .peTime h e, .peTwait h e, .pePwait h e pins, .peFwait h e, .peFlag h e, .peTrgw h e, .peSout h e, .peSin h e pins, .peQget h e, .peQput h e] : List Instr) ∧ exec c s = .next t :=
  ⟨upPe 0 id, _, .a, 0, 0, .peIdle .a 0, by decide, rfl⟩

theorem witness_AddressMapRoundTrips :
    (∃ (r : Reg) (h : HalfId) (i j : Nat), r.has h i j = true ∧ r.info.perHalf = true) ∧
    (∃ (r : Reg) (h : HalfId) (i j : Nat), r.has h i j = true ∧ r.info.perHalf = false) ∧ (∃ a : Nat, 0xA00000 ≤ a) :=
  ⟨⟨.PE_PROG, .b, 7, 63, by decide, by decide⟩, ⟨.TMR_CNT, .a, 15, 0, by decide, by decide⟩, ⟨0xA00000, by decide⟩⟩

theorem witness_InterruptLinesFollowFlags :
    (∃ (s : Block) (h : HalfId) (role : Nat) (k : Fin 32), s.on h F.CMP_CFG_IRQEN k = true ∧ s.f h F.CMP_CFG_IRQDST k = role ∧
      s.on h F.CMP_EVT_RISE k = true) ∧
    (∃ (s : Block) (h : HalfId) (role : Nat) (k : Fin 16), s.ownsTmr h k = true ∧ s.tmrHigh k = false ∧ s.on .a F.TMR_CFG_IRQEN k = true ∧
      s.f .a F.TMR_CFG_IRQDST k = role ∧ s.on .a F.TMR_EVT_MATCH k = true) ∧
    (∃ (s : Block) (h : HalfId) (role : Nat) (e : Fin 8), s.on h F.PE_IRQ_IRQEN e = true ∧ s.f h F.PE_IRQ_IRQDST e = role ∧
      (s.pe h e).rq ≠ []) ∧
    (∃ (s : Block) (h : HalfId) (role : Nat) (m : Fin 16), (mbxTable m).2.2.1 = role ∧ s.on h F.MBX_STAT_FULL m = true ∧
      s.on h F.MBX_IEN_FULLIE m = true) :=
  ⟨⟨(upBlk.setF .a F.CMP_CFG_IRQEN 1 3).setF .a F.CMP_EVT_RISE 1 3, .a, _, 3, by decide, rfl, by decide⟩,
   ⟨((upBlk.setW .a .TMR_OWNL 0xAAAAAA).setF .a F.TMR_CFG_IRQEN 1 2).setF .a F.TMR_EVT_MATCH 1 2, .b, _, 2, by decide, by decide, by decide, rfl, by decide⟩,
   ⟨(upBlk.setF .b F.PE_IRQ_IRQEN 1 7).modPe .b 7 (fun x => { x with rq := [5] }), .b, _, 7, by decide, rfl, by decide⟩,
   ⟨(upBlk.setF .a F.MBX_STAT_FULL 1 4).setF .a F.MBX_IEN_FULLIE 1 4, .a, _, 4, rfl, by decide, by decide⟩⟩

theorem witness_UnpoweredAccessIsBusError :
    (∃ (s : State) (h : HalfId) (e : Fin 8), (s.blk.powered .PE_CFG h = false)) ∧
    (∃ (s : State) (h : HalfId) (e : Fin 8), (s.blk.powered .PE_CFG h = false)) ∧
    (∃ (s : State) (h : HalfId) (mask : BitVec 8), (s.blk.powered .PE_GSTART h = false)) ∧
    (∃ (s : State) (h : HalfId) (e : Fin 8) (off : BitVec 7) (v : Word), (s.blk.powered .PE_PROG h = false)) ∧
    (∃ (s : State) (h : HalfId) (e : Fin 8) (v : Word), (s.blk.powered .PE_SQ h = false)) ∧
    (∃ (s : State) (h : HalfId) (e : Fin 8), (s.blk.powered .PE_RQPOP h = false)) ∧
    (∃ (s : State) (h : HalfId) (mask : BitVec 16), (s.blk.powered .PE_FSET h = false)) ∧
    (∃ (s : State) (h : HalfId) (mask : BitVec 16), (s.blk.powered .PE_FCLR h = false)) ∧
    (∃ (s : State) (h : HalfId) (e : Fin 8), (s.blk.powered .PE_TLO h = false)) ∧
    (∃ (s : State) (h : HalfId) (c : Fin 24), (s.blk.powered .ATU_REC h = false)) ∧
    (∃ (s : State) (h : HalfId), (s.blk.powered .ATU_CLR h = false)) ∧
    (∃ (s : State) (h : HalfId), (s.blk.powered .ATU_CLR h = false)) ∧
    (∃ (s : State) (h : HalfId) (who : Master), (s.blk.powered .CRP_WDOG h = false)) ∧
    (∃ (s : State) (h : HalfId) (who : Master), (s.blk.powered .HLM_CLR h = false)) ∧
    (∃ (s : State) (h : HalfId) (who : Master), (s.blk.powered .LOG_CMD h = false)) ∧
    (∃ (s : State) (h : HalfId) (o : Output), (s.blk.powered o.reg.1 h = false)) ∧
    (∃ (s : State) (h : HalfId), (s.blk.powered .DRV_SWTRIP h = false)) ∧
    (∃ (s : State) (h : HalfId) (o : Output) (holds : Bool), (s.blk.powered o.reg.1 h = false)) ∧
    (∃ (s : State) (h : HalfId) (k : Fin 12), (s.blk.powered .SEQ_POP h = false)) ∧
    (∃ (s : State) (h : HalfId) (k : Fin 12), (s.blk.powered .SEQ_POP h = false)) ∧
    (∃ (s : State) (h : HalfId) (k : Fin 12) (v : Word), (s.blk.powered .SEQ_FORCE h = false)) ∧
    (∃ (s : State) (h : HalfId) (m : Fin 16) (who : Master) (v : Word), (s.blk.powered .MBX_DATA h = false)) ∧
    (∃ (s : State) (h : HalfId) (k : Fin 32) (v : BitVec 12), (s.blk.powered .CMP_CFG h = false)) ∧
    (∃ (s : State) (h : HalfId) (k : Fin 32), (s.blk.powered .CMP_CFG h = false)) ∧
    (∃ (s : State) (h : HalfId) (k : Fin 32) (hys : Bool) (v : Word), (s.blk.powered .CMP_TH h = false)) ∧
    (∃ (s : State) (h : HalfId) (k : Fin 32), (s.blk.powered .CMP_CAPLO h = false)) ∧
    (∃ (s : State) (h : HalfId) (k : Fin 32), (s.blk.powered .CMP_SPARE h = false)) ∧
    (∃ (s : State) (h : HalfId) (p : Fin 2) (chan : Fin 64) (tag : BitVec 10), (s.blk.powered .EVI_GO h = false)) ∧
    (∃ (s : State) (h : HalfId) (chan : Fin 64) (tag : BitVec 10), (s.blk.powered .EVC_CMD h = false)) ∧
    (∃ (s : State) (h : HalfId) (chan : Fin 64), (s.blk.powered .EVC_CMD h = false)) ∧
    (∃ (s : State) (h : HalfId) (chan : Fin 64), (s.blk.powered .EVC_CMD h = false)) ∧
    (∃ (s : State) (h : HalfId) (chan : Fin 64), (s.blk.powered .EVC_CFG h = false)) ∧
    (∃ (s : State) (h : HalfId), (s.blk.powered .EVN_POP h = false)) ∧
    (∃ (s : State) (h : HalfId), (s.blk.powered .TSC_LO h = false)) ∧
    (∃ (s : State) (h : HalfId), (s.blk.powered .TSC_XDIFF h = false)) ∧
    (∃ (s : State) (h : HalfId) (chan : Fin 64), (s.blk.powered .EVC_HEADT_LO h = false)) ∧
    (∃ (s : State) (h : HalfId), (s.blk.powered .EUL_CLR h = false)) ∧
    (∃ (s : State) (h : HalfId), (s.blk.powered .EUL_FTLO h = false)) ∧
    (∃ (s : State) (h : HalfId) (chan : Fin 64) (tag : BitVec 10), (s.blk.powered .ADM_GO h = false)) ∧
    (∃ (s : State) (h : HalfId), (s.blk.powered .ADM_CLR h = false)) ∧
    (∃ (s : State) (h : HalfId) (who : Master), (s.blk.powered .QHL_CMD h = false)) ∧
    (∃ (s : State) (h : HalfId) (who : Master), (s.blk.powered .QHL_CMD h = false)) ∧
    (∃ (s : State) (h : HalfId) (r : Fin 22) (energy : Bool), (s.blk.powered .TAL_W1 h = false)) ∧
    (∃ (s : State) (h : HalfId) (steps : BitVec 8), (s.blk.powered .TAL_CMD h = false)) ∧
    (∃ (s : State) (h : HalfId) (t : Fin 2), (s.blk.powered .WTK_CTRL h = false)) ∧
    (∃ (s : State) (h : HalfId) (t : Fin 2), (s.blk.powered .WTK_CTRL h = false)) ∧
    (∃ (s : State) (h : HalfId) (t : Fin 2), (s.blk.powered .WTK_CLR h = false)) ∧
    (∃ (s : State) (h : HalfId) (t : Fin 2), (s.blk.powered .WTK_ASEL h = false)) ∧
    (∃ (s : State) (h : HalfId), (s.blk.powered .ANG_CTRL h = false)) ∧
    (∃ (s : State) (h : HalfId), (s.blk.powered .ANG_CTRL h = false)) ∧
    (∃ (s : State) (h : HalfId), (s.blk.powered .ANG_CLR h = false)) ∧
    (∃ (s : State) (h : HalfId), (s.blk.powered .ANG_NOW h = false)) ∧
    (∃ (s : State) (h : HalfId) (i : BitVec 8), (s.blk.powered .LOG_ENT h = false)) ∧
    (∃ (s : State) (h : HalfId) (k : Fin 2) (slot : Fin 4), (s.blk.powered .PCV_CMD h = false)) ∧
    (∃ (s : State) (h : HalfId) (k : Fin 4), (s.blk.powered .PCV_CMD h = false)) ∧
    (∃ (s : State) (h : HalfId) (k : Fin 2), (s.blk.powered .PCV_WPOP h = false)) ∧
    (∃ (s : State) (h : HalfId) (k : Fin 8), (s.blk.powered .PCV_SPARE h = false)) ∧
    (∃ (s : State) (h : HalfId) (m : Fin 16) (who : Master), (s.blk.powered .MBX_DATA h = false)) ∧
    (∃ (s : State) (h : HalfId) (u : Fin 16), (s.blk.powered .PWM_CTRL h = false)) ∧
    (∃ (s : State) (h : HalfId) (u : Fin 16), (s.blk.powered .PWM_CTRL h = false)) ∧
    (∃ (s : State) (h : HalfId) (mask : BitVec 16), (s.blk.powered .PWM_GSTART h = false)) ∧
    (∃ (s : State) (h : HalfId) (u : Fin 16), (s.blk.powered .PWM_LOAD h = false)) ∧
    (∃ (s : State) (h : HalfId) (u : Fin 16) (which : Fin 7) (v : Word), (s.blk.powered .PWM_PER h = false)) ∧
    (∃ (s : State) (h : HalfId) (u : Fin 16), (s.blk.powered .PWM_TRIP h = false)) ∧
    (∃ (s : State) (h : HalfId) (u : Fin 16), (s.blk.powered .PWM_TRIP h = false)) :=
  ⟨⟨upOff, .a, 0, by decide⟩,
   ⟨upOff, .a, 0, by decide⟩,
   ⟨upOff, .a, 0, by decide⟩,
   ⟨upOff, .a, 0, 0, 0, by decide⟩,
   ⟨upOff, .a, 0, 0, by decide⟩,
   ⟨upOff, .a, 0, by decide⟩,
   ⟨upOff, .a, 0, by decide⟩,
   ⟨upOff, .a, 0, by decide⟩,
   ⟨upOff, .a, 0, by decide⟩,
   ⟨upOff, .a, 0, by decide⟩,
   ⟨upOff, .a, by decide⟩,
   ⟨upOff, .a, by decide⟩,
   ⟨upOff, .a, .hip, by decide⟩,
   ⟨upOff, .a, .hip, by decide⟩,
   ⟨upOff, .a, .hip, by decide⟩,
   ⟨upOff, .a, .evo 3, by decide⟩,
   ⟨upOff, .a, by decide⟩,
   ⟨upOff, .a, .evo 3, true, by decide⟩,
   ⟨upOff, .a, 0, by decide⟩,
   ⟨upOff, .a, 0, by decide⟩,
   ⟨upOff, .a, 0, 0, by decide⟩,
   ⟨upOff, .a, 0, .hip, 0, by decide⟩,
   ⟨upOff, .a, 0, 0, by decide⟩,
   ⟨upOff, .a, 0, by decide⟩,
   ⟨upOff, .a, 0, true, 0, by decide⟩,
   ⟨upOff, .a, 0, by decide⟩,
   ⟨upOff, .a, 0, by decide⟩,
   ⟨upOff, .a, 0, 0, 0, by decide⟩,
   ⟨upOff, .a, 0, 0, by decide⟩,
   ⟨upOff, .a, 0, by decide⟩,
   ⟨upOff, .a, 0, by decide⟩,
   ⟨upOff, .a, 0, by decide⟩,
   ⟨upOff, .a, by decide⟩,
   ⟨upOff, .a, by decide⟩,
   ⟨upOff, .a, by decide⟩,
   ⟨upOff, .a, 0, by decide⟩,
   ⟨upOff, .a, by decide⟩,
   ⟨upOff, .a, by decide⟩,
   ⟨upOff, .a, 0, 0, by decide⟩,
   ⟨upOff, .a, by decide⟩,
   ⟨upOff, .a, .hip, by decide⟩,
   ⟨upOff, .a, .hip, by decide⟩,
   ⟨upOff, .a, 0, true, by decide⟩,
   ⟨upOff, .a, 0, by decide⟩,
   ⟨upOff, .a, 0, by decide⟩,
   ⟨upOff, .a, 0, by decide⟩,
   ⟨upOff, .a, 0, by decide⟩,
   ⟨upOff, .a, 0, by decide⟩,
   ⟨upOff, .a, by decide⟩,
   ⟨upOff, .a, by decide⟩,
   ⟨upOff, .a, by decide⟩,
   ⟨upOff, .a, by decide⟩,
   ⟨upOff, .a, 0, by decide⟩,
   ⟨upOff, .a, 0, 0, by decide⟩,
   ⟨upOff, .a, 0, by decide⟩,
   ⟨upOff, .a, 0, by decide⟩,
   ⟨upOff, .a, 0, by decide⟩,
   ⟨upOff, .a, 0, .hip, by decide⟩,
   ⟨upOff, .a, 0, by decide⟩,
   ⟨upOff, .a, 0, by decide⟩,
   ⟨upOff, .a, 0, by decide⟩,
   ⟨upOff, .a, 0, by decide⟩,
   ⟨upOff, .a, 0, 0, 0, by decide⟩,
   ⟨upOff, .a, 0, by decide⟩,
   ⟨upOff, .a, 0, by decide⟩⟩
end

section
/-!
The scope of the model: the state after reset, and that every command answers a next state.
-/

namespace Sys2Proof.Machine

/-! ## The state after reset -/

@[simp] theorem Block.reset_half (h : HalfId) : Block.reset.half h = Half.reset := by cases h <;> rfl

/-- No register word is listed after reset, so each reads as its reset word. -/
@[simp] theorem Block.reset_w (h : HalfId) (r : Reg) (i j : Nat) : Block.reset.w h r i j = r.resetAt h i j :=
  memGet_nil _ _

/-- The reset word of ADM_STAT shows BOOT. -/
@[simp] theorem Block.reset_phase (h : HalfId) : Block.reset.phase h = phBOOT := by
  cases h <;> decide

/-- RAM has nothing listed after reset, and both key positions are 0. -/
theorem State.reset_sound : State.reset.Sound := ⟨rfl, Nat.zero_le 3, Nat.zero_le 3⟩

/-! ## Every command answers a next state -/

/-- A choice between two next states is a next state. -/
theorem ite_next_eq_next (p : Prop) [Decidable p] (t u : State) :
    ∃ v : State, (if p then .next t else .next u : Host.Outcome State Fault Refusal) = .next v :=
  ⟨if p then t else u, (apply_ite Host.Outcome.next p t u).symm⟩

/-- An overcurrent answers a next state at each kind of output: an INJ, BHS or HB stage trips or does not, by its
threshold, and every other output stays as it is. -/
theorem execTripOvercurrent_eq_next (x : Overcurrent) (s : State) : ∃ t : State, execTripOvercurrent x s = .next t := by
  obtain ⟨out, amps⟩ := x
  cases out with
  | inj _ | bhs _ | hb _ => exact ite_next_eq_next ..
  | bst _ | evo _ => exact ⟨s, rfl⟩

/-- An overtemperature trips the same stages, and leaves every other output's state as it is. -/
theorem execTripOvertemp_eq_next (o : Output) (s : State) : ∃ t : State, execTripOvertemp o s = .next t := by
  cases o with
  | inj n => exact ⟨{ s with blk := s.blk.trip (.inj n) caOT }, rfl⟩
  | bhs k => exact ⟨{ s with blk := s.blk.trip (.bhs k) caOT }, rfl⟩
  | hb b => exact ⟨{ s with blk := s.blk.trip (.hb b) caOT }, rfl⟩
  | bst _ | evo _ => exact ⟨s, rfl⟩

end Sys2Proof.Machine

open Sys2Proof Sys2Proof.Machine

/-- Settles O3: nothing is listed in the register file, so every register reads its reset word. -/
theorem resetState : Obligations.ResetState :=
  ⟨rfl, State.reset_sound, fun h => ⟨congrArg Half.live (Block.reset_half h), Block.reset_phase h⟩,
    fun r h i j _ => Block.reset_w h r i j⟩

/-- Settles O59, by the commands: a row that branches answers a next state on each branch, every other row is one next state by its
definition. -/
theorem allCommandsComplete : Obligations.AllCommandsComplete := by
  intro c s
  cases c with
  | tripOvercurrent x => exact execTripOvercurrent_eq_next x s
  | tripOvertemp o => exact execTripOvertemp_eq_next o s
  | tripMaxon | tripExternal | tripStuck | pwmTripSet | coreWatchdogTimeout | secLockoutEnd | commandUnknown | commandTruncated
  | mbxTake | standaloneStart | driveDieParityError | bootSelfTestComplete | bootPeerWaitTimeout | ladderWakeComplete =>
    exact ite_next_eq_next ..
  | _ => exact ⟨_, rfl⟩
end

section
/-!
The address map: every register of the map is found at its address, and nowhere else (rules R44 to R47).

A register is a grid: `i·s + j·t` words above its base, with the outer index `i` below `c` and the inner index `j` below `d`. Two grids of
one region share no word when, for some modulus that the region's strides suggest, the remainders that each of them reaches lie apart.
-/

namespace Sys2Proof.Machine

/-! ## Registers as grids -/

/-- The grid of a register: count and stride of its outer index, count and stride of its inner one. A missing index has the count 1. -/
def Reg.grid (r : Reg) : Nat × Nat × Nat × Nat :=
  match r.info.dims with
  | [] => (1, 0, 1, 0)
  | [(c, s)] => (c, s, 1, 0)
  | (c, s) :: (d, t) :: _ => (c, s, d, t)

/-- The place of a word of a register above the register's base. -/
def Reg.cell (r : Reg) (i j : Nat) : Nat := i * r.grid.2.1 + j * r.grid.2.2.2

/-- The indices name a word of the grid. -/
def Reg.inGrid (r : Reg) (i j : Nat) : Prop := i < r.grid.1 ∧ j < r.grid.2.2.1

/-- The words that a register spans modulo `m`, less one: an index whose stride `m` divides moves nothing. With `m` 0, all it spans. -/
def Reg.spread (r : Reg) (m : Nat) : Nat :=
  let (c, s, d, t) := r.grid
  (if m ∣ s then 0 else (c - 1) * s) + (if m ∣ t then 0 else (d - 1) * t)

/-- Strides are positive, and the inner index stays within one step of the outer one. -/
def Reg.nested (r : Reg) : Bool :=
  match r.info.dims with
  | [] => true
  | [(_, s)] => decide (0 < s)
  | (_, s) :: (d, t) :: _ => decide (0 < t) && decide ((d - 1) * t < s)

/-- The register lies in one block region of 64 Ki words, whose list names it. -/
def Reg.listed (r : Reg) : Bool :=
  decide (r.info.base % 0x10000 + r.spread 0 < 0x10000) && (blockRegs (r.info.base / 0x10000)).contains r

/-- The region of rule R44 that a register belongs to: the blocks of a half above its SRAM, or the common ones below keep-alive RAM. -/
def Reg.regionOk (r : Reg) : Bool :=
  if r.info.perHalf then decide (0x80000 ≤ r.info.base) && decide (r.info.base + r.spread 0 < 0x400000)
  else decide (0x800000 ≤ r.info.base) && decide (r.info.base + r.spread 0 < 0x910000)

/-- The remainders modulo `m` of the words of two registers lie in intervals that do not meet. -/
def Reg.apartMod (r q : Reg) (m : Nat) : Bool :=
  let a := r.info.base % m
  let b := q.info.base % m
  (decide (a + r.spread m < b) || decide (b + q.spread m < a)) &&
    (decide (m = 0) || decide (a + r.spread m < m) && decide (b + q.spread m < m))

/-- No word belongs to both registers, by their whole spans or by their remainders modulo a stride. -/
def Reg.apart (r q : Reg) : Bool := [0, r.grid.2.1, r.grid.2.2.2].any (r.apartMod q)

/-! ## The map, register by register -/

theorem Reg.nested_eq_true (r : Reg) : r.nested = true := by cases r <;> rfl

theorem Reg.listed_eq_true (r : Reg) : r.listed = true := by cases r <;> rfl

theorem Reg.regionOk_eq_true (r : Reg) : r.regionOk = true := by cases r <;> rfl

theorem blockRegs_apart (r : Reg) :
    ((blockRegs (r.info.base / 0x10000)).all fun q => q == r || r.apart q) = true := by
  cases r <;> decide

/-! ## Words of a grid -/

theorem Reg.addr_eq (r : Reg) (h : HalfId) (i j : Nat) :
    r.addr h i j = r.info.base + (if r.info.perHalf && h == .b then 0x400000 else 0) + r.cell i j := by
  rcases hd : r.info.dims with _ | ⟨⟨c, s⟩, _ | ⟨⟨d, t⟩, l⟩⟩ <;> simp [Reg.addr, Reg.cell, Reg.grid, hd]

theorem Reg.inGrid_of_has {r : Reg} {h : HalfId} {i j : Nat} (hr : r.has h i j = true) : r.inGrid i j := by
  rcases hd : r.info.dims with _ | ⟨⟨c, s⟩, _ | ⟨⟨d, t⟩, l⟩⟩ <;> simp_all [Reg.has, Reg.inGrid, Reg.grid]

/-- Modulo `m`, a word of a grid lies at most the register's spread above its base. -/
theorem Reg.cell_modEq {r : Reg} {i j : Nat} (hg : r.inGrid i j) (m : Nat) : ∃ k, k ≤ r.spread m ∧ r.cell i j ≡ k [MOD m] := by
  have part : ∀ n s x, x < n → ∃ k, k ≤ (if m ∣ s then 0 else (n - 1) * s) ∧ x * s ≡ k [MOD m] := by
    intro n s x hx
    by_cases hs : m ∣ s
    · exact ⟨0, by simp, (Nat.modEq_zero_iff_dvd).2 (hs.mul_left x)⟩
    · exact ⟨x * s, by simpa [hs] using Nat.mul_le_mul_right s (by omega), rfl⟩
  obtain ⟨k, hk, ek⟩ := part _ r.grid.2.1 i hg.1
  obtain ⟨l, hl, el⟩ := part _ r.grid.2.2.2 j hg.2
  exact ⟨k + l, Nat.add_le_add hk hl, ek.add el⟩

/-- The remainder of a word of a register lies in the interval of its remainders, where that does not wrap. -/
theorem Reg.word_mod_mem {r : Reg} {i j m : Nat} (hg : r.inGrid i j) (hm : m = 0 ∨ r.info.base % m + r.spread m < m) :
    r.info.base % m ≤ (r.info.base + r.cell i j) % m ∧ (r.info.base + r.cell i j) % m ≤ r.info.base % m + r.spread m := by
  obtain ⟨k, hk, ek⟩ := r.cell_modEq hg m
  have e : (r.info.base + r.cell i j) % m = (r.info.base % m + k) % m := ((Nat.mod_modEq _ _).symm.add ek : _)
  have hlt : (r.info.base % m + k) % m = r.info.base % m + k := by
    obtain rfl | hm := hm
    · exact Nat.mod_zero _
    · exact Nat.mod_eq_of_lt (by omega)
  omega

theorem Reg.cell_le_spread {r : Reg} {i j : Nat} (hg : r.inGrid i j) : r.cell i j ≤ r.spread 0 := by
  have := (r.word_mod_mem hg (.inl rfl)).2
  simpa using this

/-- Registers apart from each other share no word. -/
theorem Reg.word_ne_of_apart {r q : Reg} {i j i' j' : Nat} (ha : r.apart q = true) (hr : r.inGrid i j) (hq : q.inGrid i' j') :
    q.info.base + q.cell i' j' ≠ r.info.base + r.cell i j := by
  obtain ⟨m, -, hm⟩ := List.any_eq_true.1 ha
  simp only [Reg.apartMod, Bool.and_eq_true, Bool.or_eq_true, decide_eq_true_eq] at hm
  obtain ⟨hlt, hwrap⟩ := hm
  have h1 := r.word_mod_mem hr (hwrap.imp_right And.left)
  have h2 := q.word_mod_mem hq (hwrap.imp_right And.right)
  intro e
  rw [e] at h2
  omega

/-! ## The place of an address within a register -/

/-- A word of a register is found in it, with its indices. -/
theorem Reg.at?_word {r : Reg} {i j : Nat} (hg : r.inGrid i j) : r.at? (r.info.base + r.cell i j) = some (i, j) := by
  have hn := r.nested_eq_true
  obtain ⟨hi, hj⟩ := hg
  rcases hd : r.info.dims with _ | ⟨⟨c, s⟩, _ | ⟨⟨d, t⟩, l⟩⟩ <;>
    simp only [Reg.nested, Reg.grid, hd, Bool.and_eq_true, decide_eq_true_eq] at hn hi hj
  · simp [Reg.at?, Reg.cell, Reg.grid, hd]; omega
  · simp [Reg.at?, Reg.cell, Reg.grid, hd, Nat.mul_div_cancel _ hn]; omega
  · obtain ⟨ht, hs⟩ := hn
    have hjs : j * t < s := (Nat.mul_le_mul_right t (by omega : j ≤ d - 1)).trans_lt hs
    have hdiv : (i * s + j * t) / s = i := by
      rw [Nat.add_comm, Nat.add_mul_div_right _ _ (by omega), Nat.div_eq_of_lt hjs, Nat.zero_add]
    have hmod : (i * s + j * t) % s = j * t := by rw [Nat.mul_comm, Nat.mul_add_mod, Nat.mod_eq_of_lt hjs]
    simp [Reg.at?, Reg.cell, Reg.grid, hd, hdiv, hmod, Nat.mul_div_cancel _ ht, hi, hj]

/-- Where an address is found in a register, it is the word with those indices. -/
theorem Reg.word_of_at? {r : Reg} {a i j : Nat} (ha : r.at? a = some (i, j)) : r.inGrid i j ∧ a = r.info.base + r.cell i j := by
  have back (x s : Nat) (h0 : x % s = 0) : x / s * s = x := Nat.div_mul_cancel (Nat.dvd_of_mod_eq_zero h0)
  rcases hd : r.info.dims with _ | ⟨⟨c, s⟩, _ | ⟨⟨d, t⟩, l⟩⟩ <;>
    simp only [Reg.at?, hd, Option.ite_none_left_eq_some, Option.ite_none_right_eq_some, Option.some.injEq, Prod.mk.injEq] at ha <;>
    simp only [Reg.inGrid, Reg.cell, Reg.grid, hd]
  · omega
  · obtain ⟨hb, ⟨h0, hi⟩, rfl, rfl⟩ := ha
    have := back _ _ h0
    omega
  · obtain ⟨hb, ⟨hi, h0, hj⟩, rfl, rfl⟩ := ha
    have h1 := back _ _ h0
    have h2 := Nat.div_add_mod' (a - r.info.base) s
    omega

/-! ## The decoder -/

/-- The registers of a region that the decoder searches at an offset: those of one kind in the block. -/
def foundIn (k : HalfId) (off : Nat) (perHalf : Bool) : Option (Reg × HalfId × Nat × Nat) :=
  (blockRegs (off / 0x10000)).findSome? fun r =>
    if r.info.perHalf == perHalf then (r.at? off).map fun ij => (r, k, ij.1, ij.2) else none

theorem findReg_eq (a : Nat) :
    findReg a = if a < 0x400000 then foundIn .a a true
      else if a < 0x800000 then foundIn .b (a - 0x400000) true
      else if a < 0xA00000 then foundIn .a a false
      else none := rfl

/-- In its block a register is found at each of its words, and no other register of the block is. -/
theorem foundIn_word (k : HalfId) {r : Reg} {i j : Nat} (hg : r.inGrid i j) :
    foundIn k (r.info.base + r.cell i j) r.info.perHalf = some (r, k, i, j) := by
  have hl := r.listed_eq_true
  simp only [Reg.listed, Bool.and_eq_true, decide_eq_true_eq, List.contains_iff_mem] at hl
  obtain ⟨hspan, hmem⟩ := hl
  have hblock : (r.info.base + r.cell i j) / 0x10000 = r.info.base / 0x10000 := by
    have := r.cell_le_spread hg
    omega
  unfold foundIn
  rw [hblock]
  obtain ⟨x, hx⟩ : ∃ x, (blockRegs (r.info.base / 0x10000)).findSome? (fun q =>
      if q.info.perHalf == r.info.perHalf then (q.at? (r.info.base + r.cell i j)).map fun ij => (q, k, ij.1, ij.2) else none) = some x := by
    refine Option.isSome_iff_exists.1 (List.findSome?_isSome_iff.2 ⟨r, hmem, ?_⟩)
    simp [r.at?_word hg]
  rw [hx]
  obtain ⟨q, hq, hqx⟩ := List.exists_of_findSome?_eq_some hx
  simp only [Option.ite_none_right_eq_some, Option.map_eq_some_iff, Prod.exists] at hqx
  obtain ⟨-, i', j', hat, rfl⟩ := hqx
  obtain ⟨hg', hword⟩ := q.word_of_at? hat
  have hap := List.all_eq_true.1 (blockRegs_apart r) q hq
  simp only [Bool.or_eq_true, beq_iff_eq] at hap
  obtain rfl | hap := hap
  · rw [q.at?_word hg] at hat
    obtain ⟨rfl, rfl⟩ := Prod.mk.inj (Option.some.inj hat)
    rfl
  · exact absurd hword.symm (r.word_ne_of_apart hap hg hg')

/-- A register of a half lies in the half's region above its SRAM, at the same offset in both halves (rules R15, R44). -/
theorem Reg.addr_of_perHalf {r : Reg} {i j : Nat} (hp : r.info.perHalf = true) (hg : r.inGrid i j) (h : HalfId) :
    r.addr h i j = r.info.base + r.cell i j + 0x400000 * h.num ∧ 0x80000 ≤ r.info.base + r.cell i j ∧
      r.info.base + r.cell i j < 0x400000 := by
  have hc := r.cell_le_spread hg
  have ho := r.regionOk_eq_true
  simp only [Reg.regionOk, hp, if_true, Bool.and_eq_true, decide_eq_true_eq] at ho
  refine ⟨?_, by omega, by omega⟩
  rw [Reg.addr_eq, hp]
  cases h <;> simp [HalfId.num]
  omega

/-- A common register lies above the halves' regions and below keep-alive RAM (rules R44, R46). -/
theorem Reg.addr_of_common {r : Reg} {i j : Nat} (hp : r.info.perHalf = false) (hg : r.inGrid i j) (h : HalfId) :
    r.addr h i j = r.info.base + r.cell i j ∧ 0x800000 ≤ r.info.base + r.cell i j ∧ r.info.base + r.cell i j < 0x910000 := by
  have hc := r.cell_le_spread hg
  have ho := r.regionOk_eq_true
  simp only [Reg.regionOk, hp, Bool.false_eq_true, if_false, Bool.and_eq_true, decide_eq_true_eq] at ho
  exact ⟨by simp [Reg.addr_eq, hp], by omega, by omega⟩

/-- A register that is none of a half has its indices in half A only. -/
theorem Reg.half_of_has {r : Reg} {h : HalfId} {i j : Nat} (hr : r.has h i j = true) (hp : r.info.perHalf = false) : h = .a := by
  unfold Reg.has at hr
  simp_all

/-- Above the SRAM of a half the decoder searches the half's blocks. -/
theorem placeOf_half (h : HalfId) {w : Nat} {x : Reg × HalfId × Nat × Nat} (hlo : 0x80000 ≤ w) (hhi : w < 0x400000)
    (hx : foundIn h w true = some x) : placeOf (w + 0x400000 * h.num) = .reg x.1 x.2.1 x.2.2.1 x.2.2.2 := by
  have hsram : ¬ w % 0x400000 < 0x80000 := by omega
  have hkeep : ¬ 0x910000 ≤ w + 0x400000 * h.num := by cases h <;> simp only [HalfId.num] <;> omega
  cases h with
  | a => simp [placeOf, findReg_eq, HalfId.num, hhi, hsram, hx, show ¬ 0x910000 ≤ w by omega]
  | b => simp [placeOf, findReg_eq, HalfId.num, hsram, hx, show ¬ 0x910000 ≤ w + 0x400000 from hkeep,
      show w + 0x400000 < 0x800000 by omega]

/-- Between the halves' regions and keep-alive RAM the decoder searches the common blocks. -/
theorem placeOf_common {w : Nat} {x : Reg × HalfId × Nat × Nat} (hlo : 0x800000 ≤ w) (hhi : w < 0x910000)
    (hx : foundIn .a w false = some x) : placeOf w = .reg x.1 x.2.1 x.2.2.1 x.2.2.2 := by
  simp [placeOf, findReg_eq, hx, show ¬ w < 0x800000 by omega, show ¬ w < 0x400000 by omega, show ¬ 0x910000 ≤ w by omega,
    show w < 0xA00000 by omega]

/-- The decoder finds a register at its address, with its indices: the address is neither SRAM nor keep-alive RAM. -/
theorem placeOf_addr {r : Reg} {h : HalfId} {i j : Nat} (hr : r.has h i j = true) : placeOf (r.addr h i j) = .reg r h i j := by
  have hg := Reg.inGrid_of_has hr
  have hw (k : HalfId) := foundIn_word k hg
  cases hp : r.info.perHalf with
  | false =>
    obtain ⟨he, hlo, hhi⟩ := Reg.addr_of_common hp hg h
    obtain rfl := Reg.half_of_has hr hp
    rw [he, placeOf_common hlo hhi (hp ▸ hw .a)]
  | true =>
    obtain ⟨he, hlo, hhi⟩ := Reg.addr_of_perHalf hp hg h
    rw [he, placeOf_half h hlo hhi (hp ▸ hw h)]

/-- Nothing has an address at 0xA0_0000 or above (rule R44). -/
theorem placeOf_above {a : Nat} (ha : 0xA00000 ≤ a) : placeOf a = .none := by
  have h1 : ¬ a < 0x800000 := by omega
  have h2 : ¬ a < 0x912000 := by omega
  have h3 : ¬ a < 0x400000 := by omega
  have h4 : ¬ a < 0xA00000 := by omega
  simp [placeOf, findReg_eq, h1, h2, h3, h4]

end Sys2Proof.Machine

open Sys2Proof Sys2Proof.Machine

/-- Settles O56, by the grids of the registers: two registers of one block region share no word. -/
theorem addressMapRoundTrips : Obligations.AddressMapRoundTrips := by
  refine ⟨fun r h i j hr => ⟨placeOf_addr hr, ?_⟩, fun a ha => placeOf_above ha⟩
  have hg := Reg.inGrid_of_has hr
  split
  next hp =>
    obtain ⟨ha, -, hlt⟩ := Reg.addr_of_perHalf hp hg .a
    obtain ⟨hb, -⟩ := Reg.addr_of_perHalf hp hg .b
    exact ⟨by simpa [ha, HalfId.num] using hlt, by simp [ha, hb, HalfId.num]⟩
  next hp =>
    obtain ⟨he, hlo, hhi⟩ := Reg.addr_of_common (Bool.eq_false_of_not_eq_true hp) hg h
    exact ⟨he ▸ hlo, he ▸ (hhi.trans (by decide))⟩
end

section
/-!
What a command leaves beside the block: most commands change nothing else, accesses of bus masters and configurations change RAM at most,
and each of the rest changes one thing (rules R44, R241, R331, R371, R372).
-/

namespace Sys2Proof.Machine

/-! ## Accesses of bus masters leave everything but the block and RAM -/

/-- All of a state but its block and its RAM. -/
def State.beside (s : State) : Fuses × Fuses × Firm × Firm × List Instr := (s.fuseA, s.fuseB, s.firmA, s.firmB, s.pending)

@[simp] theorem State.beside_with_blk (s : State) (b : Block) : ({ s with blk := b } : State).beside = s.beside := rfl

@[simp] theorem State.busError_beside (s : State) : s.busError.beside = s.beside := rfl

@[simp] theorem State.writeAt_beside (s : State) (m : Writer) (a : Nat) (v : Word) : (s.writeAt m a v).beside = s.beside := by
  unfold State.writeAt
  split
  · split <;> rfl
  · rfl
  · split <;> rfl

@[simp] theorem State.readAt_beside (s : State) (m : Writer) (a : Nat) : (s.readAt m a).beside = s.beside := by
  unfold State.readAt
  split
  · split <;> rfl
  · rfl
  · split <;> rfl

@[simp] theorem State.arrive_beside (s : State) (h : HalfId) (w : BMsg) : (s.arrive h w).beside = s.beside := by
  cases w with
  | write who a v => exact s.writeAt_beside ⟨h.peer, who⟩ a v
  | part _ => rfl
  | fab out port at' f => cases out <;> exact State.beside_with_blk s _
  | _ => exact State.beside_with_blk s _

@[simp] theorem State.deliver_beside (s : State) (h : HalfId) : (s.deliver h).beside = s.beside := by
  unfold State.deliver
  dsimp only
  split
  · rfl
  · split <;> simp

theorem State.foldl_deliver_beside {α : Type} (h : HalfId) (l : List α) (s : State) :
    (l.foldl (fun t _ => t.deliver h) s).beside = s.beside := by
  induction l generalizing s with
  | nil => rfl
  | cons x xs ih => exact (ih _).trans (s.deliver_beside h)

@[simp] theorem State.flush_beside (s : State) (h : HalfId) : (s.flush h).beside = s.beside := State.foldl_deliver_beside ..

@[simp] theorem State.crossing_beside (s : State) (l h : HalfId) : (s.crossing l h).beside = s.beside := by
  unfold State.crossing
  split <;> simp

@[simp] theorem State.busWrite_beside (s : State) (m : Writer) (a : Nat) (v : Word) : (s.busWrite m a v).beside = s.beside := by
  simp only [State.busWrite, apply_ite State.beside, State.writeAt_beside, State.busError_beside, State.beside_with_blk, ite_self]

@[simp] theorem State.busRead_beside (s : State) (m : Writer) (a : Nat) : (s.busRead m a).beside = s.beside := by
  simp only [State.busRead, apply_ite State.beside, State.readAt_beside, State.flush_beside, State.busError_beside, ite_self]

@[simp] theorem State.readRun_beside (m : Writer) (n a : Nat) (s : State) : (State.readRun m n a s).2.2.beside = s.beside := by
  induction n generalizing a s with
  | zero => rfl
  | succ n ih =>
    unfold State.readRun
    split
    · rfl
    · dsimp only
      split
      · simp
      · simp [ih]

@[simp] theorem State.writeRun_beside (m : Writer) (a : Nat) (l : List Word) (s : State) :
    (State.writeRun m a l s).2.2.beside = s.beside := by
  induction l generalizing a s with
  | nil => rfl
  | cons v rest ih =>
    unfold State.writeRun
    split
    · rfl
    · dsimp only
      split
      · simp
      · simp [ih]

@[simp] theorem State.regRd_beside (s : State) (l : HalfId) : (s.regRd l).beside = s.beside := by
  unfold State.regRd
  split <;> simp

@[simp] theorem State.regWr_beside (s : State) (l : HalfId) : (s.regWr l).beside = s.beside := by
  unfold State.regWr
  split
  · rfl
  · dsimp only
    split <;> simp

@[simp] theorem State.bulk_beside (s : State) (l : HalfId) : (s.bulk l).beside = s.beside := by
  unfold State.bulk
  split <;> simp

@[simp] theorem State.outbound_beside (s : State) (l half : HalfId) (c n : Nat) : (s.outbound l half c n).beside = s.beside := by
  simp [State.outbound]

/-! ## Configurations leave everything but the block and RAM -/

@[simp] theorem State.cfgWrite_beside (h : HalfId) (s : State) (w : CWrite) : (s.cfgWrite h w).1.beside = s.beside := by
  unfold State.cfgWrite
  split
  · rfl
  · dsimp only
    split <;> simp

theorem State.cfgRec_beside (h : HalfId) (s : State) (r : CRec) : (s.cfgRec h r).1.beside = s.beside := by
  suffices ∀ (l : List CWrite) (x : State × Bool),
      (l.foldl (fun x w => if x.2 then x.1.cfgWrite h w else x) x).1.beside = x.1.beside from this _ _
  intro l
  induction l with
  | nil => exact fun _ => rfl
  | cons w ws ih =>
    intro x
    rw [List.foldl_cons, ih]
    split <;> simp

theorem State.cfgApply_beside {h : HalfId} {l : List CRec} {i : Nat} {s t : State} (ht : s.cfgApply h i l = .inl t) :
    t.beside = s.beside := by
  induction l generalizing i s with
  | nil => rw [← Sum.inl.inj ht]
  | cons r rs ih =>
    unfold State.cfgApply at ht
    dsimp only at ht
    split at ht
    · exact (ih ht).trans (s.cfgRec_beside h r)
    · cases ht

theorem State.applyBase_beside {s t : State} {h : HalfId} {ws : List Word} (ht : s.applyBase h ws = .inl t) :
    t.beside = s.beside := by
  unfold State.applyBase at ht
  split at ht
  next u hu => cases ht; exact (State.cfgApply_beside hu :)
  next => cases ht

@[simp] theorem State.commitBase_beside (s : State) (h : HalfId) (ws : List Word) : (s.commitBase h ws).1.beside = s.beside := by
  unfold State.commitBase
  dsimp only
  split
  · rfl
  split
  · rfl
  split
  · rfl
  split
  · rfl
  split
  · rfl
  next t ht =>
    split
    · rfl
    · exact (State.applyBase_beside ht :)

@[simp] theorem State.commitOverlay_beside (s : State) (h : HalfId) (mode : Nat) (ws : List Word) :
    (s.commitOverlay h mode ws).1.beside = s.beside := by
  unfold State.commitOverlay
  dsimp only
  split
  · rfl
  split
  · rfl
  split
  · rfl
  split
  · rfl
  split <;> rfl

@[simp] theorem State.commit_beside (s : State) (h : HalfId) (id len mode : Nat) (pay ws : List Word) :
    (s.commit h id len mode pay ws).1.beside = s.beside := by
  unfold State.commit
  dsimp only
  split
  · rfl
  · split <;> simp

@[simp] theorem State.commitEnd_beside (s : State) (h : HalfId) (c : LongCmd) : (s.commitEnd h c).1.beside = s.beside := by
  unfold State.commitEnd
  dsimp only
  split
  · rfl
  · split <;> simp

@[simp] theorem State.saStep_beside (flash : List Word) (s : State) (x : SaEntry) : (s.saStep flash x).1.beside = s.beside := by
  unfold State.saStep
  dsimp only
  split
  · rfl
  · split <;> simp

@[simp] theorem State.saAll_beside (flash : List Word) (e : Nat) (s : State) (l : List SaEntry) :
    (State.saAll flash e s l).1.beside = s.beside := by
  induction l generalizing e s with
  | nil => rfl
  | cons x rest ih =>
    unfold State.saAll
    split
    · exact ih _ _
    · dsimp only
      split
      · simp [ih]
      · simp

@[simp] theorem State.saRun_beside (s : State) (flash : List Word) : (s.saRun flash).1.beside = s.beside := by
  have h := State.saAll_beside flash 0 s (saEntries flash)
  unfold State.saRun
  dsimp only
  split
  · rfl
  split
  · rfl
  split
  next t f ht => rw [ht] at h; exact h
  next t ht =>
    rw [ht] at h
    split
    · exact h
    · split <;> exact h

/-! ## Commands of the host -/

/-- A command of the host leaves what its body leaves, of all that is no part of the block: HIP's turning it away and its reply change the
block alone. -/
theorem State.command_keeps {α : Type} (p : State → α) (hp : ∀ t b, p { t with blk := b } = p t) {body : State → State × List Word}
    (hb : ∀ t, p (body t).1 = p t) (s : State) (h : HalfId) (secure : Bool) (hdr : Word) (pay : List Word) :
    p (s.command h secure hdr pay body) = p s := by
  unfold State.command
  split
  · exact hp s _
  split
  · exact hp s _
  split
  · exact hp s _
  · exact (hp _ _).trans (hb s)

/-- A command of the host whose body changes the block alone changes the block alone. -/
theorem State.command_blkOnly {s : State} {body : State → State × List Word} (hb : ∃ b, (body s).1 = { s with blk := b })
    (h : HalfId) (secure : Bool) (hdr : Word) (pay : List Word) : ∃ b, s.command h secure hdr pay body = { s with blk := b } := by
  obtain ⟨b, hb⟩ := hb
  unfold State.command
  split
  · exact ⟨_, rfl⟩
  split
  · exact ⟨_, rfl⟩
  split
  · exact ⟨_, rfl⟩
  · dsimp only
    exact ⟨_, by rw [hb]⟩

theorem State.cmd_blkOnly {s : State} {h : HalfId} {secure : Bool} {code : Nat} {seq : BitVec 10} {pay : List Word}
    {body : State → State × List Word} (hb : ∃ b, (body s).1 = { s with blk := b }) :
    ∃ b, s.cmd h secure code seq pay body = .next { s with blk := b } := by
  obtain ⟨b, hb⟩ := State.command_blkOnly hb h secure (header code pay.length seq.toNat) pay
  exact ⟨b, congrArg Host.Outcome.next hb⟩

/-- A row that acts on the block where a condition holds, and does nothing else. -/
theorem ite_blkOnly (s : State) (c : Prop) [Decidable c] (b d : Block) :
    ∃ e, (if c then .next { s with blk := b } else .next { s with blk := d } : Host.Outcome State Fault Refusal) =
      .next { s with blk := e } := by
  split
  · exact ⟨b, rfl⟩
  · exact ⟨d, rfl⟩

theorem execCommandUnknown_blkOnly (h : HalfId) (secure : Bool) (code : BitVec 7) (seq : BitVec 10) (pay : List Word) (s : State) :
    ∃ b, execCommandUnknown h secure code seq pay s = .next { s with blk := b } := by
  unfold execCommandUnknown
  split
  · exact ⟨s.blk, rfl⟩
  · exact State.cmd_blkOnly ⟨s.blk, rfl⟩

theorem execCommandTruncated_blkOnly (h : HalfId) (secure : Bool) (hdr : Word) (pay : List Word) (s : State) :
    ∃ b, execCommandTruncated h secure hdr pay s = .next { s with blk := b } := by
  unfold execCommandTruncated
  split
  · exact ⟨s.blk, rfl⟩
  · obtain ⟨b, hb⟩ := State.command_blkOnly (s := { s with blk := s.blk.setPart h secure [] }) (body := fun s => (s, []))
      ⟨_, rfl⟩ h secure hdr pay
    exact ⟨b, congrArg Host.Outcome.next hb⟩

@[simp] theorem State.setFirm_ram (s : State) (h : HalfId) (x : Firm) : (s.setFirm h x).ram = s.ram := by cases h <;> rfl
@[simp] theorem State.setFirm_fuse (s : State) (h k : HalfId) (x : Firm) : (s.setFirm h x).fuse k = s.fuse k := by
  cases h <;> cases k <;> rfl
@[simp] theorem State.setFuse_ram (s : State) (h : HalfId) (x : Fuses) : (s.setFuse h x).ram = s.ram := by cases h <;> rfl
@[simp] theorem State.setFuse_firm (s : State) (h k : HalfId) (x : Fuses) : (s.setFuse h x).firm k = s.firm k := by
  cases h <;> cases k <;> rfl

/-! ## What each command leaves -/

/-- The command writes nothing but the block. -/
def writesBlkOnly (c : Instr) : Bool := !writesRam c && !writesOtp c && !writesFirmware c

/-- The command reaches RAM or the block through accesses, images or the power of RAM, and nothing else of the state. -/
def writesRamOnly (c : Instr) : Bool := writesRam c && !writesOtp c && !writesFirmware c

theorem exec_blkOnly {c : Instr} (hc : writesBlkOnly c = true) (s : State) : ∃ b, exec c s = .next { s with blk := b } := by
  cases c with
  | registerWrite | crossHalfAccess | bridgeWordDeliver | qhlRegWr | qhlRegRd | qhlBulkFrame | qhlOutboundFrame | regWrite | regRead
  | longCommandComplete | standaloneStart | windowPointSample | aonPowerOn | ladderDescent | mbxTake | firmwareVerify
  | ladderWakeComplete | secverSet | keyAdvance | fwSelect => cases hc
  | tripMaxon | tripExternal | tripStuck | pwmTripSet | coreWatchdogTimeout | secLockoutEnd | driveDieParityError
  | bootSelfTestComplete | bootPeerWaitTimeout => exact ite_blkOnly s _ _ _
  | tripOvercurrent x =>
    obtain ⟨out, amps⟩ := x
    cases out with
    | inj _ | bhs _ | hb _ => exact ite_blkOnly s _ _ _
    | bst _ | evo _ => exact ⟨s.blk, rfl⟩
  | tripOvertemp o =>
    cases o with
    | inj _ | bhs _ | hb _ => exact ⟨_, rfl⟩
    | bst _ | evo _ => exact ⟨s.blk, rfl⟩
  | nop | ident | status | noticeMask | time | echo | streamAbort | noticeReplay | reset | secChallenge | secUnlock | secClose
  | canTx | canFilter | cfgOpen | cfgCommit | cfgAbort | cfgStatus | schedLoadBegin | schedLoadEnd | schedActivate | schedDeactivate
  | schedStatus | schedList | schedDelete | evtSubmit | evtCancel | trimSet | trimRead | creditRead | phaseSet | modeSet
  | logRead | logClear | tallyRead | fwBegin | fwEnd => exact State.cmd_blkOnly ⟨_, rfl⟩
  | commandUnknown h secure code seq pay => exact execCommandUnknown_blkOnly h secure code seq pay s
  | commandTruncated h secure hdr pay => exact execCommandTruncated_blkOnly h secure hdr pay s
  | _ => exact ⟨_, rfl⟩

theorem execRegRead_beside {h : HalfId} {secure : Bool} {seq : BitVec 10} {pay : List Word} {s t : State}
    (ht : execRegRead h secure seq pay s = .next t) : t.beside = s.beside := by
  cases ht
  exact State.command_keeps State.beside State.beside_with_blk (fun t => State.readRun_beside ..) ..

theorem execRegWrite_beside {h : HalfId} {secure : Bool} {seq : BitVec 10} {pay : List Word} {s t : State}
    (ht : execRegWrite h secure seq pay s = .next t) : t.beside = s.beside := by
  cases ht
  refine State.command_keeps State.beside State.beside_with_blk (fun t => ?_) ..
  split
  · rfl
  · exact State.writeRun_beside ..

theorem execStandaloneStart_beside {flash : List (BitVec 8)} {s t : State} (ht : execStandaloneStart flash s = .next t) :
    t.beside = s.beside := by
  unfold execStandaloneStart at ht
  split at ht
  · cases ht; rfl
  · cases ht; exact State.saRun_beside s (flashWords flash)

theorem ladderDescent_beside (h : HalfId) (s : State) : (ladderDescent h s).beside = s.beside := by
  unfold ladderDescent
  dsimp only
  split
  · split <;> rfl
  · split <;> rfl

theorem exec_ramOnly {c : Instr} {s t : State} (hc : writesRamOnly c = true) (ht : exec c s = .next t) : t.beside = s.beside := by
  cases c with
  | registerWrite h m a v => cases ht; exact s.busWrite_beside ⟨h, m⟩ a.toNat v
  | crossHalfAccess h m write off v =>
    cases ht
    cases write with
    | false => exact s.busRead_beside ⟨h, m⟩ _
    | true => exact s.busWrite_beside ⟨h, m⟩ _ v
  | bridgeWordDeliver h => cases ht; exact s.deliver_beside h
  | qhlRegWr h => cases ht; exact s.regWr_beside h
  | qhlRegRd h => cases ht; exact s.regRd_beside h
  | qhlBulkFrame h => cases ht; exact s.bulk_beside h
  | qhlOutboundFrame h half c n => cases ht; exact s.outbound_beside h half c.val n.val
  | regWrite => exact execRegWrite_beside ht
  | regRead => exact execRegRead_beside ht
  | standaloneStart => exact execStandaloneStart_beside ht
  | windowPointSample | aonPowerOn => cases ht; rfl
  | ladderDescent h => cases ht; exact ladderDescent_beside h s
  | _ => cases hc

theorem exec_keeps_beside {c : Instr} {s t : State} (ho : writesOtp c = false) (hf : writesFirmware c = false)
    (ht : exec c s = .next t) : t.beside = s.beside := by
  cases hr : writesRam c with
  | true => exact exec_ramOnly (by simp [writesRamOnly, ho, hf, hr]) ht
  | false =>
    obtain ⟨b, hb⟩ := exec_blkOnly (c := c) (by simp [writesBlkOnly, ho, hf, hr]) s
    cases hb.symm.trans ht
    rfl

/-! ## One-time-programmable memory and firmware slots -/

theorem State.fuse_eq_of_beside {s t : State} (h : t.beside = s.beside) (k : HalfId) : t.fuse k = s.fuse k := by
  simp only [State.beside, Prod.mk.injEq] at h
  cases k <;> simp [State.fuse, h]

theorem State.firm_eq_of_beside {s t : State} (h : t.beside = s.beside) (k : HalfId) : t.firm k = s.firm k := by
  simp only [State.beside, Prod.mk.injEq] at h
  cases k <;> simp [State.firm, h]

/-- No long command writes a fuse: a firmware image goes into its slot, the rest into the block and RAM. -/
theorem State.longEnd_fuse {s : State} {h : HalfId} {c : LongCmd} {r : State × Word × List Word} (hr : s.longEnd h c = some r)
    (k : HalfId) : r.1.fuse k = s.fuse k := by
  unfold State.longEnd at hr
  dsimp only at hr
  split at hr
  · cases hr; rfl
  split at hr
  · cases hr; exact State.fuse_eq_of_beside (s.commitEnd_beside h c) k
  · cases hr; rfl
  · cases hr; rfl
  · cases hr; exact s.setFirm_fuse h k _
  · obtain ⟨x, -, rfl⟩ := Option.map_eq_some_iff.1 hr
    rfl

theorem longComplete_fuse (h k : HalfId) (s : State) : (longComplete h s).fuse k = s.fuse k := by
  unfold longComplete
  split
  · rfl
  split
  · rfl
  split
  · rfl
  next hr => exact State.longEnd_fuse hr k

theorem fwSelect_fuse (h k : HalfId) (s : State) : (fwSelect h s).1.fuse k = s.fuse k := by
  simp only [fwSelect, apply_ite Prod.fst, apply_ite (State.fuse · k), State.setFirm_fuse, ite_self]

theorem fwSelect_ram (h : HalfId) (s : State) : (fwSelect h s).1.ram = s.ram := by
  simp only [fwSelect, apply_ite Prod.fst, apply_ite State.ram, State.setFirm_ram, ite_self]

theorem secverSet_firm (h k : HalfId) (v : Nat) (s : State) : (secverSet h v s).1.firm k = s.firm k := by
  simp only [secverSet, apply_ite Prod.fst, apply_ite (State.firm · k), State.setFuse_firm, ite_self]

theorem secverSet_ram (h : HalfId) (v : Nat) (s : State) : (secverSet h v s).1.ram = s.ram := by
  simp only [secverSet, apply_ite Prod.fst, apply_ite State.ram, State.setFuse_ram, ite_self]

theorem keyAdvance_firm (h k : HalfId) (s : State) : (keyAdvance h s).1.firm k = s.firm k := by
  simp only [keyAdvance, apply_ite Prod.fst, apply_ite (State.firm · k), State.setFuse_firm, ite_self]

theorem keyAdvance_ram (h : HalfId) (s : State) : (keyAdvance h s).1.ram = s.ram := by
  simp only [keyAdvance, apply_ite Prod.fst, apply_ite State.ram, State.setFuse_ram, ite_self]

theorem exec_keeps_fuse {c : Instr} {s t : State} (hc : writesOtp c = false) (ht : exec c s = .next t) (k : HalfId) :
    t.fuse k = s.fuse k := by
  cases hf : writesFirmware c with
  | false => exact State.fuse_eq_of_beside (exec_keeps_beside hc hf ht) k
  | true =>
    cases c with
    | longCommandComplete h => cases ht; exact longComplete_fuse h k s
    | fwSelect h secure seq pay =>
      cases ht
      exact State.command_keeps (State.fuse · k) (fun t b => by cases k <;> rfl) (fwSelect_fuse h k) ..
    | mbxTake | firmwareVerify | ladderWakeComplete => cases hc
    | _ => cases hf

theorem exec_keeps_firm {c : Instr} {s t : State} (hc : writesFirmware c = false) (ht : exec c s = .next t) (k : HalfId) :
    t.firm k = s.firm k := by
  have hk (t : State) (b : Block) : ({ t with blk := b } : State).firm k = t.firm k := by cases k <;> rfl
  cases ho : writesOtp c with
  | false => exact State.firm_eq_of_beside (exec_keeps_beside ho hc ht) k
  | true =>
    cases c with
    | secverSet h secure seq pay => cases ht; exact State.command_keeps (State.firm · k) hk (secverSet_firm h k _) ..
    | keyAdvance h secure seq pay => cases ht; exact State.command_keeps (State.firm · k) hk (keyAdvance_firm h k) ..
    | mbxTake | firmwareVerify | ladderWakeComplete => cases hc
    | _ => cases ho

theorem exec_keeps_ram {c : Instr} {s t : State} (hc : writesRam c = false) (ht : exec c s = .next t) : t.ram = s.ram := by
  cases hx : writesOtp c || writesFirmware c with
  | false =>
    obtain ⟨b, hb⟩ := exec_blkOnly (c := c) (by simp_all [writesBlkOnly]) s
    cases hb.symm.trans ht
    rfl
  | true =>
    have hp (t : State) (b : Block) : ({ t with blk := b } : State).ram = t.ram := rfl
    cases c with
    | secverSet h secure seq pay => cases ht; exact State.command_keeps State.ram hp (secverSet_ram h _) ..
    | keyAdvance h secure seq pay => cases ht; exact State.command_keeps State.ram hp (keyAdvance_ram h) ..
    | fwSelect h secure seq pay => cases ht; exact State.command_keeps State.ram hp (fwSelect_ram h) ..
    | mbxTake | firmwareVerify | ladderWakeComplete | longCommandComplete => cases hc
    | _ => cases hx

end Sys2Proof.Machine

open Sys2Proof Sys2Proof.Machine

/-- Settles O43, by the commands: each leaves what it does not name, in RAM, in the fuses and in the firmware slots. -/
theorem memoryFrame : Obligations.MemoryFrame := by
  intro c s t ht
  exact ⟨fun hc a => congrArg (memGet (ramReset a) · a) (exec_keeps_ram hc ht), fun hc => exec_keeps_fuse hc ht,
    fun hc => exec_keeps_firm hc ht⟩
end

section
/-!
Accesses to registers without power, and the steps of the module in which no command waits (rules R38, R47).
-/

namespace Sys2Proof.Machine

theorem State.access_unpowered {s : State} {r : Reg} {h : HalfId} (hp : s.blk.powered r h = false) (b : Block) :
    s.access r h b = .next { s with blk := { s.blk with busErr := true } } := by
  simp [State.access, hp]

/-- HIP takes no word from a mailbox without power, so a take there is an access like any other. -/
theorem execMbxTake_unpowered {s : State} {h : HalfId} {m : Fin 16} {who : Master} (hp : s.blk.powered .MBX_DATA h = false) :
    execMbxTake h m who s = .next { s with blk := { s.blk with busErr := true } } := by
  have ht : s.blk.hipTakes h m.val who = false := by simp [Block.hipTakes, hp]
  simp [execMbxTake, ht, State.access_unpowered hp]

theorem step_of_idle {s : State} (hs : s.pending = []) : step s = .next { s with blk := s.blk.tick } := by
  simp [step, hs]

end Sys2Proof.Machine

open Sys2Proof Sys2Proof.Machine

/-- Settles O2: with an empty queue a step is the tick. -/
theorem idleStepIsOneAngclk : Obligations.IdleStepIsOneAngclk := fun _ => step_of_idle

/-- Settles O58: every row is an access of its register by its definition, and MBX_TAKE is one where the mailbox is without power. -/
theorem unpoweredAccessIsBusError : Obligations.UnpoweredAccessIsBusError := by
  unfold Obligations.UnpoweredAccessIsBusError
  and_intros <;> intros
  any_goals exact State.access_unpowered ‹_› _
  exact execMbxTake_unpowered ‹_›
end

section
/-!
One ANGCLK and the timestamp counters: a half whose ANGCLK runs counts, and nothing else of the tick reaches a counter (rules R38, R141,
R441).
-/

namespace Sys2Proof.Machine

variable (s : Block) (h k : HalfId)

/-! ## What leaves the halves, or their counters, as they are -/

/-- A change of a half that keeps its timestamp counter keeps both halves' counters. -/
theorem Block.modHalf_tsc {f : Half → Half} (hf : ∀ x, (f x).tsc = x.tsc) : ((s.modHalf h f).half k).tsc = (s.half k).tsc := by
  by_cases e : k = h
  · rw [e, Block.modHalf_half, hf]
  · rw [Block.modHalf_half_ne s h k f e]

@[simp] theorem Block.modPwr_tsc (g : Pwr → Pwr) : ((s.modPwr h g).half k).tsc = (s.half k).tsc :=
  Block.modHalf_tsc s h k fun _ => rfl

@[simp] theorem Block.modFab_tsc (g : Fabric → Fabric) : ((s.modFab h g).half k).tsc = (s.half k).tsc :=
  Block.modHalf_tsc s h k fun _ => rfl

@[simp] theorem Block.modTmr_half (n : Nat) (g : Tmr → Tmr) : (s.modTmr n g).half k = s.half k := by cases k <;> rfl

@[simp] theorem Block.setTmrCount_half (n v : Nat) : (s.setTmrCount n v).half k = s.half k := by
  unfold Block.setTmrCount
  dsimp only
  split <;> simp

@[simp] theorem Block.setTmrCmp_half (n v : Nat) : (s.setTmrCmp n v).half k = s.half k := by
  unfold Block.setTmrCmp
  dsimp only
  split <;> simp

@[simp] theorem Block.tmrStep_half (n : Nat) : (s.tmrStep n).half k = s.half k := by
  unfold Block.tmrStep
  dsimp only
  generalize tmrPipe _ _ = p
  obtain ⟨rest, v, late, held⟩ := p
  cases v <;> simp [apply_ite (Block.half · k)]

@[simp] theorem Block.tmrTick_half : s.tmrTick.half k = s.half k := by
  unfold Block.tmrTick
  generalize List.range 16 = l
  induction l generalizing s with
  | nil => rfl
  | cons n ns ih => rw [List.foldl_cons, ih, Block.tmrStep_half]

@[simp] theorem Block.portTick_tsc : (s.portTick.half k).tsc = (s.half k).tsc := by simp [Block.portTick]

@[simp] theorem Block.newAon_tsc : (s.newAon.half k).tsc = (s.half k).tsc := by simp [Block.newAon]

@[simp] theorem Block.wakeHalf_tsc (bit deepest : Nat) : ((s.wakeHalf h bit deepest).half k).tsc = (s.half k).tsc := by
  unfold Block.wakeHalf
  dsimp only
  split <;> split <;> simp

@[simp] theorem Block.irqWake_tsc : ((s.irqWake h).half k).tsc = (s.half k).tsc := by
  unfold Block.irqWake
  split <;> simp

/-! ## The clock and the PWM units of a half -/

/-- What an update of half `h` leaves that the ANGCLK of the other half depends on, and the counter of `h`. -/
structure Block.OwnHalf (s t : Block) (h : HalfId) : Prop where
  tsc : (t.half h).tsc = (s.half h).tsc
  peer : t.half h.peer = s.half h.peer
  rungs : t.w .a .PWR_STAT = s.w .a .PWR_STAT

variable {s h}

theorem Block.OwnHalf.refl : s.OwnHalf s h := ⟨rfl, rfl, rfl⟩

theorem Block.OwnHalf.trans {t u : Block} (a : s.OwnHalf t h) (b : t.OwnHalf u h) : s.OwnHalf u h :=
  ⟨b.tsc.trans a.tsc, b.peer.trans a.peer, b.rungs.trans a.rungs⟩

theorem Block.ownHalf_modHalf {f : Half → Half} (hf : ∀ x, (f x).tsc = x.tsc) : s.OwnHalf (s.modHalf h f) h :=
  ⟨by rw [Block.modHalf_half, hf], Block.modHalf_half_peer s h f, Block.modHalf_w s h .a f ..⟩

theorem Block.ownHalf_modClk (g : Clock → Clock) : s.OwnHalf (s.modClk h g) h := Block.ownHalf_modHalf fun _ => rfl

theorem Block.ownHalf_count_halts : s.OwnHalf (s.count h F.ANG_CNT_HALTS) h :=
  ⟨by simp, by simp, Block.count_w_ne s h .a _ _ _ _ _ _ (by cases h <;> decide)⟩

/-- PWM_ERR stands at even addresses, PWR_STAT at an odd one. -/
theorem Reg.pwrStat_addr_ne_pwmErr (h : HalfId) (u : Nat) : Reg.PWR_STAT.addr .a 0 0 ≠ Reg.PWM_ERR.addr h u 0 := by
  have stat : Reg.PWR_STAT.addr .a 0 0 = 0x900001 := rfl
  have err : Reg.PWM_ERR.addr h u 0 = 0x280010 + (if h == .b then 0x400000 else 0) + u * 0x20 := rfl
  rw [stat, err]
  split <;> omega

theorem Block.ownHalf_pwmErr (u m : Nat) : s.OwnHalf (s.pwmErr h u m) h :=
  ⟨by simp [Block.pwmErr], by simp [Block.pwmErr], Block.setW_w_ne s h .a _ _ _ _ _ _ _ (Reg.pwrStat_addr_ne_pwmErr h u)⟩

theorem Block.ownHalf_collectDue : s.OwnHalf (s.collectDue h) h := by
  unfold Block.collectDue
  dsimp only
  split
  · exact .refl
  split
  · exact .refl
  · exact Block.ownHalf_modHalf fun _ => rfl

theorem Block.ownHalf_clockTick : s.OwnHalf (s.clockTick h) h := by
  have collected : s.OwnHalf ((s.modClk h fun c => c.tick (s.modM h) (s.clockRev h) ((s.half h).tsc + 1)).collectDue h) h :=
    (Block.ownHalf_modClk _).trans Block.ownHalf_collectDue
  unfold Block.clockTick
  dsimp only
  split
  · split
    · exact collected.trans Block.ownHalf_count_halts
    · exact collected
  · exact .refl

theorem Block.ownHalf_foldl {α : Type} {f : Block → α → Block} (hf : ∀ t x, Block.OwnHalf t (f t x) h) (l : List α) :
    s.OwnHalf (l.foldl f s) h := by
  induction l generalizing s with
  | nil => exact .refl
  | cons x xs ih => exact (hf s x).trans ih

theorem Block.ownHalf_pwmTick : s.OwnHalf (s.pwmTick h) h := by
  unfold Block.pwmTick
  dsimp only
  split
  · exact .refl
  · refine (Block.ownHalf_foldl (fun t x => ?_) _).trans (Block.ownHalf_modHalf fun _ => rfl)
    split
    · exact Block.ownHalf_pwmErr ..
    · exact .refl

theorem Block.ownHalf_clockPwm : s.OwnHalf ((s.clockTick h).pwmTick h) h := Block.ownHalf_clockTick.trans Block.ownHalf_pwmTick

/-! ## One ANGCLK -/

/-- The timestamp counter of half `k` after one ANGCLK of that half. -/
def Block.tscNext (s : Block) (k : HalfId) : Nat := if s.angRuns k then ((s.half k).tsc + 1) % 2 ^ 48 else (s.half k).tsc

theorem Block.tickHalf_tsc : ((s.tickHalf h).half h).tsc = s.tscNext h := by
  have own := Block.ownHalf_clockPwm (s := s) (h := h)
  unfold Block.tickHalf Block.tscNext
  split
  · simp [own.tsc]
  · rfl

theorem Block.tickHalf_half_peer : (s.tickHalf h).half h.peer = s.half h.peer := by
  have own := Block.ownHalf_clockPwm (s := s) (h := h)
  unfold Block.tickHalf
  split
  · simp [own.peer]
  · rfl

theorem Block.tickHalf_rungs : (s.tickHalf h).w .a .PWR_STAT = s.w .a .PWR_STAT := by
  have own := Block.ownHalf_clockPwm (s := s) (h := h)
  unfold Block.tickHalf
  split
  · simp [own.rungs]
  · rfl

/-- Whether ANGCLK runs in a half follows from the half and the rungs in PWR_STAT. -/
theorem Block.angRuns_congr {t : Block} {k : HalfId} (hh : t.half k = s.half k) (hw : t.w .a .PWR_STAT = s.w .a .PWR_STAT) :
    t.angRuns k = s.angRuns k := by
  have hf (x : Fld) (hx : x.reg = .PWR_STAT) : t.f .a x = s.f .a x := by
    unfold Block.f
    rw [hx, hw]
  unfold Block.angRuns
  rw [hh, hf F.PWR_STAT_STA rfl, hf F.PWR_STAT_STB rfl]

/-- The ANGCLK of one half does not start or stop, or move the counter of, the other. -/
theorem Block.tickHalf_tscNext_peer : (s.tickHalf h).tscNext h.peer = s.tscNext h.peer := by
  unfold Block.tscNext
  rw [Block.angRuns_congr Block.tickHalf_half_peer Block.tickHalf_rungs, Block.tickHalf_half_peer]

theorem Block.tick_tsc (k : HalfId) : (s.tick.half k).tsc = s.tscNext k := by
  have rest : (s.tick.half k).tsc = (((s.tickHalf .a).tickHalf .b).half k).tsc := by
    have fresh (t : Block) (n : Nat) : ({ t with fresh := n } : Block).half k = t.half k := by cases k <;> rfl
    unfold Block.tick
    dsimp only
    split <;> simp [fresh]
  rw [rest]
  cases k with
  | a => exact (congrArg Half.tsc (Block.tickHalf_half_peer (h := .b))).trans Block.tickHalf_tsc
  | b => exact Block.tickHalf_tsc.trans (Block.tickHalf_tscNext_peer (h := .a))

end Sys2Proof.Machine

open Sys2Proof Sys2Proof.Machine

/-- Settles O54, by the halves: the tick of each moves its own counter, and leaves the other half and its rung alone. -/
theorem tickAdvancesTimestamps : Obligations.TickAdvancesTimestamps := by
  intro s t hs ht h
  cases (step_of_idle hs).symm.trans ht
  exact Block.tick_tsc h
end

section
/-!
The front ends by mode and edge (rules R33, R51, R52, R472), and their rows while the drive die is powered and while it is not (rule R442).
-/

namespace Sys2Proof.Machine

/-- Both halves' trackers that take input `n` receive its timing edge. -/
def Block.deliverBoth (s : Block) (n : Nat) : Block :=
  [HalfId.a, HalfId.b].foldl (fun b h => [0, 1].foldl (Block.deliver h n) b) s

variable {s : Block} {n : Nat} {up : Bool}

theorem feTimingEdge_of_off (hm : s.f .a F.FE_CFG_MODE n = 0) : feTimingEdge n up s = s := by
  simp [feTimingEdge, hm]

theorem feTimingEdge_of_digital (hm : 2 ≤ s.f .a F.FE_CFG_MODE n) (hu : up = !s.on .a F.FE_CFG_INV n) :
    feTimingEdge n up s = ((s.setF .a F.FE_STAT_LEVEL (bitOf up) n).setF .a F.FE_STAT_ACTIVE 1 n).deliverBoth n := by
  have h0 : s.f .a F.FE_CFG_MODE n ≠ 0 := by omega
  have h1 : s.f .a F.FE_CFG_MODE n ≠ 1 := by omega
  simp [feTimingEdge, Block.deliverBoth, h0, h1, ← hu]

theorem feTimingEdge_of_digital_level (hm : 2 ≤ s.f .a F.FE_CFG_MODE n) (hu : up = s.on .a F.FE_CFG_INV n) :
    feTimingEdge n up s = s.setF .a F.FE_STAT_LEVEL (bitOf up) n := by
  have h0 : s.f .a F.FE_CFG_MODE n ≠ 0 := by omega
  have h1 : s.f .a F.FE_CFG_MODE n ≠ 1 := by omega
  simp [feTimingEdge, h0, h1, ← hu]

theorem feTimingEdge_of_armed (hm : s.f .a F.FE_CFG_MODE n = 1) (ha : (s.feOf n).armed = true) (hu : up = s.on .a F.FE_CFG_INV n) :
    feTimingEdge n up s = ((((s.setF .a F.FE_STAT_LEVEL (bitOf up) n).setFe n ⟨false, (s.feOf n).peak, 0⟩).setF .a F.FE_STAT_PEAK
      (capNat 255 (s.feOf n).peak) n).setF .a F.FE_STAT_ACTIVE 1 n).deliverBoth n := by
  simp [feTimingEdge, Block.deliverBoth, hm, ha, ← hu]

theorem feTimingEdge_of_unarmed (hm : s.f .a F.FE_CFG_MODE n = 1)
    (ha : (s.feOf n).armed = false ∨ up = !s.on .a F.FE_CFG_INV n) :
    feTimingEdge n up s = s.setF .a F.FE_STAT_LEVEL (bitOf up) n := by
  obtain ha | hu := ha
  · simp [feTimingEdge, hm, ha]
  · simp [feTimingEdge, hm, hu]

theorem vrArm_of_vr (level : Nat) (hm : s.f .a F.FE_CFG_MODE n = 1) :
    vrArm n level s = s.setFe n { s.feOf n with
      armed := (s.feOf n).armed || decide (s.armLevel n < level),
      peak := if (s.feOf n).peak < level then level else (s.feOf n).peak } := by
  simp [vrArm, hm]

theorem feFaultDetect_short (ha : s.on .a F.FE_STAT_ACTIVE n = false) : feFaultDetect n true s = s.setF .a F.FE_STAT_SHORT 1 n := by
  simp [feFaultDetect, ha]

theorem feFaultDetect_open (ha : s.on .a F.FE_STAT_ACTIVE n = false) (hm : s.f .a F.FE_CFG_MODE n = 1) :
    feFaultDetect n false s = s.setF .a F.FE_STAT_OPEN 1 n := by
  simp [feFaultDetect, ha, hm]

/-- A row of a front end acts on the block where the DRV domain is on. -/
theorem drvRow_on {s : State} {b c : Block} (hd : s.blk.drvOn = true) (hb : b = c) :
    (.next { s with blk := if s.blk.drvOn then b else s.blk } : Host.Outcome State Fault Refusal) = .next { s with blk := c } := by
  rw [if_pos hd, hb]

/-- While the DRV domain is off a row of a front end has no effect. -/
theorem drvRow_off {s : State} (b : Block) (hd : s.blk.drvOn = false) :
    (.next { s with blk := if s.blk.drvOn then b else s.blk } : Host.Outcome State Fault Refusal) = .next s := by
  simp [hd]

end Sys2Proof.Machine

open Sys2Proof Sys2Proof.Machine

/-- Settles O8, by the mode of the input and the direction of the edge; without the DRV domain no row acts. -/
theorem frontEndRowsComplete : Obligations.FrontEndRowsComplete :=
  ⟨fun _ _ _ hd hm => drvRow_on hd (feTimingEdge_of_off hm),
   fun _ _ _ hd hm hu => drvRow_on hd (feTimingEdge_of_digital hm hu),
   fun _ _ _ hd hm hu => drvRow_on hd (feTimingEdge_of_digital_level hm hu),
   fun _ _ _ hd hm ha hu => drvRow_on hd (feTimingEdge_of_armed hm ha hu),
   fun _ _ _ hd hm ha => drvRow_on hd (feTimingEdge_of_unarmed hm ha),
   fun _ _ v hd hm => drvRow_on hd (vrArm_of_vr v.toNat hm),
   fun _ _ hd => drvRow_on hd rfl,
   fun _ _ hd ha => drvRow_on hd (feFaultDetect_short ha),
   fun _ _ hd ha hm => drvRow_on hd (feFaultDetect_open ha hm),
   fun _ _ _ hd => drvRow_off _ hd,
   fun _ _ _ hd => drvRow_off _ hd,
   fun _ _ hd => drvRow_off _ hd,
   fun _ _ _ hd => drvRow_off _ hd⟩
end

section
/-!
The racking bridge and what crosses it: words in order, heartbeats, the loss and return of the bridge, and the measured difference of the
timestamp counters (rules R28, R29, R43, R418, R425, R427).
-/

namespace Sys2Proof.Machine

/-- A row that acts on the block alone answers the state with the block it makes. -/
theorem State.next_with_blk_congr (s : State) {b c : Block} (h : b = c) :
    (.next { s with blk := b } : Host.Outcome State Fault Refusal) = .next { s with blk := c } := by rw [h]

/-! ## Words that arrive -/

/-- The lane after its oldest word was taken: the rest moves up, and its credit lets the first waiting word in. -/
def Lane.taken (l : Lane) (rest : List BMsg) : Lane := { l with fifo := rest ++ l.wait.take 1, wait := l.wait.drop 1 }

theorem State.deliver_of_cons {s : State} {h : HalfId} {w : BMsg} {rest : List BMsg} (hl : (s.blk.lane h.peer).fifo = w :: rest)
    (hs : s.blk.supRuns h = true) (hb : (s.blk.half h).hl.lost = false) :
    s.deliver h = { s with blk := s.blk.setLane h.peer ((s.blk.lane h.peer).taken rest) }.arrive h w := by
  simp [State.deliver, Lane.taken, hl, hs, hb]

/-- A word without an effect of its own waits at its half for the row that acts on it. -/
theorem State.arrive_beat (s : State) (h : HalfId) (x : Word) :
    s.arrive h (.beat x) =
      { s with blk := s.blk.setLane h.peer { (s.blk.lane h.peer) with rx := (s.blk.lane h.peer).rx ++ [BMsg.beat x] } } := rfl

/-- A host word goes straight into its mailbox. -/
theorem State.arrive_host (s : State) (h : HalfId) (second : Bool) (x : Word) :
    s.arrive h (.host second x) = { s with blk := s.blk.mbxStore h (if second then 4 else 0) x } := rfl

theorem creditWait_of_waiting {s : Block} {h : HalfId} (hw : (s.lane h).wait ≠ []) :
    creditWait h s = s.report h 0 0 16 127 (s.score h * 256 + s.f h F.HLM_STAT_PEERQ) := by
  simp [creditWait, hw, cOK]

/-! ## Heartbeats -/

/-- A heartbeat that is not the first of its firmware claims nothing. -/
theorem heartbeatSend_of_later {s : Block} {h : HalfId} (hs : s.supRuns h = true) (hl : (s.half h).hl.lost = false)
    (hf : (s.half h).hl.fwBeats = true ∨ s.fwRuns h = false) : heartbeatSend h s = s.send h (.beat (s.beatWord h)) := by
  have hfirst : (s.fwRuns h && !(s.half h).hl.fwBeats) = false := by
    obtain hf | hf := hf <;> simp [hf]
  simp [heartbeatSend, hs, hl, hfirst]

/-- HLM_STAT as a received heartbeat leaves it: the peer's claim, firmware and score, and the bridge that holds. -/
def Block.noteBeat (s : Block) (h : HalfId) (w : Word) : Block :=
  (((s.setF h F.HLM_STAT_PEERCLAIM (bits w.toNat 23 23)).setF h F.HLM_STAT_PEERFW (bits w.toNat 22 22)).setF h F.HLM_STAT_PEERQ
    (bits w.toNat 20 13)).setF h F.HLM_STAT_BRIDGE 1

theorem Block.noteBeat_peerQ (s : Block) (h : HalfId) (w : Word) : (s.noteBeat h w).f h F.HLM_STAT_PEERQ = bits w.toNat 20 13 := by
  unfold Block.noteBeat
  rw [Block.setF_f_disjoint _ _ _ _ _ _ _ (by decide) (by rfl) (by decide), Block.setF_f_same _ _ _ _ _ _ (by decide)]
  exact Nat.mod_eq_of_lt (bits_lt _ _ _)

theorem Block.noteBeat_peerFw (s : Block) (h : HalfId) (w : Word) : (s.noteBeat h w).f h F.HLM_STAT_PEERFW = bits w.toNat 22 22 := by
  unfold Block.noteBeat
  rw [Block.setF_f_disjoint _ _ _ _ _ _ _ (by decide) (by rfl) (by decide),
    Block.setF_f_disjoint _ _ _ _ _ _ _ (by decide) (by rfl) (by decide),
    Block.setF_f_same _ _ _ _ _ _ (by decide)]
  exact Nat.mod_eq_of_lt (bits_lt _ _ _)

theorem Block.noteBeat_peerClaim (s : Block) (h : HalfId) (w : Word) :
    (s.noteBeat h w).f h F.HLM_STAT_PEERCLAIM = bits w.toNat 23 23 := by
  unfold Block.noteBeat
  rw [Block.setF_f_disjoint _ _ _ _ _ _ _ (by decide) (by rfl) (by decide),
    Block.setF_f_disjoint _ _ _ _ _ _ _ (by decide) (by rfl) (by decide),
    Block.setF_f_disjoint _ _ _ _ _ _ _ (by decide) (by rfl) (by decide), Block.setF_f_same _ _ _ _ _ _ (by decide)]
  exact Nat.mod_eq_of_lt (bits_lt _ _ _)

theorem Block.noteBeat_bridge (s : Block) (h : HalfId) (w : Word) : (s.noteBeat h w).on h F.HLM_STAT_BRIDGE = true := by
  unfold Block.noteBeat Block.on
  rw [Block.setF_f_same _ _ _ _ _ _ (by decide)]
  rfl

theorem bitOf_bit (v n : Nat) : bitOf (bits v n n == 1) = bits v n n := by
  have h : bits v n n < 2 := by simpa using bits_lt v n n
  by_cases e : bits v n n = 1
  · simp [bitOf, e]
  · simp [bitOf, e]; omega

/-- What a half holds of a heartbeat beside HLM_STAT: the word, no wait for a claim where the peer sent one, and for how long the peer's
score has been below its own. -/
def HelmLog.noteBeat (y : HelmLog) (w : Word) (below : Bool) : HelmLog :=
  let sent := bits w.toNat 23 23 == 1
  { y with lastBeat := some w, claimAt := if sent then none else y.claimAt, peerQOk := y.peerQOk && below, yielding := y.yielding && sent }

/-- A heartbeat of a half that does not yield enters HLM_STAT, is kept as the last one, and the helm is derived from it. -/
theorem heartbeatReceive_of_beat {s : Block} {h : HalfId} {w : Word} {rest : List BMsg}
    (hb : takeBeat (s.lane h.peer).rx = some (w, rest)) (hl : (s.half h).hl.lost = false) (hy : (s.half h).hl.yielding = false) :
    ∃ (t : Block) (below : Bool), heartbeatReceive h s =
      ((t.noteBeat h w).modHl h (·.noteBeat w below)).deriveHelm h
        (((t.noteBeat h w).modHl h (·.noteBeat w below)).beatCause h (bits w.toNat 23 23 == 1)) := by
  refine ⟨s.setLane h.peer { s.lane h.peer with rx := rest }, decide (bits w.toNat 20 13 + s.f h F.HLM_CFG_CHALLENGE ≤ s.score h), ?_⟩
  simp only [heartbeatReceive, hb, Block.setLane_half, hl, hy, Bool.false_eq_true, if_false, Bool.not_false, Bool.and_true, bitOf_bit,
    Block.noteBeat, HelmLog.noteBeat]

/-! ## Loss and return of the bridge -/

/-- A half that loses the bridge while its peer is up claims, enters island mode and wraps its ring. -/
theorem bridgeLost_of_up {s b c : Block} {h : HalfId} (hs : s.supRuns h = true) (hp : s.on h F.HLM_STAT_PEERDOWN = false)
    (hl : (s.half h).hl.lost = false)
    (hb : b = (((s.setF h F.HLM_STAT_BRIDGE 0).setLane h (s.lane h).cut).modHl h (fun y => { y with lost := true })).claim h 6)
    (hc : c = ((((b.enterIsland h).setF h F.WTK_XCHK_PEER_VALID 0 0).setF h F.WTK_XCHK_PEER_VALID 0 1).peerMbxReset h).islandWrap h) :
    bridgeLost h s = if c.servedBy h = h then c else (c.hostReset h).moveServing h h := by
  subst hb hc
  simp only [bridgeLost, hs, hp, hl, Bool.not_true, Bool.or_false, Bool.false_eq_true, if_false]

theorem bridgeReturn_of_lost {s : Block} (ha : s.supRuns .a = true) (hb : s.supRuns .b = true) (hl : (s.half .a).hl.lost = true) :
    bridgeReturn s = (s.bridgeBack .a (s.fwRuns .b)).bridgeBack .b (s.fwRuns .a) := by
  simp [bridgeReturn, ha, hb, hl]

/-! ## The measured difference -/

/-- A whole number that fits a signed field of 48 bits reads back from it. -/
theorem sext_field_48 {d : Int} (hlo : -2 ^ 47 ≤ d) (hhi : d < 2 ^ 47) : sext 48 (field 48 d) = d := by
  unfold sext field
  norm_num at hlo hhi ⊢
  split <;> omega

theorem xdiffMeasure_of_up {s : Block} {h : HalfId} (e : Nat) (hb : s.bridgeUp h = true) (hl : (s.half h).live = true)
    (hp : (s.half h.peer).live = true) (hf : s.on h F.HLM_STAT_PEERFW = true) :
    xdiffMeasure h e s =
      (s.modHalf h fun x => { x with xdiff := sext 48 (field 48 (((s.half h).tsc : Int) - ((s.half h.peer).tsc : Int) + (e : Int) - 2)) }
        ).setF h F.TSC_XSTAT_VALID 1 := by
  simp [xdiffMeasure, hb, hl, hp, hf]

/-- The stored difference is off by at most 2 ticks: the measurement's error is the operand less 2. -/
theorem xdiffMeasure_error {s : Block} {h : HalfId} (e : Fin 5) (hb : s.bridgeUp h = true) (hl : (s.half h).live = true)
    (hp : (s.half h.peer).live = true) (hf : s.on h F.HLM_STAT_PEERFW = true) (ht : (s.half h).tsc < 2 ^ 40)
    (hq : (s.half h.peer).tsc < 2 ^ 40) :
    (xdiffMeasure h e s).on h F.TSC_XSTAT_VALID = true ∧
      (((xdiffMeasure h e s).half h).xdiff - (((s.half h).tsc : Int) - (s.half h.peer).tsc)).natAbs ≤ 2 ∧
      ((xdiffMeasure h e s).half h).tsc = (s.half h).tsc := by
  rw [xdiffMeasure_of_up e hb hl hp hf]
  refine ⟨?_, ?_, by simp⟩
  · rw [Block.on, Block.setF_f_same _ _ F.TSC_XSTAT_VALID _ _ _ (by decide)]
    rfl
  · rw [Block.setF_half, Block.modHalf_half]
    dsimp only
    rw [sext_field_48 (by omega) (by omega)]
    omega

end Sys2Proof.Machine

open Sys2Proof Sys2Proof.Machine

/-- Settles O5, row by row. -/
theorem bridgeRowsComplete : Obligations.BridgeRowsComplete := by
  refine ⟨fun s h x rest hl hs hb => ?_, fun s h second x rest hl hs hb => ?_, fun s h hw => ?_, fun s h hs hl hf => ?_,
    fun s h w rest hb hl hy => ?_, fun s h b c hs hp hl hb hc => ?_, fun s ha hb hl => ?_, fun s h e hb hl hp hf ht hq => ?_⟩
  · change Host.Outcome.next (s.deliver h) = _
    rw [State.deliver_of_cons hl hs hb, State.arrive_beat]
    simp [Lane.taken]
  · change Host.Outcome.next (s.deliver h) = _
    rw [State.deliver_of_cons hl hs hb, State.arrive_host, Lane.taken]
  · exact State.next_with_blk_congr s (creditWait_of_waiting hw)
  · exact State.next_with_blk_congr s (heartbeatSend_of_later hs hl hf)
  · obtain ⟨t, below, ht⟩ := heartbeatReceive_of_beat hb hl hy
    refine ⟨(t.noteBeat h w).modHl h (·.noteBeat w below), ?_, ?_, ?_, ?_, ?_,
      State.next_with_blk_congr s ht⟩
    · rw [Block.modHl_f, Block.noteBeat_peerQ]
    · rw [Block.modHl_f, Block.noteBeat_peerClaim]
    · rw [Block.modHl_f, Block.noteBeat_peerFw]
    · exact (Block.modHalf_on ..).trans (t.noteBeat_bridge h w)
    · rw [Block.modHl_half, HelmLog.noteBeat]
  · exact State.next_with_blk_congr s (bridgeLost_of_up hs hp hl hb hc)
  · exact State.next_with_blk_congr s (bridgeReturn_of_lost ha hb hl)
  · exact ⟨_, rfl, xdiffMeasure_error e hb hl hp hf ht hq⟩
end

section
/-!
Wheel edges: the glitch filter, the direction of a pulse, the judging of a crank edge by sync state, and the placing of a cam edge (rules
R53, R54, R60 to R70, R74). One equation for each case of a row.
-/

namespace Sys2Proof.Machine

/-! ## Trackers -/

section
variable (s : Block) (h k : HalfId) (t : Nat) (g : Tracker → Tracker)

@[simp] theorem Block.modTrk_f (x : Fld) (i j : Nat) : (s.modTrk h t g).f k x i j = s.f k x i j := Block.modHalf_f s h k _ x i j

theorem Block.placed_iff : s.placed h t = true ↔ s.sync h t = syCrank ∨ s.sync h t = syFull := by simp [Block.placed]
end

variable {s b : Block} {h : HalfId} {t st te : Nat} {rest : List (Bool × Nat)}

theorem Block.sync_of_placed (hp : s.placed h t = true) : s.sync h t ≠ syLost ∧ s.sync h t ≠ syNone ∧ s.sync h t ≠ syTooth := by
  obtain hs | hs := (s.placed_iff h t).1 hp <;> rw [hs] <;> decide

/-! ## Glitch filter -/

section
variable {cam : Bool} (hw : takeEdge cam (s.trk h t).raw = some (st, rest))
include hw

theorem glitchFilterPass_of_held (hd : reached ((st + s.f h F.WTK_CTRL_GLITCH t) % 2 ^ 48) (s.half h).tsc = true) :
    glitchFilterPass h t cam true s = s.modTrk h t fun y =>
      { y with raw := rest, passed := y.passed ++ [(cam, st)], dirOpen := if cam then y.dirOpen else some st } := by
  simp [glitchFilterPass, hw, ↓hd]

theorem glitchFilterPass_of_glitch :
    glitchFilterPass h t cam false s = (s.modTrk h t fun y => { y with raw := rest }).setF h F.WTK_ERR_GLITCH 1 t := by
  simp [glitchFilterPass, hw]
end

/-! ## Direction pulses -/

/-- The direction of a pulse whose timing edge came at `st`: by its width, or as the pulse before it where the period is too short to tell
or the trailing edge is missing (rule R54). -/
def Block.pulseDir (s : Block) (h : HalfId) (t : Nat) (trailing : Bool) (st : Nat) : Bool :=
  if trailing = false ∨ ((s.trk h t).lastP ≠ 0 ∧ (s.trk h t).lastP < 3 * s.f h F.WTK_DIRW_DIR_WIDTH t) then (s.trk h t).dirLast
  else decide (s.f h F.WTK_DIRW_DIR_WIDTH t ≤ ticksTo st (s.half h).tsc)

/-- The entries stepped against the direction that a pulse shows, the pulse's own edge included where it was accepted (rule R74). -/
def Block.pulseSteps (s : Block) (h : HalfId) (t st : Nat) : Nat :=
  (s.trk h t).dirSteps + (if (s.trk h t).lastEdge = some st then (if (s.trk h t).lastSkip then 2 else 1) else 0)

/-- A pulse without a trailing edge is flagged. -/
def Block.pulseFlagged (s : Block) (h : HalfId) (t : Nat) (trailing : Bool) : Block :=
  if trailing then s else s.setF h F.WTK_ERR_DIRERR 1 t

/-- The pulse counts against the declared direction. -/
def Block.pulseCounted (s : Block) (h : HalfId) (t : Nat) (trailing : Bool) (st : Nat) : Block :=
  (s.pulseFlagged h t trailing).modTrk h t fun y =>
    { y with dirOpen := none, dirLast := s.pulseDir h t trailing st, dirRun := y.dirRun + 1, dirSteps := s.pulseSteps h t st }

section
variable {trailing : Bool} (ho : (s.trk h t).dirOpen = some st) (hm : s.f h F.WTK_CTRL_REV_MODE t = 1)
  (hf : s.f .a F.FE_CFG_MODE (s.f h F.WTK_CTRL_CRK_SEL t) = 3)
include ho hm hf

/-- An open pulse of a direction-coded input, by its direction and by the run of pulses before it. -/
theorem directionPulseDecode_of_open :
    directionPulseDecode h t trailing s =
      if s.pulseDir h t trailing st = s.trkRev h t then
        (s.pulseFlagged h t trailing).modTrk h t fun y =>
          { y with dirOpen := none, dirLast := s.pulseDir h t trailing st, dirRun := 0, dirSteps := 0 }
      else if (s.trk h t).dirRun + 1 < s.f h F.WTK_AUX_DIR_CONFIRM t then s.pulseCounted h t trailing st
      else (s.pulseCounted h t trailing st).declare h t (s.pulseDir h t trailing st)
        (if (s.pulseCounted h t trailing st).placed h t then some ((s.pulseCounted h t trailing st).shifted h t
          (if s.pulseDir h t trailing st then -(2 * s.pulseSteps h t st) else 2 * s.pulseSteps h t st)) else none) := by
  simp [directionPulseDecode, ho, hm, hf, Block.pulseCounted, Block.pulseFlagged, Block.pulseDir, Block.pulseSteps]

theorem directionPulseDecode_of_declared (hd : s.pulseDir h t trailing st = s.trkRev h t) :
    directionPulseDecode h t trailing s = (s.pulseFlagged h t trailing).modTrk h t fun y =>
      { y with dirOpen := none, dirLast := s.pulseDir h t trailing st, dirRun := 0, dirSteps := 0 } := by
  rw [directionPulseDecode_of_open ho hm hf, if_pos hd]

theorem directionPulseDecode_of_run (hd : s.pulseDir h t trailing st ≠ s.trkRev h t)
    (hr : (s.trk h t).dirRun + 1 < s.f h F.WTK_AUX_DIR_CONFIRM t) :
    directionPulseDecode h t trailing s = s.pulseCounted h t trailing st := by
  rw [directionPulseDecode_of_open ho hm hf, if_neg hd, if_pos hr]

theorem directionPulseDecode_of_confirmed (hd : s.pulseDir h t trailing st ≠ s.trkRev h t)
    (hr : s.f h F.WTK_AUX_DIR_CONFIRM t ≤ (s.trk h t).dirRun + 1) :
    directionPulseDecode h t trailing s = (s.pulseCounted h t trailing st).declare h t (s.pulseDir h t trailing st)
      (if (s.pulseCounted h t trailing st).placed h t then some ((s.pulseCounted h t trailing st).shifted h t
        (if s.pulseDir h t trailing st then -(2 * s.pulseSteps h t st) else 2 * s.pulseSteps h t st)) else none) := by
  rw [directionPulseDecode_of_open ho hm hf, if_neg hd, if_neg hr.not_gt]
end

/-! ## Crank edges

`b` is the block without the edge that is judged; what the tracker does with it follows the sync state. -/

/-- An edge from which the tracker measures its first period: none is known before it. -/
def Tracker.referenced (y : Tracker) (te : Nat) : Tracker :=
  { y with lastEdge := some te, ratios := [], prevT := ⟨0, 1⟩, periods := [] }

section
variable (hp : takeEdge false (s.trk h t).passed = some (te, rest))
  (hd : reached ((te + s.f h F.WTK_CTRL_GLITCH t + 6) % 2 ^ 48) (s.half h).tsc = true)
  (hb : b = s.modTrk h t fun y => { y with passed := rest })
include hp hd hb

theorem edgeAcceptance_of_disabled (he : s.on h F.WTK_CTRL_EN t = false) : edgeAcceptance h t s = b := by
  simp [edgeAcceptance, hp, ↓hd, he, hb]

section
variable (he : s.on h F.WTK_CTRL_EN t = true)
include he

theorem edgeAcceptance_of_lost (hs : b.sync h t = syLost) (ha : b.on h F.WTK_CTRL_AUTO_RESYNC t = false) :
    edgeAcceptance h t s = b := by
  simp [edgeAcceptance, hp, ↓hd, he, ← hb, hs, ha]

theorem edgeAcceptance_of_resync (hs : b.sync h t = syLost) (ha : b.on h F.WTK_CTRL_AUTO_RESYNC t = true) :
    edgeAcceptance h t s =
      ((((b.latchCfg h t).setSync h t syNone).modTrk h t (·.referenced te)).judged h t false).setQuality h t := by
  simp [edgeAcceptance, hp, ↓hd, he, ← hb, hs, ha, Tracker.referenced]

theorem edgeAcceptance_of_first (hs : b.sync h t = syNone) (hl : (b.trk h t).lastEdge = none) :
    edgeAcceptance h t s = (((b.latchCfg h t).modTrk h t (·.referenced te)).judged h t false).setQuality h t := by
  simp [edgeAcceptance, hp, ↓hd, he, ← hb, hs, hl, syNone, syLost, Tracker.referenced]

theorem edgeAcceptance_of_second {e0 : Nat} (hs : b.sync h t = syNone) (hl : (b.trk h t).lastEdge = some e0) :
    edgeAcceptance h t s = ((((((b.latchCfg h t).setSync h t syTooth).modTrk h t fun y =>
      { y with lastEdge := some te, lastP := ticksTo e0 te, prevT := ⟨0, 1⟩, periods := [(ticksTo e0 te, 0)] }
      ).setW h .WTK_LASTP (periodWord (ticksTo e0 te)) t).ringWrite h t (ticksTo e0 te) false false).judged h t false
      ).setQuality h t := by
  simp [edgeAcceptance, hp, ↓hd, he, ← hb, hs, hl, syNone, syLost]

theorem edgeAcceptance_of_tooth {e0 : Nat} (hs : b.sync h t = syTooth) (hl : (b.trk h t).lastEdge = some e0) :
    edgeAcceptance h t s = (b.latchCfg h t).acceptTooth h t te (ticksTo e0 te) := by
  simp [edgeAcceptance, hp, ↓hd, he, ← hb, hs, hl, syTooth, syNone, syLost]

section
variable (hs : b.placed h t = true)
include hs

theorem edgeAcceptance_of_blocked (hk : b.on h F.WTK_STAT_BLOCKED t = true) : edgeAcceptance h t s = b.reject h t false := by
  obtain ⟨hl, hn, ht⟩ := Block.sync_of_placed hs
  simp [edgeAcceptance, hp, ↓hd, he, ← hb, hl, hn, ht, hk]

theorem edgeAcceptance_of_window {e0 k : Nat} (hk : b.on h F.WTK_STAT_BLOCKED t = false) (hl : (b.trk h t).lastEdge = some e0)
    (hw : b.lauter h t (ticksTo e0 te) = some k) :
    edgeAcceptance h t s = (b.latchCfg h t).acceptPlaced h t te (ticksTo e0 te) k := by
  obtain ⟨hs, hn, ht⟩ := Block.sync_of_placed hs
  simp [edgeAcceptance, hp, ↓hd, he, ← hb, hs, hn, ht, hk, hl, hw]

theorem edgeAcceptance_of_no_window {e0 : Nat} (hk : b.on h F.WTK_STAT_BLOCKED t = false)
    (hl : (b.trk h t).lastEdge = some e0) (hw : b.lauter h t (ticksTo e0 te) = none) :
    edgeAcceptance h t s = b.reject h t (b.abnormal h t
      (if b.trkRev h t then b.tooth h t else entryAt (b.crkN h t) (b.tooth h t) 1)) := by
  obtain ⟨hs, hn, ht⟩ := Block.sync_of_placed hs
  simp [edgeAcceptance, hp, ↓hd, he, ← hb, hs, hn, ht, hk, hl, hw]
end
end
end

/-! ## Cam edges -/

/-- The cam angles of a tracker's table. -/
def Block.cams (s : Block) (h : HalfId) (t : Nat) : List Nat := (List.range (s.f h F.WTK_TABN_CAM_N t)).map (s.camAng h t)

/-- The cam angles that an edge at `te` may be, in CRANK sync: within CAM_TOL on one revolution (rule R68). -/
def Block.camCandidates (s : Block) (h : HalfId) (t te : Nat) : List Nat :=
  (s.cams h t).filter fun c => decide (circDist revAU (c % revAU) (s.placedAt h t te revAU) ≤ s.camTol h t)

/-- In FULL sync the edge lies within CAM_TOL of a cam angle of the cycle (rule R70). -/
def Block.camFits (s : Block) (h : HalfId) (t te : Nat) : Bool :=
  (s.cams h t).any fun c => decide (circDist (s.cycleL h) c (s.placedAt h t te (s.cycleL h)) ≤ s.camTol h t)

/-- How many edges in a row, with this one, have named the revolution. -/
def Tracker.namedRun (y : Tracker) (rv : Nat) : Nat :=
  match y.camNamed with
  | some (r, m) => if r = rv then m + 1 else 1
  | none => 1

/-- A judged cam edge enters the history of the score. -/
def Block.camJudged (s : Block) (h : HalfId) (t : Nat) (bad : Bool) : Block :=
  s.modTrk h t fun y => { y with camHist := (bad :: y.camHist).take 8 }

section
variable (hp : takeEdge true (s.trk h t).passed = some (te, rest)) (hb : b = s.modTrk h t fun y => { y with passed := rest })
include hp hb

theorem camEdge_of_ignored (hi : b.placed h t = false ∨ b.trkRev h t = true) : camEdge h t s = b := by
  obtain hn | hr := hi
  · obtain ⟨hc, hf⟩ := not_or.1 (mt (b.placed_iff h t).2 (Bool.eq_false_iff.1 hn))
    simp [camEdge, hp, ← hb, hc, hf]
  · simp [camEdge, hp, ← hb, hr]

section
variable (hs : b.sync h t = syCrank) (hr : b.trkRev h t = false)
include hs hr

theorem camEdge_of_no_candidate (hc : b.camCandidates h t te = []) :
    camEdge h t s = (((b.modTrk h t fun y => { y with camNamed := none }).camJudged h t true).setF h F.WTK_ERR_CAMERR 1 t
      ).setQuality h t := by
  rw [Block.camCandidates, Block.cams] at hc
  simp [camEdge, hp, ← hb, hs, hr, hc, Block.camJudged]

theorem camEdge_of_ambiguous (hc : 2 ≤ (b.camCandidates h t te).length) : camEdge h t s = b := by
  match hl : b.camCandidates h t te with
  | [] | [_] => simp [hl] at hc
  | c :: d :: cs =>
    rw [Block.camCandidates, Block.cams] at hl
    simp [camEdge, hp, ← hb, hs, hr, hl]

theorem camEdge_of_candidate {a : Nat} (hc : b.camCandidates h t te = [a]) {rv k : Nat} (hv : rv = if a < revAU then 0 else 1)
    (hk : k = (b.trk h t).namedRun rv) {c : Block}
    (he : c = (b.camJudged h t false).modTrk h t fun y => { y with camNamed := some (rv, k) }) :
    camEdge h t s = if b.f h F.WTK_AUX_CAM_CONFIRM t ≤ k then c.resolve h t rv else c.setQuality h t := by
  have hn : c.f h F.WTK_AUX_CAM_CONFIRM t = b.f h F.WTK_AUX_CAM_CONFIRM t := by simp [he, Block.camJudged]
  rw [Block.camCandidates, Block.cams] at hc
  rw [← hn, he, hk, hv]
  rcases hm : (b.trk h t).camNamed with _ | ⟨r, m⟩ <;>
    simp [camEdge, hp, ← hb, hs, hr, hc, hm, Block.camJudged, Tracker.namedRun]
end

section
variable (hs : b.sync h t = syFull) (hr : b.trkRev h t = false)
include hs hr

/-- In FULL sync a cam edge confirms the sync, or is a cam error that counts. -/
theorem camEdge_of_full :
    camEdge h t s =
      if b.camFits h t te then
        (((b.modTrk h t fun y => { y with sinceCam := 0 }).camJudged h t false).setF h F.WTK_STAT_CAM_SEEN 1 t).setQuality h t
      else
        ((((b.camJudged h t true).setF h F.WTK_ERR_CAMERR 1 t).count h F.WTK_CNT_CAMERRS t).setF h F.WTK_STAT_FULL_CYCLES 0 t
          ).setQuality h t := by
  simp [camEdge, hp, ← hb, hs, hr, syCrank, syFull, Block.camFits, Block.cams, Block.camJudged]
end
end

end Sys2Proof.Machine

open Sys2Proof Sys2Proof.Machine

/-- Settles O9, row by row: the filter, the pulse by its direction and run, the crank edge and the cam edge by sync state. -/
theorem edgeRowsComplete : Obligations.EdgeRowsComplete :=
  ⟨fun s _ _ _ _ _ hw hd => s.next_with_blk_congr (glitchFilterPass_of_held hw hd),
   fun s _ _ _ _ _ hw => s.next_with_blk_congr (glitchFilterPass_of_glitch hw),
   fun s _ _ _ _ _ _ _ ho hm hf hw hd hb hr => by
     subst hw hb hd
     exact s.next_with_blk_congr (directionPulseDecode_of_declared ho hm hf hr),
   fun s _ _ _ _ _ _ _ _ ho hm hf hw hd hb hr hk hc => by
     subst hw hb hd hk
     exact s.next_with_blk_congr (directionPulseDecode_of_run ho hm hf hr hc),
   fun s _ _ _ _ _ _ _ _ _ ho hm hf hw hd hb hr hk hc he => by
     subst hw hb hd hk he
     exact s.next_with_blk_congr (directionPulseDecode_of_confirmed ho hm hf hr hc),
   fun s _ _ _ _ _ hp hd hb he => s.next_with_blk_congr (edgeAcceptance_of_disabled hp hd hb he),
   fun s _ _ _ _ _ hp hd hb he hs ha => s.next_with_blk_congr (edgeAcceptance_of_lost hp hd hb he hs ha),
   fun s _ _ _ _ _ hp hd hb he hs ha => s.next_with_blk_congr (edgeAcceptance_of_resync hp hd hb he hs ha),
   fun s _ _ _ _ _ hp hd hb he hs hl => s.next_with_blk_congr (edgeAcceptance_of_first hp hd hb he hs hl),
   fun s _ _ _ _ _ _ _ hp hd hb he hs hl hk => by
     subst hk
     exact s.next_with_blk_congr (edgeAcceptance_of_second hp hd hb he hs hl),
   fun s _ _ _ _ _ _ hp hd hb he hs hl => s.next_with_blk_congr (edgeAcceptance_of_tooth hp hd hb he hs hl),
   fun s _ _ _ _ _ hp hd hb he hs hk => s.next_with_blk_congr (edgeAcceptance_of_blocked hp hd hb he hs hk),
   fun s _ _ _ _ _ _ _ hp hd hb he hs hk hl hw => s.next_with_blk_congr (edgeAcceptance_of_window hp hd hb he hs hk hl hw),
   fun s _ _ _ _ _ _ hp hd hb he hs hk hl hw => s.next_with_blk_congr (edgeAcceptance_of_no_window hp hd hb he hs hk hl hw),
   fun s _ _ _ _ _ hp hb hi => s.next_with_blk_congr (camEdge_of_ignored hp hb hi),
   fun s _ _ _ _ _ _ hp hb hs hr hc hn => s.next_with_blk_congr (camEdge_of_no_candidate hp hb hs hr (hc.symm.trans hn.symm)),
   fun s _ _ _ _ _ _ hp hb hs hr hc hn => s.next_with_blk_congr (camEdge_of_ambiguous hp hb hs hr (hn.trans_eq (congrArg _ hc))),
   fun s _ _ _ _ _ _ _ _ _ _ hp hb hs hr hc ha hv hk he =>
     s.next_with_blk_congr (camEdge_of_candidate hp hb hs hr (hc.symm.trans ha.symm) hv hk he),
   fun s _ _ _ _ _ hp hb hs hr hc => s.next_with_blk_congr ((camEdge_of_full hp hb hs hr).trans (if_pos hc)),
   fun s _ _ _ _ _ hp hb hs hr hc =>
     s.next_with_blk_congr ((camEdge_of_full hp hb hs hr).trans (if_neg (Bool.eq_false_iff.1 hc)))⟩
end

section
/-!
The trackers: stall and failover, enabling and disabling, and the angle messages of the peer (rules R56, R59, R67, R78, R79, R83 to R85).
-/

namespace Sys2Proof.Machine

/-- A row that accesses a powered register has its effect. -/
theorem State.access_powered {s : State} {r : Reg} {h : HalfId} (hp : s.blk.powered r h = true) {b c : Block} (hb : b = c) :
    s.access r h b = .next { s with blk := c } := by
  rw [State.access, if_pos hp, hb]

variable {s b c : Block} {h : HalfId} {t : Nat}

/-! ## Stall

`b` is the block with the tracker in LOST; what follows for the angle clock depends on what the tracker was to it. -/

section
variable (hs : s.sync h t = syTooth ∨ s.placed h t = true) (hd : s.stalls h t = true)
  (hb : b = (s.unplace h t syLost).setF h F.WTK_ERR_LOSTSEEN 1 t)
include hs hd hb

theorem stallTimeout_of_due :
    stallTimeout h t s =
      if s.src h ≠ t ∨ s.placed h t = false then b
      else if s.drives h t = false then b.angleSend h 1
      else if b.failoverTo h t then
        (b.takeSource h (1 - t)).report h cOK 0 0 t ((b.takeSource h (1 - t)).w h .WTK_ERR t).toNat
      else (b.clockInvalid h cSTALL).angleSend h 1 := by
  rw [s.placed_iff] at hs
  obtain hs | hs | hs := hs <;> simp [stallTimeout, hd, ← hb, hs]

theorem stallTimeout_of_other (hn : s.src h ≠ t ∨ s.placed h t = false) : stallTimeout h t s = b := by
  rw [stallTimeout_of_due hs hd hb, if_pos hn]

section
variable (hc : s.src h = t) (hp : s.placed h t = true)
include hc hp

theorem stallTimeout_of_source :
    stallTimeout h t s =
      if s.drives h t = false then b.angleSend h 1
      else if b.failoverTo h t then
        (b.takeSource h (1 - t)).report h cOK 0 0 t ((b.takeSource h (1 - t)).w h .WTK_ERR t).toNat
      else (b.clockInvalid h cSTALL).angleSend h 1 := by
  rw [stallTimeout_of_due hs hd hb, if_neg (by simp [hc, hp])]

theorem stallTimeout_of_fabric (hv : s.drives h t = false) : stallTimeout h t s = b.angleSend h 1 := by
  rw [stallTimeout_of_source hs hd hb hc hp, if_pos hv]

theorem stallTimeout_of_alone (hv : s.drives h t = true) (hf : b.failoverTo h t = false) :
    stallTimeout h t s = (b.clockInvalid h cSTALL).angleSend h 1 := by
  simp [stallTimeout_of_source hs hd hb hc hp, hv, hf]

theorem stallTimeout_of_failover (hv : s.drives h t = true) (hf : b.failoverTo h t = true) :
    stallTimeout h t s =
      (b.takeSource h (1 - t)).report h cOK 0 0 t ((b.takeSource h (1 - t)).w h .WTK_ERR t).toNat := by
  simp [stallTimeout_of_source hs hd hb hc hp, hv, hf]
end
end

/-! ## Enabling and disabling -/

theorem Block.trkEnable_of_invalid (he : s.on h F.WTK_CTRL_EN t = false) (hv : s.tablesValid h t = false) :
    s.trkEnable h t = s.setF h F.WTK_ERR_CFG 1 t := by
  simp [Block.trkEnable, he, hv]

/-- The angle source is PRIMARY's tracker where the other tracker is not enabled. -/
def Block.sourced (s : Block) (h : HalfId) (t : Nat) : Block :=
  if s.on h F.WTK_CTRL_EN (1 - t) then s
  else (s.setF h F.WTK_ASEL_CURSRC (s.f h F.WTK_ASEL_PRIMARY)).modHalf h fun x => { x with srcAsked := false }

/-- The half's WTK_ASEL stands apart from each tracker's WTK_CTRL. -/
theorem Block.sourced_revMode (s : Block) (h : HalfId) (t : Fin 2) (u : Nat) :
    (s.sourced h u).f h F.WTK_CTRL_REV_MODE t = s.f h F.WTK_CTRL_REV_MODE t := by
  unfold Block.sourced
  split
  · rfl
  · rw [Block.modHalf_f, Block.setF_f_ne _ _ _ _ _ _ _ _ _ _ (by cases h <;> revert t <;> decide)]

theorem Block.trkEnable_of_valid {t : Fin 2} (he : s.on h F.WTK_CTRL_EN t = false) (hv : s.tablesValid h t = true)
    (hb : b = s.sourced h t) (hc : c = if s.f h F.WTK_CTRL_REV_MODE t = 1 then b else b.setF h F.WTK_STAT_REV 0 t) :
    s.trkEnable h t = ((c.setF h F.WTK_CTRL_EN 1 t).setTrk h t Tracker.idle).setQuality h t := by
  rw [hc, ← s.sourced_revMode h t t, hb, Block.trkEnable, if_neg (Bool.eq_false_iff.1 he), if_pos hv]
  rfl

/-- A tracker without enable, position or waiting edges. -/
def Block.trkStopped (s : Block) (h : HalfId) (t : Nat) : Block :=
  ((s.setF h F.WTK_CTRL_EN 0 t).unplace h t syNone).modTrk h t fun y => { y with raw := [], passed := [], dirOpen := none }

theorem Block.trkDisable_of_idle (he : s.on h F.WTK_CTRL_EN t = false) : s.trkDisable h t = s := by
  simp [Block.trkDisable, he]

theorem Block.trkDisable_of_other (he : s.on h F.WTK_CTRL_EN t = true) (hn : s.src h ≠ t ∨ s.placed h t = false) :
    s.trkDisable h t = s.trkStopped h t := by
  simp [Block.trkDisable, he, hn, Block.trkStopped]

theorem Block.trkDisable_of_source (he : s.on h F.WTK_CTRL_EN t = true) (hc : s.src h = t) (hp : s.placed h t = true) :
    s.trkDisable h t =
      (if s.drives h t then (s.trkStopped h t).clockInvalid h cSYNC_LOST else s.trkStopped h t).angleSend h 2 := by
  simp [Block.trkDisable, he, hc, hp, Block.trkStopped]

/-! ## Angle messages of the peer

`b` is the block without the message; `t` is its angle source. -/

/-- The circle on which the two angles are compared: the cycle where both halves know it (rule R84). -/
def Block.peerCircle (s : Block) (h : HalfId) (t : Nat) (f : Bool) : Nat :=
  if f = true ∧ s.sync h t = syFull then s.cycleL h else revAU

/-- The half's own angle at the instant of the message, by its own counter. -/
def Block.angleThen (s : Block) (h : HalfId) (t st : Nat) (f : Bool) : Nat :=
  s.placedAt h t (((st : Int) + (s.half h).xdiff) % 2 ^ 48).toNat (s.peerCircle h t f)

/-- The way from `own` to `a` on a circle of length `m`, the short way round. -/
def shortWay (m own a : Nat) : Int :=
  if 2 * fwd m own (a % m) < m then (fwd m own (a % m) : Int) else (fwd m own (a % m) : Int) - m

/-- How far the peer's angle is ahead. -/
def Block.peerAhead (s : Block) (h : HalfId) (t st a : Nat) (f : Bool) : Int :=
  shortWay (s.peerCircle h t f) (s.angleThen h t st f) a

/-- A comparison enters WTK_XCHK, in steps of 64 AU toward zero. -/
def Block.notePeer (s : Block) (h : HalfId) (t : Nat) (d : Int) : Block :=
  (s.setF h F.WTK_XCHK_PEER_VALID 1 t).setF h F.WTK_XCHK_DIFF (field 15 (clampInt 16383 (if d < 0 then -((-d) / 64) else d / 64))) t

/-- A difference beyond XCHK_TOL is flagged and kept for the score. -/
def Block.notePeerFar (s : Block) (h : HalfId) (t : Nat) : Block :=
  (s.setF h F.WTK_ERR_XCHK 1 t).modTrk h t fun y => { y with xMismatch := true }

section
variable {st a : Nat} {f : Bool} {rest : List BMsg} (hm : takeAngle (s.lane h.peer).rx = some (st, a, f, rest))
  (hb : b = s.setLane h.peer { s.lane h.peer with rx := rest }) (ht : t = b.src h)
include hm hb ht

theorem angleMessageReceive_of_incomparable
    (hn : b.placed h t = false ∨ b.placed h.peer (b.src h.peer) = false ∨ b.bridgeUp h = false ∨ b.on h F.TSC_XSTAT_VALID = false) :
    angleMessageReceive h s = b.setF h F.WTK_XCHK_PEER_VALID 0 t := by
  subst ht
  simp [angleMessageReceive, hm, ← hb, hn, or_assoc]

section
variable (hp : b.placed h t = true) (hq : b.placed h.peer (b.src h.peer) = true) (hu : b.bridgeUp h = true)
  (hx : b.on h F.TSC_XSTAT_VALID = true)
include hp hq hu hx

theorem angleMessageReceive_of_comparable {d : Int} (hd : d = b.peerAhead h t st a f) :
    angleMessageReceive h s =
      if (b.trk h t).xTol * 64 < d.natAbs then
        (((b.notePeer h t d).notePeerFar h t).setQuality h t).report h cOK 0 0 t
          (((b.notePeer h t d).notePeerFar h t).w h .WTK_ERR t).toNat
      else b.notePeer h t d := by
  subst ht hd
  simp [angleMessageReceive, hm, ← hb, hp, hq, hu, hx, Block.notePeer, Block.notePeerFar, Block.peerAhead, Block.angleThen,
    Block.peerCircle, shortWay]
end
end

end Sys2Proof.Machine

open Sys2Proof Sys2Proof.Machine

/-- Settles O10, row by row: the stall by what the tracker is to the clock, enabling and disabling, the peer by its difference. -/
theorem trackerRowsComplete : Obligations.TrackerRowsComplete :=
  ⟨fun s _ _ _ hs hd hb hn => s.next_with_blk_congr (stallTimeout_of_other hs hd hb hn),
   fun s _ _ _ hs hd hb hc hv hp => s.next_with_blk_congr (stallTimeout_of_fabric hs hd hb hc hp hv),
   fun s _ _ _ hs hd hb hc hv hp hf => s.next_with_blk_congr (stallTimeout_of_alone hs hd hb hc hp hv hf),
   fun s _ _ _ _ hs hd hb hc hv hp hf he => by
     subst he
     exact s.next_with_blk_congr (stallTimeout_of_failover hs hd hb hc hp hv hf),
   fun _ _ _ hp he => State.access_powered hp (if_pos he),
   fun _ _ _ hp he hv => State.access_powered hp
     ((if_neg (Bool.eq_false_iff.1 he)).trans (by rw [Block.trkEnable_of_invalid he hv])),
   fun _ _ _ _ _ hp he hv hb hc => State.access_powered hp
     ((if_neg (Bool.eq_false_iff.1 he)).trans (by rw [Block.trkEnable_of_valid he hv hb hc])),
   fun _ _ _ hp he hn => State.access_powered hp (by rw [Block.trkDisable_of_other he hn, Block.trkStopped]),
   fun _ _ _ _ hp he hc hl hb => by
     subst hb
     exact State.access_powered hp (by rw [Block.trkDisable_of_source he hc hl, Block.trkStopped]),
   fun _ _ _ hp he => State.access_powered hp (by rw [Block.trkDisable_of_idle he]),
   fun _ _ _ hp => State.access_powered hp rfl,
   fun _ _ _ hp => State.access_powered hp rfl,
   fun s _ _ _ _ _ _ _ hm hb ht hn => s.next_with_blk_congr (angleMessageReceive_of_incomparable hm hb ht hn),
   fun s _ _ _ _ _ _ _ _ _ _ _ hm hb ht hp hq hu hx hw ho hd hc hn => by
     subst hw ho hc
     exact s.next_with_blk_congr ((angleMessageReceive_of_comparable hm hb ht hp hq hu hx hd).trans (if_neg hn.not_gt)),
   fun s _ _ _ _ _ _ _ _ _ _ _ _ hm hb ht hp hq hu hx hw ho hd hc hn he => by
     subst hw ho hc he
     exact s.next_with_blk_congr ((angleMessageReceive_of_comparable hm hb ht hp hq hu hx hd).trans (if_pos hn))⟩
end

section
/-!
The angle clock: halt, hold, catch-up, enabling and disabling, reads, and the messages a follower waits for (rules R92, R93, R95, R99, R110,
R111, R113).
-/

namespace Sys2Proof.Machine

variable {s : Block} {h : HalfId}

/-! ## Events of the clock -/

theorem haltReached_of_due (hv : s.clockValid h = true) (hm : (s.half h).clk.mode ≠ .halted)
    (ha : (s.half h).clk.a = (s.half h).clk.halt) (hr : fracLe (s.half h).clk.haltRun ((s.half h).clk.run (s.half h).tsc) = true) :
    haltReached h s = (s.modClk h fun c => { c with mode := .halted, haltLen := 1 }).clkFlags h .halted := by
  simp [haltReached, hv, hm, ha, hr]

theorem holdEnd_of_over {m : Nat} (hv : s.clockValid h = true) (hm : (s.half h).clk.mode = .hold) (he : m = s.modM h)
    (ho : (s.half h).clk.holdOver m (s.clockRev h) ((s.half h).clk.qHeld m (s.clockRev h) (s.half h).tsc) = true) :
    holdEnd h s = (s.modClk h fun c => { c with mode := .follow }).clkFlags h .follow := by
  subst he
  simp [holdEnd, hv, hm, ho]

theorem catchupEnd_of_met (hv : s.clockValid h = true) (hm : (s.half h).clk.mode = .catchup)
    (ha : (s.half h).clk.a = (s.half h).clk.qHeld (s.modM h) (s.clockRev h) (s.half h).tsc) :
    catchupEnd h s = (s.modClk h fun c => { c with mode := .follow }).clkFlags h .follow := by
  simp [catchupEnd, hv, hm, ← ha]

/-! ## Commands of the clock -/

theorem Block.clockEnable_eq :
    s.clockEnable h = (s.setF h F.ANG_CTRL_EN 1).modFab h fun x => { x with usedAt := (s.half h).tsc } := by
  simp [Block.clockEnable, Block.modFab, Block.modHalf]

section
variable (s h)

@[simp] theorem Block.readAngNow_half (k : HalfId) : (s.readAngNow h).half k = s.half k := by cases k <;> rfl

@[simp] theorem Block.readAngNow_busErr : (s.readAngNow h).busErr = false := rfl

@[simp] theorem Block.readAngNow_busData : (s.readAngNow h).busData = wd (s.ang h) := rfl

/-- The low word of the timestamp counter is latched beside the angle. -/
theorem Block.readAngNow_tsl : (s.readAngNow h).w h .ANG_TSL = wd (s.tsLow h) := Block.setW_w_same _ h .ANG_TSL _ 0 0

/-- So is the fraction of the angle. -/
theorem Block.readAngNow_frac : (s.readAngNow h).f h F.ANG_FRAC_FRAC = (s.half h).clk.a % 65536 := by
  have hw : (s.readAngNow h).w h .ANG_FRAC = (s.setF h F.ANG_FRAC_FRAC ((s.half h).clk.a % 65536)).w h .ANG_FRAC :=
    Block.setW_w_ne _ h h .ANG_TSL .ANG_FRAC _ 0 0 0 0 (by cases h <;> decide)
  calc (s.readAngNow h).f h F.ANG_FRAC_FRAC
      = (s.setF h F.ANG_FRAC_FRAC ((s.half h).clk.a % 65536)).f h F.ANG_FRAC_FRAC := congrArg (fun w => bits (BitVec.toNat w) _ _) hw
    _ = (s.half h).clk.a % 65536 := (Block.setF_f_same s h F.ANG_FRAC_FRAC _ 0 0 (by decide)).trans (Nat.mod_mod _ _)
end

/-! ## A follower's messages -/

theorem messageUse_of_cons {pay : List Word} {src q : Nat} {rest : List (List Word × Nat × Nat)} {b : Block}
    (hq : (s.fab h).queue = (pay, src, q) :: rest)
    (hb : b = s.modFab h fun x => { x with queue := rest, usedAt := (s.half h).tsc }) :
    messageUse h s = if s.on h F.ANG_CTRL_EN && s.on h F.ANG_CTRL_SRC then b.follow1 h pay else b := by
  simp [messageUse, hq, ← hb]

theorem followerStall_of_overdue (he : s.on h F.ANG_CTRL_EN = true) (hf : s.on h F.ANG_CTRL_SRC = true)
    (hd : (if s.f h F.ANG_FSTALL_FSTALL < 1000 then 1000 else s.f h F.ANG_FSTALL_FSTALL) * 200 ≤
      ticksTo (s.fab h).usedAt (s.half h).tsc) :
    followerStall h s = ((s.clockInvalid h cSTALL).setF h F.ANG_ERR_FLOSS 1).setF h F.EUL_ASTAT_AVALID 0 := by
  unfold followerStall
  dsimp only
  rw [if_pos (by rw [he, hf, decide_eq_true hd]; rfl)]

end Sys2Proof.Machine

open Sys2Proof Sys2Proof.Machine

/-- Settles O11, row by row: the clock's events, its commands by ANG_CTRL.EN, the read with its latches, and the follower. -/
theorem angleClockRowsComplete : Obligations.AngleClockRowsComplete :=
  ⟨fun s _ hv hm ha hr => s.next_with_blk_congr (haltReached_of_due hv hm ha hr),
   fun s _ _ hv hm he ho => s.next_with_blk_congr (holdEnd_of_over hv hm he ho),
   fun s _ hv hm ha => s.next_with_blk_congr (catchupEnd_of_met hv hm ha),
   fun _ _ hp he => State.access_powered hp ((if_neg (Bool.eq_false_iff.1 he)).trans (by rw [Block.clockEnable_eq])),
   fun _ _ hp he => State.access_powered hp (if_pos he),
   fun _ _ hp => State.access_powered hp rfl,
   fun _ _ hp => State.access_powered hp rfl,
   fun s h hp => ⟨_, State.access_powered hp rfl, s.blk.readAngNow_busData h, s.blk.readAngNow_tsl h, s.blk.readAngNow_frac h,
     s.blk.readAngNow_half h h, rfl, s.blk.readAngNow_busErr h⟩,
   fun s _ _ _ _ _ _ hq hb => s.next_with_blk_congr (messageUse_of_cons hq hb),
   fun s _ he hf hd => s.next_with_blk_congr (followerStall_of_overdue he hf hd)⟩
end

section
/-!
The trim latch of a cylinder: a result that waits for its pair is marked with the pass only where the schedule in use is among those whose
latch was passed (rules R157, R158, R257).
-/

namespace Sys2Proof.Machine

variable {s : Block} {h : HalfId} {c : Nat}

@[simp] theorem Block.relatch_atu (s : Block) (h : HalfId) : ((s.relatch h).half h).atu = (s.half h).atu := by
  simp [Block.relatch]

/-- The images of the active set whose latch of the cylinder the last movement passed. -/
def Block.latchHits (s : Block) (h : HalfId) (c : Nat) : List Image :=
  (s.half h).sched.store.filter fun i => i.setId == (s.half h).sched.active &&
    (imgCyls i.words).any fun e => e.cyl == c && s.passed h e.latch false

/-- The latch of a schedule that is not in use leaves every waiting result as it is. -/
theorem trimLatch_atu_of_other_mode (hm : (s.latchHits h c).any (fun i => i.mode == s.mode h) = false) :
    ((trimLatch h c s).half h).atu = (s.half h).atu := by
  rw [Block.latchHits] at hm
  unfold trimLatch
  simp only [hm]
  split
  · rfl
  · simp

/-- Mode 0 of the active set is in use, with the latch of cylinder 0 at 100; mode 1 has it at 10. The clock has moved from 5 to 15, and a
result of the cylinder waits for its pair. -/
def upOtherLatch : State := upW fun b =>
  ((b.setF .a F.ANG_STAT_VALID 1).setF .a F.ANG_STAT_FULLRANGE 1).modHalf .a fun x =>
    { x with
      clk := { x.clk with a := 15 * 65536, moved := some ⟨5, 10, 11796480, false, false, false⟩ }
      sched := { x.sched with active := 7, store := [tImg, ⟨7, 1, (tImg.words.set 1 0x000100).set 34 10⟩] }
      atu := { x.atu with fbDue := [⟨0, 0, 0, 0, 0, 0, none⟩] } }

theorem upOtherLatch_fullSync : upOtherLatch.blk.fullSync .a = true := by decide

theorem upOtherLatch_latchHits : upOtherLatch.blk.latchHits .a 0 = [⟨7, 1, (tImg.words.set 1 0x000100).set 34 10⟩] := by decide

theorem upOtherLatch_mode : upOtherLatch.blk.mode .a = 0 := by decide

theorem upOtherLatch_fbDue : (upOtherLatch.blk.half .a).atu.fbDue = [⟨0, 0, 0, 0, 0, 0, none⟩] := by decide

theorem upOtherLatch_hits_other_mode :
    (upOtherLatch.blk.latchHits .a 0).any (fun i => i.mode == upOtherLatch.blk.mode .a) = false := by
  rw [upOtherLatch_latchHits, upOtherLatch_mode]
  rfl

/-- The trim latch of mode 1 leaves the waiting result without a mark. -/
theorem upOtherLatch_trimLatch_fbDue :
    ((trimLatch .a 0 upOtherLatch.blk).half .a).atu.fbDue = [⟨0, 0, 0, 0, 0, 0, none⟩] := by
  rw [trimLatch_atu_of_other_mode upOtherLatch_hits_other_mode, upOtherLatch_fbDue]

end Sys2Proof.Machine

open Sys2Proof Sys2Proof.Machine

/-- Refutes O14: its trim latch row marks a waiting result at every pass, and the model only at a pass of the schedule in use, which
`upOtherLatch` does not pass. -/
theorem not_cycleRowsComplete : ¬ Obligations.CycleRowsComplete := by
  unfold Obligations.CycleRowsComplete
  rintro ⟨-, -, -, -, -, -, -, -, -, -, -, hlatch, -⟩
  have hpairs : ¬ ((upOtherLatch.blk.latchHits .a 0).any (fun i => i.mode == upOtherLatch.blk.mode .a) &&
      nth 0 (upOtherLatch.blk.half .a).hip.roles 2 != 2) = true := by
    simp [upOtherLatch_hits_other_mode]
  obtain ⟨u, hu, -, hdue⟩ := hlatch upOtherLatch .a 0 (upOtherLatch.blk.latchHits .a 0) upOtherLatch.blk _ upOtherLatch_fullSync rfl rfl
    (ne_of_eq_of_ne upOtherLatch_latchHits (List.cons_ne_nil _ _)) (if_neg hpairs).symm
  cases hu
  rw [upOtherLatch_fbDue] at hdue
  exact absurd (upOtherLatch_trimLatch_fbDue.symm.trans hdue) (by simp)
end

section
/-!
Cancellation: what the cancelling of entries does to a half's cask and notice queue, and what a further cause does to the records of this
ANGCLK's cancellations (rules R119, R136 to R140).
-/

namespace Sys2Proof.Machine

/-! ## The order of an ANGCLK's records

It rests on the half's count, its angle and its modulus alone. -/

/-- Two blocks place the records of half `h` alike. -/
structure Block.SameClock (s t : Block) (h : HalfId) : Prop where
  tsc : (t.half h).tsc = (s.half h).tsc
  clk : (t.half h).clk = (s.half h).clk
  modM : t.modM h = s.modM h

variable {s t u : Block} {h : HalfId} {code : Nat} {p : Entry → Bool} {es : List Entry} {e : Entry} {r : NRec} {l : List NRec}

theorem Block.SameClock.refl : s.SameClock s h := ⟨rfl, rfl, rfl⟩

theorem Block.SameClock.trans (a : s.SameClock t h) (b : t.SameClock u h) : s.SameClock u h :=
  ⟨b.tsc.trans a.tsc, b.clk.trans a.clk, b.modM.trans a.modM⟩

theorem Block.SameClock.keyOf (a : s.SameClock t h) : t.keyOf h = s.keyOf h := by
  funext g
  simp only [Block.keyOf, Block.cmpAngle, Block.ang, a.clk, a.modM]

theorem Block.SameClock.enterRec (a : s.SameClock t h) : t.enterRec h = s.enterRec h := by
  funext r l
  simp only [Block.enterRec, Block.sortRecs, a.keyOf, a.tsc]

theorem Block.SameClock.outcome (a : s.SameClock t h) : t.outcome h = s.outcome h := by
  funext e code armErr late
  simp only [Block.outcome, Block.tsLow, a.tsc]

/-- The modulus is read from ANG_STAT and ANG_CTRL. -/
theorem Block.modM_congr (hs : t.w h .ANG_STAT = s.w h .ANG_STAT) (hc : t.w h .ANG_CTRL = s.w h .ANG_CTRL) : t.modM h = s.modM h := by
  have full : t.on h F.ANG_STAT_FULLRANGE = s.on h F.ANG_STAT_FULLRANGE := congrArg (fun w => bits (BitVec.toNat w) _ _ == 1) hs
  have cycle : t.on h F.ANG_CTRL_CYCLE = s.on h F.ANG_CTRL_CYCLE := congrArg (fun w => bits (BitVec.toNat w) _ _ == 1) hc
  unfold Block.modM Block.cycleL
  rw [full, cycle]

theorem Block.sameClock_modHalf {f : Half → Half} (ht : (f (s.half h)).tsc = (s.half h).tsc) (hc : (f (s.half h)).clk = (s.half h).clk) :
    s.SameClock (s.modHalf h f) h :=
  ⟨by rw [Block.modHalf_half, ht], by rw [Block.modHalf_half, hc],
    Block.modM_congr (Block.modHalf_w s h h f ..) (Block.modHalf_w s h h f ..)⟩

/-- A channel's counters stand 5 words above a multiple of 0x80, ANG_STAT 0x16 and ANG_CTRL none. -/
theorem Reg.ang_addr_ne_evcCnt (h : HalfId) (k : Nat) :
    Reg.ANG_STAT.addr h 0 0 ≠ Reg.EVC_CNT.addr h k 0 ∧ Reg.ANG_CTRL.addr h 0 0 ≠ Reg.EVC_CNT.addr h k 0 := by
  have stat : Reg.ANG_STAT.addr h 0 0 = 0x210016 + (if h == .b then 0x400000 else 0) := rfl
  have ctrl : Reg.ANG_CTRL.addr h 0 0 = 0x210000 + (if h == .b then 0x400000 else 0) := rfl
  have cnt : Reg.EVC_CNT.addr h k 0 = 0x220005 + (if h == .b then 0x400000 else 0) + k * 0x80 := rfl
  omega

theorem Block.sameClock_count_cancels (k : Nat) : s.SameClock (s.count h F.EVC_CNT_CANCELS k) h := by
  obtain ⟨stat, ctrl⟩ := Reg.ang_addr_ne_evcCnt h k
  exact ⟨by rw [Block.count_half], by rw [Block.count_half],
    Block.modM_congr (Block.count_w_ne s h h _ _ _ _ _ _ stat) (Block.count_w_ne s h h _ _ _ _ _ _ ctrl)⟩

/-! ## Records entered into the queue -/

theorem Block.sortRecs_filter_earlier :
    (s.sortRecs h l).filter (fun r => r.stamp != (s.half h).tsc) = l.filter (fun r => r.stamp != (s.half h).tsc) := by
  have now : (sortBy NRec.chan (sortBy (fun r => s.keyOf h r.g) (sortBy NRec.ord (l.filter fun r => r.stamp == (s.half h).tsc)))).filter
      (fun r => r.stamp != (s.half h).tsc) = [] := by
    have perm := ((sortBy_perm NRec.chan _).trans (sortBy_perm (fun r => s.keyOf h r.g) _)).trans
      (sortBy_perm NRec.ord (l.filter fun r => r.stamp == (s.half h).tsc))
    rw [List.filter_eq_nil_iff]
    intro r hr
    simpa using (List.mem_filter.1 (perm.mem_iff.1 hr)).2
  unfold Block.sortRecs
  rw [List.filter_append, now, List.append_nil, List.filter_filter]
  simp [bne]

theorem Block.enterRec_filter_earlier (hr : r.stamp = (s.half h).tsc) :
    (s.enterRec h r l).filter (fun r => r.stamp != (s.half h).tsc) = l.filter (fun r => r.stamp != (s.half h).tsc) := by
  rw [Block.enterRec, Block.sortRecs_filter_earlier, List.filter_append]
  simp [hr]

theorem Block.foldl_enterRec_filter_earlier :
    (es.foldl (fun l e => s.enterRec h (s.outcome h e code 0 0) l) l).filter (fun r => r.stamp != (s.half h).tsc) =
      l.filter (fun r => r.stamp != (s.half h).tsc) := by
  induction es generalizing l with
  | nil => rfl
  | cons e es ih => rw [List.foldl_cons, ih, Block.enterRec_filter_earlier rfl]

theorem Block.foldl_enterRec_perm (f : Entry → NRec) : (es.foldl (fun l e => s.enterRec h (f e) l) l).Perm (l ++ es.map f) := by
  induction es generalizing l with
  | nil => simp
  | cons e es ih => simpa using ih.trans ((s.enterRec_perm h (f e) l).append_right (es.map f))

theorem Block.inOrder_perm : (s.inOrder h es).Perm es := (sortBy_perm _ _).trans (sortBy_perm _ _)

/-! ## One entry cancelled, and several in turn -/

theorem Block.sameClock_dropEntry : s.SameClock (s.dropEntry h e) h := Block.sameClock_modHalf rfl rfl

theorem Block.sameClock_cancelOne : s.SameClock (Block.cancelOne h code s e) h :=
  ((Block.sameClock_dropEntry.trans (Block.sameClock_modHalf rfl rfl)).trans (Block.sameClock_modHalf rfl rfl)).trans
    (Block.sameClock_count_cancels e.chan)

theorem Block.cancelOne_cask :
    ((Block.cancelOne h code s e).half h).cask = (s.half h).cask.filter fun y => !(y.chan == e.chan && y.tag == e.tag) := by
  simp [Block.cancelOne, Block.pushRec, Block.dropEntry]

theorem Block.cancelOne_evn :
    ((Block.cancelOne h code s e).half h).evn = s.enterRec h (s.outcome h e code 0 0) (s.half h).evn := by
  rw [← (Block.sameClock_dropEntry (e := e)).enterRec]
  simp [Block.cancelOne, Block.pushRec, Block.dropEntry]

theorem Block.sameClock_foldl_cancelOne : s.SameClock (es.foldl (Block.cancelOne h code) s) h := by
  induction es generalizing s with
  | nil => exact .refl
  | cons e es ih => exact Block.sameClock_cancelOne.trans ih

theorem Block.foldl_cancelOne_cask :
    ((es.foldl (Block.cancelOne h code) s).half h).cask =
      (s.half h).cask.filter fun y => !es.any fun e => y.chan == e.chan && y.tag == e.tag := by
  induction es generalizing s with
  | nil => simp
  | cons e es ih =>
    rw [List.foldl_cons, ih, Block.cancelOne_cask, List.filter_filter]
    simp [Bool.and_comm]

theorem Block.foldl_cancelOne_evn :
    ((es.foldl (Block.cancelOne h code) s).half h).evn =
      es.foldl (fun l e => s.enterRec h (s.outcome h e code 0 0) l) (s.half h).evn := by
  induction es generalizing s with
  | nil => rfl
  | cons e es ih =>
    have same : s.SameClock (Block.cancelOne h code s e) h := Block.sameClock_cancelOne
    rw [List.foldl_cons, ih, Block.cancelOne_evn, same.enterRec, same.outcome, List.foldl_cons]

/-! ## A further cause of this ANGCLK's cancellations -/

/-- A record as a further cause leaves it: that of an entry cancelled in this ANGCLK takes a cause which comes earlier. -/
def Block.recaused (s : Block) (h : HalfId) (code : Nat) (p : Entry → Bool) (r : NRec) : NRec :=
  if r.stamp == (s.half h).tsc && decide (causeRank code < causeRank r.code) && decide (causeRank r.code < 7) &&
      (s.goneNow h p).any (fun e => e.chan == r.chan && e.tag == r.tag) then { r with code := code } else r

theorem Block.recaused_cases (s : Block) (h : HalfId) (code : Nat) (p : Entry → Bool) (r : NRec) :
    s.recaused h code p r = r ∨ (r.stamp = (s.half h).tsc ∧ causeRank code < causeRank r.code ∧ causeRank r.code < 7 ∧
      s.recaused h code p r = { r with code := code }) := by
  unfold Block.recaused
  split
  next hc =>
    simp only [Bool.and_eq_true, beq_iff_eq, decide_eq_true_eq] at hc
    obtain ⟨⟨⟨stamp, earlier⟩, cancelled⟩, -⟩ := hc
    exact .inr ⟨stamp, earlier, cancelled, rfl⟩
  next => exact .inl rfl

theorem Block.recaused_stamp (s : Block) (h : HalfId) (code : Nat) (p : Entry → Bool) (r : NRec) :
    (s.recaused h code p r).stamp = r.stamp := by
  obtain e | ⟨-, -, -, e⟩ := s.recaused_cases h code p r <;> rw [e]

theorem Block.recaused_of_earlier (hr : r.stamp ≠ (s.half h).tsc) : s.recaused h code p r = r :=
  (s.recaused_cases h code p r).resolve_right fun ⟨now, _⟩ => hr now

theorem Block.map_recaused_filter_earlier :
    (l.map (s.recaused h code p)).filter (fun r => r.stamp != (s.half h).tsc) = l.filter (fun r => r.stamp != (s.half h).tsc) := by
  induction l with
  | nil => rfl
  | cons r l ih =>
    rw [List.map_cons, List.filter_cons, List.filter_cons, ih, s.recaused_stamp]
    split
    next hr => rw [Block.recaused_of_earlier (by simpa using hr)]
    next => rfl

theorem Block.recause_eq :
    s.recause h code p = s.modHalf h fun x => { x with evn := x.evn.map (s.recaused h code p) } := by
  unfold Block.recause
  dsimp only
  split
  next hnone =>
    have same : s.recaused h code p = id := by
      funext r
      simp [Block.recaused, List.isEmpty_iff.1 hnone]
    simp only [same, List.map_id]
    exact (s.setHalf_self h).symm
  next => rfl

theorem Block.sameClock_recause : s.SameClock (s.recause h code p) h := by
  rw [Block.recause_eq]
  exact Block.sameClock_modHalf rfl rfl

theorem Block.recause_cask : ((s.recause h code p).half h).cask = (s.half h).cask := by
  rw [Block.recause_eq, Block.modHalf_half]

theorem Block.recause_evn : ((s.recause h code p).half h).evn = (s.half h).evn.map (s.recaused h code p) := by
  rw [Block.recause_eq, Block.modHalf_half]

/-! ## The CREDIT notice leaves cask and records -/

theorem Block.notice_cask (ws : List Word) : ((s.notice h code ws).half h).cask = (s.half h).cask := by
  unfold Block.notice
  rw [Block.modHalf_half]
  split <;> rfl

theorem Block.notice_evn (ws : List Word) : ((s.notice h code ws).half h).evn = (s.half h).evn := by
  unfold Block.notice
  rw [Block.modHalf_half]
  split <;> rfl

theorem Block.creditNotice_cask (old : Block) (ks : List Nat) : ((s.creditNotice h old ks).half h).cask = (s.half h).cask := by
  unfold Block.creditNotice
  dsimp only
  split
  · rfl
  split <;> simp only [Block.notice_cask]

theorem Block.creditNotice_evn (old : Block) (ks : List Nat) : ((s.creditNotice h old ks).half h).evn = (s.half h).evn := by
  unfold Block.creditNotice
  dsimp only
  split
  · rfl
  split <;> simp only [Block.notice_evn]

/-! ## Every entry that a condition names -/

theorem Block.cancelWhere_evn :
    ((s.cancelWhere h code p).half h).evn =
      (s.inOrder h ((s.half h).cask.filter p)).foldl (fun l e => s.enterRec h (s.outcome h e code 0 0) l)
        ((s.half h).evn.map (s.recaused h code p)) := by
  have same : s.SameClock (s.recause h code p) h := Block.sameClock_recause
  unfold Block.cancelWhere
  rw [Block.creditNotice_evn, Block.foldl_cancelOne_evn, Block.recause_evn, same.enterRec, same.outcome]

/-- With a channel and tag for one entry only, those cancelled are those named. -/
theorem Block.cancelWhere_cask
    (hu : ∀ x ∈ (s.half h).cask, ∀ y ∈ (s.half h).cask, x.chan = y.chan → x.tag = y.tag → x = y) :
    ((s.cancelWhere h code p).half h).cask = (s.half h).cask.filter fun e => !p e := by
  have named (y : Entry) (hy : y ∈ (s.half h).cask) :
      ((s.inOrder h ((s.half h).cask.filter p)).any fun e => y.chan == e.chan && y.tag == e.tag) = p y := by
    rw [Bool.eq_iff_iff]
    simp only [List.any_eq_true, Block.inOrder_perm.mem_iff, List.mem_filter, Bool.and_eq_true, beq_iff_eq]
    constructor
    · rintro ⟨e, ⟨he, hp⟩, hc, ht⟩
      rwa [hu y hy e he hc ht]
    · exact fun hp => ⟨y, ⟨hy, hp⟩, rfl, rfl⟩
  unfold Block.cancelWhere
  rw [Block.creditNotice_cask, Block.foldl_cancelOne_cask, Block.recause_cask]
  exact List.filter_congr fun y hy => congrArg (!·) (named y hy)

end Sys2Proof.Machine

open Sys2Proof Sys2Proof.Machine

/-- Settles O46: the records there were, each with the earlier of its two causes, take in one record for each entry named. -/
theorem cancellationIsExact : Obligations.CancellationIsExact := by
  rintro s t h code p hu rfl
  refine ⟨(s.half h).evn.map (s.recaused h code p), Block.cancelWhere_cask hu, Block.cancelWhere_evn, ?_, ?_, List.length_map _, ?_,
    Block.inOrder_perm.map _⟩
  · rw [Block.cancelWhere_evn]
    exact (Block.foldl_enterRec_perm _).trans ((Block.inOrder_perm.map _).append_left _)
  · rw [Block.cancelWhere_evn, Block.foldl_enterRec_filter_earlier, Block.map_recaused_filter_earlier]
  · intro i hi ho
    rw [List.getElem_map]
    exact s.recaused_cases h code p (s.half h).evn[i]
end

section
/-!
Insertion through the ports, arming, and execution (rules R121, R124, R125, R129, R131, R134, R137, R149, R161). One equation for each case
of a row.
-/

namespace Sys2Proof.Machine

variable {s b d : Block} {h : HalfId} {p k tag code : Nat} {parity : Bool} {i : Insertion} {e : Entry}

/-! ## Ports -/

theorem eviGo_of_free (hb : s.on h F.EVI_RES_BUSY p = false) (ha : p = 1 → activePhase (s.phase h) = false) :
    eviGo h p k tag s =
      { (s.setF h F.EVI_RES_BUSY 1 p).modHalf h (fun x => { x with
          ports := x.ports ++ [⟨p, k, tag, s.w h .EVI_W p 0, s.w h .EVI_W p 1, s.w h .EVI_W p 2, none⟩] }) with busErr := false } := by
  have free : ¬ (s.on h F.EVI_RES_BUSY p || (p = 1 && activePhase (s.phase h))) = true := by simpa [hb] using ha
  exact if_neg free

theorem eviGo_of_held (hb : s.on h F.EVI_RES_BUSY p = true ∨ (p = 1 ∧ activePhase (s.phase h) = true)) :
    eviGo h p k tag s = { s with busErr := true } :=
  if_pos (by simpa using hb)

/-! ## Classification

`b` is the block without the port's insertion, `e` the entry that passes, armed where it lies within its lead. -/

theorem Block.insert_of_refused (hc : b.channelChecks h i.port (b.mkEntry h i) = code) (hn : code ≠ cOK) :
    b.insert h i parity = (code, 0, b) := by
  subst hc
  exact if_neg hn

/-- An entry written into its channel. -/
def Block.entered (s : Block) (h : HalfId) (e : Entry) : Block :=
  s.modHalf h fun x => { x with cask := x.cask ++ [e], nextOrd := x.nextOrd + 1 }

section
variable (hc : b.channelChecks h i.port (b.mkEntry h i) = cOK)
  (he : e = if b.withinLead h (b.mkEntry h i) && !b.clockRev h then b.armed h (b.mkEntry h i) else b.mkEntry h i)
include hc he

theorem Block.insert_of_passed :
    b.insert h i parity =
      ((b.writeSlot h e parity).1, if (b.writeSlot h e parity).1 = cOK then (b.writeSlot h e parity).2.slotOf h e else 0,
        (b.writeSlot h e parity).2) := by
  subst he
  exact if_pos hc

theorem Block.insert_of_good : b.insert h i false = (cOK, (b.entered h e).slotOf h e, b.entered h e) :=
  Block.insert_of_passed hc he

theorem Block.insert_of_full (hd : d = b.slotFault h e.chan) (hf : d.usableSlots h e.chan ≤ b.pend h e.chan) :
    b.insert h i true = (cQUEUE_FULL, 0, d) := by
  have written : b.writeSlot h e true = (cQUEUE_FULL, d) := by simp [Block.writeSlot, ← hd, hf]
  rw [Block.insert_of_passed hc he, written]
  rfl

theorem Block.insert_of_spared (hd : d = b.slotFault h e.chan) (hf : ¬ d.usableSlots h e.chan ≤ b.pend h e.chan) :
    b.insert h i true = (cOK, (d.entered h e).slotOf h e, d.entered h e) := by
  have written : b.writeSlot h e true = (cOK, d.entered h e) := by simp [Block.writeSlot, Block.entered, ← hd, hf]
  rw [Block.insert_of_passed hc he, written]
  rfl
end

section
variable (hi : (s.half h).ports.find? (fun i => i.port == p) = some i)
  (hb : b = s.modHalf h fun x => { x with ports := x.ports.filter fun y => y.port != p })
include hi hb

theorem insertionClassify_of_entered {slot : Nat} (hr : b.insert h i parity = (cOK, slot, d)) :
    insertionClassify h p parity s = d.setW h .EVI_RES (wd (slot * 256)) p := by
  cases hs : i.static <;> simp [insertionClassify, hi, ← hb, hr, hs, cOK]

section
variable (hr : b.insert h i parity = (code, 0, d))
include hr

theorem insertionClassify_of_refused (hs : i.static = none) :
    insertionClassify h p parity s = d.setW h .EVI_RES (wd code) p := by
  simp [insertionClassify, hi, ← hb, hr, hs]

/-- A static insertion that the channel refuses is a schedule miss. -/
theorem insertionClassify_of_miss {m n : Nat} (hn : code ≠ cOK) (hs : i.static = some (m, n)) :
    insertionClassify h p parity s = (d.setW h .EVI_RES (wd code) p).notice h 0xC4
      [wd (code * 65536 + i.chan * 1024 + i.tag), wd (m * 2 ^ 20 + n % 4096)] := by
  simp [insertionClassify, hi, ← hb, hr, hs, hn]
end
end

/-! ## Arming and execution -/

section
variable (he : s.findEntry h k tag = some e)
include he

theorem entryArm_of_passed (ha : e.armed = false) (hd : e.deferral = none) (hv : s.clockValid h = true)
    (hr : s.clockRev h = false) (hp : s.passed h (s.armPoint h e) false = true) :
    entryArm h k tag s = s.replaceEntry h (if e.written then s.armed h e else { e with fwdArm := true }) := by
  simp [entryArm, he, ha, hd, hv, hr, hp]

theorem Block.chan_tag_of_findEntry : e.chan = k ∧ e.tag = tag := by
  simpa using List.find?_some he

/-- A due entry that none of its channel comes before executes: OK in the ANGCLK of its match, LATE behind it. -/
theorem entryExecute_of_first (hd : s.due h e = true) (hf : (s.dueOrder h k).takeWhile (fun y => y.tag != tag) = [])
    (hc : code = if e.late = true ∨ e.matchAt ≠ (s.half h).tsc then cLATE else cOK) :
    entryExecute h k tag s = s.execute h e code := by
  obtain ⟨rfl, rfl⟩ := Block.chan_tag_of_findEntry he
  simp [entryExecute, Block.runDue, he, hd, hf, hc]
end

theorem Block.execute_of_cancelled {cause : Nat} (hc : s.execCancel h e = some cause) :
    s.execute h e code = (Block.cancelOne h cause s e).creditNotice h s [e.chan] := by
  simp [Block.execute, hc]

section
variable (hc : s.execCancel h e = none) (hb : b = s.returnsFirst h e.chan)
include hc hb

theorem Block.execute_of_busy (ho : b.outputBusy h e = true) : s.execute h e code = b.defer h e code := by
  simp [Block.execute, hc, ← hb, ho]

theorem Block.execute_of_free (ho : b.outputBusy h e = false) :
    s.execute h e code = b.complete h e code (if code = cLATE then lateBy e.frozen (s.half h).tsc else 0) := by
  simp [Block.execute, hc, ← hb, ho]
end

/-! ## Pulses and deferred entries -/

theorem evoPulseReturn_of_due {line : Nat} {x : Pulse}
    (hx : (s.half h).pulses.find? (fun x => x.line == line && reached x.due (s.half h).tsc) = some x) :
    evoPulseReturn h line s =
      (s.modHalf h fun y => { y with pulses := y.pulses.erase x, evoEnd := y.evoEnd.set line (some y.tsc) }).evoCommand h line false
        none 0 x.tap := by
  simp [evoPulseReturn, Block.pulseReturn, hx]

section
variable {since : Nat} {was : Word} (he : s.findEntry h k tag = some e) (hd : e.deferral = some (since, was))
include he hd

theorem deferredExecute_of_cancelled {cause : Nat} (hc : s.execCancel h e = some cause) :
    deferredExecute h k tag s = (Block.cancelOne h cause s e).creditNotice h s [e.chan] := by
  simp [deferredExecute, he, hd, hc]

/-- A deferred entry whose output is free completes: JUMPED with its deferral, else LATE with its lateness. -/
theorem deferredExecute_of_free (hc : s.execCancel h e = none) (hb : b = s.returnsFirst h k) (ho : b.outputBusy h e = false) :
    deferredExecute h k tag s =
      if was.toNat = cJUMPED then b.complete h e cJUMPED (ticksTo since (s.half h).tsc)
      else b.complete h e cLATE (lateBy e.frozen (s.half h).tsc) := by
  simp [deferredExecute, he, hd, hc, ← hb, ho]
end

end Sys2Proof.Machine

open Sys2Proof Sys2Proof.Machine

/-- Settles O15, row by row: the port by its owner, the insertion by its checks and slot, the entry by its cause and output. -/
theorem insertionRowsComplete : Obligations.InsertionRowsComplete := by
  refine ⟨fun s h p chan tag hb ha hp => State.access_powered hp (eviGo_of_free hb ?_),
    fun s h p chan tag hb hp => State.access_powered hp (eviGo_of_held (hb.imp_right (.imp_left (congrArg Fin.val)))),
    fun s h p parity i b c hi hb hc hn hs =>
      s.next_with_blk_congr (insertionClassify_of_refused hi hb (Block.insert_of_refused hc hn) hs),
    fun s h p parity i b c m k hi hb hc hn hs =>
      s.next_with_blk_congr (insertionClassify_of_miss hi hb (Block.insert_of_refused hc hn) hn hs),
    fun s h p i b e d hi hb hc he hd => ?_, fun s h p i b e d hi hs hb hc he hd => ?_,
    fun s h chan tag e he ha hd hv hr hp => s.next_with_blk_congr (entryArm_of_passed he ha hd hv hr hp),
    fun s h chan tag e b code he hd hf _ _ hc hb ho hcode =>
      s.next_with_blk_congr ((entryExecute_of_first he hd hf hcode).trans (Block.execute_of_free hc hb ho)),
    fun s h chan tag e b code he hd hf _ _ hc hb ho hcode =>
      s.next_with_blk_congr ((entryExecute_of_first he hd hf hcode).trans (Block.execute_of_busy hc hb ho)),
    fun s h chan tag e cause he hd hf _ _ hc =>
      s.next_with_blk_congr ((entryExecute_of_first he hd hf rfl).trans (Block.execute_of_cancelled hc)),
    fun s h line x hx => s.next_with_blk_congr (evoPulseReturn_of_due hx),
    fun s h chan tag e since was b he hd hc hb ho hj =>
      s.next_with_blk_congr ((deferredExecute_of_free he hd hc hb ho).trans (if_pos hj)),
    fun s h chan tag e since was b he hd hc hb ho hj =>
      s.next_with_blk_congr ((deferredExecute_of_free he hd hc hb ho).trans (if_neg hj)),
    fun s h chan tag e since was cause he hd hc => s.next_with_blk_congr (deferredExecute_of_cancelled he hd hc)⟩
  · rintro hp1
    obtain rfl | ha := ha
    · exact absurd hp1 (by decide)
    · exact ha
  · subst hd
    exact s.next_with_blk_congr (insertionClassify_of_entered hi hb (Block.insert_of_good hc he))
  · refine s.next_with_blk_congr ?_
    split
    next hf => exact insertionClassify_of_refused hi hb (Block.insert_of_full hc he hd hf) hs
    next hf => exact insertionClassify_of_entered hi hb (Block.insert_of_spared hc he hd hf)
end

section
/-!
Commands of a channel: cancelling by request and the clearing of its counters, each in progress for 2 ANGCLK (rules R136, R138, R142).
-/

namespace Sys2Proof.Machine

variable {s b : Block} {h : HalfId} {k : Nat} {p : Entry → Bool} {hit : List Entry}

/-- A command of channel `k` takes effect with the block it makes, and is in progress for the 2 ANGCLK that follow. -/
theorem Block.startCmd_of_idle (hb : s.cmdBusy h k = false) :
    s.startCmd h k b =
      { b.modHalf h (fun x => { x with cmdDone := x.cmdDone.set k (some ((x.tsc + 2) % 2 ^ 48)) }) with busErr := false } :=
  if_neg (Bool.eq_false_iff.1 hb)

theorem Block.startCmd_of_busy (hb : s.cmdBusy h k = true) : s.startCmd h k b = { s with busErr := true } := if_pos hb

/-- CANCEL_TAG answers the number of entries it cancels, with PAST where it reaches none. -/
theorem Block.cancelCmd_tagged (hh : (s.half h).cask.filter (fun e => e.chan == k && p e && s.reachable h e) = hit) :
    s.cancelCmd h k p true =
      s.startCmd h k ((s.cancelWhere h cHOST_CANCEL fun e => e.chan == k && p e && s.reachable h e).setW h .EVC_CMDRES
        (wd (hit.length * 256 + if hit = [] then cPAST else cOK)) k) := by
  simp [Block.cancelCmd, hh]

/-- CANCEL_ALL answers the number alone. -/
theorem Block.cancelCmd_untagged (hh : (s.half h).cask.filter (fun e => e.chan == k && p e && s.reachable h e) = hit) :
    s.cancelCmd h k p false =
      s.startCmd h k ((s.cancelWhere h cHOST_CANCEL fun e => e.chan == k && p e && s.reachable h e).setW h .EVC_CMDRES
        (wd (hit.length * 256)) k) := by
  simp [Block.cancelCmd, hh, cOK]

end Sys2Proof.Machine

open Sys2Proof Sys2Proof.Machine

/-- Settles O16, row by row: a command by whether one is in progress, every other row by its access. -/
theorem channelRowsComplete : Obligations.ChannelRowsComplete :=
  ⟨fun _ _ _ _ _ hb hh hp => State.access_powered hp ((Block.cancelCmd_tagged hh).trans (Block.startCmd_of_idle hb)),
   fun _ _ _ _ hb hh hp => State.access_powered hp ((Block.cancelCmd_untagged hh).trans (Block.startCmd_of_idle hb)),
   fun _ _ _ hb hp => State.access_powered hp (Block.startCmd_of_idle hb),
   fun _ _ _ _ hb hp => State.access_powered hp (Block.startCmd_of_busy hb),
   fun _ _ _ hb hp => State.access_powered hp (Block.startCmd_of_busy hb),
   fun _ _ _ hb hp => State.access_powered hp (Block.startCmd_of_busy hb),
   fun _ _ _ hp => State.access_powered hp rfl,
   fun _ _ hp => State.access_powered hp rfl,
   fun _ _ hp => State.access_powered hp rfl,
   fun _ _ hp => State.access_powered hp rfl,
   fun _ _ _ hp => State.access_powered hp rfl⟩
end

section
/-!
Submission: what ADM_GO takes, the sampling clock that judges it, and the write clock that enters it (rules R129, R151, R152, R166, R486).
-/

namespace Sys2Proof.Machine

variable {s b d : Block} {h : HalfId} {k tag code : Nat} {parity : Bool} {i : Insertion} {e : Entry}

/-! ## ADM_GO -/

theorem admGo_of_free (hb : s.on h F.ADM_RES_BUSY = false) :
    admGo h k tag s =
      { (s.setF h F.ADM_RES_BUSY 1).modHalf h (fun x => { x with
          sub := some ⟨1, k, tag, s.w h .ADM_W 0, s.w h .ADM_W 1, s.w h .ADM_W 2, none⟩ }) with busErr := false } :=
  if_neg (Bool.eq_false_iff.1 hb)

theorem admGo_of_busy (hb : s.on h F.ADM_RES_BUSY = true) : admGo h k tag s = { s with busErr := true } := if_pos hb

/-! ## The sampling clock

`b` is the block without the submission. -/

section
variable (hi : (s.half h).sub = some i) (hb : b = s.modHalf h fun x => { x with sub := none })
include hi hb

theorem admissionSample_of_refused (hc : code = (b.atLatch h (b.mkEntry h i)).admission h (b.mkEntry h i)) (hn : code ≠ cOK) :
    admissionSample h s = b.refuse h code i.chan i.tag := by
  subst hc
  simp [admissionSample, Block.sample, hi, ← hb, hn]

theorem admissionSample_of_admitted (hc : (b.atLatch h (b.mkEntry h i)).admission h (b.mkEntry h i) = cOK)
    (hd : d = b.modHalf h fun x => { x with
      cask := x.cask ++ [{ b.mkEntry h i with written := false, fwdArm := b.withinLead h (b.mkEntry h i) }],
      nextOrd := x.nextOrd + 1 }) :
    admissionSample h s = d.setW h .ADM_RES (wd (2 ^ 23 + d.slotOf h (b.mkEntry h i) * 256)) := by
  simp [admissionSample, Block.sample, hi, ← hb, hc, ← hd]
end

/-! ## The write clock -/

theorem admissionInsertWrite_of_sampled (hs : s.on h F.ADM_RES_BUSY = true) (hi : (s.half h).sub = none) :
    admissionInsertWrite h parity s = (s.writeClock h parity).2 := by
  simp [admissionInsertWrite, hs, hi]

theorem Block.writeClock_of_pending (he : (s.half h).cask.find? (fun e => !e.written) = some e)
    (hb : b = s.replaceEntry h (if e.fwdArm && !s.clockRev h && s.clockValid h then s.armed h { e with written := true }
      else { e with written := true })) :
    s.writeClock h false =
      (cOK, (b.setW h .ADM_RES (wd (b.slotOf h { e with written := true } * 256))).count h F.ADM_CNT_ADMITS) := by
  subst hb
  simp [Block.writeClock, he]

/-- An entry cancelled since the sampling clock is not written. -/
theorem Block.writeClock_of_cancelled (he : (s.half h).cask.find? (fun e => !e.written) = none) :
    s.writeClock h parity = (cOK, (s.setF h F.ADM_RES_BUSY 0).count h F.ADM_CNT_ADMITS) := by
  simp [Block.writeClock, he]

end Sys2Proof.Machine

open Sys2Proof Sys2Proof.Machine

/-- Settles O17, row by row: the write by BUSY, the sampling clock by its code, the write clock by whether its entry still pends. -/
theorem admissionRowsComplete : Obligations.AdmissionRowsComplete :=
  ⟨fun _ _ _ _ hb hp => State.access_powered hp (admGo_of_free hb),
   fun _ _ _ _ hb hp => State.access_powered hp (admGo_of_busy hb),
   fun s _ _ _ _ hi hb hc hn => s.next_with_blk_congr (admissionSample_of_refused hi hb hc hn),
   fun s _ _ _ _ hi hb hc hd => s.next_with_blk_congr (admissionSample_of_admitted hi hb hc hd),
   fun s _ _ _ hs hi he hb => s.next_with_blk_congr
     ((admissionInsertWrite_of_sampled hs hi).trans (congrArg Prod.snd (Block.writeClock_of_pending he hb))),
   fun s _ _ hs hi he => s.next_with_blk_congr
     ((admissionInsertWrite_of_sampled hs hi).trans (congrArg Prod.snd (Block.writeClock_of_cancelled he))),
   fun _ _ hp => State.access_powered hp rfl⟩
end

section
/-!
A change of the service phase: what the outputs' switches leave of a half's cask, of its records and of its phase; that the outputs a half
drives stay off once they are switched off; and entry to HOLD (rules R144, R145, R192).
-/

namespace Sys2Proof.Machine

variable {s t u : Block} {h k : HalfId} {p cause n : Nat} {x y : Fld} {v i j i' j' : Nat}

/-! ## Registers apart -/

/-- Two words of the register map with one address are one word. -/
theorem Reg.word_eq_of_addr_eq {r q : Reg} (hr : r.has h i j = true) (hq : q.has k i' j' = true) (ha : r.addr h i j = q.addr k i' j') :
    r = q ∧ i = i' ∧ j = j' := by
  have same : Place.reg r h i j = .reg q k i' j' := by rw [← placeOf_addr hr, ha, placeOf_addr hq]
  cases same
  exact ⟨rfl, rfl, rfl⟩

/-- A write of one register of the map leaves the fields of every other. -/
theorem Block.setF_f_of_reg_ne (hx : x.reg.has h i j = true) (hy : y.reg.has k i' j' = true) (hn : y.reg ≠ x.reg) :
    (s.setF h x v i j).f k y i' j' = s.f k y i' j' :=
  Block.setF_f_ne s h k x y v i j i' j' fun ha => hn (Reg.word_eq_of_addr_eq hy hx ha).1

/-- ADM_STAT stands in the region of its half, below the drive die. -/
theorem Reg.admStat_addr_ne_die {r : Reg} (hr : 0x800000 ≤ r.info.base) : Reg.ADM_STAT.addr h 0 0 ≠ r.addr k i j := by
  have stat : Reg.ADM_STAT.addr h 0 0 < 0x800000 := by cases h <;> decide
  have die : r.info.base ≤ r.addr k i j := Nat.le_trans (Nat.le_add_right _ _) (Nat.le_add_right _ _)
  omega

/-- ADM_STAT stands at a multiple of 0x80, SEQ_FORCE and a channel's counters above one of 0x10. -/
theorem Reg.admStat_addr_ne_channel (h : HalfId) (i : Nat) :
    Reg.ADM_STAT.addr h 0 0 ≠ Reg.EVC_CNT.addr h i 0 ∧ Reg.ADM_STAT.addr h 0 0 ≠ Reg.SEQ_FORCE.addr h i 0 := by
  have stat : Reg.ADM_STAT.addr h 0 0 = 0x230000 + (if h == .b then 0x400000 else 0) := rfl
  have cnt : Reg.EVC_CNT.addr h i 0 = 0x220005 + (if h == .b then 0x400000 else 0) + i * 0x80 := rfl
  have force : Reg.SEQ_FORCE.addr h i 0 = 0x24100a + (if h == .b then 0x400000 else 0) + i * 0x10 := rfl
  omega

/-! ## What the outputs leave -/

/-- An update leaves the pending entries of half `h`, its records and its service phase. -/
structure Block.KeepsCask (s t : Block) (h : HalfId) : Prop where
  cask : (t.half h).cask = (s.half h).cask
  evn : (t.half h).evn = (s.half h).evn
  stat : t.w h .ADM_STAT = s.w h .ADM_STAT

namespace Block.KeepsCask

theorem refl : s.KeepsCask s h := ⟨rfl, rfl, rfl⟩

theorem trans (a : s.KeepsCask t h) (b : t.KeepsCask u h) : s.KeepsCask u h :=
  ⟨b.cask.trans a.cask, b.evn.trans a.evn, b.stat.trans a.stat⟩

theorem phase (a : s.KeepsCask t h) : t.phase h = s.phase h := congrArg (fun w => bits (BitVec.toNat w) _ _) a.stat

theorem ite {c : Prop} [Decidable c] (a : s.KeepsCask t h) (b : s.KeepsCask u h) : s.KeepsCask (if c then t else u) h := by
  split
  · exact a
  · exact b

theorem foldl {α : Type} {f : Block → α → Block} (hf : ∀ t x, Block.KeepsCask t (f t x) h) (l : List α) :
    s.KeepsCask (l.foldl f s) h := by
  induction l generalizing s with
  | nil => exact refl
  | cons x xs ih => exact (hf s x).trans ih

theorem modHalf (a : s.KeepsCask t h) {f : Half → Half} (hc : ∀ z, (f z).cask = z.cask) (he : ∀ z, (f z).evn = z.evn) :
    s.KeepsCask (t.modHalf k f) h := by
  refine a.trans ⟨?_, ?_, Block.modHalf_w t k h f ..⟩ <;> by_cases e : h = k
  · rw [e, Block.modHalf_half, hc]
  · rw [Block.modHalf_half_ne t k h f e]
  · rw [e, Block.modHalf_half, he]
  · rw [Block.modHalf_half_ne t k h f e]

/-- A field of the drive die is written. -/
theorem setF (a : s.KeepsCask t h) (x : Fld) (v i : Nat) (hx : 0x800000 ≤ x.reg.info.base := by decide) :
    s.KeepsCask (t.setF .a x v i) h :=
  a.trans ⟨by rw [Block.setF_half], by rw [Block.setF_half],
    Block.setF_w_ne t .a h x .ADM_STAT v i 0 0 0 (Reg.admStat_addr_ne_die hx)⟩

theorem modWear (a : s.KeepsCask t h) (r : Nat) (f : Wear → Wear) : s.KeepsCask (t.modWear k r f) h := by
  unfold Block.modWear Block.modTal
  exact a.modHalf (fun _ => rfl) fun _ => rfl

end Block.KeepsCask

theorem oeFld_die (h : HalfId) : 0x800000 ≤ (oeFld h).reg.info.base := by cases h <;> decide

theorem Block.keepsCask_setChop (c : Chop) : s.KeepsCask (s.setChop n c) h := ⟨by cases h <;> rfl, by cases h <;> rfl, rfl⟩

theorem Block.keepsCask_setBhs (b : Bhs) : s.KeepsCask (s.setBhs n b) h := ⟨by cases h <;> rfl, by cases h <;> rfl, rfl⟩

theorem Block.keepsCask_with_bhs (l : List Bhs) : s.KeepsCask { s with bhs := l } h := ⟨by cases h <;> rfl, by cases h <;> rfl, rfl⟩

theorem Block.keepsCask_injOff : s.KeepsCask (s.injOff n) h :=
  ((Block.KeepsCask.refl.setF F.INJ_STAT_LS 0 n).setF F.INJ_STAT_HSB 0 n).setF F.INJ_STAT_BOOST 0 n

theorem Block.keepsCask_gateEdges (old : Block) : s.KeepsCask (s.gateEdges old n) h := by
  have chopped {b c : Chop} {p q : Prop} [Decidable p] [Decidable q] :
      s.KeepsCask (if p then s.setChop n b else if q then s.setChop n c else s) h :=
    .ite (Block.keepsCask_setChop b) (.ite (Block.keepsCask_setChop c) .refl)
  exact .ite (chopped.modWear _ _) chopped

theorem Block.keepsCask_gate (ls hsb boost : Bool) : s.KeepsCask (s.gate n ls hsb boost) h := by
  unfold Block.gate
  extract_lets one s1 on s2
  have channel (t : Block) (c : Nat) : t.KeepsCask (one t c) h :=
    (Block.KeepsCask.ite (((Block.KeepsCask.refl.setF _ _ c).setF _ _ c).setF _ _ c) Block.keepsCask_injOff).trans
      (Block.keepsCask_gateEdges t)
  have gated : s.KeepsCask s1 h := .ite ((channel s n).trans (channel _ _)) (channel s n)
  exact (Block.KeepsCask.ite (gated.modWear _ _) gated).setF F.BHS_STAT_ON _ _

theorem Block.keepsCask_drive (ls hsb boost : Bool) : s.KeepsCask (s.drive n ls hsb boost) h :=
  .ite .refl (Block.keepsCask_gate ls hsb boost)

theorem Block.keepsCask_bhsWithdraw : s.KeepsCask (s.bhsWithdraw n) h :=
  .ite ((Block.keepsCask_setBhs _).setF F.BHS_STAT_CONTEND 0 _) .refl

theorem Block.keepsCask_bhsRelease : s.KeepsCask (s.bhsRelease n) h := by
  have released (b : Bhs) : s.KeepsCask ((s.setBhs (n / 2) b).setF .a F.BHS_STAT_ON 0 (n / 2)) h :=
    (Block.keepsCask_setBhs b).setF F.BHS_STAT_ON 0 _
  exact .ite (.ite ((released _).trans (Block.keepsCask_drive ..)) (released _)) .refl

theorem Block.keepsCask_resumeSeq (sh : Shot) : s.KeepsCask (s.resumeSeq n sh) h := by
  unfold Block.resumeSeq
  dsimp only
  split
  · exact .ite (Block.keepsCask_gate ..) (.ite (Block.keepsCask_gate ..) (Block.keepsCask_gate ..))
  · exact Block.keepsCask_gate ..
  · exact Block.keepsCask_gate ..

theorem Block.keepsCask_applyForce : s.KeepsCask (s.applyForce k n) h := by
  unfold Block.applyForce
  dsimp only
  split
  · exact .ite (Block.keepsCask_gate ..) ((Block.keepsCask_gate ..).trans Block.keepsCask_bhsWithdraw)
  split
  · exact Block.keepsCask_resumeSeq _
  · exact ((Block.keepsCask_gate ..).trans Block.keepsCask_bhsWithdraw).trans Block.keepsCask_bhsRelease

theorem Block.keepsCask_hbDrive : s.KeepsCask (s.hbDrive n) h :=
  (((Block.KeepsCask.ite (Block.KeepsCask.refl.modWear _ _) .refl).setF F.HB_STAT_HS _ n).setF F.HB_STAT_LS _ n).setF F.HB_STAT_SHOOT _ n

theorem Block.keepsCask_hbDriveHalf : s.KeepsCask (s.hbDriveHalf k) h := .foldl (fun _ _ => Block.keepsCask_hbDrive) _

theorem Block.keepsCask_obeyLines : s.KeepsCask (s.obeyLines k) h := by
  refine Block.keepsCask_hbDriveHalf.trans (.foldl (fun t c => ?_) _)
  dsimp only
  split
  · exact Block.keepsCask_applyForce
  split
  · exact Block.keepsCask_resumeSeq _
  · exact .refl

theorem Block.keepsCask_outputsOff : s.KeepsCask (s.outputsOff k) h := by
  unfold Block.outputsOff
  extract_lets s1 s2 s3 b s4
  have inj : s.KeepsCask s1 h := .foldl (fun _ _ => Block.keepsCask_injOff) _
  have bhs : s1.KeepsCask s2 h := .foldl (fun _ _ => Block.KeepsCask.refl.setF F.BHS_STAT_ON 0 _) _
  have hb : s2.KeepsCask s3 h := .foldl (fun _ _ => (Block.KeepsCask.refl.setF F.HB_STAT_HS 0 _).setF F.HB_STAT_LS 0 _) _
  have held : s3.KeepsCask b h := Block.keepsCask_with_bhs _
  have contend : b.KeepsCask s4 h := .foldl (fun _ _ => Block.KeepsCask.refl.setF F.BHS_STAT_CONTEND 0 _) _
  exact ((((inj.trans bhs).trans hb).trans held).trans contend).trans (.foldl (fun _ _ => Block.KeepsCask.refl.setF F.EVO_STAT_LEVEL 0 _) _)

theorem Block.keepsCask_updateOE : s.KeepsCask (s.updateOE k) h := by
  have line (v : Nat) : s.KeepsCask (s.setF .a (oeFld k) v) h := Block.KeepsCask.refl.setF _ v 0 (oeFld_die k)
  exact .ite (.ite ((line 1).trans Block.keepsCask_hbDriveHalf) ((line 1).trans Block.keepsCask_obeyLines))
    (.ite ((line 0).trans Block.keepsCask_outputsOff) .refl)

/-! ## Outputs switched off -/

/-- The status fields that show the outputs of half `h` on, with their indices in module numbering (rules R30, R32). -/
def outputFlds (h : HalfId) : List (Fld × Nat) :=
  (List.range 12).flatMap (fun k => [(F.INJ_STAT_LS, injBase h + k), (F.INJ_STAT_HSB, injBase h + k), (F.INJ_STAT_BOOST, injBase h + k)]) ++
  (List.range 6).map (fun k => (F.BHS_STAT_ON, bhsBase h + k)) ++
  (List.range 4).flatMap (fun k => [(F.HB_STAT_HS, hbBase h + k), (F.HB_STAT_LS, hbBase h + k)]) ++
  ((List.range 6).map (fun k => (F.BHS_STAT_CONTEND, bhsBase h + k)) ++ (List.range 24).map fun k => (F.EVO_STAT_LEVEL, evoBase h + k))

/-- The fields of a list cleared one after the other. -/
def Block.clearFlds (s : Block) (l : List (Fld × Nat)) : Block := l.foldl (fun t z => t.setF .a z.1 0 z.2) s

/-- Every output of half `h` is off. -/
def Block.OutputsAreOff (s : Block) (h : HalfId) : Prop := ∀ z ∈ outputFlds h, s.f .a z.1 z.2 = 0

theorem Block.outputsAreOff_iff : s.OutputsAreOff h ↔
    (∀ k < 12, s.f .a F.INJ_STAT_LS (injBase h + k) = 0 ∧ s.f .a F.INJ_STAT_HSB (injBase h + k) = 0 ∧
      s.f .a F.INJ_STAT_BOOST (injBase h + k) = 0) ∧
    (∀ k < 6, s.f .a F.BHS_STAT_ON (bhsBase h + k) = 0) ∧
    (∀ k < 4, s.f .a F.HB_STAT_HS (hbBase h + k) = 0 ∧ s.f .a F.HB_STAT_LS (hbBase h + k) = 0) ∧
    (∀ k < 6, s.f .a F.BHS_STAT_CONTEND (bhsBase h + k) = 0) ∧
    ∀ k < 24, s.f .a F.EVO_STAT_LEVEL (evoBase h + k) = 0 := by
  simp only [Block.OutputsAreOff, outputFlds, List.forall_mem_append, List.forall_mem_flatMap, List.forall_mem_map, List.forall_mem_cons,
    List.mem_range, List.not_mem_nil, false_implies, implies_true, and_true, and_assoc]

theorem Block.clearFlds_append (l m : List (Fld × Nat)) : s.clearFlds (l ++ m) = (s.clearFlds l).clearFlds m := List.foldl_append ..

theorem Block.clearFlds_with_bhs (l : List (Fld × Nat)) (b : List Bhs) :
    Block.clearFlds { s with bhs := b } l = { s.clearFlds l with bhs := b } := by
  induction l generalizing s with
  | nil => rfl
  | cons z l ih => exact ih (s := s.setF .a z.1 0 z.2)

/-- Switching the outputs off clears those fields, and takes the boost switches from their channels. -/
theorem Block.outputsOff_regs : (s.outputsOff h).regs = (s.clearFlds (outputFlds h)).regs := by
  have same (t : Block) (b : List Bhs) (l : List (Fld × Nat)) : (Block.clearFlds { t with bhs := b } l).regs = (t.clearFlds l).regs := by
    rw [Block.clearFlds_with_bhs]
  rw [outputFlds, Block.clearFlds_append, ← same]
  simp only [Block.outputsOff, Block.injOff, Block.clearFlds, List.foldl_append, List.foldl_flatMap, List.foldl_map,
    List.foldl_cons, List.foldl_nil]
  rfl

/-- The fields that show an output on. -/
def onFlds : List Fld :=
  [F.INJ_STAT_LS, F.INJ_STAT_HSB, F.INJ_STAT_BOOST, F.BHS_STAT_ON, F.BHS_STAT_CONTEND, F.HB_STAT_HS, F.HB_STAT_LS, F.EVO_STAT_LEVEL]

theorem outputFlds_has : ∀ z ∈ outputFlds h, z.1 ∈ onFlds ∧ z.1.reg.has .a z.2 0 = true := by
  cases h <;> decide

/-- Two fields of one register that show outputs on are one field or lie apart. -/
theorem onFlds_apart : ∀ x ∈ onFlds, x.ok ∧ ∀ y ∈ onFlds, y.reg = x.reg → y = x ∨ x.hi < y.lo ∨ y.hi < x.lo := by
  decide

/-- An output that is off stays off while one is switched off. -/
theorem Block.setF_zero_keeps_off {y z : Fld × Nat} (hy : y ∈ outputFlds h) (hz : z ∈ outputFlds h) (h0 : s.f .a z.1 z.2 = 0) :
    (s.setF .a y.1 0 y.2).f .a z.1 z.2 = 0 := by
  obtain ⟨fy, hasY⟩ := outputFlds_has y hy
  obtain ⟨fz, hasZ⟩ := outputFlds_has z hz
  obtain ⟨ok, apart⟩ := onFlds_apart y.1 fy
  by_cases hw : z.1.reg = y.1.reg ∧ z.2 = y.2
  · obtain ⟨hr, hi⟩ := hw
    rw [hi] at h0 ⊢
    obtain hs | hd := apart z.1 fz hr
    · rw [hs, Block.setF_f_same _ _ _ _ _ _ ok, Nat.zero_mod]
    · rw [Block.setF_f_disjoint _ _ _ _ _ _ _ ok hr hd, h0]
  · rw [Block.setF_f_ne, h0]
    intro ha
    obtain ⟨hr, hi, -⟩ := Reg.word_eq_of_addr_eq hasZ hasY ha
    exact hw ⟨hr, hi⟩

theorem Block.clearFlds_off {l : List (Fld × Nat)} (hl : l ⊆ outputFlds h) {z : Fld × Nat} (hz : z ∈ outputFlds h)
    (h0 : s.f .a z.1 z.2 = 0 ∨ z ∈ l) : (s.clearFlds l).f .a z.1 z.2 = 0 := by
  induction l generalizing s with
  | nil => exact h0.resolve_right (List.not_mem_nil)
  | cons y l ih =>
    obtain ⟨hy, hl⟩ := List.cons_subset.1 hl
    refine ih (s := s.setF .a y.1 0 y.2) hl ?_
    obtain h0 | h0 := h0
    · exact .inl (Block.setF_zero_keeps_off hy hz h0)
    obtain rfl | h0 := List.mem_cons.1 h0
    · obtain ⟨ok, -⟩ := onFlds_apart z.1 (outputFlds_has z hz).1
      exact .inl ((Block.setF_f_same s .a z.1 0 z.2 0 ok).trans (Nat.zero_mod _))
    · exact .inr h0

theorem Block.outputsAreOff_outputsOff : (s.outputsOff h).OutputsAreOff h := fun z hz => by
  have e : (s.outputsOff h).f .a z.1 z.2 = (s.clearFlds (outputFlds h)).f .a z.1 z.2 :=
    congrArg (fun r => bits (memGet _ r _).toNat _ _) Block.outputsOff_regs
  rw [e]
  exact Block.clearFlds_off (List.Subset.refl _) hz (.inr hz)

namespace Block.OutputsAreOff

/-- Outputs that are off stay off while another register is written. -/
theorem setF (a : s.OutputsAreOff h) (hx : x.reg.has k i j = true) (hn : ∀ y ∈ onFlds, y.reg ≠ x.reg := by decide) :
    (s.setF k x v i j).OutputsAreOff h := fun z hz => by
  obtain ⟨fz, hasZ⟩ := outputFlds_has z hz
  rw [Block.setF_f_of_reg_ne hx hasZ (hn z.1 fz), a z hz]

theorem modHalf (a : s.OutputsAreOff h) (f : Half → Half) : (s.modHalf k f).OutputsAreOff h := fun z hz => by
  rw [Block.modHalf_f, a z hz]

/-- In a phase without outputs the output-enable line switches none on. -/
theorem updateOE (a : s.OutputsAreOff h) (hp : activePhase (s.phase h) = false) : (s.updateOE h).OutputsAreOff h := by
  unfold Block.updateOE
  simp only [hp, Bool.and_false, Bool.false_and, Bool.false_eq_true, if_false]
  split
  · exact Block.outputsAreOff_outputsOff
  · exact a

end Block.OutputsAreOff

/-! ## A phase change, step by step -/

/-- The phase written, and the PHASE notice. -/
def Block.phaseNoted (s : Block) (h : HalfId) (p cause : Nat) : Block :=
  (s.setF h F.ADM_STAT_PHASE p).notice h 0xC1 [wd (p * 2 ^ 21 + s.phase h * 2 ^ 18 + cause * 2 ^ 14), wd (s.tsLow h)]

/-- What HOLD does on entry: nothing pends, no output is on (rule R145). -/
def Block.holdEntered (s : Block) (h : HalfId) : Block :=
  ((s.setF h F.ADM_STAT_SVCPEND 0).cancelWhere h cHOST_CANCEL fun _ => true).outputsOff h

/-- The sources of coming cycles forgotten. -/
def Sched.planless (x : Sched) : Sched := { x with prevSrc := none, curSrc := none, nextSrc := none, due := [] }

/-- The rest of a change from phase `old` to `p`: the plan of coming cycles, forced drive, the output-enable line. -/
def Block.phaseLeft (s : Block) (h : HalfId) (old p : Nat) : Block :=
  let s1 := if p = phHOLD || p = phCRANK then s.modHalf h fun x => { x with sched := x.sched.planless } else s
  let s2 := if old = phTEST then (List.range 12).foldl (fun t k => t.setF h F.SEQ_FORCE_FEN 0 k) s1 else s1
  s2.updateOE h

theorem Block.setPhase_eq (hn : s.phase h ≠ p) :
    s.setPhase h p cause =
      Block.phaseLeft (if p = phHOLD then (s.phaseNoted h p cause).holdEntered h else s.phaseNoted h p cause) h (s.phase h) p :=
  if_neg hn

theorem Block.phaseNoted_phase (hp : p < 8) : (s.phaseNoted h p cause).phase h = p := by
  unfold Block.phaseNoted Block.phase
  rw [Block.notice_f, Block.setF_f_same _ _ _ _ _ _ (by decide)]
  exact Nat.mod_eq_of_lt hp

theorem Block.phaseNoted_cask : ((s.phaseNoted h p cause).half h).cask = (s.half h).cask := by
  rw [Block.phaseNoted, Block.notice_cask, Block.setF_half]

theorem Block.phaseNoted_evn : ((s.phaseNoted h p cause).half h).evn = (s.half h).evn := by
  rw [Block.phaseNoted, Block.notice_evn, Block.setF_half]

theorem Block.keepsCask_clearForce (l : List Nat) : s.KeepsCask (l.foldl (fun t c => t.setF h F.SEQ_FORCE_FEN 0 c) s) h :=
  .foldl (fun t c => ⟨by rw [Block.setF_half], by rw [Block.setF_half],
    Block.setF_w_ne t h h F.SEQ_FORCE_FEN .ADM_STAT 0 c 0 0 0 (Reg.admStat_addr_ne_channel h c).2⟩) l

theorem Block.keepsCask_planless (c : Prop) [Decidable c] :
    s.KeepsCask (if c then s.modHalf h fun x => { x with sched := x.sched.planless } else s) h :=
  .ite (Block.KeepsCask.refl.modHalf (fun _ => rfl) fun _ => rfl) .refl

theorem Block.keepsCask_phaseLeft (old : Nat) : s.KeepsCask (s.phaseLeft h old p) h :=
  ((Block.keepsCask_planless _).trans (.ite (Block.keepsCask_clearForce _) .refl)).trans Block.keepsCask_updateOE

theorem Block.OutputsAreOff.clearForce {l : List Nat} (hl : ∀ c ∈ l, c < 12) (a : s.OutputsAreOff h) :
    (l.foldl (fun t c => t.setF h F.SEQ_FORCE_FEN 0 c) s).OutputsAreOff h := by
  induction l generalizing s with
  | nil => exact a
  | cons c l ih =>
    obtain ⟨hc, hl⟩ := List.forall_mem_cons.1 hl
    exact ih hl (a.setF (x := F.SEQ_FORCE_FEN) (by simp [Reg.has, Reg.info, F.SEQ_FORCE_FEN, hc]))

theorem Block.OutputsAreOff.phaseLeft {old : Nat} (a : s.OutputsAreOff h) (hp : activePhase (s.phase h) = false) :
    (s.phaseLeft h old p).OutputsAreOff h := by
  unfold Block.phaseLeft
  extract_lets s1 s2
  have planned : s.KeepsCask s1 h := Block.keepsCask_planless _
  have unforced : s1.KeepsCask s2 h := .ite (Block.keepsCask_clearForce _) .refl
  have off1 : s1.OutputsAreOff h := by
    unfold s1
    split
    · exact a.modHalf _
    · exact a
  have off2 : s2.OutputsAreOff h := by
    unfold s2
    split
    · exact off1.clearForce fun c hc => List.mem_range.1 hc
    · exact off1
  exact off2.updateOE (by rw [unforced.phase, planned.phase, hp])

/-! ## Entry to HOLD -/

theorem Block.sameClock_setF_admStat (hx : x.reg = .ADM_STAT) : s.SameClock (s.setF h x v) h := by
  have stat : Reg.ANG_STAT.addr h 0 0 ≠ x.reg.addr h 0 0 := by rw [hx]; cases h <;> decide
  have ctrl : Reg.ANG_CTRL.addr h 0 0 ≠ x.reg.addr h 0 0 := by rw [hx]; cases h <;> decide
  exact ⟨by rw [Block.setF_half], by rw [Block.setF_half],
    Block.modM_congr (Block.setF_w_ne _ _ _ _ _ _ _ _ _ _ stat) (Block.setF_w_ne _ _ _ _ _ _ _ _ _ _ ctrl)⟩

theorem Block.sameClock_notice (code : Nat) (ws : List Word) : s.SameClock (s.notice h code ws) h :=
  Block.sameClock_modHalf (by split <;> rfl) (by split <;> rfl)

theorem Block.sameClock_phaseNoted : s.SameClock (s.phaseNoted h p cause) h :=
  (Block.sameClock_setF_admStat rfl).trans (Block.sameClock_notice ..)

theorem Block.SameClock.inOrder (a : s.SameClock t h) : t.inOrder h = s.inOrder h := by
  have key : t.caskKey h = s.caskKey h := funext fun e => congrFun a.keyOf e.g
  funext l
  simp only [Block.inOrder, key]

/-- HOST_CANCEL comes last in the order of causes (rule R137), so it changes no record. -/
theorem Block.recaused_hostCancel (q : Entry → Bool) (r : NRec) : s.recaused h cHOST_CANCEL q r = r := by
  have last : causeRank cHOST_CANCEL = 6 := by decide
  obtain e | ⟨-, earlier, cancels, -⟩ := s.recaused_cases h cHOST_CANCEL q r
  · exact e
  · omega

theorem Block.cancelWhere_all_cask (code : Nat) : ((s.cancelWhere h code fun _ => true).half h).cask = [] := by
  unfold Block.cancelWhere
  rw [Block.creditNotice_cask, Block.foldl_cancelOne_cask, Block.recause_cask, List.filter_true, List.filter_eq_nil_iff]
  intro e he
  have named : e ∈ s.inOrder h (s.half h).cask := Block.inOrder_perm.mem_iff.2 he
  simpa using ⟨e, named, rfl, rfl⟩

theorem Block.creditNotice_w (old : Block) (ks : List Nat) (r : Reg) (i j : Nat) : (s.creditNotice h old ks).w k r i j = s.w k r i j := by
  unfold Block.creditNotice
  dsimp only
  split
  · rfl
  split <;> simp only [Block.notice_w]

theorem Block.cancelOne_admStat (code : Nat) (e : Entry) : (Block.cancelOne h code s e).w h .ADM_STAT = s.w h .ADM_STAT := by
  unfold Block.cancelOne
  rw [Block.count_w_ne _ _ _ _ _ _ _ _ _ (Reg.admStat_addr_ne_channel h e.chan).1, Block.modHalf_w, Block.pushRec, Block.modHalf_w,
    Block.dropEntry, Block.modHalf_w]

theorem Block.cancelWhere_admStat (code : Nat) (q : Entry → Bool) : (s.cancelWhere h code q).w h .ADM_STAT = s.w h .ADM_STAT := by
  have each (l : List Entry) (t : Block) : (l.foldl (Block.cancelOne h code) t).w h .ADM_STAT = t.w h .ADM_STAT := by
    induction l generalizing t with
    | nil => rfl
    | cons e l ih => exact (ih _).trans (Block.cancelOne_admStat code e)
  unfold Block.cancelWhere
  rw [Block.creditNotice_w, each, Block.recause_eq, Block.modHalf_w]

theorem Block.holdEntered_cask : ((s.holdEntered h).half h).cask = [] := by
  rw [Block.holdEntered, Block.keepsCask_outputsOff.cask, Block.cancelWhere_all_cask]

theorem Block.holdEntered_evn :
    ((s.holdEntered h).half h).evn =
      (s.inOrder h (s.half h).cask).foldl (fun l e => s.enterRec h (s.outcome h e cHOST_CANCEL 0 0) l) (s.half h).evn := by
  have clock : s.SameClock (s.setF h F.ADM_STAT_SVCPEND 0) h := Block.sameClock_setF_admStat rfl
  rw [Block.holdEntered, Block.keepsCask_outputsOff.evn, Block.cancelWhere_evn, clock.inOrder, clock.enterRec, clock.outcome,
    Block.setF_half, List.filter_true, funext (Block.recaused_hostCancel _), List.map_id']

theorem Block.holdEntered_phase : (s.holdEntered h).phase h = s.phase h := by
  have cancelled (t : Block) : (t.cancelWhere h cHOST_CANCEL fun _ => true).phase h = t.phase h :=
    congrArg (fun w => bits (BitVec.toNat w) _ _) (Block.cancelWhere_admStat ..)
  rw [Block.holdEntered, Block.keepsCask_outputsOff.phase, cancelled]
  exact Block.setF_f_disjoint s h F.ADM_STAT_SVCPEND F.ADM_STAT_PHASE 0 0 0 (by decide) rfl (by decide)

theorem Block.outputsAreOff_holdEntered : (s.holdEntered h).OutputsAreOff h := Block.outputsAreOff_outputsOff

/-! ## The phase change -/

theorem Block.setPhase_phase (hp : p < 8) : (s.setPhase h p cause).phase h = p := by
  by_cases hn : s.phase h = p
  · rw [Block.setPhase, if_pos hn, hn]
  · rw [Block.setPhase_eq hn, (Block.keepsCask_phaseLeft _).phase]
    split
    · rw [Block.holdEntered_phase, Block.phaseNoted_phase hp]
    · exact Block.phaseNoted_phase hp

/-- A change to another phase than HOLD cancels nothing. -/
theorem Block.setPhase_keeps (hp : p ≠ phHOLD) :
    ((s.setPhase h p cause).half h).cask = (s.half h).cask ∧ ((s.setPhase h p cause).half h).evn = (s.half h).evn := by
  by_cases hn : s.phase h = p
  · rw [Block.setPhase, if_pos hn]
    exact ⟨rfl, rfl⟩
  · have rest := Block.keepsCask_phaseLeft (s := s.phaseNoted h p cause) (h := h) (p := p) (s.phase h)
    rw [Block.setPhase_eq hn, if_neg hp]
    exact ⟨rest.cask.trans Block.phaseNoted_cask, rest.evn.trans Block.phaseNoted_evn⟩

section
variable (hn : s.phase h ≠ phHOLD)
include hn

theorem Block.setPhase_hold_cask : ((s.setPhase h phHOLD cause).half h).cask = [] := by
  rw [Block.setPhase_eq hn, if_pos rfl, (Block.keepsCask_phaseLeft _).cask, Block.holdEntered_cask]

theorem Block.setPhase_hold_evn :
    ((s.setPhase h phHOLD cause).half h).evn =
      (s.inOrder h (s.half h).cask).foldl (fun l e => s.enterRec h (s.outcome h e cHOST_CANCEL 0 0) l) (s.half h).evn := by
  have clock : s.SameClock (s.phaseNoted h phHOLD cause) h := Block.sameClock_phaseNoted
  rw [Block.setPhase_eq hn, if_pos rfl, (Block.keepsCask_phaseLeft _).evn, Block.holdEntered_evn, Block.phaseNoted_cask,
    Block.phaseNoted_evn, clock.inOrder, clock.enterRec, clock.outcome]

theorem Block.setPhase_hold_off : (s.setPhase h phHOLD cause).OutputsAreOff h := by
  rw [Block.setPhase_eq hn, if_pos rfl]
  refine Block.outputsAreOff_holdEntered.phaseLeft ?_
  rw [Block.holdEntered_phase, Block.phaseNoted_phase (by decide)]
  rfl
end

end Sys2Proof.Machine

open Sys2Proof Sys2Proof.Machine

/-- Settles O45: the entries are cancelled and the outputs switched off on entry to HOLD alone, and what else a change does reaches neither
cask nor records, nor switches an output on in HOLD. -/
theorem phaseChangeCancels : Obligations.PhaseChangeCancels := by
  rintro s t h p cause hp rfl
  refine ⟨Block.setPhase_phase hp, Block.setPhase_keeps, ?_⟩
  rintro rfl hn
  obtain ⟨inj, bhs, hb, -, evo⟩ := Block.outputsAreOff_iff.1 (Block.setPhase_hold_off (cause := cause) hn)
  refine ⟨Block.setPhase_hold_cask hn, Block.setPhase_hold_evn hn, ?_, inj, bhs, hb, evo⟩
  rw [Block.setPhase_hold_evn hn]
  exact (Block.foldl_enterRec_perm _).trans ((Block.inOrder_perm.map _).append_left _)
end

section
/-!
The commands on configurations, schedules, events, trims, phase and mode: each body by its conditions, in the order in which it asks for
them (rules R144, R155, R186, R188, R367, R370, R371, R373, R404, R406, R408).
-/

namespace Sys2Proof.Machine

variable {s b : Block} {h : HalfId} {secure : Bool} {code id len limit arg : Nat} {seq : BitVec 10} {pay ws : List Word} {x : Stream}

/-! ## Bodies that act on the block -/

/-- An accepted command whose body acts on the block: the block as the body leaves it, with the body's words as the reply. -/
theorem State.cmd_onBlk_of_accepts {s : State} {f : Block → Block × List Word} (ha : s.blk.accepts h secure code seq pay = true)
    (hf : f s.blk = (b, ws)) (hc : code < 256 := by decide) :
    s.cmd h secure code seq pay (onBlk f) = .next { s with blk := b.reply h secure (header code pay.length seq.toNat) ws } := by
  rw [cmd_of_accepts _ hc ha, onBlk, hf]

/-! ## Streams and long commands -/

theorem Block.openCmd_of_open (hs : (s.stream? h true id).isSome = true) :
    s.openCmd h code id len limit arg = (s, no cCONFIG_INVALID rsSTREAM 1) := if_pos hs

theorem Block.openCmd_of_long (hs : (s.stream? h true id).isSome = false) (hl : limit < len) :
    s.openCmd h code id len limit arg = (s, no cCONFIG_INVALID rsSTREAM 2) := by
  simp [Block.openCmd, hs, hl]

theorem Block.openCmd_of_free (hs : s.stream? h true id = none) (hl : len ≤ limit) :
    s.openCmd h code id len limit arg = (s.openStream h ⟨id, true, code, len, arg, [], 0⟩, [stOK]) := by
  simp [Block.openCmd, hs, Nat.not_lt.2 hl]

section
variable {opener : Nat} {k : List Word → Block → Block × List Word}

theorem Block.closeCmd_of_other (hs : (s.stream? h true id).map Stream.code ≠ some opener) :
    s.closeCmd h opener id k = (s, no cCONFIG_INVALID rsSTREAM 1) := by
  unfold Block.closeCmd
  split
  next y hy => exact if_pos fun hc => hs (by rw [hy, Option.map_some, hc])
  next => rfl

variable (hs : s.stream? h true id = some x) (hc : x.code = opener)
include hs hc

theorem Block.closeCmd_of_incomplete (hw : x.complete = false) : s.closeCmd h opener id k = (s, no cCONFIG_INVALID rsINCOMPLETE 1) := by
  simp [Block.closeCmd, hs, hc, hw]

theorem Block.closeCmd_of_whole (hw : x.complete = true) : s.closeCmd h opener id k = k x.words (s.closeStream h true id) := by
  simp [Block.closeCmd, hs, hc, hw]
end

/-! ## Configurations -/

theorem cfgOpen_of_open (ho : s.cfgIsOpen h = true) : cfgOpen h pay s = (s, no cCONFIG_INVALID rsSTREAM 0) := if_pos ho

section
variable (ho : s.cfgIsOpen h = false)
include ho

theorem cfgOpen_of_stream (hs : (s.stream? h true (bits (pw pay 1) 23 20)).isSome = true) :
    cfgOpen h pay s = (s, no cCONFIG_INVALID rsSTREAM 1) := by
  have refused : no cCONFIG_INVALID rsSTREAM 1 ≠ [stOK] := by decide
  simp [cfgOpen, ho, Block.openCmd_of_open hs, refused]

theorem cfgOpen_of_long (hs : (s.stream? h true (bits (pw pay 1) 23 20)).isSome = false)
    (hl : (if bits (pw pay 1) 19 16 = 0 then 98304 else 2048) < pw pay 2) : cfgOpen h pay s = (s, no cCONFIG_INVALID rsSTREAM 2) := by
  have refused : no cCONFIG_INVALID rsSTREAM 2 ≠ [stOK] := by decide
  simp [cfgOpen, ho, Block.openCmd_of_long hs hl, refused]

theorem cfgOpen_of_free (hs : s.stream? h true (bits (pw pay 1) 23 20) = none)
    (hl : pw pay 2 ≤ (if bits (pw pay 1) 19 16 = 0 then 98304 else 2048)) :
    cfgOpen h pay s =
      (((s.openStream h ⟨bits (pw pay 1) 23 20, true, 0x10, pw pay 2, bits (pw pay 1) 19 16, [], 0⟩).modHip h
        fun x => { x with cfg := 1 }).setPhase h phHOLD 0, [stOK]) := by
  simp [cfgOpen, ho, Block.openCmd_of_free hs hl]
end

theorem cfgCommit_of_none (hs : s.cfgStream h = none) : cfgCommit h secure seq pay s = (s, no cCONFIG_INVALID rsSTREAM 0) := by
  simp [cfgCommit, hs]

theorem cfgCommit_of_whole (hs : s.cfgStream h = some x) (hw : x.complete = true) :
    cfgCommit h secure seq pay s =
      (s.closeStream h true x.id).startLong h 0x11 secure seq false 0 ([wd x.id, wd x.len, wd x.arg] ++ pay ++ x.words) := by
  simp [cfgCommit, hs, hw]

theorem cfgCommit_of_incomplete (hs : s.cfgStream h = some x) (hw : x.complete = false) :
    cfgCommit h secure seq pay s =
      (s.modHip h fun y => { y with
        long := some ⟨0x11, secure, seq.toNat, false, 1, false, false, statusWord cCONFIG_INVALID rsINCOMPLETE 0, [1, 0, 0]⟩ },
       [stPENDING]) := by
  simp [cfgCommit, hs, hw, Block.startLong, Block.modHip]

theorem cfgAbort_of_closed (ho : s.cfgIsOpen h = false) : cfgAbort h s = (s, no cCONFIG_INVALID rsSTREAM 0) := by
  simp [cfgAbort, ho]

theorem cfgAbort_of_committing {c : LongCmd} (hl : (s.half h).hip.long = some c) (hc : c.code = 0x11) (ha : c.arg = 0) :
    cfgAbort h s = (s, no cCONFIG_INVALID rsSTREAM 0) := by
  simp [cfgAbort, hl, hc, ha]

/-- A configuration that is open, and whose commit is not under way, goes back; its stream closes where it is open still. -/
theorem cfgAbort_of_open (ho : s.cfgIsOpen h = true)
    (hl : (s.half h).hip.long.all (fun c => c.code != 0x11 || c.arg != 0) = true) :
    cfgAbort h s = (((s.cfgStream h).elim s fun y => s.closeStream h true y.id).cfgBack h, [stOK]) := by
  have idle : (match (s.half h).hip.long with | some c => c.code == 0x11 && c.arg == 0 | none => false) = false := by
    cases hc : (s.half h).hip.long with
    | none => rfl
    | some c => simpa [hc, bne, ← Bool.not_and] using hl
  unfold cfgAbort
  dsimp only
  rw [if_neg (by simp only [ho, Bool.not_true, Bool.false_or, Bool.not_eq_true]; exact idle)]
  cases s.cfgStream h <;> rfl

/-! ## Schedules -/

theorem Block.drawWords_eq (n : Nat) :
    ∃ ws : List Word, ws.length = n ∧ Block.drawWords n s = (ws, { s with fresh := s.fresh + n }) := by
  induction n generalizing s with
  | zero => exact ⟨[], rfl, rfl⟩
  | succ n ih =>
    obtain ⟨ws, hn, hw⟩ := ih (s := s.draw.2)
    refine ⟨wd s.draw.1 :: ws, by simp [hn], ?_⟩
    rw [Nat.add_comm n 1, ← Nat.add_assoc, Nat.add_comm 1 n, Block.drawWords]
    rw [hw]
    rfl

theorem schedStatus_of_inUse (hu : s.inUse h = some ws) :
    schedStatus h s =
      (s, [stOK, wd (s.half h).sched.active,
        wd (s.f h F.ADM_STAT_SCHED * 2 ^ 23 + s.f h F.ADM_STAT_CERT_OK * 2 ^ 22 + s.mode h * 2 ^ 18)] ++
          (ws.drop 20).take 11 ++ [nth 0 ws 31]) := by
  simp [schedStatus, hu]

/-- With no image in use its words are free values. -/
theorem schedStatus_of_unused (hu : s.inUse h = none) :
    ∃ ws : List Word, ws.length = 12 ∧ schedStatus h s =
      ({ s with fresh := s.fresh + 12 }, [stOK, wd (s.half h).sched.active,
        wd (s.f h F.ADM_STAT_SCHED * 2 ^ 23 + s.f h F.ADM_STAT_CERT_OK * 2 ^ 22 + s.mode h * 2 ^ 18)] ++ ws) := by
  obtain ⟨ws, hn, hw⟩ := Block.drawWords_eq (s := s) 12
  exact ⟨ws, hn, by simp [schedStatus, hu, hw]⟩

/-- An image that SCHED_DELETE names: of the set, and of the mode unless every mode is named. -/
def deletes (pay : List Word) (i : Image) : Bool := i.setId == pw pay 1 && (bits (pw pay 2) 19 19 == 1 || i.mode == bits (pw pay 2) 23 20)

section
variable (hi : (s.half h).sched.store.any (deletes pay) = true)
include hi

theorem schedDelete_of_stored (ha : (s.half h).sched.active ≠ pw pay 1) :
    schedDelete h pay s = (s.modSched h fun y => { y with store := y.store.filter fun i => !deletes pay i }, [stOK]) :=
  (if_neg (ne_true_of_eq_false (congrArg not hi))).trans (if_neg ha)

theorem schedDelete_of_active (ha : (s.half h).sched.active = pw pay 1) : schedDelete h pay s = (s, no cPHASE 0 0) :=
  (if_neg (ne_true_of_eq_false (congrArg not hi))).trans (if_pos ha)
end

theorem schedDelete_of_no_mode (hi : (s.half h).sched.store.any (deletes pay) = false)
    (hs : (s.half h).sched.store.any (fun i => i.setId == pw pay 1) = true) :
    schedDelete h pay s = (s, no cCONFIG_INVALID rsNOT_FOUND 2) :=
  (if_pos (congrArg not hi)).trans (congrArg (fun n => (s, no cCONFIG_INVALID rsNOT_FOUND n)) (if_pos hs))

theorem schedDelete_of_no_set (hs : (s.half h).sched.store.any (fun i => i.setId == pw pay 1) = false) :
    schedDelete h pay s = (s, no cCONFIG_INVALID rsNOT_FOUND 1) := by
  have hi : (s.half h).sched.store.any (deletes pay) = false := by
    rw [List.any_eq_false] at hs ⊢
    exact fun i hi hd => hs i hi (Bool.and_elim_left hd)
  exact (if_pos (congrArg not hi)).trans
    (congrArg (fun n => (s, no cCONFIG_INVALID rsNOT_FOUND n)) (if_neg (ne_true_of_eq_false hs)))

/-! ## Trims -/

theorem trimSet_of_inactive (ha : (s.half h).sched.active = 0) : trimSet h pay s = (s, no cPHASE 0 0) := if_pos ha

theorem trimRead_of_inactive (ha : (s.half h).sched.active = 0) : trimRead h pay s = no cPHASE 0 0 := if_pos ha

section
variable (ha : (s.half h).sched.active ≠ 0)
include ha

theorem trimSet_of_refused
    (hw : trimPairs s h (bits (pw pay 1) 23 20) 1 (s.half h).sched.trims (pay.drop 1) = .inl ws) : trimSet h pay s = (s, ws) := by
  rw [trimSet, if_neg ha, hw]

theorem trimSet_of_good {l : List Trim}
    (hl : trimPairs s h (bits (pw pay 1) 23 20) 1 (s.half h).sched.trims (pay.drop 1) = .inr l) :
    trimSet h pay s = ((s.modSched h fun x => { x with trims := l }).relatch h, [stOK]) := by
  rw [trimSet, if_neg ha, hl]

theorem trimRead_of_unknown (hr : s.recordOf h (bits (pw pay 1) 23 20) (bits (pw pay 2) 21 16) (bits (pw pay 2) 9 0) = none) :
    trimRead h pay s = no cCONFIG_INVALID rsNOT_FOUND 1 := by
  simp [trimRead, ha, hr]

variable {r : ERec} (hr : s.recordOf h (bits (pw pay 1) 23 20) (bits (pw pay 2) 21 16) (bits (pw pay 2) 9 0) = some r)
include hr

theorem trimRead_of_untrimmable (ht : r.trim = false) : trimRead h pay s = no cCONFIG_INVALID rsNOT_TRIMMABLE 1 := by
  simp [trimRead, ha, hr, ht]

theorem trimRead_of_trim (ht : r.trim = true) {t : Trim}
    (hf : (s.half h).sched.trims.find? (fun t => t.isFor (s.half h).sched.active (bits (pw pay 1) 23 20) (bits (pw pay 2) 21 16)
      (bits (pw pay 2) 9 0)) = some t) : trimRead h pay s = [stOK, pairWord t.hostP, pairWord t.hostA, pairWord t.anpA] := by
  simp [trimRead, ha, hr, ht, hf]
end

/-! ## Phase and mode -/

theorem phaseSet_of_open (ho : s.cfgIsOpen h = true) (hp : pw pay 1 ≠ phHOLD) : phaseSet h pay s = (s, no cPHASE 0 0) := by
  simp [phaseSet, ho, hp]

theorem phaseSet_of_no_move (hm : phaseMove (s.phase h) (pw pay 1) = false) : phaseSet h pay s = (s, no cPHASE 0 0) := by
  simp [phaseSet, hm]

section
variable (ho : s.cfgIsOpen h = false) (hm : phaseMove (s.phase h) (pw pay 1) = true)
include ho hm

theorem phaseSet_of_split (hp : s.phase h = phHOLD) (hl : s.mayLeaveHold h = false) :
    phaseSet h pay s = (s, no cCONFIG_INVALID 0 0) := by
  rw [hp] at hm
  simp [phaseSet, ho, hm, hp, hl]

theorem phaseSet_of_move (hl : s.phase h = phHOLD → s.mayLeaveHold h = true) :
    phaseSet h pay s = (s.setPhase h (pw pay 1) 0, [stOK]) := by
  have free : ¬ (decide (s.phase h = phHOLD) && !s.mayLeaveHold h) = true := by simpa using hl
  simp only [phaseSet, ho, hm, Bool.false_and, Bool.not_true, Bool.false_eq_true, if_false]
  exact if_neg free
end

theorem modeSet_of_unknown (hm : (s.half h).hip.hasMode (pw pay 1) = false) : modeSet h pay s = (s, no cCONFIG_INVALID rsNOT_FOUND 1) :=
  if_pos (congrArg not hm)

theorem modeSet_of_known (hm : (s.half h).hip.hasMode (pw pay 1) = true) :
    modeSet h pay s =
      (((s.setF h F.ADM_STAT_NEXTMODE (pw pay 1)).setF h F.ADM_STAT_MODEPEND (bitOf (pw pay 1 != s.mode h))).send h
        (.nextMode (pw pay 1) (pw pay 1 != s.mode h)), [stOK]) :=
  if_neg (ne_true_of_eq_false (congrArg not hm))

end Sys2Proof.Machine

open Sys2Proof Sys2Proof.Machine

/-- Settles O33, command by command: what its body does under each of its conditions is the reply and the effect of the command. -/
theorem scheduleCommandsComplete : Obligations.ScheduleCommandsComplete :=
  ⟨fun _ _ _ _ _ ha ho hs hl => State.cmd_onBlk_of_accepts ha (cfgOpen_of_free ho hs hl),
   fun _ _ _ _ _ _ ha hs hw => State.cmd_onBlk_of_accepts ha (cfgCommit_of_whole hs hw),
   fun _ _ _ _ _ _ ha hs hw => State.cmd_onBlk_of_accepts ha (cfgCommit_of_incomplete hs hw),
   fun _ _ _ _ _ _ ha ho hl hs => State.cmd_onBlk_of_accepts ha ((cfgAbort_of_open ho hl).trans (by rw [hs]; rfl)),
   fun _ _ _ _ _ ha ho hl hs => State.cmd_onBlk_of_accepts ha ((cfgAbort_of_open ho hl).trans (by rw [hs]; rfl)),
   fun _ _ _ _ _ ha => State.cmd_onBlk_of_accepts ha rfl,
   fun _ _ _ _ _ ha hs hl => State.cmd_onBlk_of_accepts ha (Block.openCmd_of_free hs hl),
   fun _ _ _ _ _ _ ha hs hc hw => State.cmd_onBlk_of_accepts ha (Block.closeCmd_of_whole hs hc hw),
   fun _ _ _ _ _ _ ha hs hc hw => State.cmd_onBlk_of_accepts ha (Block.closeCmd_of_incomplete hs hc hw),
   fun _ _ _ _ _ ha hv hb ho => State.cmd_onBlk_of_accepts ha (if_neg (by simp [hv, hb, ho])),
   fun _ _ _ _ _ ha hv => State.cmd_onBlk_of_accepts ha (if_pos (by simp [hv])),
   fun _ _ _ _ _ ha => State.cmd_onBlk_of_accepts ha rfl,
   fun _ _ _ _ _ _ ha hu => State.cmd_onBlk_of_accepts ha (schedStatus_of_inUse hu),
   fun _ _ _ _ _ ha hu => (schedStatus_of_unused hu).imp fun _ ⟨hn, hw⟩ => ⟨hn, State.cmd_onBlk_of_accepts ha hw⟩,
   fun _ _ _ _ _ _ ha hl => State.cmd_onBlk_of_accepts ha (by rw [hl]; rfl),
   fun _ _ _ _ _ ha hi hs => State.cmd_onBlk_of_accepts ha (schedDelete_of_stored hi hs),
   fun _ _ _ _ _ ha hi hs => State.cmd_onBlk_of_accepts ha (schedDelete_of_active hi hs),
   fun _ _ _ _ _ _ ha => State.cmd_onBlk_of_accepts ha rfl,
   fun _ _ _ _ _ ha => State.cmd_onBlk_of_accepts ha rfl,
   fun _ _ _ _ _ _ ha hs hl => State.cmd_onBlk_of_accepts ha (trimSet_of_good hs hl),
   fun _ _ _ _ _ _ ha hs hw => State.cmd_onBlk_of_accepts ha (trimSet_of_refused hs hw),
   fun _ _ _ _ _ _ _ ha hs hr ht hf => State.cmd_onBlk_of_accepts ha (congrArg _ (trimRead_of_trim hs hr ht hf)),
   fun _ _ _ _ _ ha => State.cmd_onBlk_of_accepts ha rfl,
   fun _ _ _ _ _ ha ho hm hp => State.cmd_onBlk_of_accepts ha (phaseSet_of_move ho hm fun e => absurd e hp),
   fun _ _ _ _ _ ha hm => State.cmd_onBlk_of_accepts ha (phaseSet_of_no_move hm),
   fun _ _ _ _ _ ha hm => State.cmd_onBlk_of_accepts ha (modeSet_of_known hm),
   fun _ _ _ _ _ ha ho => State.cmd_onBlk_of_accepts ha (cfgOpen_of_open ho),
   fun _ _ _ _ _ ha ho hs => State.cmd_onBlk_of_accepts ha (cfgOpen_of_stream ho hs),
   fun _ _ _ _ _ ha ho hs hl => State.cmd_onBlk_of_accepts ha (cfgOpen_of_long ho hs hl),
   fun _ _ _ _ _ _ ha hl hc hg => State.cmd_onBlk_of_accepts ha (cfgAbort_of_committing hl hc hg),
   fun _ _ _ _ _ ha hs => State.cmd_onBlk_of_accepts ha (cfgCommit_of_none hs),
   fun _ _ _ _ _ ha ho => State.cmd_onBlk_of_accepts ha (cfgAbort_of_closed ho),
   fun _ _ _ _ _ ha hs => State.cmd_onBlk_of_accepts ha (Block.openCmd_of_open hs),
   fun _ _ _ _ _ ha hs hl => State.cmd_onBlk_of_accepts ha (Block.openCmd_of_long hs hl),
   fun _ _ _ _ _ ha hs => State.cmd_onBlk_of_accepts ha (Block.closeCmd_of_other hs),
   fun _ _ _ _ _ ha hp => State.cmd_onBlk_of_accepts ha (if_pos (by obtain hp | hp := hp <;> simp [hp])),
   fun _ _ _ _ _ ha hs => State.cmd_onBlk_of_accepts ha (schedDelete_of_no_set hs),
   fun _ _ _ _ _ ha hi hs => State.cmd_onBlk_of_accepts ha (schedDelete_of_no_mode hi hs),
   fun _ _ _ _ _ ha hs => State.cmd_onBlk_of_accepts ha (trimSet_of_inactive hs),
   fun _ _ _ _ _ ha hs => State.cmd_onBlk_of_accepts ha (congrArg _ (trimRead_of_inactive hs)),
   fun _ _ _ _ _ ha hs hr => State.cmd_onBlk_of_accepts ha (congrArg _ (trimRead_of_unknown hs hr)),
   fun _ _ _ _ _ _ ha hs hr ht => State.cmd_onBlk_of_accepts ha (congrArg _ (trimRead_of_untrimmable hs hr ht)),
   fun _ _ _ _ _ ha ho hp => State.cmd_onBlk_of_accepts ha (phaseSet_of_open ho hp),
   fun _ _ _ _ _ ha ho hm _ hl => State.cmd_onBlk_of_accepts ha (phaseSet_of_move ho hm fun _ => hl),
   fun _ _ _ _ _ ha ho hm hp hl => State.cmd_onBlk_of_accepts ha (phaseSet_of_split ho hm hp hl),
   fun _ _ _ _ _ ha hm => State.cmd_onBlk_of_accepts ha (modeSet_of_unknown hm)⟩
end

section
/-!
The trip registers: what the switching of outputs, the boost arbiters and the error log leave of them, and what a trip and a clear write
there (rules R215 to R219).
-/

namespace Sys2Proof.Machine

variable {s t u : Block} {o : Output} {h : HalfId} {x : Fld} {n m c i v : Nat}

/-! ## The bits of a trip register -/

/-- The bit that holds an output's latch; the one below it is CLRREF. -/
def Output.latchBit : Output → Nat
  | .evo _ => 22
  | _ => 23

theorem Output.latchFld_eq (o : Output) : o.latchFld = o.causeFld o.latchBit := by cases o <;> rfl

theorem Output.clrrefFld_eq (o : Output) : o.clrrefFld = o.causeFld (o.latchBit - 1) := by cases o <;> rfl

theorem Output.latchBit_bounds (o : Output) : 22 ≤ o.latchBit ∧ o.latchBit < 24 := by
  cases o <;> simp [Output.latchBit]

/-- A bit of a trip register reads as it was written, and every other one as before. -/
theorem Block.setF_causeFld_on (hc : c < 24) (b : Nat) :
    (s.setF .a (o.causeFld c) v o.reg.2).on .a (o.causeFld b) o.reg.2 =
      if b = c then v % 2 == 1 else s.on .a (o.causeFld b) o.reg.2 := by
  have ok : (o.causeFld c).ok := ⟨Nat.le_refl c, hc⟩
  unfold Block.on
  split
  next e =>
    rw [e, Block.setF_f_same _ _ _ _ _ _ ok]
    simp [Output.causeFld]
  next e =>
    have apart : c < b ∨ b < c := Nat.lt_or_gt_of_ne (Ne.symm e)
    rw [Block.setF_f_disjoint s .a (o.causeFld c) (o.causeFld b) _ _ _ ok rfl apart]

/-! ## What leaves a trip register -/

/-- An update leaves the trip register of output `o`, and gives no channel a boost switch that it did not hold. -/
structure Block.KeepsTrip (s t : Block) (o : Output) : Prop where
  word : t.w .a o.reg.1 o.reg.2 = s.w .a o.reg.1 o.reg.2
  grant : ∀ k m, (t.bhsOf k).holder = some m → (s.bhsOf k).holder = some m

/-- The trip registers stand at odd addresses of the drive die. -/
theorem Output.reg_addr_odd (o : Output) : 0x800000 ≤ o.reg.1.addr .a o.reg.2 0 ∧ o.reg.1.addr .a o.reg.2 0 % 2 = 1 := by
  cases o <;> simp [Output.reg, Reg.addr, Reg.info] <;> omega

/-- The status of the injector channels, of their boost switches and of the half-bridges. -/
def stageStats : List Reg := [.INJ_STAT, .BHS_STAT, .HB_STAT]

/-- The words of those registers stand at even addresses. -/
theorem stageStats_addr_even {r : Reg} (hr : r ∈ stageStats) (h : HalfId) (i : Nat) : r.addr h i 0 % 2 = 0 := by
  simp only [stageStats, List.mem_cons, List.not_mem_nil, or_false] at hr
  obtain rfl | rfl | rfl := hr <;> simp [Reg.addr, Reg.info] <;> omega

namespace Block.KeepsTrip

theorem refl : s.KeepsTrip s o := ⟨rfl, fun _ _ hm => hm⟩

theorem trans (a : s.KeepsTrip t o) (b : t.KeepsTrip u o) : s.KeepsTrip u o :=
  ⟨b.word.trans a.word, fun k m hm => a.grant k m (b.grant k m hm)⟩

theorem ite {c : Prop} [Decidable c] (a : s.KeepsTrip t o) (b : s.KeepsTrip u o) : s.KeepsTrip (if c then t else u) o := by
  split
  · exact a
  · exact b

theorem on_causeFld (a : s.KeepsTrip t o) (b : Nat) : t.on .a (o.causeFld b) o.reg.2 = s.on .a (o.causeFld b) o.reg.2 :=
  congrArg (fun w => bits (BitVec.toNat w) b b == 1) a.word

theorem tripped (a : s.KeepsTrip t o) : t.tripped o = s.tripped o := by
  simp only [Block.tripped, o.latchFld_eq, a.on_causeFld]

/-- A word at another address is written. -/
theorem setF (a : s.KeepsTrip t o) (v : Nat) (ha : o.reg.1.addr .a o.reg.2 0 ≠ x.reg.addr h i 0) : s.KeepsTrip (t.setF h x v i) o :=
  a.trans ⟨Block.setF_w_ne t h .a x o.reg.1 v i 0 o.reg.2 0 ha, fun _ _ hm => hm⟩

/-- A field of a stage's status is written. -/
theorem setStat (a : s.KeepsTrip t o) (x : Fld) (v i : Nat) (hx : x.reg ∈ stageStats := by decide) : s.KeepsTrip (t.setF .a x v i) o := by
  refine a.setF v fun e => ?_
  have odd := o.reg_addr_odd.2
  rw [e, stageStats_addr_even hx] at odd
  exact absurd odd (by decide)

theorem modHalf (a : s.KeepsTrip t o) (h : HalfId) (f : Half → Half) : s.KeepsTrip (t.modHalf h f) o :=
  a.trans ⟨Block.modHalf_w .., fun k m hm => by simpa [Block.bhsOf] using hm⟩

theorem modWear (a : s.KeepsTrip t o) (h : HalfId) (r : Nat) (f : Wear → Wear) : s.KeepsTrip (t.modWear h r f) o :=
  a.modHalf h fun y => { y with tal := _ }

end Block.KeepsTrip

theorem Block.keepsTrip_with_latchAt (l : List (Option Nat)) : s.KeepsTrip { s with latchAt := l } o := ⟨rfl, fun _ _ hm => hm⟩

theorem Block.keepsTrip_setChop (y : Chop) : s.KeepsTrip (s.setChop n y) o := ⟨rfl, fun _ _ hm => hm⟩

theorem Block.setBhs_holder {y : Bhs} {k : Nat} (hm : ((s.setBhs n y).bhsOf k).holder = some m) :
    n = k ∧ y.holder = some m ∨ n ≠ k ∧ (s.bhsOf k).holder = some m := by
  simp only [Block.bhsOf, Block.setBhs, nth, List.getElem?_set] at hm ⊢
  split at hm
  next e =>
    split at hm
    · exact .inl ⟨e, hm⟩
    · simp at hm
  next e => exact .inr ⟨e, hm⟩

theorem Block.keepsTrip_setBhs {y : Bhs} (hy : ∀ m, y.holder = some m → (s.bhsOf n).holder = some m) : s.KeepsTrip (s.setBhs n y) o := by
  refine ⟨rfl, fun k m hm => ?_⟩
  obtain ⟨rfl, hm⟩ | ⟨-, hm⟩ := Block.setBhs_holder hm
  · exact hy m ‹_›
  · exact ‹_›

theorem Block.keepsTrip_injOff : s.KeepsTrip (s.injOff n) o :=
  ((Block.KeepsTrip.refl.setStat F.INJ_STAT_LS 0 n).setStat F.INJ_STAT_HSB 0 n).setStat F.INJ_STAT_BOOST 0 n

theorem Block.keepsTrip_gateEdges (old : Block) : s.KeepsTrip (s.gateEdges old n) o := by
  have chopped {b c : Chop} {p q : Prop} [Decidable p] [Decidable q] :
      s.KeepsTrip (if p then s.setChop n b else if q then s.setChop n c else s) o :=
    .ite (Block.keepsTrip_setChop b) (.ite (Block.keepsTrip_setChop c) .refl)
  exact .ite (chopped.modWear ..) chopped

theorem Block.keepsTrip_gate (ls hsb boost : Bool) : s.KeepsTrip (s.gate n ls hsb boost) o := by
  unfold Block.gate
  extract_lets one s1 on s2
  have channel (t : Block) (c : Nat) : t.KeepsTrip (one t c) o :=
    (Block.KeepsTrip.ite (((Block.KeepsTrip.refl.setStat _ _ c).setStat _ _ c).setStat _ _ c) Block.keepsTrip_injOff).trans
      (Block.keepsTrip_gateEdges t)
  have gated : s.KeepsTrip s1 o := .ite ((channel s n).trans (channel _ _)) (channel s n)
  exact (Block.KeepsTrip.ite (gated.modWear ..) gated).setStat F.BHS_STAT_ON _ _

theorem Block.keepsTrip_drive (ls hsb boost : Bool) : s.KeepsTrip (s.drive n ls hsb boost) o :=
  .ite .refl (Block.keepsTrip_gate ls hsb boost)

theorem Block.keepsTrip_bhsWithdraw : s.KeepsTrip (s.bhsWithdraw n) o :=
  .ite ((Block.keepsTrip_setBhs (y := { s.bhsOf (n / 2) with waiter := none }) fun _ hm => hm).setStat F.BHS_STAT_CONTEND 0 _) .refl

/-- The boost switch of a channel's pair as the channel that holds it leaves it: held by none, in changeover. -/
def Block.bhsFreed (s : Block) (n : Nat) : Block :=
  (s.setBhs (n / 2) { s.bhsOf (n / 2) with holder := none, change := true }).setF .a F.BHS_STAT_ON 0 (n / 2)

theorem Block.keepsTrip_bhsFreed : s.KeepsTrip (s.bhsFreed n) o :=
  (Block.keepsTrip_setBhs fun _ hm => absurd hm (Option.some_ne_none _).symm).setStat F.BHS_STAT_ON 0 _

theorem Block.bhsFreed_holder : ((s.bhsFreed n).bhsOf (n / 2)).holder ≠ some (n % 2) := by
  rw [Block.bhsOf, Block.bhsFreed, Block.setF_bhs]
  intro hm
  obtain ⟨-, hy⟩ | ⟨hk, -⟩ := Block.setBhs_holder hm
  · exact Option.some_ne_none _ hy.symm
  · exact hk rfl

/-- What a partner that waited then does leaves the switch free. -/
theorem Block.bhsRelease_of_holder (hs : (s.bhsOf (n / 2)).holder = some (n % 2)) : (s.bhsFreed n).KeepsTrip (s.bhsRelease n) o := by
  unfold Block.bhsRelease
  dsimp only
  rw [if_pos hs]
  exact .ite (Block.keepsTrip_drive ..) .refl

theorem Block.bhsRelease_of_other (hs : (s.bhsOf (n / 2)).holder ≠ some (n % 2)) : s.bhsRelease n = s := if_neg hs

theorem Block.keepsTrip_bhsRelease : s.KeepsTrip (s.bhsRelease n) o := by
  by_cases hs : (s.bhsOf (n / 2)).holder = some (n % 2)
  · exact Block.keepsTrip_bhsFreed.trans (Block.bhsRelease_of_holder hs)
  · rw [Block.bhsRelease_of_other hs]
    exact .refl

/-- A channel that has given up its boost switch does not hold it. -/
theorem Block.bhsRelease_holder : ((s.bhsRelease n).bhsOf (n / 2)).holder ≠ some (n % 2) := by
  by_cases hs : (s.bhsOf (n / 2)).holder = some (n % 2)
  · exact fun hm => Block.bhsFreed_holder ((Block.bhsRelease_of_holder (o := .bhs 0) hs).grant _ _ hm)
  · rwa [Block.bhsRelease_of_other hs]

theorem Block.keepsTrip_resumeSeq (sh : Shot) : s.KeepsTrip (s.resumeSeq n sh) o := by
  unfold Block.resumeSeq
  dsimp only
  split
  · exact .ite (Block.keepsTrip_gate ..) (.ite (Block.keepsTrip_gate ..) (Block.keepsTrip_gate ..))
  · exact Block.keepsTrip_gate ..
  · exact Block.keepsTrip_gate ..

theorem Block.keepsTrip_applyForce : s.KeepsTrip (s.applyForce h n) o := by
  unfold Block.applyForce
  dsimp only
  split
  · exact .ite (Block.keepsTrip_gate ..) ((Block.keepsTrip_gate ..).trans Block.keepsTrip_bhsWithdraw)
  split
  · exact Block.keepsTrip_resumeSeq _
  · exact ((Block.keepsTrip_gate ..).trans Block.keepsTrip_bhsWithdraw).trans Block.keepsTrip_bhsRelease

theorem Block.keepsTrip_hbDrive : s.KeepsTrip (s.hbDrive n) o :=
  (((Block.KeepsTrip.ite (Block.KeepsTrip.refl.modWear ..) .refl).setStat F.HB_STAT_HS _ n).setStat F.HB_STAT_LS _ n).setStat
    F.HB_STAT_SHOOT _ n

theorem Block.keepsTrip_follow (q : Output) : s.KeepsTrip (s.follow q) o := by
  cases q with
  | hb _ => exact Block.keepsTrip_hbDrive
  | inj _ => exact .ite Block.keepsTrip_applyForce .refl
  | bhs _ | bst _ | evo _ => exact .refl

theorem Block.keepsTrip_shotTripped : s.KeepsTrip (s.shotTripped n) o := by
  unfold Block.shotTripped
  dsimp only
  split
  · exact Block.KeepsTrip.refl.modHalf ..
  · exact .refl

/-- A report that is lost is counted in the half's own region. -/
theorem Block.keepsTrip_report {block : Nat} (hb : block < 32) (code cls index detail : Nat) :
    s.KeepsTrip (s.report h code cls block index detail) o := by
  have die := o.reg_addr_odd.1
  have loss : Reg.LOG_LOSS.addr h block 0 < 0x800000 := by cases h <;> simp [Reg.addr, Reg.info] <;> omega
  have err : Reg.HLM_ERR.addr h 0 0 < 0x800000 := by cases h <;> decide
  unfold Block.report Block.reportAs
  dsimp only
  split
  · exact Block.KeepsTrip.refl.modHalf h fun _ => _
  · have counted : s.KeepsTrip (s.count h F.LOG_LOSS_LOST block) o :=
      .ite (Block.KeepsTrip.refl.setF _ (Nat.ne_of_gt (Nat.lt_of_lt_of_le loss die))) .refl
    exact (counted.setF (x := F.HLM_ERR_LOGLOSS) 1 (Nat.ne_of_gt (Nat.lt_of_lt_of_le err die))).modHalf ..

theorem Output.logBlock_lt (o : Output) : o.logBlock < 32 := by cases o <;> simp [Output.logBlock]

/-! ## The latch of an injector channel -/

/-- The trip register of a channel with a cause and its latch set. -/
def Block.injMarked (s : Block) (n : Fin 24) (c : Nat) : Block :=
  (s.setF .a ((Output.inj n).causeFld c) 1 n.val).setF .a F.INJ_TRIP_LATCH 1 n.val

/-- The channel goes off and gives up its boost switch, and its trip is reported: its register stays as marked. -/
theorem Block.keepsTrip_latchOne_inj (n : Fin 24) : (s.injMarked n c).KeepsTrip (s.latchOne (.inj n) c) o := by
  have off {b : Block} : b.KeepsTrip (b.outputOff (.inj n)) o :=
    (((Block.keepsTrip_gate ..).trans Block.keepsTrip_injOff).trans Block.keepsTrip_bhsWithdraw).trans Block.keepsTrip_bhsRelease
  have latched : (s.injMarked n c).KeepsTrip (s.setLatch (.inj n) c) o :=
    ((Block.KeepsTrip.ite .refl (Block.keepsTrip_with_latchAt _)).trans Block.keepsTrip_shotTripped).trans off
  exact .ite latched (latched.trans (Block.keepsTrip_report (Output.logBlock_lt _) ..))

theorem Output.reg_has (o : Output) : o.reg.1.has .a o.reg.2 0 = true := by
  cases o <;> simp [Output.reg, Reg.has, Reg.info]
  omega

/-- No two outputs share a trip register. -/
theorem Output.eq_of_addr_eq {q : Output} (ha : o.reg.1.addr .a o.reg.2 0 = q.reg.1.addr .a q.reg.2 0) : o = q := by
  obtain ⟨hr, hi, -⟩ := Reg.word_eq_of_addr_eq o.reg_has q.reg_has ha
  cases o <;> cases q <;> simp_all [Output.reg, Fin.ext_iff]

theorem Block.keepsTrip_injMarked {n : Fin 24} (hn : o ≠ .inj n) : s.KeepsTrip (s.injMarked n c) o :=
  have ha : o.reg.1.addr .a o.reg.2 0 ≠ (Output.inj n).reg.1.addr .a n.val 0 := fun e => hn (Output.eq_of_addr_eq e)
  (Block.KeepsTrip.refl.setF (x := (Output.inj n).causeFld c) 1 ha).setF (x := F.INJ_TRIP_LATCH) 1 ha

theorem Block.keepsTrip_latchOne_other {n : Fin 24} (hn : o ≠ .inj n) : s.KeepsTrip (s.latchOne (.inj n) c) o :=
  (Block.keepsTrip_injMarked hn).trans (Block.keepsTrip_latchOne_inj n)

/-- The latch of an output is set, with a cause. -/
def Block.Latched (s : Block) (o : Output) (c : Nat) : Prop := s.tripped o = true ∧ s.cause o c = true

theorem Block.KeepsTrip.latched (a : s.KeepsTrip t o) (hs : s.Latched o c) : t.Latched o c :=
  ⟨a.tripped.trans hs.1, (a.on_causeFld c).trans hs.2⟩

theorem Block.injMarked_latched (n : Fin 24) (hc : c < 9) : (s.injMarked n c).Latched (.inj n) c := by
  have latch (t : Block) (b : Nat) := Block.setF_causeFld_on (s := t) (o := .inj n) (c := 23) (v := 1) (by decide) b
  have mark := Block.setF_causeFld_on (s := s) (o := .inj n) (c := c) (v := 1) (by omega) c
  exact ⟨latch _ 23, (latch _ c).trans ((if_neg (by omega)).trans (mark.trans (if_pos rfl)))⟩

theorem Block.latchOne_latched (n : Fin 24) (hc : c < 9) : (s.latchOne (.inj n) c).Latched (.inj n) c :=
  (Block.keepsTrip_latchOne_inj n).latched (Block.injMarked_latched n hc)

/-- A channel stays latched with a cause while that cause latches it again or another channel. -/
theorem Block.Latched.latchOne {n : Fin 24} (hs : s.Latched (.inj n) c) (hc : c < 9) (m : Fin 24) :
    (s.latchOne (.inj m) c).Latched (.inj n) c := by
  by_cases e : n = m
  · rw [e]
    exact Block.latchOne_latched m hc
  · exact (Block.keepsTrip_latchOne_other fun hm => e (Output.inj.inj hm)).latched hs

/-- A trip of a channel latches it, and in a paralleled pair the partner after it (rule R219): what its own latching gives and every
latching keeps, the trip gives. -/
theorem Block.tripInj_induction {P : Block → Prop} (hn : n < 24) (own : P (s.latchOne (.inj ⟨n, hn⟩) c))
    (other : ∀ (t : Block) (m : Fin 24), P t → P (t.latchOne (.inj m) c)) : P (s.tripInj n c) := by
  unfold Block.tripInj
  dsimp only
  have partner (m : Nat) : P (if hm : m < 24 then (s.latchOne (.inj ⟨n, hn⟩) c).latchOne (.inj ⟨m, hm⟩) c
      else s.latchOne (.inj ⟨n, hn⟩) c) := by
    split
    · exact other _ _ own
    · exact own
  rw [dif_pos hn]
  split
  · exact partner _
  · exact own

theorem Block.tripInj_latched (n : Fin 24) (hc : c < 9) : (s.tripInj n c).Latched (.inj n) c :=
  Block.tripInj_induction (P := (·.Latched (.inj n) c)) n.isLt (Block.latchOne_latched n hc) fun _ m ht => ht.latchOne hc m

theorem Block.Latched.tripInj {n : Fin 24} (hs : s.Latched (.inj n) c) (hc : c < 9) (hm : m < 24) : (s.tripInj m c).Latched (.inj n) c :=
  Block.tripInj_induction (P := (·.Latched (.inj n) c)) hm (hs.latchOne hc _) fun _ k ht => ht.latchOne hc k

/-- A channel that trips holds its boost switch no longer (rule R219). -/
theorem Block.latchOne_inj_holder (n : Fin 24) : ((s.latchOne (.inj n) c).bhsOf (n / 2)).holder ≠ some (n.val % 2) := by
  have off : ((s.setLatch (.inj n) c).bhsOf (n / 2)).holder ≠ some (n.val % 2) := Block.bhsRelease_holder
  unfold Block.latchOne
  dsimp only
  split
  · exact off
  · exact fun hm => off ((Block.keepsTrip_report (o := .inj n) (Output.logBlock_lt _) ..).grant _ _ hm)

end Sys2Proof.Machine

open Sys2Proof Sys2Proof.Machine

/-- Settles O51: the two channels' latches are the last that a trip of their boost switch writes, and a channel's own trip writes neither
the latch of the switch nor a grant, and takes the channel's grant away. -/
theorem bhsTripReachesInjectors : Obligations.BhsTripReachesInjectors := by
  refine ⟨?_, ?_⟩
  · rintro s t k c rfl n hn
    have hk : n.val = 2 * k.val ∨ n.val = 2 * k.val + 1 := by omega
    have even : 2 * k.val < 24 := by omega
    obtain e | e := hk
    · have latched := Block.tripInj_latched (s := s.latchOne (.bhs k) c) n (c := caBHS) (by decide)
      rw [e] at latched
      exact latched.tripInj (by decide) (by omega)
    · have latched := Block.tripInj_latched (s := (s.latchOne (.bhs k) c).tripInj (2 * k) caBHS) n (c := caBHS) (by decide)
      rw [e] at latched
      exact latched
  · rintro s t n c k - hk rfl
    have other (b : Block) (m : Fin 24) : b.KeepsTrip (b.latchOne (.inj m) c) (.bhs k) := Block.keepsTrip_latchOne_other nofun
    refine Block.tripInj_induction (P := fun t => t.tripped (.bhs k) = s.tripped (.bhs k) ∧ (t.bhsOf k).holder ≠ some (n.val % 2))
      n.isLt ⟨(other s n).tripped, hk ▸ Block.latchOne_inj_holder n⟩ ?_
    rintro b m ⟨ht, hh⟩
    exact ⟨(other b m).tripped.trans ht, fun hm => hh ((other b m).grant _ _ hm)⟩
end

section
/-!
A 1 written to a trip latch: what the write clears, and what refuses it (rules R216, R218, R219, R457).
-/

namespace Sys2Proof.Machine

variable {s : Block} {o : Output} {holds : Bool} {b c : Nat}

/-- The causes but UV, in the order in which a clear takes them. -/
def latchingCauses : List Nat := [caOV, caBHS, caOC, caOT, caMAXON, caEXT, caSW, caSTUCK]

theorem latchingCauses_lt : ∀ c ∈ latchingCauses, c < 9 := by decide

theorem mem_latchingCauses (hc : c < 9) (hu : c ≠ caUV) : c ∈ latchingCauses := by
  revert c
  decide

/-- An EVO line has the causes SW and EXT only. -/
def Output.hasCause (o : Output) (c : Nat) : Bool := c == caSW || c == caEXT || (match o with | .evo _ => false | _ => true)

theorem Output.hasCause_of_stage (ho : ∀ e : Fin 48, o ≠ .evo e) (c : Nat) : o.hasCause c = true := by
  cases o with
  | evo e => exact absurd rfl (ho e)
  | inj _ | bhs _ | bst _ | hb _ => simp [Output.hasCause]

theorem Output.hasCause_of_evo (hc : ∀ e, o = .evo e → c = caSW ∨ c = caEXT) : o.hasCause c = true := by
  cases o with
  | evo e => obtain rfl | rfl := hc e rfl <;> rfl
  | inj _ | bhs _ | bst _ | hb _ => simp [Output.hasCause]

/-- Those of some causes that an output has, cleared. -/
def Block.clearCauses (s : Block) (o : Output) (l : List Nat) : Block :=
  l.foldl (fun t c => if o.hasCause c then t.setF .a (o.causeFld c) 0 o.reg.2 else t) s

/-- Clearing causes clears their bits and leaves the others. -/
theorem Block.clearCauses_on {l : List Nat} (hl : ∀ c ∈ l, c < 9) :
    (s.clearCauses o l).on .a (o.causeFld b) o.reg.2 = (s.on .a (o.causeFld b) o.reg.2 && !(decide (b ∈ l) && o.hasCause b)) := by
  induction l generalizing s with
  | nil => simp [Block.clearCauses]
  | cons c l ih =>
    obtain ⟨hc, hl⟩ := List.forall_mem_cons.1 hl
    have one : (if o.hasCause c then s.setF .a (o.causeFld c) 0 o.reg.2 else s).on .a (o.causeFld b) o.reg.2 =
        (s.on .a (o.causeFld b) o.reg.2 && !(decide (b = c) && o.hasCause b)) := by
      by_cases e : b = c
      · subst e
        cases hb : o.hasCause b <;> simp [Block.setF_causeFld_on (s := s) (Nat.lt_trans hc (by decide : 9 < 24))]
      · cases hb : o.hasCause c <;> simp [Block.setF_causeFld_on (s := s) (Nat.lt_trans hc (by decide : 9 < 24)), e]
    refine (ih hl).trans ?_
    rw [one]
    cases hb : o.hasCause b <;> simp [Bool.and_assoc]

theorem Block.clearRefused_iff : s.clearRefused o holds = true ↔
    holds = true ∨ s.extHolds o = true ∨ s.permanent o = true ∨ ∃ n : Fin 24, o = .inj n ∧ s.on .a F.BHS_TRIP_LATCH (n.val / 2) = true := by
  cases o <;> simp [Block.clearRefused, or_assoc]

/-- A clear that is refused sets CLRREF and is reported. -/
def Block.refuseClear (s : Block) (o : Output) : Block :=
  (s.setF .a o.clrrefFld 1 o.reg.2).report o.owner cOK 0 o.logBlock o.reg.2
    (bits ((s.setF .a o.clrrefFld 1 o.reg.2).w .a o.reg.1 o.reg.2).toNat 8 0)

theorem Block.clearLatch_of_refused (hr : s.clearRefused o holds = true) : s.clearLatch o holds = s.refuseClear o := if_pos hr

/-- A clear that is granted clears the causes, and the latch unless UV holds it; the output follows its commands again. -/
theorem Block.clearLatch_of_granted (hr : s.clearRefused o holds = false) :
    s.clearLatch o holds = ((if s.uvHeld o then s else s.setF .a o.latchFld 0 o.reg.2).clearCauses o latchingCauses).follow o :=
  if_neg (ne_true_of_eq_false hr)

/-- The row in the half entitled to the output does the clear. -/
theorem execTripLatchClear_of_owner {s : State} (hp : s.blk.powered o.reg.1 o.owner = true) :
    exec (.tripLatchClear o.owner o holds) s = .next { s with blk := { s.blk.clearLatch o holds with busErr := false } } :=
  State.access_powered hp (if_pos rfl)

/-- A refused clear leaves the latch and its causes. -/
theorem Block.refuseClear_keeps (o : Output) :
    (s.refuseClear o).tripped o = s.tripped o ∧ (∀ c < 9, (s.refuseClear o).cause o c = s.cause o c) ∧
      (s.refuseClear o).on .a o.clrrefFld o.reg.2 = true := by
  have ⟨lo, hi⟩ := o.latchBit_bounds
  have reported : (s.setF .a o.clrrefFld 1 o.reg.2).KeepsTrip (s.refuseClear o) o := Block.keepsTrip_report o.logBlock_lt ..
  have marked (b : Nat) : (s.refuseClear o).on .a (o.causeFld b) o.reg.2 =
      if b = o.latchBit - 1 then true else s.on .a (o.causeFld b) o.reg.2 := by
    rw [reported.on_causeFld, o.clrrefFld_eq, Block.setF_causeFld_on (show o.latchBit - 1 < 24 by omega)]
    rfl
  refine ⟨?_, fun c hc => (marked c).trans (if_neg (by omega)), ?_⟩
  · rw [Block.tripped, Block.tripped, o.latchFld_eq]
    exact (marked _).trans (if_neg (by omega))
  · rw [o.clrrefFld_eq]
    exact (marked _).trans (if_pos rfl)

/-- A granted clear leaves no cause, and the latch to UV alone. -/
theorem Block.clearLatch_clears (hr : s.clearRefused o holds = false) :
    (s.clearLatch o holds).tripped o = (s.uvHeld o && s.tripped o) ∧
      ∀ c < 9, c ≠ caUV → (∀ e, o = .evo e → c = caSW ∨ c = caEXT) → (s.clearLatch o holds).cause o c = false := by
  have ⟨lo, hi⟩ := o.latchBit_bounds
  have cleared (b : Nat) : (s.clearLatch o holds).on .a (o.causeFld b) o.reg.2 =
      ((if s.uvHeld o then s else s.setF .a o.latchFld 0 o.reg.2).on .a (o.causeFld b) o.reg.2 &&
        !(decide (b ∈ latchingCauses) && o.hasCause b)) := by
    rw [Block.clearLatch_of_granted hr, (Block.keepsTrip_follow o).on_causeFld, Block.clearCauses_on latchingCauses_lt]
  refine ⟨?_, fun c hc hu he => ?_⟩
  · have latch : o.latchBit ∉ latchingCauses := fun hm => by have := latchingCauses_lt _ hm; omega
    rw [Block.tripped, Block.tripped, o.latchFld_eq, cleared, o.latchFld_eq]
    cases hv : s.uvHeld o <;> simp [latch, Block.setF_causeFld_on hi]
  · exact (cleared c).trans (by simp [mem_latchingCauses hc hu, Output.hasCause_of_evo he])

end Sys2Proof.Machine

open Sys2Proof Sys2Proof.Machine

/-- Settles O52: a refused clear writes CLRREF alone, a granted one the causes and, where UV does not hold it, the latch; neither the
report nor the output that follows its commands again writes the register. -/
theorem tripLatchClears : Obligations.TripLatchClears := by
  intro s o holds hp
  refine ⟨_, execTripLatchClear_of_owner hp, rfl, ?_⟩
  split
  next hr =>
    have kept := Block.refuseClear_keeps (s := s.blk) o
    rw [← Block.clearLatch_of_refused (Block.clearRefused_iff.2 hr)] at kept
    exact kept
  next hr => exact Block.clearLatch_clears (Bool.eq_false_iff.2 fun h => hr (Block.clearRefused_iff.1 h))
end

section
/-!
The events of a running shot: each moves the shot of its channel where its time, its phase and its conditions hold, and leaves the block
as it was otherwise (rules R194 to R196, R217).
-/

namespace Sys2Proof.Machine

variable {s : Block} {n : Nat} {sh : Shot} {due : Shot → Bool} {next : Shot → Block}

/-- An event of a channel's shot: `next` where a shot runs and the event is `due`. -/
def Block.onShot (s : Block) (n : Nat) (due : Shot → Bool) (next : Shot → Block) : Block :=
  match s.shot n with
  | some sh => if due sh then next sh else s
  | none => s

theorem Block.onShot_of_due (hs : s.shot n = some sh) (hd : due sh = true) : s.onShot n due next = next sh := by
  simp [Block.onShot, hs, hd]

theorem Block.onShot_of_early (hs : s.shot n = some sh) (hd : due sh = false) : s.onShot n due next = s := by
  simp [Block.onShot, hs, hd]

theorem Block.onShot_of_none (hs : s.shot n = none) : s.onShot n due next = s := by
  simp [Block.onShot, hs]

/-! ## When each event is due, and what it does -/

/-- In its phase BOOST before PKR, with quench not begun. -/
def Block.boosting (s : Block) (n : Nat) (sh : Shot) : Bool := sh.quenchAt.isNone && sh.pkrAt.isNone && s.f .a F.INJ_STAT_PH n == 0

theorem Block.boosting_eq_true (hq : sh.quenchAt = none) (hp : sh.pkrAt = none) (hf : s.f .a F.INJ_STAT_PH n = 0) :
    s.boosting n sh = true := by
  simp [Block.boosting, hq, hp, hf]

theorem Block.boosting_and_eq_false {b : Bool}
    (hn : sh.quenchAt ≠ none ∨ sh.pkrAt ≠ none ∨ s.f .a F.INJ_STAT_PH n ≠ 0 ∨ b = false) : (s.boosting n sh && b) = false := by
  obtain hq | hp | hf | hb := hn
  · simp [Block.boosting, hq]
  · simp [Block.boosting, hp]
  · simp [Block.boosting, hf]
  · simp [hb]

theorem peakReached_eq : peakReached n s =
    s.onShot n (fun sh => s.boosting n sh && !(s.chopOf n).blank) fun sh =>
      (((s.hold n false).bhsWithdraw n).setShot n (some { sh with pkrAt := some (s.half (injHalf n)).tsc })).seqState n 2 := rfl

theorem boostTimeout_eq (below : Bool) (p : BandPlace) : boostTimeout n below p s =
    s.onShot n (fun sh => s.boosting n sh && s.shotDue n sh.gntAt (s.profW (injHalf n) (injSeq n) sh.prof 1)) fun sh =>
      s.afterPeak n { sh with pkmiss := true, openld := below } p := rfl

/-- In hold phase `code` (0 the peak hold), with quench not begun, `d` ticks after `t`. -/
def Block.holdOver (s : Block) (n : Nat) (sh : Shot) (code : Nat) (t : Option Nat) (d : Nat) : Bool :=
  sh.quenchAt.isNone && s.f .a F.INJ_STAT_PH n == code && s.shotDue n t d

theorem Block.holdOver_eq_true {code d : Nat} {a : Option Nat} (hq : sh.quenchAt = none) (hf : s.f .a F.INJ_STAT_PH n = code)
    (hd : s.shotDue n a d = true) : s.holdOver n sh code a d = true := by
  simp [Block.holdOver, hq, hf, hd]

theorem Block.holdOver_eq_false {code d : Nat} {a : Option Nat}
    (hn : sh.quenchAt ≠ none ∨ s.f .a F.INJ_STAT_PH n ≠ code ∨ s.shotDue n a d = false) : s.holdOver n sh code a d = false := by
  obtain hq | hf | hd := hn
  · simp [Block.holdOver, hq]
  · simp [Block.holdOver, hf]
  · simp [Block.holdOver, hd]

theorem peakHoldEnd_eq (p : BandPlace) : peakHoldEnd n p s =
    s.onShot n (fun sh => s.holdOver n sh 0 sh.pkrAt (s.profW (injHalf n) (injSeq n) sh.prof 2)) fun sh => s.afterPeak n sh p := rfl

theorem hold1End_eq (p : BandPlace) : hold1End n p s =
    s.onShot n (fun sh => s.holdOver n sh 1 sh.holdAt (s.profW (injHalf n) (injSeq n) sh.prof 4)) fun sh => s.enterHold n sh 2 p := rfl

/-- Quench by QF as `fast` gives it; a shot that was not granted misses its peak. -/
def Block.quench (s : Block) (n : Nat) (sh : Shot) (fast : Bool) : Block :=
  ((((s.lines n 3 sh.prof (!fast)).drive n (!fast) false false).bhsWithdraw n).setShot n (some
    { sh with quenchAt := some (s.half (injHalf n)).tsc, pkmiss := sh.pkmiss || sh.gntAt.isNone })).seqState n 5

theorem quenchStart_eq : quenchStart n s =
    s.onShot n (fun sh => sh.quenchAt.isNone && s.shotDue n (some sh.start) sh.e) fun sh =>
      s.quench n sh (bits (s.profW (injHalf n) (injSeq n) sh.prof 0) 7 6 == 0) := rfl

theorem quenchStart_of_due {fast : Bool} (hs : s.shot n = some sh) (hq : sh.quenchAt = none)
    (hd : s.shotDue n (some sh.start) sh.e = true) (hf : fast = (bits (s.profW (injHalf n) (injSeq n) sh.prof 0) 7 6 == 0)) :
    quenchStart n s = s.quench n sh fast := by
  rw [hf, quenchStart_eq]
  exact Block.onShot_of_due hs (by simp [hq, hd])

theorem quenchStart_of_early (hs : s.shot n = some sh) (hn : sh.quenchAt ≠ none ∨ s.shotDue n (some sh.start) sh.e = false) :
    quenchStart n s = s := by
  rw [quenchStart_eq]
  refine Block.onShot_of_early hs ?_
  obtain hq | hd := hn
  · simp [hq]
  · simp [hd]

theorem shotEnd_eq (x : ShotMeas) : shotEnd n x s =
    s.onShot n (fun sh => sh.quenchAt.isSome) fun sh => (s.endShot n sh x false).shotSegments n sh x := rfl

theorem quenchTimeout_eq (x : ShotMeas) : quenchTimeout n x s =
    s.onShot n (fun sh => s.shotDue n sh.quenchAt (s.profW (injHalf n) (injSeq n) sh.prof 6)) fun sh =>
      (s.endShot n sh x true).shotSegments n sh x := rfl

theorem shotTripEnd_eq (n : Fin 24) (x : ShotMeas) : shotTripEnd n x s =
    s.onShot n (fun _ => s.latchSeen (.inj n)) fun sh => (s.endShot n { sh with trip := true } x false).shotSegments n sh x := by
  unfold shotTripEnd Block.onShot
  simp only [n.isLt, dite_true] <;> rfl

end Sys2Proof.Machine

open Sys2Proof Sys2Proof.Machine

/-- Settles O18, event by event: due, too early or in another phase, and with no shot. -/
theorem shotRowsComplete : Obligations.ShotRowsComplete :=
  ⟨fun s _ _ hs hq hp hf hb => s.next_with_blk_congr (peakReached_eq.trans
     (Block.onShot_of_due hs (Bool.and_eq_true_iff.2 ⟨Block.boosting_eq_true hq hp hf, congrArg not hb⟩))),
   fun s _ hs => s.next_with_blk_congr (peakReached_eq.trans (Block.onShot_of_none hs)),
   fun s _ _ hs hn => s.next_with_blk_congr (peakReached_eq.trans
     (Block.onShot_of_early hs (Block.boosting_and_eq_false (hn.imp_right (.imp_right (.imp_right (congrArg not))))))),
   fun s _ _ below p hs hq hp hf hd => s.next_with_blk_congr ((boostTimeout_eq below p).trans
     (Block.onShot_of_due hs (Bool.and_eq_true_iff.2 ⟨Block.boosting_eq_true hq hp hf, hd⟩))),
   fun s _ below p hs => s.next_with_blk_congr ((boostTimeout_eq below p).trans (Block.onShot_of_none hs)),
   fun s _ _ below p hs hn => s.next_with_blk_congr ((boostTimeout_eq below p).trans
     (Block.onShot_of_early hs (Block.boosting_and_eq_false hn))),
   fun s _ _ p hs hq hf hd => s.next_with_blk_congr ((peakHoldEnd_eq p).trans (Block.onShot_of_due hs (Block.holdOver_eq_true hq hf hd))),
   fun s _ p hs => s.next_with_blk_congr ((peakHoldEnd_eq p).trans (Block.onShot_of_none hs)),
   fun s _ _ p hs hn => s.next_with_blk_congr ((peakHoldEnd_eq p).trans (Block.onShot_of_early hs (Block.holdOver_eq_false hn))),
   fun s _ _ p hs hq hf hd => s.next_with_blk_congr ((hold1End_eq p).trans (Block.onShot_of_due hs (Block.holdOver_eq_true hq hf hd))),
   fun s _ p hs => s.next_with_blk_congr ((hold1End_eq p).trans (Block.onShot_of_none hs)),
   fun s _ _ p hs hn => s.next_with_blk_congr ((hold1End_eq p).trans (Block.onShot_of_early hs (Block.holdOver_eq_false hn))),
   fun s _ _ _ hs hq hd hf => s.next_with_blk_congr (quenchStart_of_due hs hq hd hf),
   fun s _ _ hs => s.next_with_blk_congr (quenchStart_eq.trans (Block.onShot_of_none hs)),
   fun s _ _ hs hn => s.next_with_blk_congr (quenchStart_of_early hs hn),
   fun s _ _ x hs hq => s.next_with_blk_congr ((shotEnd_eq x).trans (Block.onShot_of_due hs (Option.isSome_iff_ne_none.2 hq))),
   fun s _ x hs => s.next_with_blk_congr ((shotEnd_eq x).trans (Block.onShot_of_none hs)),
   fun s _ _ x hs hq => s.next_with_blk_congr ((shotEnd_eq x).trans (Block.onShot_of_early hs (congrArg Option.isSome hq))),
   fun s _ _ x hs hd => s.next_with_blk_congr ((quenchTimeout_eq x).trans (Block.onShot_of_due hs hd)),
   fun s _ x hs => s.next_with_blk_congr ((quenchTimeout_eq x).trans (Block.onShot_of_none hs)),
   fun s _ _ x hs hd => s.next_with_blk_congr ((quenchTimeout_eq x).trans (Block.onShot_of_early hs hd)),
   fun s n _ x hs hl => s.next_with_blk_congr ((shotTripEnd_eq n x).trans (Block.onShot_of_due hs hl)),
   fun s n x hs => s.next_with_blk_congr ((shotTripEnd_eq n x).trans (Block.onShot_of_none hs)),
   fun s n _ x hs hl => s.next_with_blk_congr ((shotTripEnd_eq n x).trans (Block.onShot_of_early hs hl))⟩
end

section
/-!
The trip rows: where a cause applies and its guard holds the output trips, and the state stays as it was otherwise (rules R207, R215 to
R220, R224); undervoltage and its release (R216, R417); the clearing of a latch (R218).
-/

namespace Sys2Proof.Machine

variable {s : State} {o : Output} {h : HalfId} {holds : Bool}

/-! ## Guards -/

theorem tripExternal_of_idle {tl : Fin 8} (hn : bits (s.blk.tmask o) tl tl = 0 ∨ s.blk.tripLine o.owner tl = false) :
    execTripExternal o tl s = .next s := by
  refine if_neg ?_
  obtain hm | hl := hn
  · simp [hm]
  · simp [hl]

theorem tripExternal_of_asserted {tl : Fin 8} (hm : bits (s.blk.tmask o) tl tl = 1) (hl : s.blk.tripLine o.owner tl = true) :
    execTripExternal o tl s = .next { s with blk := s.blk.trip o caEXT } := if_pos (by simp [hm, hl])

theorem tripStuck_of_commanded {b : Fin 8} (hg : s.blk.f .a F.HB_GUARD_HOLDTO b ≠ 0)
    (hc : (s.blk.hbCommands b).1 = true ∨ (s.blk.hbCommands b).2 = true) :
    execTripStuck b s = .next { s with blk := s.blk.latchOne (.hb b) caSTUCK } := if_pos (by simp [hg, hc])

theorem tripStuck_of_unguarded {b : Fin 8}
    (hn : s.blk.f .a F.HB_GUARD_HOLDTO b = 0 ∨ (s.blk.hbCommands b).1 = false ∧ (s.blk.hbCommands b).2 = false) :
    execTripStuck b s = .next s := by
  refine if_neg ?_
  obtain hg | ⟨hx, hy⟩ := hn
  · simp [hg]
  · simp [hx, hy]

/-! ## Entitlement -/

/-- An access that an entitlement allows, where the register is powered: its effect for the half entitled, a bus error for every other. -/
theorem State.access_entitled {r : Reg} {b : Block} {p : Prop} [Decidable p] (hp : s.blk.powered r h = true) (he : p) :
    s.access r h (if p then b else { s.blk with busErr := true }) = .next { s with blk := b } :=
  State.access_powered hp (if_pos he)

/-- A half that is not entitled gets a bus error, with power or without. -/
theorem State.access_unentitled {r : Reg} {b : Block} {p : Prop} [Decidable p] (he : ¬ p) :
    s.access r h (if p then b else { s.blk with busErr := true }) = .next { s with blk := { s.blk with busErr := true } } := by
  rw [State.access, if_neg he, ite_self]

/-- No half is its own peer. -/
theorem Output.owner_ne_peer (o : Output) : o.owner ≠ o.owner.peer := (HalfId.peer_ne _).symm

/-! ## Undervoltage -/

/-- At the onset of UV every stage is latched off, and each half that holds the helm reports the module-level condition. -/
theorem Block.vbatLow_of_onset {s b c : Block} (hu : s.on .a F.DRV_STAT_VBATUV = false)
    (hb : b = uvOutputs.foldl (fun t o => t.setLatch o caUV) (s.setF .a F.DRV_STAT_VBATUV 1))
    (hc : c = if b.holdsHelm .a then b.report .a cOK 1 27 127 (bits (b.w .a .DRV_STAT).toNat 23 20) else b) :
    s.vbatLow = if c.holdsHelm .b then c.report .b cOK 1 27 127 (bits (b.w .a .DRV_STAT).toNat 23 20) else c := by
  subst hc hb
  exact if_neg (ne_true_of_eq_false hu)

theorem Block.vbatLow_of_low {s : Block} (hu : s.on .a F.DRV_STAT_VBATUV = true) : s.vbatLow = s := if_pos hu

theorem Block.vbatBack_of_high {s : Block} (hu : s.on .a F.DRV_STAT_VBATUV = false) : s.vbatBack = s := if_pos (congrArg not hu)

theorem Block.vbatBack_of_low {s : Block} (hu : s.on .a F.DRV_STAT_VBATUV = true) :
    s.vbatBack = uvOutputs.foldl (fun t o =>
      if (t.setF .a (o.causeFld caUV) 0 o.reg.2).otherCause o then t.setF .a (o.causeFld caUV) 0 o.reg.2
      else ((t.setF .a (o.causeFld caUV) 0 o.reg.2).setF .a o.latchFld 0 o.reg.2).follow o) (s.setF .a F.DRV_STAT_VBATUV 0) :=
  if_neg (ne_true_of_eq_false (congrArg not hu))

/-! ## A latch cleared -/

/-- Of a stage every latching cause is cleared. -/
theorem Block.clearCauses_of_stage {s : Block} (ho : ∀ e : Fin 48, o ≠ .evo e) (l : List Nat) :
    s.clearCauses o l = l.foldl (fun t c => t.setF .a (o.causeFld c) 0 o.reg.2) s := by
  simp only [Block.clearCauses, Output.hasCause_of_stage ho, if_true]

/-- An EVO line has two causes to clear, and stays as it is until its next level command. -/
theorem Block.clearLatch_of_evo {s : Block} {e : Fin 48} (hr : s.clearRefused (.evo e) holds = false) :
    s.clearLatch (.evo e) holds =
      ((s.setF .a F.EVO_STAT_LATCH 0 e).setF .a ((Output.evo e).causeFld caEXT) 0 e).setF .a ((Output.evo e).causeFld caSW) 0 e :=
  Block.clearLatch_of_granted hr

/-- What a granted clear leaves of a stage, with or without its latch (`b`). -/
theorem tripLatchClear_of_stage {b : Block} (ho : ∀ e : Fin 48, o ≠ .evo e) (hr : s.blk.clearRefused o holds = false)
    (hb : (if s.blk.uvHeld o then s.blk else s.blk.setF .a o.latchFld 0 o.reg.2) = b) (hp : s.blk.powered o.reg.1 o.owner = true) :
    exec (.tripLatchClear o.owner o holds) s = .next { s with blk := { (latchingCauses.foldl
      (fun t c => t.setF .a (o.causeFld c) 0 o.reg.2) b).follow o with busErr := false } } := by
  rw [execTripLatchClear_of_owner hp, Block.clearLatch_of_granted hr, hb, Block.clearCauses_of_stage ho]

end Sys2Proof.Machine

open Sys2Proof Sys2Proof.Machine

/-- Settles O20, row by row: by cause and threshold, by guard, by entitlement, by UV, and by what holds a latch. -/
theorem tripRowsComplete : Obligations.TripRowsComplete :=
  ⟨fun _ _ _ ha => if_pos ha,
   fun _ _ _ ha => if_neg (Nat.not_le.2 ha),
   fun _ _ => rfl,
   fun _ _ _ ha => if_pos ha,
   fun _ _ _ ha => if_neg (Nat.not_le.2 ha),
   fun _ _ => rfl,
   fun _ _ _ ha => if_pos ha,
   fun _ _ _ ha => if_neg (Nat.not_le.2 ha),
   fun _ _ => rfl,
   fun _ _ _ _ => ⟨rfl, rfl⟩,
   fun _ _ _ => ⟨rfl, rfl⟩,
   fun _ _ hl => if_pos hl,
   fun _ _ hl => if_neg (ne_true_of_eq_false hl),
   fun _ _ _ hm hl => tripExternal_of_asserted hm hl,
   fun _ _ _ hn => tripExternal_of_idle hn,
   fun _ o hp => ⟨State.access_entitled hp rfl, State.access_unentitled o.owner_ne_peer⟩,
   fun _ _ hh hp => State.access_entitled hp hh,
   fun _ _ hh _ => State.access_unentitled (ne_true_of_eq_false hh),
   fun _ _ => rfl,
   fun _ _ hg hc => tripStuck_of_commanded hg hc,
   fun _ _ hn => tripStuck_of_unguarded hn,
   fun s _ _ hu hb hc => s.next_with_blk_congr (Block.vbatLow_of_onset hu hb hc),
   fun s hu => s.next_with_blk_congr (Block.vbatLow_of_low hu),
   fun s hu => s.next_with_blk_congr (Block.vbatBack_of_high hu),
   fun s hu => s.next_with_blk_congr (Block.vbatBack_of_low hu),
   fun _ _ _ hr hp => (execTripLatchClear_of_owner hp).trans (by rw [Block.clearLatch_of_refused hr]; rfl),
   fun _ _ hr hu ho hp => tripLatchClear_of_stage ho hr (if_neg (ne_true_of_eq_false hu)) hp,
   fun _ _ hr hu ho hp => tripLatchClear_of_stage ho hr (if_pos hu) hp,
   fun _ _ _ _ ho hr hb hp => by
     subst ho hb
     rw [execTripLatchClear_of_owner hp, Block.clearLatch_of_evo hr],
   fun _ o _ _ => State.access_unentitled o.owner_ne_peer⟩
end

section
/-!
A learning update: whatever it learns, it takes a write of SEQ_LRN that waits (rules R213, R214, R227).
-/

namespace Sys2Proof.Machine

variable {s : Block} {h : HalfId} {k : Nat} {r : ShotRec}

theorem Block.learnSettings_results : ((s.learnSettings h k).half h).sq.results = (s.half h).sq.results := by
  simp [Block.learnSettings]

theorem Block.learnSettings_lrnDue : ((s.learnSettings h k).half h).sq.lrnDue = (s.half h).sq.lrnDue.set k false := by
  simp [Block.learnSettings]

/-- A record whose notice does not carry OK teaches nothing, and yet its update takes what was written to SEQ_LRN. -/
theorem driftLearnUpdate_lrnDue_of_not_ok (hr : (nth [] (s.half h).sq.results k).find? (fun r => !r.read) = some r)
    (ho : r.okNotice = false) : ((driftLearnUpdate h k s).half h).sq.lrnDue = (s.half h).sq.lrnDue.set k false := by
  simp [driftLearnUpdate, Block.learnSettings_results, Block.learnSettings_lrnDue, hr, ho]

/-- A record that ANP has not read, of a shot whose notice does not carry OK. -/
def refusedRec : ShotRec := ⟨0, 0, 0, 0, false, false⟩

/-- `up` with that record of sequencer 0, and a write of SEQ_LRN that waits for the sequencer's next learning update. -/
def upLrnDue : State := upW fun b => b.modHalf .a fun x =>
  { x with sq := { x.sq with results := x.sq.results.set 0 [refusedRec], lrnDue := x.sq.lrnDue.set 0 true } }

theorem upLrnDue_unread : (nth [] (upLrnDue.blk.half .a).sq.results 0).find? (fun r => !r.read) = some refusedRec := by decide

theorem upLrnDue_lrnDue : nth false (upLrnDue.blk.half .a).sq.lrnDue 0 = true := by decide

end Sys2Proof.Machine

open Sys2Proof Sys2Proof.Machine

/-- Refutes O19: its row of a record that teaches nothing changes the record alone, and the model's learning update takes a waiting write
of SEQ_LRN besides, as in `upLrnDue`. -/
theorem not_boostAndChopRowsComplete : ¬ Obligations.BoostAndChopRowsComplete := by
  unfold Obligations.BoostAndChopRowsComplete
  rintro ⟨-, -, -, -, -, -, -, -, -, -, -, -, -, -, -, -, -, -, -, -, -, -, hlearn, -⟩
  have row := hlearn upLrnDue .a 0 refusedRec _ upLrnDue_unread rfl (.inr (.inl rfl))
  have blk : driftLearnUpdate .a 0 upLrnDue.blk = _ := congrArg State.blk (Host.Outcome.next.inj row)
  have kept : ((driftLearnUpdate .a 0 upLrnDue.blk).half .a).sq.lrnDue = (upLrnDue.blk.half .a).sq.lrnDue := by
    rw [blk, Block.modHalf_half]
  rw [driftLearnUpdate_lrnDue_of_not_ok upLrnDue_unread rfl] at kept
  have taken : nth false ((upLrnDue.blk.half .a).sq.lrnDue.set 0 false) 0 = false := by decide
  rw [kept, upLrnDue_lrnDue] at taken
  exact absurd taken (by decide)
end

section
/-!
The converters: a conversion of a current converter by its frame position and slot (rules R229, R232 to R235, R244), the points of a
window passed and sampled (rules R236 to R241), the spare's comparison and FORCE (rules R243 to R246).
-/

namespace Sys2Proof.Machine

variable {s b : Block} {h : HalfId} {k pos code mon n slot : Nat} {r : Range}

/-! ## The current converters -/

theorem conversionResult_of_stopped (hc : s.converts h k = false) : conversionResult h k pos code mon r s = s :=
  if_pos (congrArg not hc)

section
variable (hc : s.converts h k = true)
include hc

theorem conversionResult_of_scan (hp : 12 ≤ pos) : conversionResult h k pos code mon r s = s.scanSample h k pos code mon r := by
  simp [conversionResult, hc, hp]

theorem conversionResult_of_empty (hp : pos < 12) (hn : nth none (s.conv h k).shots (pos % 4) = none) :
    conversionResult h k pos code mon r s = s := by
  simp [conversionResult, hc, hn, Nat.not_le.2 hp]

section
variable (hn : nth none (s.conv h k).shots (pos % 4) = some n)
include hn

theorem conversionResult_of_unsampled (hp : pos < 12) (hu : s.runsUnsampled h n = true) :
    conversionResult h k pos code mon r s = s := by
  simp [conversionResult, hc, hn, hu, Nat.not_le.2 hp]

theorem conversionResult_of_shunt (hp : pos < 4 ∨ 8 ≤ pos ∧ pos < 12) (hu : s.runsUnsampled h n = false) :
    conversionResult h k pos code mon r s =
      (s.convert h k (pos % 4) pos r (fun a => (a + 1) % 16 == pos)).2.shuntSample n (clampCode false code r) := by
  have shot : ¬ 12 ≤ pos := by omega
  have current : ¬ (4 ≤ pos ∧ pos < 8) := by omega
  simp [conversionResult, hc, hn, hu, shot, current]

theorem conversionResult_of_voltage (hl : 4 ≤ pos) (hp : pos < 8) (hu : s.runsUnsampled h n = false) :
    conversionResult h k pos code mon r s = (s.convert h k (4 + pos % 4) pos r (fun a => (a + 1) % 16 == pos)).2 := by
  have shot : ¬ 12 ≤ pos := by omega
  simp [conversionResult, hc, hn, hu, shot, hl, hp]
end
end

/-! ## Window points -/

theorem Block.passPoints_of_moved {mv : Move} {w w1 : Win} (hm : (s.half h).clk.moved = some mv)
    (hw : nth none (s.conv h k).wins slot = some w)
    (h1 : w1 = queuePoints mv.jump mv.catchup (reachedBy mv (s.cycleL h) w.g w.space) w.count w)
    (hb : b = s.modConv h k fun c => { c with wins := c.wins.set slot (some w1) }) :
    s.passPoints h k slot =
      (if w1.queue.length - w.queue.length < w1.next - w.next then b.setF h F.PCV_ERR_DROP 1 k else b).settleWindow h k slot := by
  subst hb h1
  simp only [Block.passPoints, hm, hw, decide_eq_true_eq]

theorem Block.passPoints_of_none (hn : (s.half h).clk.moved = none ∨ nth none (s.conv h k).wins slot = none) :
    s.passPoints h k slot = s := by
  unfold Block.passPoints
  split
  next hm hw => simp [hm, hw] at hn
  · rfl

section
variable {w : Win} {q : WPoint}

theorem Block.nextPoint_of_ready (hr : s.convReady h k = true)
    (hq : firstQueued (s.on h F.PCV_CFG_EN k) (s.conv h k).wins = some (slot, w, q)) : s.nextPoint h k = some (slot, w, q) :=
  (if_pos hr).trans hq

theorem Block.nextPoint_of_none
    (hn : s.convReady h k = false ∨ firstQueued (s.on h F.PCV_CFG_EN k) (s.conv h k).wins = none) : s.nextPoint h k = none := by
  obtain hr | hq := hn
  · exact if_neg (ne_true_of_eq_false hr)
  · rw [Block.nextPoint, hq, ite_self]

/-- A window with its oldest queued point sampled as the code `c16`, flagged or not. -/
def Win.sampled (w : Win) (h : HalfId) (q : WPoint) (c16 : Nat) (flagged : Bool) : Win :=
  { w with
    queue := w.queue.drop 1, jump := w.jump || q.jump, catchup := w.catchup || q.catchup, flags := w.flags + bitOf flagged,
    taken := w.taken + 1, buf := if q.k = 0 then (w.storePlace h 0).getD 0 else w.buf,
    samples := if w.atu && q.k < 4096 then ⟨q.k, sext 16 c16, flagged⟩ :: w.samples else w.samples }

theorem windowPointSample_of_queued {cv : Bool × Block} (hn : s.nextPoint h k = some (slot, w, q))
    (hv : cv = s.convert h k w.cp (s.half h).tsc r (fun a => ticksTo a (s.half h).tsc ≤ 3))
    (hb : b = cv.2.modConv h k fun c => { c with wins := c.wins.set slot (some (w.sampled h q (clampCode true code r) cv.1)) }) :
    windowPointSample h k code r s =
      (if w.store.any fun p => decide (p.2 ≤ q.k) then b.setF h F.PCV_ERR_BUFOVF 1 k else b).settleWindow h k slot := by
  subst hb hv
  have past : (w.store.any fun p => decide (p.2 ≤ q.k)) = (match w.store with | some p => decide (p.2 ≤ q.k) | none => false) := by
    cases w.store <;> rfl
  rw [windowPointSample, hn, past]
  rfl

theorem windowPointSample_of_none (hn : s.nextPoint h k = none) : windowPointSample h k code r s = s := by
  simp [windowPointSample, hn]

theorem sampleStore_of_queued (hn : s.nextPoint h k = some (slot, w, q)) :
    sampleStore h k code r s = (w.storePlace h q.k).map fun a => (a, aligned w.align (clampCode true code r)) := by
  simp [sampleStore, hn]

theorem sampleStore_of_none (hn : s.nextPoint h k = none) : sampleStore h k code r s = none := by
  simp [sampleStore, hn]
end

/-- With no point to sample neither the block nor RAM changes. -/
theorem execWindowPointSample_of_none {s : State} {k : Fin 2} {code : BitVec 16} (hn : s.blk.nextPoint h k = none) :
    execWindowPointSample h k code r s = .next s := by
  rw [execWindowPointSample, windowPointSample_of_none hn, sampleStore_of_none hn]

/-! ## The spare converter -/

theorem Block.conv_modHalf_turn (t : Nat) : (s.modHalf h fun x => { x with turn := t }).conv h k = s.conv h k := by
  simp [Block.conv]

theorem capNat_of_le {m n : Nat} (hn : n ≤ m) : capNat m n = n := by
  unfold capNat
  split <;> omega

section
variable {diff : Nat} (hu : s.on h F.PCV_SPARE_USED = false) (hf : s.on h F.PCV_SPARE_SPFAIL = false) (ht : s.nextTurn h = some k)
  (hb : b = s.modHalf h fun x => { x with turn := (k + 1) % 4 })
include hu hf ht hb

/-- A mismatch that does not make eight in a row is counted and shown. -/
theorem spareConverterCheck_of_mismatch (hd : 64 < diff) (hm : (s.conv h k).miss < 7) :
    spareConverterCheck h diff s =
      (b.setConv h k { b.conv h k with
        miss := (s.conv h k).miss + 1, other := if (s.conv h k).miss = 0 then false else (s.conv h k).other }).setW h .PCV_CHK
        (wd (((s.conv h k).miss + 1) * 65536 + k * 8192 + capNat 8191 diff)) := by
  have conv : b.conv h k = s.conv h k := by rw [hb, Block.conv_modHalf_turn]
  have count : capNat 255 ((s.conv h k).miss + 1) = (s.conv h k).miss + 1 := capNat_of_le (by omega)
  have row : (s.conv h k).miss + 1 < 8 := by omega
  simp [spareConverterCheck, hu, hf, ht, ← hb, conv, count, row, hd, Nat.not_le.2 hd]

/-- A match ends the run of mismatches, and is noted at every other converter that has one. -/
theorem spareConverterCheck_of_match {c : Block} (hd : diff ≤ 64)
    (hc : c = b.setConv h k { b.conv h k with miss := 0, judged := false, other := false }) :
    spareConverterCheck h diff s =
      ((c.checkable h).foldl (fun t j => if j = k then t else t.modConv h j fun y => { y with other := y.miss != 0 }) c).setW h .PCV_CHK
        (wd (k * 8192 + diff)) := by
  have shown : capNat 8191 diff = diff := capNat_of_le (by omega)
  simp [spareConverterCheck, hu, hf, ht, ← hb, ← hc, shown, hd, Nat.not_lt.2 hd]
end

theorem spareConverterCheck_of_unavailable {diff : Nat}
    (hn : s.on h F.PCV_SPARE_USED = true ∨ s.on h F.PCV_SPARE_SPFAIL = true ∨ s.nextTurn h = none) :
    spareConverterCheck h diff s = s := by
  obtain hu | hf | ht := hn
  · simp [spareConverterCheck, hu]
  · simp [spareConverterCheck, hf]
  · simp [spareConverterCheck, ht]

theorem Block.forceConverter_of_free (ht : s.phase h = phTEST) (hk : k < 4) (hu : s.on h F.PCV_SPARE_USED = false)
    (hf : s.on h F.PCV_SPARE_SPFAIL = false) : s.forceConverter h k = { s.replaceConv h k with busErr := false } := by
  simp [Block.forceConverter, ht, hk, hu, hf]

theorem Block.forceConverter_of_refused (ht : s.phase h = phTEST)
    (hn : 4 ≤ k ∨ s.on h F.PCV_SPARE_USED = true ∨ s.on h F.PCV_SPARE_SPFAIL = true) :
    s.forceConverter h k = { s with busErr := false } := by
  obtain hk | hu | hf := hn
  · simp [Block.forceConverter, ht, Nat.not_lt.2 hk]
  · simp [Block.forceConverter, ht, hu]
  · simp [Block.forceConverter, ht, hf]

theorem Block.forceConverter_outside_test (ht : s.phase h ≠ phTEST) : s.forceConverter h k = { s with busErr := true } :=
  if_pos (bne_iff_ne.2 ht)

end Sys2Proof.Machine

open Sys2Proof Sys2Proof.Machine

/-- Settles O21, row by row: a conversion by its position and slot, a window by its queue, the spare by the difference and its state. -/
theorem converterRowsComplete : Obligations.ConverterRowsComplete :=
  ⟨fun s _ _ _ _ _ _ _ hc hn hp hu => s.next_with_blk_congr (conversionResult_of_shunt hc hn hp hu),
   fun s _ _ _ _ _ _ _ hc hn hl hp hu => s.next_with_blk_congr (conversionResult_of_voltage hc hn hl hp hu),
   fun s _ _ _ _ _ _ _ hc hn hp hu => s.next_with_blk_congr (conversionResult_of_unsampled hc hn hp hu),
   fun s _ _ _ _ _ _ hc hp hn => s.next_with_blk_congr (conversionResult_of_empty hc hp hn),
   fun s _ _ _ _ _ _ hc hp => s.next_with_blk_congr (conversionResult_of_scan hc hp),
   fun s _ _ _ _ _ _ hc => s.next_with_blk_congr (conversionResult_of_stopped hc),
   fun s _ _ _ _ _ _ _ hm hw h1 hb => s.next_with_blk_congr (Block.passPoints_of_moved hm hw h1 hb),
   fun s _ _ _ hn => s.next_with_blk_congr (Block.passPoints_of_none hn),
   fun s h k code r slot w q cv w1 b hr hq hv h1 hb => by
     subst h1
     have next := Block.nextPoint_of_ready hr hq
     change execWindowPointSample h k code r s = _
     rw [execWindowPointSample, windowPointSample_of_queued next hv hb, sampleStore_of_queued next]
     cases w.storePlace h q.k <;> rfl,
   fun _ _ _ _ _ hn => execWindowPointSample_of_none (Block.nextPoint_of_none hn),
   fun _ _ _ _ hp => State.access_powered hp rfl,
   fun _ _ _ hp => State.access_powered hp rfl,
   fun _ _ _ hp => State.access_powered hp rfl,
   fun s _ _ _ _ hu hf ht hd hm hb => s.next_with_blk_congr (spareConverterCheck_of_mismatch hu hf ht hb hd hm),
   fun s _ _ _ _ _ hu hf ht hd hb hc => s.next_with_blk_congr (spareConverterCheck_of_match hu hf ht hb hd hc),
   fun s _ _ hn => s.next_with_blk_congr (spareConverterCheck_of_unavailable hn),
   fun _ _ _ ht hk hu hf hp => State.access_powered hp (Block.forceConverter_of_free ht hk hu hf),
   fun _ _ _ ht hn hp => State.access_powered hp (Block.forceConverter_of_refused ht hn),
   fun _ _ _ ht hp => State.access_powered hp (Block.forceConverter_outside_test ht)⟩
end

section
/-!
Combustion and misfire: the record of a finished context (rules R254, R256), combustion feedback (rules R257, R258), the judgement of a
cylinder's segment (rules R260 to R262) and the reports (rule R263).
-/

namespace Sys2Proof.Machine

variable {s b d : Block} {h : HalfId} {c : Nat}

/-! ## Result records -/

theorem atuRecordWrite_of_none {ctx : Nat} (hj : (s.half h).atu.jobs.find? (fun j => j.ctx == ctx) = none) :
    atuRecordWrite h ctx s = s := by
  simp only [atuRecordWrite, hj]

/-- A finished context enters its record in block `b`, and `d` is that block with a failed pegging noted. -/
theorem atuRecordWrite_of_job {ctx : Nat} {j : AtuJob} {r : List Word × Block} {valid fb : Bool} {due : FbDue}
    (hj : (s.half h).atu.jobs.find? (fun j => j.ctx == ctx) = some j) (hr : r = s.atuWords h j) (hc : c = j.win.frame)
    (hv : valid = (bits (nth 0 r.1 0).toNat 7 7 == 1))
    (hf : fb = (valid && !(bits (nth 0 r.1 0).toNat 6 6 == 1) && (s.on h F.ATU_CYL_CAFB c || s.on h F.ATU_CYL_IMFB c)))
    (hdue : due = ⟨c, (nth 0 r.1 6).toNat, sext 24 (nth 0 r.1 3).toNat, s.f h F.ATU_CA50T_TARGET c, s.f h F.ATU_FBG_KCA,
      s.f h F.ATU_FBG_KIM, j.win.late⟩)
    (hb : b = (r.2.putRec h c r.1).modAtu h fun x => { x with
      jobs := x.jobs.erase j, fresh := x.fresh.set c true, fbHeld := x.fbHeld.set c none,
      imep := if valid then x.imep.set c (some (sext 24 (nth 0 r.1 3).toNat)) else x.imep,
      fbDue := if fb then x.fbDue ++ [due] else x.fbDue })
    (hd : d = if bits (nth 0 r.1 0).toNat 1 1 = 1 then b.setF h F.ATU_ERR_PEGFAIL 1 else b) :
    atuRecordWrite h ctx s = if valid then d else d.setF h F.ATU_ERR_INVALID 1 := by
  subst hr hc hv hf hdue hb hd
  simp only [atuRecordWrite, hj]

/-! ## Combustion feedback -/

theorem combustionFeedback_of_none (hd : (s.half h).atu.fbDue.find? (fun d => d.cyl == c) = none) : combustionFeedback h c s = s := by
  simp only [combustionFeedback, hd]

section
variable {due : FbDue} (hdue : (s.half h).atu.fbDue.find? (fun d => d.cyl == c) = some due)
include hdue

/-- In TEST, and while ANP's role is vacant, a due feedback is dropped. -/
theorem combustionFeedback_of_dropped (hn : s.phase h = phTEST ∨ nth 0 (s.half h).hip.roles 2 = 2) :
    combustionFeedback h c s = s.modAtu h fun x => { x with fbDue := x.fbDue.erase due } := by
  rw [combustionFeedback, hdue]
  exact if_pos (by simpa using hn)

/-- Any other due feedback steps the two corrections, and is late after a trim latch of an earlier ANGCLK. -/
theorem combustionFeedback_of_used {old : Int × Int} {a e : Int} {f : Block} (ht : s.phase h ≠ phTEST)
    (hn : nth 0 (s.half h).hip.roles 2 ≠ 2) (hb : b = s.modAtu h fun x => { x with fbDue := x.fbDue.erase due })
    (ho : old = corrOf (b.corr h c)) (ha : a = if b.on h F.ATU_CYL_CAFB c then stepAngle (b.cycleL h) due old.1 else old.1)
    (he : e = if b.on h F.ATU_CYL_IMFB c ∧ 0 < (b.imepRef h).1 then
      ((b.mainParam h c).map fun n => stepEnergising (b.imepRef h) due n old.2).getD old.2 else old.2)
    (hf : f = (b.setCorr h c (corrWord (a, e))).writePairs h fun r => r.frame == c) :
    combustionFeedback h c s =
      if due.late = none ∨ due.late = some (s.half h).tsc then f else f.setF h F.ATU_ERR_LATEFB 1 := by
  have used : (decide (s.phase h = phTEST) || decide (nth 0 (s.half h).hip.roles 2 = 2)) = false := by simp [ht, hn]
  have late : (due.late.isSome && due.late != some (s.half h).tsc) = true ↔ ¬ (due.late = none ∨ due.late = some (s.half h).tsc) := by
    cases due.late <;> simp
  simp only [combustionFeedback, hdue, ← hb, used, late, ← ho, ← ha, ite_not]
  cases hm : b.mainParam h c <;> simp [hf, he, hm]
end

/-! ## Misfire from crank speed -/

theorem crankMisfireJudge_of_unlisted (hc : s.f h F.ANG_CYL_N_CYL ≤ c) : crankMisfireJudge h c s = s := if_pos hc

section
variable (hc : c < s.f h F.ANG_CYL_N_CYL)
  (hb : b = s.modAtu h fun x => { x with tau := x.tau.set c (s.tauOf h c), fuel := x.fuel.set c false })
include hc hb

theorem crankMisfireJudge_of_peers (ho : s.ownsCyl h c = false) : crankMisfireJudge h c s = b := by
  simp [crankMisfireJudge, hb, ho, Nat.not_le.2 hc]

variable (ho : s.ownsCyl h c = true)
include ho

/-- Of a cycle that is not to be judged no verdict is given (rule R262). -/
theorem crankMisfireJudge_of_unjudged
    (hn : s.tauOf h c = none ∨ (s.firesBefore h c).bind (fun d => nth none (s.half h).atu.tau d) = none ∨
      s.on h F.ATU_CFG_MFEN = false ∨ nth false (s.half h).atu.fuel c = false ∨ (s.half h).clk.cycLen = 0) :
    crankMisfireJudge h c s = b.modAtu h fun x => { x with crk := x.crk.set c (some (false, false, 0)) } := by
  simp only [crankMisfireJudge, Nat.not_le.2 hc, ho, ← hb, if_false, Bool.not_true, Bool.false_eq_true]
  split
  next hx hp =>
    obtain hn | hn | hn | hn | hn := hn
    · simp [hn] at hx
    · simp [hn] at hp
    all_goals simp [hn]
  · rfl

/-- The metric of a judged cycle over its baseline, against the threshold: a misfire is counted, any other cycle moves the baseline. -/
theorem crankMisfireJudge_of_judged {x p m : Frac} {n : Int} (hx : s.tauOf h c = some x)
    (hp : (s.firesBefore h c).bind (fun d => nth none (s.half h).atu.tau d) = some p) (he : s.on h F.ATU_CFG_MFEN = true)
    (hf : nth false (s.half h).atu.fuel c = true) (hl : (s.half h).clk.cycLen ≠ 0)
    (hm : m = fracSub (fracMul (fracDiv (fracSub x p) (frac ((s.half h).clk.cycLen : Int) (s.cycleL h))) ⟨65536, 1⟩)
      ⟨sext 16 (s.f h F.ATU_MFS_BASE c), 1⟩)
    (hn : n = fracFloor (fracAdd ⟨sext 16 (s.f h F.ATU_MFS_BASE c), 1⟩ (fracMul m ⟨1, 2 ^ s.f h F.ATU_MFTH_RATE⟩))) :
    crankMisfireJudge h c s =
      if fracLt (fracOf (s.f h F.ATU_MFTH_TH)) m = true then
        (b.count h F.ATU_MFS_MFCNT c).modAtu h fun y => { y with crk := y.crk.set c (some (true, true, fracFloor m)) }
      else (b.setF h F.ATU_MFS_BASE (field 16 (if n < -32768 then -32768 else if 32767 < n then 32767 else n)) c).modAtu h fun y =>
        { y with crk := y.crk.set c (some (true, false, fracFloor m)) } := by
  have judged : (!s.on h F.ATU_CFG_MFEN || !nth false (s.half h).atu.fuel c || decide ((s.half h).clk.cycLen = 0)) = false := by
    simp [he, hf, hl]
  rw [hx] at hb
  simp [crankMisfireJudge, ho, hx, hp, ← hb, ← hm, ← hn, judged, Nat.not_le.2 hc]
end

/-! ## Reports -/

theorem combustionReportSend_of_neither (hf : nth false (s.half h).atu.fresh c = false) (hk : nth none (s.half h).atu.crk c = none) :
    combustionReportSend h c s = s := by
  simp [combustionReportSend, hf, hk]

/-- A report takes the record and the verdict, in block `b`, and `d` is that block with COMBUSTION sent where it is due. -/
theorem combustionReportSend_of_either {fresh mf comb : Bool} {v : Bool × Bool × Int} {pay : List Word}
    (hf : nth false (s.half h).atu.fresh c = fresh) (hk : fresh = true ∨ nth none (s.half h).atu.crk c ≠ none)
    (hv : v = (nth none (s.half h).atu.crk c).getD (false, false, 0)) (hm : mf = (bits (s.recWord h c 0).toNat 6 6 == 1))
    (hp : pay = (List.range 11).map (s.recWord h c) ++
      [wd (c * 2 ^ 19 + bits (s.recWord h c 0).toNat 15 8 * 2 ^ 11 + bitOf v.1 * 1024 + bitOf v.2.1 * 512 + bitOf mf * 256),
        wd (satS v.2.2)])
    (hq : comb = (fresh && s.on h F.ATU_CYL_EN c && s.f h F.ATU_CFG_RDIV != 0 &&
      decide (s.f h F.ATU_CFG_RDIV ≤ nth 0 (s.half h).atu.since c + 1)))
    (hb : b = s.modAtu h fun x => { x with
      fresh := x.fresh.set c false, crk := x.crk.set c none,
      since := if fresh then x.since.set c (if comb then 0 else nth 0 (s.half h).atu.since c + 1) else x.since })
    (hd : d = if comb then b.softNotice h 0xC7 pay 2 else b) :
    combustionReportSend h c s =
      if s.on h F.ATU_CFG_MFNOTE ∧ (fresh ∧ mf ∨ v.2.1) then d.softNotice h 0xC8 pay 1 else d := by
  have report : (!fresh && (nth none (s.half h).atu.crk c).isNone) = false := by
    obtain hk | hk := hk
    · simp [hk]
    · simp [Option.ne_none_iff_isSome.1 hk]
  subst hv hm hp hq hb hd
  simp only [combustionReportSend, hf, report, Bool.and_eq_true, Bool.or_eq_true]
  rfl

end Sys2Proof.Machine

open Sys2Proof Sys2Proof.Machine

/-- Settles O22, row by row: a context by its job, feedback by what is due and the phase, a segment by what there is to judge, a report by
what is new. -/
theorem combustionRowsComplete : Obligations.CombustionRowsComplete :=
  ⟨fun s _ _ _ _ _ _ _ _ _ _ hj hr hc hv hf hdue hb hd => s.next_with_blk_congr (atuRecordWrite_of_job hj hr hc hv hf hdue hb hd),
   fun s _ _ hj => s.next_with_blk_congr (atuRecordWrite_of_none hj),
   fun _ _ _ hp => State.access_powered hp rfl,
   fun s _ _ hd => s.next_with_blk_congr (combustionFeedback_of_none hd),
   fun s _ _ _ hd hn => s.next_with_blk_congr (combustionFeedback_of_dropped hd hn),
   fun s _ _ _ _ _ _ _ _ hd ht hn hb ho ha he hf => s.next_with_blk_congr (combustionFeedback_of_used hd ht hn hb ho ha he hf),
   fun s _ _ hc => s.next_with_blk_congr (crankMisfireJudge_of_unlisted hc),
   fun s _ _ _ hc hb ho => s.next_with_blk_congr (crankMisfireJudge_of_peers hc hb ho),
   fun s _ _ _ hc hb ho hn => s.next_with_blk_congr (crankMisfireJudge_of_unjudged hc hb ho hn),
   fun s _ _ _ _ _ _ hc hb ho hx hp he hf hl hm ht =>
     s.next_with_blk_congr ((crankMisfireJudge_of_judged hc hb ho hx hp he hf hl hm rfl).trans (if_pos ht)),
   fun s _ _ _ _ _ _ _ hc hb ho hx hp he hf hl hm ht hn =>
     s.next_with_blk_congr ((crankMisfireJudge_of_judged hc hb ho hx hp he hf hl hm hn).trans (if_neg (ne_true_of_eq_false ht))),
   fun s _ _ hf hk => s.next_with_blk_congr (combustionReportSend_of_neither hf hk),
   fun s _ _ _ _ _ _ _ _ _ hf hk hv hm hp hq hb hd =>
     s.next_with_blk_congr (combustionReportSend_of_either hf hk hv hm hp hq hb hd),
   fun _ _ hp => State.access_powered hp rfl,
   fun _ _ hp => State.access_powered hp rfl⟩
end

section
/-!
The blanking guard of a comparator without power: in Kiln comparators are unpowered, while the registers keep their words, so that a
blanking still shows in them (rules R269, R272, R439).
-/

namespace Sys2Proof.Machine

variable {s : Block} {h : HalfId} {k : Nat}

/-- Without power the guard overrides nothing and raises no BLERR. -/
theorem blankingGuard_of_unpowered (hp : s.cmpPowered h = false) : blankingGuard h k s = s := by simp [blankingGuard, hp]

/-- Half B in HOLD at Kiln. Its comparator 0 is enabled and unsettled, output A of unit 0, LOW, blanks it, and its guard stands at the
reset limit of 52. -/
def upKilnBlanked : State :=
  { upDesc 4 with blk := (((upDesc 4).blk.setW .b .CMP_CFG 0x800460).setW .b .CMP_STAT 0x200000).setW .b .CMP_BLK 0xC00034 }

theorem upKilnBlanked_cmpPowered : upKilnBlanked.blk.cmpPowered .b = false := by decide

theorem upKilnBlanked_blanked : upKilnBlanked.blk.blanked .b 0 = true := by decide

theorem upKilnBlanked_blmax : upKilnBlanked.blk.f .b F.CMP_BLK_BLMAX = 52 := by decide

theorem upKilnBlanked_unsettled : upKilnBlanked.blk.on .b F.CMP_STAT_UNSETTLED = true := by decide

theorem upKilnBlanked_blerr : upKilnBlanked.blk.f .b F.CMP_EVT_BLERR = 0 := by decide

end Sys2Proof.Machine

open Sys2Proof Sys2Proof.Machine

/-- Refutes O23: its row of a guard that overrides a blanking asks for no power, and the model's guard does nothing without it, as in
`upKilnBlanked`, where the row would set BLERR. -/
theorem not_comparatorRowsComplete : ¬ Obligations.ComparatorRowsComplete := by
  unfold Obligations.ComparatorRowsComplete
  rintro ⟨-, -, -, -, -, -, -, -, hguard, -⟩
  have row := hguard upKilnBlanked .b 0 _ upKilnBlanked_blanked (ne_of_eq_of_ne upKilnBlanked_blmax (by decide)) rfl
  have blk : blankingGuard .b 0 upKilnBlanked.blk = _ := congrArg State.blk (Host.Outcome.next.inj row)
  rw [blankingGuard_of_unpowered upKilnBlanked_cmpPowered, if_pos (.inl upKilnBlanked_unsettled)] at blk
  have raised : upKilnBlanked.blk.f .b F.CMP_EVT_BLERR = 1 := by
    rw [blk]
    exact Block.setF_f_same _ _ F.CMP_EVT_BLERR 1 0 0 (by decide)
  exact absurd (upKilnBlanked_blerr.symm.trans raised) (by decide)
end

section
/-!
A stopped PWM unit: what the showing of a unit leaves, what PWM_STAT shows of it, and the trip latch that neither an overlay nor the stop
clears (rules R277, R280, R290).
-/

namespace Sys2Proof.Machine

variable {s t : Block} {h k : HalfId} {r q : Reg} {i j i' j' u n : Nat}

/-! ## What the half-bridges leave of a half -/

/-- The registers of a half stand below those of the drive die. -/
theorem Reg.addr_ne_die (hr : r.has h i j = true) (hp : r.info.perHalf = true) (hq : 0x800000 ≤ q.info.base) :
    r.addr h i j ≠ q.addr k i' j' := by
  obtain ⟨half, -, hlt⟩ := Reg.addr_of_perHalf hp (Reg.inGrid_of_has hr) h
  have die : q.info.base ≤ q.addr k i' j' := Nat.le_trans (Nat.le_add_right _ _) (Nat.le_add_right _ _)
  cases h <;> simp only [HalfId.num] at half <;> omega

/-- An update leaves the PWM units of half `h` and the register words of its blocks. -/
structure Block.KeepsUnits (s t : Block) (h : HalfId) : Prop where
  units : (t.half h).pwm = (s.half h).pwm
  words : ∀ (r : Reg) (i j : Nat), r.has h i j = true → r.info.perHalf = true → t.w h r i j = s.w h r i j

namespace Block.KeepsUnits

theorem refl : s.KeepsUnits s h := ⟨rfl, fun _ _ _ _ _ => rfl⟩

theorem trans {v : Block} (a : s.KeepsUnits t h) (b : t.KeepsUnits v h) : s.KeepsUnits v h :=
  ⟨b.units.trans a.units, fun r i j hr hp => (b.words r i j hr hp).trans (a.words r i j hr hp)⟩

/-- A field of the drive die is written. -/
theorem setF (a : s.KeepsUnits t h) (x : Fld) (v n : Nat) (hx : 0x800000 ≤ x.reg.info.base := by decide) :
    s.KeepsUnits (t.setF .a x v n) h :=
  a.trans ⟨by rw [Block.setF_half], fun r i j hr hp => Block.setF_w_ne t .a h x r v n 0 i j (Reg.addr_ne_die hr hp hx)⟩

theorem modWear (a : s.KeepsUnits t h) (n : Nat) (f : Wear → Wear) : s.KeepsUnits (t.modWear k n f) h := by
  refine a.trans ⟨?_, fun r i j _ _ => Block.modTal_w t k _ h r i j⟩
  unfold Block.modWear Block.modTal
  by_cases e : h = k
  · rw [e, Block.modHalf_half]
  · rw [Block.modHalf_half_ne t k h _ e]

theorem ite {c : Prop} [Decidable c] {v : Block} (a : s.KeepsUnits t h) (b : s.KeepsUnits v h) :
    s.KeepsUnits (if c then t else v) h := by
  split
  · exact a
  · exact b

theorem foldl {α : Type} {f : Block → α → Block} (hf : ∀ b x, Block.KeepsUnits b (f b x) h) (l : List α) :
    s.KeepsUnits (l.foldl f s) h := by
  induction l generalizing s with
  | nil => exact refl
  | cons x xs ih => exact (hf s x).trans ih

end Block.KeepsUnits

theorem Block.keepsUnits_hbDrive : s.KeepsUnits (s.hbDrive n) h :=
  (((Block.KeepsUnits.ite (Block.KeepsUnits.refl.modWear ..) .refl).setF F.HB_STAT_HS _ n).setF F.HB_STAT_LS _ n).setF F.HB_STAT_SHOOT _ n

/-! ## Showing a unit -/

/-- The word of PWM_STAT that shows unit `u` (rule R277). -/
def Block.pwmStat (s : Block) (h : HalfId) (u : Nat) : Nat :=
  let p := s.pwm h u
  let hiz := s.pwmHiz h u
  bitOf p.run.isSome * 2 ^ 23 + bitOf (p.pend.isSome || p.pend2.isSome) * 2 ^ 22 + bitOf (s.pwmFrozen h) * 2 ^ 21 + bitOf hiz * 2 ^ 20 +
    bitOf p.refAt.isSome * 2 ^ 19 + bitOf ((p.chA.edges ++ p.chB.edges).any PwmEdge.post) * 2 ^ 18 + bitOf (p.lvlA && !hiz) * 2 ^ 17 +
    bitOf (p.lvlB && !hiz) * 2 ^ 16

/-- The block with the two words that show unit `u`: PWM_STAT, and PWM_GRUN with the unit's bit. -/
def Block.pwmShown (s : Block) (h : HalfId) (u : Nat) : Block :=
  (s.setW h .PWM_STAT (wd (s.pwmStat h u)) u).setF h F.PWM_GRUN_RUN
    (putBits (s.f h F.PWM_GRUN_RUN) u u (bitOf (s.pwm h u).run.isSome))

/-- Showing a unit is its two words; the half-bridges that follow it leave them and every unit. -/
theorem Block.keepsUnits_pwmShow : (s.pwmShown h u).KeepsUnits (s.pwmShow h u) h :=
  .foldl (fun _ _ => .ite Block.keepsUnits_hbDrive .refl) _

@[simp] theorem Block.pwmShow_pwm : (s.pwmShow h u).pwm h n = s.pwm h n := by
  rw [Block.pwm, Block.keepsUnits_pwmShow.units, Block.pwmShown, Block.setF_half, Block.setW_half, Block.pwm]

theorem pwmUnitReg_info (r : Reg) : pwmUnitReg r = true → r.info.perHalf = true ∧ r.info.dims = [(16, 0x20)] := by
  cases r <;> decide

theorem Reg.has_of_pwmUnit (hr : pwmUnitReg r = true) (hu : u < 16) : r.has h u 0 = true := by
  obtain ⟨half, dims⟩ := pwmUnitReg_info r hr
  simp [Reg.has, half, dims, hu]

theorem Reg.has_pwmStat (hu : u < 16) : Reg.PWM_STAT.has h u 0 = true := by simp [Reg.has, Reg.info, hu]

theorem Reg.has_pwmGrun : Reg.PWM_GRUN.has h 0 0 = true := rfl

/-- The unit's own registers stand as they did before it was shown. -/
theorem Block.pwmShow_w (hr : pwmUnitReg r = true) (hu : u < 16) : (s.pwmShow h u).w h r u = s.w h r u := by
  have has : r.has h u 0 = true := Reg.has_of_pwmUnit hr hu
  have stat : r.addr h u 0 ≠ Reg.PWM_STAT.addr h u 0 := fun e => by
    cases (Reg.word_eq_of_addr_eq has (Reg.has_pwmStat hu) e).1
    cases hr
  have grun : r.addr h u 0 ≠ Reg.PWM_GRUN.addr h 0 0 := fun e => by
    cases (Reg.word_eq_of_addr_eq has Reg.has_pwmGrun e).1
    cases hr
  rw [Block.keepsUnits_pwmShow.words r u 0 has (pwmUnitReg_info r hr).1, Block.pwmShown, Block.setF_w_ne _ _ _ _ _ _ _ _ _ _ grun,
    Block.setW_w_ne _ _ _ _ _ _ _ _ _ _ stat]

theorem Block.pwmShow_on {x : Fld} (hx : pwmUnitReg x.reg = true) (hu : u < 16) : (s.pwmShow h u).on h x u = s.on h x u := by
  rw [Block.on, Block.f, Block.pwmShow_w hx hu, Block.on, Block.f]

theorem Block.pwmShow_stat (hu : u < 16) : (s.pwmShow h u).w h .PWM_STAT u = wd (s.pwmStat h u) := by
  have grun : Reg.PWM_STAT.addr h u 0 ≠ Reg.PWM_GRUN.addr h 0 0 := fun e => by
    cases (Reg.word_eq_of_addr_eq (Reg.has_pwmStat hu) Reg.has_pwmGrun e).1
  rw [Block.keepsUnits_pwmShow.words .PWM_STAT u 0 (Reg.has_pwmStat hu) rfl, Block.pwmShown, Block.setF_w_ne _ _ _ _ _ _ _ _ _ _ grun,
    Block.setW_w_same]

theorem bitOf_le_one (b : Bool) : bitOf b ≤ 1 := by cases b <;> decide

/-- The bits of PWM_STAT that tell of the counter and of the outputs. -/
theorem Block.bits_pwmStat :
    bits (wd (s.pwmStat h u)).toNat 23 23 = bitOf (s.pwm h u).run.isSome ∧
    bits (wd (s.pwmStat h u)).toNat 20 20 = bitOf (s.pwmHiz h u) ∧
    bits (wd (s.pwmStat h u)).toNat 17 17 = bitOf ((s.pwm h u).lvlA && !s.pwmHiz h u) ∧
    bits (wd (s.pwmStat h u)).toNat 16 16 = bitOf ((s.pwm h u).lvlB && !s.pwmHiz h u) := by
  have run := bitOf_le_one (s.pwm h u).run.isSome
  have load := bitOf_le_one ((s.pwm h u).pend.isSome || (s.pwm h u).pend2.isSome)
  have frozen := bitOf_le_one (s.pwmFrozen h)
  have hiz := bitOf_le_one (s.pwmHiz h u)
  have refresh := bitOf_le_one (s.pwm h u).refAt.isSome
  have post := bitOf_le_one (((s.pwm h u).chA.edges ++ (s.pwm h u).chB.edges).any PwmEdge.post)
  have outA := bitOf_le_one ((s.pwm h u).lvlA && !s.pwmHiz h u)
  have outB := bitOf_le_one ((s.pwm h u).lvlB && !s.pwmHiz h u)
  unfold Block.pwmStat bits
  dsimp only
  rw [wd_toNat _ (by omega)]
  omega

/-- A shown unit's PWM_STAT tells whether the counter runs, whether the outputs are HIGH-Z, and else their levels. -/
theorem Block.pwmShow_stat_on (hu : u < 16) :
    (s.pwmShow h u).on h F.PWM_STAT_RUN u = (s.pwm h u).run.isSome ∧
    (s.pwmShow h u).on h F.PWM_STAT_HIZ u = s.pwmHiz h u ∧
    (s.pwmShow h u).on h F.PWM_STAT_OUTA u = ((s.pwm h u).lvlA && !s.pwmHiz h u) ∧
    (s.pwmShow h u).on h F.PWM_STAT_OUTB u = ((s.pwm h u).lvlB && !s.pwmHiz h u) := by
  have word (x : Fld) (hx : x.reg = .PWM_STAT) {b : Bool} (hb : bits (wd (s.pwmStat h u)).toNat x.hi x.lo = bitOf b) :
      (s.pwmShow h u).on h x u = b := by
    rw [Block.on, Block.f, hx, Block.pwmShow_stat hu, hb, bitOf_eq_one]
  obtain ⟨run, hiz, outA, outB⟩ := Block.bits_pwmStat (s := s) (h := h) (u := u)
  exact ⟨word F.PWM_STAT_RUN rfl run, word F.PWM_STAT_HIZ rfl hiz, word F.PWM_STAT_OUTA rfl outA, word F.PWM_STAT_OUTB rfl outB⟩

/-! ## What an overlay leaves -/

theorem bits_eq_testBit (n i : Nat) : bits n i i = (n.testBit i).toNat := by
  rw [Nat.toNat_testBit, bits, Nat.add_sub_cancel_left, pow_one]

/-- A bit that may not be written stays. -/
theorem bits_mix_of_readOnly {old mask v : Nat} (hm : mask.testBit i = false) (hi : i < 24) :
    bits (wd (mix old mask v)).toNat i i = bits old i i := by
  have full : (0xFFFFFF : Nat).testBit i = true := by
    rw [show (0xFFFFFF : Nat) = 2 ^ 24 - 1 from rfl, Nat.testBit_two_pow_sub_one, decide_eq_true hi]
  rw [bits_eq_testBit, bits_eq_testBit, wd, BitVec.toNat_ofNat, Nat.testBit_mod_two_pow]
  simp [mix, hm, hi, full]

theorem Block.pwmOverlay_half : (s.pwmOverlay h u).half k = s.half k :=
  List.foldlRecOn (motive := fun b : Block => b.half k = s.half k) _ _ rfl fun b hb x _ => by rw [Block.setW_half, hb]

/-- An overlay may give PWM_TRIP its mask of lines alone. -/
theorem Block.pwmOverlay_latch (hu : u < 16) : (s.pwmOverlay h u).on h F.PWM_TRIP_LATCH u = s.on h F.PWM_TRIP_LATCH u := by
  refine List.foldlRecOn (motive := fun b : Block => b.on h F.PWM_TRIP_LATCH u = s.on h F.PWM_TRIP_LATCH u) _ _ rfl fun b hb x hx => ?_
  obtain ⟨-, unit⟩ := List.mem_filter.1 hx
  rw [← hb]
  by_cases trip : x.1 = .PWM_TRIP
  · have mask : Reg.PWM_TRIP.info.rw.testBit 23 = false := by decide
    simp only [Block.on, Block.f, F.PWM_TRIP_LATCH, trip, Block.setW_w_same, bits_mix_of_readOnly (i := 23) mask (by decide)]
  · have apart : Reg.PWM_TRIP.addr h u 0 ≠ x.1.addr h u 0 := fun e =>
      trip (Reg.word_eq_of_addr_eq (Reg.has_of_pwmUnit rfl hu) (Reg.has_of_pwmUnit unit hu) e).1.symm
    simp only [Block.on, Block.f, F.PWM_TRIP_LATCH, Block.setW_w_ne _ _ _ _ _ _ _ _ _ _ apart]

/-! ## Stopping -/

theorem nth_set {α : Type} {d x : α} {l : List α} : nth d (l.set i x) i = if i < l.length then x else d := by
  unfold nth
  split <;> simp_all

/-- A unit reads as it was changed to; beyond the units of a half stands an idle one, which the change leaves. -/
theorem Block.modPwm_pwm {f : Pwm → Pwm} (hf : f Pwm.idle = Pwm.idle) : (s.modPwm h u f).pwm h u = f (s.pwm h u) := by
  simp only [Block.pwm, Block.modPwm, Block.modHalf_half, nth_set]
  split
  · rfl
  next hu => rw [nth, List.getElem?_eq_none (Nat.not_lt.1 hu), Option.getD_none, hf]

@[simp] theorem Block.modPwm_on (f : Pwm → Pwm) (x : Fld) : (s.modPwm h n f).on k x i j = s.on k x i j := Block.modHalf_on s h k _ x i j

/-- What a stop leaves of a unit: the set in force, the pending sets, and a cleared trip's wait for the wrap. -/
def Pwm.stopped (x : Pwm) : Pwm := { Pwm.idle with act := x.act, pend := x.pend, pend2 := x.pend2, clear := x.clear }

/-- The block with EN 0 and the unit stopped, which the unit's words do not show yet. -/
def Block.pwmHalted (s : Block) (h : HalfId) (u : Nat) : Block :=
  ((s.pwmOverlay h u).setF h F.PWM_CTRL_EN 0 u).modPwm h u Pwm.stopped

theorem Block.pwmStop_eq : s.pwmStop h u = (s.pwmHalted h u).pwmShow h u := rfl

theorem Block.pwmHalted_pwm : (s.pwmHalted h u).pwm h u = (s.pwm h u).stopped := by
  rw [Block.pwmHalted, Block.modPwm_pwm rfl, Block.pwm, Block.setF_half, Block.pwmOverlay_half, Block.pwm]

theorem Block.pwmStop_pwm : (s.pwmStop h u).pwm h u = (s.pwm h u).stopped := by
  rw [Block.pwmStop_eq, Block.pwmShow_pwm, Block.pwmHalted_pwm]

theorem Block.pwmHalted_en : (s.pwmHalted h u).on h F.PWM_CTRL_EN u = false := by
  rw [Block.pwmHalted, Block.modPwm_on, Block.on, Block.setF_f_same _ _ _ _ _ _ (by decide)]
  rfl

theorem Block.pwmHalted_latch (hu : u < 16) : (s.pwmHalted h u).on h F.PWM_TRIP_LATCH u = s.on h F.PWM_TRIP_LATCH u := by
  rw [Block.pwmHalted, Block.modPwm_on, Block.on,
    Block.setF_f_of_reg_ne (Reg.has_of_pwmUnit rfl hu) (Reg.has_of_pwmUnit rfl hu) (by decide), ← Block.on, Block.pwmOverlay_latch hu]

theorem Block.pwmStop_en (hu : u < 16) : (s.pwmStop h u).on h F.PWM_CTRL_EN u = false := by
  rw [Block.pwmStop_eq, Block.pwmShow_on rfl hu, Block.pwmHalted_en]

theorem Block.pwmStop_latch (hu : u < 16) : (s.pwmStop h u).on h F.PWM_TRIP_LATCH u = s.on h F.PWM_TRIP_LATCH u := by
  rw [Block.pwmStop_eq, Block.pwmShow_on rfl hu, Block.pwmHalted_latch hu]

/-! ## A bus access that completes leaves the units and the registers -/

theorem Block.with_busErr_pwm (e : Bool) : ({ s with busErr := e } : Block).pwm h u = s.pwm h u := by cases h <;> rfl

theorem Block.with_busErr_on (e : Bool) (x : Fld) : ({ s with busErr := e } : Block).on h x u = s.on h x u :=
  congrArg (fun w : Word => bits w.toNat x.hi x.lo == 1) (rfl : ({ s with busErr := e } : Block).w h x.reg u = s.w h x.reg u)

/-- A stopped unit shows no run and both outputs LOW, and HIGH-Z where its trip latch is set. -/
theorem Block.pwmStop_stat (hu : u < 16) :
    (s.pwmStop h u).on h F.PWM_STAT_RUN u = false ∧ (s.pwmStop h u).on h F.PWM_STAT_OUTA u = false ∧
    (s.pwmStop h u).on h F.PWM_STAT_OUTB u = false ∧
    (s.on h F.PWM_TRIP_LATCH u = true → (s.pwmStop h u).on h F.PWM_STAT_HIZ u = true) := by
  obtain ⟨run, hiz, outA, outB⟩ := Block.pwmShow_stat_on (s := s.pwmHalted h u) (h := h) hu
  rw [Block.pwmHalted_pwm] at run outA outB
  refine ⟨run, outA, outB, fun latched => ?_⟩
  rw [Block.pwmStop_eq, hiz, Block.pwmHiz, Block.pwmHalted_latch hu, latched, Bool.true_or]

theorem exec_pwmDisable {s : State} {h : HalfId} {u : Fin 16} (hp : s.blk.powered .PWM_CTRL h = true) :
    exec (.pwmDisable h u) s = .next { s with blk := { s.blk.pwmStop h u with busErr := false } } :=
  State.access_powered hp rfl

end Sys2Proof.Machine

open Sys2Proof Sys2Proof.Machine

/-- Settles O53: a stop leaves of the unit what `Pwm.stopped` keeps, an overlay has no bit for the trip latch, and the unit is shown once
more. -/
theorem pwmDisableStops : Obligations.PwmDisableStops := by
  intro s h u hp
  obtain ⟨run, outA, outB, hiz⟩ := Block.pwmStop_stat (s := s.blk) (h := h) u.isLt
  refine ⟨_, exec_pwmDisable hp, rfl, ?_⟩
  simp only [Block.with_busErr_pwm, Block.with_busErr_on, Block.pwmStop_pwm]
  exact ⟨rfl, rfl, rfl, rfl, rfl, rfl, rfl, Block.pwmStop_en u.isLt, run, outA, outB, Block.pwmStop_latch u.isLt, hiz⟩
end

section
/-!
The PWM units, row by row: starting (rule R279), the update set (rules R283, R284), the wrap and the matches (rules R281, R293), the filter
output, dead time and refresh (rules R287 to R289), trips and freezing (rules R290 to R292).
-/

namespace Sys2Proof.Machine

variable {s b c : Block} {h : HalfId} {u : Nat} {e : PwmEdge} {rest : List PwmEdge}

/-! ## Changing a unit -/

theorem Block.modPwm_congr {f g : Pwm → Pwm} (hx : f (s.pwm h u) = g (s.pwm h u)) : s.modPwm h u f = s.modPwm h u g := by
  rw [Block.pwm] at hx
  rw [Block.modPwm, Block.modHalf, hx, Block.modPwm, Block.modHalf]

/-- A change that leaves the unit as it is leaves the block. -/
theorem Block.modPwm_of_fixed {f : Pwm → Pwm} (hf : f (s.pwm h u) = s.pwm h u) : s.modPwm h u f = s := by
  have same : (s.half h).pwm.set u (nth Pwm.idle (s.half h).pwm u) = (s.half h).pwm := by
    by_cases hu : u < (s.half h).pwm.length
    · rw [nth, List.getElem?_eq_getElem hu, Option.getD_some, List.set_getElem_self]
    · exact List.set_eq_of_length_le (Nat.not_lt.1 hu)
  rw [Block.modPwm_congr (g := id) hf, Block.modPwm, Block.modHalf, id, same]
  cases h <;> rfl

theorem Block.setW_pwm (r : Reg) (v : Word) : (s.setW h r v u).pwm h u = s.pwm h u := by
  rw [Block.pwm, Block.setW_half, Block.pwm]

/-! ## Starting (rule R279) -/

theorem Block.pwmEnable_of_refused (hp : s.f h F.PWM_PER_PER u < 4 ∨ s.f h F.PWM_PER_PER u ≤ s.f h F.PWM_INIT_INIT u) :
    s.pwmEnable h u = { s with busErr := true } :=
  if_pos (by simpa using hp)

section
variable (hp : 4 ≤ s.f h F.PWM_PER_PER u) (hi : s.f h F.PWM_INIT_INIT u < s.f h F.PWM_PER_PER u)
include hp hi

theorem Block.pwmEnable_of_enabled (he : s.on h F.PWM_CTRL_EN u = true) : s.pwmEnable h u = { s with busErr := false } := by
  simp [Block.pwmEnable, he, hp, hi]

variable (he : s.on h F.PWM_CTRL_EN u = false)
include he

theorem Block.pwmEnable_of_free (hg : s.on h F.PWM_CTRL_GSYNC u = false) :
    s.pwmEnable h u = { (s.setF h F.PWM_CTRL_EN 1 u).pwmStart h u with busErr := false } := by
  simp [Block.pwmEnable, he, hp, hi, hg]

theorem Block.pwmEnable_of_gsync (hg : s.on h F.PWM_CTRL_GSYNC u = true) :
    s.pwmEnable h u = { ((s.setF h F.PWM_CTRL_EN 1 u).modPwm h u fun x => { x with wait := true }).pwmShow h u with busErr := false } := by
  simp [Block.pwmEnable, he, hp, hi, hg]
end

/-! ## The update set (rules R283, R284) -/

theorem Block.pwmLoad_of_immediate (hu : s.on h F.PWM_CTRL_UPD u = true) : s.pwmLoad h u = s := if_pos hu

section
variable (hu : s.on h F.PWM_CTRL_UPD u = false)
include hu

theorem Block.pwmLoad_of_no_wrap (hw : (s.pwm h u).wrap = none) :
    s.pwmLoad h u = (s.modPwm h u fun x => { x with pend := some (s.pwmRegs h u) }).pwmShow h u := by
  rw [Block.pwmLoad, if_neg (ne_true_of_eq_false hu)]
  exact congrArg (Block.pwmShow · h u) (Block.modPwm_congr (by rw [hw]; rfl))

theorem Block.pwmLoad_of_wrap {run : Nat} (hw : (s.pwm h u).wrap = some run) :
    s.pwmLoad h u = (s.modPwm h u fun x => { x with pend2 := some (s.pwmRegs h u) }).pwmShow h u := by
  rw [Block.pwmLoad, if_neg (ne_true_of_eq_false hu)]
  exact congrArg (Block.pwmShow · h u) (Block.modPwm_congr (by rw [hw]; rfl))
end

/-- A unit that has run for `run` ANGCLK with the word `new` written to register `i` of its update set in immediate mode. -/
def Pwm.updated (x : Pwm) (run i : Nat) (new : Word) : Pwm :=
  if i = 5 then { x with act := { x.act with tap := new.toNat } }
  else if i = 6 then { x with ovr := some new.toNat }
  else if i = 0 then { x with pipe := x.pipe ++ [⟨run + 2, 4, new.toNat, decide (new.toNat < x.count + 3)⟩] }
  else { x with pipe := x.pipe ++ [⟨run + 2, i - 1, new.toNat, new.toNat == (x.count + 1) % x.act.per⟩] }

theorem Pwm.updated_of_compare {x : Pwm} {run i : Nat} {new : Word} (hi : 1 ≤ i ∧ i ≤ 4) :
    x.updated run i new =
      { x with pipe := x.pipe ++ [⟨run + 2, i - 1, new.toNat, new.toNat == (x.count + 1) % x.act.per⟩] } := by
  rw [Pwm.updated, if_neg (by omega), if_neg (by omega), if_neg (by omega)]

section
variable {i : Nat} {v new : Word} (hn : new = wd (v.toNat &&& (pwmReg i).info.rw)) (hb : b = s.setW h (pwmReg i) new u)
include hn hb

theorem Block.pwmUpdate_of_shadow (hu : s.on h F.PWM_CTRL_UPD u = false ∨ (s.pwm h u).run = none) : s.pwmUpdate h u i v = b := by
  subst hb hn
  obtain hu | hr := hu
  · simp [Block.pwmUpdate, hu]
  · rw [Block.pwmUpdate, Block.modPwm_of_fixed (by rw [Block.setW_pwm, hr]), ite_self]

variable {run : Nat} (hu : s.on h F.PWM_CTRL_UPD u = true) (hr : (s.pwm h u).run = some run)
include hu hr

theorem Block.pwmUpdate_of_running : s.pwmUpdate h u i v = b.modPwm h u fun x => x.updated run i new := by
  subst hb
  rw [Block.pwmUpdate, ← hn, hu, Bool.not_true, if_neg Bool.false_ne_true]
  refine Block.modPwm_congr ?_
  rw [Block.setW_pwm]
  split
  next hx => cases hr.symm.trans hx
  next hx =>
    cases hr.symm.trans hx
    rfl
end

/-! ## The wrap and the matches (rules R281, R293) -/

theorem pwmWrap_of_none (hw : (s.pwm h u).wrap = none) : pwmWrap h u s = s := by
  rw [pwmWrap, hw]

theorem pwmWrap_of_some {run : Nat} {set : PwmSet} (hw : (s.pwm h u).wrap = some run)
    (hs : set = (s.pwm h u).ovl.foldl (fun x o => x.overlay o.1 o.2)
      ((s.pwm h u).pend.getD { (s.pwm h u).act with ovr := (s.pwm h u).ovr.getD (s.pwm h u).act.ovr }))
    (hb : b = (s.pwmOverlay h u).modPwm h u fun x => { x with
      act := set, pend := x.pend2, pend2 := none, ovr := none, wrap := none, ovl := [],
      hits := hitOrder ((s.pwm h u).hits ++ set.hitsAt run 0) })
    (hc : c = if (s.pwm h u).clear ∧ s.on h F.PWM_TRIP_LATCH u = false then b.pwmStages h u (64 * run)
      else if b.on h F.PWM_CTRL_CMPL u ≠ s.on h F.PWM_CTRL_CMPL u then (b.pwmRemode h u (64 * run)).pwmRequest h u (64 * run)
      else b.pwmRequest h u (64 * run)) :
    pwmWrap h u s = if c.on h F.PWM_CTRL_EN u then c.pwmShow h u else c.pwmStop h u := by
  subst hs hc
  rw [pwmWrap, hw]
  dsimp only
  rw [← hb]
  simp

theorem pwmMatch_of_none (hh : (s.pwm h u).hits = []) : pwmMatch h u s = s := by
  rw [pwmMatch, hh]

theorem pwmMatch_of_some {k : PwmHit} {l : List PwmHit} (hh : (s.pwm h u).hits = k :: l) :
    pwmMatch h u s = ((s.modPwm h u fun x => { x with
      hits := l, reqA := if k.cmp = 0 then true else if k.cmp = 1 then false else x.reqA,
      reqB := if k.cmp = 2 then true else if k.cmp = 3 then false else x.reqB }).pwmRequest h u k.t).pwmShow h u := by
  rw [pwmMatch, hh]

/-! ## The filter output (rule R287) -/

section
variable {side : Bool} {ch : PwmChan} {now : Nat} (hc : ch = if side then (s.pwm h u).chB else (s.pwm h u).chA)
include hc

theorem pwmEdgeOut_of_none (hn : (s.pwm h u).now = none ∨ leaving ch.edges = []) : pwmEdgeOut h u side s = s := by
  unfold pwmEdgeOut
  dsimp only
  rw [← hc]
  split
  next hnow hl => simp [hnow, hl] at hn
  · rfl

section
variable (hn : (s.pwm h u).now = some now) (hl : leaving ch.edges = e :: rest)
include hn hl

theorem pwmEdgeOut_of_held (hh : now < e.leave ∨ s.pwmFrozen h = true) : pwmEdgeOut h u side s = s := by
  simp only [pwmEdgeOut, ← hc, hn, hl]
  exact if_pos (by simpa using .inl hh)

variable (hd : e.leave ≤ now) (hf : s.pwmFrozen h = false)
include hd hf

/-- Without CMPL the edge is the level of its output. -/
theorem pwmEdgeOut_of_independent (hm : s.on h F.PWM_CTRL_CMPL u = false)
    (hb : b = s.modPwm h u fun x =>
      if side then { x with chB := { ch with edges := rest, out := some e.level } }
      else { x with chA := { ch with edges := rest, out := some e.level } }) :
    pwmEdgeOut h u side s =
      (b.modPwm h u fun x => if side then { x with lvlB := e.level } else { x with lvlA := e.level }).pwmShow h u := by
  simp [pwmEdgeOut, ← hc, hn, hl, hm, hf, hd, hb]
end
end

/-- With CMPL output B has no filter of its own. -/
theorem pwmEdgeOut_of_complement (hm : s.on h F.PWM_CTRL_CMPL u = true) : pwmEdgeOut h u true s = s := by
  simp only [pwmEdgeOut, hm, Bool.and_self, Bool.or_true, if_true]
  split <;> rfl

/-- With CMPL an edge is one of S, which dead time takes unless S has that level already or the refresh holds S LOW. -/
theorem pwmEdgeOut_of_paired {now : Nat} (hn : (s.pwm h u).now = some now) (hl : leaving (s.pwm h u).chA.edges = e :: rest)
    (hd : e.leave ≤ now) (hf : s.pwmFrozen h = false) (hm : s.on h F.PWM_CTRL_CMPL u = true)
    (hb : b = s.modPwm h u fun x => { x with chA := { (s.pwm h u).chA with edges := rest, out := some e.level } }) :
    pwmEdgeOut h u false s =
      (if (s.pwm h u).chA.out = some e.level then b
        else if (s.pwm h u).refAt.isSome then (if e.level then b else b.modPwm h u fun x => { x with refAt := none, riseAt := none })
        else b.pwmS h u e.leave e.level).pwmShow h u := by
  simp [pwmEdgeOut, hn, hl, hm, hf, hd, hb]

/-! ## Dead time and refresh (rules R288, R289) -/

section
variable {side : Bool} {d : Option Nat} {now t : Nat} (hd : d = if side then (s.pwm h u).dtB else (s.pwm h u).dtA)
include hd

theorem pwmDeadEnd_of_none (hn : (s.pwm h u).now = none ∨ d = none) : pwmDeadEnd h u side s = s := by
  simp only [pwmDeadEnd, ← hd]
  obtain hn | hn := hn
  · rw [hn]
  · rw [hn]
    cases (s.pwm h u).now <;> rfl

variable (hn : (s.pwm h u).now = some now) (ht : d = some t)
include hn ht

theorem pwmDeadEnd_of_held (hh : now < t ∨ s.pwmFrozen h = true) : pwmDeadEnd h u side s = s := by
  simp only [pwmDeadEnd, ← hd, hn, ht]
  exact if_pos (by simpa using hh)

theorem pwmDeadEnd_of_due (hw : t ≤ now) (hf : s.pwmFrozen h = false) :
    pwmDeadEnd h u side s = (s.modPwm h u fun x =>
      if side then { x with lvlB := true, dtB := none } else { x with lvlA := true, dtA := none }).pwmShow h u := by
  simp [pwmDeadEnd, ← hd, hn, ht, hw, hf]
end

theorem pwmRefreshStart_of_due {run t : Nat} (hr : (s.pwm h u).run = some run) (ht : (s.pwm h u).riseAt = some t)
    (hn : (s.pwm h u).refAt = none) (he : s.on h F.PWM_BS_EN u = true) (hm : s.on h F.PWM_CTRL_CMPL u = true)
    (hf : s.pwmFrozen h = false) (hw : 100 * t + 99 * (s.f h F.PWM_BS_BSMAX u * 12800) ≤ 100 * (64 * run)) :
    pwmRefreshStart h u s =
      (((s.modPwm h u fun x => { x with refAt := some run }).pwmS h u (64 * run) false).pwmErr h u 2).pwmShow h u := by
  simp [pwmRefreshStart, hr, ht, hn, he, hm, hf, hw]

theorem pwmRefreshStart_of_none
    (hn : (s.pwm h u).run = none ∨ (s.pwm h u).riseAt = none ∨ (s.pwm h u).refAt ≠ none ∨ s.on h F.PWM_BS_EN u = false ∨
      s.on h F.PWM_CTRL_CMPL u = false ∨ s.pwmFrozen h = true) : pwmRefreshStart h u s = s := by
  unfold pwmRefreshStart
  dsimp only
  split
  next hr ht =>
    refine if_pos ?_
    obtain hn | hn | hn | hn | hn | hn := hn
    · simp [hn] at hr
    · simp [hn] at ht
    · simp [Option.ne_none_iff_isSome.1 hn]
    all_goals simp [hn]
  · rfl

theorem pwmRefreshEnd_of_due {run t : Nat} (hr : (s.pwm h u).run = some run) (ht : (s.pwm h u).refAt = some t)
    (hw : t + s.f h F.PWM_BS_BSW u ≤ run) (hf : s.pwmFrozen h = false) :
    pwmRefreshEnd h u s =
      ((s.modPwm h u fun x => { x with refAt := none }).pwmS h u (64 * (t + s.f h F.PWM_BS_BSW u)) true).pwmShow h u := by
  simp [pwmRefreshEnd, hr, ht, hw, hf]

theorem pwmRefreshEnd_of_none (hn : (s.pwm h u).run = none ∨ (s.pwm h u).refAt = none ∨ s.pwmFrozen h = true) :
    pwmRefreshEnd h u s = s := by
  unfold pwmRefreshEnd
  dsimp only
  split
  next hr ht =>
    obtain hn | hn | hn := hn
    · simp [hn] at hr
    · simp [hn] at ht
    · exact if_pos (by simp [hn])
  · rfl

/-! ## Trips and freezing (rules R290 to R292) -/

theorem execPwmTripSet_of_none {s : State} {u : Fin 16} (hn : s.blk.pwmLines h u = 0 ∨ s.blk.on h F.PWM_TRIP_LATCH u = true) :
    execPwmTripSet h u s = .next s :=
  if_pos (by simpa using hn)

theorem execPwmTripSet_of_asserted {s : State} {u : Fin 16} (hl : s.blk.pwmLines h u ≠ 0)
    (hn : s.blk.on h F.PWM_TRIP_LATCH u = false) : execPwmTripSet h u s = .next { s with blk := s.blk.pwmTrip h u false } :=
  if_neg (by simp [hl, hn])

theorem Block.pwmTrip_of_set (hl : s.on h F.PWM_TRIP_LATCH u = true) :
    s.pwmTrip h u true = ((s.setF h F.PWM_TRIP_LATCH 1 u).setF h F.PWM_TRIP_SW 1 u).pwmShow h u := by
  simp [Block.pwmTrip, hl]

theorem Block.pwmTrip_of_clear (hl : s.on h F.PWM_TRIP_LATCH u = false)
    (hb : b = ((s.setF h F.PWM_TRIP_LATCH 1 u).setF h F.PWM_TRIP_LINES (s.pwmLines h u) u).setF h F.PWM_TRIP_SW 1 u) :
    s.pwmTrip h u true = (b.pwmShow h u).report h cTRIP 2 8 u (b.w h .PWM_ERR u).toNat := by
  simp [Block.pwmTrip, hl, hb, bitOf]

theorem Block.pwmTripClear_of_unset (hl : s.on h F.PWM_TRIP_LATCH u = false) : s.pwmTripClear h u = s := if_pos (by rw [hl]; rfl)

section
variable (hl : s.on h F.PWM_TRIP_LATCH u = true)
include hl

theorem Block.pwmTripClear_of_free (hn : s.pwmLines h u = 0) :
    s.pwmTripClear h u = ((s.setF h F.PWM_TRIP_LATCH 0 u).modPwm h u fun x => { x with clear := true }).pwmShow h u := by
  simp [Block.pwmTripClear, hl, hn]

theorem Block.pwmTripClear_of_asserted (hn : s.pwmLines h u ≠ 0) :
    s.pwmTripClear h u = (s.setF h F.PWM_TRIP_CLRREF 1 u).report h cOK 0 8 u (s.w h .PWM_ERR u).toNat := by
  simp [Block.pwmTripClear, hl, hn]
end

/-- A half that is halted is frozen; one that runs is frozen in the rungs below Rest. -/
theorem Block.debugHalt_eq (v : Bool) :
    s.debugHalt h v = (List.range 16).foldl (fun t u => t.setF h F.PWM_STAT_FROZEN (bitOf (v || decide (2 ≤ s.rung h))) u)
      ((s.modHalf h fun x => { x with halted := v }).setF h F.PWM_GFRZ_FRZ (bitOf (v || decide (2 ≤ s.rung h)))) := by
  have rung : (s.modHalf h fun x => { x with halted := v }).rung h = s.rung h := Block.modHalf_f ..
  rw [Block.debugHalt, Block.pwmFreeze, rung, Block.modHalf_half]

/-- What an access that completes makes of two equal blocks. -/
theorem Block.completed_congr (hb : b = c) : ({ b with busErr := false } : Block) = { c with busErr := false } := by rw [hb]

end Sys2Proof.Machine

open Sys2Proof Sys2Proof.Machine

/-- Settles O24, row by row: a start by its period and the state of the unit, an update by its mode, a wrap and a match by what awaits
them, an edge, a dead time and a refresh by their time, a trip and its clear by the latch and the lines. -/
theorem pwmRowsComplete : Obligations.PwmRowsComplete :=
  ⟨fun _ _ _ hr hp => State.access_powered hp (Block.pwmEnable_of_refused hr),
   fun _ _ _ hp hi he hg hq => State.access_powered hq (Block.pwmEnable_of_free hp hi he hg),
   fun _ _ _ hp hi he hg hq => State.access_powered hq (Block.pwmEnable_of_gsync hp hi he hg),
   fun _ _ _ hp hi he hq => State.access_powered hq (Block.pwmEnable_of_enabled hp hi he),
   fun _ _ _ hp => exec_pwmDisable hp,
   fun _ _ _ hp => State.access_powered hp rfl,
   fun _ _ _ hu hw hp => State.access_powered hp (Block.completed_congr (Block.pwmLoad_of_no_wrap hu hw)),
   fun _ _ _ _ hu hw hp => State.access_powered hp (Block.completed_congr (Block.pwmLoad_of_wrap hu hw)),
   fun _ _ _ hu hp => State.access_powered hp (Block.completed_congr (Block.pwmLoad_of_immediate hu)),
   fun _ _ _ _ _ _ _ hn hb hu hp => State.access_powered hp (Block.completed_congr (Block.pwmUpdate_of_shadow hn hb hu)),
   fun _ _ _ _ _ _ _ _ hn hb hu hr hi hp => State.access_powered hp (Block.completed_congr
     ((Block.pwmUpdate_of_running hn hb hu hr).trans (Block.modPwm_congr (Pwm.updated_of_compare hi)))),
   fun _ _ _ _ _ _ _ _ hn hb hu hr hi hp => State.access_powered hp (Block.completed_congr
     ((Block.pwmUpdate_of_running hn hb hu hr).trans (Block.modPwm_congr (by rw [hi]; rfl)))),
   fun _ _ _ _ _ _ _ _ hn hb hu hr hi hp => State.access_powered hp (Block.completed_congr
     ((Block.pwmUpdate_of_running hn hb hu hr).trans (Block.modPwm_congr (by rw [hi]; rfl)))),
   fun _ _ _ _ _ _ _ _ hn hb hu hr hi hp => State.access_powered hp (Block.completed_congr
     ((Block.pwmUpdate_of_running hn hb hu hr).trans (Block.modPwm_congr (by rw [hi]; rfl)))),
   fun s _ _ _ _ _ _ hw hs hb hc => s.next_with_blk_congr (pwmWrap_of_some hw hs hb hc),
   fun s _ _ hw => s.next_with_blk_congr (pwmWrap_of_none hw),
   fun s _ _ hh => s.next_with_blk_congr (pwmMatch_of_none hh),
   fun s _ _ _ _ hh => s.next_with_blk_congr (pwmMatch_of_some hh),
   fun s _ _ _ _ _ hn hl hd hf hm => s.next_with_blk_congr (pwmEdgeOut_of_independent (side := false) rfl hn hl hd hf hm rfl),
   fun s _ _ _ _ _ hn hl hh => s.next_with_blk_congr (pwmEdgeOut_of_held (side := false) rfl hn hl hh),
   fun s _ _ hn => s.next_with_blk_congr (pwmEdgeOut_of_none (side := false) rfl hn),
   fun s _ _ _ _ _ hn hl hd hf hm => s.next_with_blk_congr (pwmEdgeOut_of_independent (side := true) rfl hn hl hd hf hm rfl),
   fun s _ _ _ _ _ hn hl hh => s.next_with_blk_congr (pwmEdgeOut_of_held (side := true) rfl hn hl hh),
   fun s _ _ hn => s.next_with_blk_congr (pwmEdgeOut_of_none (side := true) rfl hn),
   fun s _ _ hm => s.next_with_blk_congr (pwmEdgeOut_of_complement hm),
   fun s h u _ e _ _ hn hl hd hf hm hb ho hr => s.next_with_blk_congr ((pwmEdgeOut_of_paired hn hl hd hf hm hb).trans
     (congrArg (Block.pwmShow · h u) (by rw [if_neg ho, hr]; rfl))),
   fun s h u _ e _ _ _ hn hl hd hf hm hb ho hr => s.next_with_blk_congr ((pwmEdgeOut_of_paired hn hl hd hf hm hb).trans
     (congrArg (Block.pwmShow · h u) (by rw [if_neg ho, hr]; rfl))),
   fun s h u _ e _ _ hn hl hd hf hm hb ho => s.next_with_blk_congr ((pwmEdgeOut_of_paired hn hl hd hf hm hb).trans
     (congrArg (Block.pwmShow · h u) (if_pos ho))),
   fun s _ _ _ _ hn ht hw hf => s.next_with_blk_congr (pwmDeadEnd_of_due (side := false) rfl hn ht hw hf),
   fun s _ _ _ _ hn ht hh => s.next_with_blk_congr (pwmDeadEnd_of_held (side := false) rfl hn ht hh),
   fun s _ _ hn => s.next_with_blk_congr (pwmDeadEnd_of_none (side := false) rfl hn),
   fun s _ _ _ _ hn ht hw hf => s.next_with_blk_congr (pwmDeadEnd_of_due (side := true) rfl hn ht hw hf),
   fun s _ _ _ _ hn ht hh => s.next_with_blk_congr (pwmDeadEnd_of_held (side := true) rfl hn ht hh),
   fun s _ _ hn => s.next_with_blk_congr (pwmDeadEnd_of_none (side := true) rfl hn),
   fun s _ _ _ _ hr ht hn he hm hf hw => s.next_with_blk_congr (pwmRefreshStart_of_due hr ht hn he hm hf hw),
   fun s _ _ hn => s.next_with_blk_congr (pwmRefreshStart_of_none hn),
   fun s _ _ _ _ hr ht hw hf => s.next_with_blk_congr (pwmRefreshEnd_of_due hr ht hw hf),
   fun s _ _ hn => s.next_with_blk_congr (pwmRefreshEnd_of_none hn),
   fun _ _ _ hn => execPwmTripSet_of_none hn,
   fun _ _ _ hl hn => execPwmTripSet_of_asserted hl hn,
   fun _ _ _ hl hp => State.access_powered hp (Block.completed_congr (Block.pwmTrip_of_set hl)),
   fun _ _ _ _ hl hb hp => State.access_powered hp (Block.completed_congr (Block.pwmTrip_of_clear hl hb)),
   fun _ _ _ hl hn hp => State.access_powered hp (Block.completed_congr (Block.pwmTripClear_of_free hl hn)),
   fun _ _ _ hl hn hp => State.access_powered hp (Block.completed_congr (Block.pwmTripClear_of_asserted hl hn)),
   fun _ _ _ hl hp => State.access_powered hp (Block.completed_congr (Block.pwmTripClear_of_unset hl)),
   fun s _ => s.next_with_blk_congr (Block.debugHalt_eq true),
   fun s _ _ hv => s.next_with_blk_congr (hv ▸ Block.debugHalt_eq false)⟩
end

section
/-!
What any command can do at most to the state beside the block: the queue stays, RAM stays canonical, and one-time-programmable memory only
moves forward among the four key positions (rules R44, R361, R372). The commands that run other commands (rules R360, R361) inherit it.
-/

namespace Sys2Proof.Machine

/-! ## RAM stays canonical through every write of it -/

theorem State.ramOk_congr {s t : State} (h : t.ram = s.ram) (hs : s.ramOk) : t.ramOk := by rwa [State.ramOk, h]

theorem State.ramOk_with_blk {s : State} (hs : s.ramOk) (b : Block) : ({ s with blk := b } : State).ramOk := hs

/-- Leaving entries out keeps the canonical form. -/
theorem memWfFrom_filter (f : Nat → Word) (p : Nat × Word → Bool) (m : Mem) (lo : Nat) (h : memWfFrom f lo m = true) :
    memWfFrom f lo (m.filter p) = true := by
  induction m generalizing lo with
  | nil => rfl
  | cons e rest ih =>
    simp only [memWfFrom, Bool.and_eq_true, decide_eq_true_eq] at h
    obtain ⟨⟨hlo, hv⟩, hr⟩ := h
    rw [List.filter_cons]
    split
    · simp only [memWfFrom, Bool.and_eq_true, decide_eq_true_eq]
      exact ⟨⟨hlo, hv⟩, ih _ hr⟩
    · exact memWfFrom_mono f _ (by omega) (ih _ hr)

theorem State.ramOk_write {s : State} (hs : s.ramOk) (a : Nat) (v : Word) : Memory.wf ramReset (memSet 0 s.ram a v) = true :=
  memSet_wf ramReset s.ram a v hs

theorem State.writeAt_ramOk {s : State} (hs : s.ramOk) (m : Writer) (a : Nat) (v : Word) : (s.writeAt m a v).ramOk := by
  unfold State.writeAt
  split
  · split <;> exact hs
  · exact hs
  · split
    · exact State.ramOk_write hs a v
    · exact hs

theorem State.readAt_ramOk {s : State} (hs : s.ramOk) (m : Writer) (a : Nat) : (s.readAt m a).ramOk := by
  unfold State.readAt
  split
  · split <;> exact hs
  · exact hs
  · split <;> exact hs

theorem State.arrive_ramOk {s : State} (hs : s.ramOk) (h : HalfId) (w : BMsg) : (s.arrive h w).ramOk := by
  cases w with
  | write => exact State.ramOk_with_blk (State.writeAt_ramOk hs ..) _
  | fab out _ _ _ => cases out <;> exact State.ramOk_with_blk hs _
  | part => exact hs
  | _ => exact State.ramOk_with_blk hs _

theorem State.deliver_ramOk {s : State} (hs : s.ramOk) (h : HalfId) : (s.deliver h).ramOk := by
  unfold State.deliver
  dsimp only
  split
  · exact hs
  · split
    · exact hs
    · exact State.arrive_ramOk (State.ramOk_with_blk hs _) h _

theorem State.foldl_deliver_ramOk {α : Type} (h : HalfId) (l : List α) {s : State} (hs : s.ramOk) :
    (l.foldl (fun t _ => t.deliver h) s).ramOk := by
  induction l generalizing s with
  | nil => exact hs
  | cons x xs ih => exact ih (State.deliver_ramOk hs h)

theorem State.flush_ramOk {s : State} (hs : s.ramOk) (h : HalfId) : (s.flush h).ramOk := State.foldl_deliver_ramOk _ _ hs

theorem State.crossing_ramOk {s : State} (hs : s.ramOk) (l h : HalfId) : (s.crossing l h).ramOk := by
  unfold State.crossing
  split
  · exact hs
  · exact State.flush_ramOk (State.flush_ramOk hs l) h

theorem State.busWrite_ramOk {s : State} (hs : s.ramOk) (m : Writer) (a : Nat) (v : Word) : (s.busWrite m a v).ramOk := by
  unfold State.busWrite
  split
  · exact hs
  split
  · exact hs
  split
  · split <;> exact hs
  · exact State.writeAt_ramOk hs m a v

theorem State.busRead_ramOk {s : State} (hs : s.ramOk) (m : Writer) (a : Nat) : (s.busRead m a).ramOk := by
  unfold State.busRead
  split
  · exact hs
  split
  · split
    · exact State.readAt_ramOk (State.flush_ramOk (State.flush_ramOk hs m.half) m.half.peer) m a
    · exact hs
  · exact State.readAt_ramOk hs m a

theorem State.readRun_ramOk (m : Writer) (n a : Nat) {s : State} (hs : s.ramOk) : (State.readRun m n a s).2.2.ramOk := by
  induction n generalizing a s with
  | zero => exact hs
  | succ n ih =>
    have hr := State.busRead_ramOk hs m a
    unfold State.readRun
    split
    · exact hs
    · dsimp only
      split
      · exact hr
      · exact ih _ hr

theorem State.writeRun_ramOk (m : Writer) (a : Nat) (l : List Word) {s : State} (hs : s.ramOk) :
    (State.writeRun m a l s).2.2.ramOk := by
  induction l generalizing a s with
  | nil => exact hs
  | cons v rest ih =>
    have hw := State.busWrite_ramOk hs m a v
    unfold State.writeRun
    split
    · exact hs
    · dsimp only
      split
      · exact hw
      · exact ih _ hw

theorem State.regRd_ramOk {s : State} (hs : s.ramOk) (l : HalfId) : (s.regRd l).ramOk := by
  unfold State.regRd
  split
  · exact hs
  · exact State.readRun_ramOk _ _ _ (State.crossing_ramOk hs l _)

theorem State.regWr_ramOk {s : State} (hs : s.ramOk) (l : HalfId) : (s.regWr l).ramOk := by
  unfold State.regWr
  split
  · exact hs
  · have hc := State.crossing_ramOk hs l
    dsimp only
    split
    · exact hc _
    · exact State.writeRun_ramOk _ _ _ (hc _)

theorem State.bulk_ramOk {s : State} (hs : s.ramOk) (l : HalfId) : (s.bulk l).ramOk := by
  unfold State.bulk
  split
  · exact State.crossing_ramOk hs l _
  · exact hs

/-! ## Configurations write RAM through records only -/

theorem State.cfgWrite_ramOk {s : State} (hs : s.ramOk) (h : HalfId) (w : CWrite) : (s.cfgWrite h w).1.ramOk := by
  unfold State.cfgWrite
  split
  · exact hs
  · dsimp only
    split
    · exact hs
    · exact State.writeAt_ramOk hs _ _ _

theorem State.cfgRec_ramOk {s : State} (hs : s.ramOk) (h : HalfId) (r : CRec) : (s.cfgRec h r).1.ramOk := by
  suffices ∀ (l : List CWrite) (x : State × Bool), x.1.ramOk →
      (l.foldl (fun x w => if x.2 then x.1.cfgWrite h w else x) x).1.ramOk from this _ _ hs
  intro l
  induction l with
  | nil => exact fun _ hx => hx
  | cons w ws ih =>
    intro x hx
    rw [List.foldl_cons]
    refine ih _ ?_
    split
    · exact State.cfgWrite_ramOk hx h w
    · exact hx

theorem State.cfgApply_ramOk {h : HalfId} {l : List CRec} {i : Nat} {s t : State} (hs : s.ramOk)
    (ht : s.cfgApply h i l = .inl t) : t.ramOk := by
  induction l generalizing i s with
  | nil => exact Sum.inl.inj ht ▸ hs
  | cons r rs ih =>
    unfold State.cfgApply at ht
    dsimp only at ht
    split at ht
    · exact ih (State.cfgRec_ramOk hs h r) ht
    · cases ht

theorem State.applyBase_ramOk {s t : State} {h : HalfId} {ws : List Word} (hs : s.ramOk) (ht : s.applyBase h ws = .inl t) :
    t.ramOk := by
  unfold State.applyBase at ht
  split at ht
  next u hu => cases ht; exact State.ramOk_with_blk (State.cfgApply_ramOk (State.ramOk_with_blk hs _) hu) _
  next => cases ht

theorem State.commitBase_ramOk {s : State} (hs : s.ramOk) (h : HalfId) (ws : List Word) : (s.commitBase h ws).1.ramOk := by
  unfold State.commitBase
  dsimp only
  split
  · exact hs
  split
  · exact hs
  split
  · exact hs
  split
  · exact hs
  split
  · exact hs
  next t ht =>
    split
    · exact hs
    · exact State.ramOk_with_blk (State.applyBase_ramOk hs ht) _

theorem State.commitOverlay_ram (s : State) (h : HalfId) (mode : Nat) (ws : List Word) : (s.commitOverlay h mode ws).1.ram = s.ram := by
  unfold State.commitOverlay
  dsimp only
  split
  · rfl
  split
  · rfl
  split
  · rfl
  split
  · rfl
  split <;> rfl

theorem State.commitEnd_ramOk {s : State} (hs : s.ramOk) (h : HalfId) (c : LongCmd) : (s.commitEnd h c).1.ramOk := by
  have commit (id len mode : Nat) (pay ws : List Word) : (s.commit h id len mode pay ws).1.ramOk := by
    unfold State.commit
    dsimp only
    split
    · exact hs
    split
    · exact State.commitBase_ramOk hs h ws
    · exact State.ramOk_congr (s.commitOverlay_ram h mode ws) hs
  unfold State.commitEnd
  dsimp only
  split
  · exact hs
  · split <;> exact commit ..

theorem State.saStep_ramOk {s : State} (hs : s.ramOk) (flash : List Word) (x : SaEntry) : (s.saStep flash x).1.ramOk := by
  unfold State.saStep
  dsimp only
  split
  · exact hs
  split
  · exact State.commitBase_ramOk hs _ _
  · exact State.ramOk_congr (s.commitOverlay_ram _ _ _) hs

theorem State.saAll_ramOk (flash : List Word) (e : Nat) {s : State} (l : List SaEntry) (hs : s.ramOk) :
    (State.saAll flash e s l).1.ramOk := by
  induction l generalizing e s with
  | nil => exact hs
  | cons x rest ih =>
    have hx := State.saStep_ramOk hs flash x
    unfold State.saAll
    split
    · exact ih _ hs
    · dsimp only
      split
      · exact ih _ hx
      · exact hx

theorem State.saRun_ramOk {s : State} (hs : s.ramOk) (flash : List Word) : (s.saRun flash).1.ramOk := by
  have h := State.saAll_ramOk flash 0 (saEntries flash) hs
  unfold State.saRun
  dsimp only
  split
  · exact hs
  split
  · exact hs
  split
  next t f ht => rw [ht] at h; exact h
  next t ht =>
    rw [ht] at h
    split
    · exact h
    · split <;> exact h

theorem execStandaloneStart_ramOk {flash : List (BitVec 8)} {s t : State} (hs : s.ramOk)
    (ht : execStandaloneStart flash s = .next t) : t.ramOk := by
  unfold execStandaloneStart at ht
  split at ht
  · cases ht; exact hs
  · cases ht; exact State.saRun_ramOk hs (flashWords flash)

/-- Of the ends of a long command, that of a commit alone writes RAM. -/
theorem State.longEnd_ramOk {s : State} {h : HalfId} {c : LongCmd} {r : State × Word × List Word} (hs : s.ramOk)
    (hr : s.longEnd h c = some r) : r.1.ramOk := by
  unfold State.longEnd at hr
  dsimp only at hr
  split at hr
  · cases hr; exact hs
  split at hr
  · cases hr; exact State.commitEnd_ramOk hs h c
  · cases hr; exact hs
  · cases hr; exact hs
  · cases hr; exact State.ramOk_congr (s.setFirm_ram h _) hs
  · obtain ⟨x, -, rfl⟩ := Option.map_eq_some_iff.1 hr
    exact hs

theorem longComplete_ramOk {s : State} (hs : s.ramOk) (h : HalfId) : (longComplete h s).ramOk := by
  unfold longComplete
  split
  · exact hs
  split
  · exact hs
  split
  · exact hs
  next hr => exact State.longEnd_ramOk hs hr

theorem windowPointSample_ramOk {s t : State} {h : HalfId} {k : Fin 2} {code : BitVec 16} {r : Range} (hs : s.ramOk)
    (ht : execWindowPointSample h k code r s = .next t) : t.ramOk := by
  cases ht
  unfold State.ramOk
  dsimp only
  split
  · exact State.ramOk_write hs ..
  · exact hs

theorem ladderDescent_ramOk {s : State} (hs : s.ramOk) (h : HalfId) : (ladderDescent h s).ramOk := by
  unfold ladderDescent
  dsimp only
  split
  · split <;> exact hs
  split
  · exact hs
  unfold State.ramOk
  dsimp only
  split
  · exact memWfFrom_filter ramReset _ _ 0 hs
  · exact hs

/-- A command of the host keeps what its body keeps of all that is no part of the block. -/
theorem State.command_induct {P : State → Prop} (hp : ∀ t b, P t → P { t with blk := b }) {body : State → State × List Word}
    {s : State} (hs : P s) (hb : P (body s).1) (h : HalfId) (secure : Bool) (hdr : Word) (pay : List Word) :
    P (s.command h secure hdr pay body) := by
  unfold State.command
  split
  · exact hp s _ hs
  split
  · exact hp s _ hs
  split
  · exact hp s _ hs
  · exact hp _ _ hb

theorem execRegRead_ramOk {h : HalfId} {secure : Bool} {seq : BitVec 10} {pay : List Word} {s t : State} (hs : s.ramOk)
    (ht : execRegRead h secure seq pay s = .next t) : t.ramOk := by
  cases ht
  exact State.command_induct (P := State.ramOk) (fun _ _ hu => hu) hs (State.readRun_ramOk _ _ _ hs) ..

theorem execRegWrite_ramOk {h : HalfId} {secure : Bool} {seq : BitVec 10} {pay : List Word} {s t : State} (hs : s.ramOk)
    (ht : execRegWrite h secure seq pay s = .next t) : t.ramOk := by
  cases ht
  refine State.command_induct (P := State.ramOk) (fun _ _ hu => hu) hs ?_ ..
  split
  · exact hs
  · exact State.writeRun_ramOk _ _ _ hs

/-- Every command that runs no other keeps RAM canonical. -/
theorem exec_ramOk {c : Instr} {s t : State} (hc : runsWords c = false) (hs : s.ramOk) (ht : exec c s = .next t) : t.ramOk := by
  cases hw : writesRam c with
  | false => exact State.ramOk_congr (exec_keeps_ram hw ht) hs
  | true =>
    cases c with
    | registerWrite h m a v => cases ht; exact State.busWrite_ramOk hs ⟨h, m⟩ a.toNat v
    | crossHalfAccess h m write off v =>
      cases ht
      cases write with
      | false => exact State.busRead_ramOk hs ⟨h, m⟩ _
      | true => exact State.busWrite_ramOk hs ⟨h, m⟩ _ v
    | bridgeWordDeliver h => cases ht; exact State.deliver_ramOk hs h
    | qhlRegWr h => cases ht; exact State.regWr_ramOk hs h
    | qhlRegRd h => cases ht; exact State.regRd_ramOk hs h
    | qhlBulkFrame h => cases ht; exact State.bulk_ramOk hs h
    | qhlOutboundFrame h half c n => cases ht; exact State.crossing_ramOk hs h half
    | regWrite => exact execRegWrite_ramOk hs ht
    | regRead => exact execRegRead_ramOk hs ht
    | longCommandComplete h => cases ht; exact longComplete_ramOk hs h
    | standaloneStart => exact execStandaloneStart_ramOk hs ht
    | windowPointSample => exact windowPointSample_ramOk hs ht
    | aonPowerOn => cases ht; rfl
    | ladderDescent h => cases ht; exact ladderDescent_ramOk hs h
    | mbxTake | firmwareVerify | ladderWakeComplete => cases hc
    | _ => cases hw

/-! ## The queue and one-time-programmable memory -/

/-- One-time-programmable memory moves forward, and its key position stays among the four. -/
def Fuses.Forward (f g : Fuses) : Prop := f.secver ≤ g.secver ∧ f.keyPos ≤ g.keyPos ∧ (f.keyPos ≤ 3 → g.keyPos ≤ 3)

theorem Fuses.Forward.refl (f : Fuses) : f.Forward f := ⟨Nat.le_refl _, Nat.le_refl _, id⟩

theorem Fuses.Forward.trans {f g k : Fuses} : f.Forward g → g.Forward k → f.Forward k
  | ⟨hv, hp, hk⟩, ⟨hv', hp', hk'⟩ => ⟨hv.trans hv', hp.trans hp', hk' ∘ hk⟩

theorem State.setFuse_forward {s : State} {h : HalfId} {x : Fuses} (hx : (s.fuse h).Forward x) (k : HalfId) :
    (s.fuse k).Forward ((s.setFuse h x).fuse k) :=
  match h, k, hx with
  | .a, .a, hx | .b, .b, hx => hx
  | .a, .b, _ | .b, .a, _ => Fuses.Forward.refl _

theorem secverSet_forward (h : HalfId) (v : Nat) (s : State) (k : HalfId) : (s.fuse k).Forward ((secverSet h v s).1.fuse k) := by
  unfold secverSet
  dsimp only
  split
  next hv =>
    simp only [Bool.and_eq_true, decide_eq_true_eq] at hv
    have hx : (s.fuse h).Forward { s.fuse h with secver := v } := ⟨hv.1.le, Nat.le_refl _, id⟩
    exact State.setFuse_forward hx k
  · exact Fuses.Forward.refl _

theorem keyAdvance_forward (h : HalfId) (s : State) (k : HalfId) : (s.fuse k).Forward ((keyAdvance h s).1.fuse k) := by
  unfold keyAdvance
  dsimp only
  split
  next hp =>
    simp only [Bool.and_eq_true, decide_eq_true_eq] at hp
    have hx : (s.fuse h).Forward { s.fuse h with keyPos := (s.fuse h).keyPos + 1 } := ⟨Nat.le_refl _, Nat.le_succ _, fun _ => hp.1⟩
    exact State.setFuse_forward hx k
  · exact Fuses.Forward.refl _

/-- Every command that runs no other moves one-time-programmable memory forward only. -/
theorem exec_forward {c : Instr} {s t : State} (hc : runsWords c = false) (ht : exec c s = .next t) (k : HalfId) :
    (s.fuse k).Forward (t.fuse k) := by
  have hp (u : State) (b : Block) (hu : (s.fuse k).Forward (u.fuse k)) :
      (s.fuse k).Forward (({ u with blk := b } : State).fuse k) := by cases k <;> exact hu
  cases ho : writesOtp c with
  | false => rw [exec_keeps_fuse ho ht]; exact Fuses.Forward.refl _
  | true =>
    cases c with
    | secverSet h secure seq pay =>
      cases ht
      exact State.command_induct hp (Fuses.Forward.refl _) (secverSet_forward h _ s k) ..
    | keyAdvance h secure seq pay =>
      cases ht
      exact State.command_induct hp (Fuses.Forward.refl _) (keyAdvance_forward h s k) ..
    | mbxTake | firmwareVerify | ladderWakeComplete => cases hc
    | _ => cases ho

@[simp] theorem State.setFirm_pending (s : State) (h : HalfId) (x : Firm) : (s.setFirm h x).pending = s.pending := by cases h <;> rfl
@[simp] theorem State.setFuse_pending (s : State) (h : HalfId) (x : Fuses) : (s.setFuse h x).pending = s.pending := by cases h <;> rfl

theorem State.pending_eq_of_beside {s t : State} (h : t.beside = s.beside) : t.pending = s.pending := by
  simp only [State.beside, Prod.mk.injEq] at h
  exact h.2.2.2.2

theorem State.longEnd_pending {s : State} {h : HalfId} {c : LongCmd} {r : State × Word × List Word} (hr : s.longEnd h c = some r) :
    r.1.pending = s.pending := by
  unfold State.longEnd at hr
  dsimp only at hr
  split at hr
  · cases hr; rfl
  split at hr
  · cases hr; exact State.pending_eq_of_beside (s.commitEnd_beside h c)
  · cases hr; rfl
  · cases hr; rfl
  · cases hr; exact s.setFirm_pending h _
  · obtain ⟨x, -, rfl⟩ := Option.map_eq_some_iff.1 hr
    rfl

theorem longComplete_pending (h : HalfId) (s : State) : (longComplete h s).pending = s.pending := by
  unfold longComplete
  split
  · rfl
  split
  · rfl
  split
  · rfl
  next hr => exact State.longEnd_pending hr

theorem fwSelect_pending (h : HalfId) (s : State) : (fwSelect h s).1.pending = s.pending := by
  simp only [fwSelect, apply_ite Prod.fst, apply_ite State.pending, State.setFirm_pending, ite_self]

theorem secverSet_pending (h : HalfId) (v : Nat) (s : State) : (secverSet h v s).1.pending = s.pending := by
  simp only [secverSet, apply_ite Prod.fst, apply_ite State.pending, State.setFuse_pending, ite_self]

theorem keyAdvance_pending (h : HalfId) (s : State) : (keyAdvance h s).1.pending = s.pending := by
  simp only [keyAdvance, apply_ite Prod.fst, apply_ite State.pending, State.setFuse_pending, ite_self]

/-- Every command that runs no other leaves the queue. -/
theorem exec_pending {c : Instr} {s t : State} (hc : runsWords c = false) (ht : exec c s = .next t) : t.pending = s.pending := by
  cases hx : writesOtp c || writesFirmware c with
  | false =>
    simp only [Bool.or_eq_false_iff] at hx
    exact State.pending_eq_of_beside (exec_keeps_beside hx.1 hx.2 ht)
  | true =>
    have hp (t : State) (b : Block) : ({ t with blk := b } : State).pending = t.pending := rfl
    cases c with
    | secverSet h secure seq pay => cases ht; exact State.command_keeps State.pending hp (secverSet_pending h _) ..
    | keyAdvance h secure seq pay => cases ht; exact State.command_keeps State.pending hp (keyAdvance_pending h) ..
    | fwSelect h secure seq pay => cases ht; exact State.command_keeps State.pending hp (fwSelect_pending h) ..
    | longCommandComplete h => cases ht; exact longComplete_pending h s
    | mbxTake | firmwareVerify | ladderWakeComplete => cases hc
    | _ => cases hx

/-! ## The three together, through the commands that run other commands -/

/-- What a command can do at most to the state beside the block. -/
structure State.Moves (s t : State) : Prop where
  pending : t.pending = s.pending
  ram : s.ramOk → t.ramOk
  fuse : ∀ k, (s.fuse k).Forward (t.fuse k)

theorem State.Moves.with_blk {s t : State} (h : s.Moves t) (b : Block) : s.Moves { t with blk := b } where
  pending := h.pending
  ram := h.ram
  fuse k := by cases k <;> exact h.fuse _

theorem State.Moves.refl (s : State) : s.Moves s := ⟨rfl, id, fun _ => Fuses.Forward.refl _⟩

theorem State.moves_blk (s : State) (b : Block) : s.Moves { s with blk := b } := (State.Moves.refl s).with_blk b

theorem State.Moves.trans {s t u : State} (h : s.Moves t) (g : t.Moves u) : s.Moves u where
  pending := g.pending.trans h.pending
  ram := g.ram ∘ h.ram
  fuse k := (h.fuse k).trans (g.fuse k)

theorem State.moves_setFirm (s : State) (h : HalfId) (x : Firm) : s.Moves (s.setFirm h x) where
  pending := s.setFirm_pending h x
  ram := State.ramOk_congr (s.setFirm_ram h x)
  fuse k := by rw [State.setFirm_fuse]; exact Fuses.Forward.refl _

theorem moves_of_exec {c : Instr} {s t : State} (hc : runsWords c = false) (ht : exec c s = .next t) : s.Moves t :=
  ⟨exec_pending hc ht, fun hs => exec_ramOk hc hs ht, exec_forward hc ht⟩

/-- A command that words spell is one of the commands that run no other, or none (rule R371). -/
theorem hostOutcome_eq_exec (h : HalfId) (secure : Bool) (hdr : Word) (pay : List Word) (s : State) :
    (∃ c, runsWords c = false ∧ hostOutcome h secure hdr pay s = exec c s) ∨ hostOutcome h secure hdr pay s = .next s := by
  unfold hostOutcome
  dsimp only
  split
  · exact .inl ⟨.nop .., rfl, rfl⟩
  · exact .inl ⟨.ident .., rfl, rfl⟩
  · exact .inl ⟨.status .., rfl, rfl⟩
  · exact .inl ⟨.noticeMask .., rfl, rfl⟩
  · exact .inl ⟨.time .., rfl, rfl⟩
  · exact .inl ⟨.echo .., rfl, rfl⟩
  · exact .inl ⟨.streamAbort .., rfl, rfl⟩
  · exact .inl ⟨.noticeReplay .., rfl, rfl⟩
  · exact .inl ⟨.reset .., rfl, rfl⟩
  · exact .inl ⟨.secChallenge .., rfl, rfl⟩
  · exact .inl ⟨.secUnlock .., rfl, rfl⟩
  · exact .inl ⟨.secClose .., rfl, rfl⟩
  · exact .inl ⟨.canTx .., rfl, rfl⟩
  · exact .inl ⟨.canFilter .., rfl, rfl⟩
  · exact .inl ⟨.cfgOpen .., rfl, rfl⟩
  · exact .inl ⟨.cfgCommit .., rfl, rfl⟩
  · exact .inl ⟨.cfgAbort .., rfl, rfl⟩
  · exact .inl ⟨.cfgStatus .., rfl, rfl⟩
  · exact .inl ⟨.schedLoadBegin .., rfl, rfl⟩
  · exact .inl ⟨.schedLoadEnd .., rfl, rfl⟩
  · exact .inl ⟨.schedActivate .., rfl, rfl⟩
  · exact .inl ⟨.schedDeactivate .., rfl, rfl⟩
  · exact .inl ⟨.schedStatus .., rfl, rfl⟩
  · exact .inl ⟨.schedList .., rfl, rfl⟩
  · exact .inl ⟨.schedDelete .., rfl, rfl⟩
  · exact .inl ⟨.evtSubmit .., rfl, rfl⟩
  · exact .inl ⟨.evtCancel .., rfl, rfl⟩
  · exact .inl ⟨.trimSet .., rfl, rfl⟩
  · exact .inl ⟨.trimRead .., rfl, rfl⟩
  · exact .inl ⟨.creditRead .., rfl, rfl⟩
  · exact .inl ⟨.phaseSet .., rfl, rfl⟩
  · exact .inl ⟨.modeSet .., rfl, rfl⟩
  · exact .inl ⟨.regRead .., rfl, rfl⟩
  · exact .inl ⟨.regWrite .., rfl, rfl⟩
  · exact .inl ⟨.logRead .., rfl, rfl⟩
  · exact .inl ⟨.logClear .., rfl, rfl⟩
  · exact .inl ⟨.tallyRead .., rfl, rfl⟩
  · exact .inl ⟨.fwBegin .., rfl, rfl⟩
  · exact .inl ⟨.fwEnd .., rfl, rfl⟩
  · exact .inl ⟨.fwSelect .., rfl, rfl⟩
  · exact .inl ⟨.secverSet .., rfl, rfl⟩
  · exact .inl ⟨.keyAdvance .., rfl, rfl⟩
  · split
    · exact .inl ⟨.commandUnknown .., rfl, rfl⟩
    · exact .inr rfl

theorem State.moves_hostCommand (s : State) (h : HalfId) (secure : Bool) (hdr : Word) (pay : List Word) :
    s.Moves (s.hostCommand h secure hdr pay) := by
  unfold State.hostCommand
  obtain ⟨c, hc, he⟩ | he := hostOutcome_eq_exec h secure hdr pay s
  · split
    next t ht => exact moves_of_exec hc (he.symm.trans ht)
    · exact State.Moves.refl s
  · simp only [he]
    exact State.Moves.refl s

theorem State.moves_foldl_hostCommand (h : HalfId) (secure : Bool) (l : List (Word × List Word)) (s : State) :
    s.Moves (l.foldl (fun t c => t.hostCommand h secure c.1 c.2) s) := by
  induction l generalizing s with
  | nil => exact State.Moves.refl s
  | cons c l ih => exact (s.moves_hostCommand h secure c.1 c.2).trans (ih _)

theorem State.moves_runWaiting (s : State) (h : HalfId) : s.Moves (s.runWaiting h) := by
  unfold State.runWaiting
  split
  · exact State.Moves.refl s
  · exact ((s.moves_blk _).trans (State.moves_foldl_hostCommand h true _ _)).trans (State.moves_foldl_hostCommand h false _ _)

theorem State.moves_hipWord (s : State) (h : HalfId) (secure : Bool) (w : Word) : s.Moves (s.hipWord h secure w) := by
  unfold State.hipWord
  split
  · exact State.Moves.refl s
  · split
    · exact s.moves_blk _
    · exact (s.moves_blk _).trans (State.moves_hostCommand ..)

theorem moves_of_execMbxTake {h : HalfId} {m : Fin 16} {who : Master} {s t : State} (ht : execMbxTake h m who s = .next t) :
    s.Moves t := by
  unfold execMbxTake at ht
  dsimp only at ht
  split at ht
  · cases ht
    exact ((s.moves_blk _).trans (State.moves_hipWord ..)).with_blk _
  · cases ht
    exact s.moves_blk _

theorem moves_firmwareVerify (h : HalfId) (s : State) : s.Moves (firmwareVerify h s) := by
  unfold firmwareVerify
  dsimp only
  split
  · exact State.Moves.refl s
  split
  · exact ((s.moves_blk _).trans (State.moves_setFirm ..)).trans (State.moves_runWaiting ..)
  · exact s.moves_blk _

theorem moves_of_execLadderWakeComplete {h : HalfId} {s t : State} (ht : execLadderWakeComplete h s = .next t) : s.Moves t := by
  unfold execLadderWakeComplete at ht
  split at ht
  · cases ht; exact State.Moves.refl s
  · cases ht; exact (s.moves_blk _).trans (State.moves_runWaiting ..)

theorem exec_moves {c : Instr} {s t : State} (ht : exec c s = .next t) : s.Moves t := by
  cases hc : runsWords c with
  | false => exact moves_of_exec hc ht
  | true =>
    cases c with
    | mbxTake => exact moves_of_execMbxTake ht
    | firmwareVerify h => cases ht; exact moves_firmwareVerify h s
    | ladderWakeComplete => exact moves_of_execLadderWakeComplete ht
    | _ => cases hc

theorem step_cases {s t : State} (ht : step s = .next t) :
    (s.pending = [] ∧ t = { s with blk := s.blk.tick }) ∨ ∃ c rest, s.pending = c :: rest ∧ exec c { s with pending := rest } = .next t := by
  unfold step at ht
  split at ht
  next hs => cases ht; exact .inl ⟨hs, rfl⟩
  next c rest hs => exact .inr ⟨c, rest, hs, ht⟩

/-- A step moves RAM and one-time-programmable memory as its command does; an ANGCLK with no command waiting leaves them. -/
theorem step_moves {s t : State} (ht : step s = .next t) : (s.ramOk → t.ramOk) ∧ ∀ k, (s.fuse k).Forward (t.fuse k) := by
  obtain ⟨-, rfl⟩ | ⟨c, rest, -, he⟩ := step_cases ht
  · exact ⟨(s.moves_blk _).ram, (s.moves_blk _).fuse⟩
  · exact ⟨(exec_moves he).ram, fun k => by have := (exec_moves he).fuse k; cases k <;> exact this⟩

/-! ## The two commands on one-time-programmable memory (rule R372) -/

theorem secverSet_eq (h : HalfId) (v : Nat) (s : State) {ok : Bool}
    (hok : ok = (decide ((s.fuse h).secver < v) && [0, 1].all fun i => fwGood (s.fuse h).keyPos v ((s.firm h).slot i))) :
    secverSet h v s = if ok then (s.setFuse h { s.fuse h with secver := v }, [stOK]) else (s, no cCONFIG_INVALID rsVERSION 1) := by
  rw [hok]; rfl

theorem keyAdvance_eq (h : HalfId) (s : State) {ok : Bool}
    (hok : ok = (decide ((s.fuse h).keyPos < 3) && [0, 1].all fun i => Config.fwVerifies ((s.fuse h).keyPos + 1) ((s.firm h).slot i))) :
    keyAdvance h s =
      if ok then (s.setFuse h { s.fuse h with keyPos := (s.fuse h).keyPos + 1 }, [stOK, wd ((s.fuse h).keyPos + 1)])
      else (s, no cCONFIG_INVALID rsVERSION 0) := by
  rw [hok]; rfl

/-- A command whose body burns a fuse or refuses: the fuse, the peer's, and the reply. -/
theorem State.cmd_of_burn {s : State} {h : HalfId} {secure ok : Bool} {code : Nat} {seq : BitVec 10} {pay yes refusal : List Word}
    {x : Fuses} {body : State → State × List Word} (hc : code < 256) (ha : s.blk.accepts h secure code seq pay = true)
    (hb : body s = if ok then (s.setFuse h x, yes) else (s, refusal)) :
    ∃ t, s.cmd h secure code seq pay body = .next t ∧ t.fuse h = (if ok then x else s.fuse h) ∧ t.fuse h.peer = s.fuse h.peer ∧
      t.blk = s.blk.reply h secure (header code pay.length seq.toNat) (if ok then yes else refusal) := by
  refine ⟨_, cmd_of_accepts body hc ha, ?_⟩
  cases ok <;> simp only [hb] <;> cases h <;> exact ⟨rfl, rfl, rfl⟩

end Sys2Proof.Machine

open Sys2Proof Sys2Proof.Machine

/-- Settles O40: what a command can do at most to RAM and one-time-programmable memory, for the step's command. -/
theorem stepKeepsSound : Obligations.StepKeepsSound := by
  intro s t ⟨hr, hka, hkb⟩ ht
  obtain ⟨ram, fuse⟩ := step_moves ht
  exact ⟨ram hr, (fuse .a).2.2 hka, (fuse .b).2.2 hkb⟩

/-- Settles O41: the two commands by their conditions, and every step by what a command can do at most. -/
theorem otpIsIrreversible : Obligations.OtpIsIrreversible :=
  ⟨fun s h _ _ pay _ ha hok => State.cmd_of_burn (by decide) ha (secverSet_eq h (pw pay 1) s hok),
   fun s h _ _ _ _ ha hok => State.cmd_of_burn (by decide) ha (keyAdvance_eq h s hok),
   fun _ _ ht h => have ⟨hv, hp, _⟩ := (step_moves ht).2 h; ⟨hv, hp⟩⟩

/-- Settles O42, with the commands that run other commands. -/
theorem execKeepsQueue : Obligations.ExecKeepsQueue := fun _ _ _ ht => (exec_moves ht).pending
end

section
/-!
Operations that every chapter shares: notices, reports, the derivation of the helm, and what becomes of a repeated or refused command
(rules R363, R364, R368, R376, R419, R433, R490).
-/

namespace Sys2Proof.Machine

variable {s t u : Block} {h k : HalfId} {x : Fld} {v i j : Nat}

/-! ## Notices (rules R364, R376) -/

/-- Trimming drops the oldest notices only, and leaves a buffer within its limits. -/
theorem trimReplay_spec (l : List Notice) :
    trimReplay l <:+ l ∧ (trimReplay l).length ≤ 512 ∧ noticeWords (trimReplay l) ≤ 4096 := by
  induction l with
  | nil => exact ⟨List.suffix_refl _, Nat.zero_le _, Nat.zero_le _⟩
  | cons n rest ih =>
    unfold trimReplay
    split
    · exact ⟨ih.1.trans (List.suffix_cons n rest), ih.2⟩
    next hf =>
      simp only [Bool.or_eq_true, decide_eq_true_eq, not_or, Nat.not_lt] at hf
      exact ⟨List.suffix_refl _, hf⟩

/-- A buffer within its limits stays whole. -/
theorem trimReplay_of_fits {l : List Notice} (hn : l.length ≤ 512) (hw : noticeWords l ≤ 4096) : trimReplay l = l := by
  cases l with
  | nil => rfl
  | cons n rest => exact if_neg (by simpa using ⟨hn, hw⟩)

theorem Block.notice_of_stopped {code : Nat} {ws : List Word} (hr : (s.half h).hip.running = false) : s.notice h code ws = s := by
  cases h <;> simp_all [Block.notice, Block.modHalf, Block.half, Block.setHalf]

/-! ## Reports (rule R433) -/

theorem queueReport_other (r : Report) (l : List Report) :
    (queueReport r l).filter (fun x => x.stamp != r.stamp) = l.filter fun x => x.stamp != r.stamp := by
  have none : (insertBy (fun x : Report => x.block * 128 + x.index) r (l.filter fun x => x.stamp == r.stamp)).filter
      (fun x => x.stamp != r.stamp) = [] := by
    rw [List.filter_eq_nil_iff]
    intro y hy
    obtain rfl | hy := List.mem_cons.1 ((insertBy_perm _ _ _).mem_iff.1 hy)
    · simp
    · simpa using (List.mem_filter.1 hy).2
  simp [queueReport, List.filter_append, none]

theorem queueReport_same (r : Report) (l : List Report) :
    (queueReport r l).filter (fun x => x.stamp == r.stamp) =
      insertBy (fun x => x.block * 128 + x.index) r (l.filter fun x => x.stamp == r.stamp) := by
  have all : (insertBy (fun x : Report => x.block * 128 + x.index) r (l.filter fun x => x.stamp == r.stamp)).filter
      (fun x => x.stamp == r.stamp) = insertBy (fun x => x.block * 128 + x.index) r (l.filter fun x => x.stamp == r.stamp) := by
    rw [List.filter_eq_self]
    intro y hy
    obtain rfl | hy := List.mem_cons.1 ((insertBy_perm _ _ _).mem_iff.1 hy)
    · simp
    · exact (List.mem_filter.1 hy).2
  have none : (l.filter fun x => x.stamp != r.stamp).filter (fun x => x.stamp == r.stamp) = [] := by
    simp [List.filter_eq_nil_iff]
  rw [queueReport, List.filter_append, none, all, List.nil_append]

theorem queueReport_pairwise (r : Report) (l : List Report)
    (hl : (l.filter fun x => x.stamp == r.stamp).Pairwise fun x y => x.block * 128 + x.index ≤ y.block * 128 + y.index) :
    ((queueReport r l).filter fun x => x.stamp == r.stamp).Pairwise fun x y => x.block * 128 + x.index ≤ y.block * 128 + y.index := by
  rw [queueReport_same]
  exact insertBy_pairwise _ _ _ hl

/-- Where no report of the same instant waits, the report goes behind all that do. -/
theorem queueReport_of_later {r : Report} {l : List Report} (hl : l.all (fun x => x.stamp != r.stamp) = true) :
    queueReport r l = l ++ [r] := by
  have other : l.filter (fun x => x.stamp != r.stamp) = l := List.filter_eq_self.2 (List.all_eq_true.1 hl)
  have same : l.filter (fun x => x.stamp == r.stamp) = [] := by
    rw [List.filter_eq_nil_iff]
    intro y hy
    simpa using List.all_eq_true.1 hl y hy
  simp [queueReport, other, same, insertBy]

section
variable {wide : Bool} {code cls block index detail : Nat}

theorem Block.reportAs_of_room (hq : (s.half h).hl.queue.length < 32) :
    s.reportAs wide h code cls block index detail =
      s.setHalf h { s.half h with hl := { (s.half h).hl with
        queue := queueReport ⟨code, cls, block, index, detail % 65536, (s.half h).tsc, wide⟩ (s.half h).hl.queue } } := if_pos hq

theorem Block.reportAs_of_full (hq : 32 ≤ (s.half h).hl.queue.length) :
    s.reportAs wide h code cls block index detail =
      ((s.count h F.LOG_LOSS_LOST block).setF h F.HLM_ERR_LOGLOSS 1).modHalf h fun y =>
        { y with hl := { y.hl with lostCode := y.hl.lostCode.set block code } } := if_neg (Nat.not_lt.2 hq)

/-- LOG_LOSS of a block stands apart from HLM_ERR. -/
theorem Reg.logLoss_addr_ne_hlmErr (h : HalfId) (block : Nat) (hb : block < 28) :
    Reg.LOG_LOSS.addr h block 0 ≠ Reg.HLM_ERR.addr h 0 0 := by
  have has : Reg.LOG_LOSS.has h block 0 = true := by
    have : block < 32 := by omega
    simpa [Reg.has, Reg.info] using this
  exact fun ha => nomatch (Reg.word_eq_of_addr_eq has (by cases h <;> rfl) ha).1
end

/-! ## The helm (rule R419) -/

/-- An update leaves what the helm is derived from, and HELM. -/
structure Block.KeepsHelm (s t : Block) (h : HalfId) : Prop where
  stat : t.w h .HLM_STAT = s.w h .HLM_STAT
  helm : t.f h F.ADM_STAT_HELM = s.f h F.ADM_STAT_HELM
  lost : (t.half h).hl.lost = (s.half h).hl.lost

namespace Block.KeepsHelm

theorem refl : s.KeepsHelm s h := ⟨rfl, rfl, rfl⟩

theorem trans (a : s.KeepsHelm t h) (b : t.KeepsHelm u h) : s.KeepsHelm u h :=
  ⟨b.stat.trans a.stat, b.helm.trans a.helm, b.lost.trans a.lost⟩

theorem ite {c : Prop} [Decidable c] (a : s.KeepsHelm t h) (b : s.KeepsHelm u h) : s.KeepsHelm (if c then t else u) h := by
  split
  · exact a
  · exact b

theorem modHalf (a : s.KeepsHelm t h) {f : Half → Half} (hl : (f (t.half h)).hl.lost = (t.half h).hl.lost) :
    s.KeepsHelm (t.modHalf h f) h :=
  a.trans ⟨Block.modHalf_w .., Block.modHalf_f .., by rw [Block.modHalf_half, hl]⟩

/-- A register of the map other than ADM_STAT and HLM_STAT is written. -/
theorem setW (a : s.KeepsHelm t h) {r : Reg} (v : Word) (hr : r.has k i j = true) (ha : r ≠ .ADM_STAT) (hs : r ≠ .HLM_STAT) :
    s.KeepsHelm (t.setW k r v i j) h := by
  have adm : Reg.ADM_STAT.has h 0 0 = true := by cases h <;> rfl
  have hlm : Reg.HLM_STAT.has h 0 0 = true := by cases h <;> rfl
  refine a.trans ⟨Block.setW_w_ne _ _ _ _ _ _ _ _ _ _ fun e => hs (Reg.word_eq_of_addr_eq hlm hr e).1.symm, ?_, by rw [Block.setW_half]⟩
  exact congrArg (fun w => bits (BitVec.toNat w) _ _)
    (Block.setW_w_ne _ _ _ _ .ADM_STAT _ _ _ _ _ fun e => ha (Reg.word_eq_of_addr_eq adm hr e).1.symm)

theorem setF (a : s.KeepsHelm t h) (x : Fld) (v : Nat) (hr : x.reg.has k i j = true) (ha : x.reg ≠ .ADM_STAT)
    (hs : x.reg ≠ .HLM_STAT) : s.KeepsHelm (t.setF k x v i j) h := a.setW _ hr ha hs

theorem count (a : s.KeepsHelm t h) (x : Fld) (hr : x.reg.has k i j = true) (ha : x.reg ≠ .ADM_STAT) (hs : x.reg ≠ .HLM_STAT) :
    s.KeepsHelm (t.count k x i j) h := by
  unfold Block.count
  exact .ite (a.setF x _ hr ha hs) a

theorem notice (a : s.KeepsHelm t h) (code : Nat) (ws : List Word) : s.KeepsHelm (t.notice h code ws) h :=
  a.modHalf (by split <;> rfl)

theorem report (a : s.KeepsHelm t h) {block : Nat} (hb : block < 32) (code cls index detail : Nat) :
    s.KeepsHelm (t.report h code cls block index detail) h := by
  have hr : Reg.LOG_LOSS.has h block 0 = true := by simpa [Reg.has, Reg.info] using hb
  unfold Block.report
  by_cases hq : (t.half h).hl.queue.length < 32
  · rw [Block.reportAs_of_room hq]
    exact a.trans ⟨Block.setHalf_w .., Block.setHalf_f .., by rw [Block.setHalf_half]⟩
  · rw [Block.reportAs_of_full (Nat.not_lt.1 hq)]
    exact ((a.count _ hr (by decide) (by decide)).setF _ _ (by cases h <;> rfl) (by decide) (by decide)).modHalf rfl

theorem withdrawService (a : s.KeepsHelm t h) : s.KeepsHelm (t.withdrawService h) h := by
  have pend : t.KeepsHelm (t.setF h F.ADM_STAT_SVCPEND 0) h :=
    ⟨Block.setF_w_ne _ _ _ _ _ _ _ _ _ _ (by cases h <;> decide), Block.setF_f_disjoint _ _ _ _ _ _ _ (by decide) rfl (by decide),
     by rw [Block.setF_half]⟩
  unfold Block.withdrawService
  dsimp only
  exact a.trans (.ite refl (.ite (pend.modHalf rfl) pend))

theorem showStraps (a : s.KeepsHelm t h) : s.KeepsHelm (t.showStraps h) h :=
  (a.setF _ _ rfl (by decide) (by decide)).setF _ _ rfl (by decide) (by decide)

end Block.KeepsHelm

/-- Putting a helm state into ADM_STAT leaves what it is derived from. -/
theorem Block.setF_helm (s : Block) (h : HalfId) {n : Nat} (hn : n < 4) :
    (s.setF h F.ADM_STAT_HELM n).w h .HLM_STAT = s.w h .HLM_STAT ∧ (s.setF h F.ADM_STAT_HELM n).f h F.ADM_STAT_HELM = n :=
  ⟨Block.setF_w_ne _ _ _ _ _ _ _ _ _ _ (by cases h <;> decide),
   (Block.setF_f_same _ _ _ _ _ _ (by decide)).trans (Nat.mod_eq_of_lt hn)⟩

theorem helmOf_lt (bridge down claim peer : Bool) : helmOf bridge down claim peer < 4 := by
  cases bridge <;> cases down <;> cases claim <;> cases peer <;> decide

/-- The table of rule R419, by its rows. -/
theorem helmOf_eq (lost down claim peer : Bool) :
    helmOf (!lost) down claim peer =
      if lost = true ∧ down = false then 3
      else if claim = true ∧ (peer = false ∨ down = true) then 0
      else if claim = false ∧ peer = true then 1
      else 2 := by
  cases lost <;> cases down <;> cases claim <;> cases peer <;> rfl

/-- Deriving the helm puts the derived state into HELM; what follows leaves it and what it is derived from. -/
theorem Block.deriveHelm_keeps (s : Block) (h : HalfId) (cause : Nat) :
    ∃ b, (b = s ∧ s.helm h = helmOf (!(s.half h).hl.lost) (s.on h F.HLM_STAT_PEERDOWN) (s.on h F.HLM_STAT_CLAIM) (s.on h F.HLM_STAT_PEERCLAIM) ∨
        b = s.setF h F.ADM_STAT_HELM (helmOf (!(s.half h).hl.lost) (s.on h F.HLM_STAT_PEERDOWN) (s.on h F.HLM_STAT_CLAIM)
          (s.on h F.HLM_STAT_PEERCLAIM))) ∧ b.KeepsHelm (s.deriveHelm h cause) h := by
  have err (y : Fld) (hy : y.reg = .HLM_ERR) : y.reg.has h 0 0 = true := by rw [hy]; cases h <;> rfl
  have cnt (y : Fld) (hy : y.reg = .HLM_CNT) : y.reg.has h 0 0 = true := by rw [hy]; cases h <;> rfl
  have disp : Reg.HLM_DISP.has h 0 0 = true := by cases h <;> rfl
  unfold Block.deriveHelm
  extract_lets old new decided ownq peerq w1 s1 s2 s2' s3 s3' held t u s4
  split
  next e => exact ⟨s, .inl ⟨rfl, e.symm⟩, .refl⟩
  have k2 : s1.KeepsHelm s2 h :=
    .ite (.modHalf (.setW (.setF (.count .refl F.HLM_CNT_DISPUTES (cnt _ rfl) (by decide) (by decide)) F.HLM_ERR_DISPUTE 1 (err _ rfl)
      (by decide) (by decide)) 0 disp (by decide) (by decide)) rfl) .refl
  have k2' : s1.KeepsHelm s2' h := .ite k2 (k2.modHalf rfl)
  have k3 : s1.KeepsHelm s3 h :=
    .ite (.withdrawService (.setF (.count k2' F.HLM_CNT_ISLANDS (cnt _ rfl) (by decide) (by decide)) F.HLM_ERR_ISLAND 1 (err _ rfl)
      (by decide) (by decide))) k2'
  have k3' : s1.KeepsHelm s3' h := .ite k3 (k3.modHalf rfl)
  have kt : s1.KeepsHelm t h := .ite (k3'.count F.HLM_CNT_HANDOVERS (cnt _ rfl) (by decide) (by decide)) k3'
  have ku : s1.KeepsHelm u h := kt.modHalf rfl
  have k4 : s1.KeepsHelm s4 h := .ite (.ite ku.showStraps ku) k3'
  exact ⟨s1, .inr rfl, (k4.report (block := 16) (by decide) ..).notice ..⟩

/-- What the helm is derived from is left by its derivation, and HELM is what was derived. -/
theorem Block.deriveHelm_spec (s : Block) (h : HalfId) (cause : Nat) :
    (s.deriveHelm h cause).w h .HLM_STAT = s.w h .HLM_STAT ∧ ((s.deriveHelm h cause).half h).hl.lost = (s.half h).hl.lost ∧
      (s.deriveHelm h cause).f h F.ADM_STAT_HELM = helmOf (!(s.half h).hl.lost) (s.on h F.HLM_STAT_PEERDOWN)
        (s.on h F.HLM_STAT_CLAIM) (s.on h F.HLM_STAT_PEERCLAIM) := by
  obtain ⟨b, ⟨rfl, same⟩ | rfl, keeps⟩ := s.deriveHelm_keeps h cause
  · exact ⟨keeps.stat, keeps.lost, keeps.helm.trans same⟩
  · obtain ⟨stat, helm⟩ := s.setF_helm h (helmOf_lt (!(s.half h).hl.lost) (s.on h F.HLM_STAT_PEERDOWN) (s.on h F.HLM_STAT_CLAIM)
      (s.on h F.HLM_STAT_PEERCLAIM))
    exact ⟨keeps.stat.trans stat, keeps.lost.trans (by rw [Block.setF_half]), keeps.helm.trans helm⟩

/-! ## Commands answered without being executed (rules R363, R490) -/

/-- A ground for refusal is the whole reply to a command, and nothing else is done. -/
theorem cmd_of_ground {s : State} {h : HalfId} {secure : Bool} {code : Nat} {seq : BitVec 10} {pay : List Word} {st : Word}
    (body : State → State × List Word) (hc : code < 256) (hn : pay.length ≤ 63) (ha : s.blk.hipActs h = true)
    (ho : s.blk.stored? h secure (header code pay.length seq.toNat) = none)
    (hg : s.blk.ground h secure code pay.length pay = some st) :
    s.cmd h secure code seq pay body = .next { s with blk := s.blk.reply h secure (header code pay.length seq.toNat) [st] } := by
  have hs : seq.toNat < 1024 := seq.isLt
  simp [State.cmd, State.command, ha, ho, header_code code _ _ hc hn hs, header_count code _ _ hn hs, hg]

section
variable {secure : Bool} {code : Nat} {pay : List Word} {f : CmdForm} (hf : cmdForm code = some f) (hn : f.counts pay.length = true)
  (hb : s.phase h ≠ phBOOT ∨ f.boot = true)
include hf hn hb

/-- With its form in order and no BOOT in the way, a command meets the grounds of pair, session and helm first. -/
theorem Block.ground_of_form :
    s.ground h secure code pay.length pay =
      if f.sec && !secure then some (statusWord cSECURE_REQUIRED rsWRONG_PAIR 0)
      else if f.sec && !(s.half h).hip.session then some (statusWord cSECURE_REQUIRED rsNO_SESSION 0)
      else if f.helm && !s.holdsHelm h then some (statusWord cNOT_HELM 0 0)
      else if f.long && (s.half h).hip.long.isSome then some (statusWord cQUEUE_FULL rsBUSY 0)
      else if f.bad pay ≠ 0 then some (statusWord cCONFIG_INVALID rsRESERVED (f.bad pay))
      else if saBlocks code && s.saRuns h then some (statusWord cQUEUE_FULL rsBUSY 0)
      else none := by
  have boot : ¬ (decide (s.phase h = phBOOT) && !f.boot) = true := by
    obtain hb | hb := hb <;> simp [hb]
  simp only [Block.ground, hf, hn, Bool.not_true, Bool.false_eq_true, if_false, Nat.lt_irrefl]
  exact if_neg boot

theorem Block.ground_of_wrong_pair (hs : f.sec = true) (hp : secure = false) :
    s.ground h secure code pay.length pay = some (statusWord cSECURE_REQUIRED rsWRONG_PAIR 0) := by
  rw [Block.ground_of_form hf hn hb]
  simp [hs, hp]

theorem Block.ground_of_no_session (hs : f.sec = true) (hp : secure = true) (he : (s.half h).hip.session = false) :
    s.ground h secure code pay.length pay = some (statusWord cSECURE_REQUIRED rsNO_SESSION 0) := by
  rw [Block.ground_of_form hf hn hb]
  simp [hs, hp, he]

theorem Block.ground_of_no_helm (hm : f.helm = true) (hs : f.sec = false ∨ (secure = true ∧ (s.half h).hip.session = true))
    (hh : s.holdsHelm h = false) : s.ground h secure code pay.length pay = some (statusWord cNOT_HELM 0 0) := by
  rw [Block.ground_of_form hf hn hb]
  obtain hs | ⟨hp, he⟩ := hs
  · simp [hs, hm, hh]
  · simp [hp, he, hm, hh]
end

end Sys2Proof.Machine

open Sys2Proof Sys2Proof.Machine

/-- Settles O47: while HIP runs a notice is the half's next, and the replay buffer is trimmed from its oldest end. -/
theorem noticesAreNumbered : Obligations.NoticesAreNumbered := by
  rintro s _ h code ws rfl
  refine ⟨Block.notice_of_stopped, fun hr => ?_⟩
  rw [Block.notice_eq s h code ws hr, Block.modHalf_half]
  obtain ⟨suffix, notices, words⟩ := trimReplay_spec ((s.half h).hip.replay ++ [⟨code, (s.half h).hip.seq, ws⟩])
  exact ⟨rfl, rfl, suffix, notices, words, fun hn hw => trimReplay_of_fits (by simpa using hn) hw⟩

/-- Settles O48, by the room in the queue. -/
theorem reportQueueCounts : Obligations.ReportQueueCounts := by
  rintro s _ h code cls block index detail hb rfl
  refine ⟨fun hq => ?_, fun hq => ?_⟩
  · rw [Block.report, Block.reportAs_of_room hq, Block.setHalf_half]
    refine ⟨queueReport_perm _ _, queueReport_other ⟨code, cls, block, index, detail % 65536, (s.half h).tsc, false⟩ _, fun hl => queueReport_of_later hl, fun ho => ?_, Block.setHalf_regs ..⟩
    exact queueReport_pairwise ⟨code, cls, block, index, detail % 65536, (s.half h).tsc, false⟩ _ ho
  · rw [Block.report, Block.reportAs_of_full hq]
    refine ⟨by simp, ?_, ?_⟩
    · rw [Block.modHalf_on, Block.on, Block.setF_f_same _ _ _ _ _ _ (by decide)]
      rfl
    rw [Block.modHalf_f, Block.setF_f_ne _ _ _ _ _ _ _ _ _ _ (Reg.logLoss_addr_ne_hlmErr h block hb),
      Block.count_f_same _ _ _ _ _ (by decide)]

/-- Settles O44: HELM takes the derived state, and nothing that follows changes it or what it is derived from. -/
theorem helmFollowsClaims : Obligations.HelmFollowsClaims := by
  rintro s _ h cause rfl
  obtain ⟨stat, lost, helm⟩ := s.deriveHelm_spec h cause
  have on (x : Fld) (hx : x.reg = .HLM_STAT) : (s.deriveHelm h cause).on h x = s.on h x := by simp only [Block.on, Block.f, hx, stat]
  exact ⟨on _ rfl, on _ rfl, on _ rfl, lost, helm.trans (helmOf_eq ..)⟩

/-- Settles O50: each is the first ground of rule R490 that applies, and a refused command only replies. -/
theorem secureCommandsNeedSession : Obligations.SecureCommandsNeedSession :=
  fun _ _ _ _ _ _ body _ hc hn ha ho hf hcount hb =>
    ⟨fun hs hp => cmd_of_ground body hc hn ha ho (Block.ground_of_wrong_pair hf hcount hb hs hp),
     fun hs hp he => cmd_of_ground body hc hn ha ho (Block.ground_of_no_session hf hcount hb hs hp he),
     fun hm hs hh => cmd_of_ground body hc hn ha ho (Block.ground_of_no_helm hf hcount hb hm hs hh)⟩

/-- Settles O1: the queue's front command is what a step executes. -/
theorem stepRunsFrontCommand : Obligations.StepRunsFrontCommand := fun _ _ _ => rfl

/-- Refutes O49: a reply of 64 words is stored with its first 63, since COUNT has 6 bits (log entry 135), and not with all of them. -/
theorem not_repeatedHeaderAnswersAgain : ¬ Obligations.RepeatedHeaderAnswersAgain := by
  unfold Obligations.RepeatedHeaderAnswersAgain
  rintro ⟨-, reply⟩
  have stored := (reply Block.reset .a true 0 (List.replicate 64 0) _ rfl).1
  have lengths := congrArg (fun l : List (Word × List Word) => l.map fun d => d.2.length) stored
  exact absurd lengths (by decide)
end

section
/-!
Pin engines: the instruction of an engine, its stall and its completion (rules R308, R309, R316 to R323).
-/

namespace Sys2Proof.Machine

variable {s t u : Block} {h k : HalfId} {e : Fin 8} {w op n sc : Nat} {pins : BitVec 4} {r : Reg} {i j : Nat}

/-! ## What an engine leaves of the other half -/

/-- An update stays within half `h`: the other half, the bridge and the registers of the other half are as before. -/
structure Block.StaysIn (s t : Block) (h : HalfId) : Prop where
  peer : t.half h.peer = s.half h.peer
  lane : ∀ k, t.lane k = s.lane k
  words : ∀ (r : Reg) (i j : Nat), r.has h.peer i j = true → r.info.perHalf = true → t.w h.peer r i j = s.w h.peer r i j

/-- Registers of the two halves share no word. -/
theorem Reg.addr_ne_peer {q : Reg} {i' j' : Nat} (hq : q.has h.peer i' j' = true) (hqp : q.info.perHalf = true)
    (hr : r.has h i j = true) (hp : r.info.perHalf = true) : q.addr h.peer i' j' ≠ r.addr h i j := by
  obtain ⟨here, -, hlt⟩ := Reg.addr_of_perHalf hp (Reg.inGrid_of_has hr) h
  obtain ⟨there, -, hlt'⟩ := Reg.addr_of_perHalf hqp (Reg.inGrid_of_has hq) h.peer
  cases h <;> simp only [HalfId.num, HalfId.peer] at here there ⊢ <;> omega

namespace Block.StaysIn

theorem refl : s.StaysIn s h := ⟨rfl, fun _ => rfl, fun _ _ _ _ _ => rfl⟩

theorem trans (a : s.StaysIn t h) (b : t.StaysIn u h) : s.StaysIn u h :=
  ⟨b.peer.trans a.peer, fun k => (b.lane k).trans (a.lane k), fun r i j hr hp => (b.words r i j hr hp).trans (a.words r i j hr hp)⟩

theorem ite {c : Prop} [Decidable c] (a : s.StaysIn t h) (b : s.StaysIn u h) : s.StaysIn (if c then t else u) h := by
  split
  · exact a
  · exact b

theorem foldl {α : Type} {f : Block → α → Block} (hf : ∀ t x, Block.StaysIn t (f t x) h) (l : List α) : s.StaysIn (l.foldl f s) h := by
  induction l generalizing s with
  | nil => exact refl
  | cons x xs ih => exact (hf s x).trans ih

theorem modHalf (a : s.StaysIn t h) (f : Half → Half) : s.StaysIn (t.modHalf h f) h :=
  a.trans ⟨Block.modHalf_half_peer .., fun _ => Block.modHalf_lane .., fun _ _ _ _ _ => Block.modHalf_w ..⟩

theorem modPe (a : s.StaysIn t h) (e : Nat) (f : Pe → Pe) : s.StaysIn (t.modPe h e f) h := a.modHalf _

theorem setW (a : s.StaysIn t h) (v : Word) (hr : r.has h i j = true) (hp : r.info.perHalf = true) : s.StaysIn (t.setW h r v i j) h :=
  a.trans ⟨Block.setW_half .., fun _ => Block.setW_lane .., fun _ _ _ hq hqp => Block.setW_w_ne _ _ _ _ _ _ _ _ _ _
    (Reg.addr_ne_peer hq hqp hr hp)⟩

/-- A field of one of the engine's registers is written. -/
theorem setF (a : s.StaysIn t h) (x : Fld) (v : Nat) (hx : x.reg.info.perHalf = true := by rfl)
    (hd : x.reg.info.dims = [(8, 0x100)] := by rfl) : s.StaysIn (t.setF h x v e) h :=
  a.setW _ (by simp [Reg.has, hx, hd]) hx

/-- One of the engine's registers is written. -/
theorem setPe (a : s.StaysIn t h) (r : Reg) (v : Word) (hx : r.info.perHalf = true := by rfl)
    (hd : r.info.dims = [(8, 0x100)] := by rfl) : s.StaysIn (t.setW h r v e) h :=
  a.setW _ (by simp [Reg.has, hx, hd]) hx

theorem setPeReg (a : s.StaysIn t h) (b : Bool) (v : Nat) : s.StaysIn (t.setPeReg h e b v) h := by
  cases b
  · exact a.setPe .PE_A _
  · exact a.setPe .PE_B _

theorem setSr (a : s.StaysIn t h) (sr sc : Nat) : s.StaysIn (t.setSr h e sr sc) h := (a.setPe .PE_SR _).setF F.PE_STAT_SC _

theorem drivePin (a : s.StaysIn t h) (n : Nat) (v : Bool) : s.StaysIn (t.drivePin h e n v) h := .ite (a.setF F.PE_PINS_DRIVE _) a

theorem pinActions (a : s.StaysIn t h) (w : Nat) : s.StaysIn (t.pinActions h e w) h := by
  refine a.trans (.foldl (fun t n => ?_) _)
  split
  · exact refl.drivePin ..
  · exact refl.drivePin ..
  · exact refl.drivePin ..
  · exact refl

theorem peDone (a : s.StaysIn t h) (w : Nat) (dest : Option Nat) : s.StaysIn (t.peDone h e w dest) h :=
  ((((a.pinActions w).modPe e _).setF F.PE_STAT_PC _).setF F.PE_STAT_STALL _).setF F.PE_STAT_SKIND _

theorem peStalls (a : s.StaysIn t h) (kind : Nat) : s.StaysIn (t.peStalls h e kind) h :=
  ((a.modPe e _).setF F.PE_STAT_STALL _).setF F.PE_STAT_SKIND _

theorem pinsSeen (a : s.StaysIn t h) (pins : BitVec 4) : s.StaysIn (t.pinsSeen h e pins) h := .ite a (.ite (a.setF F.PE_PINS_IN _) a)

theorem writeFlag (a : s.StaysIn t h) (e i : Nat) (v : Bool) : s.StaysIn (t.writeFlag h e i v) h :=
  have flags : Reg.PE_FLAGS.has h 0 0 = true := by cases h <;> rfl
  .ite (a.modHalf _) ((a.modHalf _).setW _ flags rfl)

theorem soutTo (a : s.StaysIn t h) (dest n v : Nat) (lsb : Bool) : s.StaysIn (t.soutTo h e dest n v lsb) h := by
  unfold Block.soutTo
  split
  · exact a.trans (.foldl (fun t k => .ite (refl.drivePin ..) refl) _)
  · exact a.setPeReg ..
  · exact a.setPeReg ..
  · exact a

theorem pwaitDone (a : s.StaysIn t h) (w new : Nat) : s.StaysIn (t.pwaitDone h e w new) h :=
  .peDone (.ite ((a.modPe e _).setPeReg ..) (a.modPe e _)) ..

theorem trgwDone (a : s.StaysIn t h) (w : Nat) : s.StaysIn (t.trgwDone h e w) h :=
  (((a.setPeReg ..).modPe e _).setF F.PE_STAT_TRGPEND _).peDone ..

/-- The attempt of an instruction stays within the half where its completion does: it completes or stalls. -/
theorem tried (a : s.StaysIn t h) (kind : Nat) (o : Option Block) : (∀ b, o = some b → t.StaysIn b h) →
    s.StaysIn (match o with | some b => b | none => t.peStalls h e kind) h := by
  intro ho
  split
  next b => exact a.trans (ho b rfl)
  next => exact a.peStalls kind

theorem peRun {f : Block → Nat → Block} (a : s.StaysIn t h) (op : Nat) (hf : ∀ w, t.StaysIn (f t w) h) :
    s.StaysIn (t.peRun h e op f) h := .ite (a.trans (hf _)) a

end Block.StaysIn

theorem Block.staysIn_of_fwaitTry {b : Block} (hb : t.fwaitTry h e w = some b) : t.StaysIn b h := by
  unfold Block.fwaitTry at hb
  dsimp only at hb
  split at hb
  · cases hb
  split at hb
  · cases hb; exact .peDone .refl ..
  split at hb
  · cases hb
  · cases hb; exact ((Block.StaysIn.refl.writeFlag ..).modHalf _).peDone ..

theorem Block.staysIn_of_soutTry {b : Block} (hb : t.soutTry h e w = some b) : t.StaysIn b h := by
  unfold Block.soutTry at hb
  dsimp only at hb
  split at hb
  · cases hb; exact ((Block.StaysIn.refl.setSr ..).soutTo ..).peDone ..
  split at hb
  · cases hb; exact ((Block.StaysIn.refl.setSr ..).soutTo ..).peDone ..
  split at hb
  · cases hb
  · cases hb; exact (((Block.StaysIn.refl.modPe e _).setSr ..).soutTo ..).peDone ..

theorem Block.staysIn_of_sinTry {b : Block} (hb : t.sinTry h e w = some b) : t.StaysIn b h := by
  unfold Block.sinTry at hb
  dsimp only at hb
  split at hb
  · cases hb; exact (Block.StaysIn.refl.setSr ..).peDone ..
  split at hb
  · cases hb; exact (Block.StaysIn.refl.setSr ..).peDone ..
  split at hb
  · cases hb
  · cases hb; exact ((Block.StaysIn.refl.modPe e _).setSr ..).peDone ..

theorem Block.staysIn_of_qgetTry {b : Block} (hb : t.qgetTry h e w = some b) : t.StaysIn b h := by
  unfold Block.qgetTry at hb
  split at hb
  · cases hb
  · cases hb; exact ((Block.StaysIn.refl.modPe e _).setSr ..).peDone ..

theorem Block.staysIn_of_qputTry {b : Block} (hb : t.qputTry h e w = some b) : t.StaysIn b h := by
  unfold Block.qputTry at hb
  split at hb
  · cases hb
  · cases hb; exact ((Block.StaysIn.refl.modPe e _).setSr ..).peDone ..

/-- The new block of each instruction stays within the half. -/
theorem staysIn_of_engine {s t : State} {h : HalfId} {e : Fin 8} {pins : BitVec 4} {c : Instr}
    (hc : c ∈ ([.peIdle h e, .peBr h e pins, .peLoop h e, .peLdi h e, .peLdx h e, .peMovr h e pins, .peTime h e, .peTwait h e,
      .pePwait h e pins, .peFwait h e, .peFlag h e, .peTrgw h e, .peSout h e, .peSin h e pins, .peQget h e, .peQput h e] : List Instr))
    (ht : exec c s = .next t) : s.blk.StaysIn t.blk h := by
  have run {c : Instr} {op : Nat} {f : Block → Nat → Block} (hf : ∀ t w, Block.StaysIn t (f t w) h)
      (hx : exec c s = .next { s with blk := s.blk.peRun h e op f }) (ht : exec c s = .next t) : s.blk.StaysIn t.blk h := by
    cases hx.symm.trans ht
    exact Block.StaysIn.refl.peRun _ (hf _)
  have runPins {c : Instr} {op : Nat} {f : Block → Nat → Block} (hf : ∀ t w, Block.StaysIn t (f t w) h)
      (hx : exec c s = .next { s with blk := (s.blk.pinsSeen h e pins).peRun h e op f }) (ht : exec c s = .next t) :
      s.blk.StaysIn t.blk h := by
    cases hx.symm.trans ht
    exact (Block.StaysIn.refl.pinsSeen pins).peRun _ (hf _)
  simp only [List.mem_cons, List.not_mem_nil, or_false] at hc
  obtain rfl | rfl | rfl | rfl | rfl | rfl | rfl | rfl | rfl | rfl | rfl | rfl | rfl | rfl | rfl | rfl := hc
  · exact run (fun _ _ => .peDone .refl ..) rfl ht
  · exact runPins (fun _ _ => .peDone .refl ..) rfl ht
  · exact run (fun _ _ => .peDone (.setPeReg .refl ..) ..) rfl ht
  · exact run (fun _ _ => .peDone (.setPeReg .refl ..) ..) rfl ht
  · exact run (fun _ _ => .peDone (.setPeReg .refl ..) ..) rfl ht
  · refine runPins (fun _ w => .peDone ?_ ..) rfl ht
    split
    · exact .setPeReg .refl ..
    · exact .setPeReg .refl ..
    · exact .setSr .refl ..
  · exact run (fun _ _ => .peDone (.modPe .refl ..) ..) rfl ht
  · exact run (fun _ _ => .peStalls (.modPe .refl ..) _) rfl ht
  · exact runPins (fun _ _ => .ite (.pwaitDone .refl ..) (.peStalls .refl _)) rfl ht
  · exact run (fun _ _ => .tried .refl 5 _ fun _ => Block.staysIn_of_fwaitTry) rfl ht
  · exact run (fun _ _ => .peDone (.writeFlag .refl ..) ..) rfl ht
  · exact run (fun _ _ => .ite (.trgwDone .refl _) (.peStalls .refl _)) rfl ht
  · exact run (fun _ _ => .tried .refl 1 _ fun _ => Block.staysIn_of_soutTry) rfl ht
  · exact runPins (fun _ _ => .tried .refl 2 _ fun _ => Block.staysIn_of_sinTry) rfl ht
  · exact run (fun _ _ => .tried .refl 1 _ fun _ => Block.staysIn_of_qgetTry) rfl ht
  · exact run (fun _ _ => .tried .refl 2 _ fun _ => Block.staysIn_of_qputTry) rfl ht

/-! ## The levels that come with a row -/

section
variable (s h e pins)

@[simp] theorem Block.pinsIn_half : (s.pinsIn h e pins).half k = s.half k := by
  unfold Block.pinsIn
  split
  · exact Block.setF_half ..
  · rfl

@[simp] theorem Block.pinsIn_pe : (s.pinsIn h e pins).pe k n = s.pe k n := by rw [Block.pe, Block.pinsIn_half, Block.pe]

/-- The levels of an engine's pins change no register but its PE_PINS. -/
theorem Block.pinsIn_w (hr : r.has k i j = true) (hn : r ≠ .PE_PINS) : (s.pinsIn h e pins).w k r i j = s.w k r i j := by
  have pins : Reg.PE_PINS.has h e 0 = true := by simp [Reg.has, Reg.info]
  unfold Block.pinsIn
  split
  · exact Block.setF_w_ne _ _ _ _ _ _ _ _ _ _ fun ha => hn (Reg.word_eq_of_addr_eq hr pins ha).1
  · rfl

/-- One of the engine's registers, other than PE_PINS. -/
theorem Block.pinsIn_own (r : Reg) (hn : r ≠ .PE_PINS := by decide) (hd : r.info.dims = [(8, 0x100)] := by rfl)
    (hp : r.info.perHalf = true := by rfl) : (s.pinsIn h e pins).w h r e = s.w h r e :=
  Block.pinsIn_w s h e pins (by simp [Reg.has, hd, hp]) hn

theorem Block.pinsIn_f (x : Fld) (hn : x.reg ≠ .PE_PINS := by decide) (hd : x.reg.info.dims = [(8, 0x100)] := by rfl)
    (hp : x.reg.info.perHalf = true := by rfl) : (s.pinsIn h e pins).f h x e = s.f h x e := by
  rw [Block.f, Block.pinsIn_own s h e pins x.reg hn hd hp, Block.f]

theorem Block.pinsIn_on (x : Fld) (hn : x.reg ≠ .PE_PINS := by decide) (hd : x.reg.info.dims = [(8, 0x100)] := by rfl)
    (hp : x.reg.info.perHalf = true := by rfl) : (s.pinsIn h e pins).on h x e = s.on h x e := by
  rw [Block.on, Block.pinsIn_f s h e pins x hn hd hp, Block.on]

theorem Block.pinsIn_angRuns : (s.pinsIn h e pins).angRuns h = s.angRuns h := by
  have stat : (s.pinsIn h e pins).w .a .PWR_STAT = s.w .a .PWR_STAT := Block.pinsIn_w s h e pins rfl (by decide)
  cases h <;> simp only [Block.angRuns, Block.pinsIn_half, Block.f, F.PWR_STAT_STA, F.PWR_STAT_STB, stat] <;> rfl

theorem Block.pinsIn_peProgram : (s.pinsIn h e pins).peProgram h e = s.peProgram h e := by
  simp only [Block.peProgram, Block.peRuns, Block.pinsIn_angRuns, Block.pinsIn_pe, Block.pinsIn_on s h e pins F.PE_STAT_RUN,
    Block.pinsIn_f s h e pins F.PE_CFG_PROTO]

/-- The program counter has 6 bits, so it stays among the words of the program. -/
theorem Block.pc_lt : s.f h F.PE_STAT_PC e < 64 := bits_lt ..

theorem Block.pinsIn_peWord : (s.pinsIn h e pins).peWord h e = s.peWord h e := by
  have prog : Reg.PE_PROG.has h e (s.f h F.PE_STAT_PC e) = true := by
    simpa [Reg.has, Reg.info] using s.pc_lt h e
  rw [Block.peWord, Block.pinsIn_f s h e pins F.PE_STAT_PC, Block.pinsIn_w s h e pins prog (by decide), Block.peWord]

theorem Block.pinsIn_peReady : (s.pinsIn h e pins).peReady h e op = s.peReady h e op := by
  simp only [Block.peReady, Block.peActive, Block.pinsIn_peProgram, Block.pinsIn_peWord, Block.pinsIn_on s h e pins F.PE_STAT_STALL]

theorem Block.pinsSeen_peReady : (s.pinsSeen h e pins).peReady h e op = s.peReady h e op := by
  unfold Block.pinsSeen
  split
  · rfl
  · exact s.pinsIn_peReady h e pins

/-- Where ANGCLK runs the levels are the row's. -/
theorem Block.pinsIn_levels (hr : s.angRuns h = true) : (s.pinsIn h e pins).f h F.PE_PINS_IN e = pins.toNat := by
  rw [Block.pinsIn, if_pos hr, Block.setF_f_same _ _ _ _ _ _ (by decide)]
  exact Nat.mod_eq_of_lt pins.isLt

theorem Block.pinsIn_peReg (b : Bool) : (s.pinsIn h e pins).peReg h e b = s.peReg h e b := by
  cases b
  · exact congrArg BitVec.toNat (s.pinsIn_own h e pins .PE_A)
  · exact congrArg BitVec.toNat (s.pinsIn_own h e pins .PE_B)
end

/-! ## An engine at its instruction -/

theorem Block.peReady_iff : s.peReady h e op = true ↔
    s.peProgram h e = true ∧ s.on h F.PE_STAT_STALL e = false ∧ bits (s.peWord h e) 23 20 = op ∧ peReserved (s.peWord h e) = false := by
  simp [Block.peReady, Block.peActive, and_assoc]

theorem Block.angRuns_of_peProgram (hp : s.peProgram h e = true) : s.angRuns h = true := by
  simp only [Block.peProgram, Bool.and_eq_true] at hp
  exact hp.1.1.2

section
variable {f : Block → Nat → Block}

theorem Block.peRun_of_ready (hr : s.peReady h e op = true) (hw : w = s.peWord h e) : s.peRun h e op f = f s w := by
  rw [Block.peRun, if_pos hr, hw]

theorem Block.peRun_of_unready (hr : s.peReady h e op = false) : s.peRun h e op f = s := if_neg (ne_true_of_eq_false hr)

/-- A row that brings levels: the engine begins its instruction with them. -/
theorem Block.peRun_of_ready_pins (hr : s.peReady h e op = true) (hw : w = s.peWord h e) :
    (s.pinsSeen h e pins).peRun h e op f = f (s.pinsIn h e pins) w := by
  obtain ⟨-, stall, -⟩ := Block.peReady_iff.1 hr
  rw [Block.pinsSeen, if_neg (ne_true_of_eq_false stall)]
  exact Block.peRun_of_ready ((s.pinsIn_peReady h e pins).trans hr) (hw.trans (s.pinsIn_peWord h e pins).symm)

theorem Block.peRun_of_unready_pins (hr : s.peReady h e op = false) : (s.pinsSeen h e pins).peRun h e op f = s.pinsSeen h e pins :=
  Block.peRun_of_unready ((s.pinsSeen_peReady h e pins).trans hr)
end

/-! ## Moves -/

/-- The destination of a MOVR: register A, register B, or the shift register with all its bits. -/
theorem Block.movr_dest (s : Block) (h : HalfId) (e w v d : Nat) :
    (match d with
      | 0 => s.setPeReg h e false v
      | 1 => s.setPeReg h e true v
      | _ => s.setSr h e v 24).peDone h e w none =
    (if d = 0 then s.setPeReg h e false v else if d = 1 then s.setPeReg h e true v else s.setSr h e v 24).peDone h e w none := by
  match d with
  | 0 => rfl
  | 1 => rfl
  | n + 2 => rw [if_neg (by omega), if_neg (by omega)]; rfl

/-! ## Flag waits (rule R323) -/

section
variable (hl : s.flagAtStart h (bits w 3 0) = (bits w 4 4 == 1))

theorem Block.fwaitTry_of_other (hl : s.flagAtStart h (bits w 3 0) ≠ (bits w 4 4 == 1)) : s.fwaitTry h e w = none := by
  simp [Block.fwaitTry, hl]

include hl

theorem Block.fwaitTry_of_level (hc : bits w 5 5 = 0 ∨ bits w 4 4 = 0) : s.fwaitTry h e w = some (s.peDone h e w none) := by
  obtain hc | hc := hc <;> simp_all [Block.fwaitTry]

variable (h4 : bits w 4 4 = 1) (h5 : bits w 5 5 = 1)
include h4 h5

theorem Block.fwaitTry_of_consumed
    (hc : (s.flagClk h).consumed.contains (bits w 3 0) = true ∨ s.lowerConsumes h e (bits w 3 0) = true) :
    s.fwaitTry h e w = none := by
  obtain hc | hc := hc <;> simp_all [Block.fwaitTry]

theorem Block.fwaitTry_of_free (hc : (s.flagClk h).consumed.contains (bits w 3 0) = false)
    (hb : s.lowerConsumes h e (bits w 3 0) = false) :
    s.fwaitTry h e w = some (((s.writeFlag h e (bits w 3 0) false).modHalf h fun x =>
      { x with flags := { x.flags with consumed := bits w 3 0 :: x.flags.consumed } }).peDone h e w none) := by
  simp_all [Block.fwaitTry]
end

/-! ## Waits for a level (rule R321) -/

/-- The instruction of an engine that is ready sees the levels that the row brings. -/
theorem Block.pinsIn_bit (hr : s.peReady h e op = true) (p : Nat) :
    bits ((s.pinsIn h e pins).f h F.PE_PINS_IN e) p p = bits pins.toNat p p := by
  rw [Block.pinsIn_levels s h e pins (Block.angRuns_of_peProgram (Block.peReady_iff.1 hr).1)]

/-! ## Shifts (rule R318) -/

section
variable (hn : n = bits w 4 0) (hs : sc = s.f h F.PE_STAT_SC e)
include hn hs

theorem Block.soutTry_of_enough {p : Nat × Nat} (hle : n ≤ sc)
    (hp : p = shiftOut (s.on h F.PE_CFG_SHDIR e) ((s.w h .PE_SR e).toNat % 2 ^ sc) sc n) :
    s.soutTry h e w =
      some (((s.setSr h e p.2 (sc - n)).soutTo h e (bits w 11 10) n p.1 (s.on h F.PE_CFG_SHDIR e)).peDone h e w none) := by
  subst hn hs hp
  exact if_pos hle

theorem Block.soutTry_of_single (hlt : sc < n) (hc : s.on h F.PE_CFG_CHAIN e = false) :
    s.soutTry h e w = some (((s.setSr h e 0 0).soutTo h e (bits w 11 10) n
      (joinBits (s.on h F.PE_CFG_SHDIR e) ((s.w h .PE_SR e).toNat % 2 ^ sc) sc 0 (n - sc)) (s.on h F.PE_CFG_SHDIR e)).peDone h e w none) := by
  subst hn hs
  simp only [Block.soutTry, if_neg (Nat.not_le.2 hlt), hc, Bool.not_false, if_true]

theorem Block.soutTry_of_chain {q : Word} {p : Nat × Nat} (hlt : sc < n) (hc : s.on h F.PE_CFG_CHAIN e = true)
    (hq : s.sqHead h e = some q) (hp : p = shiftOut (s.on h F.PE_CFG_SHDIR e) q.toNat 24 (n - sc)) :
    s.soutTry h e w = some ((((s.modPe h e fun x => { x with sq := x.sq.drop 1 }).setSr h e p.2 (24 - (n - sc))).soutTo h e (bits w 11 10) n
      (joinBits (s.on h F.PE_CFG_SHDIR e) ((s.w h .PE_SR e).toNat % 2 ^ sc) sc p.1 (n - sc)) (s.on h F.PE_CFG_SHDIR e)).peDone h e w
        none) := by
  subst hn hs hp
  simp only [Block.soutTry, if_neg (Nat.not_le.2 hlt), hc, Bool.not_true, Bool.false_eq_true, if_false, hq]

theorem Block.soutTry_of_empty (hlt : sc < n) (hc : s.on h F.PE_CFG_CHAIN e = true) (hq : s.sqHead h e = none) :
    s.soutTry h e w = none := by
  subst hn hs
  simp only [Block.soutTry, if_neg (Nat.not_le.2 hlt), hc, Bool.not_true, Bool.false_eq_true, if_false, hq]
end

/-- The bits that a SIN takes in, right-aligned: the pins' levels, a register or nothing. -/
def Block.sinBits (s : Block) (h : HalfId) (e w n pins : Nat) : Nat :=
  (match bits w 11 10 with
    | 0 => pins
    | 1 => s.peReg h e false
    | 2 => s.peReg h e true
    | _ => 0) % 2 ^ n

/-- A SIN of an engine that is ready, with the levels that its row brings: every register it reads is as before them. -/
theorem Block.sinTry_pinsIn (hr : s.peReady h e op = true) (hn : n = bits w 4 0) (hs : sc = s.f h F.PE_STAT_SC e) {b : Block} {v : Nat}
    (hb : b = s.pinsIn h e pins) (hv : v = s.sinBits h e w n pins.toNat) :
    b.sinTry h e w =
      let lsb := s.on h F.PE_CFG_SHDIR e
      let sr := (s.w h .PE_SR e).toNat % 2 ^ sc
      if sc + n ≤ 24 then some ((b.setSr h e (joinBits lsb sr sc v n) (sc + n)).peDone h e w none)
      else if !s.on h F.PE_CFG_CHAIN e then
        let all := joinBits lsb sr sc v n
        some ((b.setSr h e (if lsb then all / 2 ^ (sc + n - 24) else all % 2 ^ 24) 24).peDone h e w none)
      else if 12 ≤ (s.pe h e).rq.length then none
      else
        let m := 24 - sc
        let first := if lsb then v % 2 ^ m else v / 2 ^ (n - m)
        let other := if lsb then v / 2 ^ m else v % 2 ^ (n - m)
        some (((b.modPe h e fun x => { x with rq := x.rq ++ [wd (joinBits lsb sr sc first m)] }).setSr h e other (n - m)).peDone h e w
          none) := by
  have src : b.sinBits h e w n (b.f h F.PE_PINS_IN e) = v := by
    rw [hv, hb, Block.sinBits, Block.pinsIn_levels s h e pins (Block.angRuns_of_peProgram (Block.peReady_iff.1 hr).1)]
    simp only [Block.pinsIn_peReg, Block.sinBits]
  have dir := s.pinsIn_on h e pins F.PE_CFG_SHDIR
  have chain := s.pinsIn_on h e pins F.PE_CFG_CHAIN
  have count := s.pinsIn_f h e pins F.PE_STAT_SC
  have shift := s.pinsIn_own h e pins .PE_SR
  have queue := s.pinsIn_pe (k := h) (n := e) h e pins
  rw [← hb] at dir chain count shift queue
  rw [← src, ← dir, ← chain, ← queue, ← shift, hs, ← count, hn]
  rfl

section
variable (hr : s.peReady h e op = true) (hn : n = bits w 4 0) (hs : sc = s.f h F.PE_STAT_SC e) {b : Block} {v : Nat}
  (hb : b = s.pinsIn h e pins) (hv : v = s.sinBits h e w n pins.toNat)
include hr hn hs hb hv

theorem Block.sinTry_of_room (hle : sc + n ≤ 24) :
    b.sinTry h e w = some ((b.setSr h e (joinBits (s.on h F.PE_CFG_SHDIR e) ((s.w h .PE_SR e).toNat % 2 ^ sc) sc v n)
      (sc + n)).peDone h e w none) :=
  (Block.sinTry_pinsIn hr hn hs hb hv).trans (if_pos hle)

variable (hlt : 24 < sc + n)
include hlt

theorem Block.sinTry_of_single (hc : s.on h F.PE_CFG_CHAIN e = false) :
    b.sinTry h e w = some ((b.setSr h e (if s.on h F.PE_CFG_SHDIR e then joinBits true ((s.w h .PE_SR e).toNat % 2 ^ sc) sc v n / 2 ^ (sc + n - 24)
      else joinBits false ((s.w h .PE_SR e).toNat % 2 ^ sc) sc v n % 2 ^ 24) 24).peDone h e w none) := by
  rw [Block.sinTry_pinsIn hr hn hs hb hv]
  cases hd : s.on h F.PE_CFG_SHDIR e <;> simp [Nat.not_le.2 hlt, hc]

theorem Block.sinTry_of_full (hc : s.on h F.PE_CFG_CHAIN e = true) (hq : 12 ≤ (s.pe h e).rq.length) : b.sinTry h e w = none := by
  rw [Block.sinTry_pinsIn hr hn hs hb hv]
  simp [Nat.not_le.2 hlt, hc, hq]

theorem Block.sinTry_of_chain (hc : s.on h F.PE_CFG_CHAIN e = true) (hq : (s.pe h e).rq.length < 12) {m first other : Nat} (hm : m = 24 - sc)
    (hf : first = if s.on h F.PE_CFG_SHDIR e then v % 2 ^ m else v / 2 ^ (n - m))
    (ho : other = if s.on h F.PE_CFG_SHDIR e then v / 2 ^ m else v % 2 ^ (n - m)) :
    b.sinTry h e w = some (((b.modPe h e fun x => { x with
      rq := x.rq ++ [wd (joinBits (s.on h F.PE_CFG_SHDIR e) ((s.w h .PE_SR e).toNat % 2 ^ sc) sc first m)] }).setSr h e other (n - m)).peDone
        h e w none) := by
  rw [Block.sinTry_pinsIn hr hn hs hb hv]
  simp [Nat.not_le.2 hlt, hc, Nat.not_le.2 hq, hf, ho, hm]
end

/-! ## Queues (rule R319) -/

theorem Block.qgetTry_of_head {q : Word} (hq : s.sqHead h e = some q) :
    s.qgetTry h e w = some (((s.modPe h e fun x => { x with sq := x.sq.drop 1 }).setSr h e q.toNat 24).peDone h e w none) := by
  simp only [Block.qgetTry, hq]

theorem Block.qgetTry_of_empty (hq : s.sqHead h e = none) : s.qgetTry h e w = none := by simp only [Block.qgetTry, hq]

theorem Block.qputTry_of_room (hq : (s.pe h e).rq.length < 12) :
    s.qputTry h e w = some (((s.modPe h e fun x => { x with
      rq := x.rq ++ [wd ((s.w h .PE_SR e).toNat % 2 ^ s.f h F.PE_STAT_SC e)] }).setSr h e 0 0).peDone h e w none) :=
  if_neg (Nat.not_le.2 hq)

theorem Block.qputTry_of_full (hq : 12 ≤ (s.pe h e).rq.length) : s.qputTry h e w = none := if_pos hq

/-! ## Completion of a stall (rules R320 to R323) -/

theorem stallComplete_of_free (hs : s.on h F.PE_STAT_STALL e = false) : stallComplete h e pins s = s.pinsIn h e pins := by
  simp [stallComplete, hs]

theorem stallComplete_of_still (hs : s.on h F.PE_STAT_STALL e = true) (hp : s.peProgram h e = false) : stallComplete h e pins s = s := by
  simp [stallComplete, hs, hp]

section
variable {b : Block} (hp : s.peProgram h e = true) (hs : s.on h F.PE_STAT_STALL e = true) (hw : w = s.peWord h e)
  (hb : b = s.pinsIn h e pins)
include hp hs hw hb

theorem stallComplete_of_waiting (ho : bits w 23 20 = 7)
    (hg : ticksTo (s.pe h e).begun (s.half h).tsc < ticksTo (s.pe h e).begun (s.pe h e).wake) : stallComplete h e pins s = b := by
  subst hw hb
  simp [stallComplete, hp, hs, ho, hg]

theorem stallComplete_of_time (ho : bits w 23 20 = 7)
    (hg : ticksTo (s.pe h e).begun (s.pe h e).wake ≤ ticksTo (s.pe h e).begun (s.half h).tsc) :
    stallComplete h e pins s =
      (if (s.pe h e).lateEnd ∨ ticksTo (s.pe h e).begun (s.pe h e).wake < ticksTo (s.pe h e).begun (s.half h).tsc then
        b.setF h F.PE_ERR_LATE 1 e else b).peDone h e w none := by
  subst hw hb
  simp [stallComplete, hp, hs, ho, Nat.not_lt.2 hg]

theorem stallComplete_of_edge (ho : bits w 23 20 = 8) (hl : bits pins.toNat (bits w 1 0) (bits w 1 0) = bits w 2 2)
    (hc : bits (s.f h F.PE_PINS_IN e) (bits w 1 0) (bits w 1 0) ≠ bits w 2 2) :
    stallComplete h e pins s = b.pwaitDone h e w (((s.half h).tsc + 2 ^ 48 - 2) % 2 ^ 48) := by
  subst hw hb
  simp [stallComplete, hp, hs, ho, hl, hc]

theorem stallComplete_of_level (ho : bits w 23 20 = 8) (hl : bits pins.toNat (bits w 1 0) (bits w 1 0) = bits w 2 2)
    (hc : bits (s.f h F.PE_PINS_IN e) (bits w 1 0) (bits w 1 0) = bits w 2 2) (he : bits w 3 3 = 0) :
    stallComplete h e pins s = b.pwaitDone h e w (s.half h).tsc := by
  subst hw hb
  simp [stallComplete, hp, hs, ho, hl, hc, he]

theorem stallComplete_of_no_level (ho : bits w 23 20 = 8)
    (hc : bits pins.toNat (bits w 1 0) (bits w 1 0) ≠ bits w 2 2 ∨
      bits (s.f h F.PE_PINS_IN e) (bits w 1 0) (bits w 1 0) = bits w 2 2 ∧ bits w 3 3 = 1) : stallComplete h e pins s = b := by
  subst hw hb
  obtain hc | ⟨hc, he⟩ := hc
  · simp [stallComplete, hp, hs, ho, hc]
  · simp [stallComplete, hp, hs, ho, hc, he]

theorem stallComplete_of_fwait (ho : bits w 23 20 = 9) : stallComplete h e pins s = (b.fwaitTry h e w).getD b := by
  subst hw hb
  simp [stallComplete, hp, hs, ho]

theorem stallComplete_of_sout (ho : bits w 23 20 = 12) : stallComplete h e pins s = (b.soutTry h e w).getD b := by
  subst hw hb
  simp [stallComplete, hp, hs, ho]

theorem stallComplete_of_sin (ho : bits w 23 20 = 13) : stallComplete h e pins s = (b.sinTry h e w).getD b := by
  subst hw hb
  simp [stallComplete, hp, hs, ho]

theorem stallComplete_of_qget (ho : bits w 23 20 = 14) : stallComplete h e pins s = (b.qgetTry h e w).getD b := by
  subst hw hb
  simp [stallComplete, hp, hs, ho]

theorem stallComplete_of_qput (ho : bits w 23 20 = 15) : stallComplete h e pins s = (b.qputTry h e w).getD b := by
  subst hw hb
  simp [stallComplete, hp, hs, ho]

theorem stallComplete_of_trigger (ho : bits w 23 20 = 11) (ht : s.on h F.PE_STAT_TRGPEND e = true)
    (hn : (s.pe h e).trgAt ≠ (s.half h).tsc) : stallComplete h e pins s = b.trgwDone h e w := by
  subst hw hb
  simp [stallComplete, hp, hs, ho, s.pinsIn_on h e pins F.PE_STAT_TRGPEND, ht, hn]

theorem stallComplete_of_no_trigger (ho : bits w 23 20 = 11)
    (ht : s.on h F.PE_STAT_TRGPEND e = false ∨ (s.pe h e).trgAt = (s.half h).tsc) : stallComplete h e pins s = b := by
  subst hw hb
  obtain ht | ht := ht <;> simp [stallComplete, hp, hs, ho, s.pinsIn_on h e pins F.PE_STAT_TRGPEND, ht]
end

end Sys2Proof.Machine

open Sys2Proof Sys2Proof.Machine

/-- Settles O55: each instruction changes its engine, its pins and the flags of its half, and nothing else. -/
theorem enginesStayInTheirHalf : Obligations.EnginesStayInTheirHalf := fun _ _ _ _ _ _ hc ht =>
  have ⟨peer, lane, words⟩ := staysIn_of_engine hc ht
  ⟨peer, lane, words⟩

/-- Settles O26, row by row: an engine that is ready runs its instruction by the instruction's conditions, another one is left but for
the levels that the row brings, and a stalled one completes by the condition of its instruction. -/
theorem engineInstructionsComplete : Obligations.EngineInstructionsComplete :=
  ⟨fun s _ _ _ hr hw => s.next_with_blk_congr (Block.peRun_of_ready hr hw),
   fun s _ _ _ _ hr hw => s.next_with_blk_congr (Block.peRun_of_ready_pins hr hw),
   fun s _ _ _ hr hw => s.next_with_blk_congr (Block.peRun_of_ready hr hw),
   fun s _ _ _ hr hw => s.next_with_blk_congr (Block.peRun_of_ready hr hw),
   fun s _ _ _ hr hw => s.next_with_blk_congr (Block.peRun_of_ready hr hw),
   fun s _ _ _ _ hr hw => s.next_with_blk_congr ((Block.peRun_of_ready_pins hr hw).trans (Block.movr_dest ..)),
   fun s _ _ _ hr hw ho => s.next_with_blk_congr ((Block.peRun_of_ready hr hw).trans (by rw [ho]; rfl)),
   fun s _ _ _ hr hw ho => s.next_with_blk_congr ((Block.peRun_of_ready hr hw).trans (by rw [ho]; rfl)),
   fun s _ _ _ hr hw ho => s.next_with_blk_congr ((Block.peRun_of_ready hr hw).trans (by rw [ho]; rfl)),
   fun s _ _ _ hr hw ho => s.next_with_blk_congr ((Block.peRun_of_ready hr hw).trans (by rw [ho]; rfl)),
   fun s _ _ _ _ _ hr hw hd hl => s.next_with_blk_congr ((Block.peRun_of_ready hr hw).trans (by subst hd hl; simp)),
   fun s _ _ _ _ hr hw hl he => s.next_with_blk_congr ((Block.peRun_of_ready_pins hr hw).trans
     (by simp [Block.pinsIn_bit hr, hl, he])),
   fun s _ _ _ _ hr hw hl => s.next_with_blk_congr ((Block.peRun_of_ready_pins hr hw).trans
     (by obtain hl | hl := hl <;> simp [Block.pinsIn_bit hr, hl])),
   fun s _ _ _ hr hw hl hc => s.next_with_blk_congr ((Block.peRun_of_ready hr hw).trans (by rw [Block.fwaitTry_of_level hl hc])),
   fun s _ _ _ _ hr hw hl h4 h5 hc hn hb => s.next_with_blk_congr ((Block.peRun_of_ready hr hw).trans
     (by rw [Block.fwaitTry_of_free hl h4 h5 hc hn, hb])),
   fun s _ _ _ hr hw hl h4 h5 hc => s.next_with_blk_congr ((Block.peRun_of_ready hr hw).trans
     (by rw [Block.fwaitTry_of_consumed hl h4 h5 hc])),
   fun s _ _ _ hr hw hl => s.next_with_blk_congr ((Block.peRun_of_ready hr hw).trans (by rw [Block.fwaitTry_of_other hl])),
   fun s _ _ _ hr hw ho => s.next_with_blk_congr ((Block.peRun_of_ready hr hw).trans (by rw [ho]; rfl)),
   fun s _ _ _ hr hw ho => s.next_with_blk_congr ((Block.peRun_of_ready hr hw).trans (by rw [ho]; rfl)),
   fun s _ _ _ hr hw ho => s.next_with_blk_congr ((Block.peRun_of_ready hr hw).trans (by rw [ho]; rfl)),
   fun s _ _ _ hr hw ht => s.next_with_blk_congr ((Block.peRun_of_ready hr hw).trans (if_pos ht)),
   fun s _ _ _ hr hw ht => s.next_with_blk_congr ((Block.peRun_of_ready hr hw).trans (if_neg (ne_true_of_eq_false ht))),
   fun s _ _ _ _ _ _ hr hw hn hs hle hp => s.next_with_blk_congr ((Block.peRun_of_ready hr hw).trans
     (by rw [Block.soutTry_of_enough hn hs hle hp])),
   fun s _ _ _ _ _ hr hw hn hs hlt hc => s.next_with_blk_congr ((Block.peRun_of_ready hr hw).trans
     (by rw [Block.soutTry_of_single hn hs hlt hc])),
   fun s _ _ _ _ _ _ _ hr hw hn hs hlt hc hq hp => s.next_with_blk_congr ((Block.peRun_of_ready hr hw).trans
     (by rw [Block.soutTry_of_chain hn hs hlt hc hq hp])),
   fun s _ _ _ _ _ hr hw hn hs hlt hc hq => s.next_with_blk_congr ((Block.peRun_of_ready hr hw).trans
     (by rw [Block.soutTry_of_empty hn hs hlt hc hq])),
   fun s _ _ _ _ _ _ _ _ hr hw hn hs hb hv hle => s.next_with_blk_congr ((Block.peRun_of_ready_pins hr hw).trans
     (by rw [← hb, Block.sinTry_of_room hr hn hs hb hv hle])),
   fun s _ _ _ _ _ _ _ _ hr hw hn hs hb hv hlt hc => s.next_with_blk_congr ((Block.peRun_of_ready_pins hr hw).trans
     (by rw [← hb, Block.sinTry_of_single hr hn hs hb hv hlt hc])),
   fun s _ _ _ _ _ _ _ _ _ _ _ hr hw hn hs hb hv hlt hc hq hm hf ho => s.next_with_blk_congr ((Block.peRun_of_ready_pins hr hw).trans
     (by rw [← hb, Block.sinTry_of_chain hr hn hs hb hv hlt hc hq hm hf ho])),
   fun s _ _ _ _ _ _ _ _ hr hw hn hs hb hv hlt hc hq => s.next_with_blk_congr ((Block.peRun_of_ready_pins hr hw).trans
     (by rw [← hb, Block.sinTry_of_full hr hn hs hb hv hlt hc hq])),
   fun s _ _ _ _ hr hw hq => s.next_with_blk_congr ((Block.peRun_of_ready hr hw).trans (by rw [Block.qgetTry_of_head hq])),
   fun s _ _ _ hr hw hq => s.next_with_blk_congr ((Block.peRun_of_ready hr hw).trans (by rw [Block.qgetTry_of_empty hq])),
   fun s _ _ _ hr hw hq => s.next_with_blk_congr ((Block.peRun_of_ready hr hw).trans (by rw [Block.qputTry_of_room hq])),
   fun s _ _ _ hr hw hq => s.next_with_blk_congr ((Block.peRun_of_ready hr hw).trans (by rw [Block.qputTry_of_full hq])),
   fun s _ _ ha hr => s.next_with_blk_congr (if_pos (by simp [ha, hr])),
   fun s _ _ hn => s.next_with_blk_congr (if_neg (by obtain hn | hn := hn <;> simp [hn])),
   fun s _ _ hr => s.next_with_blk_congr (Block.peRun_of_unready hr),
   fun s _ _ _ hr => s.next_with_blk_congr (Block.peRun_of_unready_pins hr),
   fun s _ _ hr => s.next_with_blk_congr (Block.peRun_of_unready hr),
   fun s _ _ hr => s.next_with_blk_congr (Block.peRun_of_unready hr),
   fun s _ _ hr => s.next_with_blk_congr (Block.peRun_of_unready hr),
   fun s _ _ _ hr => s.next_with_blk_congr (Block.peRun_of_unready_pins hr),
   fun s _ _ hr => s.next_with_blk_congr (Block.peRun_of_unready hr),
   fun s _ _ hr => s.next_with_blk_congr (Block.peRun_of_unready hr),
   fun s _ _ _ hr => s.next_with_blk_congr (Block.peRun_of_unready_pins hr),
   fun s _ _ hr => s.next_with_blk_congr (Block.peRun_of_unready hr),
   fun s _ _ hr => s.next_with_blk_congr (Block.peRun_of_unready hr),
   fun s _ _ hr => s.next_with_blk_congr (Block.peRun_of_unready hr),
   fun s _ _ hr => s.next_with_blk_congr (Block.peRun_of_unready hr),
   fun s _ _ _ hr => s.next_with_blk_congr (Block.peRun_of_unready_pins hr),
   fun s _ _ hr => s.next_with_blk_congr (Block.peRun_of_unready hr),
   fun s _ _ hr => s.next_with_blk_congr (Block.peRun_of_unready hr),
   fun s _ _ _ hs => s.next_with_blk_congr (stallComplete_of_free hs),
   fun s _ _ _ hs hp => s.next_with_blk_congr (stallComplete_of_still hs hp),
   fun s _ _ _ _ _ hp hs hw hb ho hg => s.next_with_blk_congr (stallComplete_of_waiting hp hs hw hb ho hg),
   fun s _ _ _ _ _ hp hs hw hb ho hg => s.next_with_blk_congr (stallComplete_of_time hp hs hw hb ho hg),
   fun s _ _ _ _ _ hp hs hw hb ho hl hc => s.next_with_blk_congr (stallComplete_of_edge hp hs hw hb ho hl hc),
   fun s _ _ _ _ _ hp hs hw hb ho hl hc he => s.next_with_blk_congr (stallComplete_of_level hp hs hw hb ho hl hc he),
   fun s _ _ _ _ _ hp hs hw hb ho hc => s.next_with_blk_congr (stallComplete_of_no_level hp hs hw hb ho hc),
   fun s _ _ _ _ _ hp hs hw hb ho => s.next_with_blk_congr (stallComplete_of_fwait hp hs hw hb ho),
   fun s _ _ _ _ _ hp hs hw hb ho => s.next_with_blk_congr (stallComplete_of_sout hp hs hw hb ho),
   fun s _ _ _ _ _ hp hs hw hb ho => s.next_with_blk_congr (stallComplete_of_sin hp hs hw hb ho),
   fun s _ _ _ _ _ hp hs hw hb ho => s.next_with_blk_congr (stallComplete_of_qget hp hs hw hb ho),
   fun s _ _ _ _ _ hp hs hw hb ho => s.next_with_blk_congr (stallComplete_of_qput hp hs hw hb ho),
   fun s _ _ _ _ _ hp hs hw hb ho ht hn => s.next_with_blk_congr (stallComplete_of_trigger hp hs hw hb ho ht hn),
   fun s _ _ _ _ _ hp hs hw hb ho ht => s.next_with_blk_congr (stallComplete_of_no_trigger hp hs hw hb ho ht)⟩
end


section
/-!
## Mailboxes (chapter 14)

A post, a take and a crossing by their conditions.
-/

namespace Sys2Proof.Machine

variable {s : Block} {h : HalfId} {m : Nat} {who : Master} {v : Word}

/-! ## Posts (rule R337) -/

theorem Block.mbxPost_of_refused (hc : s.roleOf h who ≠ some (mbxTable m).2.1 ∨ s.mbxFull h m = true) :
    s.mbxPost h m who v = { s with busErr := true } := by
  obtain hc | hc := hc <;> simp [Block.mbxPost, hc]

section
variable (hr : s.roleOf h who = some (mbxTable m).2.1) (hf : s.mbxFull h m = false)
include hr hf

theorem Block.mbxPost_of_empty (hm : m ≠ 15) : s.mbxPost h m who v = { s.mbxStore h m v with busErr := false } := by
  simp [Block.mbxPost, hr, hf, hm]

theorem Block.mbxPost_of_bridge (hm : m = 15) (hb : s.bridgeUp h = true) :
    s.mbxPost h m who v = { (s.mbxStore h m v).send h (.mbx v) with busErr := false } := by
  subst hm
  simp [Block.mbxPost, hr, hf, hb]

theorem Block.mbxPost_of_no_bridge (hm : m = 15) (hb : s.bridgeUp h = false) : s.mbxPost h m who v = { s with busErr := true } := by
  subst hm
  simp [Block.mbxPost, hr, hf, hb]
end

/-! ## Takes (rule R337) -/

theorem Block.mbxTake_of_refused (hc : m = 15 ∨ s.roleOf h who ≠ some (mbxTable m).2.2.1) :
    s.mbxTake h m who = { s with busErr := true } := by
  obtain hc | hc := hc <;> simp [Block.mbxTake, hc]

section
variable (hm : m ≠ 15) (hr : s.roleOf h who = some (mbxTable m).2.2.1)
include hm hr

theorem Block.mbxTake_of_full (hf : s.mbxFull h m = true) :
    s.mbxTake h m who = { (s.mbxEmpty h m 0).mbxAfter h m with busErr := false, busData := s.w h .MBX_DATA m } :=
  (if_neg (by simp [hm, hr])).trans (if_pos hf)

theorem Block.mbxTake_of_empty (hf : s.mbxFull h m = false) :
    s.mbxTake h m who = { s.setF h F.MBX_STAT_EMPTYRD 1 m with busErr := false, busData := 0 } :=
  (if_neg (by simp [hm, hr])).trans (if_neg (by simp [hf]))
end

section
variable {s : State} {m : Fin 16}

/-- A take that hands HIP no word of a command is an access like any other. -/
theorem execMbxTake_of_other (hc : s.blk.hipTakes h m who = false) :
    execMbxTake h m who s = s.access .MBX_DATA h (s.blk.mbxTake h m who) := by
  simp [execMbxTake, hc]

/-- HIP's word of a command joins it, and the take answers the word. -/
theorem execMbxTake_of_hip (hc : s.blk.hipTakes h m who = true) {t : State}
    (ht : t = ({ s with blk := s.blk.mbxTake h m who } : State).hipWord h (m.val == 0) (s.blk.w h .MBX_DATA m)) :
    execMbxTake h m who s = .next { t with blk := { t.blk with busErr := false, busData := s.blk.w h .MBX_DATA m } } := by
  subst ht
  exact if_pos hc
end

/-! ## Crossing (rule R340) -/

theorem mbxCrossed_of_pair {p : Nat} (hp : (mbxTable m).2.2.2 = some p) (hf : s.mbxFull h m = true) (hq : s.mbxFull h p = true)
    (ht : s.f h F.MBX_XTO_TIMEOUT ≠ 0) : mbxCrossed h m s =
      ((s.setF h F.MBX_STAT_CROSSED 1 m).setF h F.MBX_STAT_CROSSED 1 p).report h cOK 0 10 (if m < p then m else p) 0 := by
  simp [mbxCrossed, hp, hf, hq, ht]

theorem mbxCrossed_of_none (hc : (mbxTable m).2.2.2 = none ∨ s.mbxFull h m = false ∨ s.f h F.MBX_XTO_TIMEOUT = 0) :
    mbxCrossed h m s = s := by
  unfold mbxCrossed
  split
  · rfl
  · next p hp => rw [if_pos (by obtain hc | hc | hc := hc <;> simp_all)]

end Sys2Proof.Machine

open Sys2Proof Sys2Proof.Machine

/-- Settles O28: a post and a take by the mailbox's FULL and the master's role, and a crossing by the pair's FULL. -/
theorem mailboxRowsComplete : Obligations.MailboxRowsComplete :=
  ⟨fun _ _ _ _ _ hr hf hm hp => State.access_powered hp (Block.mbxPost_of_empty hr hf hm),
   fun _ _ _ _ _ hc hp => State.access_powered hp (Block.mbxPost_of_refused hc),
   fun _ _ _ _ hr hf hb hp => State.access_powered hp (Block.mbxPost_of_bridge hr hf rfl hb),
   fun _ _ _ _ _ hc ht _ => execMbxTake_of_hip hc ht,
   fun _ _ _ _ hc hm hr hf hp => (execMbxTake_of_other hc).trans (State.access_powered hp (Block.mbxTake_of_full hm hr hf)),
   fun _ _ _ _ hc hm hr hf hp => (execMbxTake_of_other hc).trans (State.access_powered hp (Block.mbxTake_of_empty hm hr hf)),
   fun s _ _ _ hp hf hq ht => s.next_with_blk_congr (mbxCrossed_of_pair hp hf hq ht),
   fun _ _ _ _ hr hf hb hp => State.access_powered hp (Block.mbxPost_of_no_bridge hr hf rfl hb),
   fun _ _ _ _ hc hm hp => (execMbxTake_of_other hc).trans (State.access_powered hp (Block.mbxTake_of_refused hm)),
   fun s _ _ hc => s.next_with_blk_congr (mbxCrossed_of_none hc)⟩
end


section
/-!
## Timers (chapter 12)

Each row of a timer by its conditions; the four bits of TMR_CTRL share one definition, so each bit's effect is stated of it.
-/

namespace Sys2Proof.Machine

variable {s b c d : Block} {h : HalfId} {k n act : Nat} {v : Word}

/-! ## Match and overflow (rules R297, R298, R305) -/

theorem timerMatch_of_none (hc : (s.tmr1 k).hit = false ∨ s.tmrHigh k = true) : timerMatch k s = s :=
  if_pos (by obtain hc | hc := hc <;> simp [hc])

theorem timerMatch_of_hit (hh : (s.tmr1 k).hit = true) (hp : s.tmrHigh k = false)
    (hb : b = (s.modTmr k fun y => { y with hit := false }).setF .a F.TMR_EVT_MATCH 1 k)
    (hc : c = if s.on .a F.TMR_CFG_ONESHOT k then
        ((b.setF .a F.TMR_STAT_RUN 0 k).setF .a F.TMR_STAT_DONE 1 k).modTmr k fun y => { y with stopped := true }
      else b)
    (hd : d = (if s.f .a F.TMR_CFG_OUTM k = 2 then c.setF .a F.TMR_STAT_OUT (bitOf !(s.on .a F.TMR_STAT_OUT k)) k else c.tmrOut k).tmrLink k
      (s.f .a F.TMR_CFG_MLNK k)) :
    timerMatch k s = if s.on .a F.TMR_CFG_WAKEEN k then d.tmrWake k else d := by
  subst hb hc hd
  exact if_neg (by simp [hh, hp])

theorem timerOverflow_of_none (hc : (s.tmr1 k).ovf = false ∨ s.tmrHigh k = true) : timerOverflow k s = s :=
  if_pos (by obtain hc | hc := hc <;> simp [hc])

theorem timerOverflow_of_ovf (ho : (s.tmr1 k).ovf = true) (hp : s.tmrHigh k = false) : timerOverflow k s =
    ((s.modTmr k fun y => { y with ovf := false }).setF .a F.TMR_EVT_OVF 1 k).tmrLink k (s.f .a F.TMR_CFG_OLNK k) :=
  if_neg (by simp [ho, hp])

/-! ## Link actions (rule R299) -/

section
variable (ha : (s.tmr1 k).acts.1 = act) (hn : act ≠ 0) (hb : b = s.modTmr k fun y => { y with acts := (0, y.acts.2) })
include ha hn hb

theorem timerLinkAction_of_high (hp : s.tmrHigh k = true) : timerLinkAction k s = b := by
  subst ha hb
  simp [timerLinkAction, hn, hp]

theorem timerLinkAction_of_ended (hp : s.tmrHigh k = false) (he : s.tmrEnded k = true) :
    timerLinkAction k s = if act % 2 = 1 then b.setF .a F.TMR_EVT_NOSTART 1 k else b := by
  subst ha hb
  simp [timerLinkAction, hn, hp, he]

theorem timerLinkAction_of_live (hp : s.tmrHigh k = false) (he : s.tmrEnded k = false)
    (hc : c = if 2 ≤ act then b.setTmrCount k 0 else b) : timerLinkAction k s = if act % 2 = 1 then c.tmrGo k else c := by
  subst ha hb hc
  simp [timerLinkAction, hn, hp, he]
end

/-! ## TMR_CTRL (rules R294, R295, R298) -/

section
variable {start stop reset arm : Bool}

theorem Block.tmrCtrl_of_foreign (ho : s.ownsTmr h k = false) : s.tmrCtrl h k start stop reset arm = { s with busErr := true } := by
  simp [Block.tmrCtrl, ho]

variable (ho : s.ownsTmr h k = true)
include ho

theorem Block.tmrCtrl_of_high (hp : s.tmrHigh k = true) : s.tmrCtrl h k start stop reset arm = { s with busErr := false } := by
  simp [Block.tmrCtrl, ho, hp]

variable (hp : s.tmrHigh k = false)
include hp

theorem Block.tmrCtrl_start : s.tmrCtrl h k true false false false = { s.tmrGo k with busErr := false } := by
  simp [Block.tmrCtrl, ho, hp]

theorem Block.tmrCtrl_stop : s.tmrCtrl h k false true false false =
    { ((s.setF .a F.TMR_STAT_RUN 0 k).tmrOut k).modTmr k fun y => { y with stopped := true } with busErr := false } := by
  simp [Block.tmrCtrl, ho, hp]

theorem Block.tmrCtrl_reset : s.tmrCtrl h k false false true false = { s.setTmrCount k 0 with busErr := false } := by
  simp [Block.tmrCtrl, ho, hp]

theorem Block.tmrCtrl_arm (hc : (s.tmr1 k).hit = false ∨ s.on .a F.TMR_CFG_ONESHOT k = false) : s.tmrCtrl h k false false false true =
    { (s.setF .a F.TMR_STAT_DONE 0 k).setTmrCount k 0 with busErr := false } := by
  obtain hc | hc := hc <;> simp [Block.tmrCtrl, ho, hp, hc]

theorem Block.tmrCtrl_arm_of_match (hh : (s.tmr1 k).hit = true) (hs : s.on .a F.TMR_CFG_ONESHOT k = true) (hb : b = timerMatch k s) :
    s.tmrCtrl h k false false false true = { (b.setF .a F.TMR_STAT_DONE 0 k).setTmrCount k 0 with busErr := false } := by
  subst hb
  simp [Block.tmrCtrl, ho, hp, hh, hs]
end

/-! ## Compare writes, captures and reads (rules R300, R302, R304) -/

theorem Block.tmrCompare_of_foreign (ho : s.ownsTmr h k = false) : s.tmrCompare h k v = { s with busErr := true } := by
  simp [Block.tmrCompare, ho]

theorem Block.tmrCompare_of_high (ho : s.ownsTmr h k = true) (hp : s.tmrHigh k = true) :
    s.tmrCompare h k v = { s.setW .a .TMR_CMP v k with busErr := false } := by
  simp [Block.tmrCompare, ho, hp]

theorem Block.tmrCompare_of_low (ho : s.ownsTmr h k = true) (hp : s.tmrHigh k = false)
    (hn : n = if s.tmrPair k then v.toNat + (s.w .a .TMR_CMP (k + 1)).toNat * 2 ^ 24 else v.toNat) :
    s.tmrCompare h k v = { (s.setW .a .TMR_CMP v k).modTmr k (fun y => { y with
      pipe := y.pipe ++ [⟨n, 2, !s.on .a F.TMR_STAT_RUN k, false⟩] }) with busErr := false } := by
  subst hn
  simp [Block.tmrCompare, ho, hp]

theorem timerCapture_of_none (hc : (s.tmr1 k).cap = false ∨ s.on .a F.TMR_CFG_CAPEN k = false ∨ s.tmrHigh k = true) :
    timerCapture k s = s :=
  if_pos (by obtain hc | hc | hc := hc <;> simp [hc])

theorem timerCapture_of_edge (hc : (s.tmr1 k).cap = true) (he : s.on .a F.TMR_CFG_CAPEN k = true) (hp : s.tmrHigh k = false)
    (hn : n = (s.w .a .TMR_CNT k).toNat)
    (hb : b = s.setW .a .TMR_CAP (wd (if s.on .a F.TMR_STAT_RUN k then n + 2 ^ 24 - 2 else n)) k) :
    timerCapture k s = (if (s.tmr1 k).unread then b.setF .a F.TMR_EVT_CAPOVF 1 k else b).modTmr k fun y =>
      { y with cap := false, unread := true } := by
  subst hn hb
  exact if_neg (by simp [hc, he, hp])

theorem Block.tmrRead_of_pair (hp : s.tmrPair k = true) : s.tmrRead k =
    { s.setW .a .TMR_HOLD (s.w .a .TMR_CNT (k + 1)) (k + 1) with busErr := false, busData := s.w .a .TMR_CNT k } := by
  rw [Block.tmrRead, if_pos hp]

theorem Block.tmrRead_of_single (hp : s.tmrPair k = false) :
    s.tmrRead k = { s with busErr := false, busData := s.w .a .TMR_CNT k } := by
  simp [Block.tmrRead, hp]

/-! ## Ownership (rule R296) -/

section
variable {high : Bool} {r : Reg} (hr : r = if high then Reg.TMR_OWNH else Reg.TMR_OWNL) (hb : b = s.setW .a r (wd (v.toNat &&& r.info.rw)))
include hr hb

theorem Block.tmrOwn_of_kept (hh : s.holdsHelm h = true) (hk : ∀ k : Fin 16, s.tmrRuns k = true → b.tmrOwner k = s.tmrOwner k) :
    s.tmrOwn h high v = { b with busErr := false } := by
  have all : (List.range 16).all (fun k => !s.tmrRuns k || b.tmrOwner k == s.tmrOwner k) = true := by
    refine List.all_eq_true.2 fun k hm => ?_
    have same := hk ⟨k, List.mem_range.1 hm⟩
    cases hruns : s.tmrRuns k
    · rfl
    · simpa using same hruns
  subst hr hb
  exact if_pos (by rw [hh, all]; rfl)

theorem Block.tmrOwn_of_refused {k : Fin 16} (hc : s.holdsHelm h = false ∨ s.tmrRuns k = true ∧ b.tmrOwner k ≠ s.tmrOwner k) :
    s.tmrOwn h high v = { s with busErr := true } := by
  have some_not : (s.holdsHelm h && (List.range 16).all fun k => !s.tmrRuns k || b.tmrOwner k == s.tmrOwner k) = false := by
    obtain hc | ⟨hruns, hne⟩ := hc
    · rw [hc, Bool.false_and]
    · rw [Bool.and_eq_false_iff, List.all_eq_false]
      exact .inr ⟨k, List.mem_range.2 k.isLt, by simp [hruns, hne]⟩
  subst hr hb
  exact if_neg (ne_true_of_eq_false some_not)
end

end Sys2Proof.Machine

open Sys2Proof Sys2Proof.Machine

/-- Settles O25: each row by the timer's pending events, its place in a pair, its owner and the helm. -/
theorem timerRowsComplete : Obligations.TimerRowsComplete :=
  ⟨fun s _ _ _ _ hh hp hb hc hd => s.next_with_blk_congr (timerMatch_of_hit hh hp hb hc hd),
   fun s _ hc => s.next_with_blk_congr (timerMatch_of_none hc),
   fun s _ ho hp => s.next_with_blk_congr (timerOverflow_of_ovf ho hp),
   fun s _ hc => s.next_with_blk_congr (timerOverflow_of_none hc),
   fun s _ ha => s.next_with_blk_congr (if_pos ha),
   fun s _ _ _ ha hn hb hp => s.next_with_blk_congr (timerLinkAction_of_high ha hn hb hp),
   fun s _ _ _ ha hn hb hp he => s.next_with_blk_congr (timerLinkAction_of_ended ha hn hb hp he),
   fun s _ _ _ _ ha hn hb hp he hc => s.next_with_blk_congr (timerLinkAction_of_live ha hn hb hp he hc),
   fun s _ _ ho hp => s.next_with_blk_congr (Block.tmrCtrl_start ho hp),
   fun s _ _ ho hp => s.next_with_blk_congr (Block.tmrCtrl_stop ho hp),
   fun s _ _ ho hp => s.next_with_blk_congr (Block.tmrCtrl_reset ho hp),
   fun s _ _ ho hp hc => s.next_with_blk_congr (Block.tmrCtrl_arm ho hp hc),
   fun s _ _ _ ho hp hh hs hb => s.next_with_blk_congr (Block.tmrCtrl_arm_of_match ho hp hh hs hb),
   fun s _ _ ho hp => s.next_with_blk_congr (Block.tmrCtrl_of_high ho hp),
   fun s _ _ ho hp => s.next_with_blk_congr (Block.tmrCtrl_of_high ho hp),
   fun s _ _ ho hp => s.next_with_blk_congr (Block.tmrCtrl_of_high ho hp),
   fun s _ _ ho hp => s.next_with_blk_congr (Block.tmrCtrl_of_high ho hp),
   fun s _ _ ho => ⟨s.next_with_blk_congr (Block.tmrCtrl_of_foreign ho), s.next_with_blk_congr (Block.tmrCtrl_of_foreign ho),
     s.next_with_blk_congr (Block.tmrCtrl_of_foreign ho), s.next_with_blk_congr (Block.tmrCtrl_of_foreign ho)⟩,
   fun s _ _ _ _ ho hp hn => s.next_with_blk_congr (Block.tmrCompare_of_low ho hp hn),
   fun s _ _ _ ho hp => s.next_with_blk_congr (Block.tmrCompare_of_high ho hp),
   fun s _ _ _ ho => s.next_with_blk_congr (Block.tmrCompare_of_foreign ho),
   fun s _ _ _ hc he hp hn hb => s.next_with_blk_congr (timerCapture_of_edge hc he hp hn hb),
   fun s _ hc => s.next_with_blk_congr (timerCapture_of_none hc),
   fun s _ hp => s.next_with_blk_congr (Block.tmrRead_of_pair hp),
   fun s _ hp => s.next_with_blk_congr (Block.tmrRead_of_single hp),
   fun s _ _ _ _ _ hh hr hb hk => s.next_with_blk_congr (Block.tmrOwn_of_kept hr hb hh hk),
   fun s _ _ _ _ _ _ hr hb hc => s.next_with_blk_congr (Block.tmrOwn_of_refused hr hb hc)⟩
end


section
/-!
## Processors, SRAM and CAN FD (chapter 14)
-/

namespace Sys2Proof.Machine

variable {s : Block} {h : HalfId} {n r b row : Nat} {w1 w2 : Word} {data : List Word} {heavy : Bool}

/-! ## Failed cores (rules R330, R333) -/

theorem roleTakeover_of_none (hf : (s.half h).cores.failing.find? (fun x => x.role == r) = none) : roleTakeover h r s = s := by
  simp only [roleTakeover, hf]

/-- The failure that waits first is dealt with by itself. -/
theorem roleTakeover_of_first {q : CoreFail} {rest : List CoreFail} (hf : (s.half h).cores.failing = q :: rest) (hr : q.role = r) :
    roleTakeover h r s = Block.dealCore h s q := by
  simp [roleTakeover, hf, hr]

/-- SPC takes the role while it is unused and good. -/
theorem Block.dealCore_of_free {q : CoreFail} (hr : q.role = r) (hs : s.spcFree h = true) : Block.dealCore h s q =
    (((((s.modCores h fun c => { c with failing := c.failing.filter (fun x => x.role != r) }).modHip h
      fun p => { p with roles := p.roles.set r 1 }).takeUp h r).spareEvent h 5 true r 0 0 15 r q.reason).notice h 0xCD [roleWord r 0 0]) := by
  subst hr
  exact if_pos hs

/-- The first lockstep fault of SUP. -/
theorem lockstep_of_first (hl : (s.half h).hl.lastSup = none) : lockstep h s =
    (((s.setF h F.HLM_ERR_LOCKSTEP 1).endReset h 3).modHl h fun y => { y with lastSup := some (s.half h).tsc }).report h cOK 1 15 3 3 := by
  simp only [lockstep, hl, Bool.false_eq_true, if_false]
  rfl

/-! ## SRAM (rules R334, R463) -/

/-- SRAMTH 1: a row with a corrected error is replaced at once, by the next spare row of its bank. -/
theorem sramSingle_of_spare (ht : s.f h F.TAL_POL_SRAMTH = 1) (hs : nth 0 (s.half h).sram.spare b < 8)
    (hr : (3, b * 65536 + row) ∉ (s.half h).tal.replaced) : sramSingle h b row s =
      (s.modHalf h fun x => { x with sram := { x.sram with
        corr := x.sram.corr.filter (fun y => y.1 != (b, row)), spare := x.sram.spare.set b (nth 0 x.sram.spare b + 1) } }).spareEvent
          h 3 true b (7 - nth 0 (s.half h).sram.spare b) row 14 b row := by
  simp only [sramSingle]
  rw [if_pos (by simp [ht, hr]), if_pos hs]
  rfl

/-- SRAMTH 0: corrected errors are counted and replace no row. -/
theorem sramSingle_of_first (ht : s.f h F.TAL_POL_SRAMTH = 0) (hc : (s.half h).sram.corr = []) :
    sramSingle h b row s = s.modHalf h fun x => { x with sram := { x.sram with corr := [((b, row), 1)] } } := by
  simp [sramSingle, ht, hc]

/-- A double-bit error of plain data: a bus error and a class 0 report, whoever reads. -/
theorem sramDouble_of_data (who : Master) : sramDouble h b row who false s = ({ s with busErr := true } : Block).report h cOK 0 14 b row := by
  unfold sramDouble
  split <;> rfl

/-! ## CAN FD (rule R341) -/

section
variable (hc : s.canRuns h = true) (hs : s.canState h n < 2)
include hc hs

section
variable (hf : bits w1.toNat 21 21 = 0) (hr : s.f h F.CAN_STAT_REC n ≤ 127)
include hf hr

theorem canReceive_of_stopped (hp : canPasses (s.half h).hip.filters n w1 w2 = false) :
    canReceive h n w1 w2 data s = (s.setF h F.CAN_STAT_REC (s.f h F.CAN_STAT_REC n - 1) n).canJudge h n := by
  simp [canReceive, hc, hf, hp, Nat.not_le.2 hs, Nat.not_lt.2 hr]

theorem canReceive_of_passed (hp : canPasses (s.half h).hip.filters n w1 w2 = true) : canReceive h n w1 w2 data s =
    ((s.setF h F.CAN_STAT_REC (s.f h F.CAN_STAT_REC n - 1) n).canJudge h n).softNotice h 0xD1
      ([wd (putBits w1.toNat 23 23 n), w2, wd (s.tsLow h)] ++ data.take 22) 0 := by
  simp [canReceive, hc, hf, hp, Nat.not_le.2 hs, Nat.not_lt.2 hr]
end

theorem canSent_of_queued (hq : (nth ⟨[]⟩ (s.half h).can n).tx ≠ []) (hl : s.on h F.CAN_CTRL_LISTEN n = false)
    (hw : s.fdWaits h n = false) : canSent h n s =
      ((s.modCan h n fun c => ⟨c.tx.drop 1⟩).setF h F.CAN_STAT_TEC (s.f h F.CAN_STAT_TEC n - 1) n).canJudge h n :=
  if_neg (by simp [hc, hw, hl, hq, Nat.not_le.2 hs])

theorem canError_of_bus_off (ht : 255 < s.f h F.CAN_STAT_TEC n + 8) :
    canError h n true heavy s = (s.setF h F.CAN_STAT_TEC 255 n).setF h F.CAN_STAT_STATE 2 n := by
  simp [canError, hc, Nat.not_le.2 hs, ht, capNat, Nat.not_lt.2 ht.le]

theorem canError_of_receiver (hr : s.f h F.CAN_STAT_REC n < 240) : canError h n false heavy s =
    (s.setF h F.CAN_STAT_REC (s.f h F.CAN_STAT_REC n + (if heavy then 8 else 1)) n).canJudge h n := by
  have room : s.f h F.CAN_STAT_REC n + (if heavy then 8 else 1) < 255 := by split <;> omega
  simp [canError, hc, Nat.not_le.2 hs, capNat, room]
end

theorem canRecover_of_bus_off (hc : s.canRuns h = true) (hs : s.canState h n = 2) :
    canRecover h n s = ((s.setF h F.CAN_STAT_STATE 0 n).setF h F.CAN_STAT_TEC 0 n).setF h F.CAN_STAT_REC 0 n :=
  if_neg (by simp [hc, hs])

end Sys2Proof.Machine

open Sys2Proof Sys2Proof.Machine

/-- Settles O7: each row by the state of the core, the SRAM row or the CAN controller that it judges. -/
theorem processorRowsComplete : Obligations.ProcessorRowsComplete :=
  ⟨fun _ _ _ hr => if_neg hr,
   fun s _ _ _ _ hf hr hs => s.next_with_blk_congr ((roleTakeover_of_first hf hr).trans (Block.dealCore_of_free hr hs)),
   fun s _ _ hf => s.next_with_blk_congr (roleTakeover_of_none hf),
   fun s _ hl => s.next_with_blk_congr (lockstep_of_first hl),
   fun s _ _ _ ht hs hr => s.next_with_blk_congr (sramSingle_of_spare ht hs hr),
   fun s _ _ _ ht hc => s.next_with_blk_congr (sramSingle_of_first ht hc),
   fun s _ _ _ who => s.next_with_blk_congr (sramDouble_of_data who),
   fun s _ _ _ _ _ hc hs hf hr hp => s.next_with_blk_congr (canReceive_of_stopped hc hs hf hr hp),
   fun s _ _ _ _ _ hc hs hf hr hp => s.next_with_blk_congr (canReceive_of_passed hc hs hf hr hp),
   fun s _ _ hc hs hq hl hw => s.next_with_blk_congr (canSent_of_queued hc hs hq hl hw),
   fun s _ _ _ hc hs ht => s.next_with_blk_congr (canError_of_bus_off hc hs ht),
   fun s _ _ _ hc hs hr => s.next_with_blk_congr (canError_of_receiver hc hs hr),
   fun s _ _ hc hs => s.next_with_blk_congr (canRecover_of_bus_off hc hs)⟩
end


section
/-!
## Wear counters (chapter 21)

A sample by the swing it completes, widens or starts, a commit by the firmware, and the latched reads.
-/

namespace Sys2Proof.Machine

variable {s : Block} {h : HalfId} {r t uj : Nat}

/-- An update of a wear record counts by its result for the record that the half has. -/
theorem Block.modWear_congr {f g : Wear → Wear} (hfg : f (s.wear h r) = g (s.wear h r)) : s.modWear h r f = s.modWear h r g := by
  have same : (s.half h).tal.wear.set r (f (nth ⟨0, 0, 0, 0, 0, false, 0, 0⟩ (s.half h).tal.wear r)) =
      (s.half h).tal.wear.set r (g (nth ⟨0, 0, 0, 0, 0, false, 0, 0⟩ (s.half h).tal.wear r)) := by
    obtain hr | hr := lt_or_ge r (s.half h).tal.wear.length
    · have here : nth ⟨0, 0, 0, 0, 0, false, 0, 0⟩ (s.half h).tal.wear r = s.wear h r := by simp [Block.wear, nth, hr]
      rw [here, hfg]
    · rw [List.set_eq_of_length_le hr, List.set_eq_of_length_le hr]
  exact congrArg (fun l => s.setHalf h { s.half h with tal := { (s.half h).tal with wear := l } }) same

/-- A sample updates the record, then sends the wear notices and shows the junction. -/
theorem thermalSample_of_wear {f : Wear → Wear} (hf : (
      if (s.wear h r).risen then
        if t + s.f h F.TAL_POL_DT ≤ (s.wear h r).high then
          { s.wear h r with en := (s.wear h r).en + uj, peak := if (s.wear h r).peak < t then t else (s.wear h r).peak,
                            tc := (s.wear h r).tc + 1, risen := false, low := t, high := t }
        else { s.wear h r with en := (s.wear h r).en + uj, peak := if (s.wear h r).peak < t then t else (s.wear h r).peak,
                               high := if (s.wear h r).high < t then t else (s.wear h r).high }
      else if t < (s.wear h r).low then
        { s.wear h r with en := (s.wear h r).en + uj, peak := if (s.wear h r).peak < t then t else (s.wear h r).peak,
                          low := t, high := t }
      else { s.wear h r with en := (s.wear h r).en + uj, peak := if (s.wear h r).peak < t then t else (s.wear h r).peak,
                             high := t, risen := decide ((s.wear h r).low + s.f h F.TAL_POL_DT ≤ t) }) = f (s.wear h r)) :
    thermalSample h r t uj s = ((s.modWear h r f).wearNotices h r).junctionRead h r t :=
  congrArg (fun b => (b.wearNotices h r).junctionRead h r t) (Block.modWear_congr hf)

theorem Block.tallySync_of_running {steps : Nat} (hf : s.fwRuns h = true) : s.tallySync h steps = s.tallyCommit h steps := if_pos hf

theorem Block.tallySync_of_stopped {steps : Nat} (hf : s.fwRuns h = false) : s.tallySync h steps = s :=
  if_neg (ne_true_of_eq_false hf)

theorem Block.tallyWordRead_of_latch {energy : Bool} {l : Option Word × Option Word} (hl : l = nth (none, none) (s.half h).tal.latch r) :
    s.tallyWordRead h r energy = { s.modTal h (fun x => { x with latch := x.latch.set r (
      if energy then (l.1, some (wd (s.joules h r / 2 ^ 24))) else (some (wd (s.swCount h r / 2 ^ 24)), l.2)) }) with
        busErr := false, busData := s.wearWord h r (if energy then 4 else 1) } := by
  subst hl
  rfl

end Sys2Proof.Machine

open Sys2Proof Sys2Proof.Machine

/-- Settles O39: a sample by whether the junction has risen and where it stands, a commit by the firmware, a read by its word. -/
theorem tallyRowsComplete : Obligations.TallyRowsComplete :=
  ⟨fun s _ _ _ _ hr ht => s.next_with_blk_congr (thermalSample_of_wear (by rw [if_pos hr, if_pos ht])),
   fun s _ _ _ _ hr ht => s.next_with_blk_congr (thermalSample_of_wear (by rw [if_pos hr, if_neg (Nat.not_le.2 ht)])),
   fun s _ _ _ _ hr ht => s.next_with_blk_congr (thermalSample_of_wear (by rw [if_neg (ne_true_of_eq_false hr), if_pos ht])),
   fun s _ _ _ _ hr ht => s.next_with_blk_congr (thermalSample_of_wear
     (by rw [if_neg (ne_true_of_eq_false hr), if_neg (Nat.not_lt.2 ht)])),
   fun _ _ _ hf hp => State.access_powered hp (by rw [Block.tallySync_of_running hf]),
   fun _ _ _ hf hp => State.access_powered hp (by rw [Block.tallySync_of_stopped hf]),
   fun _ _ _ _ _ hl hp => State.access_powered hp (Block.tallyWordRead_of_latch hl)⟩
end

section
/-!
## Resets (chapter 20, rules R428, R445, R448, R449)
-/

namespace Sys2Proof.Machine

variable {s : Block} {h : HalfId}

/-- REFCLK loss with the oscillator meant to run: the live halves log it, and both are reset. -/
theorem refclkLoss_of_awake {b : Block} (hr : s.rung .a < 4 ∨ s.rung .b < 4)
    (hb : b = [HalfId.a, HalfId.b].foldl (fun t h => if (t.half h).live then t.report h cOK 0 26 127 0x301 else t) s) :
    refclkLoss s = (b.resetHalf .a 0x0A).resetHalf .b 0x0A := by
  subst hb
  exact if_neg (by obtain hr | hr := hr <;> simp [hr])

theorem refclkLoss_of_asleep (ha : 4 ≤ s.rung .a) (hb : 4 ≤ s.rung .b) : refclkLoss s = s := if_pos (by simp [ha, hb])

theorem halfReset_of_none (hr : (s.half h).hip.resetIn = none) : halfReset h s = s := by simp only [halfReset, hr]

theorem halfReset_of_half (hr : (s.half h).hip.resetIn = some false) : halfReset h s = s.resetHalf h 4 := by simp only [halfReset, hr]

theorem halfReset_of_module (hr : (s.half h).hip.resetIn = some true) : halfReset h s = s.resetModule 5 := by simp only [halfReset, hr]

/-- A report is made in the half's own log. -/
theorem Block.report_half_peer (code cls block index detail : Nat) :
    (s.report h code cls block index detail).half h.peer = s.half h.peer := by
  obtain hq | hq := lt_or_ge (s.half h).hl.queue.length 32
  · rw [Block.report, Block.reportAs_of_room hq]
    exact Block.setHalf_half_peer ..
  · rw [Block.report, Block.reportAs_of_full hq, Block.modHalf_half_peer, Block.setF_half, Block.count_half]

end Sys2Proof.Machine

open Sys2Proof Sys2Proof.Machine

/-- Settles O36: each reset with its cause, and what orders none. -/
theorem resetRowsComplete : Obligations.ResetRowsComplete :=
  ⟨fun s _ _ _ hb => by subst hb; rfl,
   fun s => ⟨s.next_with_blk_congr (if_pos rfl), s.next_with_blk_congr ((if_neg (by decide)).trans (if_pos rfl)),
     s.next_with_blk_congr ((if_neg (by decide)).trans (if_neg (by decide)))⟩,
   fun _ => rfl,
   fun _ _ => rfl,
   fun s b hr ha hl hb => s.next_with_blk_congr (refclkLoss_of_awake hr (hb.trans (by
     have later : ((s.blk.report .a cOK 0 26 127 0x301).half .b).live = true :=
       (congrArg Half.live (Block.report_half_peer (h := .a) ..)).trans hl
     simp only [List.foldl_cons, List.foldl_nil]
     rw [if_pos (show (s.blk.half .a).live = true from ha), if_pos later]))),
   fun s _ hr hb => s.next_with_blk_congr (refclkLoss_of_awake hr hb),
   fun s ha hb => s.next_with_blk_congr (refclkLoss_of_asleep ha hb),
   fun s _ hr => s.next_with_blk_congr (halfReset_of_half hr),
   fun s _ hr => s.next_with_blk_congr (halfReset_of_module hr),
   fun s _ hr => s.next_with_blk_congr (halfReset_of_none hr),
   fun _ _ hl => if_neg (ne_true_of_eq_false hl),
   fun _ _ hl => if_pos hl⟩
end

section
/-!
## The end of a long command and HIP's notices (rules R367, R375, R434)
-/

namespace Sys2Proof.Machine

variable {s : Block} {h : HalfId}

/-! ## LONG_COMMAND_COMPLETE -/

section
variable {s t : State} {c : LongCmd} {st : Word} {ws : List Word}

theorem longComplete_of_none (hc : s.blk.hipActs h = false ∨ (s.blk.half h).hip.long = none) : longComplete h s = s := by
  unfold longComplete
  split
  · rfl
  · next c hl => rw [if_pos (by obtain hc | hc := hc <;> simp_all)]

/-- A command that has come to its end leaves the half, and its COMPLETION notice goes to the host. -/
theorem longComplete_of_end (ha : s.blk.hipActs h = true) (hl : (s.blk.half h).hip.long = some c) (he : s.longEnd h c = some (t, st, ws)) :
    longComplete h s = { t with blk := ((t.blk.modHip h fun x => { x with long := none }).notice h 0xD0
      (wd (c.code * 2 ^ 16 + bitOf (!c.secure) * 2 ^ 15 + c.seq) :: st :: ws)).hipPost h 6 } := by
  simp only [longComplete, hl, ha, he, Bool.not_true, Bool.false_eq_true, if_false]

/-- A module-wide command whose half does not hold the helm to the end. -/
theorem State.longEnd_of_no_helm (hc : c.helm = true) (hp : c.posted = false) (hl : c.helmLost = true ∨ s.blk.holdsHelm h = false) :
    s.longEnd h c = some (s, statusWord cNOT_HELM 0 0, []) :=
  if_pos (by obtain hl | hl := hl <;> simp [hc, hp, hl])
end

/-! ## EVENT_NOTICE_SEND -/

theorem eventNotice_of_none
    (hc : s.hipActs h = false ∨ (s.half h).batchDue = false ∨ (s.half h).hip.out6.any (fun n => n.code == 0xC3) = true) :
    eventNotice h s = s :=
  if_pos (by obtain hc | hc | hc := hc <;> simp only [hc, Bool.not_false, Bool.true_or, Bool.or_true])

theorem eventNotice_of_due (ha : s.hipActs h = true) (hd : (s.half h).batchDue = true)
    (hn : (s.half h).hip.out6.any (fun n => n.code == 0xC3) = false) :
    eventNotice h s = ((s.modHalf h fun y => { y with evn := y.evn.drop 15 }).notice h 0xC3
      (((s.half h).evn.take 15).flatMap NRec.words)).hipPost h 6 :=
  if_neg (by simp only [ha, hd, hn, Bool.not_true, Bool.or_false]; exact Bool.false_ne_true)

/-! ## FAULT_NOTICE_SEND -/

theorem faultNotice_of_none (hc : s.hipActs h = false ∨ (s.half h).hip.faults = []) : faultNotice h s = s := by
  cases hf : (s.half h).hip.faults with
  | nil => simp only [faultNotice, hf]
  | cons d rest =>
    have stopped : s.hipActs h = false := hc.resolve_right fun hn => by simp [hn] at hf
    simp only [faultNotice, hf, stopped, Bool.not_false, if_true]

/-- A notice changes no link. -/
theorem Block.notice_linkUp {k : HalfId} (code : Nat) (ws : List Word) : (s.notice h code ws).linkUp k = s.linkUp k := by
  rw [Block.linkUp, Block.notice_f, Block.linkUp]

theorem Block.notice_servedBy {k : HalfId} (code : Nat) (ws : List Word) : (s.notice h code ws).servedBy k = s.servedBy k := by
  rw [Block.servedBy, Block.notice_on, Block.servedBy]

/-- The oldest waiting FAULT notice is sent; one for every link goes on the other link as well. -/
theorem faultNotice_of_first {d : FaultDue} {rest : List FaultDue} {b : Block} (ha : s.hipActs h = true)
    (hf : (s.half h).hip.faults = d :: rest)
    (hb : b = (s.modHip h fun x => { x with faults := rest, skipped := 0 }).notice h 0xC9
      (d.entry ++ [wd (bitOf d.peer * 2 ^ 23 + (s.half h).hip.skipped * 2 ^ 15 + d.slot)])) :
    faultNotice h s = (if d.wide = true ∧ b.linkUp (b.servedBy h).peer = true then
      b.modHip h fun x => { x with bootReport := x.bootReport ++ ((x.out6.getLast?).map Notice.post).getD [] } else b).hipPost h 6 := by
  have served : b.servedBy h = s.servedBy h := by rw [hb, Block.notice_servedBy]; exact congrArg (fun c : Bool => if c then h.peer else h) (Block.modHalf_on ..)
  have up : b.linkUp (b.servedBy h).peer = s.linkUp (s.servedBy h).peer := by
    rw [served, hb, Block.notice_linkUp]
    exact congrArg (· == lkUP) (Block.modHalf_f ..)
  rw [up]
  simp only [faultNotice, hf, ha, Bool.not_true, Bool.false_eq_true, if_false, Bool.and_eq_true, ← hb]

end Sys2Proof.Machine

open Sys2Proof Sys2Proof.Machine

/-- Settles O35: a long command ends by what it ends with, and a notice is sent while one is due and HIP acts. -/
theorem completionAndNoticesComplete : Obligations.CompletionAndNoticesComplete :=
  ⟨fun _ _ _ _ _ _ ha hl he => congrArg Host.Outcome.next (longComplete_of_end ha hl he),
   fun _ _ _ ha hl hc hp hh => congrArg Host.Outcome.next (longComplete_of_end ha hl (State.longEnd_of_no_helm hc hp hh)),
   fun s _ ha hd hn => s.next_with_blk_congr (eventNotice_of_due ha hd hn),
   fun s _ hc => s.next_with_blk_congr (eventNotice_of_none hc),
   fun s _ hc => s.next_with_blk_congr (faultNotice_of_none hc),
   fun _ _ hc => congrArg Host.Outcome.next (longComplete_of_none hc),
   fun s _ _ _ _ ha hf hb => s.next_with_blk_congr (faultNotice_of_first ha hf hb)⟩
end


section
/-!
## Register, log, tally and firmware commands, and commands that are none (rules R362, R371, R372)
-/

namespace Sys2Proof.Machine

variable {s b : Block} {h : HalfId} {secure : Bool} {code id : Nat} {seq : BitVec 10} {pay ws : List Word} {x : Stream}

/-! ## Streams that HIP sends -/

theorem Block.sendLong_of_open (hs : (s.stream? h false id).isSome = true) :
    s.sendLong h code id secure seq ws = (s, no cCONFIG_INVALID rsSTREAM 1) := if_pos hs

theorem Block.sendLong_of_free (hs : s.stream? h false id = none) : s.sendLong h code id secure seq ws =
    ((s.openStream h ⟨id, false, code, ws.length, 0, [(0, ws)], 0⟩).modHip h fun y =>
      { y with long := some ⟨code, secure, seq.toNat, false, id, false, false, stOK, [wd ws.length]⟩ }, [stPENDING]) :=
  if_neg (by simp [hs])

/-! ## The log -/

/-- HIP acts only while MEM is on. -/
theorem Block.memOn_of_accepts (ha : s.accepts h secure code seq pay = true) : s.memOn h = true := by
  simp only [Block.accepts, Block.hipActs, Bool.and_eq_true, beq_iff_eq] at ha
  obtain ⟨⟨⟨⟨⟨live, -⟩, rung⟩, -⟩, -⟩, -⟩ := ha
  simp [Block.memOn, live, rung]

theorem Block.logClear_of_memOn (hm : s.memOn h = true) : s.logClear h =
    (((List.range 1024).foldl (fun t i => t.setW h .LOG_ENT 0 i) s).setF h F.LOG_STAT_WPTR 0).setF h F.LOG_STAT_FULL 0 := by
  rw [Block.logClear, if_pos hm]

/-! ## Firmware -/

theorem Block.fwPhase_iff : s.fwPhase h = true ↔ s.phase h = phHOLD ∨ s.phase h = phTEST := by simp [Block.fwPhase]

theorem Block.fwPhase_of_other (hp : ¬ (s.phase h = phHOLD ∨ s.phase h = phTEST)) : s.fwPhase h = false :=
  Bool.eq_false_iff.2 fun hf => hp (Block.fwPhase_iff.1 hf)

section
variable {s : State}

/-- An accepted command with what its body leaves and answers. -/
theorem State.cmd_eq_of_accepts {t : State} {body : State → State × List Word} (ha : s.blk.accepts h secure code seq pay = true)
    (hb : body s = (t, ws)) (hc : code < 256 := by decide) :
    s.cmd h secure code seq pay body = .next { t with blk := t.blk.reply h secure (header code pay.length seq.toNat) ws } := by
  rw [cmd_of_accepts _ hc ha, hb]

theorem fwSelect_of_unchecked (hc : (s.firm h).checked = false) : fwSelect h s = (s, no cCONFIG_INVALID rsNOT_FOUND 0) := by
  simp [fwSelect, hc]

theorem fwSelect_of_phase (hc : (s.firm h).checked = true) (hp : ¬ (s.blk.phase h = phHOLD ∨ s.blk.phase h = phTEST)) :
    fwSelect h s = (s, no cPHASE 0 0) := by
  simp [fwSelect, hc, Block.fwPhase_of_other hp]

theorem fwSelect_of_checked (hc : (s.firm h).checked = true) (hp : s.blk.phase h = phHOLD ∨ s.blk.phase h = phTEST) :
    fwSelect h s = (s.setFirm h { s.firm h with active := 1 - (s.firm h).active }, [stOK]) := by
  simp [fwSelect, hc, Block.fwPhase_iff.2 hp, Firm.inactive]

/-- A command that either takes effect or is refused, by one condition. -/
theorem State.cmd_ite_of_accepts {t : State} {ok : Bool} {yes no : List Word} {body : State → State × List Word}
    (ha : s.blk.accepts h secure code seq pay = true) (hb : body s = if ok then (t, yes) else (s, no)) (hc : code < 256 := by decide) :
    s.cmd h secure code seq pay body =
      if ok then .next { t with blk := t.blk.reply h secure (header code pay.length seq.toNat) yes }
      else .next { s with blk := s.blk.reply h secure (header code pay.length seq.toNat) no } := by
  cases ok <;> exact State.cmd_eq_of_accepts ha hb hc
end

/-! ## Commands that are none -/

section
variable {s : State}

/-- A code that is not listed is refused UNKNOWN. -/
theorem execCommandUnknown_of_acting {code : BitVec 7} (ha : s.blk.hipActs h = true) (hf : (cmdForm code.toNat).isNone = true)
    (hn : pay.length ≤ 63) (ho : s.blk.stored? h secure (header code.toNat pay.length seq.toNat) = none) :
    execCommandUnknown h secure code seq pay s =
      .next { s with blk := s.blk.reply h secure (header code.toNat pay.length seq.toNat) [statusWord cCONFIG_INVALID rsUNKNOWN 0] } := by
  have none := Option.isNone_iff_eq_none.1 hf
  have unknown : s.blk.ground h secure code.toNat pay.length pay = some (statusWord cCONFIG_INVALID rsUNKNOWN 0) := by
    simp only [Block.ground, none]
  rw [execCommandUnknown, if_neg (by simp [none])]
  exact cmd_of_ground _ (by omega) hn ha ho unknown

/-- It waits like any command while HIP does not act; a listed code is none of this row's. -/
theorem execCommandUnknown_of_idle {code : BitVec 7} (ha : s.blk.hipActs h = false) : execCommandUnknown h secure code seq pay s =
    .next { s with blk := if (cmdForm code.toNat).isSome then s.blk
      else s.blk.keepCommand h secure (header code.toNat pay.length seq.toNat) pay } := by
  unfold execCommandUnknown
  split
  · rfl
  · exact cmd_of_waiting _ _ _ _ _ ha

variable {hdr : Word}

/-- The words taken of a command do not bear on whether HIP acts. -/
theorem Block.setPart_hipActs {s : Block} {l : List Word} : (s.setPart h secure l).hipActs h = s.hipActs h := by
  have pair (x : Hip) (p : PairState) : (x.setPair secure p).running = x.running := by cases secure <;> rfl
  have rung : (s.setPart h secure l).rung h = s.rung h := Block.modHalf_f ..
  unfold Block.hipActs
  rw [rung, Block.setPart, Block.modHip, Block.modHalf_half, pair]

theorem execCommandTruncated_of_other (hp : ((s.blk.half h).hip.pair secure).part ≠ hdr :: pay) :
    execCommandTruncated h secure hdr pay s = .next s :=
  if_pos (by simp [hp])

/-- What HIP has taken is discarded, and the reply is not kept. -/
theorem execCommandTruncated_of_taken (hb : b = s.blk.setPart h secure []) (hp : ((s.blk.half h).hip.pair secure).part = hdr :: pay)
    (ha : s.blk.hipActs h = true) (hh : bits hdr.toNat 23 23 = 0) (ho : b.stored? h secure hdr = none)
    (hf : (match cmdForm (bits hdr.toNat 23 16) with | some f => f.counts (bits hdr.toNat 15 10) | none => false) = true)
    (hn : pay.length < bits hdr.toNat 15 10) :
    execCommandTruncated h secure hdr pay s =
      .next { s with blk := b.postReply h secure (replyWords hdr [statusWord cCONFIG_INVALID rsTRUNCATED 0]) } := by
  have acts : b.hipActs h = true := by rw [hb, Block.setPart_hipActs, ha]
  have short : b.ground h secure (bits hdr.toNat 23 16) (bits hdr.toNat 15 10) pay = some (statusWord cCONFIG_INVALID rsTRUNCATED 0) := by
    unfold Block.ground
    split at hf
    next f form => rw [form]; simp [hf, hn]
    next => cases hf
  rw [execCommandTruncated, if_neg (by simp [hp, hh, hn]), ← hb]
  simp only [State.command, acts, ho, short, hn, Bool.not_true, Bool.false_eq_true, if_false, if_true]
end

end Sys2Proof.Machine

open Sys2Proof Sys2Proof.Machine

/-- Settles O34: each command by the conditions of its body, and a word sequence that is no command by what it lacks. -/
theorem registerAndFirmwareCommandsComplete : Obligations.RegisterAndFirmwareCommandsComplete :=
  ⟨fun _ _ _ _ _ _ ha hr => State.cmd_eq_of_accepts ha (by rw [hr]),
   fun _ _ _ _ _ _ ha hp hr => State.cmd_eq_of_accepts ha (by rw [hr]; exact if_neg (not_not.2 hp)),
   fun _ _ _ _ _ ha hp => State.cmd_eq_of_accepts ha (if_pos hp),
   fun _ _ _ _ _ _ ha hs hw => State.cmd_onBlk_of_accepts ha (by rw [← hw]; exact Block.sendLong_of_free hs),
   fun _ _ _ _ _ ha => State.cmd_onBlk_of_accepts ha (by rw [Block.logClear_of_memOn (Block.memOn_of_accepts ha)]),
   fun _ _ _ _ _ ha hs => State.cmd_onBlk_of_accepts ha (Block.sendLong_of_free hs),
   fun _ _ _ _ _ ha hp hs hl => State.cmd_onBlk_of_accepts ha
     ((if_neg (by simp [Block.fwPhase_iff.2 hp])).trans (Block.openCmd_of_free hs hl)),
   fun _ _ _ _ _ _ ha hs hc hw => State.cmd_onBlk_of_accepts ha (Block.closeCmd_of_whole hs hc hw),
   fun _ _ _ _ _ _ ha hp hc ht => State.cmd_eq_of_accepts ha (by rw [ht]; exact fwSelect_of_checked hc hp),
   fun _ _ _ _ _ _ _ ha hk ht => State.cmd_ite_of_accepts ha (by rw [hk, ht]; rfl),
   fun _ _ _ _ _ _ _ ha hk ht => State.cmd_ite_of_accepts ha (by rw [hk, ht]; rfl),
   fun _ _ _ _ _ ha hs => State.cmd_onBlk_of_accepts ha (Block.sendLong_of_open hs),
   fun _ _ _ _ _ ha hs => State.cmd_onBlk_of_accepts ha (Block.sendLong_of_open hs),
   fun _ _ _ _ _ ha hp => State.cmd_onBlk_of_accepts ha (if_pos (by simp [Block.fwPhase_of_other hp])),
   fun _ _ _ _ _ ha hp hs => State.cmd_onBlk_of_accepts ha
     ((if_neg (by simp [Block.fwPhase_iff.2 hp])).trans (Block.openCmd_of_open hs)),
   fun _ _ _ _ _ ha hp hs hl => State.cmd_onBlk_of_accepts ha
     ((if_neg (by simp [Block.fwPhase_iff.2 hp])).trans (Block.openCmd_of_long hs hl)),
   fun _ _ _ _ _ ha hs => State.cmd_onBlk_of_accepts ha (Block.closeCmd_of_other hs),
   fun _ _ _ _ _ _ ha hs hc hw => State.cmd_onBlk_of_accepts ha (Block.closeCmd_of_incomplete hs hc hw),
   fun _ _ _ _ _ ha hc hp => State.cmd_eq_of_accepts ha (fwSelect_of_phase hc hp),
   fun _ _ _ _ _ ha hc => State.cmd_eq_of_accepts ha (fwSelect_of_unchecked hc),
   fun _ _ _ _ _ _ ha hf hn ho => execCommandUnknown_of_acting ha hf hn ho,
   fun _ _ _ _ _ _ hb hp ha hh ho hf hn => execCommandTruncated_of_taken hb hp ha hh ho hf hn,
   fun _ _ _ _ _ hp => execCommandTruncated_of_other hp,
   fun _ _ _ _ _ _ ha => execCommandUnknown_of_idle ha⟩
end


section
/-!
## General commands, streams, notices, reset and the secure session (rules R361, R368 to R371, R376)
-/

namespace Sys2Proof.Machine

variable {s b : Block} {h : HalfId} {pay : List Word} {x : Stream}

/-! ## STREAM_ABORT -/

/-- STREAM_ABORT of stream `id`: it closes, and the command that sends on it ends with the words sent. -/
def Block.streamAbort (h : HalfId) (pay : List Word) (s : Block) : Block × List Word :=
  let id := bits (pw pay 1) 23 20
  let incoming := bits (pw pay 1) 19 19 == 0
  match s.stream? h incoming id with
  | none => (s, no cCONFIG_INVALID rsSTREAM 1)
  | some x =>
    let s1 := s.closeStream h incoming id
    (if incoming then s1 else s1.modHip h fun p => { p with long := p.long.map fun c =>
      if c.code == x.code then { c with status := statusWord cCONFIG_INVALID rsSTREAM 0, result := [wd x.sent] } else c }, [stOK])

theorem execStreamAbort_eq {secure : Bool} {seq : BitVec 10} (s : State) :
    execStreamAbort h secure seq pay s = s.cmd h secure 0x06 seq pay (onBlk (Block.streamAbort h pay)) := rfl

theorem Block.streamAbort_of_none (hs : s.stream? h (bits (pw pay 1) 19 19 == 0) (bits (pw pay 1) 23 20) = none) :
    Block.streamAbort h pay s = (s, no cCONFIG_INVALID rsSTREAM 1) := by
  simp only [Block.streamAbort, hs]

theorem Block.streamAbort_of_incoming (hd : bits (pw pay 1) 19 19 = 0) (hs : s.stream? h true (bits (pw pay 1) 23 20) = some x) :
    Block.streamAbort h pay s = (s.closeStream h true (bits (pw pay 1) 23 20), [stOK]) := by
  simp [Block.streamAbort, hd, hs]

theorem Block.streamAbort_of_outgoing (hd : bits (pw pay 1) 19 19 = 1) (hs : s.stream? h false (bits (pw pay 1) 23 20) = some x) :
    Block.streamAbort h pay s = ((s.closeStream h false (bits (pw pay 1) 23 20)).modHip h fun p => { p with long := p.long.map fun c =>
      if c.code = x.code then { c with status := statusWord cCONFIG_INVALID rsSTREAM 0, result := [wd x.sent] } else c }, [stOK]) := by
  simp [Block.streamAbort, hd, hs]

/-! ## NOTICE_REPLAY -/

theorem noticeReplay_of_held {q : Nat} {o : Notice} {again : List Notice} (ho : (s.half h).hip.replay.head? = some o)
    (ha : again = (s.half h).hip.replay.dropWhile fun n => n.seq != q) (hn : again ≠ []) :
    noticeReplay h q s = (s.modHip h fun x => { x with out6 := x.out6.filter (fun n => !again.contains n) ++ again },
      [stOK, wd o.seq]) := by
  have held : ¬ ((again.isEmpty && q != (s.half h).hip.seq) = true) := by simp [hn]
  unfold noticeReplay
  simp only [ho, ← ha, if_neg held]
  rfl

theorem noticeReplay_of_past {q : Nat} (ha : (s.half h).hip.replay.dropWhile (fun n => n.seq != q) = [])
    (hq : q ≠ (s.half h).hip.seq) : noticeReplay h q s =
      (s, [statusWord cPAST 0 0, wd (((s.half h).hip.replay.head?.map Notice.seq).getD (s.half h).hip.seq)]) := by
  simp [noticeReplay, ha, hq]

/-! ## The secure session (rules R368, R369) -/

/-- The last of three bytes stands in [7:0]. -/
theorem packed_last (a b c : Nat) (hc : c < 256) : (wd (a * 2 ^ 16 + b * 2 ^ 8 + c)).toNat % 256 = c := by
  simp only [wd, BitVec.toNat_ofNat]
  omega

/-- Eleven triples of bytes make eleven words, and the last byte stands at the end of the last. -/
theorem packBytes_challenge (f : Nat → Nat) (c : Nat) (hc : c < 256) :
    (packBytes ((List.range 32).map f ++ [c])).length = 11 ∧ (nth 0 (packBytes ((List.range 32).map f ++ [c])) 10).toNat % 256 = c :=
  ⟨rfl, packed_last _ _ _ hc⟩

theorem secUnlock_of_lockout (hl : nth false s.lockout h.num = true) : secUnlock h pay s = (s, no cSECURE_REQUIRED rsLOCKOUT 0) :=
  if_pos hl

section
variable (hl : nth false s.lockout h.num = false) (hb : b = s.modHip h fun x => { x with nonce := none })
include hl hb

theorem secUnlock_of_no_nonce (hn : (s.half h).hip.nonce = none) : secUnlock h pay s =
    ({ b with fails := b.fails.set h.num (nth 0 b.fails h.num + 1),
              lockout := b.lockout.set h.num (decide (3 ≤ nth 0 b.fails h.num + 1)) }, no cSECURE_REQUIRED rsSIGNATURE 0) := by
  subst hb
  simp only [secUnlock, hl, hn, Bool.false_eq_true, if_false]

/-- With a nonce the two checks decide. -/
theorem secUnlock_of_nonce {n : List Word} {ok : Bool} (hn : (s.half h).hip.nonce = some n)
    (hk : ok = (Config.keyHashOk (pay.take 22) && Config.signatureOk n (pay.take 22) (pay.drop 22))) : secUnlock h pay s =
      if ok then ({ b.modHip h (fun x => { x with session := true }) with fails := b.fails.set h.num 0 }, [stOK])
      else ({ b with fails := b.fails.set h.num (nth 0 b.fails h.num + 1),
                     lockout := b.lockout.set h.num (decide (3 ≤ nth 0 b.fails h.num + 1)) }, no cSECURE_REQUIRED rsSIGNATURE 0) := by
  subst hb hk
  simp only [secUnlock, hl, hn, Bool.false_eq_true, if_false]
end

/-! ## CAN_TX -/

section
variable (hn : pay.length = canTxWords (pw pay 1))

theorem canTx_of_count (hn : pay.length ≠ canTxWords (pw pay 1)) : canTx h pay s = (s, no cCONFIG_INVALID rsCOUNT 0) := if_pos hn

include hn

theorem canTx_of_full (hq : 8 ≤ (nth ⟨[]⟩ (s.half h).can (bits (pw pay 1) 23 23)).tx.length) :
    canTx h pay s = (s, no cQUEUE_FULL 0 0) := by
  simp [canTx, hn, hq]

variable (hq : (nth ⟨[]⟩ (s.half h).can (bits (pw pay 1) 23 23)).tx.length < 8)
include hq

theorem canTx_of_apart (hs : s.canState h (bits (pw pay 1) 23 23) = 3) : canTx h pay s = (s, no cPHASE 0 0) := by
  simp [canTx, hn, Nat.not_le.2 hq, hs]

theorem canTx_of_room (hs : s.canState h (bits (pw pay 1) 23 23) ≠ 3) :
    canTx h pay s = (s.modCan h (bits (pw pay 1) 23 23) fun c => { c with tx := c.tx ++ [pay] }, [stOK]) := by
  simp [canTx, hn, Nat.not_le.2 hq, hs]
end

end Sys2Proof.Machine

open Sys2Proof Sys2Proof.Machine

/-- Settles O32: each command by the conditions of its body, and a half that does not act keeps whatever command comes. -/
theorem generalCommandsComplete : Obligations.GeneralCommandsComplete :=
  ⟨fun _ _ _ _ _ ha => State.cmd_onBlk_of_accepts ha rfl,
   fun s h _ _ _ ha => ⟨s.firm h, rfl, State.cmd_eq_of_accepts ha rfl⟩,
   fun _ _ _ _ _ ha => State.cmd_onBlk_of_accepts ha rfl,
   fun _ _ _ _ _ ha => State.cmd_onBlk_of_accepts ha rfl,
   fun _ _ _ _ _ ha => State.cmd_onBlk_of_accepts ha rfl,
   fun _ _ _ _ _ ha => State.cmd_onBlk_of_accepts ha rfl,
   fun s _ _ _ _ _ ha hd hs => (execStreamAbort_eq s).trans (State.cmd_onBlk_of_accepts ha (Block.streamAbort_of_incoming hd hs)),
   fun s _ _ _ _ ha hs => (execStreamAbort_eq s).trans (State.cmd_onBlk_of_accepts ha (Block.streamAbort_of_none hs)),
   fun s _ _ _ _ _ ha hd hs => (execStreamAbort_eq s).trans (State.cmd_onBlk_of_accepts ha (Block.streamAbort_of_outgoing hd hs)),
   fun _ _ _ _ _ _ _ ha ho hg hn => State.cmd_onBlk_of_accepts ha (by rw [noticeReplay_of_held ho hg hn]),
   fun _ _ _ _ _ ha hm => State.cmd_onBlk_of_accepts ha (by simp [hm]),
   fun _ _ _ _ _ ha hm hh => State.cmd_onBlk_of_accepts ha (by simp [hm, hh]),
   fun _ _ _ _ _ ha hm hh => State.cmd_onBlk_of_accepts ha (by simp [hm, hh]; rfl),
   fun s h _ _ _ ha => ⟨_, (packBytes_challenge _ _ (by cases h <;> decide)).1, (packBytes_challenge _ _ (by cases h <;> decide)).2,
     State.cmd_onBlk_of_accepts ha rfl⟩,
   fun _ _ _ _ _ _ ok _ ha hl hn hb hk => by
     cases ok <;> exact State.cmd_onBlk_of_accepts ha (secUnlock_of_nonce hl hb hn hk),
   fun _ _ _ _ _ ha hl => State.cmd_onBlk_of_accepts ha (secUnlock_of_lockout hl),
   fun _ _ _ _ _ ha => State.cmd_onBlk_of_accepts ha rfl,
   fun _ _ _ _ _ _ ha => by
     simp only [List.forall_mem_cons, List.not_mem_nil, false_imp_iff, implies_true, and_true]
     and_intros <;> exact cmd_of_waiting _ _ _ _ _ ha,
   fun _ _ hl => if_pos hl,
   fun _ _ _ _ _ ha hn hq hs => State.cmd_onBlk_of_accepts ha (canTx_of_room hn hq hs),
   fun _ _ _ _ _ ha => State.cmd_onBlk_of_accepts ha rfl,
   fun _ _ _ _ _ ha hg hq => State.cmd_onBlk_of_accepts ha (by rw [noticeReplay_of_past hg hq]),
   fun _ _ _ _ _ _ ha hl hn hb => State.cmd_onBlk_of_accepts ha (secUnlock_of_no_nonce hl hb hn),
   fun _ _ hl => if_neg (ne_true_of_eq_false hl),
   fun _ _ _ _ _ ha hn => State.cmd_onBlk_of_accepts ha (canTx_of_count hn),
   fun _ _ _ _ _ ha hn hq => State.cmd_onBlk_of_accepts ha (canTx_of_full hn hq),
   fun _ _ _ _ _ ha hn hq hs => State.cmd_onBlk_of_accepts ha (canTx_of_apart hn hq hs)⟩
end


section
/-!
## Link bring-up, violations and loss (rules R346 to R348, R359, R374)
-/

namespace Sys2Proof.Machine

variable {s b : Block} {l : HalfId} {ts : TrainSet} {sent : Bool} {k p since : Nat} {near ages : List Nat}

/-! ## Training sets on the host link -/

theorem trainingSet_of_alien (ht : ts.fromHost = false) :
    trainingSet l ts sent s = s.modLink l fun x => { x with ts := 0, tsAck := 0 } := by
  simp [trainingSet, ht]

section
variable (ht : ts.fromHost = true)
include ht

theorem trainingSet_of_asleep (hr : 2 ≤ s.rung l) :
    trainingSet l ts sent s = if s.on .a F.WAKE_CFG_QHLEN then s.wakeHalf l (10 + l.num) 3 else s := by
  simp [trainingSet, ht, hr]

variable (hr : s.rung l < 2)
include hr

theorem trainingSet_of_idle
    (hc : s.on l F.CRP_STAT_HLLOCK = false ∨ s.f l F.QHL_STAT_STATE = lkDOWN ∨ s.f l F.QHL_STAT_STATE = lkUP) :
    trainingSet l ts sent s = s := by
  obtain hc | hc | hc := hc <;> simp [trainingSet, ht, Nat.not_le.2 hr, hc, lkDOWN, lkTRAIN, lkALIGN, lkUP]

variable (hl : s.on l F.CRP_STAT_HLLOCK = true)
include hl

theorem trainingSet_of_train (hs : s.f l F.QHL_STAT_STATE = lkTRAIN) (hn : (s.link l).ts < 63) :
    trainingSet l ts sent s = s.modLink l fun x => { x with ts := x.ts + 1 } := by
  have more : ¬ 64 ≤ (s.link l).ts + 1 := by omega
  simp only [trainingSet, ht, hl, hs, if_neg (Nat.not_le.2 hr), if_neg more, Bool.not_true, Bool.false_eq_true, if_false, if_true]
  rfl

theorem trainingSet_of_trained (hs : s.f l F.QHL_STAT_STATE = lkTRAIN) (hn : 63 ≤ (s.link l).ts) :
    trainingSet l ts sent s = (s.setF l F.QHL_STAT_STATE lkALIGN).modLink l fun x => { x with ts := 0, tsAck := 0 } := by
  simp [trainingSet, ht, hl, hs, Nat.not_le.2 hr, hn]

variable (hs : s.f l F.QHL_STAT_STATE = lkALIGN) (hk : k = if ts.ack then capNat 16 ((s.link l).tsAck + 1) else 0)
include hs hk

theorem trainingSet_of_align (hn : ¬ (k = 16 ∧ sent = true)) :
    trainingSet l ts sent s = s.modLink l fun x => { x with tsAck := k } := by
  have train : lkALIGN ≠ lkTRAIN := by decide
  simp only [trainingSet, ht, hl, hs, if_neg (Nat.not_le.2 hr), if_neg train, ← hk, Bool.not_true, Bool.false_eq_true, if_false, if_true]
  exact if_neg (by simpa using hn)

theorem trainingSet_of_aligned (hn : k = 16) : trainingSet l ts true s = s.linkRises l := by
  have train : lkALIGN ≠ lkTRAIN := by decide
  simp only [trainingSet, ht, hl, hs, if_neg (Nat.not_le.2 hr), if_neg train, ← hk, Bool.not_true, Bool.false_eq_true, if_false, if_true]
  exact if_pos (by simp [hn])
end

/-! ## Training sets on a port -/

theorem eulTraining_of_asleep (hr : 2 ≤ s.rung l) : eulTraining l p ts sent s = s.eulWake l p := by simp [eulTraining, hr]

section
variable (hr : s.rung l < 2)
include hr

theorem eulTraining_of_alien (ht : ts.fromUnit = false) :
    eulTraining l p ts sent s = s.modPort l p fun y => { y with ts := 0, tsAck := 0 } := by
  simp [eulTraining, ht, Nat.not_le.2 hr]

variable (ht : ts.fromUnit = true)
include ht

theorem eulTraining_of_idle (hc : (s.f l F.EUL_PSTAT_STATE p = lkTRAIN ∧ s.on l F.EUL_PSTAT_LANEFAIL p = true) ∨
    s.f l F.EUL_PSTAT_STATE p = lkDOWN ∨ s.f l F.EUL_PSTAT_STATE p = lkUP) : eulTraining l p ts sent s = s := by
  obtain ⟨hs, hf⟩ | hs | hs := hc
  · simp [eulTraining, ht, Nat.not_le.2 hr, hs, hf]
  all_goals simp [eulTraining, ht, Nat.not_le.2 hr, hs, lkDOWN, lkTRAIN, lkALIGN, lkUP]

section
variable (hs : s.f l F.EUL_PSTAT_STATE p = lkTRAIN) (hf : s.on l F.EUL_PSTAT_LANEFAIL p = false)
include hs hf

theorem eulTraining_of_train (hn : (s.eport l p).ts < 63) :
    eulTraining l p ts sent s = s.modPort l p fun y => { y with ts := y.ts + 1, sendLane := ts.lane } := by
  have more : ¬ 64 ≤ (s.eport l p).ts + 1 := by omega
  simp only [eulTraining, ht, hs, hf, if_neg (Nat.not_le.2 hr), if_neg more, Bool.not_true, Bool.false_eq_true, if_false, if_true]
  rfl

theorem eulTraining_of_trained (hn : 63 ≤ (s.eport l p).ts) : eulTraining l p ts sent s =
    (s.setF l F.EUL_PSTAT_STATE lkALIGN p).modPort l p fun y => { y with ts := 0, tsAck := 0, sendLane := ts.lane } := by
  simp [eulTraining, ht, hs, hf, Nat.not_le.2 hr, hn]
end

section
variable (hs : s.f l F.EUL_PSTAT_STATE p = lkALIGN) (hk : k = if ts.ack then capNat 16 ((s.eport l p).tsAck + 1) else 0)
include hs hk

theorem eulTraining_of_align (hn : ¬ (k = 16 ∧ sent = true)) :
    eulTraining l p ts sent s = s.modPort l p fun y => { y with tsAck := k, sendLane := ts.lane } := by
  have train : lkALIGN ≠ lkTRAIN := by decide
  simp only [eulTraining, ht, hs, if_neg (Nat.not_le.2 hr), if_neg train, ← hk, Bool.not_true, Bool.false_eq_true, if_false, if_true]
  exact if_neg (by simpa using hn)

theorem eulTraining_of_aligned (hn : k = 16) : eulTraining l p ts true s =
    (s.setF l F.EUL_PSTAT_STATE lkUP p).modPort l p fun y => { y with ts := 0, tsAck := 0, trainF := 0, sendLane := ts.lane } := by
  have train : lkALIGN ≠ lkTRAIN := by decide
  simp only [eulTraining, ht, hs, if_neg (Nat.not_le.2 hr), if_neg train, ← hk, Bool.not_true, Bool.false_eq_true, if_false, if_true]
  exact if_pos (by simp [hn])
end
end

/-! ## 1 ms in training -/

theorem trainTimeout_of_training (hs : s.f l F.QHL_STAT_STATE = lkTRAIN ∨ s.f l F.QHL_STAT_STATE = lkALIGN) (hr : s.rung l ≤ 1) :
    trainTimeout l s =
      ((s.setF l F.QHL_ERR_TRNFAIL 1).setF l F.QHL_STAT_STATE lkTRAIN).modLink l fun x => { x with ts := 0, tsAck := 0 } :=
  if_pos (by simp [hs, hr])

theorem trainTimeout_of_other
    (hc : ¬ (s.f l F.QHL_STAT_STATE = lkTRAIN ∨ s.f l F.QHL_STAT_STATE = lkALIGN) ∨ 2 ≤ s.rung l) : trainTimeout l s = s := by
  refine if_neg fun h => ?_
  simp only [Bool.and_eq_true, Bool.or_eq_true, decide_eq_true_eq] at h
  obtain ⟨training, awake⟩ := h
  exact hc.elim (· training) fun hr => by omega

theorem eulTrainTimeout_of_training (hs : s.f l F.EUL_PSTAT_STATE p = lkTRAIN ∨ s.f l F.EUL_PSTAT_STATE p = lkALIGN) :
    eulTrainTimeout l p s = (s.setF l F.EUL_PSTAT_STATE lkTRAIN p).modPort l p fun y =>
      { y with ts := 0, tsAck := 0, trainF := capNat 2 (y.trainF + 1) } :=
  if_pos (by simpa using hs)

theorem eulTrainTimeout_of_other (hs : ¬ (s.f l F.EUL_PSTAT_STATE p = lkTRAIN ∨ s.f l F.EUL_PSTAT_STATE p = lkALIGN)) :
    eulTrainTimeout l p s = s :=
  if_neg (by simpa using hs)

/-! ## Code violations (rule R347) -/

theorem codeViolation_of_down (hs : s.f l F.QHL_STAT_STATE = lkDOWN) : codeViolation l since s = s := if_pos hs

theorem Block.state_of_linkUp (hu : s.linkUp l = true) : s.f l F.QHL_STAT_STATE ≠ lkDOWN := by
  rw [Block.linkUp, beq_iff_eq] at hu
  rw [hu]
  decide

section
variable (hd : s.f l F.QHL_STAT_STATE ≠ lkDOWN) (hn : near = (0 :: (s.link l).viol.map (fun d => d + since)).filter fun d => d < 64)
  (hb : b = (s.count l F.QHL_CNT1_CODEERRS).modLink l fun x => { x with viol := near.take 4, ts := 0, tsAck := 0 })
include hd hn hb

theorem codeViolation_of_few (hc : near.length < 4 ∨ s.linkUp l = false) : codeViolation l since s = b := by
  rw [codeViolation, if_neg hd, hb, hn]
  refine if_neg ?_
  rw [← hn]
  obtain hc | hc := hc <;> simp [hc]

theorem codeViolation_of_four (hu : s.linkUp l = true) (hc : 4 ≤ near.length) :
    codeViolation l since s = (b.setF l F.QHL_ERR_ALIGN 1).linkFalls l lkTRAIN := by
  rw [codeViolation, if_neg hd, hb, hn]
  refine if_pos ?_
  rw [← hn]
  simp [hu, hc]
end

section
variable (ha : ages = ((0 :: (s.eport l p).viol.map (fun d => d + since)).filter fun d => d < 50000000).take 16)
  (hb : b = (s.count l F.EUL_PCNT0_CODEERRS p).modPort l p fun x => { x with viol := ages, ts := 0, tsAck := 0 })
include ha hb

theorem eulViolation_of_few (hc : s.portUp (l, p) = false ∨ (ages.filter fun d => d < 64).length < 4) : eulViolation l p since s = b := by
  rw [eulViolation, hb, ha]
  refine if_neg ?_
  rw [← ha]
  obtain hc | hc := hc <;> simp [hc]

theorem eulViolation_of_four (hu : s.portUp (l, p) = true) (hc : 4 ≤ (ages.filter fun d => d < 64).length) :
    eulViolation l p since s = b.eulFalls l p lkTRAIN := by
  rw [eulViolation, hb, ha]
  refine if_pos ?_
  rw [← ha]
  simp [hu, hc]
end

/-! ## QHL_CMD (rule R359) -/

/-- A write of QHL_CMD by a master that may. -/
theorem access_of_linkMaster {s : State} {who : Master} {c d : Block} (hm : s.blk.linkMaster l who = true)
    (hp : s.blk.powered .QHL_CMD l = true) (hd : { c with busErr := false } = d) :
    s.access .QHL_CMD l (if s.blk.linkMaster l who then { c with busErr := false } else { s.blk with busErr := true }) =
      .next { s with blk := d } :=
  State.access_powered hp ((if_pos hm).trans hd)

theorem access_of_other {s : State} {who : Master} {c : Block} (hm : s.blk.linkMaster l who = false)
    (hp : s.blk.powered .QHL_CMD l = true) :
    s.access .QHL_CMD l (if s.blk.linkMaster l who then { c with busErr := false } else { s.blk with busErr := true }) =
      .next { s with blk := { s.blk with busErr := true } } :=
  State.access_powered hp (if_neg (ne_true_of_eq_false hm))

end Sys2Proof.Machine

open Sys2Proof Sys2Proof.Machine

/-- Settles O29: each row by the state of the link or port, the half's rung and the set or violation that comes. -/
theorem linkTrainingRowsComplete : Obligations.LinkTrainingRowsComplete :=
  ⟨fun s _ _ _ hr hl ht hs hn => s.next_with_blk_congr (trainingSet_of_train ht hr hl hs hn),
   fun s _ _ _ hr hl ht hs hn => s.next_with_blk_congr (trainingSet_of_trained ht hr hl hs hn),
   fun s _ _ _ _ hr hl ht hs hk hn => s.next_with_blk_congr (trainingSet_of_align ht hr hl hs hk hn),
   fun s _ _ _ hr hl ht hs hk hn => s.next_with_blk_congr (trainingSet_of_aligned ht hr hl hs hk hn),
   fun s _ _ _ hr ht => s.next_with_blk_congr (trainingSet_of_asleep ht hr),
   fun s _ _ _ hr ht hc => s.next_with_blk_congr (trainingSet_of_idle ht hr hc),
   fun s _ _ _ ht => s.next_with_blk_congr (trainingSet_of_alien ht),
   fun s _ hs hr => s.next_with_blk_congr (trainTimeout_of_training hs hr),
   fun s _ hc => s.next_with_blk_congr (trainTimeout_of_other hc),
   fun s _ _ _ _ hd hn hb hc => s.next_with_blk_congr (codeViolation_of_few hd hn hb hc),
   fun s _ _ _ _ hu hn hb hc => s.next_with_blk_congr (codeViolation_of_four (Block.state_of_linkUp hu) hn hb hu hc),
   fun s _ _ hs => s.next_with_blk_congr (codeViolation_of_down hs),
   fun s _ _ _ _ hr ht hs hf hn => s.next_with_blk_congr (eulTraining_of_train hr ht hs hf hn),
   fun s _ _ _ _ hr ht hs hf hn => s.next_with_blk_congr (eulTraining_of_trained hr ht hs hf hn),
   fun s _ _ _ _ _ hr ht hs hk hn => s.next_with_blk_congr (eulTraining_of_align hr ht hs hk hn),
   fun s _ _ _ _ hr ht hs hk hn => s.next_with_blk_congr (eulTraining_of_aligned hr ht hs hk hn),
   fun s _ _ _ _ hr => s.next_with_blk_congr (eulTraining_of_asleep hr),
   fun s _ _ _ _ hr ht hc => s.next_with_blk_congr (eulTraining_of_idle hr ht hc),
   fun s _ _ _ _ hr ht => s.next_with_blk_congr (eulTraining_of_alien hr ht),
   fun s _ _ hs => s.next_with_blk_congr (eulTrainTimeout_of_training hs),
   fun s _ _ hs => s.next_with_blk_congr (eulTrainTimeout_of_other hs),
   fun s _ _ _ _ _ ha hb hc => s.next_with_blk_congr (eulViolation_of_few ha hb hc),
   fun s _ _ _ _ _ ha hb hu hc => s.next_with_blk_congr (eulViolation_of_four ha hb hu hc),
   fun s _ hu => s.next_with_blk_congr (if_pos hu),
   fun s _ hu => s.next_with_blk_congr (if_neg (ne_true_of_eq_false hu)),
   fun s _ hu => s.next_with_blk_congr (if_pos hu),
   fun s _ hu => s.next_with_blk_congr (if_neg (ne_true_of_eq_false hu)),
   fun _ _ _ hu hm hp => access_of_linkMaster hm hp (by rw [Block.linkReset, if_pos hu]),
   fun _ _ _ hu hm hp => access_of_linkMaster hm hp (by rw [Block.linkReset, if_neg (ne_true_of_eq_false hu)]),
   fun _ _ _ hm hp => access_of_linkMaster hm hp rfl,
   fun _ _ _ hm hp => ⟨access_of_other hm hp, access_of_other hm hp⟩⟩
end


section
/-!
## Frames from the host (rules R351, R353 to R355, R357, R358)
-/

namespace Sys2Proof.Machine

variable {s b : Block} {l half : HalfId} {e : FrameEnd} {h0 : Word} {pay : List Word} {f : QFrame} {rest : List QFrame}

/-! ## A frame and its sequence number (rule R351) -/

theorem frameReceive_of_down (hu : s.linkUp l = false) : frameReceive l e h0 pay s = s := by simp [frameReceive, hu]

theorem frameReceive_of_damaged (hu : s.linkUp l = true) (hg : e.good (h0 :: pay) = false ∨ bits h0.toNat 7 0 ≠ pay.length) :
    frameReceive l e h0 pay s = ((s.setF l F.QHL_ERR_CRC 1).count l F.QHL_CNT0_CRCERRS).modLink l fun x =>
      { x with nakOk := x.nakOk || (e.clean && !e.crcOk (h0 :: pay)), ctl := [] } := by
  obtain hg | hg := hg <;> simp [frameReceive, hu, hg, QFrame.nw]

section
variable {d : Nat} (hu : s.linkUp l = true) (hg : e.good (h0 :: pay) = true) (hn : bits h0.toNat 7 0 = pay.length)
include hu hg hn

theorem frameReceive_of_control (ht : bits h0.toNat 23 20 = 0) :
    frameReceive l e h0 pay s = s.modLink l fun x => { x with ctl := [] } := by
  simp [frameReceive, hu, hg, hn, ht, QFrame.nw, QFrame.type, Block.sendCtl]

/-- A whole sequenced frame acts by its distance from the number that is due. -/
theorem frameReceive_of_sequenced (ht : bits h0.toNat 23 20 ≠ 0) (hd : d = (bits h0.toNat 15 8 + 256 - (s.link l).rxSeq) % 256) :
    frameReceive l e h0 pay s =
      if d = 0 then s.acceptFrame l ⟨h0, pay⟩
      else if d < 128 then ((s.setF l F.QHL_ERR_SEQ 1).count l F.QHL_CNT2_SEQDROPS).modLink l fun x =>
        { x with nakOk := false, ctl := if x.nakOk then [ctlFrame l 1 x.rxSeq []] else [] }
      else s.modLink l fun x => { x with ctl := [ctlFrame l 0 ((x.rxSeq + 255) % 256) []] } := by
  simp [frameReceive, hu, hg, hn, ht, hd, QFrame.nw, QFrame.type, QFrame.lseq]
  rfl
end

/-! ## The frame at the head -/

theorem mbxFrame_of_head (hq : (s.link l).inq = f :: rest) (ht : f.type = 1) : mbxFrame l s =
    (s.modLink l fun x => { x with
      inq := rest, ctl := []
      hold := x.hold.set (2 * f.half.num + f.chan) (nth [] x.hold (2 * f.half.num + f.chan) ++ f.pay) }).linkFeed f.half
        (f.chan == 1) := by
  simp only [mbxFrame, hq, ht, if_true]

theorem mbxFrame_of_other (hq : (s.link l).inq.head?.map QFrame.type ≠ some 1) : mbxFrame l s = s := by
  unfold mbxFrame
  split
  next f rest hf => exact if_neg fun ht => hq (by simp [hf, ht])
  next => rfl

theorem bulkFrame_of_other (hq : (s.link l).inq.head?.map QFrame.type ≠ some 3) : bulkFrame l s = s := by
  unfold bulkFrame
  split
  next f rest hf => exact if_neg fun ht => hq (by simp [hf, ht])
  next => rfl

/-- No frame of a type at the head. -/
theorem Block.regFrame_of_other {type : Nat} (hq : (s.link l).inq.head?.map QFrame.type ≠ some type) : s.regFrame l type = none := by
  unfold Block.regFrame
  split
  next f rest hf => exact if_neg fun ht => hq (by simp [hf, ht])
  next => rfl

theorem Block.type_of_regFrame {type : Nat} (hf : s.regFrame l type = some f) : f.type = type := by
  unfold Block.regFrame at hf
  split at hf
  · split at hf
    next ht => cases hf; exact ht
    next => cases hf
  · cases hf

section
variable (hq : (s.link l).inq = f :: rest) (ht : f.type = 3)
  (hb : b = s.modLink l fun x => { x with
    inq := rest, ctl := []
    freed := x.freed.set (4 * f.half.num + 2) (nth 0 x.freed (4 * f.half.num + 2) + f.nw) })
include hq ht hb

theorem bulkFrame_of_no_stream (hs : s.inStream f.half (bits (nth 0 f.pay 0).toNat 23 20) = none) : bulkFrame l s = b := by
  simp only [bulkFrame, hq, ht, hs, hb, if_true]

theorem bulkFrame_of_stream {x : Stream} {id : Nat} (hi : id = bits (nth 0 f.pay 0).toNat 23 20) (hs : s.inStream f.half id = some x) :
    bulkFrame l s = (b.modHalf f.half fun y => { y with hip := { y.hip with streams := y.hip.streams.map fun z =>
      if z.incoming && z.id == id then { x with pieces := x.pieces ++ [(bits (nth 0 f.pay 0).toNat 19 0, f.pay.drop 1)] } else z } }).setF
        f.half F.QHL_BULK_FILL (fillOf (x.pieces ++ [(bits (nth 0 f.pay 0).toNat 19 0, f.pay.drop 1)])) id := by
  subst hi hb
  simp only [bulkFrame, hq, ht, hs, if_true]
end

section
variable {s t : State}

/-- No bulk frame at the head. -/
theorem State.bulk_of_other (hq : (s.blk.link l).inq.head?.map QFrame.type ≠ some 3) : s.bulk l = s := by
  simp only [State.bulk, Block.regFrame_of_other hq, bulkFrame_of_other hq]

theorem State.bulk_of_head (hf : s.blk.regFrame l 3 = some f) (ht : t = s.crossing l f.half) :
    s.bulk l = { t with blk := bulkFrame l t.blk } := by
  simp only [State.bulk, hf, ht]

/-! ## Register frames (rule R357) -/

theorem State.regRd_of_none (hf : s.blk.regFrame l 4 = none) : s.regRd l = s := by simp only [State.regRd, hf]

theorem State.regRd_of_head (hf : s.blk.regFrame l 4 = some f) {r : List Word × Bool × State}
    (hr : r = State.readRun ⟨f.half, .link⟩ (bits (nth 0 f.pay 1).toNat 5 0 + 1) (nth 0 f.pay 0).toNat (s.crossing l f.half)) :
    s.regRd l = { r.2.2 with
      blk := r.2.2.blk.regReply l f 5 (regStatus cOK (bits (nth 0 f.pay 1).toNat 23 16) r.2.1 r.1.length :: r.1) } := by
  simp only [State.regRd, hf, hr]

theorem State.regWr_of_none (hf : s.blk.regFrame l 6 = none) : s.regWr l = s := by simp only [State.regWr, hf]

section
variable (hf : s.blk.regFrame l 6 = some f) (ht : t = s.crossing l f.half)
include hf ht

theorem State.regWr_of_phase (hp : t.blk.phase f.half ≠ phTEST) : s.regWr l =
    { t with blk := t.blk.regReply l f 7 [regStatus cPHASE (bits (nth 0 f.pay 1).toNat 23 16) false 0] } := by
  subst ht
  simp only [State.regWr, hf]
  exact if_pos hp

theorem State.regWr_of_test {r : Nat × Bool × State} (hp : t.blk.phase f.half = phTEST)
    (hr : r = State.writeRun ⟨f.half, .link⟩ (nth 0 f.pay 0).toNat (f.pay.drop 2) t) : s.regWr l =
      { r.2.2 with blk := r.2.2.blk.regReply l f 7 [regStatus cOK (bits (nth 0 f.pay 1).toNat 23 16) r.2.1 r.1] } := by
  subst ht hr
  simp only [State.regWr, hf]
  exact if_neg (not_not.2 hp)
end
end

/-! ## Acknowledgement and resending (rule R351) -/

section
variable {lseq : Nat}

theorem ackFrame_of_unknown (ha : (s.link l).unack.any (fun p => p.1.lseq == lseq) = false) :
    ackFrame l lseq s = s.modLink l fun x => { x with ctl := [] } := if_neg (ne_true_of_eq_false ha)

theorem ackFrame_of_held (ha : (s.link l).unack.any (fun p => p.1.lseq == lseq) = true) : ackFrame l lseq s =
    (s.modLink l fun x => { x with ctl := [], unack := (x.unack.dropWhile fun p => p.1.lseq != lseq).drop 1 }).linkShow := if_pos ha
end

section
variable {first : QFrame × Nat → Bool} (skip : QFrame × Nat → Bool) (hs : skip = fun p => !first p)
include hs

/-- No frame that would be sent again has been sent eight times. -/
theorem Block.resend_of_few (hc : ((s.link l).unack.dropWhile skip).all (fun p => p.2 < 8) = true) : s.resend l first =
    ((((s.link l).unack.dropWhile skip).foldl (fun t _ => t.count l F.QHL_CNT0_RETX) s).modLink l fun x =>
      { x with ctl := [], unack := (s.link l).unack.takeWhile skip ++ ((s.link l).unack.dropWhile skip).map fun p => (p.1, p.2 + 1) }) := by
  have few : ((s.link l).unack.dropWhile skip).any (fun p => decide (8 ≤ p.2)) = false := by
    simpa only [List.all_eq_true, List.any_eq_false, decide_eq_true_eq, Nat.not_le] using hc
  subst hs
  exact if_neg (ne_true_of_eq_false few)

theorem Block.resend_of_eight (hc : ((s.link l).unack.dropWhile skip).any (fun p => 8 ≤ p.2) = true) :
    s.resend l first = (s.setF l F.QHL_ERR_RETXLIM 1).linkFalls l lkTRAIN := by
  subst hs
  exact if_pos hc
end

/-! ## Control frames (rules R353 to R355) -/

theorem creditFrame_of_none {cls limit : Nat} (hc : s.linkUp l = false ∨ cls < 4) : creditFrame l half cls limit s = s :=
  if_pos (by obtain hc | hc := hc <;> simp [hc])

theorem creditFrame_of_class {cls limit : Nat} (hu : s.linkUp l = true) (hc : 4 ≤ cls) : creditFrame l half cls limit s =
    s.modLink l fun x => { x with ctl := [], hostLim := x.hostLim.set (4 * half.num + (cls - 4)) limit } :=
  if_neg (by simp [hu, hc])

theorem bindFrame_of_down (hu : s.linkUp l = false) : bindFrame l half s = s := by simp [bindFrame, hu]

section
variable (hu : s.linkUp l = true)
include hu

theorem bindFrame_of_unreached (hr : s.reaches l half = false) : bindFrame l half s =
    s.modLink l fun x => { x with ctl := [ctlFrame l 5 0 [wd (half.num * 2 ^ 23 + 2 ^ 20)]] } := by
  simp [bindFrame, hu, hr, Block.sendCtl]

variable (hr : s.reaches l half = true)
include hr

theorem bindFrame_of_bound (hs : s.servedBy half = l) : bindFrame l half s =
    s.modLink l fun x => { x with ctl := [ctlFrame l 5 0 [wd (half.num * 2 ^ 23 + 2 * 2 ^ 20)]] } := by
  simp [bindFrame, hu, hr, hs, Block.sendCtl]

theorem bindFrame_of_free (hs : s.servedBy half ≠ l) : bindFrame l half s =
    ((s.hostReset half).moveServing half l).modLink l fun x => { x with ctl := [ctlFrame l 5 0 [wd (half.num * 2 ^ 23)]] } := by
  simp [bindFrame, hu, hr, hs, Block.sendCtl]
end

end Sys2Proof.Machine

open Sys2Proof Sys2Proof.Machine

/-- Settles O30: a frame by its damage, type and number, the head frame by its type, and a control frame by its link. -/
theorem hostFrameRowsComplete : Obligations.HostFrameRowsComplete :=
  ⟨fun s _ _ _ _ _ hu hg hn ht hd hz => s.next_with_blk_congr ((frameReceive_of_sequenced hu hg hn ht hd).trans (if_pos hz)),
   fun s _ _ _ _ _ hu hg hn ht hd hp hl => s.next_with_blk_congr
     ((frameReceive_of_sequenced hu hg hn ht hd).trans ((if_neg hp.ne').trans (if_pos hl))),
   fun s _ _ _ _ _ hu hg hn ht hd hl => s.next_with_blk_congr
     ((frameReceive_of_sequenced hu hg hn ht hd).trans ((if_neg (by omega)).trans (if_neg (Nat.not_lt.2 hl)))),
   fun s _ _ _ _ hu hg => s.next_with_blk_congr (frameReceive_of_damaged hu hg),
   fun s _ _ _ _ hu hg hn ht => s.next_with_blk_congr (frameReceive_of_control hu hg hn ht),
   fun s _ _ _ _ hu => s.next_with_blk_congr (frameReceive_of_down hu),
   fun s _ _ _ hq ht => s.next_with_blk_congr (mbxFrame_of_head hq ht),
   fun s _ hq => s.next_with_blk_congr (mbxFrame_of_other hq),
   fun _ _ hq => congrArg Host.Outcome.next (State.bulk_of_other hq),
   fun _ _ _ _ t _ hf ht hq hb hs => (congrArg Host.Outcome.next (State.bulk_of_head hf ht)).trans
     (t.next_with_blk_congr (bulkFrame_of_no_stream hq (Block.type_of_regFrame hf) hb hs)),
   fun _ _ _ _ t _ _ _ hf ht hq hi hb hs => (congrArg Host.Outcome.next (State.bulk_of_head hf ht)).trans
     (t.next_with_blk_congr (bulkFrame_of_stream hq (Block.type_of_regFrame hf) hb hi hs)),
   fun _ _ _ _ hf hr => congrArg Host.Outcome.next (State.regRd_of_head hf hr),
   fun _ _ _ _ hf ht hp => congrArg Host.Outcome.next (State.regWr_of_phase hf ht hp),
   fun _ _ _ _ _ hf ht hp hr => congrArg Host.Outcome.next (State.regWr_of_test hf ht hp hr),
   fun _ _ hf => congrArg Host.Outcome.next (State.regRd_of_none hf),
   fun _ _ hf => congrArg Host.Outcome.next (State.regWr_of_none hf),
   fun s _ _ ha => s.next_with_blk_congr (ackFrame_of_unknown ha),
   fun s _ _ ha => s.next_with_blk_congr (ackFrame_of_held ha),
   fun s _ _ hu hc => s.next_with_blk_congr ((if_pos hu).trans (Block.resend_of_few _ rfl hc)),
   fun s _ _ hu hc => s.next_with_blk_congr ((if_pos hu).trans (Block.resend_of_eight _ rfl hc)),
   fun s _ hu hc => s.next_with_blk_congr ((if_pos hu).trans (Block.resend_of_few _ rfl hc)),
   fun s _ hu hc => s.next_with_blk_congr ((if_pos hu).trans (Block.resend_of_eight _ rfl hc)),
   fun s _ _ hu => ⟨s.next_with_blk_congr (if_neg (ne_true_of_eq_false hu)), s.next_with_blk_congr (if_neg (ne_true_of_eq_false hu))⟩,
   fun s _ _ _ _ hc => s.next_with_blk_congr (creditFrame_of_none hc),
   fun s _ _ _ _ _ _ hu => ⟨s.next_with_blk_congr (if_neg (ne_true_of_eq_false hu)), s.next_with_blk_congr (bindFrame_of_down hu),
     s.next_with_blk_congr (if_neg (ne_true_of_eq_false hu))⟩,
   fun s _ _ hu hr hs => s.next_with_blk_congr (bindFrame_of_bound hu hr hs),
   fun s _ _ _ _ hu hc => s.next_with_blk_congr (creditFrame_of_class hu hc),
   fun s _ _ _ hu => s.next_with_blk_congr (if_pos hu),
   fun s _ _ hu hr hs => s.next_with_blk_congr (bindFrame_of_free hu hr hs),
   fun s _ _ hu hr => s.next_with_blk_congr (bindFrame_of_unreached hu hr),
   fun s _ _ _ hu => s.next_with_blk_congr (if_pos hu)⟩
end


section
/-!
## Credit and frames sent to the host (rules R331, R349, R350, R354, R355, R370)
-/

namespace Sys2Proof.Machine

variable {s b : Block} {l half : HalfId} {c n room : Nat} {ws : List Word}

theorem creditSend_of_down (hu : s.linkUp l = false) : creditSend l half c s = s := by simp [creditSend, hu]

theorem creditSend_of_up {limit : Nat} (hu : s.linkUp l = true) (hn : n = nth 0 (s.link l).freed (4 * half.num + c))
    (hl : limit = (n + nth 0 rooms c) % 65536) :
    creditSend l half c s = s.modLink l fun x => { x with limit := x.limit.set (4 * half.num + c) limit, told := x.told.set (4 * half.num + c) n, ctl := [ctlFrame l 2 0 [wd (c * 2 ^ 21 + half.num * 2 ^ 20 + limit)]] } := by
  subst hn hl
  exact if_neg (by simp [hu])

/-! ## Frames that leave -/

theorem outboundFrame_of_blocked (hc : s.linkUp l = false ∨ 32 ≤ (s.link l).unack.length ∨ s.reaches l half = false) :
    outboundFrame l half c n s = s :=
  if_pos (by obtain hc | hc | hc := hc <;> simp [hc])

section
variable (hu : s.linkUp l = true) (ha : (s.link l).unack.length < 32) (hr : s.reaches l half = true)
include hu ha hr

/-- A link in UP, with a frame to spare, on a half it reaches. -/
theorem not_blocked : ¬ (!s.linkUp l || decide (32 ≤ (s.link l).unack.length) || !s.reaches l half) = true := by
  simp [hu, hr, ha]

/-! ### Mailbox words -/

section
variable (hc : c < 3)
include hc

section
variable {r : List Word × Block} (hs : s.servedBy half = l) (hm : room = (s.link l).hostRoom half c)
  (ht : r = takeWords half (if c = 0 then 1 else if c = 1 then 5 else 6) (capNat 64 (if room < n then room else n)) s)
include hs hm ht

theorem outboundFrame_of_mailbox : outboundFrame l half c n s = if r.1.isEmpty then r.2
    else r.2.sendFrame l half (if c = 2 then 2 else 1) (if c = 1 then 1 else 0) c r.1 := by
  subst hm ht
  rw [outboundFrame, if_neg (not_blocked hu ha hr), if_pos hc, if_neg (by simp [hs])]
end

section
variable (hs : s.servedBy half ≠ l) (hw : ws = (s.half half).hip.bootReport) (hm : room = (s.link l).hostRoom half c)
include hs hw hm

/-- The link that does not serve the half carries the report of a firmware failure alone. -/
theorem outboundFrame_of_foreign : outboundFrame l half c n s =
    if c = 2 && !ws.isEmpty && decide (ws.length ≤ capNat room n) then
      (s.modHalf half fun y => { y with hip := { y.hip with bootReport := [] } }).sendFrame l half 2 0 2 ws else s := by
  subst hw hm
  rw [outboundFrame, if_neg (not_blocked hu ha hr), if_pos hc, if_pos (by simp [hs])]
end
end

/-! ### Register replies and bulk data -/

section
variable {f : QFrame} {rest : List QFrame} (hq : (s.link l).regOut = f :: rest)
include hq

theorem outboundFrame_of_reply : outboundFrame l half 3 n s =
    if f.pay.length ≤ (s.link l).hostRoom f.half 3 then
      (s.modLink l fun x => { x with regOut := rest }).sendFrame l f.half f.type 0 3 f.pay else s := by
  rw [outboundFrame, if_neg (not_blocked hu ha hr), if_neg (by decide)]
  simp only [hq]
end

variable (hq : (s.link l).regOut = []) (hm : room = (s.link l).hostRoom half 3)
include hq hm

theorem outboundFrame_of_stream {y : Stream} (hs : s.servedBy half = l) (hn : 2 ≤ room)
    (ho : s.outStream half (if room - 1 < n then room - 1 else n) = some (y, ws)) : outboundFrame l half 3 n s =
      (s.modHalf half fun z => { z with hip := { z.hip with streams := z.hip.streams.map fun q =>
        if !q.incoming && q.id == y.id then { q with sent := q.sent + ws.length } else q } }).sendFrame l half 3 0 3
          (wd (y.id * 2 ^ 20 + y.sent) :: ws) := by
  subst hm
  rw [outboundFrame, if_neg (not_blocked hu ha hr), if_neg (by decide)]
  simp only [hq, ho]
  exact if_neg (by simp [hs]; omega)

theorem outboundFrame_of_no_stream
    (hc : s.servedBy half ≠ l ∨ room < 2 ∨ s.outStream half (if room - 1 < n then room - 1 else n) = none) :
    outboundFrame l half 3 n s = s := by
  subst hm
  rw [outboundFrame, if_neg (not_blocked hu ha hr), if_neg (by decide)]
  simp only [hq]
  split
  · rfl
  · next open_ =>
    simp only [Bool.or_eq_true, bne_iff_ne, decide_eq_true_eq, not_or, not_not] at open_
    obtain ⟨served, room⟩ := open_
    rw [(hc.resolve_left fun hn => hn served).resolve_left room]
end

/-- What crosses the bridge for a frame does so first. -/
theorem State.outbound_of_crossing {s t : State} (ht : t = s.crossing l half) :
    s.outbound l half c n = { t with blk := outboundFrame l half c n t.blk } := by subst ht; rfl

end Sys2Proof.Machine

open Sys2Proof Sys2Proof.Machine

/-- Settles O31: what leaves by the class of the frame, the link that serves the half, and the host's credit. -/
theorem outboundRowsComplete : Obligations.OutboundRowsComplete :=
  have sent {s t : State} {l half : HalfId} {c n : Nat} {b : Block} (ht : t = s.crossing l half)
      (hb : outboundFrame l half c n t.blk = b) :
      (.next (s.outbound l half c n) : Host.Outcome State Fault Refusal) = .next { t with blk := b } :=
    (congrArg Host.Outcome.next (State.outbound_of_crossing ht)).trans (t.next_with_blk_congr hb)
  ⟨fun s _ _ _ _ _ hu hn hl => s.next_with_blk_congr (creditSend_of_up hu hn hl),
   fun s _ _ _ hu => s.next_with_blk_congr (creditSend_of_down hu),
   fun _ _ _ _ _ _ ht hc => sent ht (outboundFrame_of_blocked hc),
   fun _ _ _ _ _ _ _ _ ht hu ha hr hc hs hm hw he => sent ht
     ((outboundFrame_of_mailbox hu ha hr hc hs hm hw).trans (if_neg (by simpa using he))),
   fun _ _ _ _ _ _ _ _ ht hu ha hr hc hs hm hw he => sent ht
     ((outboundFrame_of_mailbox hu ha hr hc hs hm hw).trans (if_pos (by simpa using he))),
   fun _ _ _ _ _ _ _ ht hu ha hr hs hw hm he hl => sent ht
     ((outboundFrame_of_foreign hu ha hr (by decide) hs hw hm).trans (if_pos (by simp [he, hl]))),
   fun _ _ _ _ _ _ _ _ ht hu ha hr hs hw hm hc he => sent ht
     ((outboundFrame_of_foreign hu ha hr hc hs hw hm).trans
       (if_neg (by obtain he | he | he := he <;> simp [he]))),
   fun _ _ _ _ _ _ _ ht hu ha hr hq hl => sent ht ((outboundFrame_of_reply hu ha hr hq).trans (if_pos hl)),
   fun _ _ _ _ _ _ _ ht hu ha hr hq hl => sent ht ((outboundFrame_of_reply hu ha hr hq).trans (if_neg (Nat.not_le.2 hl))),
   fun _ _ _ _ _ _ _ _ ht hu ha hr hs hq hm hn ho => sent ht (outboundFrame_of_stream hu ha hr hq hm hs hn ho),
   fun _ _ _ _ _ _ ht hu ha hr hq hm hc => sent ht (outboundFrame_of_no_stream hu ha hr hq hm hc)⟩
end


section
/-!
## Release from reset, PLLs, firmware and the start (rules R331, R413, R445 to R447, R450 to R452)
-/

namespace Sys2Proof.Machine

variable {s b : Block} {h : HalfId} {helmpre sa : Bool}

/-! ## Release from reset (rule R451) -/

theorem resetRelease_of_other (hc : (s.half h).live = true ∨ s.rung h ≠ 0) : resetRelease h helmpre sa s = s :=
  if_pos (by obtain hc | hc := hc <;> simp [hc])

section
variable (hl : (s.half h).live = false) (hr : s.rung h = 0)
  (hb : b = (((s.modHalf h fun x => { x with live := true, hip := { x.hip with standalone := sa && h == .a } }).setF h F.HLM_STAT_PREF
    (bitOf (helmpre == (h == .b)))).setF h F.CRP_STAT_REFOK 1).modHl h fun y => { y with straps := (helmpre, sa) })
include hl hr hb

theorem resetRelease_of_dead :
    resetRelease h helmpre sa s = if b.holdsHelm h.peer && (b.half h.peer).live then b else b.showStraps h := by
  subst hb
  exact if_neg (by simp [hl, hr])

/-- The straps that the half sampled show where the peer does not hold the helm. -/
theorem resetRelease_of_no_helm (hp : (b.holdsHelm h.peer && (b.half h.peer).live) = false) :
    resetRelease h helmpre sa s = (b.setF .a F.PWR_STRAP_HELMPRE (bitOf helmpre)).setF .a F.PWR_STRAP_SASTART (bitOf sa) := by
  have straps : (b.half h).hl.straps = (helmpre, sa) := by rw [hb, Block.modHl, Block.modHalf_half]
  rw [resetRelease_of_dead hl hr hb, if_neg (ne_true_of_eq_false hp), Block.showStraps, straps]
end

/-! ## PLLs (rules R441, R446) -/

section
variable {pll : Nat}

theorem pllLock_of_none (hc : (s.half h).live = false ∨ (2 ≤ s.rung h ∧ (s.half h).pwr.waking = none)) : pllLock h pll s = s :=
  if_pos (by
    obtain hc | ⟨hr, hw⟩ := hc
    · simp [hc]
    · simp [hr, hw])

section
variable (hl : (s.half h).live = true) (hc : s.rung h < 2 ∨ (s.half h).pwr.waking ≠ none)
include hl hc

/-- A half that is not dead, and awake or waking. -/
theorem pllLock_of_live : pllLock h pll s =
    if pll = 3 && (s.setF h (lockFld pll) 1).f h F.QHL_STAT_STATE == lkDOWN then
      (s.setF h (lockFld pll) 1).setF h F.QHL_STAT_STATE lkTRAIN else s.setF h (lockFld pll) 1 :=
  if_neg (by obtain hc | hc := hc <;> simp [hl, hc])

theorem pllLock_of_clock (hp : pll ≠ 3) : pllLock h pll s = s.setF h (lockFld pll) 1 := by
  rw [pllLock_of_live hl hc, if_neg (by simp [hp])]

/-- HLCLK locks, and the host link trains where it was down. -/
theorem pllLock_hlclk : pllLock h 3 s = if s.f h F.QHL_STAT_STATE = lkDOWN then
    (s.setF h F.CRP_STAT_HLLOCK 1).setF h F.QHL_STAT_STATE lkTRAIN else s.setF h F.CRP_STAT_HLLOCK 1 := by
  have state : (s.setF h (lockFld 3) 1).f h F.QHL_STAT_STATE = s.f h F.QHL_STAT_STATE :=
    Block.setF_f_of_reg_ne (by cases h <;> rfl) (by cases h <;> rfl) (by decide)
  rw [pllLock_of_live hl hc, state]
  simp only [decide_true, Bool.true_and, beq_iff_eq]
  rfl
end

theorem pllLoss_of_unlocked (hl : s.on h (lockFld pll) = false) : pllLoss h pll s = s := by simp [pllLoss, hl]

theorem pllLoss_of_core (hl : s.on h (lockFld pll) = true) (hp : pll < 2) :
    pllLoss h pll s = s.fatal h 3 cOK 26 127 (3 * 256 + 2 + pll) false := by
  simp [pllLoss, hl, hp]

theorem pllLoss_of_adclk (hl : s.on h F.CRP_STAT_ADCLOCK = true) : pllLoss h 2 s =
    ((s.setF h F.CRP_STAT_ADCLOCK 0).report h cOK 1 26 127 0x304).modHalf h fun x => { x with sched := { x.sched with lossDue := true } } :=
  (if_neg (by simp [lockFld, hl])).trans (if_neg (by decide))

theorem pllLoss_of_hlclk (hl : s.on h F.CRP_STAT_HLLOCK = true) :
    pllLoss h 3 s = ((s.setF h F.CRP_STAT_HLLOCK 0).report h cOK 1 26 127 0x305).linkFalls h lkTRAIN :=
  (if_neg (by simp [lockFld, hl])).trans (if_neg (by decide))
end

/-! ## Firmware (rule R331) -/

section
variable {s : State}

theorem firmwareVerify_of_other
    (hc : (s.blk.half h).live = false ∨ s.blk.phase h ≠ phBOOT ∨ (s.blk.half h).hip.running = true ∨ s.blk.allLocked h = false) :
    firmwareVerify h s = s :=
  if_pos (by obtain hc | hc | hc | hc := hc <;> simp [hc])

section
variable (hl : (s.blk.half h).live = true) (hp : s.blk.phase h = phBOOT) (hr : (s.blk.half h).hip.running = false)
  (ha : s.blk.allLocked h = true) {cause : Nat} (hk : cause = s.blk.f h F.CRP_STAT_RCAUSE)
include hl hp hr ha hk

theorem firmwareVerify_of_image {i res : Nat} (hb : bootSlot (s.fuse h) (s.firm h) = some (i, res)) {b : Block}
    (he : b = s.blk.modHalf h fun y => { y with hip := { y.hip with running := true } }.addNotice 0xC0
      [wd (res * 2 ^ 16 + i * 2 ^ 15), Config.fwVersion ((s.firm h).slot i), wd cause]) :
    firmwareVerify h s =
      (({ s with blk := ((if causeLogged cause then b else b.report h cOK 0 26 127 cause).hipPost h 6) } : State).setFirm h
        { s.firm h with started := i }).runWaiting h := by
  subst hk he
  simp [firmwareVerify, hl, hp, hr, ha, hb]

theorem firmwareVerify_of_no_image (hb : bootSlot (s.fuse h) (s.firm h) = none) {b : Block}
    (he : b = s.blk.modHalf h fun y => { y.addNotice 0xC0 [wd (2 * 2 ^ 16 + (s.firm h).active * 2 ^ 15), 0, wd cause] with
      hip := { (y.addNotice 0xC0 [wd (2 * 2 ^ 16 + (s.firm h).active * 2 ^ 15), 0, wd cause]).hip with
        bootReport := (((y.addNotice 0xC0 [wd (2 * 2 ^ 16 + (s.firm h).active * 2 ^ 15), 0, wd cause]).hip.out6.getLast?).map
          Notice.post).getD [] } }) :
    firmwareVerify h s = { s with blk := b.hipPost h 6 } := by
  subst hk he
  simp [firmwareVerify, hl, hp, hr, ha, hb]
end

/-! ## The end of BOOT (rules R450, R452) -/

section
variable {x : SelfTest}

theorem execBootSelfTestComplete_of_other (hc : s.blk.booting h = false ∨ s.blk.on h F.TSC_XSTAT_VALID = false) :
    execBootSelfTestComplete h x s = .next s :=
  if_neg (by obtain hc | hc := hc <;> simp [hc])

theorem execBootPeerWaitTimeout_of_other
    (hc : s.blk.booting h = false ∨ s.blk.on h F.HLM_STAT_PEERFW = true ∨ s.blk.on h F.TSC_XSTAT_VALID = true) :
    execBootPeerWaitTimeout h x s = .next s :=
  if_neg (by obtain hc | hc | hc := hc <;> simp [hc])
end

/-! ## Standalone start (rules R413, R414) -/

theorem execStandaloneStart_of_other {flash : List (BitVec 8)} (hc : s.blk.saRuns .a = false ∨ s.blk.hipActs .a = false) :
    execStandaloneStart flash s = .next s :=
  if_pos (by obtain hc | hc := hc <;> simp [hc])

section
variable {flash : List (BitVec 8)} (hs : s.blk.saRuns .a = true) (ha : s.blk.hipActs .a = true)
include hs ha

theorem execStandaloneStart_of_run {r : State × Option (Nat × Nat × Nat)} {b : Block} (hr : r = s.saRun (flashWords flash))
    (hb : b = r.1.blk.modHip .a fun x => { x with standalone := false }) :
    execStandaloneStart flash s = .next { r.1 with blk := (match r.2 with
      | some (e, order, code) => b.reportAs true .a code 1 23 127 (order % 256 * 256 + e)
      | none => b) } := by
  subst hr hb
  exact if_neg (by simp [hs, ha])

/-- A bad directory ends the start where it began. -/
theorem execStandaloneStart_of_bad (hd : saDirOk (flashWords flash) = false) :
    execStandaloneStart flash s = .next { s with blk :=
      (s.blk.modHip .a fun x => { x with standalone := false }).reportAs true .a cCONFIG_INVALID 1 23 127 255 } := by
  have run : s.saRun (flashWords flash) = (s, some (255, 0, cCONFIG_INVALID)) := if_pos (by simp [hd])
  exact execStandaloneStart_of_run hs ha run.symm rfl
end
end

/-! ## AONCLK (rule R447) -/

section
variable {err : BitVec 16}

theorem aonMeasure_of_none (ha : ((s.half .a).live && s.holdsHelm .a && s.rung .a == 0) = false)
    (hb : ((s.half .b).live && s.holdsHelm .b && s.rung .b == 0) = false) : aonMeasure err s = s := by
  simp only [aonMeasure, List.find?_cons, ha, hb, List.find?_nil]

/-- The half that holds the helm in Run takes the measurement. -/
theorem aonMeasure_of_helm (hl : (s.half h).live = true) (hh : s.holdsHelm h = true) (hr : s.rung h = 0)
    (hp : s.holdsHelm h.peer = false) : aonMeasure err s = if 500 < err.toInt.natAbs then
      (s.setW .a .AON_FREQ (wd err.toNat)).fatal h 4 cOK 26 127 0x306 false else s.setW .a .AON_FREQ (wd err.toNat) := by
  have first : [HalfId.a, HalfId.b].find? (fun k => (s.half k).live && s.holdsHelm k && s.rung k == 0) = some h := by
    cases h <;> simp_all [HalfId.peer]
  simp only [aonMeasure, first]
end

end Sys2Proof.Machine

open Sys2Proof Sys2Proof.Machine

/-- Settles O37: each row by the half's life, rung and phase, the lock bit, the images, and the helm. -/
theorem startRowsComplete : Obligations.StartRowsComplete :=
  ⟨fun s _ _ _ _ hl hr hb hp => s.next_with_blk_congr (resetRelease_of_no_helm hl hr hb hp),
   fun s _ _ _ _ hl hr hb hp => s.next_with_blk_congr ((resetRelease_of_dead hl hr hb).trans (if_pos hp)),
   fun s _ _ _ hc => s.next_with_blk_congr (resetRelease_of_other hc),
   fun s _ hl hc => ⟨s.next_with_blk_congr (pllLock_of_clock hl hc (by decide)), s.next_with_blk_congr (pllLock_of_clock hl hc (by decide)),
     s.next_with_blk_congr (pllLock_of_clock hl hc (by decide))⟩,
   fun s _ hl hc hs => s.next_with_blk_congr ((pllLock_hlclk hl hc).trans (if_pos hs)),
   fun s _ hl hc hs => s.next_with_blk_congr ((pllLock_hlclk hl hc).trans (if_neg hs)),
   fun s _ _ hc => s.next_with_blk_congr (pllLock_of_none hc),
   fun s _ _ hl => s.next_with_blk_congr (pllLoss_of_unlocked hl),
   fun s _ _ hl hp => s.next_with_blk_congr (pllLoss_of_core hl hp),
   fun s _ hl => s.next_with_blk_congr (pllLoss_of_adclk hl),
   fun s _ hl => s.next_with_blk_congr (pllLoss_of_hlclk hl),
   fun s _ _ r _ hl hp hr ha hk hb he => by
     cases r with
     | none => exact congrArg Host.Outcome.next (firmwareVerify_of_no_image hl hp hr ha hk hb.symm he)
     | some _ => exact congrArg Host.Outcome.next (firmwareVerify_of_image hl hp hr ha hk hb.symm he),
   fun _ _ hc => congrArg Host.Outcome.next (firmwareVerify_of_other hc),
   fun _ _ _ hc => execBootSelfTestComplete_of_other hc,
   fun _ _ _ hc => execBootPeerWaitTimeout_of_other hc,
   fun _ _ _ hb hf hv => if_pos (by simp [hb, hf, hv]),
   fun _ _ _ hb hv => if_pos (by simp [hb, hv]),
   fun _ _ hs ha hd => execStandaloneStart_of_bad hs ha hd,
   fun _ _ _ _ hs ha hr hb => execStandaloneStart_of_run hs ha hr hb,
   fun _ _ hc => execStandaloneStart_of_other hc,
   fun s _ ha hb => s.next_with_blk_congr (aonMeasure_of_none ha hb),
   fun s _ _ hl hh hr hp he => s.next_with_blk_congr ((aonMeasure_of_helm hl hh hr hp).trans (if_neg (Nat.not_lt.2 he))),
   fun s _ _ hl hh hr hp he => s.next_with_blk_congr ((aonMeasure_of_helm hl hh hr hp).trans (if_pos he))⟩
end


section
/-!
## The ladder (rules R437 to R444)
-/

namespace Sys2Proof.Machine

variable {h : HalfId}

/-! ## Descent -/

section
variable {s : State}

/-- The block one rung further down, `r`, before the late wake and the drive die follow. -/
def Block.descend (b : Block) (h : HalfId) (r target : Nat) : Block :=
  (((b.setF .a (rungFld h) r).enterRung h r).setF h F.CRP_LADDER_DEEPEST r).modPwr h fun x => { x with going := decide (r < target) }

theorem ladderDescent_of_stopped (hm : s.blk.mayDescend h = false) (hg : (s.blk.half h).pwr.going = false) : ladderDescent h s = s := by
  simp [ladderDescent, hm, hg]

theorem ladderDescent_of_broken (hm : s.blk.mayDescend h = false) (hg : (s.blk.half h).pwr.going = true) :
    ladderDescent h s = { s with blk := s.blk.modPwr h fun x => { x with waking := x.waking.or (some 31), going := false } } := by
  simp [ladderDescent, hm, hg]

theorem ladderDescent_of_there (hm : s.blk.mayDescend h = true) (ht : s.blk.f .a (targetFld h) ≤ s.blk.rung h) :
    ladderDescent h s = { s with blk := s.blk.modPwr h fun x => { x with going := false } } := by
  simp [ladderDescent, hm, ht]

section
variable (hm : s.blk.mayDescend h = true) (ht : s.blk.rung h < s.blk.f .a (targetFld h))
include hm ht

/-- A step down: the log entry of the first one, the tally before Kiln, and the late wake of the last one. -/
theorem ladderDescent_of_step : ladderDescent h s =
    let r := s.blk.rung h + 1
    let b := if r = 1 then s.blk.report h cOK 0 26 127 (256 + s.blk.f .a (targetFld h))
      else if r = 4 then s.blk.tallyCommit h 0 else s.blk
    let d := b.descend h r (s.blk.f .a (targetFld h))
    { s with blk := (match s.blk.lateWake h with
                      | some (bit, deepest) => d.wakeHalf h bit deepest
                      | none => d).drvFollow
             ram := if r = 5 then dropSram h s.ram else s.ram } := by
  rw [ladderDescent, if_neg (by simp [hm]), if_neg (Nat.not_le.2 ht)]
  rfl

/-- A step that keeps RAM, from the block `b` that its log entry or the tally's commit leaves. -/
theorem ladderDescent_of_rung {b d : Block} {r : Nat} (hr : s.blk.rung h = r) (h4 : r ≠ 4)
    (hb : (if r + 1 = 1 then s.blk.report h cOK 0 26 127 (256 + s.blk.f .a (targetFld h))
      else if r + 1 = 4 then s.blk.tallyCommit h 0 else s.blk) = b)
    (hd : b.descend h (r + 1) (s.blk.f .a (targetFld h)) = d) :
    ladderDescent h s = { s with blk := (match s.blk.lateWake h with
      | some (bit, deepest) => d.wakeHalf h bit deepest
      | none => d).drvFollow } := by
  rw [ladderDescent_of_step hm ht, hr]
  simp only [hb, hd, if_neg (show r + 1 ≠ 5 by omega)]

theorem ladderDescent_of_awake {b d : Block} {r : Nat} (hl : s.blk.lateWake h = none) (hr : s.blk.rung h = r) (h4 : r ≠ 4)
    (hb : (if r + 1 = 1 then s.blk.report h cOK 0 26 127 (256 + s.blk.f .a (targetFld h))
      else if r + 1 = 4 then s.blk.tallyCommit h 0 else s.blk) = b)
    (hd : b.descend h (r + 1) (s.blk.f .a (targetFld h)) = d) : ladderDescent h s = { s with blk := d.drvFollow } := by
  rw [ladderDescent_of_rung hm ht hr h4 hb hd, hl]

theorem ladderDescent_to_store (hl : s.blk.lateWake h = none) (hr : s.blk.rung h = 4) : ladderDescent h s =
    { s with ram := dropSram h s.ram, blk := (s.blk.descend h 5 (s.blk.f .a (targetFld h))).drvFollow } := by
  rw [ladderDescent_of_step hm ht, hr, hl]
  rfl
end
end

/-! ## Wake sources (rules R442, R443) -/

section
variable {s : Block} {level : Bool}

theorem keyChange_of_rest (hl : level = s.on .a F.WAKE_CFG_KEYPOL) : keyChange level s = { s with keyIn := level } :=
  if_neg fun hc => bne_iff_ne.1 (Bool.and_eq_true_iff.1 hc).1 hl

theorem keyChange_of_masked (hk : s.on .a F.WAKE_CFG_KEYEN = false) : keyChange level s = { s with keyIn := level } :=
  if_neg fun hc => ne_true_of_eq_false hk (Bool.and_eq_true_iff.1 hc).2

theorem keyChange_of_active (hl : level ≠ s.on .a F.WAKE_CFG_KEYPOL) (hk : s.on .a F.WAKE_CFG_KEYEN = true) :
    keyChange level s = ({ s with keyIn := level }.wakeHalf .a 0 5).wakeHalf .b 0 5 :=
  if_pos (Bool.and_eq_true_iff.2 ⟨bne_iff_ne.2 hl, hk⟩)

variable {n : Nat} {edges : BitVec 8}

theorem wakeEdges_of_few
    (hc : bits (s.f .a F.WAKE_CFG_CRKCAM) (5 - n) (5 - n) = 0 ∨ edges.toNat < s.f .a F.WAKE_TH_CNT ∨ edges = 0) :
    wakeEdges n edges.toNat s = s :=
  if_neg (by obtain hc | hc | hc := hc <;> simp [hc])

theorem wakeEdges_of_enough (hb : bits (s.f .a F.WAKE_CFG_CRKCAM) (5 - n) (5 - n) = 1) (ht : s.f .a F.WAKE_TH_CNT ≤ edges.toNat)
    (he : edges ≠ 0) : wakeEdges n edges.toNat s = (s.wakeHalf .a (1 + n) 5).wakeHalf .b (1 + n) 5 := by
  have some_edge : edges.toNat ≠ 0 := fun hz => he (BitVec.eq_of_toNat_eq (by simpa using hz))
  exact if_pos (by simp [hb, ht, some_edge])
end

/-! ## The end of a wake (rule R444) -/

section
variable {s : Block} {bit r : Nat} (hw : (s.half h).pwr.waking = some bit) (hr : s.rung h = r)
include hw hr

theorem ladderWake_of_waking (h0 : r ≠ 0) (hl : r < 2 ∨ 4 < r ∨ s.allLocked h = true) {b : Block}
    (hb : (if r = 5 then ((s.setF .a (rungFld h) 0).modPwr h fun _ => Pwr.run).drvFollow
      else (((s.setF .a (rungFld h) 0).modPwr h fun _ => Pwr.run).drvFollow).resumes h r) = b) :
    ladderWake h s = (b.setF h F.CRP_LADDER_WSRC bit).report h cOK 0 26 127 (512 + bit) := by
  have awake : ¬ (r = 0 || (decide (2 ≤ r) && decide (r ≤ 4) && !s.allLocked h)) = true := by
    obtain hl | hl | hl := hl
    · simp [h0, Nat.not_le.2 hl]
    · simp [h0, Nat.not_le.2 hl]
    · simp [h0, hl]
  subst hb
  simp only [ladderWake, hw, hr]
  exact if_neg awake

theorem ladderWake_of_unlocked (h2 : 2 ≤ r) (h4 : r ≤ 4) (hl : s.allLocked h = false) : ladderWake h s = s := by
  simp [ladderWake, hw, hr, h2, h4, hl]
end

/-- Nothing resumes from Rest. -/
theorem Block.resumes_rest (s : Block) : s.resumes h 1 = s := rfl

section
variable {s : State}

theorem execLadderWakeComplete_of_waking {bit : Nat} (hw : (s.blk.half h).pwr.waking = some bit) (hr : s.blk.rung h ≠ 0) {b : Block}
    (hb : ladderWake h s.blk = b) : execLadderWakeComplete h s = .next (State.runWaiting { s with blk := b } h) := by
  subst hb
  exact if_neg (by simp [hw, hr])

/-- HIP runs nothing while the half is not at Run. -/
theorem State.runWaiting_of_rung (hr : s.blk.rung h ≠ 0) : s.runWaiting h = s := by
  have idle : s.blk.hipActs h = false := by simp [Block.hipActs, hr]
  rw [State.runWaiting, idle]
  rfl

theorem execLadderWakeComplete_of_none (hc : (s.blk.half h).pwr.waking = none ∨ s.blk.rung h = 0 ∨
    (2 ≤ s.blk.rung h ∧ s.blk.rung h ≤ 4 ∧ s.blk.allLocked h = false)) : execLadderWakeComplete h s = .next s := by
  obtain hw | hr | ⟨h2, h4, hl⟩ := hc
  · exact if_pos (by simp [hw])
  · exact if_pos (by simp [hr])
  · cases hw : (s.blk.half h).pwr.waking with
    | none => exact if_pos (by simp [hw])
    | some bit =>
      have out : s.blk.rung h ≠ 0 := by omega
      rw [execLadderWakeComplete_of_waking hw out (ladderWake_of_unlocked hw rfl h2 h4 hl)]
      exact congrArg Host.Outcome.next (State.runWaiting_of_rung out)
end

/-! ## DRV (rule R442) -/

section
variable {s b : Block}

theorem drvPowerUp_of_none (hc : s.f .a F.PWR_STAT_DRV ≠ 2 ∨ s.drvWanted = 2) : drvPowerUp s = s :=
  if_pos (by obtain hc | hc := hc <;> simp [hc])

theorem drvPowerUp_of_off (hs : s.f .a F.PWR_STAT_DRV = 2) (hw : s.drvWanted ≠ 2)
    (hb : b = { s with regs := s.regs.filter (fun x => !(decide (0x800000 ≤ x.1) && decide (x.1 < 0x900000))),
                       fe := List.replicate 6 ⟨false, 0, 0⟩, bhs := List.replicate 12 ⟨none, none, false⟩,
                       chop := List.replicate 24 Chop.idle, segDue := [true, true] }) :
    drvPowerUp s = b.setF .a F.PWR_STAT_DRV b.drvWanted := by
  subst hb
  exact if_neg (by simp [hs, hw])
end

end Sys2Proof.Machine

open Sys2Proof Sys2Proof.Machine

/-- Settles O38: a descent by the rung it leaves, a wake by the rung it ends, and the sources by their levels. -/
theorem ladderRowsComplete : Obligations.LadderRowsComplete :=
  ⟨fun _ _ _ hm ht hl hr hb => congrArg Host.Outcome.next (ladderDescent_of_awake hm ht hl hr (by decide) hb.symm rfl),
   fun _ _ hm ht hl hr => congrArg Host.Outcome.next (ladderDescent_of_awake hm ht hl hr (by decide) rfl rfl),
   fun _ _ hm ht hl hr => congrArg Host.Outcome.next (ladderDescent_of_awake hm ht hl hr (by decide) rfl rfl),
   fun _ _ hm ht hl hr => congrArg Host.Outcome.next (ladderDescent_of_awake hm ht hl hr (by decide) rfl rfl),
   fun _ _ hm ht hl hr => congrArg Host.Outcome.next (ladderDescent_to_store hm ht hl hr),
   fun _ _ _ _ _ hm ht hl hr hb => congrArg Host.Outcome.next ((ladderDescent_of_rung hm ht hr (by decide) rfl hb.symm).trans (by rw [hl])),
   fun _ _ hm ht => congrArg Host.Outcome.next (ladderDescent_of_there hm ht),
   fun _ _ hm hg => congrArg Host.Outcome.next (ladderDescent_of_broken hm hg),
   fun _ _ hm hg => congrArg Host.Outcome.next (ladderDescent_of_stopped hm hg),
   fun s _ hl => s.next_with_blk_congr (keyChange_of_rest hl),
   fun s _ hl hk => s.next_with_blk_congr (keyChange_of_active hl hk),
   fun s _ hk => s.next_with_blk_congr (keyChange_of_masked hk),
   fun s _ _ hc => s.next_with_blk_congr (wakeEdges_of_few hc),
   fun s _ _ hb ht he => s.next_with_blk_congr (wakeEdges_of_enough hb ht he),
   fun _ _ _ hw hr => execLadderWakeComplete_of_waking hw (by omega)
     (ladderWake_of_waking hw hr (by decide) (.inl (by decide)) ((if_neg (by decide)).trans (Block.resumes_rest _))),
   fun _ _ _ hw hr => execLadderWakeComplete_of_waking hw (by omega)
     (ladderWake_of_waking hw hr (by decide) (.inr (.inl (by decide))) (if_pos rfl)),
   fun _ _ _ _ _ hw hr h2 h4 hl hb => execLadderWakeComplete_of_waking hw (by omega)
     (ladderWake_of_waking hw hr.symm (by omega) (.inr (.inr hl)) ((if_neg (by omega)).trans hb.symm)),
   fun _ _ hc => execLadderWakeComplete_of_none hc,
   fun s hc => s.next_with_blk_congr (drvPowerUp_of_none hc),
   fun s _ hs hw hb => s.next_with_blk_congr (drvPowerUp_of_off hs hw hb)⟩
end


section
/-!
## Claims, disputes, the supervisor watchdog and the log's commands (chapters 1 and 19)
-/

namespace Sys2Proof.Machine

variable {s t : Block} {h : HalfId}

/-! ## Claims and the peer (rules R419, R420, R424, R426) -/

theorem claimTimeout_of_due {n : Nat} (hc : (s.half h).hl.claimAt = some n) (ht : 198000 ≤ ticksGone n (s.half h).tsc) :
    claimTimeout h s = if s.on h F.HLM_STAT_PEERCLAIM || s.on h F.HLM_STAT_CLAIM then s.modHl h fun y => { y with claimAt := none }
      else (s.modHl h fun y => { y with claimAt := none }).claim h 0 := by
  simp only [claimTimeout, hc]
  exact if_neg (Nat.not_lt.2 ht)

/-- What the half's firmware is does not stand in its helm state. -/
theorem Block.modHl_fwRuns {g : HelmLog → HelmLog} : (s.modHl h g).fwRuns h = s.fwRuns h := by
  rw [Block.fwRuns, Block.modHl, Block.modHalf_half, Block.fwRuns]

theorem Block.claim_of_running {cause : Nat} (hf : s.fwRuns h = true) : s.claim h cause = (s.setF h F.HLM_STAT_CLAIM 1).deriveHelm h cause :=
  if_pos hf

theorem peerDown_of_down (hl : (s.half h).live = true) (hs : s.supRuns h.peer = false) (hd : s.on h F.HLM_STAT_PEERDOWN = false) :
    peerDown h true s = ((s.peerInvalid.setF h F.HLM_STAT_PEERDOWN 1).setF h F.HLM_STAT_PEERCLAIM 0).claim h 1 := by
  simp [peerDown, hl, hs, hd]

theorem peerDown_of_back (hl : (s.half h).live = true) (hs : s.supRuns h.peer = true) (hd : s.on h F.HLM_STAT_PEERDOWN = true)
    (ht : t = (s.setF h F.HLM_STAT_PEERDOWN 0).deriveHelm h 2) :
    peerDown h false s = if t.helm h = 3 ∧ s.helm h ≠ 3 then t.enterIsland h else t := by
  subst ht
  simp [peerDown, hl, hs, hd]

/-! ## Disputes (rules R421, R423) -/

section
variable (hh : s.helm h = 2) (hf : s.fwRuns h = true) (he : s.evalPoint h = true)
include hh hf he

/-- The score of a half does not depend on its helm state. -/
theorem disputeEvaluation_of_first (hn : s.f h F.HLM_DISP_EVALS = 0) : disputeEvaluation h s =
    (s.modHl h fun y => { y with evalAt := some (s.half h).tsc, qmin := some (s.score h) }).setF h F.HLM_DISP_EVALS 1 := by
  have score (g : Half → Half) : (s.modHalf h g).score h = s.score h := by
    simp only [Block.score, Block.src, Block.modHalf_f]
  simp only [disputeEvaluation, hh, hf, he, hn, score, ne_eq, not_true, decide_false, Bool.not_true, Bool.or_false, Bool.false_eq_true, if_false,
    if_true, Block.modHl, Block.modHalf_modHalf]

theorem disputeEvaluation_of_second {q : Nat} (hn : s.f h F.HLM_DISP_EVALS = 1) (hq : (s.half h).hl.qmin = some q) :
    disputeEvaluation h s =
      ((((s.modHl h fun y => { y with evalAt := some (s.half h).tsc, qmin := some q, sentQ := true }).setF h F.HLM_DISP_EVALS 2).setF h
        F.HLM_DISP_QMIN q).send h (.qmin q)).decideDispute h := by
  simp only [disputeEvaluation, hh, hf, he, hn, hq, ne_eq, not_true, decide_false, Bool.not_true, Bool.or_false, Bool.false_eq_true, if_false,
    if_true, Nat.one_ne_zero, Block.modHl, Block.modHalf_modHalf, Block.modHalf_half, Option.getD_some]
end

theorem helmMessageReceive_of_dispute {q : Nat} {rest : List BMsg} (hq : takeQmin (s.lane h.peer).rx = some (q, rest)) (hh : s.helm h = 2) :
    helmMessageReceive h s = (((s.setLane h.peer { s.lane h.peer with rx := rest }).modHl h fun y => { y with pqmin := some q }).setF h
      F.HLM_DISP_PQMIN q).decideDispute h := by
  have helm : (s.setLane h.peer { s.lane h.peer with rx := rest }).helm h = 2 := (Block.setLane_f ..).trans hh
  simp only [helmMessageReceive, hq]
  exact if_neg (not_not.2 helm)

/-! ## Resets asked for (rules R428, R429) -/

theorem class4Receive_of_request {rest : List BMsg} (hc : takeClass4 (s.lane h.peer).rx = some rest) :
    class4Receive h s = s.resetHalf h 9 := by
  simp only [class4Receive, hc]

theorem watchdogTimeout_of_running (hs : s.supRuns h = true) (hw : (s.half h).hl.wdogRun = true) :
    watchdogTimeout h s = s.fatalAs h 7 3 cOK 15 3 0 false :=
  if_pos (by rw [hs, hw]; rfl)

/-! ## The log engine (rules R431, R433) -/

theorem logTake_of_report {r : Report} {rest : List Report} (hm : s.memOn h = true) (hq : (s.half h).hl.queue = r :: rest) :
    logTake h s = ((s.modHl h fun y => { y with queue := rest }).logReport h r).logLosses h := by
  rw [logTake, if_pos hm]
  simp only [Block.logStep, hq]
  rfl

end Sys2Proof.Machine

open Sys2Proof Sys2Proof.Machine

/-- Settles O6: each row in the state in which it has its effect. -/
theorem helmRowsComplete : Obligations.HelmRowsComplete :=
  ⟨fun s _ _ hc ht hp hk hf => s.next_with_blk_congr ((claimTimeout_of_due hc ht).trans
     ((if_neg (by simp [hp, hk])).trans (Block.claim_of_running (Block.modHl_fwRuns.trans hf)))),
   fun s _ _ hc ht hp => s.next_with_blk_congr ((claimTimeout_of_due hc ht).trans (if_pos (by simpa using hp))),
   fun s _ hl hs hd => s.next_with_blk_congr (peerDown_of_down hl hs hd),
   fun s _ _ hl hs hd ht => s.next_with_blk_congr (peerDown_of_back hl hs hd ht),
   fun s _ hh hf he hn => s.next_with_blk_congr (disputeEvaluation_of_first hh hf he hn),
   fun s _ _ hh hf he hn hq => s.next_with_blk_congr (disputeEvaluation_of_second hh hf he hn hq),
   fun s _ _ _ hq hh => s.next_with_blk_congr (helmMessageReceive_of_dispute hq hh),
   fun s _ _ hc => s.next_with_blk_congr (class4Receive_of_request hc),
   fun s _ hs hw => s.next_with_blk_congr (watchdogTimeout_of_running hs hw),
   fun _ _ _ hp hr => State.access_powered hp (if_pos hr),
   fun _ _ _ hp hm => State.access_powered hp (if_pos hm),
   fun _ _ _ hp hm => State.access_powered hp (if_pos hm),
   fun s _ _ _ hm hq => s.next_with_blk_congr (logTake_of_report hm hq),
   fun _ _ _ hp => State.access_powered hp rfl⟩
end


section
/-!
## EutenLink ports and frames (rules R377, R380 to R388, R394)
-/

namespace Sys2Proof.Machine

variable {s b c d : Block} {h : HalfId} {p : Nat}

/-! ## Failed lanes (rule R381) -/

section
variable (hf : s.on h F.EUL_PSTAT_LANEFAIL p = false)
  (hc : (16 ≤ (s.eport h p).viol.length ∨ 2 ≤ (s.eport h p).trainF) ∨
    nth false (s.eport h p).laneBad (s.f h F.EUL_PSTAT_LANE p) = true)
  (hb : b = s.modPort h p fun y => { y with laneBad := y.laneBad.set (s.f h F.EUL_PSTAT_LANE p) true, viol := [], trainF := 0 })
include hf hc hb

/-- A lane that has failed by its counts, or is known to have: what follows depends on the other lane and on LANE_AUTO. -/
theorem laneFail_of_failed : laneFail h p s =
    if nth false (s.eport h p).laneBad (1 - s.f h F.EUL_PSTAT_LANE p) then
      let d := (b.retrain h p).setF h F.EUL_PSTAT_LANEFAIL 1 p
      d.spareEvent h 8 false (flNum (h, p)) 0 0 12 p (d.w h .EUL_ERR).toNat
    else if s.on h F.EUL_PCFG_LANE_AUTO p then
      let d := (((b.retrain h p).setF h F.EUL_PSTAT_LANE (1 - s.f h F.EUL_PSTAT_LANE p) p).setF h F.EUL_PSTAT_SPAREUSE 1 p).setF h
        F.EUL_ERR_LANESW 1
      d.spareEvent h 8 true (flNum (h, p)) 0 0 12 p (d.w h .EUL_ERR).toNat
    else if nth false (s.eport h p).laneBad (s.f h F.EUL_PSTAT_LANE p) then s
    else b.report h cOK 1 12 p (b.w h .EUL_ERR).toNat := by
  subst hb
  refine if_neg ?_
  obtain (hc | hc) | hc := hc
  · simp [hf, Nat.not_lt.2 hc]
  · simp [hf, Nat.not_lt.2 hc]
  · simp [hf, hc]

theorem laneFail_of_no_lane (ho : nth false (s.eport h p).laneBad (1 - s.f h F.EUL_PSTAT_LANE p) = true) (hr : c = b.retrain h p)
    (hd : d = c.setF h F.EUL_PSTAT_LANEFAIL 1 p) :
    laneFail h p s = d.spareEvent h 8 false (flNum (h, p)) 0 0 12 p (d.w h .EUL_ERR).toNat := by
  rw [laneFail_of_failed hf hc hb, if_pos ho, hd, hr]

section
variable (ho : nth false (s.eport h p).laneBad (1 - s.f h F.EUL_PSTAT_LANE p) = false)
include ho

theorem laneFail_of_auto (ha : s.on h F.EUL_PCFG_LANE_AUTO p = true) (hr : c = b.retrain h p)
    (hd : d = ((c.setF h F.EUL_PSTAT_LANE (1 - s.f h F.EUL_PSTAT_LANE p) p).setF h F.EUL_PSTAT_SPAREUSE 1 p).setF h F.EUL_ERR_LANESW 1) :
    laneFail h p s = d.spareEvent h 8 true (flNum (h, p)) 0 0 12 p (d.w h .EUL_ERR).toNat := by
  rw [laneFail_of_failed hf hc hb, if_neg (ne_true_of_eq_false ho), if_pos ha, hd, hr]

theorem laneFail_of_manual (ha : s.on h F.EUL_PCFG_LANE_AUTO p = false)
    (hk : nth false (s.eport h p).laneBad (s.f h F.EUL_PSTAT_LANE p) = false) :
    laneFail h p s = b.report h cOK 1 12 p (b.w h .EUL_ERR).toNat := by
  rw [laneFail_of_failed hf hc hb, if_neg (ne_true_of_eq_false ho), if_neg (ne_true_of_eq_false ha), if_neg (ne_true_of_eq_false hk)]
end
end

/-! ## Wraps (rules R387, R388) -/

section
variable (hw : s.on h F.EUL_PSTAT_WRAP p = true) (hu : s.portUp (h, p) = true)
include hw hu

theorem wrapHeal_of_ring (hc : s.islandPort h ≠ some p ∨ s.bridgeUp h = true) : wrapHeal h p s =
    ((s.modPort h p fun x => { x with wrap := false }).setF h F.EUL_PSTAT_WRAP 0 p).setF h F.EUL_ERR_HEALED 1 := by
  rw [wrapHeal, if_neg (by simp [hw, hu]), if_neg (by obtain hc | hc := hc <;> simp [hc])]

theorem wrapHeal_of_island (hi : s.islandPort h = some p) (hb : s.bridgeUp h = false) :
    wrapHeal h p s = s.modPort h p fun x => { x with wrap := false } := by
  rw [wrapHeal, if_neg (by simp [hw, hu]), if_pos (by simp [hi, hb])]
end

/-! ## Frames received (rules R377, R382, R384) -/

section
variable {e : FrameEnd} {f : EFrame} {tap : Nat} {res : Nat → Nat}

theorem eulFrameReceive_of_asleep (hr : 2 ≤ s.rung h) : eulFrameReceive h p e f tap res s = s.eulWake h p := if_pos hr

section
variable (hr : s.rung h < 2) (hu : s.portUp (h, p) = true) (hi : s.portInUse h p = true)
include hr hu hi

theorem eulFrameReceive_of_damaged (hg : e.good f.words = false ∨ f.nw ≠ f.pay.length ∨ 16 < f.nw) :
    eulFrameReceive h p e f tap res s = s.count h F.EUL_PCNT1_CRCERRS p := by
  rw [eulFrameReceive, if_neg (Nat.not_le.2 hr), if_neg (by simp [hu, hi])]
  exact if_pos (by obtain hg | hg | hg := hg <;> simp [hg])

variable (hg : e.good f.words = true) (hn : f.nw = f.pay.length) (hl : f.nw ≤ 16)
include hg hn hl

/-- A whole frame: a link's own frames wait here, the node's own are removed or sent on, and those of others are sent on and acted on. -/
theorem eulFrameReceive_of_whole : eulFrameReceive h p e f tap res s =
    if f.type = ftPDREQ || f.type = ftPDRESP then
      (if f.src == s.f h F.EUL_NODE_NODE then s.setF h F.EUL_ERR_DUPID 1 else s).hand h h p tap f
    else if f.src == s.f h F.EUL_NODE_NODE && !(s.f h F.EUL_NODE_TOPO != 2 && !s.bridgeUp h && !s.sawIt h f) then
      let ring := s.f h F.EUL_NODE_TOPO != 2
      let west := s.f h F.EUL_PCFG_ROLE p == 1
      let s1 := if ring && (west || f.wrapped) && s.sawIt h f then s else s.setF h F.EUL_ERR_DUPID 1
      if ring && (west || (s.toward h 1).all Prod.snd) then s1 else s1.forward h p f res
    else
      let s1 := s.forward h p f res
      if f.type = 0 || 6 < f.type || s.sawIt h f || !(f.bcast || f.dst == s.f h F.EUL_NODE_NODE) then s1 else s1.actOn h p tap f := by
  rw [eulFrameReceive, if_neg (Nat.not_le.2 hr), if_neg (by simp [hu, hi])]
  exact if_neg (by simp [hg, ← hn, hl])

theorem eulFrameReceive_of_delay (ht : f.type = ftPDREQ ∨ f.type = ftPDRESP) : eulFrameReceive h p e f tap res s =
    (if f.src = s.f h F.EUL_NODE_NODE then s.setF h F.EUL_ERR_DUPID 1 else s).hand h h p tap f := by
  rw [eulFrameReceive_of_whole hr hu hi hg hn hl, if_pos (by simpa using ht)]
  simp only [beq_iff_eq]

variable (hq : f.type ≠ ftPDREQ) (hp : f.type ≠ ftPDRESP)
include hq hp

theorem eulFrameReceive_of_foreign
    (hm : f.src ≠ s.f h F.EUL_NODE_NODE ∨ (s.f h F.EUL_NODE_TOPO ≠ 2 ∧ s.bridgeUp h = false ∧ s.sawIt h f = false))
    (hb : b = s.forward h p f res) : eulFrameReceive h p e f tap res s =
      if f.type = 0 ∨ 6 < f.type ∨ s.sawIt h f = true ∨ (f.bcast = false ∧ f.dst ≠ s.f h F.EUL_NODE_NODE) then b
      else b.actOn h p tap f := by
  subst hb
  have other : ¬ (f.src == s.f h F.EUL_NODE_NODE && !(s.f h F.EUL_NODE_TOPO != 2 && !s.bridgeUp h && !s.sawIt h f)) = true := by
    obtain hm | ⟨topo, bridge, seen⟩ := hm
    · simp [hm]
    · simp [topo, bridge, seen]
  rw [eulFrameReceive_of_whole hr hu hi hg hn hl, if_neg (by simp [hq, hp]), if_neg other]
  simp [or_assoc]

theorem eulFrameReceive_of_own {west ring : Bool} (hm : f.src = s.f h F.EUL_NODE_NODE)
    (hk : s.f h F.EUL_NODE_TOPO = 2 ∨ s.bridgeUp h = true ∨ s.sawIt h f = true) (hw : west = (s.f h F.EUL_PCFG_ROLE p == 1))
    (hg' : ring = (s.f h F.EUL_NODE_TOPO != 2))
    (hb : b = if ring && (west || f.wrapped) && s.sawIt h f then s else s.setF h F.EUL_ERR_DUPID 1) :
    eulFrameReceive h p e f tap res s = if ring && (west || (s.toward h 1).all Prod.snd) then b else b.forward h p f res := by
  have own : (f.src == s.f h F.EUL_NODE_NODE && !(s.f h F.EUL_NODE_TOPO != 2 && !s.bridgeUp h && !s.sawIt h f)) = true := by
    obtain hk | hk | hk := hk <;> simp [hm, hk]
  subst hb hw hg'
  rw [eulFrameReceive_of_whole hr hu hi hg hn hl, if_neg (by simp [hq, hp]), if_pos own]
end
end

/-! ## Fabric time by register (rule R394) -/

theorem fabWords_take (t : Int) : (fabWords t).take 2 = [nth 0 (fabWords t) 0, nth 0 (fabWords t) 1] := rfl

theorem Block.readFtlo_half (k : HalfId) : (s.readFtlo h).half k = s.half k :=
  Block.setW_half s h k .EUL_FTHI (nth 0 (fabWords (s.fabTime h (s.stepsAt h 0))) 0) 0 0

theorem Block.readFtlo_fthi : (s.readFtlo h).w h .EUL_FTHI = nth 0 (fabWords (s.fabTime h (s.stepsAt h 0))) 0 := Block.setW_w_same ..

end Sys2Proof.Machine

open Sys2Proof Sys2Proof.Machine

/-- Settles O12: a lane by its counts and the other lane, a wrap by the bridge, a frame by its end, type and source. -/
theorem fabricPortRowsComplete : Obligations.FabricPortRowsComplete :=
  ⟨fun s _ _ _ hf hc hb ho ha hk => s.next_with_blk_congr (laneFail_of_manual hf hc hb ho ha hk),
   fun s _ _ _ _ _ hf hc hb ho ha hr hd => s.next_with_blk_congr (laneFail_of_auto hf hc hb ho ha hr hd),
   fun s _ _ _ _ _ hf hc hb ho hr hd => s.next_with_blk_congr (laneFail_of_no_lane hf hc hb ho hr hd),
   fun s _ _ hu => s.next_with_blk_congr (if_pos hu),
   fun s _ _ hw hu hc => s.next_with_blk_congr (wrapHeal_of_ring hw hu hc),
   fun s _ _ hw hu hi hb => s.next_with_blk_congr (wrapHeal_of_island hw hu hi hb),
   fun s _ _ _ _ _ _ _ _ _ _ _ hr => s.next_with_blk_congr (eulFrameReceive_of_asleep hr),
   fun s _ _ _ _ _ _ _ _ _ _ hf hr hu hi hg => by
     subst hf
     exact s.next_with_blk_congr (eulFrameReceive_of_damaged hr hu hi hg),
   fun s _ _ _ _ _ _ _ _ _ _ hf hr hu hi hg hn hl ht => by
     subst hf
     exact s.next_with_blk_congr (eulFrameReceive_of_delay hr hu hi hg hn hl ht),
   fun s _ _ _ _ _ _ _ _ _ _ _ hf hr hu hi hg hn hl hq hp hm hb => by
     subst hf
     exact s.next_with_blk_congr (eulFrameReceive_of_foreign hr hu hi hg hn hl hq hp hm hb),
   fun s _ _ _ _ _ _ _ _ _ _ _ _ _ hf hr hu hi hg hn hl hq hp hm hk hw hg' hb => by
     subst hf
     exact s.next_with_blk_congr (eulFrameReceive_of_own hr hu hi hg hn hl hq hp hm hk hw hg' hb),
   fun _ _ hp => State.access_powered hp rfl,
   fun _ h hp => ⟨_, State.access_powered hp rfl, rfl, Block.readFtlo_half h, rfl, by
     rw [fabWords_take]
     exact congrArg (· :: _) Block.readFtlo_fthi⟩⟩
end


section
/-!
## EutenLink time, masters and angle frames (rules R385, R386, R388 to R390)
-/

namespace Sys2Proof.Machine

variable {s b c d : Block} {h : HalfId} {p q v rank : Nat} {f : EFrame} {rest : List (Nat × Nat × EFrame)}

/-! ## SYNC (rules R385, R386) -/

section
variable (hf : takeFrame ftSYNC (s.fab h).pend = some ((p, q, f), rest))
include hf

theorem syncReceive_of_master (hm : (s.on h F.EUL_TSTAT_TMASTER && s.speaks h) = true) :
    syncReceive h s = s.modFab h fun x => { x with pend := rest } := by
  simp only [syncReceive, hf]
  exact if_pos hm

theorem syncReceive_of_follower {x : Fabric} {t err : Int} {good : Nat} {rate : Frac}
    (hm : (s.on h F.EUL_TSTAT_TMASTER && s.speaks h) = false) (hx : x = s.fab h) (ht : t = syncTime f.pay)
    (he : err = if x.synced then stepsTo (s.fabTime h q) t else 0)
    (hg : good = if x.synced && decide (err.natAbs ≤ 51) then capNat 64 (x.good + 1) else 0)
    (hr : rate = if x.synced && decide (0 < stepsTo x.base t) && decide (0 < stepsTo x.at0 q) then
      frac (stepsTo x.base t) (stepsTo x.at0 q).toNat else ⟨1, 1⟩)
    (hb : b = (((s.modFab h fun x => { x with pend := rest }).modFab h fun x =>
      { x with base := t, at0 := q, rate := rate, synced := true, good := good }).setF h F.EUL_OFFERR_ERR
        (field 16 (clampInt 32767 err))).setF h F.EUL_TSTAT_HOLDOVER 0)
    (hc : c = if good = 64 then b.setF h F.EUL_TSTAT_LOCK 1 else b)
    (hd : d = if x.synced && s.f h F.EUL_TSTAT_TM_ID != f.src then c.setF h F.EUL_ERR_TMCHG 1 else c) :
    syncReceive h s = (d.setF h F.EUL_TSTAT_TM_ID f.src).setF h F.EUL_TSTAT_HOPSM (capNat 127 f.hops) := by
  subst hx ht he hg hr hb hc hd
  simp only [syncReceive, hf]
  exact if_neg (ne_true_of_eq_false hm)
end

theorem syncSend_of_master {tap : Nat} {r : Block × EFrame} (hr : s.fabRuns h = true) (hm : s.on h F.EUL_TSTAT_TMASTER = true)
    (hs : s.speaks h = true) (he : r = s.fabSend h ftSYNC 0 none (fabWords (s.fabTime h (s.stepsAt h tap)) ++ [0, 0])) :
    syncSend h tap s = if s.bridgeUp h then r.1.hand h h.peer 0 tap (r.2.onward 1 false) else r.1 := by
  subst he
  exact if_neg (by simp [hr, hm, hs])

theorem holdover_of_late (hr : s.fabRuns h = true) (hm : (s.on h F.EUL_TSTAT_TMASTER && s.speaks h) = false)
    (hh : s.on h F.EUL_TSTAT_HOLDOVER = false)
    (hc : (s.fab h).synced = false ∨ (12800000 : Int) ≤ stepsTo (s.fab h).at0 (s.stepsAt h 0)) :
    holdover h s = (((s.setF h F.EUL_TSTAT_HOLDOVER 1).setF h F.EUL_TSTAT_LOCK 0).setF h F.EUL_ERR_LOCKLOSS 1).modFab h fun x =>
      { x with good := 0 } := by
  refine if_neg ?_
  rw [hr, hm, hh]
  obtain hc | hc := hc
  · simp [hc]
  · simp [hc]

/-! ## Link delays (rule R386) -/

theorem pdreqReceive_of_frame {gap : Nat} (hf : takeFrame ftPDREQ (s.fab h).pend = some ((p, q, f), rest)) : pdreqReceive h gap s =
    (s.modFab h fun x => { x with pend := rest }).linkSend h p ftPDRESP f.src [wd (field 24 (-(gap : Int))), 0] := by
  simp only [pdreqReceive, hf]

theorem pdrespReceive_of_frame {sent e : Int} {ds : List Int} (hf : takeFrame ftPDRESP (s.fab h).pend = some ((p, q, f), rest))
    (hp : (s.eport h p).pdAt = some sent)
    (he : e = (stepsTo sent q + sext 24 (nth 0 f.pay 0).toNat) / 2 + sext 16 (s.f h F.EUL_PCFG_ASYM p))
    (hd : ds = (e :: (s.eport h p).delays).take 16) : pdrespReceive h s =
      ((s.modFab h fun x => { x with pend := rest }).modPort h p fun x => { x with delays := ds, pdAt := none }).setF h F.EUL_PSTAT_PDELAY
        (field 16 (ds.sum / (ds.length : Int))) p := by
  subst he hd
  simp only [pdrespReceive, hf, hp, List.sum_eq_foldl]

theorem pdelayMeasure_of_up {tap : Nat} (hu : s.portUp (h, p) = true) : pdelayMeasure h p tap s =
    (s.linkSend h p ftPDREQ 0 []).modPort h p fun x => { x with pdAt := some (s.stepsAt h tap) } :=
  if_neg (by simp [hu])

/-! ## Candidates (rule R389) -/

section
variable (hf : takeFrame ftANNOUNCE (s.fab h).pend = some ((p, q, f), rest)) (hv : v = (nth 0 f.pay 0).toNat)
include hf hv

theorem announceReceive_of_other_group (ha : bits v 19 19 = 1) (hg : f.group ≠ s.f h F.EUL_NODE_GROUP) :
    announceReceive h s = s.modFab h fun x => { x with pend := rest } := by
  subst hv
  simp only [announceReceive, hf]
  exact if_pos (Bool.and_eq_true_iff.2 ⟨beq_iff_eq.2 ha, bne_iff_ne.2 hg⟩)

section
variable {angle : Bool} (ha : angle = (bits v 19 19 == 1)) (hr : rank = rankOf angle (bits v 23 20) (bits v 18 16))
  (hg : f.group = s.f h F.EUL_NODE_GROUP ∨ angle = false)
include ha hr hg

/-- An announcement of the node's group, or of the time. -/
theorem announceReceive_of_group : announceReceive h s =
    if s.candidate h angle && !better rank f.src (s.ownRank h angle) (s.f h F.EUL_NODE_NODE) then
      (s.modFab h fun x => { x with pend := rest }).hears h angle rank f.src
    else ((s.modFab h fun x => { x with pend := rest }).hears h angle rank f.src).setF h
      (if angle then F.EUL_ASTAT_AMASTER else F.EUL_TSTAT_TMASTER) 0 := by
  subst hv hr
  simp only [announceReceive, hf, ← ha]
  exact if_neg (by obtain hg | hg := hg <;> simp [hg])

theorem announceReceive_of_worse (hc : s.candidate h angle = true)
    (hw : better rank f.src (s.ownRank h angle) (s.f h F.EUL_NODE_NODE) = false) :
    announceReceive h s = (s.modFab h fun x => { x with pend := rest }).hears h angle rank f.src := by
  rw [announceReceive_of_group hf hv ha hr hg, if_pos (by simp [hc, hw])]

theorem announceReceive_of_better
    (hc : s.candidate h angle = false ∨ better rank f.src (s.ownRank h angle) (s.f h F.EUL_NODE_NODE) = true) :
    announceReceive h s = ((s.modFab h fun x => { x with pend := rest }).hears h angle rank f.src).setF h
      (if angle then F.EUL_ASTAT_AMASTER else F.EUL_TSTAT_TMASTER) 0 := by
  rw [announceReceive_of_group hf hv ha hr hg, if_neg (by obtain hc | hc := hc <;> simp [hc])]
end
end

section
variable (hs : s.speaks h = true)
include hs

theorem announceSend_time (hc : s.candidate h false = true) : announceSend h false s =
    (s.fabSend h ftANNOUNCE 0 none [wd (s.f h F.EUL_PRI_TPRI * 2 ^ 20 + s.f h F.WTK_STAT_SYNC (s.src h) * 2 ^ 16)]).1 :=
  if_neg (by simp [hc, hs])

theorem announceSend_angle (hc : s.candidate h true = true) : announceSend h true s =
    (s.fabSend h ftANNOUNCE (s.f h F.EUL_NODE_GROUP) none
      [wd (s.f h F.EUL_PRI_APRI * 2 ^ 20 + 2 ^ 19 + s.f h F.WTK_STAT_SYNC (s.src h) * 2 ^ 16)]).1 :=
  if_neg (by simp [hc, hs])

theorem masterElect_angle (hc : s.candidate h true = true) (hu : s.unopposed h true = true) (hm : s.on h F.EUL_ASTAT_AMASTER = false) :
    masterElect h true s = (s.nodeHalves h).foldl (fun b k => (((b.setF k F.EUL_ASTAT_AMASTER 1).setF k F.EUL_ASTAT_AVALID 1).setF k
      F.EUL_ASTAT_AM_ID (s.f h F.EUL_NODE_NODE)).setF k F.EUL_ERR_AMCHG 1) s :=
  (if_neg (by simp [hc, hs, hu])).trans (if_neg (ne_true_of_eq_false hm))

theorem masterElect_time (hc : s.candidate h false = true) (hu : s.unopposed h false = true) (hm : s.on h F.EUL_TSTAT_TMASTER = false) :
    masterElect h false s = ((s.nodeHalves h).foldl (fun b k => (((b.setF k F.EUL_TSTAT_TMASTER 1).setF k F.EUL_TSTAT_TM_ID
      (s.f h F.EUL_NODE_NODE)).setF k F.EUL_TSTAT_HOPSM (if k = h then 0 else 1)).setF k F.EUL_ERR_TMCHG 1) s).modFab h fun x =>
        { x with base := s.stepsAt h 0, at0 := s.stepsAt h 0, rate := ⟨1, 1⟩, synced := true } :=
  (if_neg (by simp [hc, hs, hu])).trans (if_neg (ne_true_of_eq_false hm))
end

/-! ## ANGLE frames (rule R390) -/

section
variable (hf : takeFrame ftANGLE (s.fab h).pend = some ((p, q, f), rest))
  (hb : b = if s.on h F.EUL_PHCFG_EN && f.group == s.f h F.EUL_PHCFG_REFGRP then
      (s.modFab h fun x => { x with pend := rest }).modFab h fun x => { x with ref := some (f.pay, (s.half h).tsc) }
    else s.modFab h fun x => { x with pend := rest })
include hf hb

theorem angleReceive_of_other_group (hg : f.group ≠ s.f h F.EUL_NODE_GROUP) : angleReceive h s = b := by
  subst hb
  simp only [angleReceive, hf]
  exact if_pos (by simpa using hg)

variable (hg : f.group = s.f h F.EUL_NODE_GROUP)
  (hc : c = ((if s.f h F.EUL_ASTAT_AM_ID != f.src && s.on h F.EUL_ASTAT_AVALID then b.setF h F.EUL_ERR_AMCHG 1 else b).setF h
    F.EUL_ASTAT_AVALID 1).setF h F.EUL_ASTAT_AM_ID f.src)
include hg hc

/-- A frame of the own group names the angle master, and goes to a follower clock of the same cycle length. -/
theorem angleReceive_of_group : angleReceive h s =
    if !s.on h F.ANG_CTRL_SRC then c
    else if bits (nth 0 f.pay 0).toNat 18 18 != s.f h F.ANG_CTRL_CYCLE then c.setF h F.EUL_ERR_CYCERR 1
    else c.modFab h fun x => { x with queue := x.queue ++ [(f.pay, f.src, (s.half h).tsc)] } := by
  subst hb hc
  simp only [angleReceive, hf]
  exact if_neg (by simp [hg])
end

end Sys2Proof.Machine

open Sys2Proof Sys2Proof.Machine

/-- Settles O13: a frame that waits by its type, its sender and the node's own state, and what a master or candidate sends. -/
theorem fabricTimeRowsComplete : Obligations.FabricTimeRowsComplete :=
  ⟨fun s _ _ _ _ _ hf hm => s.next_with_blk_congr (syncReceive_of_master hf hm),
   fun s _ _ _ _ _ _ _ _ _ _ _ _ _ hf hm hx ht he hg hr hb hc hd => s.next_with_blk_congr
     (syncReceive_of_follower hf hm hx ht he hg hr hb hc hd),
   fun s _ _ _ _ _ _ hf => s.next_with_blk_congr (pdreqReceive_of_frame hf),
   fun s _ _ _ _ _ _ _ _ hf hp he hd => s.next_with_blk_congr (pdrespReceive_of_frame hf hp he hd),
   fun s _ _ _ _ _ _ _ hf hv ha hr hc => s.next_with_blk_congr
     (announceReceive_of_better hf hv (by simp [ha]) hr (.inr rfl) hc),
   fun s _ _ _ _ _ _ _ hf hv ha hr hg hc => s.next_with_blk_congr (announceReceive_of_better hf hv (by simp [ha]) hr (.inl hg) hc),
   fun s _ _ _ _ _ _ _ _ hf hv ha hr hg hc hw => s.next_with_blk_congr (announceReceive_of_worse hf hv ha hr hg hc hw),
   fun s _ _ _ _ _ _ hf hv ha hg => s.next_with_blk_congr (announceReceive_of_other_group hf hv ha hg),
   fun s _ _ _ _ _ _ hf hb hg => s.next_with_blk_congr (angleReceive_of_other_group hf hb hg),
   fun s _ _ _ _ _ _ _ hf hb hg hc hs => s.next_with_blk_congr
     ((angleReceive_of_group hf hb hg hc).trans (if_pos (by simp [hs]))),
   fun s _ _ _ _ _ _ _ hf hb hg hc hs hy => s.next_with_blk_congr
     ((angleReceive_of_group hf hb hg hc).trans ((if_neg (by simp [hs])).trans (if_pos (by simpa using hy)))),
   fun s _ _ _ _ _ _ _ hf hb hg hc hs hy => s.next_with_blk_congr
     ((angleReceive_of_group hf hb hg hc).trans ((if_neg (by simp [hs])).trans (if_neg fun hn => bne_iff_ne.1 hn hy))),
   fun s _ _ _ hr hm hs he => s.next_with_blk_congr (syncSend_of_master hr hm hs he),
   fun s _ _ _ hu => s.next_with_blk_congr (pdelayMeasure_of_up hu),
   fun s _ hc hs => s.next_with_blk_congr (announceSend_time hs hc),
   fun s _ hc hs => s.next_with_blk_congr (announceSend_angle hs hc),
   fun s _ hc hs hu hm => s.next_with_blk_congr (masterElect_angle hs hc hu hm),
   fun s _ hc hs hu hm => s.next_with_blk_congr (masterElect_time hs hc hu hm),
   fun s _ hr hm hh hc => s.next_with_blk_congr (holdover_of_late hr hm hh hc)⟩
end
